-- ==== Sys2Proof/Word.lean ====
section
/-! DEFINITION. The word types of the device and their plainest arithmetic (00_scope.md, R10). -/

namespace Sys2Proof

/-- A 32-bit register or element. -/
abbrev Word := BitVec 32

/-- The smallest addressable unit of memory (R10). -/
abbrev Byte := BitVec 8

/-- Sparse data by key: strictly rising keys, no entry equal to what an unlisted key reads as. -/
abbrev Store (w : Nat) := List (Nat × BitVec w)

end Sys2Proof
end

