-- ==== Sys2Proof/Parts/Launch.lean ====
section
/-! DEFINITION. The state of the launch dispatcher: launches, events and completions, barriers, flag increments
(01_structure.md, 05_convolution_vae.md, 09_launches_preemption.md, 12_latch_transport.md). -/

namespace Sys2Proof.Machine

/-- Where a launch stands (R376, R380, R383, R396). -/
inductive LState where
  | waiting | running | stopping | saved | restoring | halted | aborting
  deriving DecidableEq, Repr

/-- What began a stop (R394); an abort has the command that asked for it. -/
inductive StopCause where
  | command (ring : Nat) (cid : Word) | slice | take | abort (ring : Nat) (cid : Word)
  deriving DecidableEq, Repr

/-- An accepted launch that has not ended (R375, R376). -/
structure Launch where
  lid : BitVec 32
  ring : Nat
  cid : Word
  /-- The 2 KiB header of the record (Table 9.1), byte 0 first. -/
  hdr : List Byte
  /-- The step roster (Table 9.2), entries in order. -/
  roster : List (BitVec 512)
  st : LState
  /-- Whether units of the launch have been dispatched at least once. -/
  begun : Bool
  /-- Whether the start time of a timed launch has been released (R364). -/
  released : Bool
  /-- The fault code of a halted launch. -/
  fault : Nat
  /-- Array cycles during which the launch has been dispatched (R754). -/
  ran : Nat
  /-- Slice time left, in management cycles; 0 when the launch has no slice (R391). -/
  sliceLeft : Nat
  /-- What began the stop in progress, whether its save is partial, and when it began (R390, R394). -/
  stop : Option (StopCause × Bool × Nat)
  /-- A RESUME command waiting for its restore (R559). -/
  resume : Option (Nat × Word)
  /-- Overrun of the stop in progress, in management cycles (R394). -/
  overrun : Nat
  deriving DecidableEq, Repr

/-- One of the 32 barriers (R47-R53): arrived blocks, and the cycles of the first and last arrival. -/
structure Barrier where
  arrived : List Nat
  lid : BitVec 32
  firstRan : Nat
  lastCyc : Nat
  deriving DecidableEq, Repr

/-- Units that issue stores and flag increments, or wait on flags (R225, R752). -/
inductive WaitUnit where
  | blk (n : Fin 48) | sce (r : Fin 8) | rve (r : Fin 8) | smp (h : Fin 2) | vse (h : Fin 2) | net | mgmt
  deriving DecidableEq, Repr

/-- The device itself: its network port and its management controller work for no launch. -/
def WaitUnit.own : WaitUnit → Bool
  | .net | .mgmt => true
  | _ => false

/-- Who makes a memory request: the launch, the unit, and the index of its instruction or descriptor (R419, R758). -/
structure Asker where
  lid : BitVec 32
  unit : WaitUnit
  idx : Nat
  deriving DecidableEq, Repr

/-- A flag wait that a list engine has begun (R230, R244, R331, R349): the flag, its target, and the launch's count of
array cycles at its start (R754). -/
structure FlagWait where
  rgn : Fin 8
  flag : Fin 64
  target : Nat
  since : Nat
  deriving DecidableEq, Repr

/-- The run of a list engine (SCE, RVE, sampler, stream engine): its launch, list address, the index of the current
entry, the flag wait begun for it, the partials of a waiting TADD in the order they became ready, each with the management cycle in
which it did (R350), the lane round or element group of the entry that is next (Table 9.5), and whether a fault stopped it or it reached its END (R233, R326, R452, R753). -/
structure ListRun where
  lid : Option (BitVec 32)
  base : Nat
  idx : Nat
  waiting : Option FlagWait
  ready : List (Nat × Nat)
  part : Nat
  stopped : Bool
  finished : Bool
  deriving DecidableEq, Repr, Inhabited

def ListRun.idle : ListRun :=
  { lid := none, base := 0, idx := 0, waiting := none, ready := [], part := 0, stopped := false, finished := false }

/-- A flag increment requested and not yet made; `before` counts the unit's earlier stores still to be accepted
(R225). -/
structure FlagReq where
  src : WaitUnit
  idx : Nat
  lid : BitVec 32
  rgn : Fin 8
  flag : Fin 64
  inc : Nat
  before : Nat
  deriving DecidableEq, Repr

/-- A completion entry waiting to be written (Table 12.7, R551). -/
structure Completion where
  kind : Nat
  ring : Nat
  code : Nat
  cid : Word
  lid : Word
  aux2 : Nat
  data : List Byte
  deriving DecidableEq, Repr

end Sys2Proof.Machine
end

