-- ==== Sys2Proof/RegNames.lean ====
section
/-! DEFINITION. The names of the device's registers (17_register_map.md, R741, R742), their access codes
(R11) and the configuration groups (R740). -/

namespace Sys2Proof

/-- One name for each register, or array of like registers, of the register index (R741, R742). -/
inductive Reg where
  | devId0 | devId1 | devFw | devSn0 | devSn1 | devMem
  | devMode | devCommit | devDtc0 | devDtc1 | devPrestat | devOvrun
  | clkStat | clkRef | clkDiv | tmbKey0 | tmbKey1 | tmbCommit
  | tmbStat | cnpInv | cnpInvstat | smpStat | smpFault | vseCfg
  | vseCommit | vseStat | vseFault | vseDerr | vseRcev | memCap
  | memCfg | memCfgCommit | memMscflush | memFrcCommit | memFrcStat | memJobCommit
  | memJobres | memMscwaysLo | memMscwaysHi | memFrcwin0 | memFrcwin1 | memFrcwin2
  | memFrcwin3 | netStat | netPtpofs | netErr | netMac0 | netMac1
  | netPpsts0 | netPpsts1 | netCfg | netCommit | latCfg | latCommit
  | latStat | latTkey | krgCtl | krgSrc | krgSrclen | krgStat
  | krgBoot | krgRetire | krgUnretire | krgBlkrst | krgWear | krgBlkmap
  | lkpStat | lkpCtl | lkpReq | lkpOut | lkpGen | lkpGrant
  | lkpFuse | lkpNonce | hltTemp | hltPwr | hltPcapb | hltPcapd
  | hltDuty | hltEvt | hltCfg | hltCommit | hltWear | hltEcc
  | hltCtl | hltAddr | hltLen | hltCrc | latWin0 | latWin1
  | latWin2 | latWin3 | blkCfg | blkCommit | blkSeqstat | blkPc
  | blkWardcnt | blkWardlog | blkWardpc | blkEcc | blkTest | blkTfault
  | blkTfpc | blkNoopcnt | rgnCommit | cnpBase | cnpCommit | cnpHit
  | cnpMiss | cnpFault | rgnCnpways0 | rgnCnpways1 | rgnFlagfault | sceStat
  | sceFault | sceDone | rveTrnbase | rveAmxbase | rveTrncfg | rveCommit
  | rveTrnstat | rveFbcnt | rveRndstat | rveRedstat | rgnRun | rgnTurn
  | rgnTurnstat | stkStat | stkChmap | stkMapreq | stkUnmap | stkCorr
  | stkUnc | stkElog | stkEaddr | optLane | optSpare
  deriving DecidableEq, Repr

/-- The access codes of Table 0.6 (R11), and reserved fields (R13). -/
inductive Access where
  | rw | ro | wo | w1c | rc | lk | rsvd
  deriving DecidableEq, Repr

/-- One field of a register: its bits `hi` to `lo`, its access code and its reset value. -/
structure Field where
  hi : Nat
  lo : Nat
  acc : Access
  rst : Nat
  deriving DecidableEq, Repr

/-- The register windows of Table 17.2 (R725). -/
inductive Window where
  | device | block | region | stack
  deriving DecidableEq, Repr

/-- The configuration groups of Table 17.6 (R740). -/
inductive Group where
  | dev | tmb | hlt | blk (n : Fin 48) | rgn (n : Fin 8) | cnp (n : Fin 8) | rve (n : Fin 8)
  | memCfg | memJob | memFrc | vse (h : Fin 2) | net | lat
  deriving DecidableEq, Repr

end Sys2Proof
end

