-- ==== Sys2Proof/Parts/Cmd.lean ====
section
/-! DEFINITION. Operand types of the commands. -/

namespace Sys2Proof

/-- What an access met: nothing; a single-bit error that is corrected, or an uncorrectable error, in the block store
that BLKn_ECC.LAST_UNIT numbers (R93, Table 2.15); or such an error in a region-buffer or Canopy-cache word (`region`)
or in a fabric word (`fabric`), uncorrectable when `bad` (Table 15.2); or a burst of memory that fails both of its reads
(`memory`, R418). -/
inductive Upset where
  | none
  | single (store : Fin 6)
  | double (store : Fin 6)
  | region (bad : Bool)
  | fabric (bad : Bool)
  | memory (dpa : Nat)
  deriving DecidableEq, Repr

/-- What went wrong while a pair partial drained: nothing, an array or ward upset that changed one element of one
part (xor mask), or the duplicated adders disagreeing once or twice (R70, R87). -/
inductive DrainUpset where
  | none
  | flip (part elt : Nat) (mask : BitVec 32)
  | adder (twice : Bool)
  | buffer (store : Fin 6)
  deriving DecidableEq, Repr

/-- Which path a register access came by (R710, R730). -/
inductive RegPath where
  | latch | i3c
  deriving DecidableEq, Repr

/-- What a read of a burst met: the transmitted symbols in error (Table 10.3), and whether the address symbols disagree (R416,
R417); which symbols are erased follows from the stack's own lane state. On a hit of the memory-side cache `syms` has one
entry for each bit in error in a sector of the line (R447). -/
structure BurstErr where
  syms : List Nat
  addrBad : Bool
  deriving DecidableEq, Repr

/-- The direction of a memory link: reads from the stack, or writes to it (Table 10.5). -/
inductive LinkDir where
  | read | write
  deriving DecidableEq, Repr, Inhabited

/-- What happens on a write link (R423): a lane's receiver reports loss of light or lock; or the write frame that is being sent fails its
check, and, should that be the third time in succession, the retraining finds a lane at fault, or none. -/
inductive WriteFault where
  | lost (lane : Fin 33)
  | frame (found : Option (Fin 33))
  deriving DecidableEq, Repr

/-- The traffic classes of the Hinge (Table 1.2). -/
inductive HingeClass where
  | control | request | response | network | save
  deriving DecidableEq, Repr

/-- A Hinge beat: its class, whether it uses both of its 512-byte slots (Table 1.3), the units between which it goes, and its number
among the beats of its class between them (R27). -/
structure HingeBeat where
  cls : HingeClass
  two : Bool
  src : Machine.WaitUnit
  dst : Machine.WaitUnit
  seq : Nat
  deriving DecidableEq, Repr

/-- What a training of the Hinge finds: data wires at fault, by direction, and whether the link trains at half width where more are at
fault than spares can replace (Table 1.3). -/
structure HingeTrain where
  faulty : List (Fin 2 × Fin 8192)
  half : Bool
  deriving DecidableEq, Repr, Inhabited

/-- Where a received frame is addressed (R511). -/
inductive FrameDst where
  | mine | group | other
  deriving DecidableEq, Repr

/-- What a received frame carries, as far as the port itself acts on it (Table 12.1): a RoCE packet of a connection, with whether its
ICRC is good and it is marked CE, and whether it acknowledges what the device sent; a RoCE request with an opcode that the device does
not execute (R513); an ARP request for an IPv4 address; a neighbour solicitation for an IPv6 address; an ICMP or ICMPv6 echo request;
a datagram to a port on which the device does not listen; a fragment; or something else. -/
inductive FrameBody where
  | roce (qp : BitVec 24) (icrcOk ce ack : Bool)
  | badOp (qp : BitVec 24) (icrcOk ce : Bool)
  | arp (ip : BitVec 32)
  | ndp (ip : BitVec 128)
  | echo (v6 : Bool) (bytes : List (BitVec 8))
  | noPort (v6 : Bool)
  | fragment
  | other
  deriving DecidableEq, Repr

/-- A received frame; `depth` is what the receive buffer holds once the frame is in it, in bytes, and `vlan` its IEEE 802.1Q tag, if it
has one (R511, R512, Table 12.1). -/
structure Frame where
  fcsOk : Bool
  len : Nat
  dst : FrameDst
  body : FrameBody
  depth : Nat
  vlan : Option (BitVec 12) := none
  deriving DecidableEq, Repr

/-- A received PFC frame of the device's priority: its quanta, and what the receive buffer holds (R512). -/
structure PfcIn where
  quanta : BitVec 16
  depth : Nat
  deriving DecidableEq, Repr

/-- The payload of an RDMA WRITE; `fab` says that a fabric word of it fails its check on the way to memory (R656). -/
structure Payload where
  bytes : List (BitVec 8)
  fab : Bool := false
  deriving DecidableEq, Repr

/-- A PTP Announce: its domain, and the data set that the best master clock algorithm compares, lowest first (R527). -/
structure PtpAnn where
  domain : Nat
  rank : List Nat
  deriving DecidableEq, Repr

/-- A Sync measured: its domain, the filtered offset in ns, the Sync interval in management cycles, the frequency correction in parts
per 10^9 that the servo has come to, and the offset of REFCLK from the master in 0.01 ppm (R527, R528, R530, Table 17.5). -/
structure PtpMeas where
  domain : Nat
  off : Int
  interval : Nat
  freq : Int
  ref : Int := 0
  deriving DecidableEq, Repr

/-- A command of a unit of a region or of a half, and what its accesses meet (Table 15.2). -/
structure RgnCmd where
  r : Fin 8
  u : Upset := .none
  deriving DecidableEq, Repr

structure HalfCmd where
  h : Fin 2
  u : Upset := .none
  deriving DecidableEq, Repr

/-- Whether the images that a grant writes read back as written: the first, and for a change of owner the second (R636, R644). -/
structure ReadBack where
  first : Bool
  second : Bool := true
  deriving DecidableEq, Repr

/-- A store among those waiting, and what its delivery meets (Table 15.2). -/
structure StoreCmd where
  k : Nat
  u : Upset := .none
  deriving DecidableEq, Repr

/-- What start-up finds (Table 13.4): REFCLK and the PLL lock; the fuse banks' check bits; the self-test of the management
controller and Lockplate; the physical blocks and the Tumbler units (8 RVEs, 2 samplers) that fail theirs; the Hinge's
training; lanes that do not lock, as stack, direction and physical lane; the throttle threshold of each stack; data TSVs that have failed,
as stack, channel and TSV; the bias at which each lane locks, in the order of the lane entries (R676); whether the link partner is
there. -/
structure BootEnv where
  refclk : Bool
  fuseOk : Bool
  mgmtOk : Bool
  blkFail : BitVec 56
  kat : BitVec 10
  hinge : HingeTrain
  lanes : List (Fin 24 × LinkDir × Fin 72)
  tt : List Int
  tsv : List (Fin 24 × Fin 16 × Fin 96)
  bias : List Nat := []
  link : Bool
  deriving DecidableEq, Repr, Inhabited

/-- What a JTAG debug access aims at (R650): the management controller's debug port, or device memory. -/
inductive DbgAccess where
  | port
  | read (dpa : Nat)
  | write (dpa : Nat) (b : BitVec 8)
  deriving DecidableEq, Repr

end Sys2Proof
end

