-- ==== Sys2Proof/Syntax.lean ====
section
/-! DEFINITION. The commands: one constructor for each row of spec/opcode_table.json, with the row's operands. -/

namespace Sys2Proof

/-- A command: an outside input, or one indivisible step of a unit of the device. -/
inductive Instr where
  /-- LDT (R129): Loads a tile into an operand-buffer bank or the scratchpad, writing zeros for elements that are
  not valid. -/
  | ldt (b : Fin 48) (u : Upset)
  /-- STT (R132): Stores the valid elements of a tile to the region buffer or to memory. -/
  | stt (b : Fin 48) (u : Upset)
  /-- MMF (R58): Computes one 128x128 matrix product tile, chunk by chunk, into an accumulator slot. -/
  | mmf (b : Fin 48) (u : Upset)
  /-- MMH (R78): Computes two 128x64 products that share their A operand. -/
  | mmh (b : Fin 48) (u : Upset)
  /-- MMQ (R79): Computes four independent 64x64 products that share row and column lanes. -/
  | mmq (b : Fin 48) (u : Upset)
  /-- MMV (R80): Computes an Mx128 product for M of 1-16, using eight groups of 16 rows. -/
  | mmv (b : Fin 48) (u : Upset)
  /-- CVI (R214): Implicit-GEMM convolution that gathers its A operand from the input map. -/
  | cvi (b : Fin 48) (u : Upset)
  /-- CVD (R220): Depthwise or grouped convolution over one 128-channel tile. -/
  | cvd (b : Fin 48) (u : Upset)
  /-- ATS (R162): Forms an attention score tile and drains it through scale, mask and online softmax. -/
  | ats (b : Fin 48) (u : Upset)
  /-- ATV (R166): Multiplies the probabilities by the values of one page and folds the result into O. -/
  | atv (b : Fin 48) (u : Upset)
  /-- RSC (R171): Rescales, merges or normalises an attention accumulator slot, as its MODE selects. -/
  | rsc (b : Fin 48) (u : Upset)
  /-- DRN (R151): Passes an accumulator slot through the drain-chain stages and converts it to OFMT. -/
  | drn (b : Fin 48) (u : Upset)
  /-- SYN (R98): Arrives at an internal barrier once every earlier instruction has completed. -/
  | syn (b : Fin 48)
  /-- SFL (R225): Requests an increment of a counting flag once earlier stores have been accepted. -/
  | sfl (b : Fin 48)
  /-- WFL (R226): Waits until a flag is at least a target value. -/
  | wfl (b : Fin 48)
  /-- FIN (R748): Ends the block's program. -/
  | fin (b : Fin 48)
  /-- INSTRUCTION_DISPATCH (R97): The sequencer dispatches the next instruction once its resources are free and it
  passes the issue checks. -/
  | instructionDispatch (b : Fin 48)
  /-- LINE_FETCH (R94): A 1,024-byte program line fetch completes into the instruction queue. -/
  | lineFetch (b : Fin 48) (u : Upset)
  /-- CHUNK_COMPLETE (R67): A K chunk completes and, for an odd chunk, is combined with its pair into a pair
  partial. -/
  | chunkComplete (b : Fin 48)
  /-- PAIR_PARTIAL_DRAIN (R72): A pair partial drains through the ward checks, and the checked partial passes on. -/
  | pairPartialDrain (b : Fin 48) (u : DrainUpset)
  /-- WARD_REPLAY (R88): After the chunk in progress finishes, the failed pair is recomputed from the buffered
  operands. -/
  | wardReplay (b : Fin 48)
  /-- BARRIER_ARRIVE (R47): A block's arrival counts once its earlier stores have been accepted. -/
  | barrierArrive (b : Fin 48)
  /-- BARRIER_RELEASE (R48): All participants are released 96 array cycles after the last arrival. -/
  | barrierRelease (i : Fin 32)
  /-- BARRIER_TIMEOUT (R53): A participant has not arrived 2^24 array cycles after the first arrival; the launch
  halts. -/
  | barrierTimeout (i : Fin 32)
  /-- BCAST_SEND (R136): The region buffer sends a broadcast tile once every participant has issued its LDT. -/
  | bcastSend (c : RgnCmd)
  /-- BCAST_TIMEOUT (R137): A broadcast participant has not issued within 2^24 array cycles; the launch halts. -/
  | bcastTimeout (r : Fin 8)
  /-- FLAG_INCREMENT (R225): The region adds VAL to a flag once the issuing block's stores have been accepted. -/
  | flagIncrement (k : Nat)
  /-- WFL_COMPLETE (R226): A waited flag reaches its target and the wait completes. -/
  | wflComplete (b : Fin 48)
  /-- FLAG_TIMEOUT (R230): A flag wait has not completed within 2^24 array cycles; the launch halts. -/
  | flagTimeout (q : Machine.WaitUnit)
  /-- CANOPY_CACHE_FILL (R192): The memory read for a Canopy cache miss returns and fills the line. -/
  | canopyCacheFill (r : Fin 8) (u : Upset)
  /-- CNP_INV_ENTRY (R200): A write to CNP_INV queues the invalidation of one table entry. -/
  | cnpInvEntry (v : BitVec 32)
  /-- CNP_INV_ALL (R200): A write of ALL to CNP_INV requests the invalidation of every entry. -/
  | cnpInvAll
  /-- CNP_INV_APPLY (R199): A region applies its pending invalidations between launches, or once it is idle. -/
  | cnpInvApply (r : Fin 8)
  /-- BUCKET_SORT (R201): The region vector engine sorts the roster by length bucket. -/
  | bucketSort (r : Fin 8)
  /-- SCE_CONV (R241): The shallow-channel engine executes a CONV descriptor. -/
  | sceConv (c : RgnCmd)
  /-- SCE_END (R233): The SCE stops at an END descriptor. -/
  | sceEnd (r : Fin 8)
  /-- SCE_WAIT_SATISFIED (R244): The flag an SCE descriptor waits on reaches its target. -/
  | sceWaitSatisfied (r : Fin 8)
  /-- UWR (R291): Computes the squared update-to-weight ratio into a layer record. -/
  | uwr (c : RgnCmd)
  /-- LREXP (R292): Computes the exponent offset of an update and writes its scale words. -/
  | lrexp (c : RgnCmd)
  /-- AMXP (R293): Pushes an amax value into an amax history record. -/
  | amxp (c : RgnCmd)
  /-- SPREP (R294): Derives the next delayed scale from the amax history, or from the probe. -/
  | sprep (c : RgnCmd)
  /-- GCVT (R273): Narrows FP32 gradients with stochastic rounding. -/
  | gcvt (c : RgnCmd)
  /-- BERN (R319): Writes dropout mask tiles. -/
  | bern (r : Fin 8)
  /-- UNIF (R320): Writes uniform variates. -/
  | unif (r : Fin 8)
  /-- GAUS (R320): Writes Gaussian variates. -/
  | gaus (r : Fin 8)
  /-- NOISE (R324): Writes per-request Gaussian noise keyed on each request's seed and step. -/
  | noise (r : Fin 8)
  /-- TADD (R348): Combines partials in the canonical tree, or in arrival order when ARRIVE is set. -/
  | tadd (c : RgnCmd) (cycles : List Nat)
  /-- SADD (R351): Scatter-adds source rows into destination rows. -/
  | sadd (c : RgnCmd)
  /-- RVE_END (R753): An END entry ends the RVE list. -/
  | rveEnd (r : Fin 8)
  /-- SAMPLE (R326): The sampler starts a SAMPLE descriptor over rows of logits. -/
  | sample (h : Fin 2)
  /-- SAMPLER_ROW (R328): The sampler selects a token for one row and writes its result record. -/
  | samplerRow (c : HalfCmd)
  /-- SMP_END (R326): The sampler stops at an END descriptor. -/
  | smpEnd (h : Fin 2)
  /-- ESES (R456): Opens an encode session. -/
  | eses (c : HalfCmd)
  /-- EPIC (R471): Encodes one picture row by row under the buffer model. -/
  | epic (c : HalfCmd)
  /-- DSES (R456): Opens a decode session. -/
  | dses (c : HalfCmd)
  /-- DAU (R495): Decodes one access unit or temporal unit and writes its output pictures. -/
  | dau (c : HalfCmd)
  /-- DFLUSH (R452): Outputs every held picture and empties the decoded picture buffer. -/
  | dflush (c : HalfCmd)
  /-- VSE_END (R452): The stream engine stops at an END descriptor. -/
  | vseEnd (h : Fin 2)
  /-- LAUNCH (R375): The LAUNCH command reads a launch record and accepts or refuses it. -/
  | launch (ring : Fin 16)
  /-- LAUNCH_DISPATCH (R377): The dispatcher dispatches a ready launch to its resources. -/
  | launchDispatch (katFail : List (BitVec 8))
  /-- TIMED_LAUNCH_RELEASE (R364): The device time counter reaches TSTART and a timed launch is released. -/
  | timedLaunchRelease (lid : BitVec 32)
  /-- LAUNCH_COMPLETE (R379): All units have finished and stores are accepted, so the completion is posted. -/
  | launchComplete (lid : BitVec 32)
  /-- STOP (R380): The STOP command stops a launch at its pre-emption points with a save. -/
  | stop (ring : Fin 16)
  /-- ABORT (R395): The ABORT command stops a launch without saving. -/
  | abort (ring : Fin 16)
  /-- RESUME (R559): The RESUME command restores a saved launch from its save area. -/
  | resume (ring : Fin 16)
  /-- REGRD (R561): Reads up to eight consecutive registers. -/
  | regrd (ring : Fin 16)
  /-- REGWR (R562): Writes up to eight registers in ascending order, stopping at the first refusal. -/
  | regwr (ring : Fin 16)
  /-- MARK (R553): Completes when every earlier command of its ring has completed. -/
  | mark (ring : Fin 16)
  /-- NOP (R553): Completes at once. -/
  | nop (ring : Fin 16)
  /-- SAVE_COMPLETE (R383): The save of a stopped launch finishes writing its context image. -/
  | saveComplete (lid : BitVec 32)
  /-- RESTORE_COMPLETE (R396): A restore finishes reading and checking the image, or fails with LNC_IMAGE. -/
  | restoreComplete (lid : BitVec 32)
  /-- SLICE_END (R392): A launch's slice timer expires; the end is reported and a new slice starts. -/
  | sliceEnd (lid : BitVec 32)
  /-- TURN_END (R398): A logical block's turn on a shared physical block ends. -/
  | turnEnd (p : Fin 56)
  /-- TURN_SWITCH (R399): The outgoing section is written and the next logical block's section is read. -/
  | turnSwitch (p : Fin 56)
  /-- MEMORY_READ (R417): A burst read is decoded and corrected, or found uncorrectable. -/
  | memoryRead (dpa : Nat) (q : Machine.Asker) (e : BurstErr)
  /-- MEMORY_REREAD (R418): The second read of a burst found uncorrectable returns and is decoded. -/
  | memoryReread (k : Nat) (e : BurstErr)
  /-- MEMORY_WRITE (R410): A burst write is accepted by the cache or the write queue. -/
  | memoryWrite (c : StoreCmd)
  /-- READ_MODIFY_WRITE (R134): A partial-burst store is performed as a serialised read-modify-write. -/
  | readModifyWrite (c : StoreCmd) (e : BurstErr)
  /-- PATROL_SCRUB (R421): The controller scrub-reads a burst and writes it back if it was corrected. -/
  | patrolScrub (dpa : Nat) (e : BurstErr)
  /-- REFRESH (R438): A due refresh of a stack is performed. -/
  | refresh (st : Fin 24)
  /-- STACK_TEMP_SAMPLE (R437): The controller samples a stack temperature every 100 us and sets refresh and
  throttle level. -/
  | stackTempSample (st : Fin 24) (t : Int)
  /-- STACK_SENSOR_FAIL (R442): A stack's temperature report fails, so it runs at level 3 with the fastest refresh. -/
  | stackSensorFail (st : Fin 24)
  /-- READ_LANE_FAIL (R422): A read lane fails; it is erased, spared or narrowed as Table 10.5 gives. -/
  | readLaneFail (st : Fin 24) (lane : Fin 72)
  /-- WRITE_LANE_FAIL (R423): A write lane fails; it is spared or the link is narrowed. -/
  | writeLaneFail (st : Fin 24) (lane : WriteFault)
  /-- SPARE_SWITCH_IN (R424): A trained spare lane takes over at a burst boundary. -/
  | spareSwitchIn (st : Fin 24) (dir : LinkDir)
  /-- LINK_RETRAIN_DONE (R425): Retraining of a held memory link completes and held accesses proceed. -/
  | linkRetrainDone (st : Fin 24) (dir : LinkDir)
  /-- OPT_SPARE (R427): A write to OPTs_SPARE moves a lane to the spare, or sets REFUSED. -/
  | optSpare (st : Fin 24) (v : BitVec 32)
  /-- MEM_MAPREQ (R429): A write to MEMs_MAPREQ records a channel to be mapped out from the next reset. -/
  | memMapreq (st : Fin 24) (v : BitVec 32)
  /-- MEM_UNMAP (R743): An LK write to MEMs_UNMAP returns a channel to service from the next reset. -/
  | memUnmap (st : Fin 24) (v : BitVec 32)
  /-- MSC_FLUSH (R448): A write to MEM_MSCFLUSH writes back and invalidates a half's cache. -/
  | mscFlush (v : BitVec 32)
  /-- MSC_FLUSH_DONE (R448): A cache flush completes and BUSY clears. -/
  | mscFlushDone (h : Fin 2)
  /-- HINGE_BEAT_RECEIVE (R20): A Hinge beat arrives and its check code is verified. -/
  | hingeBeatReceive (dir : Fin 2) (beat : HingeBeat) (ok : Bool)
  /-- HINGE_CREDIT_RETURN (R26): A receive credit returns to the sender when the receiver frees a slot. -/
  | hingeCreditReturn (dir : Fin 2) (cls : HingeClass)
  /-- HINGE_RETRAIN_DONE (R30): Hinge retraining completes at full or half width, or fails. -/
  | hingeRetrainDone (outcome : HingeTrain)
  /-- PLL_LOCK_LOSS (R34): The root PLL loses lock; the data clocks stop and every launch halts. -/
  | pllLockLoss
  /-- COMMIT_REQUEST (R744): A write of COMMIT requests an apply of a configuration group and sets PENDING. -/
  | commitRequest (g : Group)
  /-- DISCARD (R40): A write of DISCARD copies the active copy over the shadow copy. -/
  | discard (g : Group)
  /-- CONFIG_APPLY (R42): At the apply point the shadow copy is checked, then applied or refused. -/
  | configApply (g : Group)
  /-- REGISTER_WRITE (R11): A write to a register without its own row acts as its access code gives. -/
  | registerWrite (p : RegPath) (addr : BitVec 64) (v : BitVec 32)
  /-- BLK_INJECT (R102): A write of INJECT makes the next array instruction's first pair partial fail once. -/
  | blkInject (b : Fin 48)
  /-- NONCE_READ (R635): A read of LKP_NONCE0 replaces the current nonce with a fresh one. -/
  | nonceRead (fresh : BitVec 256)
  /-- DTC_LATCH_READ (R729): A read of DEV_DTC0 latches the high word of the device time counter. -/
  | dtcLatchRead
  /-- PPSTS_LATCH_READ (R729): A read of NET_PPSTS0 latches the high word of the PPS timestamp. -/
  | ppstsLatchRead
  /-- FRAME_RECEIVE (R511): An Ethernet frame is received, or dropped and counted. -/
  | frameReceive (f : Frame)
  /-- PFC_FRAME (R512): A received PFC frame pauses or resumes the device's sending. -/
  | pfcFrame (p : PfcIn)
  /-- SEND (R513): A RoCE SEND delivers a Latch message into a receive slot. -/
  | send (qp : BitVec 24) (bytes : List Byte)
  /-- SEND_WITH_IMMEDIATE (R513): A RoCE SEND with immediate is executed. -/
  | sendWithImmediate (qp : BitVec 24) (bytes : List Byte)
  /-- RDMA_WRITE (R520): An RDMA WRITE is checked against its key and its data accepted into memory. -/
  | rdmaWrite (qp : BitVec 24) (key : BitVec 32) (va : BitVec 64) (p : Payload)
  /-- RDMA_WRITE_WITH_IMMEDIATE (R514): An RDMA WRITE with immediate is executed and its immediate data ignored. -/
  | rdmaWriteWithImmediate (qp : BitVec 24) (key : BitVec 32) (va : BitVec 64) (p : Payload)
  /-- RDMA_READ (R572): An RDMA READ is checked against its binding and answered. -/
  | rdmaRead (qp : BitVec 24) (key : BitVec 32) (va : BitVec 64) (len : Nat) (fabErr : Bool)
  /-- CM_REQ (R515): A communication-manager REQ is answered with REP or REJ. -/
  | cmReq (qp : BitVec 24) (gid : BitVec 128) (mtu : Nat)
  /-- CM_RTU (R515): A communication-manager RTU completes connection set-up. -/
  | cmRtu (qp : BitVec 24)
  /-- CM_DREQ (R515): A communication-manager DREQ is answered with DREP and the connection closes. -/
  | cmDreq (qp : BitVec 24)
  /-- CNP_RECEIVE (R525): A received congestion notification lowers a connection's send rate. -/
  | cnpReceive (qp : BitVec 24)
  /-- RATE_TICK (R525): The 5 us tick raises a connection's send rate after TI. -/
  | rateTick (qp : BitVec 24)
  /-- WELCOME_TIMEOUT (R536): A connection without WELCOME 5 s after REP is disconnected. -/
  | welcomeTimeout (qp : BitVec 24)
  /-- OWNER_KEEPALIVE_TIMEOUT (R539): No packet arrives from the owner for KATO ms, and the owner connection fails. -/
  | ownerKeepaliveTimeout
  /-- HELLO (R537): A HELLO asks for a role and receives CHALLENGE, WELCOME or REFUSE. -/
  | hello (qp : BitVec 24) (fresh : BitVec 256)
  /-- PROVE (R537): The signature in PROVE is verified and the role is granted or refused. -/
  | prove (qp : BitVec 24)
  /-- KEEPALIVE (R535): A KEEPALIVE is answered with the device time counter. -/
  | keepalive (qp : BitVec 24)
  /-- PROMOTE (R540): The standby becomes owner if the owner has failed or handed over. -/
  | promote (qp : BitVec 24)
  /-- HANDOVER (R540): The owner hands over and becomes the standby. -/
  | handover (qp : BitVec 24)
  /-- RING_OPEN (R543): Opens a command ring, or rebinds it with RESUME. -/
  | ringOpen (qp : BitVec 24)
  /-- RING_CLOSE (R545): Closes a command ring whose commands have all completed. -/
  | ringClose (qp : BitVec 24)
  /-- TOKEN (R569): A capability token is checked and a read-only key is bound. -/
  | token (qp : BitVec 24)
  /-- BYE (R535): The device replies and then disconnects. -/
  | bye (qp : BitVec 24)
  /-- DOORBELL (R546): A doorbell write updates a ring's producer and acknowledgement indices. -/
  | doorbell (qp : BitVec 24) (key : BitVec 32) (va : BitVec 64) (bytes : List Byte)
  /-- COMPLETION_WRITE (R551): A completion is written once the completion ring has room. -/
  | completionWrite (ring : Fin 16)
  /-- BINDING_EXPIRY (R571): A token binding ends at its EXPIRY. -/
  | bindingExpiry (w : Nat)
  /-- ANNOUNCE (R574): The device sends a periodic announcement. -/
  | announce
  /-- PTP_ANNOUNCE (R527): PTP Announce messages feed master selection. -/
  | ptpAnnounce (m : PtpAnn)
  /-- PTP_SYNC (R528): A Sync measurement updates the offset, steps or slews the counter, and moves the PTP state. -/
  | ptpSync (m : PtpMeas)
  /-- PTP_SYNC_TIMEOUT (R528): No Sync for 4 intervals, or no master for 10 s, moves the PTP state. -/
  | ptpSyncTimeout
  /-- PPS_OUT (R531): PPS_OUT rises at each whole second while the device is LOCKED. -/
  | ppsOut
  /-- PPS_IN (R532): A PPS_IN rising edge is timestamped. -/
  | ppsIn
  /-- PWR_EN_RISE (R698): PWR_EN rises, requesting power-up. -/
  | pwrEnRise
  /-- HOT_SWAP_CLOSE (R699): After PWR_EN has been low for 1 s, the switch closes, the rails come up and PG rises. -/
  | hotSwapClose (straps : Fin 4)
  /-- PWR_EN_FALL (R702): PWR_EN falls; the switch opens and PG falls. -/
  | pwrEnFall
  /-- VIN_FAULT (R703): VIN is out of range and the switch opens. -/
  | vinFault (mv : Nat)
  /-- RST_N_LOW (R701): A honoured low on RST_N starts a cold reset at its rising edge. -/
  | rstNLow (ns : Nat)
  /-- START_UP (R596): The device runs the start-up sequence from time 0 to ready. -/
  | startUp (env : BootEnv)
  /-- REFCLK_RETRY (R596): Step 1 retries every 100 ms while REFCLK is absent or the PLL cannot lock. -/
  | refclkRetry
  /-- BOOT_STEP_TIMEOUT (R597): A start-up step passes its latest end and the recovery loader is entered. -/
  | bootStepTimeout
  /-- KEYRING_RECORD_WRITE (R587): A queued Keyring record is written to flash and becomes durable. -/
  | keyringRecordWrite
  /-- FWINSTALL (R610): Verifies and programs a firmware image. -/
  | fwinstall
  /-- FWINSTALL_DONE (R611): Firmware programming and read-back finish and RESULT is set. -/
  | fwinstallDone (ok : Bool)
  /-- CFGPROG (R583): Programs the configuration block after checking it. -/
  | cfgprog
  /-- COLD (R600): KRG_CTL.COLD starts a cold reset. -/
  | cold
  /-- WARM (R600): KRG_CTL.WARM starts a warm reset. -/
  | warm
  /-- SOFT (R602): KRG_CTL.SOFT resets and self-tests every compute unit, aborting launches. -/
  | soft (fails : BitVec 56) (kat : BitVec 10)
  /-- SHUTDOWN (R617): Orderly shutdown ends launches, writes records and sets OFF. -/
  | shutdown
  /-- SAVECFG (R589): Requests a LASTCFG record of the active restorable groups. -/
  | savecfg
  /-- KRG_RETIRE (R607): Records a physical block as retired from next. -/
  | krgRetire (v : BitVec 32)
  /-- KRG_UNRETIRE (R607): An LK write records a physical block as returned to service from next. -/
  | krgUnretire (v : BitVec 32)
  /-- KRG_BLKRST (R603): Resets, zeroes and self-tests one physical block. -/
  | krgBlkrst (v : BitVec 32) (ok : Bool)
  /-- SUBMIT (R633): Checks a grant request under the two-key rule and applies it. -/
  | submit
  /-- CLOSE (R641): Closes the open LK grant. -/
  | close
  /-- ATTEST (R648): Writes a signed attestation report at LKP_OUT. -/
  | attest
  /-- DEVCERT (R648): Copies the DevID certificate to LKP_OUT. -/
  | devcert
  /-- GRANT_EXPIRY (R641): An LK grant closes when its DURATION has elapsed. -/
  | grantExpiry
  /-- JTAG_IDCODE (R649): The JTAG IDCODE instruction returns 0x1488_0B8D. -/
  | jtagIdcode
  /-- JTAG_BYPASS (R649): The JTAG BYPASS instruction selects the bypass register. -/
  | jtagBypass
  /-- JTAG_SAMPLE_PRELOAD (R649): The JTAG SAMPLE/PRELOAD instruction is executed. -/
  | jtagSamplePreload
  /-- JTAG_EXTEST (R649): The JTAG EXTEST instruction is executed. -/
  | jtagExtest
  /-- DBGACC (R650): Under an open debug grant, gives access to the debug port and memory. -/
  | dbgacc (a : DbgAccess)
  /-- DIE_TEMP_SAMPLE (R665): Die sensors are sampled every 10 us and a half's thermal level and duty are set. -/
  | dieTempSample (h : Fin 2) (die base opt : Int)
  /-- THERMTRIP_TIMEOUT (R706): PWR_EN is still high 500 ms after a trip, so the module opens its switch. -/
  | thermtripTimeout
  /-- POWER_CHECK (R669): Every 1 ms the power duty is lowered, raised or held against the effective cap. -/
  | powerCheck (watts mv : Nat)
  /-- PCAPB_SET (R667): The board sets its power cap over I3C. -/
  | pcapbSet (v : BitVec 32)
  /-- PCAPB_FAST (R671): FAST forces, or releases, a duty of 2/16 on both halves. -/
  | pcapbFast (v : BitVec 32)
  /-- PCAPD_SET (R667): The driver sets its power cap. -/
  | pcapdSet (v : BitVec 32)
  /-- HLT_CRC (R661): Starts the CRC-64 service over a memory range. -/
  | hltCrc
  /-- HLT_CRC_DONE (R662): The CRC service finishes, or fails on an uncorrectable burst. -/
  | hltCrcDone
  /-- HLT_LIFE (R681): Copies the LIFE record bodies to memory. -/
  | hltLife
  /-- LIFE_HOURLY_UPDATE (R676): The hourly update advances the lifetime counters and laser wear and writes LIFE
  and TIME. -/
  | lifeHourlyUpdate (bias : List Nat)
  /-- I3C_PRIVATE_WRITE (R710): An I3C private write carries a register address and, for a write, its data. -/
  | i3cPrivateWrite (bytes : List Byte)
  /-- I3C_PRIVATE_READ (R711): An I3C private read returns the status and the register value. -/
  | i3cPrivateRead
  /-- I3C_DYNAMIC_ADDRESS (R709): SETDASA or ENTDAA assigns the module a dynamic I3C address. -/
  | i3cDynamicAddress
  /-- LINK_UP (R574): The network port's link comes up, NET_STAT.LINK sets and the device sends an announcement at
  link-up. -/
  | linkUp
  /-- LINK_DOWN (R714): The network port's link goes down, NET_STAT.LINK clears and the port returns to training. -/
  | linkDown
  /-- RETRY_TIMEOUT (R515): A packet the device sent as RC requester is not acknowledged in time, so it is
  retransmitted, and after the retry count of 7 the queue pair enters the error state. -/
  | retryTimeout (qp : BitVec 24)
  /-- CFGPROG_DONE (R583): Programming of the configuration block ends, KRG_STAT.BUSY clears, RESULT is set and any
  held reset or shutdown proceeds. -/
  | cfgprogDone (ok : Bool)
  /-- GRANT_APPLIED (R636): A submitted grant finishes being applied or refused, including the flash writes and any
  scrub, so RESULT is written, LKP_STAT.BUSY clears and held resets proceed. -/
  | grantApplied (ok : ReadBack)
  /-- HLT_LIFE_DONE (R681): The copy of the LIFE bodies to memory ends and HLT_CTL.BUSY clears. -/
  | hltLifeDone
  /-- ATTEST_DONE (R648): The attestation report or certificate copy has been written at LKP_OUT and LKP_STAT.BUSY
  clears. -/
  | attestDone (ok : Bool)
  deriving DecidableEq, Repr

end Sys2Proof
end

