-- ==== Sys2Proof/Decode.lean ====
section
/-! DEFINITION. Words of the command table: the table gives no row any bits, so no word spells a command. -/

namespace Sys2Proof

/-- The command that a word of the table spells: none. -/
def decodeTableWord (_nbits _w : Nat) : Option Instr := none

end Sys2Proof
end

