-- ==== Sys2Proof/Machine/Bits.lean ====
section
/-! DEFINITION. Sparse stores, bit fields and byte order (00_scope.md, R10). -/

namespace Sys2Proof.Machine

/-- What key `k` of a store reads as; an unlisted key reads as `d k`. -/
def sget {w : Nat} (d : Nat → BitVec w) (m : Store w) (k : Nat) : BitVec w :=
  match m.find? (fun c => c.1 == k) with
  | some c => c.2
  | none => d k

/-- The listed cells for values laid from key `b` upward: those that differ from what an unlisted key reads as. -/
def scells {w : Nat} (d : Nat → BitVec w) : Nat → List (BitVec w) → Store w
  | _, [] => []
  | b, v :: vs => if v = d b then scells d (b + 1) vs else (b, v) :: scells d (b + 1) vs

/-- Write consecutive values from key `b` upward; every other key keeps its value. -/
def sput {w : Nat} (d : Nat → BitVec w) (m : Store w) (b : Nat) (vs : List (BitVec w)) : Store w :=
  m.filter (fun c => c.1 < b) ++ scells d b vs ++ m.filter (fun c => b + vs.length ≤ c.1)

/-- Write one key. -/
def sset {w : Nat} (d : Nat → BitVec w) (m : Store w) (k : Nat) (v : BitVec w) : Store w := sput d m k [v]

/-- `n` consecutive values from key `b`. -/
def srange {w : Nat} (d : Nat → BitVec w) (m : Store w) (b n : Nat) : List (BitVec w) :=
  let win := m.filter (fun c => b ≤ c.1 && c.1 < b + n)
  (List.range n).map (fun i => sget d win (b + i))

/-- The canonical form of a store: strictly rising keys, and no entry equal to what an unlisted key reads as. -/
def swf {w : Nat} (d : Nat → BitVec w) : Store w → Bool
  | [] => true
  | [c] => c.2 != d c.1
  | c :: c' :: m => c.2 != d c.1 && decide (c.1 < c'.1) && swf d (c' :: m)

/-- A store whose unlisted keys read as zero. -/
def zeroFill {w : Nat} (_ : Nat) : BitVec w := 0

/-- `len` bits of a word from bit `lo` upward, as a number. -/
def bitsAt {w : Nat} (x : BitVec w) (lo len : Nat) : Nat := x.toNat / 2 ^ lo % 2 ^ len

/-- `n` bytes of a descriptor from byte `b` upward, little-endian (R10). -/
def fld {w : Nat} (x : BitVec w) (b n : Nat) : Nat := bitsAt x (8 * b) (8 * n)

/-- Field `[hi:lo]` of a register word. -/
def getF (x : Word) (hi lo : Nat) : Nat := bitsAt x lo (hi + 1 - lo)

/-- A register word with field `[hi:lo]` set to the low bits of `v`. -/
def setF (x : Word) (hi lo : Nat) (v : Nat) : Word :=
  let m : Word := BitVec.ofNat 32 ((2 ^ (hi + 1 - lo) - 1) * 2 ^ lo)
  (x &&& ~~~m) ||| (BitVec.ofNat 32 (v * 2 ^ lo) &&& m)

/-- Add to a counter field that saturates at all ones. -/
def satF (x : Word) (hi lo : Nat) (n : Nat) : Word :=
  setF x hi lo (min (getF x hi lo + n) (2 ^ (hi + 1 - lo) - 1))

/-- Little-endian bytes as a number (R10). -/
def leNat : List Byte → Nat
  | [] => 0
  | b :: bs => b.toNat + 256 * leNat bs

/-- A number as `n` little-endian bytes (R10). -/
def toLe : Nat → Nat → List Byte
  | 0, _ => []
  | n + 1, v => BitVec.ofNat 8 v :: toLe n (v / 256)

/-- Bytes as one bit vector, byte 0 lowest. -/
def packBytes (w : Nat) (bs : List Byte) : BitVec w := BitVec.ofNat w (leNat bs)

/-- `n` bytes from byte `b` of a byte list, as a little-endian number; bytes past the end count as zero. -/
def leAt (bs : List Byte) (b n : Nat) : Nat := leNat ((bs.drop b).take n)

/-- A number rounded up to a multiple of `k`. -/
def upTo (n k : Nat) : Nat := (n + k - 1) / k * k

/-- `⌈log2 n⌉`, 0 for n of 0 or 1. -/
def clog2 (n : Nat) : Nat := if n ≤ 1 then 0 else Nat.log2 (n - 1) + 1

/-- A signed 32-bit value as an integer. -/
def sint (x : Word) : Int := x.toInt

/-- Insert into an ascending list of naturals without repeats. -/
def insertNat (x : Nat) : List Nat → List Nat
  | [] => [x]
  | y :: ys => if x < y then x :: y :: ys else if x = y then y :: ys else y :: insertNat x ys

/-- A list with entry `i` changed. -/
def modAt {α : Type} (l : List α) (i : Nat) (f : α → α) : List α :=
  match l, i with
  | [], _ => []
  | x :: xs, 0 => f x :: xs
  | x :: xs, i + 1 => x :: modAt xs i f

end Sys2Proof.Machine
end

