-- ==== Sys2Proof/Machine/Hash.lean ====
section
/-! DEFINITION. CRC-64 (R660) and SHA3-512 of FIPS 202, which the digests of the manual name. -/

namespace Sys2Proof.Machine

/-- One bit of CRC-64: polynomial 0x42F0E1EBA9EA3693 (R660). -/
def crcBit (c : BitVec 64) (b : Bool) : BitVec 64 :=
  let top := c.getMsbD 0 != b
  let x := c <<< 1
  if top then x ^^^ 0x42F0E1EBA9EA3693#64 else x

/-- One byte, most significant bit first. -/
def crcByte (c : BitVec 64) (b : Byte) : BitVec 64 :=
  [0, 1, 2, 3, 4, 5, 6, 7].foldl (fun c i => crcBit c (b.getMsbD i)) c

/-- CRC-64 (ECMA-182) from 0, without reflection or final exclusive-or (R660). -/
def crc64 (bs : List Byte) : BitVec 64 := bs.foldl crcByte 0

/-- CRC-32 with the Castagnoli polynomial over bytes, least significant bit first, from all ones and inverted (R423, log 157). -/
def crc32c (bs : List Byte) : BitVec 32 :=
  ~~~(bs.foldl (fun c b => [0, 1, 2, 3, 4, 5, 6, 7].foldl (fun (c : BitVec 32) i =>
    if c.getLsbD 0 != b.getLsbD i then (c >>> 1) ^^^ 0x82F63B78 else c >>> 1) c) 0xFFFFFFFF)

/-! ### Keccak-f[1600]: a state is the list of its 25 lanes, lane (x, y) at place 5y + x -/

/-- The lane at a place. -/
def stateLane (a : List (BitVec 64)) (p : Nat) : BitVec 64 := a.getD p 0

/-- The sum of a column of lanes. -/
def columnSum (a : List (BitVec 64)) (x : Nat) : BitVec 64 :=
  stateLane a x ^^^ stateLane a (x + 5) ^^^ stateLane a (x + 10) ^^^ stateLane a (x + 15) ^^^ stateLane a (x + 20)

/-- θ: every lane takes the sums of its two neighbouring columns. -/
def thetaStep (a : List (BitVec 64)) : List (BitVec 64) :=
  let s := (List.range 5).map (columnSum a)
  (List.range 25).map (fun p => stateLane a p ^^^ stateLane s ((p + 4) % 5) ^^^ (stateLane s ((p + 1) % 5)).rotateLeft 1)

/-- Where π sends the lane of a place: (x, y) to (y, 2x + 3y). -/
def piPlace (p : Nat) : Nat := 5 * ((2 * (p % 5) + 3 * (p / 5)) % 5) + p / 5

/-- The places in the order in which π visits them, from (1, 0). -/
def piWalk : Nat → Nat
  | 0 => 1
  | t + 1 => piPlace (piWalk t)

/-- ρ and π together: the lane met at step t of the walk is rotated by the (t + 1)th triangular number and moves to the next
place; lane (0, 0) stays. -/
def rhoPiStep (a : List (BitVec 64)) : List (BitVec 64) :=
  (List.range 24).foldl (fun b t => b.set (piWalk (t + 1)) ((stateLane a (piWalk t)).rotateLeft ((t + 1) * (t + 2) / 2 % 64))) a

/-- χ, the one non-linear step, along each row. -/
def chiStep (a : List (BitVec 64)) : List (BitVec 64) :=
  (List.range 25).map (fun p =>
    let row := p - p % 5
    stateLane a p ^^^ (stateLane a (row + (p + 2) % 5) &&& ~~~stateLane a (row + (p + 1) % 5)))

/-- The register of the constants of ι after a number of shifts. -/
def iotaReg : Nat → BitVec 8
  | 0 => 1
  | t + 1 => let r := iotaReg t; (r <<< 1) ^^^ (if r.msb then 0x71 else 0)

/-- ι of round `i`: bit 2^j - 1 of lane (0, 0) turns where bit j of the round's seven register bits is 1. -/
def iotaStep (i : Nat) (a : List (BitVec 64)) : List (BitVec 64) :=
  let bits := (List.range 7).filter (fun j => (iotaReg (7 * i + j)).getLsbD 0)
  a.set 0 (bits.foldl (fun x j => x ^^^ (1#64 <<< (2 ^ j - 1))) (stateLane a 0))

/-- The permutation: 24 rounds. -/
def keccakF (a : List (BitVec 64)) : List (BitVec 64) :=
  (List.range 24).foldl (fun a i => iotaStep i (chiStep (rhoPiStep (thetaStep a)))) a

/-- Take in 72-byte blocks (the rate of SHA3-512), each over the first nine lanes. -/
def absorb (bs : List Byte) : Nat → List (BitVec 64)
  | 0 => List.replicate 25 0
  | n + 1 =>
    let blk := (bs.drop (72 * n)).take 72
    keccakF ((absorb bs n).zipIdx.map (fun w => w.1 ^^^ (if w.2 < 9 then BitVec.ofNat 64 (leAt blk (8 * w.2) 8) else 0)))

/-- Padding of SHA3: 0x06, zeros, and 0x80 in the last byte of the block. -/
def sha3Pad (bs : List Byte) : List Byte :=
  let n := 72 - bs.length % 72
  if n = 1 then bs ++ [0x86] else bs ++ [0x06] ++ List.replicate (n - 2) 0 ++ [0x80]

/-- SHA3-512. -/
def sha3 (bs : List Byte) : List Byte :=
  let p := sha3Pad bs
  ((absorb p (p.length / 72)).take 8).flatMap (fun w => toLe 8 w.toNat)

/-- CRC-16/CCITT-FALSE over bytes, most significant bit first (Table 0.3, log 133). -/
def crc16 (bs : List Byte) : BitVec 16 :=
  bs.foldl (fun c b => [0, 1, 2, 3, 4, 5, 6, 7].foldl (fun (c : BitVec 16) i =>
    if c.msb != b.getMsbD i then (c <<< 1) ^^^ 0x1021 else c <<< 1) c) 0xFFFF

/-- The ASCII bytes of a label. -/
def label (t : String) : List Byte := t.toList.map (fun c => BitVec.ofNat 8 c.toNat)

end Sys2Proof.Machine
end

