-- ==== Sys2Proof/Machine/Num.lean ====
section
/-! DEFINITION. Number formats, conversions, rounding and the special functions (06_numerics_training.md,
R265-R287), and the exact arithmetic that the cells and the drain round once (R57-R61).

Every finite value is held exactly as sign, magnitude and power of two, and rounded once. -/

namespace Sys2Proof.Machine

/-- An exact extended value: NaN, an infinity, or `(-1)^s * m * 2^e` (a zero keeps its sign). -/
inductive Num where
  | nan
  | inf (s : Bool)
  | fin (s : Bool) (m : Nat) (e : Int)
  deriving DecidableEq, Repr

/-- The element formats of Table 3.2 (R104). -/
inductive Fmt where
  | bf16 | fp16 | e4m3 | e5m2 | mx8 | mx4 | int8 | fp32
  deriving DecidableEq, Repr

/-- The format a code names; 0x8-0xF are reserved (Table 3.2). -/
def Fmt.ofCode (c : Nat) : Option Fmt :=
  match c with
  | 0 => some .bf16 | 1 => some .fp16 | 2 => some .e4m3 | 3 => some .e5m2
  | 4 => some .mx8 | 5 => some .mx4 | 6 => some .int8 | 7 => some .fp32
  | _ => none

/-- Bits of one element (Table 3.2). -/
def Fmt.bits : Fmt → Nat
  | .bf16 | .fp16 => 16
  | .e4m3 | .e5m2 | .mx8 | .int8 => 8
  | .mx4 => 4
  | .fp32 => 32

/-- Whether the format carries E8M0 block scales. -/
def Fmt.isMx : Fmt → Bool
  | .mx8 | .mx4 => true
  | _ => false

/-- Exponent bits, fraction bits and bias of a floating format (Table 6.1). -/
def Fmt.layout : Fmt → Nat × Nat × Nat
  | .bf16 => (8, 7, 127)
  | .fp16 => (5, 10, 15)
  | .e4m3 | .mx8 => (4, 3, 7)
  | .e5m2 => (5, 2, 15)
  | .mx4 => (2, 1, 1)
  | .fp32 => (8, 23, 127)
  | .int8 => (0, 0, 0)

/-- `(-1)^s 0.M` or `(-1)^s 1.M` of the sign, exponent and fraction fields of an encoding (R265). -/
def decodeFields (eb mb bias : Nat) (x : Nat) : Num :=
  let s := (x / 2 ^ (eb + mb)) % 2 = 1
  let ex := (x / 2 ^ mb) % 2 ^ eb
  let m := x % 2 ^ mb
  if ex = 0 then .fin s m (1 - (bias : Int) - mb) else .fin s (2 ^ mb + m) ((ex : Int) - bias - mb)

/-- The value of an element's encoding, without a block scale (R265, Table 6.1). -/
def decodeElt (f : Fmt) (x : Nat) : Num :=
  match f with
  | .int8 => if x % 256 < 128 then .fin false (x % 256) 0 else .fin true (256 - x % 256) 0
  | .e4m3 | .mx8 => if x % 128 = 127 then .nan else decodeFields 4 3 7 x
  | .mx4 => decodeFields 2 1 1 x
  | .bf16 | .fp16 | .e5m2 | .fp32 =>
    let l := f.layout
    let ex := (x / 2 ^ l.2.1) % 2 ^ l.1
    if ex = 2 ^ l.1 - 1 then
      if x % 2 ^ l.2.1 = 0 then .inf ((x / 2 ^ (l.1 + l.2.1)) % 2 = 1) else .nan
    else decodeFields l.1 l.2.1 l.2.2 x

/-- Multiply by a power of two, exactly. -/
def Num.scale (n : Num) (k : Int) : Num :=
  match n with
  | .fin s m e => .fin s m (e + k)
  | n => n

/-- The value of an MX element under its block scale; scale 0xFF makes it NaN (R266). -/
def decodeMx (f : Fmt) (x : Nat) (scale : Nat) : Num :=
  if scale % 256 = 255 then .nan else (decodeElt f x).scale ((scale % 256 : Nat) - 127)

/-- The value of a binary32 word. -/
def val (x : Word) : Num := decodeElt .fp32 x.toNat

def Num.isNan : Num → Bool
  | .nan => true
  | _ => false

def Num.isInf : Num → Bool
  | .inf _ => true
  | _ => false

def Num.neg : Num → Num
  | .nan => .nan
  | .inf s => .inf (!s)
  | .fin s m e => .fin (!s) m e

def Num.abs : Num → Num
  | .nan => .nan
  | .inf _ => .inf false
  | .fin _ m e => .fin false m e

/-- The exact product; infinity times zero is NaN (R57, Table 2.2). -/
def Num.mul (a b : Num) : Num :=
  match a, b with
  | .nan, _ | _, .nan => .nan
  | .inf s, .inf t => .inf (s != t)
  | .inf s, .fin t m _ => if m = 0 then .nan else .inf (s != t)
  | .fin t m _, .inf s => if m = 0 then .nan else .inf (s != t)
  | .fin s m e, .fin t n f => .fin (s != t) (m * n) (e + f)

/-- A finite value as an integer multiple of `2^e0`, for `e0` at or below its exponent. -/
def Num.atExp (n : Num) (e0 : Int) : Int :=
  match n with
  | .fin s m e => let v : Int := m * 2 ^ (e - e0).toNat; if s then -v else v
  | _ => 0

/-- The exponent of a finite non-zero value, or `d`. -/
def Num.expOr (n : Num) (d : Int) : Int :=
  match n with
  | .fin _ m e => if m = 0 then d else e
  | _ => d

/-- The exact sum of two values; a sum of zeros is -0 only if both are (IEEE 754, log 30). -/
def Num.add (a b : Num) : Num :=
  match a, b with
  | .nan, _ | _, .nan => .nan
  | .inf s, .inf t => if s = t then .inf s else .nan
  | .inf s, _ | _, .inf s => .inf s
  | .fin s m e, .fin t n f =>
    if m = 0 ∧ n = 0 then .fin (s && t) 0 0
    else if m = 0 then .fin t n f
    else if n = 0 then .fin s m e
    else
      let e0 := min e f
      let v := (Num.fin s m e).atExp e0 + (Num.fin t n f).atExp e0
      .fin (decide (v < 0)) v.natAbs e0

def Num.sub (a b : Num) : Num := a.add b.neg

/-- `a < b` on non-NaN values; false when either is NaN. -/
def Num.lt (a b : Num) : Bool :=
  match a, b with
  | .nan, _ | _, .nan => false
  | .inf s, .inf t => s && !t
  | .inf s, .fin _ _ _ => s
  | .fin _ _ _, .inf t => !t
  | .fin s m e, .fin t n f =>
    let e0 := min e f
    decide ((Num.fin s m e).atExp e0 < (Num.fin t n f).atExp e0)

def Num.le (a b : Num) : Bool := !a.isNan && !b.isNan && !b.lt a

def Num.isZero : Num → Bool
  | .fin _ m _ => m = 0
  | _ => false

def Num.isFinite : Num → Bool
  | .fin _ _ _ => true
  | _ => false

/-- `m / 2^k` rounded to an integer, to nearest with ties to even (R270). -/
def rneDiv (m k : Nat) : Nat :=
  let q := m / 2 ^ k
  let r := m % 2 ^ k
  if 2 * r > 2 ^ k ∨ (2 * r = 2 ^ k ∧ q % 2 = 1) then q + 1 else q

/-- `m * 2^e` as a multiple of `2^q`, rounded to nearest with ties to even. -/
def rneAt (m : Nat) (e q : Int) : Nat :=
  if q ≤ e then m * 2 ^ (e - q).toNat else rneDiv m (q - e).toNat

/-- The grid exponent of a floating format at magnitude `m * 2^e` (subnormal spacing below the normals). -/
def gridExp (mb bias : Nat) (m : Nat) (e : Int) : Int :=
  max ((Nat.log2 m : Int) + e) (1 - bias) - mb

/-- One rounding to binary32, to nearest with ties to even; subnormals kept, NaN canonical, an exact zero of the
sign given (R58, R267, R270, R275). -/
def rnd (n : Num) : Word :=
  match n with
  | .nan => 0x7FC00000
  | .inf s => if s then 0xFF800000 else 0x7F800000
  | .fin s m e =>
    let sg : Nat := if s then 2 ^ 31 else 0
    if m = 0 then BitVec.ofNat 32 sg
    else
      let q := gridExp 23 127 m e
      let r := rneAt m e q
      let mag := ((q + 149) * 2 ^ 23).toNat + r
      BitVec.ofNat 32 (sg + min mag (255 * 2 ^ 23))

/-- The exact sum of the finite members of a list, as a multiple of the least exponent met. -/
def sumFin (l : List Num) : Num :=
  l.foldl (fun a n => match n with | .fin _ _ _ => a.add n | _ => a) (.fin false 0 0)

/-- The accumulator rule of Table 2.2 over the terms of a cycle: NaN, then infinity, then the one rounding of the
exact sum, +0 where that is zero (R58, R60). -/
def accSum (l : List Num) : Word :=
  if l.any Num.isNan || (l.any (· == .inf false) && l.any (· == .inf true)) then 0x7FC00000
  else if l.any (· == .inf false) then 0x7F800000
  else if l.any (· == .inf true) then 0xFF800000
  else
    match sumFin l with
    | .fin s m e => if m = 0 then 0 else rnd (.fin s m e)
    | n => rnd n

/-- That sum in a cell: one that underflows is +0 too, since no partial is -0 (R346, log 139). -/
def accRound (l : List Num) : Word := let w := accSum l; if w = 0x80000000 then 0 else w

/-! ### binary32 operations, one rounding each (R275) -/

def fadd (a b : Word) : Word := rnd ((val a).add (val b))
def fsub (a b : Word) : Word := rnd ((val a).sub (val b))
def fmul (a b : Word) : Word := rnd ((val a).mul (val b))
def fma (a b c : Word) : Word := rnd (((val a).mul (val b)).add (val c))
def fneg (a : Word) : Word := a ^^^ 0x80000000
def flt (a b : Word) : Bool := (val a).lt (val b)
def isNanW (a : Word) : Bool := (val a).isNan
def isInfW (a : Word) : Bool := (val a).isInf
def isFinW (a : Word) : Bool := (val a).isFinite
def canonNan : Word := 0x7FC00000
def posInf : Word := 0x7F800000
def negInf : Word := 0xFF800000
def one32 : Word := 0x3F800000
/-- A signed integer as an exact value. -/
def intNum (v : Int) : Num := .fin (decide (v < 0)) v.natAbs 0
/-- An integer rounded once to binary32 (R116); zero gives +0. -/
def ofInt (v : Int) : Word := rnd (intNum v)

/-- The integer nearest a finite value, ties to even (R275). -/
def rneInt (n : Num) : Int :=
  match n with
  | .fin s m e => let r := rneAt m e 0; if s then -(r : Int) else r
  | _ => 0

/-- R275: horner over a table of coefficients, index 0 first. -/
def horner (t : List Word) (x : Word) : Word :=
  match t.reverse with
  | [] => 0
  | c :: cs => cs.foldl (fun p k => fma p x k) c

/-! Coefficients and constants: the binary32 values nearest the decimals of Table 6.4 (R276). -/
def coefE : List Word := [0x3F800000, 0x3F317218, 0x3E75FDF0, 0x3D635847, 0x3C1D955B, 0x3AAEC3FF, 0x39218489]
def coefL : List Word := [0x4038AA3B, 0x3F76384F, 0x3F13BB63, 0x3ED30BB1, 0x3EA4258A]
def coefSC : List Word := [0x40C90FDB, 0xC2255DE7, 0x42A335E3, 0xC2996966, 0x42283C1A]
def coefCC : List Word := [0x3F800000, 0xC19DE9E6, 0x4281E0F8, 0xC2AAE9E4, 0x4270FA83, 0xC1D368FB]
def coefA : List Word := [0x00000000, 0x3E827906, 0xBE91A98E, 0x3FB5F0E3, 0xBFBA00E3, 0x3F87DC22]
def cLog2e : Word := 0x3FB8AA3B
def cPErf : Word := 0x3EA7BA05
def cInvSqrt2 : Word := 0x3F3504F3
def cSqrt2 : Word := 0x3FB504F3
def cGCubic : Word := 0x3D372713
def cGScale : Word := 0x3FCC422A
def cNeg2Ln2 : Word := 0xBFB17218

/-- exp2 (R277). -/
def exp2 (x : Word) : Word :=
  let v := val x
  if v.isNan then canonNan
  else if (intNum 128).le v then posInf
  else if v.lt (intNum (-151)) then 0
  else
    let n := rneInt v
    let f := rnd (v.sub (intNum n))
    rnd ((val (horner coefE f)).scale n)

/-- recip (R280): the correctly rounded reciprocal. -/
def recip (x : Word) : Word :=
  match val x with
  | .nan => canonNan
  | .inf s => if s then 0x80000000 else 0
  | .fin s m e =>
    if m = 0 then (if s then negInf else posInf)
    else
      let k := Nat.log2 m + 40
      let q := 2 ^ k / m
      let st := if 2 ^ k % m = 0 then 0 else 1
      rnd (.fin s (2 * q + st) (-(k : Int) - 1 - e))

/-- The largest `r` of `bits` bits with `r*r ≤ n`, bit by bit from the top. -/
def isqrt (bits n : Nat) : Nat :=
  (List.range bits).foldl (fun r i => let t := r + 2 ^ (bits - 1 - i); if t * t ≤ n then t else r) 0

/-- rsqrt (R281): the correctly rounded reciprocal square root. -/
def rsqrt (x : Word) : Word :=
  match val x with
  | .nan => canonNan
  | .inf s => if s then canonNan else 0
  | .fin s m e =>
    if m = 0 then (if s then negInf else posInf)
    else if s then canonNan
    else
      let m' := if e % 2 = 0 then m else 2 * m
      let e' := if e % 2 = 0 then e else e - 1
      let q := isqrt 64 (2 ^ 104 / m')
      let st := if q * q * m' = 2 ^ 104 then 0 else 1
      rnd (.fin false (2 * q + st) (-53 - e' / 2))

/-- log2 (R278). -/
def log2 (x : Word) : Word :=
  match val x with
  | .nan => canonNan
  | .inf s => if s then canonNan else posInf
  | .fin s m e =>
    if m = 0 then negInf
    else if s then canonNan
    else
      let lg := Nat.log2 m
      let m0 : Num := .fin false m (-(lg : Int))
      let big := (val cSqrt2).le m0
      let mm := if big then m0.scale (-1) else m0
      let ee : Int := (lg : Int) + e + (if big then 1 else 0)
      let s := rnd ((mm.sub (intNum 1)).mul (val (recip (rnd (mm.add (intNum 1))))))
      let z := fmul s s
      let y := fmul s (horner coefL z)
      rnd ((intNum ee).add (val y))

/-- The reduced argument of sin2pi and cos2pi: quadrant, sine part and cosine part (R279). -/
def trigParts (x : Word) : Nat × Word × Word :=
  let v := val x
  let r := v.sub (intNum (rneInt v))
  let q := rneInt (r.scale 2)
  let u := r.sub ((intNum q).scale (-2))
  let uw := rnd u
  let z := fmul uw uw
  ((q % 4).toNat, fmul uw (horner coefSC z), horner coefCC z)

/-- A zero result is +0 (R279, R286). -/
def plusZero (x : Word) : Word := if x = 0x80000000 then 0 else x

/-- sin2pi (R279). -/
def sin2pi (x : Word) : Word :=
  if !isFinW x then canonNan else
  let t := trigParts x
  plusZero (match t.1 with | 0 => t.2.1 | 1 => t.2.2 | 2 => fneg t.2.1 | _ => fneg t.2.2)

/-- cos2pi (R279). -/
def cos2pi (x : Word) : Word :=
  if !isFinW x then canonNan else
  let t := trigParts x
  plusZero (match t.1 with | 0 => t.2.2 | 1 => fneg t.2.1 | 2 => fneg t.2.2 | _ => t.2.1)

/-- sigmoid (R282, R286). -/
def sigmoid (x : Word) : Word :=
  if isNanW x then canonNan
  else plusZero (recip (fadd one32 (exp2 (fneg (fmul x cLog2e)))))

/-- silu (R283, R286). -/
def silu (x : Word) : Word :=
  if isNanW x then canonNan else if x = negInf then 0 else plusZero (fmul x (sigmoid x))

/-- gelu_tanh (R284, R286). -/
def geluTanh (x : Word) : Word :=
  if isNanW x then canonNan else if x = negInf then 0 else
  let v := fmul (fmul x x) cGCubic
  let w := fadd x (fmul x v)
  plusZero (fmul x (sigmoid (fmul w cGScale)))

/-- gelu_erf (R285, R286). -/
def geluErf (x : Word) : Word :=
  if isNanW x then canonNan else if x = negInf then 0 else
  let z := fmul (x &&& 0x7FFFFFFF) cInvSqrt2
  let t := recip (fadd one32 (fmul cPErf z))
  let e := exp2 (fneg (fmul (fmul z z) cLog2e))
  let g := fmul (horner coefA t) e
  let hg := fmul 0x3F000000 g
  let phi := if (intNum 0).le (val x) then fsub one32 hg else hg
  plusZero (fmul x phi)

/-- ReLU (R140). -/
def relu (x : Word) : Word :=
  if isNanW x then canonNan else if (intNum 0).lt (val x) then x else 0

/-! ### Narrowing (R269, Table 6.2) and stochastic rounding (R271, R272) -/

/-- The largest finite encoding of a floating target (Table 6.1). -/
def Fmt.maxCode : Fmt → Nat
  | .bf16 => 0x7F7F | .fp16 => 0x7BFF | .e4m3 | .mx8 => 0x7E | .e5m2 => 0x7B | .mx4 => 0x7
  | .fp32 => 0x7F7FFFFF | .int8 => 127

/-- Round a magnitude to a multiple of `2^q` with the random word `w` (R271, R272). `m * 2^e` is the value on the
grid of its own last place. -/
def srAt (m : Nat) (e q : Int) (w : BitVec 32) : Nat :=
  if q ≤ e then m * 2 ^ (e - q).toNat
  else
    let k := (q - e).toNat
    let lo := m / 2 ^ k
    let f := m % 2 ^ k
    if f = 0 then lo
    else if k ≤ 32 then (if w.toNat % 2 ^ k < f then lo + 1 else lo)
    else if w.toNat < f * 2 ^ 32 / 2 ^ k then lo + 1 else lo

/-- Rounding of a magnitude: to nearest even, or with a random word. -/
def roundMag (sr : Option (BitVec 32)) (m : Nat) (e q : Int) : Nat :=
  match sr with
  | none => rneAt m e q
  | some w => srAt m e q w

/-- A finite binary32 value put on the grid of its own last place, so that stochastic rounding cuts off the bits
R271 counts. -/
def ulpForm (m : Nat) (e : Int) : Nat × Int :=
  let u := gridExp 23 127 m e
  if u ≤ e then (m * 2 ^ (e - u).toNat, u) else (m / 2 ^ (u - e).toNat, u)

/-- Narrowing of an exact value that came from binary32, to the target's encoding, with saturation
(R269, Table 6.2). -/
def narrow (f : Fmt) (sr : Option (BitVec 32)) (n : Num) : Nat :=
  match f with
  | .int8 =>
    match n with
    | .nan => 0
    | .inf s => if s then 0x80 else 0x7F
    | .fin s m e =>
      let r := roundMag sr m e 0
      if s then (256 - min r 128) % 256 else min r 127
  | _ =>
    let l := f.layout
    let sg : Nat := 2 ^ (l.1 + l.2.1)
    match n with
    | .nan =>
      match f with
      | .bf16 => 0x7FC0 | .fp16 => 0x7E00 | .e4m3 => 0x7F | .e5m2 => 0x7E | .fp32 => 0x7FC00000
      | _ => 0
    | .inf s =>
      match f with
      | .e4m3 => 0x7F
      | .mx8 | .mx4 => 0
      | _ => (if s then sg else 0) + (2 ^ l.1 - 1) * 2 ^ l.2.1
    | .fin s m e =>
      if m = 0 then (if s then sg else 0)
      else
        let q := gridExp l.2.1 l.2.2 m e
        let r := roundMag sr m e q
        let mag := ((q + l.2.2 - 1 + l.2.1) * 2 ^ l.2.1).toNat + r
        (if s then sg else 0) + min mag f.maxCode

/-- The conversion of a binary32 word to a target (R269). -/
def convert (f : Fmt) (sr : Option (BitVec 32)) (x : Word) : Nat :=
  match val x with
  | .fin s m e => let u := ulpForm m e; narrow f sr (.fin s u.1 u.2)
  | n => if f = .fp32 then (rnd n).toNat else narrow f sr n

/-! ### COMPAT arithmetic (R300, R303) -/

/-- A subnormal binary32 value becomes a zero of its sign (R300, R303). -/
def flushW (x : Word) : Word := if x.toNat / 2 ^ 23 % 256 = 0 then x &&& 0x80000000 else x

/-- A subnormal operand element counts as a zero of its sign (R300). -/
def flushElt (f : Fmt) (x : Nat) : Num :=
  match f with
  | .int8 => decodeElt f x
  | _ =>
    let l := f.layout
    if (x / 2 ^ l.2.1) % 2 ^ l.1 = 0 then .fin ((x / 2 ^ (l.1 + l.2.1)) % 2 = 1) 0 0 else decodeElt f x

/-- The final conversion under COMPAT: subnormals flushed at both ends, and a finite value beyond the largest of
BF16 or FP16 becomes an infinity (R303). -/
def convertCompat (f : Fmt) (x : Word) : Nat :=
  let y := flushW x
  match f with
  | .bf16 | .fp16 =>
    let l := f.layout
    match val y with
    | .fin s m e =>
      let sg : Nat := if s then 2 ^ (l.1 + l.2.1) else 0
      if m = 0 then sg
      else
        let q := gridExp l.2.1 l.2.2 m e
        let mag := ((q + l.2.2 - 1 + l.2.1) * 2 ^ l.2.1).toNat + rneAt m e q
        if mag < 2 ^ l.2.1 then sg else sg + min mag ((2 ^ l.1 - 1) * 2 ^ l.2.1)
    | n => narrow f none n
  | _ => convert f none y

/-! ### F32X3 operand split (R64) -/

/-- The high and low BF16 parts of a binary32 operand, as values (R64). -/
def split3 (x : Word) : Num × Num :=
  match val x with
  | .fin s m e =>
    let hi : Word := x &&& 0xFFFF0000
    let lo := (Num.fin s m e).sub (val hi)
    (val hi, decodeElt .bf16 (narrow .bf16 none lo))
  | n => (n, .fin false 0 0)

end Sys2Proof.Machine
end

