-- ==== Sys2Proof/Parts/Block.lean ====
section
/-! DEFINITION. The state of one logical block (02_block_array.md, 03_tiles_drain.md): its byte stores, accumulator
memory, instruction queue, unit queues and the array instruction in progress. -/

namespace Sys2Proof.Machine

/-- What the fetch of an instruction met (R746): nothing, bytes that the program may not lie in, a bad burst of its
line, by address, uncorrectable or else poisoned, or an uncorrectable word of the region buffer or of the fabric (Table 15.2). -/
inductive FetchErr where
  | ok | bound | mem (burst : Nat) (uncorr : Bool) | upset (fabric : Bool)
  deriving DecidableEq, Repr

/-- One entry of the 32-entry instruction queue (R94). -/
structure IqEntry where
  idx : Nat
  word : BitVec 512
  err : FetchErr
  deriving DecidableEq, Repr

/-- An instruction held in a unit's queue (R95, R96); `begun` once it has started to execute, `since` the launch's count of
array cycles at its dispatch (R230, R754). -/
structure UEntry where
  idx : Nat
  word : BitVec 512
  begun : Bool
  since : Nat
  deriving DecidableEq, Repr

/-- One output part of a partial, with the ward values of its rows and columns (R81-R83). -/
structure PartVal where
  elts : List Word
  wc : List Word
  mc : List Word
  wr : List Word
  mr : List Word
  corner : Word
  deriving DecidableEq, Repr

/-- Where an output part lies in the slot and which operand rows it uses (R78, R79, R747). -/
structure PartGeom where
  r0 : Nat
  c0 : Nat
  nr : Nat
  nc : Nat
  a0 : Nat
  b0 : Nat
  deriving DecidableEq, Repr

/-- What becomes of an array instruction's final value: a slot, an attention score tile, or an attention value
fold (R111, R162, R168). -/
inductive JobEnd where
  | slot | score | fold
  deriving DecidableEq, Repr

/-- How the cells form sums: floating, integer or three-pass F32X3 (R58, R62, R65). -/
inductive JobArith where
  | float | int | x3
  deriving DecidableEq, Repr

/-- The array instruction in progress (R66-R72, R88, R343). `a` and `b` are its operand rows, padded with zeros, as
read when it began. -/
structure ArrayJob where
  idx : Nat
  word : BitVec 512
  arith : JobArith
  fin : JobEnd
  p : Nat
  vm : Nat
  vn : Nat
  vk : Nat
  geom : List PartGeom
  ovw : Bool
  acc : Nat
  a : List (List Num)
  b : List (List Num)
  alpha : List Word
  cfg : Word
  compat : Bool
  inject : Bool
  chunk : Nat
  held : Option (List PartVal)
  pairs : List (Nat × List PartVal)
  drained : Nat
  attempts : Nat
  /-- A mismatch was found, and the pair at the front of `pairs` is still to be recomputed (R88). -/
  replay : Bool
  /-- The chunk that was in progress at the mismatch has not completed (R88). -/
  tail : Bool
  tree : List (Nat × List (List Word))
  deriving DecidableEq, Repr

/-- What the sync unit waits on: a barrier, with whether the arrival has counted (R47, R48), or a flag of a region with
its target (R226). `since` is the launch's count of array cycles at the WFL's dispatch (R230, R754). -/
inductive SyncWait where
  | barrier (i : Fin 32) (counted : Bool)
  | flag (r : Fin 8) (f : Fin 64) (target : Nat) (since : Nat)
  deriving DecidableEq, Repr

/-- A page resolved, or being resolved, through the Canopy table for a block's ATS or ATV (R187, R192). -/
inductive PageWait where
  | waiting (entry : Nat)
  | got (entry : Nat) (bytes : BitVec 256)
  deriving DecidableEq, Repr

/-- The state of one logical block. -/
structure Block where
  bankA0 : Store 8
  bankA1 : Store 8
  bankB : Store 8
  /-- Where a bank's contents are undefined after streaming: the first free byte of each (R109, log 10). -/
  junk0 : Option Nat
  junk1 : Option Nat
  junk2 : Option Nat
  scratch : Store 8
  acc : Store 32
  /-- The slots that hold intermediate partials an instruction left there, each with the number of its first free word: the
  spec does not say which partial a tree slot holds (R69, R111, log 122). -/
  slotJunk : List (Nat × Nat)
  lid : Option (BitVec 32)
  iq : List IqEntry
  nextFetch : Nat
  loadQ : List UEntry
  arrayQ : List UEntry
  drainQ : List UEntry
  syncQ : List UEntry
  job : Option ArrayJob
  wait : Option SyncWait
  page : Option PageWait
  inject : Bool
  intSat : Bool
  stopped : Bool
  finished : Bool
  rateWin : Nat
  rateCnt : Nat
  rateSent : Bool
  deriving DecidableEq, Repr

/-- A block after a cold reset: idle, its stores zero (logs 2, 21). -/
def Block.reset : Block :=
  { bankA0 := [], bankA1 := [], bankB := [], junk0 := none, junk1 := none, junk2 := none, scratch := [], acc := [], slotJunk := [], lid := none, iq := [], nextFetch := 0,
    loadQ := [], arrayQ := [], drainQ := [], syncQ := [], job := none, wait := none, page := none, inject := false,
    intSat := false, stopped := false, finished := false, rateWin := 0, rateCnt := 0, rateSent := false }

end Sys2Proof.Machine
end

