-- ==== Sys2Proof/Parts/Session.lean ====
section
/-! DEFINITION. What a video session holds beside its record (11_video_codec.md, Table 11.2), as the stream engines keep
it in the state bytes of the session area, and the forms that coded pictures take. -/

namespace Sys2Proof.Machine

/-! ### Encoding -/

/-- One picture given to the encoder: the EPIC fields FLAGS and DIDX, and its converted samples (R463-R467, R471). -/
structure PicIn where
  flags : Nat
  didx : Nat
  samples : List Nat
  deriving DecidableEq, Repr

/-- Encode state: the pictures coded, in coding order; the display indices of the current group still to be coded, in
order; the last display index before the next group; whether a picture carried END; and the buffer fullness, in units
of 1 / (90,000 x FRN) bit (R468, R469, R474). -/
structure EncState where
  pics : List PicIn
  group : List Nat
  base : Option Nat
  ended : Bool
  full : Int
  deriving DecidableEq, Repr, Inhabited

/-- What the choices of the encoder reference model depend on (R471): the session record, the firmware major version and
the pictures so far. -/
structure EncKey where
  record : List Byte
  fw : Nat
  before : List PicIn
  now : PicIn
  deriving DecidableEq, Repr

/-- How a block of a coded picture is predicted: from its own picture by an intra mode, numbered as the codec's standard numbers
them, with the angle delta of AV1, or from a reference by a vector in quarter samples. -/
inductive BlkPred where
  | intra (mode : Nat) (delta : Int)
  | inter (ref : Nat) (mvx mvy : Int)
  deriving DecidableEq, Repr

/-- A block: its place and size in luma samples, and its prediction. -/
structure CodeBlk where
  x : Nat
  y : Nat
  w : Nat
  h : Nat
  pred : BlkPred
  deriving DecidableEq, Repr

/-- A coded CTU: normally coded, or in the last-resort form of R478. -/
inductive CtuForm where
  | normal (blks : List CodeBlk)
  | firstMerge | globalMv | intraDc
  deriving DecidableEq, Repr

/-- What a picture's headers carry by this spec: colour description and chroma location, the buffer model, mastering display,
light levels, the recovery point, the picture itself (R460, R466, R474, R482). -/
inductive HeadItem where
  | colour (primaries transfer matrix chromaLoc : Nat)
  | hrd (rate cpb d0 : Nat)
  | mastering (bytes : List Byte)
  | light (bytes : List Byte)
  | recovery (cnt : Nat)
  | picture (type : Nat)
  deriving DecidableEq, Repr

/-- Filler (R476). -/
inductive FillForm where
  | nal | obu
  deriving DecidableEq, Repr

/-- A coded picture: headers, CTUs in raster order, the first CTU of each slice or tile group, its tile columns, and its filler in
bytes. -/
structure CodedPic where
  head : List HeadItem
  ctus : List CtuForm
  slices : List Nat
  tileCols : Nat
  fill : Option (FillForm × Nat)
  deriving DecidableEq, Repr

/-! ### Decoding -/

/-- What one decode descriptor gave the decoder: its unit's bytes, none for DFLUSH, and VSEh_CFG at each row of its pictures, since a
commit is applied between two rows (Table 1.6). -/
structure UnitIn where
  bytes : Option (List Byte)
  cfgs : List Word
  deriving DecidableEq, Repr

/-- A decoded picture that the session keeps: its number in decoding order, its size, whether its samples have 10 bits, its
picture order count or frame number, whether the stream marks it as a reference, whether it has been output or is not to be, and its
samples without film grain: luma by rows, then Cb and Cr interleaved by rows (R494, R500). -/
structure KeptPic where
  id : Nat
  w : Nat
  h : Nat
  ten : Bool
  order : Word
  isRef : Bool
  shown : Bool
  samples : List Nat
  deriving DecidableEq, Repr

/-- One picture that a decode descriptor outputs: its width and height, whether its samples have 10 bits, its picture
order count or frame number, and its samples (R492, R502). -/
structure DecPic where
  w : Nat
  h : Nat
  ten : Bool
  order : Word
  samples : List Nat
  deriving DecidableEq, Repr

/-- Decode state: the units given, the count of output pictures (R492), the pictures kept, the count of pictures decoded, the
last picture output of each size, as it was output (R499), and the latest picture decoded of each size (R497). -/
structure DecState where
  units : List UnitIn
  outs : Nat
  kept : List KeptPic
  count : Nat
  last : List DecPic
  latest : List KeptPic
  deriving DecidableEq, Repr

/-- What the output of a decode descriptor depends on. -/
structure DecKey where
  record : List Byte
  fw : Nat
  before : List UnitIn
  now : UnitIn
  deriving DecidableEq, Repr

/-- One CTU or macroblock of a unit as the stream has it: its number in the picture in raster order, the bins of each of its 64 x 64
areas, or of itself if it is smaller, and whether a syntax element of it is out of range or its slice ends early or late at it (R496,
R497). -/
structure CtuIn where
  at_ : Nat
  bins : List Nat
  bad : Bool
  deriving DecidableEq, Repr

/-- A slice or tile: its CTUs in order; the first picture of reference list 0, or LAST_FRAME, by its number; and the numbers of the
pictures that it refers to. -/
structure SliceIn where
  ctus : List CtuIn
  ref : Option Nat
  uses : List Nat
  deriving DecidableEq, Repr

/-- What the parser reads of one picture of a unit, as the standards define it: whether it is no new picture, but shows one again
(show_existing_frame of AV1); whether its header can be decoded, whether it uses a tool marked "no" in Table 11.9, its size and depth,
its CTU size, its order, whether it becomes a reference, the pictures it refers to (a number of a picture that the session does not
keep is a missing reference), its slices, and the pictures that are no longer references after it. For the output process: whether the
pictures waiting are output before it, or dropped (`true`); whether it is output; and how many pictures may be left waiting after it: 0
in AV1. -/
structure PicParse where
  again : Option Nat
  headOk : Bool
  noTool : Bool
  w : Nat
  h : Nat
  ten : Bool
  ctu : Nat
  order : Word
  isRef : Bool
  refs : List Nat
  slices : List SliceIn
  unref : List Nat
  prior : Option Bool
  out : Bool
  hold : Nat
  deriving DecidableEq, Repr, Inhabited

/-- What a decode descriptor answers: the pictures, the error flags [6:0], the areas concealed (R502). -/
structure DecOut where
  pics : List DecPic
  flags : Nat
  concealed : Nat
  deriving DecidableEq, Repr, Inhabited

/-! ### Both -/

inductive Session where
  | enc (e : EncState)
  | dec (d : DecState)
  deriving DecidableEq, Repr, Inhabited

/-- What a stream engine writes at the end of a coding-tree-unit row: the row, its stores of the session area and the output, each
an address with its bytes, and with FLAGS.ROWSIG the count of bytes that its unit ends at (R482, R503). -/
structure VseRow where
  row : Nat
  outs : List (Nat × List Byte)
  sig : Option Nat
  deriving DecidableEq, Repr

/-- What ends a stream-engine descriptor: its result record, the new state bytes of its session, and its events; or, of a decode
descriptor whose rows are not all done, what it decodes (R457, R478, R486, R502). -/
inductive VseTail where
  | ready (out st : List Byte) (lastres filler damaged : Bool) (concealed : Nat)
  | decode (flush : Bool) (record : List Byte) (key : DecKey) (state : DecState)
  deriving DecidableEq, Repr

/-- A stream-engine descriptor in progress: the rows still to be done, the address of its result record, its session area, the rows
of its last picture, and its end (R504). -/
structure VseJob where
  todo : List VseRow
  res : Nat
  ses : Nat
  rows : Nat
  tail : VseTail
  deriving DecidableEq, Repr

/-- The row in progress. -/
def VseJob.row (j : VseJob) : Nat :=
  match j.todo with
  | x :: _ => x.row
  | [] => j.rows

end Sys2Proof.Machine
end

