-- ==== Sys2Proof/Parts/Half.lean ====
section
/-! DEFINITION. The state of one half: sampler, stream engine, memory-side cache (07_tumbler_sampling.md,
10_optical_memory.md, 11_video_codec.md). -/

namespace Sys2Proof.Machine

/-- A line of the memory-side cache: the burst it holds and its way (R444, R445). Its bytes are those of the memory
contents that State holds; `dirty` says the stack does not have them yet. -/
structure MscLine where
  burst : Nat
  way : Nat
  dirty : Bool
  deriving DecidableEq, Repr

/-- The state of one half. -/
structure Half where
  smp : ListRun
  /-- The row of the current SAMPLE descriptor that is next, once it has started (R326). -/
  smpRow : Option Nat
  /-- The sampler's Tumbler unit failed its self-test and is out of use (R336). -/
  smpOut : Bool
  vse : ListRun
  /-- The stream-engine descriptor whose stores are being accepted. -/
  vseJob : Option VseJob
  /-- Most recently used first. -/
  msc : List MscLine
  /-- A cache flush is running (R448). -/
  flushing : Bool
  deriving DecidableEq, Repr, Inhabited

def Half.reset : Half :=
  { smp := ListRun.idle, smpRow := none, smpOut := false, vse := ListRun.idle, vseJob := none, msc := [], flushing := false }

end Sys2Proof.Machine
end

