-- ==== Sys2Proof/Parts/Region.lean ====
section
/-! DEFINITION. The state of one region: region buffer, flags, Canopy cache, broadcast, SCE and RVE
(04_attention_canopy.md, 05_convolution_vae.md, 06_numerics_training.md, 08_determinism.md). -/

namespace Sys2Proof.Machine

/-- A line of the Canopy cache: its table line, its way and the 512 bytes it holds (R189). -/
structure CnpLine where
  line : Nat
  way : Nat
  bytes : List Byte
  deriving DecidableEq, Repr

/-- A miss being read from memory, with the blocks that wait for it (R192) and the job slot of the first. -/
structure CnpMiss where
  line : Nat
  job : Nat
  lid : BitVec 32
  waiters : List (Nat × Nat)
  deriving DecidableEq, Repr

/-- A broadcast in progress: the descriptor, the blocks that have issued and the launch's count at the first (R136,
R137). Once sent, `data` holds the tile as rows of bytes with write masks, and `left` the participants that have still
to receive it in their turn (R138). -/
structure Bcast where
  word : BitVec 512
  issued : List Nat
  lid : BitVec 32
  since : Nat
  data : Option (List (Nat × List (Byte × Byte)))
  left : List Nat
  deriving DecidableEq, Repr

/-- A physical block of a region in turn: the management cycles of the turn in progress, and, between a turn and the next,
the logical block (0-5) whose turn ended (R397-R399). -/
structure Turn where
  phys : Nat
  used : Nat
  last : Option Nat
  deriving DecidableEq, Repr

/-- The state of one region. -/
structure Region where
  rbuf : Store 8
  flags : Store 32
  /-- Most recently used first. -/
  cache : List CnpLine
  misses : List CnpMiss
  bcasts : List Bcast
  sce : ListRun
  rve : ListRun
  /-- The RVE's Tumbler array failed its self-test and is out of use (R336). -/
  rveOut : Bool
  /-- The launch that holds the region (R373). -/
  holder : Option (BitVec 32)
  /-- Invalidations this region has still to apply; `none` is one of all entries (R199, R200). -/
  inv : List (Option Nat)
  bucketsDone : Bool
  /-- Logical blocks (0-5) hosted at the moment, in turn mode (R397); the physical block of each. -/
  hosted : List (Nat × Nat)
  turns : List Turn
  /-- Logical blocks (0-5) whose section a turn of this launch has written to the image (R399). -/
  written : List Nat
  /-- What the register windows of logical blocks (0-5) held at the end of their last turn, and the register writes that wait for
  their next (R732). -/
  windows : List (Nat × List Word)
  late : List (Nat × Reg × Word)
  deriving DecidableEq, Repr

def Region.reset : Region :=
  { rbuf := [], flags := [], cache := [], misses := [], bcasts := [], sce := ListRun.idle, rve := ListRun.idle,
    rveOut := false, holder := none, inv := [], bucketsDone := false, hosted := [], turns := [], written := [], windows := [], late := [] }

end Sys2Proof.Machine
end

