-- ==== Sys2Proof/Parts/Ctx.lean ====
section
/-! DEFINITION. The state sections of a context image (09_launches_preemption.md, Table 9.5): the spec says what a section
carries and gives it no byte layout (log 17). -/

namespace Sys2Proof.Machine

/-- What a state section carries: a block's state, a region's, a sampler's, or a stream engine's, each with the launch's count of
array cycles at the save, from which waits go on (R754); for a block in a barrier also the count at its first arrival. The buffers and
accumulator memory of a block and a region's buffer stand beside the section, as bytes. -/
inductive Ctx where
  | blk (k : Block) (ran : Nat) (first : Option Nat)
  | rgn (r : Region) (ran : Nat)
  | smp (u : ListRun) (row : Option Nat) (ran : Nat)
  | vse (u : ListRun) (job : Option VseJob) (ran : Nat)
  deriving DecidableEq, Repr, Inhabited

/-- The bytes it takes: of a half's section the sampler has the first 16,384 and the stream engine the rest (R504). -/
def Ctx.len : Ctx → Nat
  | .smp _ _ _ => 16384
  | .vse _ _ _ => 49152
  | _ => 65536

end Sys2Proof.Machine
end

