-- ==== Sys2Proof/Parts/Stack.lean ====
section
/-! DEFINITION. The state of a memory stack's optical links, and of the Hinge (01_structure.md, 10_optical_memory.md). -/

namespace Sys2Proof.Machine

/-- The width or state of a link (Table 10.5). -/
inductive LinkMode where
  | full | half | retraining | down
  deriving DecidableEq, Repr

/-- One direction of a stack's link: its mode; the logical lane that the spare carries, or is training to carry; the
logical lane erased (read link); the physical lanes that have failed, the spare being the last number (R422-R427). -/
structure Link where
  mode : LinkMode
  spare : Option Nat
  training : Option Nat
  erased : Option Nat
  failed : List Nat
  deriving DecidableEq, Repr

def Link.reset : Link := { mode := .full, spare := none, training := none, erased := none, failed := [] }

/-- A stack: its links, the throttle threshold it reported at training (R437), and the lowest temperature of its
thermal-cycle count (15_health_lifetime.md). `hist` has the read lanes in error in each of the latest 32 bursts, newest
first, or nothing where none was (R422); `tsv` the data TSVs, as channel and TSV, whose place a spare TSV has taken
(Table 10.1). -/
structure Stack where
  rd : Link
  wr : Link
  tt : Int
  low : Option Int
  hist : List (List Nat)
  tsv : List (Nat × Nat)
  /-- The calibration of its lanes, once they have locked: bias, heater setpoint and receiver offsets (Table 13.3). -/
  cal : Option (List Nat)
  /-- Failed checks in succession of the write frame that is being sent (R423). -/
  badFrames : Nat
  deriving DecidableEq, Repr

def Stack.reset : Stack :=
  { rd := Link.reset, wr := Link.reset, tt := 0, low := none, hist := [], tsv := [], cal := none, badFrames := 0 }

/-- The Hinge: its width or state; by direction and class the receive credits that senders hold; the failed checks in succession by
direction; by direction the data wires that spares have taken the place of, the most recent last; and how many beats each flow has
delivered, a flow being a direction, a class, a source unit and a destination unit (R20-R31, Tables 1.2, 1.3). -/
structure Hinge where
  mode : LinkMode
  credits : List Nat
  fails : List Nat
  replays : Nat
  spares : List (List Nat)
  flows : List ((Nat × Nat × WaitUnit × WaitUnit) × Nat)
  deriving DecidableEq, Repr

/-- Receive credits in the order Control, Request, Response, Network, Save; direction 0, then 1 (Table 1.2). -/
def hingeMax : List Nat := [16, 256, 512, 128, 128]

def Hinge.reset : Hinge :=
  { mode := .full, credits := hingeMax ++ hingeMax, fails := [0, 0], replays := 0, spares := [[], []], flows := [] }

end Sys2Proof.Machine
end

