-- ==== Sys2Proof/Parts/Flash.lean ====
section
/-! DEFINITION. The flash, the Keyring, the fuses and the Lockplate (13_boot_keyring.md, 14_lockplate_security.md). -/

namespace Sys2Proof.Machine

/-- The body of a Keyring record (Table 13.3). What the spec lists is held as fields; bodies have no byte layout
(log 18). -/
inductive KBody where
  | ident (mac : BitVec 48)
  | hinge (spares : List (List Nat)) (half : Bool)
  | optcal (cal : List Nat) (rd wr : Link)
  | tsvmap (repairs : List (Nat × Nat))
  | chmap (out next : Nat)
  | blkmap (spare retired next : Nat)
  | life (bytes : List Byte)
  | time (dtc : BitVec 64) (ptp : Nat)
  | lastcfg (regs : List (Nat × Word))
  | bootlog (kind step fail cfgSeq : Nat) (ready clean : Bool)
  deriving DecidableEq, Repr

/-- TYPE of a record (Table 13.3). -/
def KBody.type : KBody → Nat
  | .ident _ => 1
  | .hinge _ _ => 2
  | .optcal _ _ _ => 3
  | .tsvmap _ => 4
  | .chmap _ _ => 5
  | .blkmap _ _ _ => 6
  | .life _ => 7
  | .time _ _ => 8
  | .lastcfg _ => 9
  | .bootlog _ _ _ _ _ _ => 10

/-- A record: INDEX, SEQ and body (R585). `cut` is how many of its bytes were written, where a loss of power cut it short: its CRC is then
wrong (R586, log 154). -/
structure KRec where
  index : Nat
  seq : Nat
  body : KBody
  cut : Option Nat := none
  deriving DecidableEq, Repr

/-- A Keyring sector in use (R584): its place among the 1,024, the sector sequence number and the erase count of its header, the byte
after its last record, and where each record lies, by SEQ. -/
structure KSector where
  place : Nat
  seq : Nat
  erases : Nat
  next : Nat
  recs : List (Nat × Nat)
  deriving DecidableEq, Repr, Inhabited

/-- The journal: the sectors in use, oldest first, and the place and erase count of the erased ones in the order in which they will be
used (R584, R589). -/
structure Journal where
  used : List KSector
  spare : List (Nat × Nat)
  deriving DecidableEq, Repr

/-- The journal of a new module: the nine records of manufacture in one sector of 1,024, none erased before (log 23). -/
def Journal.delivered : Journal :=
  { used := [{ place := 0, seq := 1, erases := 0, next := 2560, recs := (List.range 9).map (fun i => (256 * (i + 1), i + 1)) }]
    spare := (List.range 1023).map (fun i => (i + 1, 0)) }

/-- The content of the flash (Table 13.1): the boot header and image, the configuration block, the Lockplate copies and
factory image, the DevID certificate, and of the Keyring the records that its sectors hold, latest first, and the sectors. -/
structure Flash where
  hdr : List Byte
  image : List Byte
  cfg : List Byte
  copyA : List Byte
  copyB : List Byte
  factory : List Byte
  cert : List Byte
  recs : List KRec
  journal : Journal
  deriving DecidableEq, Repr

/-- Programming of the flash in progress (Table 13.8): the configuration block, or a firmware header and image. -/
inductive FlashOp where
  | cfg (bytes : List Byte)
  | fw (hdr image : List Byte)
  deriving DecidableEq, Repr

/-- A reset, a shutdown or further programming that waits until programming or a grant ends (R606, R639, R640). -/
inductive HeldAct where
  | cold | warm | shutdown | cfgprog | fwinstall
  deriving DecidableEq, Repr

/-- A REGRD or REGWR that the device has read and not executed (R588, R730): its ring, CID and entry, and how many words of a
REGWR are written. -/
structure RegWait where
  ring : Nat
  cid : BitVec 32
  entry : List Byte
  done : Nat
  deriving DecidableEq, Repr

/-- The Keyring queue and flash programming (R587, R606); `waits` while programming waits for a grant's flash write
(R639); `regs` are the register commands behind one that waits for a place in the queue, that one first (R588, R730). -/
structure Krg where
  queue : List KRec
  nextSeq : Nat
  op : Option FlashOp
  waits : Bool
  held : List HeldAct
  regs : List RegWait
  deriving DecidableEq, Repr

def Krg.reset : Krg := { queue := [], nextSeq := 1, op := none, waits := false, held := [], regs := [] }

/-- What the Lockplate engine is doing (LKP_STAT.BUSY): a submission with the RESULT of its checks, whether its EPOCH flag is
set, and its body; a report with its nonce, if that has been read, or a certificate copy, with the address that LKP_OUT held. -/
inductive LkpOp where
  | grant (kind result : Nat) (epoch : Bool) (body : List Byte)
  | attest (out : Nat) (nonce : Option (List Byte))
  | devcert (out : Nat)
  deriving DecidableEq, Repr

/-- An open LK grant: the registers it covers and when it closes, in management cycles (R641). -/
structure LkGrant where
  regs : List Nat
  closes : Nat
  deriving DecidableEq, Repr

/-- The Lockplate: the current image, which copy holds it (0 A, 1 B, 2 factory), whether it is to be scrubbed though its
bytes do not say so (R626), the current nonce, the open grant, a debug grant, and the work in progress. -/
structure Lkp where
  img : List Byte
  which : Nat
  scrubDue : Bool
  nonce : Option (BitVec 256)
  grant : Option LkGrant
  debug : Bool
  op : Option LkpOp
  /-- The firmware measurement and the SVN of the running image (Table 14.9). -/
  mfw : List Byte
  svn : Nat
  deriving DecidableEq, Repr

def Lkp.reset : Lkp :=
  { img := [], which := 2, scrubDue := false, nonce := none, grant := none, debug := false, op := none, mfw := [],
    svn := 0 }

/-- Fuse counts (Table 14.1); the other banks never change and stand in Config. -/
structure Fuses where
  svn : Nat
  epoch : Nat
  deriving DecidableEq, Repr

end Sys2Proof.Machine
end

