-- ==== Sys2Proof/Config.lean ====
section
/-! DEFINITION. What the spec leaves open: free values and free functions. None has a body, so nothing can be
proved of them. Each is named in the assumption log. -/

namespace Sys2Proof.Config

/-- Free bytes, numbered by the model's counter: contents that the spec calls undefined (R109, log 10). -/
opaque freeByte : Nat → BitVec 8

/-- A free word, numbered by the model's counter, for results that the spec does not state (log 26). -/
opaque freeWord : Nat → BitVec 32

/-- The barrier identifier that a SYN instruction word names: the spec gives SYN no layout (log 11). -/
opaque synBarrier : BitVec 512 → Fin 32

/-- Whether the reserved fields of a SYN word are zero: the spec gives SYN no layout (log 11). -/
opaque synReservedOk : BitVec 512 → Bool

/-- The byte offset recorded for a reserved field of a SYN word that is not zero (log 11). -/
opaque synReservedAt : BitVec 512 → BitVec 6

/-- The logical blocks, as a mask, that a launch record makes participants of a barrier: the spec gives no field
(log 11). -/
opaque barrierSet : List (BitVec 8) → Fin 32 → BitVec 48

/-- Where in the region buffer the sorted page-list granules of a launch go, by region: the spec gives no address
(log 40). -/
opaque bucketBase : List (BitVec 8) → Fin 8 → Fin 25165824

/-- The scale exponent formed from an amax that is infinite or NaN: the spec states none (log 45). -/
opaque openExp : BitVec 32 → Int

/-- Which region's buffer an operand reference of a sampler or stream-engine descriptor with SPACE 2 names, by half: the
spec does not say (log 42). -/
opaque halfRegion : BitVec 512 → BitVec 64 → Fin 2 → Fin 8

/-! ### Stream engines (log 12, 48) -/

/-- The session area and the SRC operand reference that an ESES or DSES descriptor names: the spec gives the two no
layout (log 48). -/
opaque openSes : BitVec 512 → BitVec 44
opaque openSrc : BitVec 512 → BitVec 64

/-- The largest RATE of a level: by codec, LEVEL and TIER, in the codec's standard. -/
opaque levelMax : Nat → Nat → Nat → Nat

/-- The state bytes 272 to 4,095 of a session area that hold a session's state, and the state that such bytes hold: the
spec gives them no layout (log 12). -/
opaque sessByte : Machine.Session → Nat → BitVec 8
opaque sessOf : List (BitVec 8) → Machine.Session

/-- The encoder reference model (R471): header bits written before the first CTU and after the last, bits of the normal
coding of CTU k, bits of CTU k in last-resort form when CTU j was the first such, the blocks of CTU k, the bytes of a coded
picture in the codec's syntax and where each CTU row ends in them, the line buffers after a row, the reference slot, which slot, the
mean QP in 1/256. -/
opaque encHead : Machine.EncKey → Nat
opaque encTail : Machine.EncKey → Nat
opaque encCtu : Machine.EncKey → Nat → Nat
opaque encLast : Machine.EncKey → Nat → Nat → Nat
opaque encBlks : Machine.EncKey → Nat → List Machine.CodeBlk
opaque encByte : Machine.EncKey → Machine.CodedPic → Nat → BitVec 8
opaque encRowEnd : Machine.EncKey → Machine.CodedPic → Nat → Nat
opaque encLine : Machine.EncKey → Nat → Nat → BitVec 8
opaque encRef : Machine.EncKey → Nat → BitVec 8
opaque encSlot : Machine.EncKey → Nat
opaque encQp : Machine.EncKey → Nat

/-- What the search stages of R470 start from beside the zero vector, in quarter samples: the co-located vector of the last coded
reference for the 64 x 64 area at (x, y), and the merge and predicted-vector candidates of the standard for block b of CTU k; and the
luma samples of reference n as it was reconstructed (log 12). -/
opaque encColoc : Machine.EncKey → Nat → Nat → Int × Int
opaque encCands : Machine.EncKey → Nat → Nat → List (Int × Int)
opaque encLuma : Machine.EncKey → Nat → Nat → Nat → Nat

/-- What the decoding standards define (R495), given the bits from a position of the unit on, zeros past its end (R491): what the
parser reads of the unit's pictures, and how many bits it reads; the sample (plane, x, y) of picture i of the unit in an area that
is decoded, from its references; film grain over a sample of a picture; and the line buffers after a row of picture i; the slot of picture i and its bytes. -/
opaque decParse : Machine.DecKey → (Nat → Bool) → List Machine.PicParse
opaque decBits : Machine.DecKey → (Nat → Bool) → Nat
opaque decSample : Machine.DecKey → Nat → List Machine.KeptPic → Nat → Nat → Nat → Nat
opaque decGrain : Machine.DecKey → Nat → Nat → Nat → Nat → Nat → Nat
opaque decLine : Machine.DecKey → Nat → Nat → Nat → BitVec 8
opaque decRef : Machine.DecKey → Nat → Nat → BitVec 8
opaque decSlot : Machine.DecKey → Nat → Nat

/-! ### Context images (log 17) -/

/-- The bytes of a 64 KiB state section, and what such bytes carry. -/
opaque ctxByte : Machine.Ctx → Nat → BitVec 8
opaque ctxOf : List (BitVec 8) → Machine.Ctx

/-! ### What a module leaves the factory with (logs 23, 24) -/

/-- The flash as delivered: header, image, configuration block and Lockplate copies. -/
opaque factoryHdr : List (BitVec 8)
opaque factoryImage : List (BitVec 8)
opaque factoryCfg : List (BitVec 8)
opaque factoryCopyA : List (BitVec 8)
opaque factoryCopyB : List (BitVec 8)

/-- The public keys of the two factory authorities, the arrival key and OWNERID of the factory Lockplate image. -/
opaque facKey : Fin 2 → List (BitVec 8)
opaque arrivalKey : List (BitVec 8)
opaque factoryOwner : List (BitVec 8)

/-- Of the DevID certificate bytes 3 to 7, to which the spec gives no content, and the signature, by the product key. -/
opaque certGap : BitVec 40
opaque certSig : List (BitVec 8)

/-- Fuses written at manufacture (Table 14.1); of the serial number the bits above its CRC (Table 0.3). -/
opaque uds : BitVec 256
opaque fwKeyDig : BitVec 512
opaque serialHi : BitVec 48

/-- What the Keyring holds from manufacture: the MAC address of IDENT and the spare physical block of each region. -/
opaque mac : BitVec 48
opaque spare : Fin 8 → Fin 7

/-- The bytes of a record's body other than LIFE's, to which the spec gives no layout, and VER and bytes 12 to 15 of a record's header
(log 18). -/
opaque recordBody : Machine.KBody → List (BitVec 8)
opaque recordVer : BitVec 8
opaque recordGap : BitVec 32

/-- Calibration of a stack's lanes, or of the network engine's, as training leaves it: nothing reads it but the next
training. -/
opaque optCal : Nat → List Nat

/-! ### Signatures (log 13) -/

/-- ML-DSA-87 of FIPS 204: whether a signature over a digest verifies under a public key; the public key of a seed; the
signature of a digest by the key pair of a seed. -/
opaque mlVerify : List (BitVec 8) → List (BitVec 8) → List (BitVec 8) → Bool
opaque mlPublic : List (BitVec 8) → List (BitVec 8)
opaque mlSign : List (BitVec 8) → List (BitVec 8) → List (BitVec 8)

/-! ### Pins (log 15) -/

/-- What a start-up that is late finds, up to the step that is: BOOT_STEP_TIMEOUT does not say (log 51). -/
opaque lateEnv : Nat → BootEnv

/-- The command and the address of a write frame: the spec gives them no layout (R423). -/
opaque frameHead : Nat → List (BitVec 8)

/-- Whether the module honours a low level on RST_N of between 1 µs and 2 µs, in ns. -/
opaque rstHonoured : Nat → Bool

end Sys2Proof.Config
end

