-- ==== Sys2Proof/Machine/Regs.lean ====
section
/-! DEFINITION. The register map: where each register lies (R725, R726, R741, R742), its fields with their access
codes and reset values (the register tables of each chapter), and the group it belongs to (R740). -/

namespace Sys2Proof.Machine

/-- A register of the map: its window, the offset of its first instance, the distance between instances and
their number (Tables 17.2, 17.7, 17.8). -/
def regPlace : Reg → Window × Nat × Nat × Nat
  | .devId0 => (.device, 0x0, 0x0, 1)
  | .devId1 => (.device, 0x4, 0x0, 1)
  | .devFw => (.device, 0x8, 0x0, 1)
  | .devSn0 => (.device, 0xC, 0x0, 1)
  | .devSn1 => (.device, 0x10, 0x0, 1)
  | .devMem => (.device, 0x14, 0x0, 1)
  | .devMode => (.device, 0x18, 0x0, 1)
  | .devCommit => (.device, 0x1C, 0x0, 1)
  | .devDtc0 => (.device, 0x20, 0x0, 1)
  | .devDtc1 => (.device, 0x24, 0x0, 1)
  | .devPrestat => (.device, 0x28, 0x0, 1)
  | .devOvrun => (.device, 0x30, 0x4, 4)
  | .clkStat => (.device, 0x40, 0x0, 1)
  | .clkRef => (.device, 0x44, 0x0, 1)
  | .clkDiv => (.device, 0x48, 0x0, 1)
  | .tmbKey0 => (.device, 0x100, 0x0, 1)
  | .tmbKey1 => (.device, 0x104, 0x0, 1)
  | .tmbCommit => (.device, 0x108, 0x0, 1)
  | .tmbStat => (.device, 0x10C, 0x0, 1)
  | .cnpInv => (.device, 0x110, 0x0, 1)
  | .cnpInvstat => (.device, 0x114, 0x0, 1)
  | .smpStat => (.device, 0x120, 0x8, 2)
  | .smpFault => (.device, 0x124, 0x8, 2)
  | .vseCfg => (.device, 0x140, 0x20, 2)
  | .vseCommit => (.device, 0x144, 0x20, 2)
  | .vseStat => (.device, 0x148, 0x20, 2)
  | .vseFault => (.device, 0x14C, 0x20, 2)
  | .vseDerr => (.device, 0x150, 0x20, 2)
  | .vseRcev => (.device, 0x154, 0x20, 2)
  | .memCap => (.device, 0x200, 0x0, 1)
  | .memCfg => (.device, 0x204, 0x0, 1)
  | .memCfgCommit => (.device, 0x208, 0x0, 1)
  | .memMscflush => (.device, 0x20C, 0x0, 1)
  | .memFrcCommit => (.device, 0x210, 0x0, 1)
  | .memFrcStat => (.device, 0x214, 0x0, 1)
  | .memJobCommit => (.device, 0x218, 0x0, 1)
  | .memJobres => (.device, 0x220, 0x4, 4)
  | .memMscwaysLo => (.device, 0x230, 0x8, 2)
  | .memMscwaysHi => (.device, 0x234, 0x8, 2)
  | .memFrcwin0 => (.device, 0x300, 0x10, 16)
  | .memFrcwin1 => (.device, 0x304, 0x10, 16)
  | .memFrcwin2 => (.device, 0x308, 0x10, 16)
  | .memFrcwin3 => (.device, 0x30C, 0x10, 16)
  | .netStat => (.device, 0x400, 0x0, 1)
  | .netPtpofs => (.device, 0x404, 0x0, 1)
  | .netErr => (.device, 0x408, 0x0, 1)
  | .netMac0 => (.device, 0x40C, 0x0, 1)
  | .netMac1 => (.device, 0x410, 0x0, 1)
  | .netPpsts0 => (.device, 0x414, 0x0, 1)
  | .netPpsts1 => (.device, 0x418, 0x0, 1)
  | .netCfg => (.device, 0x41C, 0x0, 1)
  | .netCommit => (.device, 0x420, 0x0, 1)
  | .latCfg => (.device, 0x480, 0x0, 1)
  | .latCommit => (.device, 0x484, 0x0, 1)
  | .latStat => (.device, 0x488, 0x0, 1)
  | .latTkey => (.device, 0x4A0, 0x4, 8)
  | .krgCtl => (.device, 0x500, 0x0, 1)
  | .krgSrc => (.device, 0x504, 0x0, 1)
  | .krgSrclen => (.device, 0x508, 0x0, 1)
  | .krgStat => (.device, 0x50C, 0x0, 1)
  | .krgBoot => (.device, 0x510, 0x0, 1)
  | .krgRetire => (.device, 0x514, 0x0, 1)
  | .krgUnretire => (.device, 0x518, 0x0, 1)
  | .krgBlkrst => (.device, 0x51C, 0x0, 1)
  | .krgWear => (.device, 0x520, 0x0, 1)
  | .krgBlkmap => (.device, 0x540, 0x4, 8)
  | .lkpStat => (.device, 0x600, 0x0, 1)
  | .lkpCtl => (.device, 0x604, 0x0, 1)
  | .lkpReq => (.device, 0x608, 0x0, 1)
  | .lkpOut => (.device, 0x60C, 0x0, 1)
  | .lkpGen => (.device, 0x610, 0x4, 2)
  | .lkpGrant => (.device, 0x618, 0x0, 1)
  | .lkpFuse => (.device, 0x61C, 0x0, 1)
  | .lkpNonce => (.device, 0x620, 0x4, 8)
  | .hltTemp => (.device, 0x700, 0x4, 2)
  | .hltPwr => (.device, 0x708, 0x0, 1)
  | .hltPcapb => (.device, 0x70C, 0x0, 1)
  | .hltPcapd => (.device, 0x710, 0x0, 1)
  | .hltDuty => (.device, 0x714, 0x0, 1)
  | .hltEvt => (.device, 0x718, 0x0, 1)
  | .hltCfg => (.device, 0x71C, 0x0, 1)
  | .hltCommit => (.device, 0x720, 0x0, 1)
  | .hltWear => (.device, 0x724, 0x0, 1)
  | .hltEcc => (.device, 0x728, 0x0, 1)
  | .hltCtl => (.device, 0x72C, 0x0, 1)
  | .hltAddr => (.device, 0x730, 0x0, 1)
  | .hltLen => (.device, 0x734, 0x0, 1)
  | .hltCrc => (.device, 0x738, 0x4, 2)
  | .latWin0 => (.device, 0x1000, 0x10, 256)
  | .latWin1 => (.device, 0x1004, 0x10, 256)
  | .latWin2 => (.device, 0x1008, 0x10, 256)
  | .latWin3 => (.device, 0x100C, 0x10, 256)
  | .blkCfg => (.block, 0x0, 0x100, 48)
  | .blkCommit => (.block, 0x4, 0x100, 48)
  | .blkSeqstat => (.block, 0x8, 0x100, 48)
  | .blkPc => (.block, 0xC, 0x100, 48)
  | .blkWardcnt => (.block, 0x10, 0x100, 48)
  | .blkWardlog => (.block, 0x14, 0x100, 48)
  | .blkWardpc => (.block, 0x18, 0x100, 48)
  | .blkEcc => (.block, 0x1C, 0x100, 48)
  | .blkTest => (.block, 0x20, 0x100, 48)
  | .blkTfault => (.block, 0x24, 0x100, 48)
  | .blkTfpc => (.block, 0x28, 0x100, 48)
  | .blkNoopcnt => (.block, 0x2C, 0x100, 48)
  | .rgnCommit => (.region, 0x0, 0x1000, 8)
  | .cnpBase => (.region, 0x200, 0x1000, 8)
  | .cnpCommit => (.region, 0x204, 0x1000, 8)
  | .cnpHit => (.region, 0x208, 0x1000, 8)
  | .cnpMiss => (.region, 0x20C, 0x1000, 8)
  | .cnpFault => (.region, 0x210, 0x1000, 8)
  | .rgnCnpways0 => (.region, 0x214, 0x1000, 8)
  | .rgnCnpways1 => (.region, 0x218, 0x1000, 8)
  | .rgnFlagfault => (.region, 0x300, 0x1000, 8)
  | .sceStat => (.region, 0x400, 0x1000, 8)
  | .sceFault => (.region, 0x404, 0x1000, 8)
  | .sceDone => (.region, 0x408, 0x1000, 8)
  | .rveTrnbase => (.region, 0x500, 0x1000, 8)
  | .rveAmxbase => (.region, 0x504, 0x1000, 8)
  | .rveTrncfg => (.region, 0x508, 0x1000, 8)
  | .rveCommit => (.region, 0x50C, 0x1000, 8)
  | .rveTrnstat => (.region, 0x510, 0x1000, 8)
  | .rveFbcnt => (.region, 0x514, 0x1000, 8)
  | .rveRndstat => (.region, 0x518, 0x1000, 8)
  | .rveRedstat => (.region, 0x51C, 0x1000, 8)
  | .rgnRun => (.region, 0x600, 0x1000, 8)
  | .rgnTurn => (.region, 0x604, 0x1000, 8)
  | .rgnTurnstat => (.region, 0x608, 0x1000, 8)
  | .stkStat => (.stack, 0x0, 0x100, 24)
  | .stkChmap => (.stack, 0x4, 0x100, 24)
  | .stkMapreq => (.stack, 0x8, 0x100, 24)
  | .stkUnmap => (.stack, 0xC, 0x100, 24)
  | .stkCorr => (.stack, 0x10, 0x100, 24)
  | .stkUnc => (.stack, 0x14, 0x100, 24)
  | .stkElog => (.stack, 0x18, 0x100, 24)
  | .stkEaddr => (.stack, 0x1C, 0x100, 24)
  | .optLane => (.stack, 0x40, 0x100, 24)
  | .optSpare => (.stack, 0x44, 0x100, 24)

/-- The fields of a register, most significant first (Tables 1.5 to 17.5, the register tables). -/
def regFields : Reg → List Field
  | .devId0 =>
    [⟨31, 16, .ro, 0x4880⟩, ⟨15, 0, .ro, 0xC5A7⟩]
  | .devId1 =>
    [⟨31, 24, .ro, 0xA1⟩, ⟨23, 16, .ro, 0x30⟩, ⟨15, 0, .rsvd, 0x0⟩]
  | .devFw =>
    [⟨31, 24, .rsvd, 0x0⟩, ⟨23, 16, .ro, 0x0⟩, ⟨15, 0, .ro, 0x0⟩]
  | .devSn0 | .devSn1 | .devDtc0 | .devDtc1 | .netPtpofs
  | .netMac0 | .netPpsts0 | .netPpsts1 | .lkpGen | .lkpNonce
  | .hltCrc | .blkPc | .blkWardpc | .blkTfpc | .stkEaddr =>
    [⟨31, 0, .ro, 0x0⟩]
  | .devMem =>
    [⟨31, 0, .ro, 0x180⟩]
  | .devMode =>
    [⟨31, 2, .rsvd, 0x0⟩, ⟨1, 1, .rw, 0x0⟩, ⟨0, 0, .rw, 0x0⟩]
  | .devCommit | .tmbCommit | .vseCommit | .memCfgCommit | .memFrcCommit
  | .memJobCommit | .netCommit | .latCommit | .hltCommit | .blkCommit
  | .rgnCommit | .cnpCommit | .rveCommit =>
    [⟨31, 16, .ro, 0x0⟩, ⟨15, 12, .ro, 0x0⟩, ⟨11, 9, .rsvd, 0x0⟩, ⟨8, 8, .w1c, 0x0⟩, ⟨7, 5, .rsvd, 0x0⟩,
     ⟨4, 4, .ro, 0x0⟩, ⟨3, 3, .rw, 0x0⟩, ⟨2, 2, .ro, 0x0⟩, ⟨1, 1, .wo, 0x0⟩, ⟨0, 0, .wo, 0x0⟩]
  | .devPrestat | .netErr =>
    [⟨31, 24, .rc, 0x0⟩, ⟨23, 16, .rc, 0x0⟩, ⟨15, 8, .rc, 0x0⟩, ⟨7, 0, .rc, 0x0⟩]
  | .devOvrun | .vseDerr | .vseRcev | .hltEcc | .blkWardcnt
  | .blkNoopcnt | .stkUnc =>
    [⟨31, 16, .rc, 0x0⟩, ⟨15, 0, .rc, 0x0⟩]
  | .clkStat =>
    [⟨31, 31, .ro, 0x0⟩, ⟨30, 30, .ro, 0x1⟩, ⟨29, 29, .ro, 0x0⟩,
     ⟨28, 28, .ro, 0x0⟩, ⟨27, 16, .rsvd, 0x0⟩, ⟨15, 0, .rc, 0x0⟩]
  | .clkRef =>
    [⟨31, 31, .ro, 0x0⟩, ⟨30, 16, .rsvd, 0x0⟩, ⟨15, 0, .ro, 0x0⟩]
  | .clkDiv =>
    [⟨31, 24, .ro, 0x54⟩, ⟨23, 16, .ro, 0xC⟩, ⟨15, 12, .ro, 0x8⟩,
     ⟨11, 8, .ro, 0x6⟩, ⟨7, 4, .ro, 0x4⟩, ⟨3, 0, .rsvd, 0x0⟩]
  | .tmbKey0 | .tmbKey1 | .krgSrc | .lkpReq | .lkpOut
  | .hltAddr | .hltLen | .latWin1 | .latWin2 | .latWin3
  | .rveTrnbase | .rveAmxbase =>
    [⟨31, 0, .rw, 0x0⟩]
  | .tmbStat =>
    [⟨31, 31, .w1c, 0x0⟩, ⟨30, 24, .rsvd, 0x0⟩, ⟨23, 16, .ro, 0x0⟩, ⟨15, 0, .rc, 0x0⟩]
  | .cnpInv =>
    [⟨31, 31, .wo, 0x0⟩, ⟨30, 19, .rsvd, 0x0⟩, ⟨18, 0, .wo, 0x0⟩]
  | .cnpInvstat =>
    [⟨31, 16, .rsvd, 0x0⟩, ⟨15, 8, .ro, 0x0⟩, ⟨7, 1, .rsvd, 0x0⟩, ⟨0, 0, .ro, 0x0⟩]
  | .smpStat =>
    [⟨31, 28, .ro, 0x0⟩, ⟨27, 24, .rsvd, 0x0⟩, ⟨23, 16, .ro, 0x0⟩, ⟨15, 0, .rc, 0x0⟩]
  | .smpFault =>
    [⟨31, 31, .w1c, 0x0⟩, ⟨30, 28, .ro, 0x0⟩, ⟨27, 22, .ro, 0x0⟩, ⟨21, 8, .rsvd, 0x0⟩, ⟨7, 0, .ro, 0x0⟩]
  | .vseCfg =>
    [⟨31, 24, .rsvd, 0x0⟩, ⟨23, 16, .rw, 0x98⟩, ⟨15, 8, .rw, 0x10⟩, ⟨7, 1, .rsvd, 0x0⟩, ⟨0, 0, .rw, 0x0⟩]
  | .vseStat =>
    [⟨31, 28, .ro, 0x0⟩, ⟨27, 16, .ro, 0x0⟩, ⟨15, 0, .ro, 0x0⟩]
  | .vseFault =>
    [⟨31, 31, .w1c, 0x0⟩, ⟨30, 28, .ro, 0x0⟩, ⟨27, 22, .ro, 0x0⟩, ⟨21, 12, .rsvd, 0x0⟩, ⟨11, 0, .ro, 0x0⟩]
  | .memCap =>
    [⟨31, 24, .ro, 0xC0⟩, ⟨23, 16, .ro, 0xC0⟩, ⟨15, 0, .ro, 0x180⟩]
  | .memCfg =>
    [⟨31, 24, .rsvd, 0x0⟩, ⟨23, 16, .rw, 0x8⟩, ⟨15, 4, .rsvd, 0x0⟩, ⟨3, 0, .rw, 0x0⟩]
  | .memMscflush =>
    [⟨31, 31, .ro, 0x0⟩, ⟨30, 2, .rsvd, 0x0⟩, ⟨1, 0, .wo, 0x0⟩]
  | .memFrcStat =>
    [⟨31, 31, .w1c, 0x0⟩, ⟨30, 25, .ro, 0x0⟩, ⟨24, 20, .ro, 0x0⟩, ⟨19, 16, .ro, 0x0⟩, ⟨15, 0, .rc, 0x0⟩]
  | .memJobres =>
    [⟨31, 16, .rsvd, 0x0⟩, ⟨15, 0, .rw, 0x0⟩]
  | .memMscwaysLo | .rgnCnpways0 =>
    [⟨31, 28, .rsvd, 0x0⟩, ⟨27, 24, .rw, 0x0⟩, ⟨23, 21, .rsvd, 0x0⟩, ⟨20, 16, .rw, 0x0⟩,
     ⟨15, 12, .rsvd, 0x0⟩, ⟨11, 8, .rw, 0x0⟩, ⟨7, 5, .rsvd, 0x0⟩, ⟨4, 0, .rw, 0x10⟩]
  | .memMscwaysHi | .rgnCnpways1 =>
    [⟨31, 28, .rsvd, 0x0⟩, ⟨27, 24, .rw, 0x0⟩, ⟨23, 21, .rsvd, 0x0⟩, ⟨20, 16, .rw, 0x0⟩,
     ⟨15, 12, .rsvd, 0x0⟩, ⟨11, 8, .rw, 0x0⟩, ⟨7, 5, .rsvd, 0x0⟩, ⟨4, 0, .rw, 0x0⟩]
  | .memFrcwin0 =>
    [⟨31, 31, .rw, 0x0⟩, ⟨30, 26, .rsvd, 0x0⟩, ⟨25, 25, .rw, 0x0⟩,
     ⟨24, 24, .rw, 0x0⟩, ⟨23, 22, .rsvd, 0x0⟩, ⟨21, 0, .rw, 0x0⟩]
  | .memFrcwin1 =>
    [⟨31, 22, .rsvd, 0x0⟩, ⟨21, 0, .rw, 0x0⟩]
  | .memFrcwin2 =>
    [⟨31, 23, .rsvd, 0x0⟩, ⟨22, 0, .rw, 0x0⟩]
  | .memFrcwin3 =>
    [⟨31, 0, .rsvd, 0x0⟩]
  | .netStat =>
    [⟨31, 31, .ro, 0x0⟩, ⟨30, 28, .ro, 0x0⟩, ⟨27, 27, .ro, 0x0⟩, ⟨26, 0, .rsvd, 0x0⟩]
  | .netMac1 =>
    [⟨31, 16, .rsvd, 0x0⟩, ⟨15, 0, .ro, 0x0⟩]
  | .netCfg =>
    [⟨31, 24, .rw, 0x0⟩, ⟨23, 21, .rw, 0x3⟩, ⟨20, 13, .rw, 0x5⟩, ⟨12, 5, .rw, 0xB⟩, ⟨4, 0, .rw, 0x1⟩]
  | .latCfg =>
    [⟨31, 16, .rw, 0x1F4⟩, ⟨15, 0, .rsvd, 0x0⟩]
  | .latStat =>
    [⟨31, 21, .ro, 0x0⟩, ⟨20, 20, .ro, 0x0⟩, ⟨19, 19, .ro, 0x0⟩, ⟨18, 13, .rc, 0x0⟩, ⟨12, 0, .ro, 0x0⟩]
  | .latTkey =>
    [⟨31, 0, .wo, 0x0⟩]
  | .krgCtl =>
    [⟨31, 7, .rsvd, 0x0⟩, ⟨6, 6, .wo, 0x0⟩, ⟨5, 5, .wo, 0x0⟩, ⟨4, 4, .wo, 0x0⟩,
     ⟨3, 3, .wo, 0x0⟩, ⟨2, 2, .wo, 0x0⟩, ⟨1, 1, .wo, 0x0⟩, ⟨0, 0, .wo, 0x0⟩]
  | .krgSrclen =>
    [⟨31, 15, .rsvd, 0x0⟩, ⟨14, 0, .rw, 0x0⟩]
  | .krgStat =>
    [⟨31, 31, .ro, 0x0⟩, ⟨30, 28, .ro, 0x0⟩, ⟨27, 24, .ro, 0x0⟩, ⟨23, 23, .w1c, 0x0⟩,
     ⟨22, 22, .w1c, 0x0⟩, ⟨21, 21, .w1c, 0x0⟩, ⟨20, 20, .ro, 0x0⟩, ⟨19, 14, .ro, 0x0⟩, ⟨13, 0, .ro, 0x0⟩]
  | .krgBoot =>
    [⟨31, 30, .ro, 0x0⟩, ⟨29, 26, .ro, 0x0⟩, ⟨25, 22, .ro, 0x0⟩, ⟨21, 21, .ro, 0x0⟩, ⟨20, 19, .ro, 0x0⟩,
     ⟨18, 18, .ro, 0x0⟩, ⟨17, 17, .ro, 0x0⟩, ⟨16, 16, .ro, 0x0⟩, ⟨15, 8, .ro, 0x0⟩, ⟨7, 0, .rsvd, 0x0⟩]
  | .krgRetire | .krgBlkrst =>
    [⟨31, 6, .rsvd, 0x0⟩, ⟨5, 0, .wo, 0x0⟩]
  | .krgUnretire =>
    [⟨31, 6, .rsvd, 0x0⟩, ⟨5, 0, .lk, 0x0⟩]
  | .krgWear | .hltPwr | .stkChmap =>
    [⟨31, 16, .ro, 0x0⟩, ⟨15, 0, .ro, 0x0⟩]
  | .krgBlkmap =>
    [⟨31, 23, .rsvd, 0x0⟩, ⟨22, 16, .ro, 0x0⟩, ⟨15, 15, .rsvd, 0x0⟩,
     ⟨14, 8, .ro, 0x0⟩, ⟨7, 7, .rsvd, 0x0⟩, ⟨6, 0, .ro, 0x0⟩]
  | .lkpStat =>
    [⟨31, 31, .ro, 0x0⟩, ⟨30, 27, .ro, 0x0⟩, ⟨26, 24, .ro, 0x0⟩, ⟨23, 23, .ro, 0x0⟩, ⟨22, 22, .ro, 0x0⟩,
     ⟨21, 21, .ro, 0x0⟩, ⟨20, 20, .w1c, 0x0⟩, ⟨19, 16, .rsvd, 0x0⟩, ⟨15, 8, .ro, 0x0⟩, ⟨7, 0, .rsvd, 0x0⟩]
  | .lkpCtl =>
    [⟨31, 4, .rsvd, 0x0⟩, ⟨3, 3, .wo, 0x0⟩, ⟨2, 2, .wo, 0x0⟩, ⟨1, 1, .wo, 0x0⟩, ⟨0, 0, .wo, 0x0⟩]
  | .lkpGrant =>
    [⟨31, 20, .rsvd, 0x0⟩, ⟨19, 16, .ro, 0x0⟩, ⟨15, 0, .ro, 0x0⟩]
  | .lkpFuse =>
    [⟨31, 18, .rsvd, 0x0⟩, ⟨17, 17, .ro, 0x0⟩, ⟨16, 16, .rsvd, 0x0⟩, ⟨15, 8, .ro, 0x0⟩, ⟨7, 0, .ro, 0x0⟩]
  | .hltTemp =>
    [⟨31, 24, .ro, 0x0⟩, ⟨23, 16, .ro, 0x0⟩, ⟨15, 8, .ro, 0x0⟩, ⟨7, 6, .ro, 0x0⟩, ⟨5, 0, .rsvd, 0x0⟩]
  | .hltPcapb =>
    [⟨31, 28, .rsvd, 0x0⟩, ⟨27, 16, .ro, 0xA8C⟩, ⟨15, 15, .wo, 0x0⟩, ⟨14, 12, .rsvd, 0x0⟩, ⟨11, 0, .wo, 0x0⟩]
  | .hltPcapd =>
    [⟨31, 28, .rsvd, 0x0⟩, ⟨27, 16, .ro, 0xA8C⟩, ⟨15, 12, .rsvd, 0x0⟩, ⟨11, 0, .wo, 0x0⟩]
  | .hltDuty =>
    [⟨31, 27, .rsvd, 0x0⟩, ⟨26, 24, .ro, 0x0⟩, ⟨23, 21, .rsvd, 0x0⟩, ⟨20, 16, .ro, 0x10⟩,
     ⟨15, 11, .rsvd, 0x0⟩, ⟨10, 8, .ro, 0x0⟩, ⟨7, 5, .rsvd, 0x0⟩, ⟨4, 0, .ro, 0x10⟩]
  | .hltEvt =>
    [⟨31, 6, .rsvd, 0x0⟩, ⟨5, 5, .w1c, 0x0⟩, ⟨4, 4, .w1c, 0x0⟩,
     ⟨3, 3, .w1c, 0x0⟩, ⟨2, 2, .w1c, 0x0⟩, ⟨1, 1, .w1c, 0x0⟩, ⟨0, 0, .w1c, 0x0⟩]
  | .hltCfg =>
    [⟨31, 16, .rw, 0x7D0⟩, ⟨15, 6, .rsvd, 0x0⟩, ⟨5, 0, .rw, 0x3F⟩]
  | .hltWear =>
    [⟨31, 24, .ro, 0x0⟩, ⟨23, 23, .ro, 0x0⟩, ⟨22, 16, .ro, 0x0⟩, ⟨15, 0, .ro, 0xFFFF⟩]
  | .hltCtl =>
    [⟨31, 31, .ro, 0x0⟩, ⟨30, 30, .ro, 0x0⟩, ⟨29, 2, .rsvd, 0x0⟩, ⟨1, 1, .wo, 0x0⟩, ⟨0, 0, .wo, 0x0⟩]
  | .latWin0 =>
    [⟨31, 31, .rw, 0x0⟩, ⟨30, 0, .rsvd, 0x0⟩]
  | .blkCfg =>
    [⟨31, 24, .rsvd, 0x0⟩, ⟨23, 16, .rw, 0x10⟩, ⟨15, 6, .rsvd, 0x0⟩, ⟨5, 4, .rw, 0x2⟩, ⟨3, 0, .rw, 0xC⟩]
  | .blkSeqstat =>
    [⟨31, 28, .ro, 0x0⟩, ⟨27, 24, .ro, 0x0⟩, ⟨23, 23, .ro, 0x0⟩, ⟨22, 16, .ro, 0x0⟩, ⟨15, 0, .rsvd, 0x0⟩]
  | .blkWardlog =>
    [⟨31, 31, .w1c, 0x0⟩, ⟨30, 28, .ro, 0x0⟩, ⟨27, 20, .ro, 0x0⟩, ⟨19, 12, .ro, 0x0⟩, ⟨11, 0, .ro, 0x0⟩]
  | .blkEcc =>
    [⟨31, 20, .rsvd, 0x0⟩, ⟨19, 16, .ro, 0x0⟩, ⟨15, 0, .rc, 0x0⟩]
  | .blkTest =>
    [⟨31, 1, .rsvd, 0x0⟩, ⟨0, 0, .wo, 0x0⟩]
  | .blkTfault =>
    [⟨31, 31, .w1c, 0x0⟩, ⟨30, 24, .rsvd, 0x0⟩, ⟨23, 16, .ro, 0x0⟩, ⟨15, 8, .ro, 0x0⟩, ⟨7, 0, .ro, 0x0⟩]
  | .cnpBase =>
    [⟨31, 31, .rw, 0x0⟩, ⟨30, 20, .rsvd, 0x0⟩, ⟨19, 0, .rw, 0x0⟩]
  | .cnpHit | .cnpMiss | .sceDone | .rveFbcnt | .stkCorr =>
    [⟨31, 0, .rc, 0x0⟩]
  | .cnpFault =>
    [⟨31, 31, .w1c, 0x0⟩, ⟨30, 28, .ro, 0x0⟩, ⟨27, 25, .ro, 0x0⟩, ⟨24, 19, .rsvd, 0x0⟩, ⟨18, 0, .ro, 0x0⟩]
  | .rgnFlagfault =>
    [⟨31, 31, .w1c, 0x0⟩, ⟨30, 29, .ro, 0x0⟩, ⟨28, 26, .ro, 0x0⟩, ⟨25, 16, .rsvd, 0x0⟩,
     ⟨15, 12, .ro, 0x0⟩, ⟨11, 9, .ro, 0x0⟩, ⟨8, 6, .rsvd, 0x0⟩, ⟨5, 0, .ro, 0x0⟩]
  | .sceStat =>
    [⟨31, 28, .ro, 0x0⟩, ⟨27, 16, .rsvd, 0x0⟩, ⟨15, 0, .ro, 0x0⟩]
  | .sceFault | .rveRndstat | .rveRedstat =>
    [⟨31, 31, .w1c, 0x0⟩, ⟨30, 28, .ro, 0x0⟩, ⟨27, 22, .ro, 0x0⟩, ⟨21, 16, .rsvd, 0x0⟩, ⟨15, 0, .ro, 0x0⟩]
  | .rveTrncfg =>
    [⟨31, 24, .rw, 0xEC⟩, ⟨23, 16, .rsvd, 0x0⟩, ⟨15, 8, .rw, 0x0⟩, ⟨7, 0, .rw, 0x0⟩]
  | .rveTrnstat =>
    [⟨31, 31, .w1c, 0x0⟩, ⟨30, 28, .ro, 0x0⟩, ⟨27, 22, .ro, 0x0⟩, ⟨21, 14, .rsvd, 0x0⟩, ⟨13, 0, .ro, 0x0⟩]
  | .rgnRun =>
    [⟨31, 28, .ro, 0x0⟩, ⟨27, 26, .ro, 0x0⟩, ⟨25, 24, .ro, 0x0⟩, ⟨23, 0, .ro, 0x0⟩]
  | .rgnTurn =>
    [⟨31, 16, .rsvd, 0x0⟩, ⟨15, 0, .rw, 0x400⟩]
  | .rgnTurnstat =>
    [⟨31, 19, .rsvd, 0x0⟩, ⟨18, 16, .ro, 0x6⟩, ⟨15, 0, .rc, 0x0⟩]
  | .stkStat =>
    [⟨31, 24, .ro, 0x0⟩, ⟨23, 16, .ro, 0x0⟩, ⟨15, 14, .ro, 0x0⟩,
     ⟨13, 13, .ro, 0x0⟩, ⟨12, 11, .ro, 0x0⟩, ⟨10, 8, .rsvd, 0x0⟩, ⟨7, 0, .rc, 0x0⟩]
  | .stkMapreq =>
    [⟨31, 16, .rsvd, 0x0⟩, ⟨15, 0, .wo, 0x0⟩]
  | .stkUnmap =>
    [⟨31, 16, .rsvd, 0x0⟩, ⟨15, 0, .lk, 0x0⟩]
  | .stkElog =>
    [⟨31, 31, .w1c, 0x0⟩, ⟨30, 28, .ro, 0x0⟩, ⟨27, 24, .ro, 0x0⟩, ⟨23, 0, .rsvd, 0x0⟩]
  | .optLane =>
    [⟨31, 28, .ro, 0x0⟩, ⟨27, 22, .ro, 0x0⟩, ⟨21, 16, .ro, 0x0⟩,
     ⟨15, 12, .ro, 0x0⟩, ⟨11, 7, .ro, 0x0⟩, ⟨6, 6, .w1c, 0x0⟩, ⟨5, 0, .rsvd, 0x0⟩]
  | .optSpare =>
    [⟨31, 31, .wo, 0x0⟩, ⟨30, 6, .rsvd, 0x0⟩, ⟨5, 0, .wo, 0x0⟩]

/-- Part 0 of the register index (R741, R742). -/
def regAll0 : List Reg :=
  [.devId0, .devId1, .devFw, .devSn0, .devSn1, .devMem, .devMode,
   .devCommit, .devDtc0, .devDtc1, .devPrestat, .devOvrun, .clkStat, .clkRef,
   .clkDiv, .tmbKey0, .tmbKey1, .tmbCommit, .tmbStat, .cnpInv, .cnpInvstat,
   .smpStat, .smpFault, .vseCfg, .vseCommit, .vseStat, .vseFault, .vseDerr,
   .vseRcev, .memCap, .memCfg, .memCfgCommit, .memMscflush, .memFrcCommit, .memFrcStat,
   .memJobCommit, .memJobres, .memMscwaysLo, .memMscwaysHi, .memFrcwin0]

/-- Part 1 of the register index (R741, R742). -/
def regAll1 : List Reg :=
  [.memFrcwin1, .memFrcwin2, .memFrcwin3, .netStat, .netPtpofs, .netErr, .netMac0,
   .netMac1, .netPpsts0, .netPpsts1, .netCfg, .netCommit, .latCfg, .latCommit,
   .latStat, .latTkey, .krgCtl, .krgSrc, .krgSrclen, .krgStat, .krgBoot,
   .krgRetire, .krgUnretire, .krgBlkrst, .krgWear, .krgBlkmap, .lkpStat, .lkpCtl,
   .lkpReq, .lkpOut, .lkpGen, .lkpGrant, .lkpFuse, .lkpNonce, .hltTemp,
   .hltPwr, .hltPcapb, .hltPcapd, .hltDuty, .hltEvt]

/-- Part 2 of the register index (R741, R742). -/
def regAll2 : List Reg :=
  [.hltCfg, .hltCommit, .hltWear, .hltEcc, .hltCtl, .hltAddr, .hltLen,
   .hltCrc, .latWin0, .latWin1, .latWin2, .latWin3, .blkCfg, .blkCommit,
   .blkSeqstat, .blkPc, .blkWardcnt, .blkWardlog, .blkWardpc, .blkEcc, .blkTest,
   .blkTfault, .blkTfpc, .blkNoopcnt, .rgnCommit, .cnpBase, .cnpCommit, .cnpHit,
   .cnpMiss, .cnpFault, .rgnCnpways0, .rgnCnpways1, .rgnFlagfault, .sceStat, .sceFault,
   .sceDone, .rveTrnbase, .rveAmxbase, .rveTrncfg, .rveCommit]

/-- Part 3 of the register index (R741, R742). -/
def regAll3 : List Reg :=
  [.rveTrnstat, .rveFbcnt, .rveRndstat, .rveRedstat, .rgnRun, .rgnTurn, .rgnTurnstat,
   .stkStat, .stkChmap, .stkMapreq, .stkUnmap, .stkCorr, .stkUnc, .stkElog,
   .stkEaddr, .optLane, .optSpare]

/-- Every register name, in the order of the register index (R741, R742). -/
def regAll : List Reg := regAll0 ++ regAll1 ++ regAll2 ++ regAll3

/-- The group whose field register this is, for instance `i` (R740, Table 17.6). -/
def fieldGroup (r : Reg) (i : Nat) : Option Group :=
  match r with
  | .devMode => some .dev
  | .tmbKey0 | .tmbKey1 => some .tmb
  | .vseCfg => some (.vse (Fin.ofNat 2 i))
  | .memCfg => some .memCfg
  | .memJobres | .memMscwaysLo | .memMscwaysHi => some .memJob
  | .memFrcwin0 | .memFrcwin1 | .memFrcwin2 | .memFrcwin3 => some .memFrc
  | .netCfg => some .net
  | .latCfg | .latTkey | .latWin0 | .latWin1 | .latWin2 | .latWin3 => some .lat
  | .hltCfg => some .hlt
  | .blkCfg => some (.blk (Fin.ofNat 48 i))
  | .cnpBase => some (.cnp (Fin.ofNat 8 i))
  | .rgnCnpways0 | .rgnCnpways1 | .rgnTurn => some (.rgn (Fin.ofNat 8 i))
  | .rveTrnbase | .rveAmxbase | .rveTrncfg => some (.rve (Fin.ofNat 8 i))
  | _ => none

/-- The group whose commit register this is, for instance `i` (R39, Table 17.6). -/
def commitGroup (r : Reg) (i : Nat) : Option Group :=
  match r with
  | .devCommit => some .dev
  | .tmbCommit => some .tmb
  | .vseCommit => some (.vse (Fin.ofNat 2 i))
  | .memCfgCommit => some .memCfg
  | .memFrcCommit => some .memFrc
  | .memJobCommit => some .memJob
  | .netCommit => some .net
  | .latCommit => some .lat
  | .hltCommit => some .hlt
  | .blkCommit => some (.blk (Fin.ofNat 48 i))
  | .rgnCommit => some (.rgn (Fin.ofNat 8 i))
  | .cnpCommit => some (.cnp (Fin.ofNat 8 i))
  | .rveCommit => some (.rve (Fin.ofNat 8 i))
  | _ => none

/-- The commit register of a group (Table 17.6) and its instance. -/
def groupCommit : Group → Reg × Nat
  | .dev => (.devCommit, 0)
  | .tmb => (.tmbCommit, 0)
  | .hlt => (.hltCommit, 0)
  | .blk n => (.blkCommit, n.val)
  | .rgn n => (.rgnCommit, n.val)
  | .cnp n => (.cnpCommit, n.val)
  | .rve n => (.rveCommit, n.val)
  | .memCfg => (.memCfgCommit, 0)
  | .memJob => (.memJobCommit, 0)
  | .memFrc => (.memFrcCommit, 0)
  | .vse n => (.vseCommit, n.val)
  | .net => (.netCommit, 0)
  | .lat => (.latCommit, 0)

/-- The field registers of a group, each with its instances (Table 17.6). -/
def groupRegs : Group → List (Reg × Nat)
  | .dev => [(.devMode, 0)]
  | .tmb => [(.tmbKey0, 0), (.tmbKey1, 0)]
  | .hlt => [(.hltCfg, 0)]
  | .blk n => [(.blkCfg, n.val)]
  | .rgn n => [(.rgnCnpways0, n.val), (.rgnCnpways1, n.val), (.rgnTurn, n.val)]
  | .cnp n => [(.cnpBase, n.val)]
  | .rve n => [(.rveTrnbase, n.val), (.rveAmxbase, n.val), (.rveTrncfg, n.val)]
  | .memCfg => [(.memCfg, 0)]
  | .memJob => (List.range 4).map (fun i => (Reg.memJobres, i)) ++
      (List.range 2).map (fun i => (Reg.memMscwaysLo, i)) ++
      (List.range 2).map (fun i => (Reg.memMscwaysHi, i))
  | .memFrc => (List.range 16).map (fun i => (Reg.memFrcwin0, i)) ++
      (List.range 16).map (fun i => (Reg.memFrcwin1, i)) ++
      (List.range 16).map (fun i => (Reg.memFrcwin2, i)) ++
      (List.range 16).map (fun i => (Reg.memFrcwin3, i))
  | .vse n => [(.vseCfg, n.val)]
  | .net => [(.netCfg, 0)]
  | .lat => [(.latCfg, 0)] ++
      (List.range 8).map (fun i => (Reg.latTkey, i)) ++
      (List.range 256).map (fun i => (Reg.latWin0, i)) ++
      (List.range 256).map (fun i => (Reg.latWin1, i)) ++
      (List.range 256).map (fun i => (Reg.latWin2, i)) ++
      (List.range 256).map (fun i => (Reg.latWin3, i))

/-- The base of a window (Table 17.2, R725). -/
def windowBase : Window → Nat
  | .device => 0
  | .block => 0x10000
  | .region => 0x20000
  | .stack => 0x30000

/-- The register address of instance `i` of a register (R725). -/
def regAddr (r : Reg) (i : Nat) : Nat :=
  let p := regPlace r
  windowBase p.1 + p.2.1 + p.2.2.1 * i

/-- The instance of register `r` that address `a` names, if it names one (R726). -/
def regInstance (r : Reg) (a : Nat) : Option Nat :=
  let p := regPlace r
  let b := windowBase p.1 + p.2.1
  if a < b then none
  else if p.2.2.1 = 0 then (if a = b then some 0 else none)
  else if (a - b) % p.2.2.1 = 0 ∧ (a - b) / p.2.2.1 < p.2.2.2 then some ((a - b) / p.2.2.1)
  else none

/-- The register an address names, with its instance, or none (R726). -/
def regAt (a : Nat) : Option (Reg × Nat) :=
  regAll.findSome? (fun r => (regInstance r a).map (fun i => (r, i)))

/-- The reset value of a register: each field at its table's value (R15). -/
def regReset (r : Reg) : BitVec 32 :=
  BitVec.ofNat 32 (((regFields r).map (fun f => f.rst * 2 ^ f.lo)).sum)

/-- The bits of a register whose access code satisfies `p`, as a mask. -/
def regMask (r : Reg) (p : Access → Bool) : BitVec 32 :=
  BitVec.ofNat 32 (((regFields r).map
    (fun f => if p f.acc then (2 ^ (f.hi + 1 - f.lo) - 1) * 2 ^ f.lo else 0)).sum)

/-- The reset value of the register at an address (R15); 0 where the address names none. -/
def addrReset (a : Nat) : BitVec 32 :=
  match regAt a with
  | some (r, _) => regReset r
  | none => 0

end Sys2Proof.Machine
end

