-- ==== Sys2Proof/Machine/Identity.lean ====
section
/-! DEFINITION. What manufacture gives a module: keys, serial number, the DevID certificate and the factory Lockplate image
(14_lockplate_security.md, R620-R624). -/

namespace Sys2Proof.Machine

/-- A byte list with bytes from `b` replaced. -/
def putAt (l : List Byte) (b : Nat) (x : List Byte) : List Byte := l.take b ++ x ++ l.drop (b + x.length)

/-- Exactly `n` bytes: cut, or padded with `f`. -/
def fit (f : Byte) (n : Nat) (l : List Byte) : List Byte := (l ++ List.replicate (n - l.length) f).take n

/-- The 32-byte seed of a label. -/
def seedOf (t : String) (rest : List Byte) : List Byte := (sha3 (label t ++ toLe 32 Config.uds.toNat ++ rest)).take 32

/-- The Lockplate MAC key. -/
def kLp : List Byte := seedOf "FZLPMAC" []

def devSeed : List Byte := seedOf "FZDEVID" []

/-- The serial number of the fuses: plant, year, week and sequence, then their CRC-16 (Table 0.3, log 133). -/
def serialFuse : Nat :=
  Config.serialHi.toNat * 2 ^ 16 + (crc16 (toLe 6 Config.serialHi.toNat).reverse).toNat

/-! ### The Lockplate image (R624, Table 14.4) -/

def lkpLen : Nat := 23744
def lkpBody : Nat := 23680

/-- An image with its MAC. -/
def sealImg (g : List Byte) : List Byte := fit 0 lkpBody g ++ sha3 (kLp ++ fit 0 lkpBody g)

/-- Where slot `i` of an image stands. -/
def slotAt (i : Nat) : Nat := 2688 + 2624 * i

/-- A slot with a key and roles. -/
def keySlotBytes (roles : Nat) (key : List Byte) : List Byte := toLe 2 (1 + 256 * roles) ++ toLe 30 0 ++ fit 0 2592 key

/-- The public keys of the two factory authorities, and FACDIG, the digests that the fuses hold of them (Table 14.1). -/
def facKey (i : Fin 2) : List Byte := fit 0 2592 (Config.facKey i)
def facDig (i : Fin 2) : List Byte := sha3 (facKey i)

/-- The factory image: UNCLAIMED, the factory authorities in slots 0 and 1 with every role, the arrival key as CONNKEY; GEN, EPOCH and
FLAGS are 0 (log 24). -/
def factoryImg : List Byte :=
  sealImg (toLe 2 0x4C50 ++ toLe 1 1 ++ toLe 1 1 ++ toLe 12 0 ++ fit 0 32 Config.factoryOwner ++ toLe 16 0 ++
    fit 0 2592 Config.arrivalKey ++ toLe 32 0 ++ keySlotBytes 15 (facKey 0) ++ keySlotBytes 15 (facKey 1))

/-- The DevID certificate (R623). -/
def devIdCert : List Byte :=
  toLe 2 0x4443 ++ toLe 1 1 ++ toLe 5 Config.certGap.toNat ++ toLe 8 serialFuse ++ fit 0 2592 (Config.mlPublic devSeed) ++
  fit 0 4627 Config.certSig

end Sys2Proof.Machine
end

