-- ==== Sys2Proof/Parts/Mem.lean ====
section
/-! DEFINITION. The state of device memory: bytes, marked bursts, pending stores, memory-side caches, stacks
(10_optical_memory.md). -/

namespace Sys2Proof.Machine

/-- A store issued and not yet accepted: bytes from an address within one burst, each with a write mask (R133, R134,
R410). Those of the device itself have src `net`, with the queue pair as lid, or `mgmt`. -/
structure PendStore where
  src : WaitUnit
  lid : BitVec 32
  idx : Nat
  addr : Nat
  data : List (Byte × Byte)
  deriving DecidableEq, Repr

/-- A read of a burst and who asked for it: its second read is outstanding (R418), or it waits for a held link (R425). -/
structure Reread where
  dpa : Nat
  ask : Asker
  deriving DecidableEq, Repr

/-- A burst in a channel's write queue, and the launches whose stores it holds (R410, R426). -/
structure Queued where
  burst : Nat
  lids : List (BitVec 32)
  deriving DecidableEq, Repr

structure Mem where
  bytes : Store 8
  /-- Bursts whose stored code carries POISON, ascending (R414). -/
  poison : List Nat
  /-- Bursts whose cells are damaged, so that both reads of every access fail, until a write of the whole burst replaces
  them, ascending. A condition of the stacks' cells and no record of the controller (R418, log 53). -/
  damaged : List Nat
  stores : List PendStore
  rereads : List Reread
  /-- Reads that wait in the controllers while the link of their stack is held, oldest first (R425). -/
  held : List Reread
  /-- Bursts in the write queues of the channels, oldest first: written, and not yet sent to their stack (R410, R411). -/
  wq : List Queued
  deriving DecidableEq, Repr

def Mem.reset : Mem := { bytes := [], poison := [], damaged := [], stores := [], rereads := [], held := [], wq := [] }

end Sys2Proof.Machine
end

