-- ==== Sys2Proof/Parts/Module.lean ====
section
/-! DEFINITION. The module: power, pins, reset, health and the side ports (13_boot_keyring.md, 14_lockplate_security.md,
15_health_lifetime.md, 16_module_physical.md). -/

namespace Sys2Proof.Machine

/-- Where the device stands: unpowered; starting up, cold or warm; ready; in the recovery loader; with
its data clocks stopped after a loss of lock (R739); tripped (R666); shut down (R617). -/
inductive Phase where
  | off | starting (warm : Bool) | ready | loader | clockLost | tripped | stopped
  deriving DecidableEq, Repr

/-- Power and pins (16_module_physical.md). `fell` is when PWR_EN last fell; `armed` says that the module opened its switch
itself, so that PWR_EN must fall before it closes again (R699, R703); `trip` is when THERMTRIP_N fell; `time0` is time 0, the later of PG
rising and RST_N rising after a period low, and `rstHigh` when RST_N is high again, or has been since (R698-R701); `base` is what the
latest ends of the start-up count from: time 0 or a reset by KRG_CTL, moved later by the retries of step 1 (R597). -/
structure Power where
  phase : Phase
  pwrEn : Bool
  fell : Option Nat
  armed : Bool
  switch : Bool
  pg : Bool
  vin : Nat
  straps : Fin 4
  trip : Option Nat
  time0 : Nat
  rstHigh : Nat
  base : Nat
  /-- The lasers are biased: from step 6 of start-up until a shutdown ramps them down, a trip, or a cold reset (R596, R600, R617,
  R666). -/
  lasers : Bool
  /-- The management cycle of the latest cold reset, from which rate windows count (R92). -/
  cold0 : Nat
  /-- A trip that the next start-up still has to count (R666). -/
  tripDue : Bool
  /-- REFCLK is absent or the PLL cannot lock, so step 1 retries (R596). -/
  noRef : Bool
  deriving DecidableEq, Repr

/-- The I3C target (R709-R712): the status of the last write or address transaction, the register that the next private read
answers for, the bytes of the last private read, and whether a dynamic address is assigned. -/
structure I3c where
  status : Byte
  addr : Option Nat
  reply : List Byte
  dynamic : Bool
  deriving DecidableEq, Repr

/-- JTAG (R649, R650). -/
inductive JtagIr where
  | idcode | bypass | sample | extest | debug
  deriving DecidableEq, Repr

structure Jtag where
  ir : JtagIr
  /-- What the selected data register holds: IDCODE, or the bypass bit. -/
  dr : Word
  /-- A read of device memory that waits for a held stack (R425, R650). -/
  wait : Option Nat
  deriving DecidableEq, Repr

/-- The CRC service or the LIFE copy in progress (R661, R681). -/
inductive HltOp where
  | crc (addr len : Nat)
  | life (addr : Nat)
  deriving DecidableEq, Repr

/-- Health control (15_health_lifetime.md): the power duty in sixteenths; FAST; checks in succession below the cap minus
50 W, and above the cap at duty 2/16; whether PWR_LIMIT has been posted since P was last below the cap; the LIFE bodies in
the device's own memory; the lowest T_d of each half's cycle count; the work in progress. -/
structure Health where
  duty : Nat
  fast : Bool
  below : Nat
  above : Nat
  limited : Bool
  life : List (List Byte)
  low : List (Option Int)
  /-- Management cycles at level 2 or 3 within the current minute: 24 stacks, then the dies (Tables 15.6, 15.7). -/
  hot : List Nat
  op : Option HltOp
  deriving DecidableEq, Repr

/-- LIFE bodies: 24 stacks of 1,664 bytes and the device's 640 bytes (R674, R675). -/
def lifeZero : List (List Byte) := List.replicate 24 (List.replicate 1664 0) ++ [List.replicate 640 0]

def Health.reset : Health :=
  { duty := 16, fast := false, below := 0, above := 0, limited := false, life := lifeZero, low := [none, none], hot := List.replicate 25 0,
    op := none }

/-- A powered module at time 0 of a cold start-up. -/
def Power.reset : Power :=
  { phase := .starting false, pwrEn := true, fell := none, armed := false, switch := true, pg := true, vin := 48000,
    straps := 0, trip := none, tripDue := false, time0 := 0, rstHigh := 0, base := 0, lasers := false, cold0 := 0, noRef := false }

def I3c.reset : I3c := { status := 0, addr := none, reply := [], dynamic := false }

def Jtag.reset : Jtag := { ir := .idcode, dr := 0x14880B8D, wait := none }

end Sys2Proof.Machine
end

