-- ==== Sys2Proof/Parts/Net.lean ====
section
/-! DEFINITION. The network port, connections, rings and time (12_latch_transport.md). -/

namespace Sys2Proof.Machine

/-- The roles of Table 12.5, and the want of one of a connection whose owner role has passed on after it failed (R542). -/
inductive Role where
  | owner | standby | reader | former
  deriving DecidableEq, Repr

/-- A reader's binding: window, its epoch, offset in the window, length and expiry (R570, R571). -/
structure Binding where
  win : Nat
  epoch : Word
  off : Nat
  len : Nat
  expiry : Nat
  deriving DecidableEq, Repr

/-- A request of a connection that was received: an RDMA WRITE with its key, address and data; an RDMA READ with what its key gave when it
was received (R572), its length, and whether a fabric word of the answer fails; a doorbell; a SEND; a request that the device does not
execute. -/
inductive NetReq where
  | write (key : Word) (va : Nat) (bytes : List Byte) (fab : Bool)
  | bell (key : Word) (va : Nat) (bytes : List Byte)
  | read (at_ : Option (Nat × Nat × Nat)) (len : Nat) (fab : Bool)
  | msg (bytes : List Byte)
  | bad
  deriving DecidableEq, Repr

/-- An RDMA READ. -/
def NetReq.isRead : NetReq → Bool
  | .read .. => true
  | _ => false

/-- A connection (R515-R518, R525, R535-R540). Times are in management cycles. -/
structure Conn where
  qp : BitVec 24
  gid : BitVec 128
  mtu : Nat
  /-- RTU has completed the set-up (R515). -/
  up : Bool
  /-- When the REP was sent (R536). -/
  since : Nat
  role : Option Role
  /-- HANDOVER has been sent (R540). -/
  handed : Bool
  /-- The owner connection has failed by silence (R539). -/
  failed : Bool
  /-- The nonce and role of a challenge not yet proved (R537). -/
  chal : Option (BitVec 256 × Role)
  /-- Messages in receive slots, oldest first (R517). -/
  slots : List (List Byte)
  /-- MKEY, DKEY, RKEY (R518). -/
  mkey : Option Word
  dkey : Option Word
  rkey : Option Word
  bind : Option Binding
  /-- When the last packet arrived (R539), and when the last congestion notification was sent (R524). -/
  heard : Nat
  cnpSent : Option Nat
  /-- Send rate in Gbit/s, and the variables of R525. -/
  rate : Rat
  n : Nat
  lastDec : Nat
  lastInc : Nat
  /-- Retransmissions of the oldest unacknowledged packet, if one waits (R515). -/
  retries : Option Nat
  /-- Requests received and not yet executed, oldest first (R425, R520). -/
  waiting : List NetReq
  deriving DecidableEq, Repr

/-- A command read and not yet complete: its CID, its OP, and the launch that it concerns, 0 if none (R550, R553). -/
structure OutCmd where
  cid : Word
  op : Nat
  lid : Word
  deriving DecidableEq, Repr

/-- MARK, which completes once every earlier command of its ring has (R553). -/
def OutCmd.mark (o : OutCmd) : Bool := o.op = 7

/-- An open command ring (R543-R552). `kept` holds the completions from A to Q - 1 with their indices; `sent` is the
index of the completion that is next to be written. -/
structure Ring where
  cbase : Nat
  entries : Nat
  crva : Nat
  crkey : Word
  centries : Nat
  bound : Option (BitVec 24)
  p : Word
  c : Word
  q : Word
  a : Word
  sent : Word
  kept : List (Word × List Byte)
  outs : List OutCmd
  deriving DecidableEq, Repr

/-- NAKs the device answers; an RNR NAK carries its timer in ns (R513, R517, R519, R522). -/
inductive Nak where
  | invalid | access | operational | rnr (ns : Nat)
  deriving DecidableEq, Repr

/-- Why a REQ is answered with REJ (R515, R516). -/
inductive Rej where
  | mtu | inUse | resources
  deriving DecidableEq, Repr

/-- What the device has handed to the line: a Latch reply, a NAK, READ data, a completion written with immediate,
connection management (REP advertises the responder resources, the retry count and the RNR retry count), a congestion notification
packet, PFC, an announcement, a retransmission, an ARP reply, a neighbour advertisement, an ICMP echo reply or error, a PTP
Delay_Req. -/
inductive Tx where
  | reply (qp : BitVec 24) (bytes : List Byte)
  | nak (qp : BitVec 24) (k : Nak)
  | data (qp : BitVec 24) (bytes : List Byte)
  | write (qp : BitVec 24) (key : Word) (va : Nat) (bytes : List Byte) (imm : Word)
  | rep (qp : BitVec 24) (resources retry rnrRetry : Nat)
  | rej (qp : BitVec 24) (why : Rej)
  | drep (qp : BitVec 24)
  | drop (qp : BitVec 24)
  | cnp (qp : BitVec 24)
  | pfc (xoff : Bool)
  | announce (bytes : List Byte)
  | again (qp : BitVec 24)
  | arpReply (ip : BitVec 32)
  | neighbour (ip : BitVec 128)
  | echoReply (v6 : Bool) (bytes : List Byte)
  | icmpError (v6 : Bool)
  | delayReq
  deriving DecidableEq, Repr

/-- The ECN field of what is sent: every RoCE packet is marked ECT(0), 2, the UD SEND of an announcement among them; the rest is not RoCE
(R523, R574). -/
def Tx.ecn : Tx → Nat
  | .pfc _ | .arpReply _ | .neighbour _ | .echoReply .. | .icmpError _ | .delayReq => 0
  | _ => 2

/-- Whether a PFC pause holds something: PFC frames themselves are not paused (R512). -/
def Tx.pauses : Tx → Bool
  | .pfc _ => false
  | _ => true

/-- The configuration that a device uses on defaults: a link-local address only, no IPv4, untagged frames, DSCP 26, PFC disabled
(R582), in the bytes of Table 13.2. -/
def defaultCfg : List Byte := List.replicate 6 0 ++ [26] ++ List.replicate 57 0

/-- What the line takes, with its ECN and DSCP fields and its VLAN tag (R510). -/
structure Sent where
  ecn : Nat
  dscp : Nat
  tag : Option Nat
  tx : Tx
  deriving DecidableEq, Repr

/-- Something as it is sent under a configuration (Table 13.2). -/
def Tx.sent (cfg : List Byte) (t : Tx) : Sent :=
  { ecn := t.ecn, dscp := (cfg.getD 6 0).toNat % 64,
    tag := if (cfg.getD 3 0).toNat / 4 % 2 = 1 then some ((cfg.getD 4 0).toNat + 256 * (cfg.getD 5 0).toNat) else none, tx := t }

/-- PTP (R527-R530): the data set of the selected master, consecutive Syncs inside 40 ns and outside 50 ns, what is still to be
slewed, in ps; the frequency correction in parts per 10^9, and what of it a cycle has not yet passed on, in units of 10^-5 ps; when the
last Sync and the last Announce came, and the Sync interval. -/
structure Ptp where
  master : Option (List Nat)
  good : Nat
  bad : Nat
  slew : Int
  freq : Int
  acc : Int
  lastSync : Nat
  lastAnn : Nat
  interval : Nat
  deriving DecidableEq, Repr

/-- The port and the device's connections. -/
structure Net where
  conns : List Conn
  /-- The owner connection has failed since it was last live (R539-R541). -/
  ownerFailed : Bool
  /-- XOFF has been sent and not taken back; the quanta for which a received PFC frame pauses sending (R512). -/
  xoff : Bool
  pause : BitVec 16
  /-- What the receive buffer holds, in bytes; what waits to be sent while a PFC frame pauses sending (R512). -/
  depth : Nat
  txq : List Tx
  /-- When the last announcement was sent (R574). -/
  annAt : Option Nat
  ptp : Ptp
  /-- The time of the last PPS_IN edge, and when it was accepted (R532, R696). -/
  ppsTime : BitVec 64
  ppsAt : Option Nat
  /-- PPS_OUT is high until this management cycle (R531, Table 16.4). -/
  ppsOut : Option Nat
  /-- The configuration in use, as the 64 bytes of Table 13.2 (R581, R582). -/
  cfg : List Byte
  tx : List Sent
  deriving DecidableEq, Repr

def Net.reset : Net :=
  { conns := [], ownerFailed := false, xoff := false, pause := 0, depth := 0, txq := [], annAt := none,
    ptp := { master := none, good := 0, bad := 0, slew := 0, freq := 0, acc := 0, lastSync := 0, lastAnn := 0, interval := 0 },
    ppsTime := 0, ppsAt := none, ppsOut := none, cfg := defaultCfg, tx := [] }

end Sys2Proof.Machine
end

