-- ==== Sys2Proof/Machine/State.lean ====
section
/-! DEFINITION. The state of the FZ-4880: every register, store, queue, run and pin the spec gives it. -/

namespace Sys2Proof.Machine

/-- Why the machine stops with a fault. No step of this model faults: a fault of the device halts launches, sets
registers and posts events, and the step answers a next state. The one name is kept for a state type that needs a
closed reason; nothing raises it, so it is safe. -/
inductive Fault where
  /-- Raised by no step (safe). -/
  | unreachable
  deriving DecidableEq, Repr

/-- Why a command has no meaning. -/
inductive Refusal where
  /-- A command of the table that has no meaning yet (safe): raised only by arms of exec. -/
  | notModelled (mnemonic : String)
  deriving DecidableEq, Repr

/-- The state of the device. -/
structure State where
  /-- Registers by register address; an unlisted register holds its reset value (R15). For a field of a
  configuration group this is the active copy (R36). -/
  regs : Store 32
  /-- The shadow copies of the configuration groups, by register address (R35). -/
  shadow : Store 32
  /-- Management cycles of 10 ns since the cold reset (Table 1.4). -/
  cyc : Nat
  /-- The device time counter in ns (R527). -/
  dtc : BitVec 64
  blocks : Vector Block 48
  regions : Vector Region 8
  halves : Vector Half 2
  mem : Mem
  stk : Vector Stack 24
  hinge : Hinge
  /-- Accepted launches that have not ended, earliest accepted first (R376, R377). -/
  launches : List Launch
  /-- Barriers with an arrival, by identifier (R47). -/
  barriers : List (Nat × Barrier)
  flagReqs : List FlagReq
  /-- Completions and events waiting to be written, oldest first (R550, R551). -/
  comps : List Completion
  /-- The command rings (R543). -/
  rings : Vector (Option Ring) 16
  net : Net
  flash : Flash
  fuses : Fuses
  krg : Krg
  lkp : Lkp
  hlt : Health
  power : Power
  i3c : I3c
  jtag : Jtag
  /-- What the time counter has beyond whole ns, in ps. -/
  dtcPs : Nat
  /-- The model's own list of the state-section contents whose bytes were written (log 17). -/
  ctxs : List Ctx
  /-- The model's own list of the session states whose bytes were written (log 12). -/
  sessions : List Session
  /-- The model's own count of free values drawn (log 26). -/
  freeCtr : Nat
  /-- The model's own record of the value a single-register read returned (log 27). -/
  lastRead : Word
  /-- Commands waiting, first in first out. -/
  pending : List Instr
  deriving DecidableEq, Repr

/-- The Keyring as the module leaves the factory: IDENT and the spare choice of each region (Table 13.3, log 23). -/
def factoryRecs : List KRec :=
  (List.finRange 8).map (fun r => { index := r.val, seq := 9 - r.val, body := .blkmap (Config.spare r).val 0 0 }) ++
  [{ index := 0, seq := 1, body := .ident Config.mac }]

/-- The flash as the module leaves the factory (log 23). -/
def Flash.delivered : Flash :=
  { hdr := Config.factoryHdr, image := Config.factoryImage, cfg := Config.factoryCfg, copyA := Config.factoryCopyA,
    copyB := Config.factoryCopyB, factory := factoryImg, cert := devIdCert,
    recs := factoryRecs, journal := Journal.delivered }

/-- The device right after a cold reset, at time 0 of start-up. -/
def State.reset : State :=
  { regs := [], shadow := [], cyc := 0, dtc := 0, blocks := Vector.replicate 48 Block.reset,
    regions := Vector.replicate 8 Region.reset, halves := Vector.replicate 2 Half.reset, mem := Mem.reset,
    stk := Vector.replicate 24 Stack.reset, hinge := Hinge.reset, launches := [], barriers := [], flagReqs := [],
    comps := [], rings := Vector.replicate 16 none, net := Net.reset, flash := Flash.delivered,
    fuses := { svn := 0, epoch := 0 }, krg := Krg.reset, lkp := Lkp.reset, hlt := Health.reset, power := Power.reset,
    i3c := I3c.reset, jtag := Jtag.reset, dtcPs := 0, ctxs := [], sessions := [], freeCtr := 0, lastRead := 0,
    pending := [] }

end Sys2Proof.Machine
end

