-- ==== Sys2Proof/Machine/Ops.lean ====
section
/-! DEFINITION. Named operations over the state: blocks, regions, registers, memory, launches, events. -/

namespace Sys2Proof.Machine

/-! ### Blocks and regions -/

def modBlk (s : State) (b : Fin 48) (f : Block → Block) : State :=
  { s with blocks := s.blocks.set b (f s.blocks[b]) }

def modRgn (s : State) (r : Fin 8) (f : Region → Region) : State :=
  { s with regions := s.regions.set r (f s.regions[r]) }

def modHalf (s : State) (h : Fin 2) (f : Half → Half) : State :=
  { s with halves := s.halves.set h (f s.halves[h]) }

/-- The region of a logical block (R18). -/
def rgnOf (b : Fin 48) : Fin 8 := ⟨b.val / 6, by omega⟩

/-- The half of a region: regions 0-3 lie in half 0 (01_structure.md, after R19). -/
def halfOf (r : Fin 8) : Fin 2 := ⟨r.val / 4, by omega⟩

/-- Logical block `j` (0-5) of a region. -/
def blkOf (r : Fin 8) (j : Fin 6) : Fin 48 := ⟨6 * r.val + j.val, by omega⟩

/-! ### Registers -/

/-- The current (active) value of instance `i` of a register; one never written holds its reset value (R15). -/
def rreg (s : State) (r : Reg) (i : Nat) : Word := sget (fun _ => regReset r) s.regs (regAddr r i)

/-- Set instance `i` of a register. -/
def wreg (s : State) (r : Reg) (i : Nat) (v : Word) : State :=
  { s with regs := sset (fun _ => regReset r) s.regs (regAddr r i) v }

/-- The shadow copy of a field register of a group (R35). -/
def rshadow (s : State) (r : Reg) (i : Nat) : Word := sget (fun _ => regReset r) s.shadow (regAddr r i)

/-- Set a shadow copy (R35). -/
def wshadow (s : State) (r : Reg) (i : Nat) (v : Word) : State :=
  { s with shadow := sset (fun _ => regReset r) s.shadow (regAddr r i) v }

/-- Field `[hi:lo]` of a register. -/
def rfld (s : State) (r : Reg) (i hi lo : Nat) : Nat := getF (rreg s r i) hi lo

/-- Set field `[hi:lo]` of a register. -/
def wfld (s : State) (r : Reg) (i hi lo v : Nat) : State := wreg s r i (setF (rreg s r i) hi lo v)

/-- Add to a saturating counter field. -/
def cfld (s : State) (r : Reg) (i hi lo n : Nat) : State := wreg s r i (satF (rreg s r i) hi lo n)

/-- Whether DEV_MODE.COMPAT is set (R299, R734). -/
def isCompat (s : State) : Bool := rfld s .devMode 0 1 1 = 1

/-- The array cycles since the latest cold reset: 21 in each management cycle (Table 1.4, R92). -/
def arrayCyc (s : State) : Nat := 21 * (s.cyc - s.power.cold0)

/-! ### Device memory -/

/-- 5 GiB, the unit of installed capacity (R724). -/
def gib5 : Nat := 5 * 2 ^ 30

/-- The base of half 1's memory (R428). -/
def half1Base : Nat := 0x10000000000

/-- The base of the compressed-view range (R724). -/
def viewBase : Nat := 0x80000000000

/-- Whether `n` bytes from a DPA lie in installed memory after map-out (R724, MEM_CAP). -/
def installed (s : State) (a n : Nat) : Bool :=
  a + n ≤ rfld s .memCap 0 31 24 * gib5 ||
  (half1Base ≤ a && a + n ≤ half1Base + rfld s .memCap 0 23 16 * gib5)

/-- The burst of a DPA (R408). -/
def burstOf (a : Nat) : Nat := a / 512

def memByte (s : State) (a : Nat) : Byte := sget zeroFill s.mem.bytes a

def memBytes (s : State) (a n : Nat) : List Byte := srange zeroFill s.mem.bytes a n

def memLe (s : State) (a n : Nat) : Nat := leNat (memBytes s a n)

/-- The bursts that a write of `n` bytes at `a` covers whole. -/
def wholeBurst (a n b : Nat) : Bool := a ≤ 512 * b && decide (512 * b + 512 ≤ a + n)

/-- Bytes accepted into memory. A burst written whole is good again: its code is new and POISON is 0 (R418, R420). -/
def memPut (s : State) (a : Nat) (bs : List Byte) : State :=
  let m := s.mem
  let keep (l : List Nat) : List Nat := l.filter (fun b => !wholeBurst a bs.length b)
  { s with mem := { m with bytes := sput zeroFill m.bytes a bs, poison := keep m.poison, damaged := keep m.damaged } }

/-- A burst's cells are damaged: both reads of it failed (R418). A write accepted for the burst meanwhile replaces them. -/
def damage (s : State) (a : Nat) : State :=
  if s.mem.wq.any (fun x => x.burst = burstOf a) then s
  else { s with mem := { s.mem with damaged := insertNat (burstOf a) s.mem.damaged } }

/-- Bytes cut at burst boundaries, each piece with its address (R134, R408). -/
def cutBursts (a : Nat) (bs : List (Byte × Byte)) : Nat → List (Nat × List (Byte × Byte))
  | 0 => []
  | fuel + 1 =>
    if bs = [] then []
    else
      let n := 512 - a % 512
      (a, bs.take n) :: cutBursts (a + n) (bs.drop n) fuel

/-- The index of a list engine's current entry. -/
def unitIdx (s : State) : WaitUnit → Nat
  | .sce r => (s.regions[r]).sce.idx
  | .rve r => (s.regions[r]).rve.idx
  | .smp h => (s.halves[h]).smp.idx
  | .vse h => (s.halves[h]).vse.idx
  | _ => 0

/-- Issue stores of bytes with write masks: they wait until the memory controller accepts them (R47, R410). `idx` is the instruction
or descriptor that makes them. -/
def issue (s : State) (src : WaitUnit) (lid : BitVec 32) (a : Nat) (bs : List (Byte × Byte)) (idx : Nat := unitIdx s src) :
    State :=
  let ps := (cutBursts a bs (bs.length / 512 + 2)).map
    (fun c => ({ src := src, lid := lid, idx := idx, addr := c.1, data := c.2 } : PendStore))
  { s with mem := { s.mem with stores := s.mem.stores ++ ps } }

/-- Bytes with every bit written. -/
def fullMask (bs : List Byte) : List (Byte × Byte) := bs.map (fun b => (b, 0xFF))

/-- Merge bytes under their masks. -/
def mergeMask (old : List Byte) (bs : List (Byte × Byte)) : List Byte :=
  List.zipWith (fun o b => (o &&& ~~~b.2) ||| (b.1 &&& b.2)) old bs

/-- Whether the data clocks run (R34, R739). -/
def clocked (s : State) : Bool := s.power.phase ≠ .clockLost

/-- Whether launches stand still: the Hinge is held for retraining, or the data clocks are stopped (R30, R34). -/
def stalled (s : State) : Bool := s.hinge.mode = .retraining || !clocked s

/-- Whether the Hinge takes a beat of a class (0 Control, 1 Request, 2 Response, 3 Network, 4 Save) from a half: it is neither held
nor down, and the sender has a credit (R22, R26, R30, Table 1.2). -/
def hingeTakes (s : State) (half cls : Nat) : Bool :=
  !(s.hinge.mode = .retraining || s.hinge.mode = .down) && decide (s.hinge.credits.getD (5 * half + cls) 0 ≠ 0)

/-- A beat of a class leaves a half: its sender has a receive credit less until HINGE_CREDIT_RETURN (R26). -/
def hingeSend (s : State) (half cls : Nat) : State :=
  { s with hinge := { s.hinge with credits := modAt s.hinge.credits (5 * half + cls) (· - 1) } }

/-- The half that a unit sends from; the dispatcher, the port and the management controller are in half 0 (01_structure.md,
log 67). -/
def WaitUnit.half : WaitUnit → Nat
  | .blk b => b.val / 24
  | .sce r | .rve r => r.val / 4
  | .smp h | .vse h => h.val
  | .net | .mgmt => 0

/-- Whether a unit still has a store that no controller has accepted (R47, R225, R379). -/
def storesWait (s : State) (src : WaitUnit) : Bool := s.mem.stores.any (fun p => p.src = src)

/-! ### Launches, events and halts -/

def findLaunch (s : State) (lid : BitVec 32) : Option Launch := s.launches.find? (fun l => l.lid = lid)

/-- Change the earliest element of a list for which `p` holds. -/
def modFirst {α : Type} (p : α → Bool) (f : α → α) : List α → List α
  | [] => []
  | x :: xs => if p x then f x :: xs else x :: modFirst p f xs

/-- Change the launch that `findLaunch` finds: the earliest accepted of its LID (R555). -/
def modLaunch (s : State) (lid : BitVec 32) (f : Launch → Launch) : State :=
  { s with launches := modFirst (fun l => l.lid = lid) f s.launches }

/-- `n` bytes of the record header from byte `b`, little-endian (Table 9.1). -/
def Launch.fld (l : Launch) (b n : Nat) : Nat := leAt l.hdr b n

/-- Shape slot `i` of a launch, if its record defines it (SLOTDEF, SLOTS; Table 9.1). -/
def Launch.slot (l : Launch) (i : Nat) : Option Nat :=
  if l.fld 64 8 / 2 ^ i % 2 = 1 then some (l.fld (128 + 4 * i) 4) else none

/-- Whether the union of a launch's grants allows reads (`w = false`) or writes of every byte of a range (R372). -/
def Launch.grants (l : Launch) (w : Bool) (a n : Nat) : Bool :=
  let gs := (List.range 16).filterMap (fun i =>
    let b := 1280 + 16 * i
    let len := l.fld (b + 8) 4
    let acc := l.fld (b + 12) 1
    if len ≠ 0 ∧ (acc / (if w then 2 else 1)) % 2 = 1 then some (l.fld b 8 % 2 ^ 44, len * 2048) else none)
  let cover (x : Nat) : Nat :=
    (gs.filterMap (fun g => if g.1 ≤ x ∧ x < g.1 + g.2 then some (g.1 + g.2) else none)).foldl max x
  decide (a + n ≤ (List.range 17).foldl (fun x _ => if a + n ≤ x then x else cover x) a)

/-- The launch key: the record's, or the default key when KEYDEF is set (R312, Table 9.1). -/
def launchKey (s : State) (l : Launch) : BitVec 64 :=
  if l.fld 5 1 / 2 % 2 = 1 then rreg s .tmbKey1 0 ++ rreg s .tmbKey0 0 else BitVec.ofNat 64 (l.fld 16 8)

/-- The launch step (Table 9.1). -/
def Launch.step (l : Launch) : BitVec 32 := BitVec.ofNat 32 (l.fld 12 4)

/-- The job slot of a launch (Table 9.1). -/
def Launch.job (l : Launch) : Nat := l.fld 4 1 % 4

/-- The priority of a launch (Table 9.1). -/
def Launch.prio (l : Launch) : Nat := l.fld 4 1 / 16 % 4

/-- Whether region `r` is a resource of a launch (R373). -/
def Launch.hasRgn (l : Launch) (r : Fin 8) : Bool := l.fld 6 1 / 2 ^ r.val % 2 = 1

/-- A completion or event joins those waiting to be written (R550, R551). -/
def post (s : State) (c : Completion) : State := { s with comps := s.comps ++ [c] }

def modRing (s : State) (i : Nat) (f : Ring → Ring) : State :=
  { s with rings := s.rings.set (Fin.ofNat 16 i) ((s.rings[Fin.ofNat 16 i]).map f) }

def getRing (s : State) (i : Nat) : Option Ring := s.rings[Fin.ofNat 16 i]

/-- An event of a ring (Table 12.7). A closed ring takes none; those of ring 0 are counted in LAT_STAT.EVLOST
(R566). -/
def postEvent (s : State) (ring code : Nat) (lid : Word) (aux2 : Nat) (data : List Byte) : State :=
  if (getRing s ring).isSome then
    post s { kind := 3, ring := ring, code := code, cid := 0, lid := lid, aux2 := aux2, data := data }
  else if ring = 0 then cfld s .latStat 0 18 13 1 else s

/-- A fault reported without halting goes to ring 0 (R566). -/
def reportEvent (s : State) (code : Nat) (lid : Word) (aux2 : Nat) : State := postEvent s 0 code lid aux2 []

/-- Remove the earliest command of a list for which `p` holds. -/
def dropCmd (p : OutCmd → Bool) : List OutCmd → List OutCmd
  | [] => []
  | o :: os => if p o then os else o :: dropCmd p os

/-- The completion of a command of a ring (R553, R563): 1 complete or 2 refused. -/
def cmdDone (ring : Nat) (kind code : Nat) (cid : Word) (lid : Word) (aux2 : Nat) (data : List Byte) : Completion :=
  { kind := kind, ring := ring, code := code, cid := cid, lid := lid, aux2 := aux2, data := data }

/-- A command of a ring completes, and `drop` takes it off those outstanding; then every MARK completes up to the next command that
is none (R553). -/
def finishBy (drop : List OutCmd → List OutCmd) (s : State) (c : Completion) : State :=
  match getRing s c.ring with
  | none => s
  | some r =>
    let outs := drop r.outs
    let marks := outs.takeWhile (·.mark)
    let s := post (modRing s c.ring (fun r => { r with outs := outs.drop marks.length })) c
    marks.foldl (fun s m => post s (cmdDone c.ring 1 0 m.cid 0 0 [])) s

/-- A command read earlier completes: LAUNCH (1), STOP (2), ABORT (3) or RESUME (4) of its launch. -/
def finishCmd (op : Nat) (s : State) (c : Completion) : State :=
  finishBy (dropCmd (fun o => o.op = op && o.cid = c.cid && o.lid = c.lid)) s c

/-- The command that its ring has just read completes at once. -/
def finishNow (s : State) (c : Completion) : State := finishBy List.dropLast s c

/-- Set a flag of HLT_EVT: 5 CLK, 4 HALT, 3 DEGR, 2 WEAR, 1 PWR, 0 HOT (Table 15.12). -/
def setEvt (s : State) (bit : Nat) : State := wfld s .hltEvt 0 bit bit 1

/-- Where a halting fault lies, as R758 reports it; `reg` is what the register in which it is recorded holds (log 118). -/
structure HaltAt where
  blk : Nat
  place : Nat
  idx : Nat
  reg : Nat
  /-- What a rule puts into the report beyond R758, from byte 48 of the event on (R53, R230, log 129). -/
  more : List Byte := []
  deriving DecidableEq, Repr

/-- "None", as R758 writes it. -/
def none32 : Nat := 0xFFFFFFFF

/-- DATA of the event of a halt (R758). -/
def HaltAt.data (h : HaltAt) : List Byte := toLe 4 h.blk ++ toLe 4 h.place ++ toLe 4 h.idx ++ toLe 4 h.reg ++ h.more

/-- Whether a launch is dispatched and not halted, stopped or ended. -/
def LState.live : LState → Bool
  | .running | .stopping => true
  | _ => false

/-- Whether a dispatched instruction of a launch may still begin: a stop or an abort lets every dispatched instruction
complete (Table 9.4), a halt starts none (R755). -/
def LState.mayBegin : LState → Bool
  | .running | .stopping | .aborting => true
  | _ => false

/-- Halt a launch: its units start nothing further, the event of the fault is posted, and a STOP or RESUME in progress
completes with the fault (R565, R755, R756, R758). A launch being aborted takes the fault and goes on; one that has halted
already is left alone. One that waits or is saved is halted too: only a fault of the whole device meets it (R31, R34). -/
def haltLaunch (s : State) (lid : BitVec 32) (code : Nat) (h : HaltAt) : State :=
  match findLaunch s lid with
  | none => s
  | some l =>
    match l.st with
    | .running | .stopping | .restoring | .waiting | .saved =>
      let s := modLaunch s lid (fun l => { l with st := .halted, fault := code, stop := none, resume := none })
      let s := match l.stop with
        | some (.command ring cid, _, _) => finishCmd 2 s (cmdDone ring 1 code cid lid 0 [])
        | _ => s
      let s := match l.resume with
        | some (ring, cid) => finishCmd 4 s (cmdDone ring 1 code cid lid 0 [])
        | none => s
      setEvt (postEvent s l.ring code lid 0 h.data) 4
    | .aborting =>
      if l.fault ≠ 0 then s
      else setEvt (postEvent (modLaunch s lid (fun l => { l with fault := code })) l.ring code lid 0 h.data) 4
    | _ => s

/-- A degraded error: an event of ring 0, and HLT_EVT.DEGR (R653, Table 15.12). -/
def degraded (s : State) (code aux2 : Nat) : State := setEvt (reportEvent s code 0 aux2) 3

/-! ### The Keyring (R587, R588) -/

/-- Whether a record of a TYPE and INDEX finds no place in the queue (R588). -/
def krgFull (s : State) (typ idx : Nat) : Bool :=
  63 ≤ s.krg.queue.length && !s.krg.queue.any (fun r => r.body.type = typ && r.index = idx)

/-- Request a record: it joins the queue, or replaces the queued record of its TYPE and INDEX when the queue is full. -/
def krgReq (s : State) (idx : Nat) (body : KBody) : State :=
  let k := s.krg
  let same (r : KRec) : Bool := r.body.type = body.type && r.index = idx
  if 63 ≤ k.queue.length ∧ k.queue.any same then
    let q := k.queue.map (fun r => if same r then { r with body := body } else r)
    { s with krg := { k with queue := q } }
  else
    let q := k.queue ++ [{ index := idx, seq := k.nextSeq, body := body }]
    { s with krg := { k with queue := q, nextSeq := k.nextSeq + 1 } }

/-- Whether a record's MAGIC and CRC are correct: all of it was written (R586, log 154). -/
def KRec.good (r : KRec) : Bool := r.cut.isNone

/-- The current record of a TYPE and INDEX in the flash (R586): the good one with the highest SEQ. -/
def krgCur (s : State) (typ idx : Nat) : Option KRec :=
  s.flash.recs.find? (fun r => r.body.type = typ && r.index = idx && r.good)

/-- Its body. -/
def krgBody (s : State) (typ idx : Nat) : Option KBody := (krgCur s typ idx).map (·.body)

/-- The highest erase count of any Keyring sector. -/
def Journal.maxErase (j : Journal) : Nat := (j.used.map (·.erases) ++ j.spare.map (·.2)).foldl max 0

/-- The physical blocks in service of a region, ascending (R18, KRG_BLKMAP.INSVC). -/
def inService (s : State) (r : Nat) : List Nat :=
  (List.range 7).filter (fun p => bitsAt (rreg s .krgBlkmap r) (16 + p) 1 = 1)

/-- Whether a region runs its logical blocks in turn on fewer than six physical blocks (R19, R397). -/
def turnMode (s : State) (r : Nat) : Bool := (inService s r).length < 6

/-- Whether a logical block is on a physical block now: always, unless its region runs in turn (R397). -/
def hostedNow (s : State) (b : Fin 48) : Bool :=
  !turnMode s (b.val / 6) || (s.regions[rgnOf b]).hosted.any (fun h => h.1 = b.val % 6)

/-- Whether any half runs at a duty below 16/16 (R664). -/
def anySlow (s : State) : Bool := rfld s .hltDuty 0 20 16 < 16 || rfld s .hltDuty 0 4 0 < 16

/-- The timeout of a wait: 2^24 array cycles, six times that where a region in turn is involved, eight times that while
a duty is below 16/16 (R53, R401, R664). -/
def timeout (s : State) (turn : Bool) : Nat := (if turn then 6 else 1) * (if anySlow s then 8 else 1) * 2 ^ 24

/-- The physical block of a logical block, as 7 x region + number (R18); in turn mode, the one of rank
j mod h, which hosts it in its turns (R397). -/
def physOf (s : State) (b : Fin 48) : Nat :=
  let r := rgnOf b
  match (s.regions[r]).hosted.find? (fun h => h.1 = b.val % 6) with
  | some h => 7 * r.val + h.2
  | none => 7 * r.val + (inService s r.val).getD (b.val % 6 % max 1 (inService s r.val).length) 0

/-- Stop a block's sequencer: waiting instructions are discarded, begun ones run on (R99). The instruction queue is emptied
too, and an ATS or ATV whose page lookup is under way has not begun (log 130). -/
def stopBlk (s : State) (b : Fin 48) : State :=
  modBlk s b (fun k => { k with
    stopped := true, iq := [],
    loadQ := k.loadQ.filter (·.begun), arrayQ := k.arrayQ.filter (·.begun),
    drainQ := k.drainQ.filter (·.begun), syncQ := k.syncQ.filter (·.begun) })

/-- Halt the launch of a unit whose memory request met a fault of a stack; a request of the device itself halts none (R419, R426,
R758). -/
def askHalt (s : State) (q : Asker) (code stack reg : Nat) : State :=
  match q.unit with
  | .net | .mgmt => s
  | .blk b => haltLaunch s q.lid code { blk := b.val, place := stack, idx := q.idx, reg := reg }
  | _ => haltLaunch s q.lid code { blk := none32, place := stack, idx := q.idx, reg := reg }

/-- A fault of a block: its region stops its sequencer and the device halts the launch (R91, R93, R125, R188). -/
def blkHalt (s : State) (b : Fin 48) (code idx : Nat) (r : Nat) (more : List Byte := []) : State :=
  match (s.blocks[b]).lid with
  | none => stopBlk s b
  | some lid => haltLaunch (stopBlk s b) lid code 
      { blk := b.val, place := physOf s b, idx := idx, reg := r, more := more }

/-- Draw a free byte list (log 10). -/
def drawBytes (s : State) (n : Nat) : List Byte × State :=
  ((List.range n).map (fun i => Config.freeByte (s.freeCtr + i)), { s with freeCtr := s.freeCtr + n })

/-- Draw a free word (log 26). -/
def drawWord (s : State) : Word × State :=
  (Config.freeWord s.freeCtr, { s with freeCtr := s.freeCtr + 1 })

/-! ### Storage spaces (Table 3.3) -/

/-- The storage a descriptor names: a bank, the scratchpad, the region buffer or memory. -/
inductive Space where
  | bank (k : Nat) | scratch | rbuf | mem
  deriving DecidableEq, Repr

/-- Bytes in a space; memory is bounded by its own ranges. -/
def Space.size : Space → Nat
  | .bank k => if k = 2 then 2 ^ 21 else 2 ^ 20
  | .scratch => 2 ^ 22
  | .rbuf => 24 * 2 ^ 20
  | .mem => 2 ^ 44

def Block.bank (k : Block) (i : Nat) : Store 8 :=
  match i with
  | 0 => k.bankA0
  | 1 => k.bankA1
  | _ => k.bankB

/-- Where a bank's undefined contents begin, if they are undefined (R109). -/
def Block.junk (k : Block) (i : Nat) : Option Nat :=
  match i with
  | 0 => k.junk0
  | 1 => k.junk1
  | _ => k.junk2

/-- What an unlisted byte of a bank reads as: zero, or a free byte after the bank was streamed through. -/
def Block.bankD (k : Block) (i a : Nat) : Byte :=
  match k.junk i with
  | none => 0
  | some n => Config.freeByte (n + a)

def Block.setBank (k : Block) (i : Nat) (m : Store 8) : Block :=
  match i with
  | 0 => { k with bankA0 := m }
  | 1 => { k with bankA1 := m }
  | _ => { k with bankB := m }

/-- After an instruction streamed through a bank, its contents are undefined (R109). -/
def junkBank (s : State) (b : Fin 48) (i : Nat) : State :=
  let n := s.freeCtr
  let s := modBlk s b (fun k =>
    let k := k.setBank i []
    match i with
    | 0 => { k with junk0 := some n }
    | 1 => { k with junk1 := some n }
    | _ => { k with junk2 := some n })
  { s with freeCtr := n + 2 ^ 21 }

/-- Parameter word at byte `a` of a block's scratchpad. -/
def scratchWord (s : State) (b : Fin 48) (a : Nat) : Word := packBytes 32 (srange zeroFill (s.blocks[b]).scratch a 4)

/-- Write bytes of a block's scratchpad. -/
def scratchPut (s : State) (b : Fin 48) (a : Nat) (bs : List Byte) : State :=
  modBlk s b (fun k => { k with scratch := sput zeroFill k.scratch a bs })

/-- Key of an element of accumulator memory: slot, row, column. -/
def accKey (slot row col : Nat) : Nat := slot * 16384 + row * 128 + col

/-- The slot of an element's key. -/
def slotOfKey (key : Nat) : Nat := key / 16384

/-- What an unlisted element of accumulator memory reads as: zero, or a free word in a slot that an instruction used for its
tree (R69, R111, log 122). -/
def Block.accD (k : Block) (key : Nat) : Word :=
  match k.slotJunk.find? (fun x => x.1 = slotOfKey key) with
  | none => 0
  | some x => Config.freeWord (x.2 + key % 16384)

/-- One element of accumulator memory. -/
def Block.accAt (k : Block) (key : Nat) : Word := sget k.accD k.acc key

def accRow (k : Block) (slot row col n : Nat) : List Word := srange k.accD k.acc (accKey slot row col) n

def accPut (k : Block) (slot row col : Nat) (vs : List Word) : Block :=
  { k with acc := sput k.accD k.acc (accKey slot row col) vs }

/-- A slot with no content of its own: every element reads as the unlisted ones of the slot do. -/
def dropSlot (k : Block) (slot : Nat) : Block :=
  { k with acc := k.acc.filter (fun c => slotOfKey c.1 ≠ slot), slotJunk := k.slotJunk.filter (fun x => x.1 ≠ slot) }

/-- A slot left with partials that the spec does not name: free words (R69, R111, log 122). -/
def junkSlot (s : State) (b : Fin 48) (slot : Nat) : State :=
  let s' := modBlk s b (fun k => let k := dropSlot k slot; { k with slotJunk := (slot, s.freeCtr) :: k.slotJunk })
  { s' with freeCtr := s.freeCtr + 16384 }

end Sys2Proof.Machine
end

