-- ==== Sys2Proof/Machine/BurstCode.lean ====
section
/-! DEFINITION. The burst code and where its symbols travel (10_optical_memory.md, R407, R408, R412-R416). -/

namespace Sys2Proof.Machine

/-- A symbol: bit `i` is the coefficient of α^i (R412). -/
abbrev Sym := BitVec 12

/-- Times α: x^12 = x^6 + x^4 + x + 1 (R412). -/
def Sym.alpha (x : Sym) : Sym := (x <<< 1) ^^^ (if x.msb then 0x053 else 0)

/-- The product of two symbols (R412). -/
def Sym.mul (x y : Sym) : Sym :=
  (List.range 12).foldl (fun a i => Sym.alpha a ^^^ (if y.getMsbD i then x else 0)) 0

/-- α^i. -/
def Sym.pow : Nat → Sym
  | 0 => 1
  | i + 1 => Sym.alpha (Sym.pow i)

/-- A polynomial, the constant first, times (x + r). -/
def timesRoot (r : Sym) (p : List Sym) : List Sym :=
  List.zipWith (· ^^^ ·) (0 :: p) (p.map (Sym.mul r) ++ [0])

/-- g(x), the product of x + α^i over i = 1 to 42, the constant first (R414). -/
def burstGen : List Sym := (List.range 42).foldl (fun p i => timesRoot (Sym.pow (i + 1)) p) [1]

/-- One step of the division: the register holds the remainder so far, the constant first. -/
def divStep (g : List Sym) (reg : List Sym) (x : Sym) : List Sym :=
  let q := x ^^^ reg.getD 41 0
  List.zipWith (fun a c => a ^^^ Sym.mul q c) (0 :: reg.take 41) (g.take 42)

/-- The metadata byte: POISON in bit 0, zeros above (R415). -/
def metaByte (poison : Bool) : Byte := if poison then 1 else 0

/-- The 342 data symbols of a payload and its metadata byte (Table 10.2). -/
def dataSyms (payload : List Byte) (poison : Bool) : List Sym :=
  let x := leNat (payload ++ [metaByte poison])
  (List.range 342).map (fun k => BitVec.ofNat 12 (x / 2 ^ (12 * k)))

/-- The three address symbols of burst address `A`, which are never sent or stored (Table 10.2). -/
def addrSyms (A : Nat) : List Sym := [0, 12, 24].map (fun k => BitVec.ofNat 12 (A % 2 ^ 35 / 2 ^ k))

/-- The 42 check symbols: the remainder of the rest of the codeword divided by g (R414). -/
def checkSyms (payload : List Byte) (poison : Bool) (A : Nat) : List Sym :=
  let g := burstGen
  ((dataSyms payload poison ++ addrSyms A).reverse).foldl (divStep g) (List.replicate 42 0)

/-- The codeword of a burst: symbols s_0 to s_386 (R413). -/
def codeword (payload : List Byte) (poison : Bool) (A : Nat) : List Sym :=
  checkSyms payload poison A ++ dataSyms payload poison ++ addrSyms A

/-- The 576-byte coded unit (R408, R416). -/
def codedUnit (payload : List Byte) (poison : Bool) (A : Nat) : List Byte :=
  let checks := (checkSyms payload poison A).zipIdx.foldl (fun n x => n + x.1.toNat * 2 ^ (12 * x.2)) 0
  payload ++ toLe 63 checks ++ [metaByte poison]

/-- The coded unit that the stack stores for a burst, by its number (R408): State holds its payload and its POISON, of which the
rest is a function (log 134). -/
def storedUnit (s : State) (burst : Nat) : List Byte :=
  codedUnit (memBytes s (512 * burst) 512) (s.mem.poison.any (· = burst)) burst

/-- The write frame of a burst: its coded unit with its command and address, and their CRC-32C (R423). -/
def writeFrame (s : State) (burst : Nat) : List Byte :=
  let f := Config.frameHead burst ++ storedUnit s burst
  f ++ toLe 4 (crc32c f).toNat

/-! ### Carriers (Tables 10.1, 10.3) -/

/-- Lanes of a direction without the spare (Table 10.1). -/
def laneCount : LinkDir → Nat
  | .read => 64
  | .write => 32

/-- Lanes in use at a width. -/
def lanesAt (d : LinkDir) (half : Bool) : Nat := if half then laneCount d / 2 else laneCount d

/-- The logical lane that carries transmitted symbol `j` (Table 10.3). -/
def laneOf (d : LinkDir) (half : Bool) (j : Nat) : Nat := j % lanesAt d half

/-- Data TSVs and spare data TSVs of a channel (Table 10.1). -/
def dataTsvs : Nat := 96
def spareTsvs : Nat := 4

/-- The data TSV of a channel that carries symbol `j` (Table 10.3). -/
def tsvOf (j : Nat) : Nat := j % dataTsvs

/-- The transmitted symbols that a lane carries. -/
def laneSyms (d : LinkDir) (half : Bool) (lane : Nat) : List Nat :=
  (List.range 384).filter (fun j => laneOf d half j = lane)

end Sys2Proof.Machine
end

