-- ==== Sys2Proof/Machine/Frc.lean ====
section
/-! DEFINITION. Fixed-rate compressed feature maps (05_convolution_vae.md, R248-R260): windows, codes, and the byte
view of memory that reads through them. -/

namespace Sys2Proof.Machine

/-- 2 MiB. -/
def mib2 : Nat := 2 ^ 21

/-- Logical base and size, physical base, format and code of window `w` (Table 5.15, R248). -/
structure FrcWin where
  on : Bool
  base : Nat
  size : Nat
  phys : Nat
  fp16 : Bool
  frc4 : Bool
  deriving DecidableEq, Repr

/-- Window `w` from its three words (Table 5.15). -/
def frcOf (w0 w1 w2 : Word) : FrcWin :=
  { on := getF w0 31 31 = 1, base := viewBase + getF w0 21 0 * mib2, size := getF w1 21 0 * mib2,
    phys := getF w2 22 0 * mib2, fp16 := getF w0 25 25 = 1, frc4 := getF w0 24 24 = 1 }

def frcWin (s : State) (w : Nat) : FrcWin :=
  frcOf (rreg s .memFrcwin0 w) (rreg s .memFrcwin1 w) (rreg s .memFrcwin2 w)

/-- The enabled window an address lies in (R248). -/
def winAt (s : State) (a : Nat) : Option Nat :=
  (List.range 16).find? (fun w => let f := frcWin s w; f.on && f.base ≤ a && decide (a < f.base + f.size))

def FrcWin.fmt (f : FrcWin) : Fmt := if f.fp16 then .fp16 else .bf16

/-- Bytes of one compression block's code (Table 5.10). -/
def FrcWin.codeBytes (f : FrcWin) : Nat := if f.frc4 then 8 else 16

/-- The limit L of R250. -/
def FrcWin.lim (f : FrcWin) : Nat := if f.frc4 then 5 else 90

/-- The physical byte of the compression block that holds logical offset `o` (R249). -/
def FrcWin.codeAt (f : FrcWin) (o : Nat) : Nat := f.phys + o / 32 * f.codeBytes

/-- Element `i` of a compression block, decoded to the window's format (R252). -/
def frcDecode (f : FrcWin) (code : Nat) (i : Nat) : Nat :=
  let x := code % 256
  let pb := if f.frc4 then 7 else 15
  let p := code / 2 ^ (8 + pb * (i / 2)) % 2 ^ pb
  let k := 2 * f.lim + 1
  if x = 0 then 0
  else if x = 255 then narrow f.fmt none .nan
  else if k * k ≤ p then narrow f.fmt none .nan
  else
    let q : Int := (if i % 2 = 0 then (p / k : Nat) else (p % k : Nat)) - (f.lim : Int)
    narrow f.fmt none ((intNum q).scale ((x : Int) - 127))

/-- The scale exponent of a block of finite values, not all zero (R250). -/
def frcScale (lim : Nat) (amax : Num) : Int :=
  let lo : Int := match amax with | .fin _ m e => (Nat.log2 m : Int) + e - 8 | _ => 0
  let s := ((List.range 16).find? (fun (k : Nat) => amax.le ((intNum lim).scale (lo + k)))).getD 15
  max (lo + (s : Int)) (-126)

/-- The code of 16 values (R250, R251). -/
def frcEncode (f : FrcWin) (xs : List Num) : Nat :=
  if xs.any (fun x => !x.isFinite) then 0xFF
  else if xs.all Num.isZero then 0
  else
    let amax := xs.foldl (fun a x => if a.lt x.abs then x.abs else a) (.fin false 0 0)
    let s := frcScale f.lim amax
    let q (i : Nat) : Nat := (rneInt ((xs.getD i (.fin false 0 0)).scale (-s)) + (f.lim : Int)).toNat
    let pb := if f.frc4 then 7 else 15
    let k := 2 * f.lim + 1
    (s + 127).toNat + ((List.range 8).map (fun p => (k * q (2 * p) + q (2 * p + 1)) * 2 ^ (8 + pb * p))).sum

/-- A byte of memory as a unit reads it: through its window in the compressed-view range (R252). -/
def viewByte (s : State) (a : Nat) : Byte :=
  if a < viewBase then memByte s a
  else
    match winAt s a with
    | none => 0
    | some w =>
      let f := frcWin s w
      let o := a - f.base
      let x := frcDecode f (memLe s (f.codeAt o) f.codeBytes) (o % 32 / 2)
      BitVec.ofNat 8 (if o % 2 = 0 then x else x / 256)

/-- Bytes of memory as a unit reads them. -/
def viewBytes (s : State) (a n : Nat) : List Byte :=
  if a + n ≤ viewBase then memBytes s a n else (List.range n).map (fun i => viewByte s (a + i))

/-- Bytes of a space of block `b` (Table 3.3). -/
def spBytes (s : State) (b : Fin 48) (sp : Space) (a n : Nat) : List Byte :=
  match sp with
  | .bank k => srange ((s.blocks[b]).bankD k) ((s.blocks[b]).bank k) a n
  | .scratch => srange zeroFill (s.blocks[b]).scratch a n
  | .rbuf => srange zeroFill (s.regions[rgnOf b]).rbuf a n
  | .mem => viewBytes s a n

/-- Addresses of a range that tell which windows it meets: its first byte, and the first of each further 2 MiB, the unit of
windows (Table 5.15). -/
def probes (a n : Nat) : List Nat :=
  a :: (List.range ((a + n - 1) / mib2 - a / mib2)).map (fun k => (a / mib2 + k + 1) * mib2)

/-- The cause for which an access to the compressed-view range is refused, with the window, if it is: the lowest code of
those that hold (R255-R258, Table 5.16). `ok` is whether the unit may make this kind of access to a window, `f` its element
format, `col` whether an STT's columns align. -/
def frcWhy (s : State) (ok : Bool) (f : Fmt) (col : Bool) (a n : Nat) : Option (Nat × Nat) :=
  if n = 0 ∨ a + n ≤ viewBase then none
  else
    let ps := probes a n
    let ws := ps.filterMap (winAt s)
    let w := ws.headD 0x1F
    let some? : Bool := ws ≠ []
    let holds (c : Nat) : Bool :=
      match c with
      | 1 => some? && !ok
      | 2 => ws.any (fun w => f ≠ (frcWin s w).fmt)
      | 3 => ps.any (fun p => viewBase ≤ p && decide (p < 2 ^ 44) && (winAt s p).isNone)
      | 4 => some? && !col
      | _ => some? && ps.any (fun p => winAt s p ≠ winAt s a)
    ([1, 2, 3, 4, 5].find? holds).map (fun c => (c, if c = 3 then 0x1F else w))

/-- Record an FRC_ACCESS in MEM_FRC_STAT (R258, Table 5.16). -/
def frcRecord (s : State) (src why win : Nat) : State :=
  let v := rreg s .memFrcStat 0
  wreg s .memFrcStat 0 (setF (setF (setF (setF v 31 31 1) 30 25 src) 24 20 win) 19 16 why)

end Sys2Proof.Machine
end

