-- ==== Sys2Proof/Machine/Operands.lean ====
section
/-! DEFINITION. Operand forms: extent words, operand references, element rows, valid extents and the fields of every
descriptor (03_tiles_drain.md, R103-R121; R55, R76, R105, R211). -/

namespace Sys2Proof.Machine

/-- A 64-bit operand reference (Table 3.3, R107). -/
structure OpRef where
  space : Nat
  bank : Nat
  stride : Nat
  addr : Nat
  deriving DecidableEq, Repr

/-- The operand reference held in 64 bits (Table 3.3). -/
def opRef (x : Nat) : OpRef :=
  { space := x / 2 ^ 62 % 4, bank := x / 2 ^ 60 % 4, stride := x / 2 ^ 44 % 2 ^ 16, addr := x % 2 ^ 44 }

/-- The operand reference at byte `b` of a descriptor. -/
def refAt (d : BitVec 512) (b : Nat) : OpRef := opRef (fld d b 8)

/-- The space an operand reference names. -/
def OpRef.sp (r : OpRef) : Space :=
  match r.space with
  | 0 => .bank r.bank
  | 1 => .scratch
  | 2 => .rbuf
  | _ => .mem

/-- The value of an extent word: a literal, or a shape slot of the launch (R106, R118). -/
def extent (l : Launch) (x : Nat) : Nat :=
  if x / 2 ^ 31 % 2 = 1 then (l.slot (x / 2 ^ 24 % 64)).getD 0 else x % 2 ^ 24

/-- The extent at byte `b` of a descriptor. -/
def extAt (l : Launch) (d : BitVec 512) (b : Nat) : Nat := extent l (fld d b 4)

/-- Bytes of `n` packed elements (R105). -/
def eltBytes (f : Fmt) (n : Nat) : Nat := (n * f.bits + 7) / 8

/-- Where the scales of an MX row of `n` elements begin (R105). -/
def scaleOff (f : Fmt) (n : Nat) : Nat := upTo (eltBytes f n) 64

/-- Bytes of one row of `n` elements, with its scales (R105). -/
def rowBytes (f : Fmt) (n : Nat) : Nat := if f.isMx then scaleOff f n + (n + 31) / 32 else eltBytes f n

/-- The encoding of element `j` of a row of packed bytes (R105). -/
def eltCode (f : Fmt) (row : List Byte) (j : Nat) : Nat :=
  match f.bits with
  | 4 => let x := (row.getD (j / 2) 0).toNat; if j % 2 = 0 then x % 16 else x / 16
  | 8 => (row.getD j 0).toNat
  | 16 => leAt row (2 * j) 2
  | _ => leAt row (4 * j) 4

/-- The zero element with exponent 0 (R131). -/
def zeroNum : Num := .fin false 0 0

/-- The values of a row's first `cnt` elements, from its bytes and its scale bytes (R57, R105, R266). -/
def rowNums (f : Fmt) (row scales : List Byte) (cnt : Nat) : List Num :=
  (List.range cnt).map (fun j =>
    if f.isMx then decodeMx f (eltCode f row j) (scales.getD (j / 32) 0).toNat else decodeElt f (eltCode f row j))

/-- The first `cnt` values of the row of `n` elements at byte `a` of a space (R105, R130). -/
def readRow (s : State) (b : Fin 48) (sp : Space) (f : Fmt) (a n cnt : Nat) : List Num :=
  rowNums f (spBytes s b sp a (eltBytes f cnt))
    (if f.isMx then spBytes s b sp (a + scaleOff f n) ((cnt + 31) / 32) else []) cnt

/-- Pad a row with zero elements to a length. -/
def padTo (n : Nat) (l : List Num) : List Num := l ++ List.replicate (n - l.length) zeroNum

/-- A matrix of `h` rows of `w` values: the valid rows and columns read from a space, zeros elsewhere (R108, R131).
`n` is the length of a stored row. -/
def readTile (s : State) (b : Fin 48) (r : OpRef) (base : Nat) (f : Fmt) (n h vh vw w : Nat) : List (List Num) :=
  (List.range h).map (fun i =>
    if i < vh then padTo w (readRow s b r.sp f (base + i * r.stride * 64) n vw) else List.replicate w zeroNum)

/-! ### Formats and forms (Table 2.1, Table 2.5) -/

/-- BF16 or FP16. -/
def Fmt.wide : Fmt → Bool
  | .bf16 | .fp16 => true
  | _ => false

/-- E4M3, E5M2 or MX8. -/
def Fmt.narrow8 : Fmt → Bool
  | .e4m3 | .e5m2 | .mx8 => true
  | _ => false

/-- The products per output per array cycle of an operand pair, if the array accepts it (Table 2.1, R55). -/
def pairRate (f g : Fmt) : Option Nat :=
  if f.wide && g.wide then (if f = g then some 2 else none)
  else if f.wide && (g.narrow8 || g = .mx4) || g.wide && (f.narrow8 || f = .mx4) then some 2
  else if f.narrow8 && (g.narrow8 || g = .mx4) || g.narrow8 && f = .mx4 then some 4
  else if f = .mx4 && g = .mx4 then some 8
  else if f = .int8 && g = .int8 then some 4
  else if f = .fp32 && g = .fp32 then some 2
  else none

/-- Opcodes (Table 3.1). -/
def opLDT : Nat := 0x01
def opSTT : Nat := 0x02
def opMMF : Nat := 0x10
def opMMH : Nat := 0x11
def opMMQ : Nat := 0x12
def opMMV : Nat := 0x13
def opCVI : Nat := 0x18
def opCVD : Nat := 0x19
def opATS : Nat := 0x1C
def opATV : Nat := 0x1D
def opDRN : Nat := 0x20
def opRSC : Nat := 0x21
def opSYN : Nat := 0x30
def opSFL : Nat := 0x31
def opWFL : Nat := 0x32
def opFIN : Nat := 0x3F

/-- The unit of an opcode (Table 3.1). -/
inductive BUnit where
  | load | array | drain | sync
  deriving DecidableEq, Repr

/-- The unit an opcode belongs to, or none for an opcode outside Table 3.1 (R103). -/
def unitOf (op : Nat) : Option BUnit :=
  if op = opLDT then some .load
  else if op ∈ [opMMF, opMMH, opMMQ, opMMV, opCVI, opCVD, opATS, opATV] then some .array
  else if op ∈ [opSTT, opDRN, opRSC] then some .drain
  else if op ∈ [opSYN, opSFL, opWFL, opFIN] then some .sync
  else none

/-- The opcode of an instruction word (R103). -/
def opOf (d : BitVec 512) : Nat := fld d 0 1

/-- The largest K of a form for an operand pair (Table 2.5, R76, R217). -/
def kLimit (op : Nat) (f g : Fmt) : Nat :=
  if f = .fp32 then 10496
  else
    let base := match pairRate f g with | some 4 => 63488 | some 8 => 126976 | _ => 31744
    if op = opMMQ then base / 2 else if op = opMMV then base * 8 else base

/-- Tile height of a form (R119, R217; 128 query rows for ATS and ATV). -/
def tileH (op : Nat) : Nat := if op = opMMQ then 64 else if op = opMMV then 16 else 128

/-- Tile width of a form (R119). -/
def tileW (op : Nat) : Nat := if op = opMMH ∨ op = opMMQ then 64 else 128

/-- `min t (e - o)` if `e > o`, else 0 (R119). -/
def validExt (t e o : Nat) : Nat := if o < e then min t (e - o) else 0

/-! ### Fields of the array descriptor (Table 3.4) -/

def dFmtA (d : BitVec 512) : Option Fmt := Fmt.ofCode (fld d 2 1 % 16)
def dFmtB (d : BitVec 512) : Option Fmt := Fmt.ofCode (fld d 2 1 / 16)
def dOvw (d : BitVec 512) : Bool := fld d 1 1 % 2 = 1
def dAcc (d : BitVec 512) : Nat := fld d 3 1 % 32
def dM0 (d : BitVec 512) : Nat := fld d 16 4
def dN0 (d : BitVec 512) : Nat := fld d 20 4
def dK0 (d : BitVec 512) : Nat := fld d 24 4
def dKT (d : BitVec 512) : Nat := fld d 28 4
def dOPA (d : BitVec 512) : OpRef := refAt d 32
def dOPB (d : BitVec 512) : OpRef := refAt d 40
def dTSB (d : BitVec 512) : Nat := fld d 48 1 % 32
def dQSA (d : BitVec 512) : Nat := fld d 52 4
def dQSB (d : BitVec 512) : Nat := fld d 56 4

/-- Pair partials of a K length (R67, R68, R111). -/
def pairsOf (k : Nat) : Nat := ((k + 255) / 256 + 1) / 2

/-! ### Attention fields (Tables 4.3, 4.4, 4.8) -/

def aFirst (d : BitVec 512) : Bool := fld d 54 1 % 2 = 1
def aFetch (d : BitVec 512) : Bool := fld d 54 1 / 2 % 2 = 1

/-- Word `w` of the attention parameter block (R159). -/
def apWord (s : State) (b : Fin 48) (d : BitVec 512) (w : Nat) : Word :=
  scratchWord s b (fld d 52 2 % 2 ^ 14 * 256 + 4 * w)

/-- A granule number held in a parameter word. -/
def granule (x : Word) : Nat := x.toNat % 2 ^ 14 * 256

/-- PFMT, KVFMT, DQ and KIND of the parameter block's SHAPE word (Table 4.4). -/
def apPfmt (sh : Word) : Nat := getF sh 3 0
def apKvfmt (sh : Word) : Nat := getF sh 7 4
def apDq (sh : Word) : Nat := getF sh 11 8
def apKind (sh : Word) : Nat := getF sh 14 12

/-- The key extent of an ATS or ATV: the smaller of its extent word and LEN of the page list (R186). -/
def keyExtent (s : State) (b : Fin 48) (l : Launch) (d : BitVec 512) : Nat :=
  let e := extAt l d (if opOf d = opATS then 8 else 12)
  min e (scratchWord s b (granule (apWord s b d 6) + 4)).toNat

/-- Bytes of one key row (Table 4.8). -/
def kvRow (f : Fmt) (dd : Nat) : Nat := eltBytes f dd

/-- The offset of the page's K (`v = false`) or V scales (Table 4.8). -/
def pageScaleOff (f : Fmt) (dd : Nat) (v : Bool) : Nat :=
  2 * (256 * kvRow f dd) + (if v then upTo (256 * (dd / 32)) 512 else 0)

/-- The offset of the page's K or V elements (Table 4.8). -/
def pageEltOff (f : Fmt) (dd : Nat) (v : Bool) : Nat := if v then 256 * kvRow f dd else 0

/-- Bytes of a page's K or V area in bank B: elements, then scales from the next 512-byte boundary (log 31). -/
def areaScaleOff (f : Fmt) (dd : Nat) : Nat := upTo (256 * kvRow f dd) 512

def areaBytes (f : Fmt) (dd : Nat) : Nat :=
  if f.isMx then areaScaleOff f dd + 256 * (dd / 32) else 256 * kvRow f dd

/-! ### Convolution fields (Table 5.2) -/

structure Conv where
  ih : Nat
  iw : Nat
  cin : Nat
  cb32 : Bool
  fh : Nat
  fw : Nat
  sh : Nat
  sw : Nat
  dh : Nat
  dw : Nat
  pt : Nat
  pl : Nat
  pb : Nat
  pr : Nat
  grp : Nat
  deriving DecidableEq, Repr

def convOf (d : BitVec 512) : Conv :=
  let n (b : Nat) : Nat := fld d b 1
  { ih := fld d 52 2, iw := fld d 54 2, cin := fld d 56 2 % 2 ^ 13, cb32 := fld d 56 2 / 2 ^ 13 % 2 = 1,
    fh := n 58 % 16 + 1, fw := n 58 / 16 + 1, sh := n 59 % 16 + 1, sw := n 59 / 16 + 1,
    dh := n 60 % 16 + 1, dw := n 60 / 16 + 1, pt := n 61 % 16, pl := n 61 / 16, pb := n 62 % 16, pr := n 62 / 16,
    grp := n 63 % 8 }

/-- An output extent (R212). -/
def outExt (i p q d f st : Nat) : Nat :=
  if d * (f - 1) + 1 ≤ i + p + q then (i + p + q - d * (f - 1) - 1) / st + 1 else 0

def Conv.oh (c : Conv) : Nat := outExt c.ih c.pt c.pb c.dh c.fh c.sh
def Conv.ow (c : Conv) : Nat := outExt c.iw c.pl c.pr c.dw c.fw c.sw

/-- CK: channels rounded up to 16, or to 32 for an MX input (R213). -/
def Conv.ck (c : Conv) (f : Fmt) : Nat := upTo c.cin (if f.isMx then 32 else 16)

/-- CP: stored channels of a channel-blocked tensor (R208). -/
def Conv.cp (c : Conv) : Nat := upTo c.cin (if c.cb32 then 32 else 16)

/-- Bytes of one pixel row (Table 5.1). -/
def Conv.pixBytes (c : Conv) (f : Fmt) : Nat :=
  match f with
  | .mx8 => (c.cp + 63) / 64 * 64 + c.cp / 32
  | .mx4 => (c.cp + 127) / 128 * 64 + c.cp / 32
  | _ => eltBytes f c.cp

/-- The expanded reduction length the form requires (R213, R221, Table 5.3). -/
def Conv.ek (c : Conv) (op : Nat) (f : Fmt) : Nat := c.fh * c.fw * (if op = opCVD then 128 else c.ck f)

/-- The input pixel that tap `tap` of output pixel `m` reads, if it lies inside the map (R214). -/
def Conv.pixel (c : Conv) (m tap : Nat) : Option Nat :=
  let oh := m / c.ow
  let ow := m % c.ow
  let y : Int := (oh * c.sh : Nat) - (c.pt : Int) + (tap / c.fw * c.dh : Nat)
  let x : Int := (ow * c.sw : Nat) - (c.pl : Int) + (tap % c.fw * c.dw : Nat)
  if y < 0 ∨ (c.ih : Int) ≤ y ∨ x < 0 ∨ (c.iw : Int) ≤ x then none else some (y.toNat * c.iw + x.toNat)

end Sys2Proof.Machine
end

