-- ==== Sys2Proof/Machine/Check.lean ====
section
/-! DEFINITION. The issue checks of Table 3.7 in order (03_tiles_drain.md, R123-R125, R150, R748-R751), with the
conditions of attention (R161, R172), convolution (R218), flags (R228), COMPAT (R299), the canonical cuts (R342) and
the compressed-view range (R255-R258). -/

namespace Sys2Proof.Machine

/-- One condition of a check: whether it holds (and so refuses), and the OFFSET and AUX it records (R751). -/
abbrev Cond := Bool × Nat × Nat

/-- The first condition of a row that holds. -/
def firstCond (l : List Cond) : Option (Nat × Nat) := (l.find? (·.1)).map (·.2)

/-- A drain-chain stage: its code, mode and argument (Table 3.6). -/
structure Stage where
  code : Nat
  mode : Nat
  arg : Nat
  deriving DecidableEq, Repr

/-- The eight stage entries of a DRN (Table 3.6). -/
def stageAt (d : BitVec 512) (i : Nat) : Stage :=
  let x := fld d (40 + 3 * i) 3
  { code := x / 2 ^ 20, mode := x / 2 ^ 16 % 16, arg := x % 2 ^ 16 }

def stagesAll (d : BitVec 512) : List Stage := (List.range 8).map (stageAt d)

/-- The stages that act: those before the first NONE (R139). -/
def stages (d : BitVec 512) : List Stage := (stagesAll d).takeWhile (fun s => s.code ≠ 0)

def stageIdx (d : BitVec 512) (code : Nat) : Option Nat := (stages d).findIdx? (fun s => s.code = code)

def hasStage (d : BitVec 512) (code : Nat) : Bool := (stageIdx d code).isSome

def isGated (d : BitVec 512) : Bool := (stages d).any (fun s => s.code = 3 && s.mode = 1)

/-! Fields of LDT and STT (Table 3.5) and of DRN (Table 3.6). -/
def lFold (d : BitVec 512) : Bool := fld d 1 1 % 2 = 1
def lBcast (d : BitVec 512) : Bool := opOf d = opLDT && fld d 1 1 / 2 % 2 = 1
def lFmt (d : BitVec 512) : Option Fmt := Fmt.ofCode (fld d 2 1 % 16)
def lMask (d : BitVec 512) : Nat := fld d 3 1 % 64
def lRow0 (d : BitVec 512) : Nat := fld d 12 4
def lCol0 (d : BitVec 512) : Nat := fld d 16 4
def lTR (d : BitVec 512) : Nat := fld d 20 4
def lTC (d : BitVec 512) : Nat := fld d 24 4
def lSrc (d : BitVec 512) : OpRef := refAt d 28
def lDst (d : BitVec 512) : OpRef := refAt d 36
def lRin (d : BitVec 512) : Nat := fld d 44 4
def lOstr (d : BitVec 512) : Nat := fld d 48 4

def nInt (d : BitVec 512) : Bool := fld d 1 1 % 2 = 1
def nNoStore (d : BitVec 512) : Bool := fld d 1 1 / 2 % 2 = 1
def nOfmt (d : BitVec 512) : Option Fmt := Fmt.ofCode (fld d 2 1 % 16)
def nRfmt (d : BitVec 512) : Option Fmt := Fmt.ofCode (fld d 2 1 / 16)
def nSlot (d : BitVec 512) : Nat := fld d 3 1 % 32
def nSrow (d : BitVec 512) : Nat := fld d 4 1
def nScol (d : BitVec 512) : Nat := fld d 5 1
def nTR (d : BitVec 512) : Nat := fld d 6 1
def nTC (d : BitVec 512) : Nat := fld d 7 1
def nM0 (d : BitVec 512) : Nat := fld d 16 4
def nN0 (d : BitVec 512) : Nat := fld d 20 4
def nDst (d : BitVec 512) : OpRef := refAt d 24
def nPbase (d : BitVec 512) : Nat := fld d 32 2 % 2 ^ 14 * 256

/-- Output columns of a DRN: half when a gated ACT folds value into gate (R141). -/
def nOutTC (d : BitVec 512) : Nat := if isGated d then nTC d / 2 else nTC d

def isArrayOp (op : Nat) : Bool := op ∈ [opMMF, opMMH, opMMQ, opMMV, opCVI, opCVD, opATS, opATV]
def isMatOp (op : Nat) : Bool := op ∈ [opMMF, opMMH, opMMQ, opMMV]
def isConvOp (op : Nat) : Bool := op = opCVI || op = opCVD
def isAttnOp (op : Nat) : Bool := op = opATS || op = opATV

/-- Byte offsets of the extent words of a descriptor (Tables 3.4-3.6). -/
def extOffs (op : Nat) : List Nat :=
  if isArrayOp op then [4, 8, 12]
  else if op = opLDT ∨ op = opSTT then [4, 8]
  else if op = opDRN then [8, 12]
  else []

/-- Reserved fields of a descriptor: first byte, length and mask (Tables 3.4-3.6, 4.3, 4.6, 5.2, 5.7; R748). FLAGS [1] of STT is taken as
reserved (DESIGN CHOICE, log 159). -/
def reserved (op : Nat) : List (Nat × Nat × Nat) :=
  let ones (n : Nat) : Nat := 2 ^ (8 * n) - 1
  let arr : List (Nat × Nat × Nat) := [(1, 1, 0xFE), (3, 1, 0xE0), (48, 1, 0xE0), (49, 3, ones 3)]
  if op = opMMF ∨ op = opMMV then arr ++ [(52, 4, ones 4), (56, 4, ones 4), (60, 4, ones 4)]
  else if op = opMMH then arr ++ [(52, 4, ones 4), (60, 4, ones 4)]
  else if op = opMMQ then arr ++ [(60, 4, ones 4)]
  else if isAttnOp op then arr ++ [(52, 2, 0xC000), (54, 1, 0xFC), (55, 9, ones 9)]
  else if op = opCVI then arr ++ [(56, 2, 0xC000), (63, 1, 0xFF)]
  else if op = opCVD then arr ++ [(56, 2, 0xC000), (63, 1, 0xF8)]
  else if op = opLDT then [(1, 1, 0xFC), (2, 1, 0xF0), (3, 1, 0xC0), (52, 12, ones 12)]
  else if op = opSTT then [(1, 1, 0xFE), (2, 1, 0xF0), (3, 1, 0xC0), (52, 12, ones 12)]
  else if op = opDRN then [(1, 1, 0xFC), (3, 1, 0xE0), (32, 2, 0xC000), (34, 6, ones 6)]
  else if op = opRSC then [(1, 1, 0xFC), (2, 1, 0xFF), (7, 1, 0xFF), (14, 50, ones 50)]
  else if op = opSFL then [(1, 1, 0xFF), (2, 1, 0xF8), (3, 1, 0xC0), (8, 56, ones 56)]
  else if op = opWFL then [(1, 1, 0xFF), (2, 1, 0xFF), (3, 1, 0xC0), (8, 56, ones 56)]
  else if op = opFIN then [(1, 63, ones 63)]
  else []

/-- The first byte of a reserved part (byte, length, mask) that is not zero: each byte of a reserved range counts for
itself (R748, R751), but the words QSA and QSB, fields with a name, count at their first byte (log 54). -/
def resvAt (d : BitVec 512) (o n mask : Nat) : Option Nat :=
  if fld d o n &&& mask = 0 then none
  else if n = 4 ∧ (o = 52 ∨ o = 56) then some o
  else ((List.range n).find? (fun k => (fld d o n &&& mask) / 256 ^ k % 256 ≠ 0)).map (o + ·)

/-- Row 1, TILE_OP (R748; COMPAT: R299). The lowest reserved byte or field at fault counts first. -/
def checkOp (s : State) (d : BitVec 512) : Option (Nat × Nat) :=
  let op := opOf d
  if (unitOf op).isNone ∨ (isCompat s ∧ (isAttnOp op ∨ op = opRSC ∨ op = opCVD)) then some (0, 0)
  else if op = opSYN then (if Config.synReservedOk d then none else some ((Config.synReservedAt d).toNat, 0))
  else
    let rs := (reserved op).filterMap (fun r => resvAt d r.1 r.2.1 r.2.2)
    let es := (extOffs op).filter (fun o => fld d o 4 / 2 ^ 30 % 2 = 1)
    ((rs ++ es).foldl (fun m x => optLow m x) none).map (fun o => (o, 0))
where
  /-- The lower of an optional offset and another. -/
  optLow (m : Option Nat) (x : Nat) : Option Nat := some (match m with | none => x | some y => min x y)

/-- Row 2, TILE_FMT. -/
def checkFmt (s : State) (b : Fin 48) (d : BitVec 512) : Option (Nat × Nat) :=
  let op := opOf d
  let sh := apWord s b d 7
  if isArrayOp op then
    match dFmtA d, dFmtB d with
    | some f, some g =>
      let c := convOf d
      firstCond [
        ((pairRate f g).isNone, 2, 0),
        ((f = .fp32 || g = .fp32) && (op ≠ opMMF && op ≠ opMMH || f ≠ g), 2, 0),
        (isAttnOp op && !(decide (apPfmt sh = 0 ∨ apPfmt sh = 2) && decide (apKvfmt sh ∈ [2, 4, 5])), 52, 0),
        (isAttnOp op && (fld d 2 1 / 16 ≠ apKvfmt sh), 2, 0),
        (op = opATV && (fld d 2 1 % 16 ≠ apPfmt sh), 2, 0),
        (isConvOp op && f.isMx && !c.cb32, 2, 0),
        (op = opCVD && (f.isMx || g.isMx), 2, 0),
        (isCompat s && !(f = g && (f = .bf16 || f = .fp16 || f = .int8)), 2, 0)]
    | _, _ => some (2, 0)
  else if op = opLDT ∨ op = opSTT then (if (lFmt d).isNone then some (2, 0) else none)
  else if op = opDRN then
    match nOfmt d, nRfmt d with
    | some o, some r =>
      let q := (stages d).any (fun t => t.code = 8 && t.mode = 1)
      firstCond [
        (o.isMx && !q, 2, 0), (!o.isMx && q, 2, 0),
        (hasStage d 4 && !(r = .bf16 || r = .fp16 || r = .fp32), 2, 0),
        (isCompat s && !(o = .bf16 || o = .fp16 || o = .fp32 || o = .int8), 2, 0)]
    | _, _ => some (2, 0)
  else none

/-- Parameter word `w` of a DRN (Table 3.6). -/
def nWord (s : State) (b : Fin 48) (d : BitVec 512) (w : Nat) : Word := scratchWord s b (nPbase d + 4 * w)

/-- Row 3, TILE_SLOT. AUX names the slot. -/
def checkSlot (s : State) (b : Fin 48) (l : Launch) (d : BitVec 512) : Option (Nat × Nat) :=
  let op := opOf d
  let bad (x : Nat) : Bool :=
    x / 2 ^ 31 % 2 = 1 && (match l.slot (x / 2 ^ 24 % 64) with | none => true | some v => decide (x % 2 ^ 24 < v))
  let exts : List Cond := (extOffs op).map (fun o => (bad (fld d o 4), o, fld d o 4 / 2 ^ 24 % 64))
  let lenBad (w : Word) : Bool := w.toNat / 2 ^ 31 = 1 && (l.slot (w.toNat % 64)).isNone
  let mask : List Cond :=
    if op = opDRN then (stages d).filterMap (fun t =>
      if t.code = 5 ∧ t.mode / 2 = 1 ∧ t.arg < 64 then
        let w := nWord s b d t.arg
        some (lenBad w, 32, w.toNat % 64)
      else none)
    else if isAttnOp op ∧ getF (apWord s b d 1) 2 0 = 2 then
      [(lenBad (apWord s b d 2), 52, (apWord s b d 2).toNat % 64)]
    else []
  firstCond (exts ++ mask)

/-- Whether an operand reference is in one of the permitted spaces, BANK 3 never permitted where BANK is used
(R750). -/
def refOk (r : OpRef) (spaces : List Nat) (bankUsed : Bool) : Bool :=
  r.space ∈ spaces && !((bankUsed || r.space = 0) && r.bank = 3)

/-- Trailing zero bits of a non-zero number, bounded. -/
def tz (n : Nat) : Nat := ((List.range 32).find? (fun k => n / 2 ^ k % 2 = 1)).getD 32

/-- The refusals of R342, on the fields in the order the rule lists them. -/
def checkCuts (l : Launch) (d : BitVec 512) : List Cond :=
  let c0 := dK0 d / 256
  let n := (dKT d + 255) / 256
  let lv := clog2 n
  let short : Bool := dK0 d + dKT d < extAt l d 12
  [(c0 % 2 ^ lv ≠ 0, 24, 0), (decide (n ≠ 2 ^ lv) && short, 12, 0),
   (!dOvw d && decide (c0 ≠ 0) && decide (lv < tz c0) && short, 1, 0)]

/-- Row 4, TILE_SHAPE. Of ATS and ATV the STRIDE condition is made of OPA of ATS alone (DESIGN CHOICE, log 160); RSC takes TR and
TC up to 128 (DESIGN CHOICE, log 164). -/
def checkShape (s : State) (b : Fin 48) (l : Launch) (d : BitVec 512) : Option (Nat × Nat) :=
  let op := opOf d
  if isArrayOp op then
    match dFmtA d, dFmtB d with
    | some f, some g =>
      let lim := kLimit op f g / (if isCompat s then 16 else 1)
      let kt := dKT d
      let a := dOPA d
      let o := dOPB d
      let c := convOf d
      let sh := apWord s b d 7
      let base : List Cond :=
        [(kt = 0 || lim < kt, 28, 0), (dK0 d % 256 ≠ 0, 24, 0)]
      let spaces : List Cond :=
        if op = opATS then [(!(a.space = 0 && a.bank = 0), 32, 0), (!(o.space = 0 && o.bank = 2), 40, 0)]
        else if op = opATV then [(!(a.space = 1 && a.bank ≠ 3), 32, 0), (!(o.space = 0 && o.bank = 2), 40, 0)]
        else if isConvOp op then [(!refOk a [1, 2, 3] true, 32, 0), (!refOk o [0, 1, 2, 3] true, 40, 0)]
        else [(!refOk a [0, 1, 2, 3] true, 32, 0), (!refOk o [0, 1, 2, 3] true, 40, 0)]
      let bRow := if op = opCVD then eltBytes g (c.fh * c.fw * 2 ^ c.grp) else rowBytes g (c.ek op f)
      let strides : List Cond :=
        if op = opATS then [(a.stride * 64 < rowBytes f kt, 32, 0)]
        else if op = opATV then []
        else if isConvOp op then [(o.stride * 64 < bRow, 40, 0)]
        else [(a.stride * 64 < rowBytes f kt, 32, 0), (o.stride * 64 < rowBytes g kt, 40, 0)]
      let cuts : List Cond := if isAttnOp op || isCompat s then [] else checkCuts l d
      let dd := if op = opATS then extAt l d 12 else extAt l d 8
      let attn : List Cond :=
        if op = opATS then
          [(apDq sh * 32 ≠ dd, 12, 0), (dd % 32 ≠ 0 || dd < 32 || 256 < dd, 12, 0), (kt ≠ dd, 12, 0),
           (dK0 d ≠ 0, 24, 0), (dN0 d % 128 ≠ 0, 20, 0), (3 < getF (apWord s b d 1) 2 0, 52, 0)]
        else if op = opATV then
          [(apDq sh * 32 ≠ dd, 8, 0), (dd % 32 ≠ 0 || dd < 32 || 256 < dd, 8, 0), (kt ≠ 256, 28, 0),
           (dN0 d ≠ 0 && dN0 d ≠ 128, 20, 0), (3 < getF (apWord s b d 1) 2 0, 52, 0)]
        else []
      let conv : List Cond :=
        if isConvOp op then
          [(c.cin = 0, 56, 0), (extAt l d 12 ≠ c.ek op f, 12, 0), (c.oh * c.ow < extAt l d 4, 4, 0),
           (a.stride * 64 < c.pixBytes f, 32, 0), (op = opCVD && c.grp = 7, 63, 0), (op = opCVD && decide (c.cin ≠ extAt l d 8), 8, 0)]
        else []
      firstCond (base ++ spaces ++ strides ++ cuts ++ attn ++ conv)
    | _, _ => none
  else if op = opLDT ∨ op = opSTT then
    let f := (lFmt d).getD .bf16
    let src := lSrc d
    let dst := lDst d
    let rb := rowBytes f (lTC d)
    let ldt : Bool := op = opLDT
    firstCond [
      (if ldt then !refOk src (if lBcast d then [2] else [1, 2, 3]) false else !refOk src [1, 2] false, 28, 0),
      (if ldt then !refOk dst [0, 1] false else !refOk dst [2, 3] false, 36, 0),
      (ldt && dst.space = 0 && decide (128 < lTR d), 20, 0),
      (ldt && decide (lTR d ≠ 0 ∧ lTC d ≠ 0) &&
        decide (dst.sp.size < dst.addr + (lTR d - 1) * dst.stride * 64 + rb), 20, 0),
      (lBcast d && lMask d / 2 ^ (b.val % 6) % 2 = 0, 1, 0),
      (lFold d && lRin d = 0, 1, 0),
      (src.stride * 64 < rb, 28, 0), (dst.stride * 64 < rb, 36, 0)]
  else if op = opDRN then
    let o := (nOfmt d).getD .bf16
    let dst := nDst d
    firstCond [
      (nSrow d ≠ 0 && nSrow d ≠ 64, 4, 0), (nScol d ≠ 0 && nScol d ≠ 64, 5, 0),
      (128 < nSrow d + nTR d, 4, 0), (128 < nScol d + nTC d, 5, 0), (nTR d = 0, 6, 0), (nTC d = 0, 7, 0),
      (!nNoStore d && !refOk dst [1, 2] false, 24, 0),
      (!nNoStore d && decide (dst.stride * 64 < rowBytes o (nOutTC d)), 24, 0)]
  else if op = opRSC then
    let tr := fld d 5 1
    let tc := fld d 6 1
    firstCond [
      (fld d 1 1 % 4 = 3, 1, 0), (tr = 0 || 128 < tr, 5, 0), (tc = 0 || 128 < tc, 6, 0),
      (fld d 1 1 % 4 = 1 && decide (fld d 3 1 % 32 = fld d 4 1 % 32), 3, 0)]
  else if op = opSFL then firstCond [(fld d 4 4 = 0, 4, 0)]  -- a larger VAL is added (log 119)
  else none

/-- Row 5, TILE_ACC (R111). -/
def checkAcc (d : BitVec 512) : Option (Nat × Nat) :=
  let op := opOf d
  if isMatOp op ∨ isConvOp op then
    let t := clog2 (pairsOf (dKT d))
    firstCond [(31 + 1 < dTSB d + t, 48, 0), (decide (dTSB d ≤ dAcc d) && decide (dAcc d < dTSB d + t), 3, 0)]
  else none

/-- Row 6, TILE_ALIGN. -/
def checkAlign (d : BitVec 512) : Option (Nat × Nat) :=
  let op := opOf d
  if isArrayOp op then firstCond [((dOPA d).addr % 64 ≠ 0, 32, 0), ((dOPB d).addr % 64 ≠ 0, 40, 0)]
  else if op = opLDT ∨ op = opSTT then
    let f := (lFmt d).getD .bf16
    firstCond [((lSrc d).addr % 64 ≠ 0, 28, 0), ((lDst d).addr % 64 ≠ 0, 36, 0),
      (f.isMx && lCol0 d % 32 ≠ 0, 16, 0), (f.bits = 4 && lCol0 d % 2 = 1, 16, 0)]
  else if op = opDRN then
    firstCond [(!nNoStore d && (nDst d).addr % 64 ≠ 0, 24, 0),
      (((nOfmt d).getD .bf16).isMx && nN0 d % 32 ≠ 0, 20, 0)]
  else none

/-- Whether a stage entry holds only codes, modes, functions and arguments that Table 3.8 gives (R150, item 8). -/
def stageOk (t : Stage) : Bool :=
  match t.code with
  | 0 => t.mode = 0 && t.arg = 0
  | 1 | 2 => t.mode ≤ 2
  | 3 => t.mode ≤ 1 && t.arg ≤ 7
  | 4 => t.mode = 0
  | 5 => t.mode / 2 ≤ 2
  | 6 => t.mode ≤ 1
  | 7 | 8 => t.mode ≤ 1
  | 9 | 10 => t.mode = 0
  | _ => false

/-- Parameter words a stage uses lie within 0-63, and granules within the scratchpad (R139, R150, item 7). -/
def stageArgOk (t : Stage) : Bool :=
  match t.code with
  | 1 | 2 => t.mode ≠ 0 || t.arg ≤ 63
  | 5 => if t.mode / 2 = 0 then t.arg + 1 ≤ 63 else if t.mode / 2 = 1 then t.arg ≤ 63 else true
  | 8 => t.mode ≠ 0 || t.arg ≤ 63
  | 10 => t.arg + 1 ≤ 63
  | _ => true

/-- Row 7, TILE_CHAIN: the conditions of R150, the reserved streams of R316 and the stages COMPAT refuses (R299). The
row is one condition over the whole list, so the first entry at which the list breaks a rule counts (R751, log 54). AUX
names the stage. -/
def checkChain (s : State) (d : BitVec 512) : Option (Nat × Nat) :=
  if opOf d ≠ opDRN then none
  else
    let all := (stagesAll d).zipIdx
    let n := (stages d).length
    let act := (stages d).zipIdx
    let at_ (p : Stage × Nat → Bool) (l : List (Stage × Nat)) : Option Nat := (l.find? p).map (·.2)
    let sm := stageIdx d 6
    let qt := stageIdx d 8
    let sr := stageIdx d 9
    let o := (nOfmt d).getD .bf16
    let fails : List (Option Nat) := [
      at_ (fun e => n < e.2 && e.1.code ≠ 0) all,
      at_ (fun e => (act.any (fun g => g.2 < e.2 && g.1.code = e.1.code))) act,
      sm.bind (fun i => if act.any (fun e => e.2 < i && e.1.code ≠ 1 && e.1.code ≠ 5) then some i else none),
      qt.bind (fun i => at_ (fun e => i < e.2 && e.1.code ≠ 9) act),
      sr.bind (fun i => if o = .fp32 then some i else if i + 1 < n then some (i + 1) else none),
      at_ (fun e => e.1.code = 3 && e.1.mode = 1 && nTC d ≠ 128) act,
      at_ (fun e => !stageArgOk e.1) act,
      at_ (fun e => !stageOk e.1) all,
      at_ (fun e => e.1.code = 9 && decide (0xFF00 ≤ e.1.arg)) act,
      at_ (fun e => isCompat s && decide (e.1.code ∈ [5, 6, 7, 8, 9])) act]
    ((fails.filterMap id).min?).map (fun i => (40 + 3 * i, i))

/-! ### Valid extents (R119-R121, R186) -/

/-- VM, VN and VK of an array or drain instruction (R119, R186). VN of a gated DRN counts its 64 output columns (log 145). -/
def extents (s : State) (b : Fin 48) (l : Launch) (d : BitVec 512) : Nat × Nat × Nat :=
  let op := opOf d
  if op = opDRN then
    (validExt (nTR d) (extAt l d 8) (nM0 d), validExt (nOutTC d) (extAt l d 12) (nN0 d), 1)
  else if op = opATS then
    (validExt 128 (extAt l d 4) (dM0 d), validExt 128 (keyExtent s b l d) (dN0 d),
     validExt (dKT d) (extAt l d 12) (dK0 d))
  else if op = opATV then
    (validExt 128 (extAt l d 4) (dM0 d), validExt 128 (extAt l d 8) (dN0 d), validExt 256 (keyExtent s b l d) (dK0 d))
  else
    (validExt (tileH op) (extAt l d 4) (dM0 d), validExt (tileW op) (extAt l d 8) (dN0 d),
     validExt (dKT d) (extAt l d 12) (dK0 d))

/-- VR and VC of an LDT or STT (R121). -/
def tileExtents (l : Launch) (d : BitVec 512) : Nat × Nat :=
  (validExt (lTR d) (extAt l d 4) (lRow0 d), validExt (lTC d) (extAt l d 8) (lCol0 d))

/-- The byte of tensor row `r` of an LDT source or STT destination (R114). -/
def tensorRow (d : BitVec 512) (o : OpRef) (r : Nat) : Nat :=
  if lFold d then o.addr + r / lRin d * (lOstr d * 64) + r % lRin d * (o.stride * 64) else o.addr + r * (o.stride * 64)

/-! ### Row 9, TILE_BOUND and FRC_ACCESS -/

/-- A range of bytes an instruction would touch: the reference it came through (OFFSET, AUX), the space, whether it
writes, whether the unit may use the compressed-view range, the element format, and the bytes. -/
structure Touch where
  off : Nat
  aux : Nat
  sp : Space
  write : Bool
  view : Bool
  fmt : Fmt
  col : Bool
  addr : Nat
  len : Nat
  deriving DecidableEq, Repr

/-- Element and scale bytes of `cnt` elements from column `c0` of a row of `n` at byte `a` (R105). -/
def spanOf (f : Fmt) (a n c0 cnt : Nat) : List (Nat × Nat) :=
  if cnt = 0 then []
  else
    let lo := c0 * f.bits / 8
    let hi := ((c0 + cnt) * f.bits + 7) / 8
    (a + lo, hi - lo) ::
      (if f.isMx then [(a + scaleOff f n + c0 / 32, (c0 + cnt + 31) / 32 - c0 / 32)] else [])

/-- The touches of rows at given addresses. -/
def rowTouches (t : Touch) (n c0 cnt : Nat) (addrs : List Nat) : List Touch :=
  addrs.flatMap (fun a => (spanOf t.fmt a n c0 cnt).map (fun r => { t with addr := r.1, len := r.2 }))

/-- A scratchpad area touched. -/
def padTouch (off aux : Nat) (write : Bool) (a n : Nat) : Touch :=
  { off := off, aux := aux, sp := .scratch, write := write, view := false, fmt := .fp32, col := true, addr := a, len := n }

/-- What a CVI or CVD reads of its input tensor and its weights. With `whole` it is what TILE_BOUND checks: every pixel row
that R214 reads, as long as Table 5.1 makes it, and every weight row (Table 5.3). Without, it is the elements that are fed,
with their scales (R130, R216, R221). -/
def convTouches (whole : Bool) (d : BitVec 512) (e : Nat × Nat × Nat) : List Touch :=
  let f := (dFmtA d).getD .bf16
  let g := (dFmtB d).getD .bf16
  let a := dOPA d
  let o := dOPB d
  let c := convOf d
  let mk (off : Nat) (r : OpRef) (f : Fmt) : Touch :=
    { off := off, aux := 0, sp := r.sp, write := false, view := true, fmt := f, col := true, addr := 0, len := 0 }
  let cvd : Bool := opOf d = opCVD
  let ck := if cvd then 128 else c.ck f
  let c0 := if cvd then dN0 d else 0
  let have_ := if cvd then min 128 (c.cin - dN0 d) else c.cin
  let k0 := dK0 d
  let k1 := k0 + e.2.2
  -- the K indices of tap t that are fed, as channels [lo, hi) of the tap
  let lo (t : Nat) : Nat := max k0 (t * ck) - t * ck
  let hi (t : Nat) : Nat := min k1 ((t + 1) * ck) - t * ck
  let taps := (List.range (c.fh * c.fw)).filter (fun t => lo t < min (hi t) have_)
  let pixels := (List.range e.1).flatMap (fun i => taps.filterMap (fun t => (c.pixel (dM0 d + i) t).map (fun p => (t, p))))
  let addr (p : Nat) : Nat := a.addr + p * a.stride * 64
  let wrow (j : Nat) : Nat := o.addr + j * o.stride * 64
  let inp : List Touch := pixels.flatMap (fun x =>
    if whole then [{ mk 32 a f with addr := addr x.2, len := c.pixBytes f }]
    else rowTouches (mk 32 a f) c.cp (c0 + lo x.1) (min (hi x.1) have_ - lo x.1) [addr x.2])
  let wts : List Touch :=
    if cvd then
      let n := 2 ^ c.grp
      (List.range e.2.1).flatMap (fun j =>
        if whole then rowTouches (mk 40 o g) 0 0 (c.fh * c.fw * n) [wrow j]
        else (List.range (c.fh * c.fw)).flatMap (fun t =>
          let x := max (lo t) (j / n * n)
          let y := min (hi t) (j / n * n + n)
          rowTouches (mk 40 o g) 0 (t * n + x % n) (y - x) [wrow j]))
    else rowTouches (mk 40 o g) (c.ek opCVI f) k0 e.2.2 ((List.range e.2.1).map wrow)
  inp ++ wts

/-- Everything an instruction touches, in the order TILE_BOUND counts it (Table 3.7, R751). A RESID tile and a vector of one
entry a column count with all TC columns, valid or not (log 128). -/
def touches (s : State) (b : Fin 48) (l : Launch) (d : BitVec 512) : List Touch :=
  let op := opOf d
  let mk (off : Nat) (r : OpRef) (f : Fmt) (w v : Bool) : Touch :=
    { off := off, aux := 0, sp := r.sp, write := w, view := v, fmt := f, col := true, addr := 0, len := 0 }
  let rowsAt (r : OpRef) (base n : Nat) : List Nat := (List.range n).map (fun i => base + i * r.stride * 64)
  let e := extents s b l d
  if isMatOp op then
    let f := (dFmtA d).getD .bf16
    let g := (dFmtB d).getD .bf16
    let a := dOPA d
    let o := dOPB d
    let qs := if op = opMMQ then [0, 1, 2, 3] else [0]
    let ps := if op = opMMQ then [0, 1, 2, 3] else if op = opMMH then [0, 1] else [0]
    rowTouches (mk 32 a f false true) (dKT d) 0 e.2.2 (qs.flatMap (fun q => rowsAt a (a.addr + q * dQSA d) e.1)) ++
    rowTouches (mk 40 o g false true) (dKT d) 0 e.2.2 (ps.flatMap (fun q => rowsAt o (o.addr + q * dQSB d) e.2.1))
  else if isConvOp op then convTouches true d e
  else if isAttnOp op then
    let f := (dFmtA d).getD .bf16
    let g := (dFmtB d).getD .bf16
    let pf : Fmt := if apPfmt (apWord s b d 7) = 0 then .bf16 else .e4m3
    let ats : Bool := op = opATS
    let dd := if ats then extAt l d 12 else extAt l d 8
    let a := dOPA d
    let list := granule (apWord s b d 6)
    (if ats then rowTouches (mk 32 a f false false) (dKT d) 0 e.2.2 (rowsAt a a.addr e.1)
     else rowTouches (mk 32 a f false true) 256 0 e.2.2 ((List.range e.1).map (fun i => a.addr + i * eltBytes f 256))) ++
    [{ (mk 40 (dOPB d) g false false) with addr := (dOPB d).addr, len := areaBytes g dd },
     padTouch 52 0 false (fld d 52 2 % 2 ^ 14 * 256) 256,
     padTouch 52 0 ats (granule (apWord s b d 4)) (128 * 16),
     padTouch 52 0 ats (granule (apWord s b d 5)) (128 * 256 * eltBytes pf 1 + 1024),
     -- the page list as long as its LEN makes it (R185)
     padTouch 52 0 false list (8 + 4 * (((scratchWord s b (list + 4)).toNat + 255) / 256))] ++
    (if ats && getF (apWord s b d 1) 2 0 = 3 then [padTouch 52 0 false (granule (apWord s b d 2)) (16 * 128)] else [])
  else if op = opLDT ∨ op = opSTT then
    let f := (lFmt d).getD .bf16
    let v := tileExtents l d
    let src := lSrc d
    let dst := lDst d
    let tens (r : OpRef) : List Nat := (List.range v.1).map (fun i => tensorRow d r (lRow0 d + i))
    let aligned : Bool := lCol0 d % 16 = 0 && (lTC d % 16 = 0 || decide (extAt l d 8 ≤ lCol0 d + lTC d))
    if op = opLDT then
      rowTouches (mk 28 src f false true) (extAt l d 8) (lCol0 d) v.2 (tens src)
    else
      rowTouches (mk 28 src f false false) (lTC d) 0 v.2 (rowsAt src src.addr v.1) ++
      rowTouches { (mk 36 dst f true true) with col := aligned } (extAt l d 8) (lCol0 d) v.2 (tens dst)
  else if op = opDRN then
    let o := (nOfmt d).getD .bf16
    let r := (nRfmt d).getD .bf16
    let dst := nDst d
    let vm := e.1
    let inN := nTC d
    (if nNoStore d then []
     else rowTouches (mk 24 dst o true false) (nOutTC d) 0 e.2.1 (rowsAt dst dst.addr vm)) ++
    [padTouch 32 0 false (nPbase d) 256] ++
    ((stages d).zipIdx).flatMap (fun t =>
      let off := 40 + 3 * t.2
      let g := t.1.arg * 256
      match t.1.code with
      | 1 | 2 => if t.1.mode = 1 then [padTouch off t.2 false g (4 * inN)]
                 else if t.1.mode = 2 then [padTouch off t.2 false g (4 * vm)] else []
      | 4 => [padTouch off t.2 false g ((vm - 1) * upTo (eltBytes r (nTC d)) 64 + eltBytes r (nTC d))]
      | 5 => if t.1.mode / 2 = 2 then [padTouch off t.2 false g (16 * vm)] else []
      | 6 => [padTouch off t.2 true g (16 * vm)]
      | 7 => [padTouch off t.2 true g 16]
      | 8 => if t.1.mode = 1 then [padTouch off t.2 true g (4 * vm)] else []
      | _ => [])
  else if op = opRSC then
    let tr := fld d 5 1
    [padTouch 8 0 (decide (fld d 1 1 % 4 = 1)) (fld d 8 2 % 2 ^ 14 * 256) (16 * tr)] ++
    (if fld d 1 1 % 4 = 1 then [padTouch 10 0 false (fld d 10 2 % 2 ^ 14 * 256) (16 * tr)] else []) ++
    (if fld d 1 1 % 4 = 2 then [padTouch 12 0 true (fld d 12 2 % 2 ^ 14 * 256) (4 * tr)] else [])
  else []

/-- What an instruction reads and writes when it runs: what TILE_BOUND counts, but of a convolution's operands only what is
fed (R130, R216). -/
def fedTouches (s : State) (b : Fin 48) (l : Launch) (d : BitVec 512) : List Touch :=
  if isConvOp (opOf d) then convTouches false d (extents s b l d) else touches s b l d

/-- Whether a touched range lies outside its space or the grants (Table 3.7). -/
def Touch.outside (s : State) (l : Launch) (t : Touch) : Bool :=
  match t.sp with
  | .mem => decide (Space.mem.size < t.addr + t.len) ||
      (decide (t.addr < viewBase) && !(installed s t.addr t.len && l.grants t.write t.addr t.len))
  | sp => decide (sp.size < t.addr + t.len)

/-- What row 9 finds first: a TILE_BOUND with OFFSET and AUX, or an FRC_ACCESS with WHY and window. -/
inductive Row9 where
  | bound (off aux : Nat)
  | frc (why win : Nat)
  deriving DecidableEq, Repr

def checkBound (s : State) (b : Fin 48) (l : Launch) (d : BitVec 512) : Option Row9 :=
  if opOf d = opSFL then
    (if l.hasRgn (Fin.ofNat 8 (fld d 2 1)) then none else some (.bound 2 0))
  else
    let ts := touches s b l d
    let why := (fedTouches s b l d).filterMap (fun t => match t.sp with
      | .mem => frcWhy s t.view t.fmt t.col t.addr t.len
      | _ => none)
    match ts.find? (Touch.outside s l) with
    | some t => some (.bound t.off t.aux)
    | none =>
      match why with
      | [] => none
      | w :: ws =>
        let m := ws.foldl (fun m x => if x.1 < m.1 then x else m) w
        some (.frc m.1 m.2)

/-- What the issue checks of an instruction find (R123): a fault of Table 3.11's CODE, an FRC_ACCESS, a counted
no-op (row 8), or nothing. -/
inductive Issue where
  | fault (code off aux : Nat)
  | frc (why win : Nat)
  | noop
  | ok
  deriving DecidableEq, Repr

/-- Whether row 8 ends the checks: a zero-size instruction (R126-R128). -/
def zeroSize (s : State) (b : Fin 48) (l : Launch) (d : BitVec 512) : Bool :=
  let op := opOf d
  if isArrayOp op then let e := extents s b l d; e.1 = 0 || e.2.1 = 0 || e.2.2 = 0
  else if op = opDRN then let e := extents s b l d; e.1 = 0 || e.2.1 = 0
  else if op = opLDT ∨ op = opSTT then let e := tileExtents l d; e.1 = 0 || e.2 = 0
  else false

/-- The issue checks of Table 3.7 in row order; the first that fails counts (R123). -/
def issueCheck (s : State) (b : Fin 48) (l : Launch) (d : BitVec 512) : Issue :=
  let rows : List (Nat × Option (Nat × Nat)) := [
    (1, checkOp s d), (2, checkFmt s b d), (3, checkSlot s b l d), (4, checkShape s b l d), (5, checkAcc d),
    (6, checkAlign d), (7, checkChain s d)]
  match rows.findSome? (fun r => r.2.map (fun o => (r.1, o))) with
  | some (c, o) => .fault c o.1 o.2
  | none =>
    if zeroSize s b l d then .noop
    else
      match checkBound s b l d with
      | some (.bound off aux) => .fault 8 off aux
      | some (.frc w n) => .frc w n
      | none => .ok

end Sys2Proof.Machine
end

