-- ==== Sys2Proof/Machine/Life.lean ====
section
/-! DEFINITION. The LIFE bodies that the device keeps in its own memory (15_health_lifetime.md, R674-R678). -/

namespace Sys2Proof.Machine

/-- A byte list with `n` bytes at `b` replaced by a little-endian number. -/
def putLe (bs : List Byte) (b n v : Nat) : List Byte := bs.take b ++ toLe n v ++ bs.drop (b + n)

/-- `n` bytes at `b` of LIFE body `i`: a stack, or 24 for the device (Tables 15.6, 15.7). -/
def lifeGet (s : State) (i b n : Nat) : Nat := leAt (s.hlt.life.getD i []) b n

def lifeSet (s : State) (i b n v : Nat) : State :=
  { s with hlt := { s.hlt with life := modAt s.hlt.life i (fun x => putLe x b n v) } }

/-- Add to a count, which saturates at all ones. -/
def lifeAdd (s : State) (i b n k : Nat) : State := lifeSet s i b n (min (lifeGet s i b n + k) (2 ^ (8 * n) - 1))

/-- Symbols corrected on a stack: MEMs_CORR, the lifetime total, and the latest day (Tables 10.15, 15.6). -/
def corrected (s : State) (st n : Nat) : State :=
  lifeAdd (lifeAdd (cfld s .stkCorr st 31 0 n) st 8 8 n) st 32 2 n

/-- The byte of a lane entry of a LIFE body: entries 0-97 of a stack, 0-7 of the device (Tables 15.6-15.8). -/
def laneByte (i lane : Nat) : Nat := (if i = 24 then 512 else 96) + 16 * lane

/-- One thermal-cycle count: the lowest temperature `low` follows `t` down; at `low` + 40 a cycle is counted
("Lifetime records"). -/
def thermCycle (low : Option Int) (t : Int) : Option Int × Nat :=
  match low with
  | none => (some t, 0)
  | some l => if t < l then (some t, 0) else if l + 40 ≤ t then (some t, 1) else (some l, 0)

end Sys2Proof.Machine
end

