-- ==== Sys2Proof/Machine/Addr.lean ====
section
/-! DEFINITION. The interleave of memory over stacks and channels (10_optical_memory.md, R428), and the record of a
memory fault (R419, R420, Table 10.16). -/

namespace Sys2Proof.Machine

/-- The in-service channels of a half, in interleave order: (stack, channel) (R428). -/
def channelList (s : State) (h : Nat) : List (Nat × Nat) :=
  (List.range 192).filterMap (fun i =>
    let st := 12 * h + i % 12
    let c := i / 12
    if bitsAt (rreg s .stkChmap st) c 1 = 1 then none else some (st, c))

/-- The half of a DPA (R428). -/
def dpaHalf (a : Nat) : Nat := if a < half1Base then 0 else 1

/-- The half-local address (R428). -/
def dpaLocal (a : Nat) : Nat := a % half1Base

/-- The stack and channel that hold a DPA (R428). -/
def dpaChan (s : State) (a : Nat) : Nat × Nat :=
  let l := channelList s (dpaHalf a)
  l.getD (dpaLocal a / 2048 % l.length) (12 * dpaHalf a, 0)

/-- The DRAM row of a DPA in its channel, and its burst in the run: the four bursts of a run share both channel and row (R409,
R428). -/
def dpaRow (s : State) (a : Nat) : Nat := dpaLocal a / 2048 / (channelList s (dpaHalf a)).length
def dpaSlot (a : Nat) : Nat := dpaLocal a % 2048 / 512

def dpaStack (s : State) (a : Nat) : Nat := (dpaChan s a).1

/-- Count and log a memory fault of a burst: code 1 MEM_UNCORR, 2 MEM_POISON, 3 found by scrub, 4 poisoned
write-back (R419, Tables 10.15, 10.16); the stack's LIFE body counts it too (Table 15.6). -/
def logMem (s : State) (a code : Nat) : State :=
  let c := dpaChan s a
  let s := lifeAdd s c.1 16 4 1
  let s := if code = 2 ∨ code = 4 then cfld s .stkUnc c.1 15 0 1 else cfld s .stkUnc c.1 31 16 1
  let s := wreg s .stkElog c.1 (setF (setF (setF (rreg s .stkElog c.1) 31 31 1) 30 28 code) 27 24 c.2)
  wreg s .stkEaddr c.1 (BitVec.ofNat 32 (dpaLocal a / 512))

/-- The physical bytes behind a range of memory: a range of the compressed view maps to its codes (R249). -/
def physRange (s : State) (a n : Nat) : Nat × Nat :=
  if a < viewBase then (a, n)
  else
    match winAt s a with
    | none => (a, 0)
    | some w =>
      let f := frcWin s w
      let lo := f.codeAt (a - f.base)
      (lo, f.codeAt (a + n - 1 - f.base) + f.codeBytes - lo)

/-- The ways of a job slot in a half (R403, Table 9.14). -/
def mscWays (s : State) (h job : Nat) : List Nat :=
  let w := rreg s (if job < 2 then .memMscwaysLo else .memMscwaysHi) h
  let base := if job % 2 = 0 then getF w 11 8 else getF w 27 24
  let n := if job % 2 = 0 then getF w 4 0 else getF w 20 16
  (List.range n).map (base + ·)

def homeHalf (a : Nat) : Fin 2 := Fin.ofNat 2 (dpaHalf a)

/-- The line that a lookup for a job slot finds: it searches the slot's ways only (R403). Requests of the device itself go by
slot 0. -/
def mscLine (s : State) (a job : Nat) : Option MscLine :=
  let l := (s.halves[homeHalf a]).msc
  if l = [] then none
  else
    let ways := mscWays s (homeHalf a).val job
    l.find? (fun c => c.burst = burstOf a && ways.any (· = c.way))

/-- The lines that hold bursts of a range become dirty: a write that hits a line updates it (Table 10.9). -/
def dirtyLines (s : State) (a n : Nat) : State :=
  let hit (c : MscLine) : Bool := burstOf a ≤ c.burst && decide (c.burst ≤ burstOf (a + n - 1))
  if n = 0 then s
  else { s with halves := s.halves.map (fun g => { g with msc := g.msc.map (fun c => if hit c then { c with dirty := true } else c) }) }

/-- Whether the write queue of a burst's channel holds it: a read is then served from there (R411). -/
def queued (s : State) (a : Nat) : Bool := s.mem.wq.any (fun x => x.burst = burstOf a)

/-- Whether accesses to a stack wait in its controller: one of its links is being retrained (Table 10.5, R425). -/
def stackHeld (k : Stack) : Bool := k.rd.mode = .retraining || k.wr.mode = .retraining

/-- Whether a link of a stack is down, so that every access to it is refused (R426). -/
def stackOff (k : Stack) : Bool := k.rd.mode = .down || k.wr.mode = .down

def stackOfDpa (s : State) (a : Nat) : Stack := s.stk[Fin.ofNat 24 (dpaStack s a)]

/-- The bursts that a range of memory lies in, by their addresses. -/
def burstsOf (a n : Nat) : List Nat :=
  if n = 0 then [] else (List.range (burstOf (a + n - 1) + 1 - burstOf a)).map (fun i => 512 * (burstOf a + i))

/-! ### Write queues (R410, R411, R449) -/

/-- The write queue of the channel that holds an address. -/
def chanQueue (s : State) (a : Nat) : List Queued := s.mem.wq.filter (fun x => dpaChan s (512 * x.burst) = dpaChan s a)

/-- Whether a stack takes writes: its write link carries them, and no spare is being trained for one of its lanes (Table 10.5). -/
def takesWrites (k : Stack) : Bool := !stackHeld k && k.wr.training.isNone && !(k.wr.mode = .down)

/-- Whether the write queue of a burst's channel has no place for `n` bursts more: its 32 entries do not hold them, and none can leave
(R449). -/
def queueFull (s : State) (a : Nat) (n : Nat := 1) : Bool :=
  decide (32 < (chanQueue s a).length + n) && !takesWrites (stackOfDpa s a)

/-- A burst joins its channel's write queue, for the launches named; when that is full, its oldest entry goes to the stack first
(log 136). -/
def enterQueue (s : State) (a : Nat) (lids : List (BitVec 32)) : State :=
  let q := chanQueue s a
  let mine := (q.find? (fun x => x.burst = burstOf a)).map (·.lids)
  let old := if 32 ≤ q.length ∧ mine.isNone then q.take 1 else []
  { s with mem := { s.mem with
      wq := s.mem.wq.filter (fun x => x.burst ≠ burstOf a ∧ x ∉ old) ++ [{ burst := burstOf a, lids := (mine.getD []) ++ lids }] } }

/-! ### Writes of the device itself -/

/-- Whether a burst of a write of `n` bytes at `a` can be accepted at once: it hits a line of the job slot (0 for the device itself), or the stack takes it into its
write queue, where a part of a burst needs a read of the burst that decodes (R134, R410, R419, R424-R426, R449). -/
def burstReady (s : State) (a n b : Nat) (job : Nat := 0) : Bool :=
  let k := stackOfDpa s b
  (mscLine s b job).isSome ||
  (!stackOff k && !queueFull s b (burstsOf a n).length &&
    (wholeBurst a n (burstOf b) || queued s b ||
      (!stackHeld k && !s.mem.damaged.any (· = burstOf b) && !s.mem.poison.any (· = burstOf b))))

/-- Whether a write of `n` bytes at `a` by the unit `q` can be accepted at once: every burst can, and none waits for an earlier write of
`q` (R411). -/
def writeReady (s : State) (q : WaitUnit) (a n : Nat) (job : Nat := 0) : Bool :=
  (burstsOf a n).all (fun b => burstReady s a n b job) && !s.mem.stores.any (fun p => p.src = q && (burstsOf a n).any (fun b => burstOf b = burstOf p.addr))

/-- Bytes accepted into lines and write queues (Table 10.9). -/
def acceptMem (s : State) (a : Nat) (bs : List Byte) (job : Nat := 0) : State :=
  ((burstsOf a bs.length).filter (fun b => (mscLine s b job).isNone)).foldl (fun t b => enterQueue t b [])
    (dirtyLines (memPut s a bs) a bs.length)

/-- Whether an access to a burst is refused: its stack is down, and no line holds it (R426). -/
def accessOff (s : State) (b : Nat) : Bool := stackOff (stackOfDpa s b) && (mscLine s b 0).isNone

/-- One burst's part of a write: refused by a stack that is down, accepted, or else waiting as a store. -/
def putBurst (q : WaitUnit) (lid : BitVec 32) (s : State) (c : Nat × List (Byte × Byte)) : State :=
  if accessOff s c.1 then logMem s c.1 1
  else if writeReady s q c.1 c.2.length then acceptMem s c.1 (c.2.map (·.1))
  else issue s q lid c.1 c.2

/-- Bytes written to memory by the device itself, as a unit `q`: accepted at once into lines and write queues, refused by a stack that is
down, or else waiting as stores of `q` for MEMORY_WRITE and READ_MODIFY_WRITE (R410, R425, R426). -/
def putMem (s : State) (a : Nat) (bs : List Byte) (q : WaitUnit := .mgmt) (lid : BitVec 32 := 0) (job : Nat := 0) : State :=
  if writeReady s q a bs.length job then acceptMem s a bs job
  else (cutBursts a (fullMask bs) (bs.length / 512 + 2)).foldl (putBurst q lid) s

/-- Whether a write of the device itself ends at once: each of its bursts is accepted, or refused. -/
def writeEnds (s : State) (a n : Nat) : Bool :=
  (burstsOf a n).all (fun b => accessOff s b || burstReady s a n b) && !storesWait s .mgmt

/-! ### Reads that wait or fail -/

/-- Whether a read of a range waits for a held stack: one of its bursts lies there, in neither the cache nor a write queue
(R425). -/
def readWaits (s : State) (a n job : Nat) : Bool :=
  s.stk.toList.any stackHeld &&
    (let r := physRange s a n
     (burstsOf r.1 r.2).any (fun b => stackHeld (stackOfDpa s b) && (mscLine s b job).isNone && !queued s b))

/-- The first burst of a range that lies on a stack whose link is down and is served from nowhere else: every access to it is refused
(R426). -/
def downBad (s : State) (a n job : Nat) : Option Nat :=
  if !s.stk.toList.any stackOff then none
  else (burstsOf a n).find? (fun b => stackOff (stackOfDpa s b) && (mscLine s b job).isNone && !queued s b)

/-- The lower of two bad bursts; of one burst, what is uncorrectable comes before POISON. -/
def lowerBad (m x : Option (Nat × Bool)) : Option (Nat × Bool) :=
  match m, x with
  | some y, some z => if z.1 < y.1 then x else m
  | some _, none => m
  | none, _ => x

/-- The bad burst of lowest address in a range that a request of a job slot reads: its address, and whether it is uncorrectable
rather than poisoned. A burst in the cache or in a write queue is served from there; the two reads of a damaged one fail (R411, R418,
R445). -/
def firstBad (s : State) (a n : Nat) (job : Nat := 0) : Option (Nat × Bool) :=
  let r := physRange s a n
  let cached (b : Nat) : Bool := (mscLine s (512 * b) job).isSome
  let hit (l : List Nat) (served : Nat → Bool) : Option Nat :=
    if r.2 = 0 then none else
    l.find? (fun b => burstOf r.1 ≤ b && decide (b ≤ burstOf (r.1 + r.2 - 1)) && !served b)
  lowerBad (lowerBad ((downBad s r.1 r.2 job).map (fun b => (b, true)))
      ((hit s.mem.damaged (fun b => cached b || queued s (512 * b))).map (fun b => (512 * b, true))))
    ((hit s.mem.poison cached).map (fun b => (512 * b, false)))

/-- Whether a read that a unit of a half makes may cross the Hinge, if it has to: with a Request credit of its half and a Response
credit of the other (R26, R30, Table 1.2). -/
def crossMay (s : State) (half a : Nat) : Bool :=
  decide (half = dpaHalf a) || (hingeTakes s half 1 && hingeTakes s (dpaHalf a) 2)

/-- The beats of such a read, if it crosses. -/
def crossSend (s : State) (half a : Nat) : State :=
  if half = dpaHalf a then s else hingeSend (hingeSend s half 1) (dpaHalf a) 2

/-- Whether a read of a range by a unit has to wait behind a store that the unit sent before across the Hinge: the two go to one
controller, as requests of one class, in the order in which they were sent (R27). -/
def readBehind (s : State) (q : WaitUnit) (a n : Nat) : Bool :=
  s.mem.stores.any (fun p => p.src = q && decide (q.half ≠ dpaHalf p.addr) &&
    (burstsOf (physRange s a n).1 (physRange s a n).2).any (fun b => dpaStack s b = dpaStack s p.addr))

/-- Whether a read of an instruction waits for a held stack (R425). -/
def touchWaits (s : State) (l : Launch) (ts : List Touch) : Bool :=
  s.stk.toList.any stackHeld && ts.any (fun t => t.sp = .mem && !t.write && readWaits s t.addr t.len l.job)

/-- Whether a read of a block's instruction waits: for a held stack, or behind the block's own stores across the Hinge (R27, R425). -/
def readsWait (s : State) (b : Fin 48) (l : Launch) (ts : List Touch) : Bool :=
  touchWaits s l ts || ts.any (fun t => t.sp = .mem && !t.write && readBehind s (.blk b) t.addr t.len)

/-- The first bad burst that the reads of an instruction would meet. -/
def badRead (s : State) (l : Launch) (ts : List Touch) : Option (Nat × Bool) :=
  ts.findSome? (fun t => if t.sp = .mem ∧ !t.write then firstBad s t.addr t.len l.job else none)

/-- A block's launch halts for a bad burst that has been counted and logged (R419, R420). -/
def blkMemStop (s : State) (b : Fin 48) (idx : Nat) (bad : Nat × Bool) : State :=
  let st := dpaStack s bad.1
  match (s.blocks[b]).lid with
  | none => stopBlk s b
  | some lid => askHalt (stopBlk s b) { lid := lid, unit := .blk b, idx := idx } (if bad.2 then 0x3A01 else 0x3A02) st (rreg s .stkElog st).toNat

/-- A block's read met a bad burst: it is counted and logged, and the launch halts. -/
def blkMemHalt (s : State) (b : Fin 48) (idx : Nat) (bad : Nat × Bool) : State :=
  blkMemStop (logMem s bad.1 (if bad.2 then 1 else 2)) b idx bad

end Sys2Proof.Machine
end

