-- ==== Sys2Proof/Machine/Cells.lean ====
section
/-! DEFINITION. What the cells, the ward cells and the checker compute (02_block_array.md, R57-R68, R81-R86, R745;
COMPAT: R300, R301, R304), and the canonical combination (08_determinism.md, R339). -/

namespace Sys2Proof.Machine

/-- A word as a signed integer value (R62). -/
def wnum (w : Word) : Num := intNum (sint w)

/-- An integer modulo 2^32. -/
def wrap32 (v : Int) : Word := BitVec.ofInt 32 v

/-- An exact integer saturated to 32 bits, and whether it saturated (R63). -/
def sat32 (v : Int) : Word × Bool :=
  if 2 ^ 31 ≤ v then (0x7FFFFFFF, true) else if v < -(2 ^ 31) then (0x80000000, true) else (wrap32 v, false)

/-- The integer value of an exact finite number. -/
def numInt (n : Num) : Int := n.atExp 0

/-- Feed two rows, `p` products to a cycle, into an accumulator (R58, R66). The fuel is the row length. -/
def feed (p : Nat) : Nat → Word → List Num → List Num → Word
  | 0, c, _, _ => c
  | n + 1, c, xs, ys =>
    match xs, ys with
    | [], _ | _, [] => c
    | xs, ys =>
      feed p n (accRound (val c :: List.zipWith Num.mul (xs.take p) (ys.take p))) (xs.drop p) (ys.drop p)

/-- The chain of R300: one product at a time, a subnormal sum, or one that underflows, flushed to a zero of its sign (R275). -/
def feedCompat (c : Word) (xs ys : List Num) : Word :=
  (List.zipWith Num.mul xs ys).foldl (fun c t => flushW (accSum [val c, t])) c

/-- The high and low BF16 parts of an element of an FP32 operand (R64). -/
def hiPart (n : Num) : Num := (split3 (rnd n)).1
def loPart (n : Num) : Num := (split3 (rnd n)).2

/-- One output's chunk partial from its operand rows, from +0 (R59, R62, R65, R66). -/
def chunkCell (ar : JobArith) (p : Nat) (xs ys : List Num) : Word :=
  match ar with
  | .int => wrap32 ((List.zipWith (fun x y => numInt x * numInt y) xs ys).sum)
  | .float => feed p xs.length 0 xs ys
  | .x3 =>
    let c := feed p xs.length 0 (xs.map loPart) (ys.map hiPart)
    let c := feed p xs.length c (xs.map hiPart) (ys.map loPart)
    feed p xs.length c (xs.map hiPart) (ys.map hiPart)

/-- One output under COMPAT, from a starting value (R300, R301). -/
def compatCell (ar : JobArith) (c : Word) (xs ys : List Num) : Word :=
  match ar with
  | .int => c + wrap32 ((List.zipWith (fun x y => numInt x * numInt y) xs ys).sum)
  | _ => feedCompat c xs ys

/-- Column `k` of a list of rows. -/
def colOf (rows : List (List Num)) (k : Nat) : List Num := rows.map (fun r => r.getD k zeroNum)

/-- The exact sum of a list, special values included. -/
def sumNum (l : List Num) : Num := l.foldl Num.add zeroNum

/-- The checksum operands of a set of rows, one for each of `n` K indices: the sum, and the sum of magnitudes, each
rounded once (before R81); exact integers for INT8. -/
def sumRow (ar : JobArith) (rows : List (List Num)) (n : Nat) : List Num :=
  (List.range n).map (fun k =>
    match ar with
    | .int => intNum ((colOf rows k).map numInt).sum
    | _ => val (rnd (sumNum (colOf rows k))))

def magRow (ar : JobArith) (rows : List (List Num)) (n : Nat) : List Num :=
  match ar with
  | .int => List.replicate n zeroNum
  | _ => (List.range n).map (fun k => val (rnd (sumNum ((colOf rows k).map Num.abs))))

/-- The rows an output part takes its operands from. -/
def partA (a : List (List Num)) (g : PartGeom) : List (List Num) := (a.drop g.a0).take g.nr
def partB (b : List (List Num)) (g : PartGeom) : List (List Num) := (b.drop g.b0).take g.nc

/-- Apply a cell function to every output of a part, valid outputs only; any other output holds +0 (R131, log 34). -/
def gridOf (xs ys : List (List Num)) (vm vn : Nat) (f : Nat → Nat → List Num → List Num → Word) : List Word :=
  (xs.zipIdx).flatMap (fun x => (ys.zipIdx).map (fun y =>
    if x.2 < vm ∧ y.2 < vn then f x.2 y.2 x.1 y.1 else 0))

/-- A part of a chunk partial with its ward values (R81-R83). `cell` is the accumulation rule; `start` gives the
starting values of row i, column j, row sums and column sums under COMPAT. -/
def wardPart (ar : JobArith) (cell : Word → List Num → List Num → Word) (xs ys : List (List Num)) (vm vn n : Nat)
    (start : Nat → Nat → Word) : PartVal :=
  let cB := sumRow ar ys n
  let mB := magRow ar ys n
  let rA := sumRow ar xs n
  let mA := magRow ar xs n
  let rows := List.range xs.length
  let cols := List.range ys.length
  let sv (w : Word) : Num := match ar with | .int => wnum w | _ => val w
  let out (v : Num) : Word := match ar with | .int => wrap32 (numInt v) | _ => rnd v
  let rs (i : Nat) : Word := out (sumNum (cols.map (fun j => sv (start i j))))
  let rm (i : Nat) : Word := out (sumNum (cols.map (fun j => (sv (start i j)).abs)))
  let cs (j : Nat) : Word := out (sumNum (rows.map (fun i => sv (start i j))))
  let cm (j : Nat) : Word := out (sumNum (rows.map (fun i => (sv (start i j)).abs)))
  let tot : Word := out (sumNum (rows.map (fun i => sv (rs i))))
  { elts := gridOf xs ys vm vn (fun i j x y => cell (start i j) x y)
    wc := (xs.zipIdx).map (fun x => cell (rs x.2) x.1 cB)
    mc := (xs.zipIdx).map (fun x => cell (rm x.2) (x.1.map Num.abs) mB)
    wr := (ys.zipIdx).map (fun y => cell (cs y.2) rA y.1)
    mr := (ys.zipIdx).map (fun y => cell (cm y.2) mA (y.1.map Num.abs))
    corner := cell tot rA cB }

/-- The slice of K indices of chunk `c` in a row (R66). -/
def chunkRow (c : Nat) (r : List Num) : List Num := (r.drop (256 * c)).take 256

/-- The partial of chunk `c` of an instruction (R66, R81-R83). -/
def chunkPartial (j : ArrayJob) (c : Nat) : List PartVal :=
  j.geom.map (fun g =>
    let xs := (partA j.a g).map (chunkRow c)
    let ys := (partB j.b g).map (chunkRow c)
    wardPart j.arith (fun _ x y => chunkCell j.arith j.p x y) xs ys j.vm j.vn (min 256 (j.vk - 256 * c)) (fun _ _ => 0))

/-- The whole of a COMPAT instruction as one partial, from +0 or from the slot (R300, R304, log 35). -/
def compatPartial (j : ArrayJob) (start : PartGeom → Nat → Nat → Word) : List PartVal :=
  j.geom.map (fun g =>
    let p := wardPart j.arith (compatCell j.arith) (partA j.a g) (partB j.b g) j.vm j.vn j.vk
      (fun i k => if j.ovw then 0 else start g i k)
    -- an output that is not valid receives only zero products (R131)
    { p with elts := (List.range (g.nr * g.nc)).map (fun e =>
        let i := e / g.nc
        let k := e % g.nc
        if i < j.vm ∧ k < j.vn then p.elts.getD e 0
        else if j.ovw then 0
        else match j.arith with
          | .int => start g i k
          | _ => flushW (accRound [val (start g i k), zeroNum])) })

/-- The partial of an ATV page: 256 keys in one set, rescaled by α₁ before key 128 (R166, R167, R169). -/
def foldCell (p : Nat) (alpha : Option Word) (x y : List Num) : Word :=
  let c := feed p 128 0 (x.take 128) (y.take 128)
  match alpha with
  | none => feed p 128 c (x.drop 128) (y.drop 128)
  | some a => feed p 128 (accRound [(val c).mul (val a)]) (x.drop 128) (y.drop 128)

/-- The partial of an ATV, with ward values scaled as the output rows are (R169). `j.alpha` holds α₁ of each row, or
is empty where the rescale is skipped. -/
def foldPartial (j : ArrayJob) : List PartVal :=
  j.geom.map (fun g =>
    let xs := partA j.a g
    let ys := partB j.b g
    let al (i : Nat) : Option Word := if j.alpha = [] then none else some (j.alpha.getD i one32)
    -- rA of the first 128 keys is formed from the exact values A x α₁ (R169)
    let sx := (xs.zipIdx).map (fun x => match al x.2 with
      | none => x.1
      | some a => (x.1.take 128).map (fun v => v.mul (val a)) ++ x.1.drop 128)
    let cB := sumRow .float ys j.vk
    let mB := magRow .float ys j.vk
    let rA := sumRow .float sx j.vk
    let mA := magRow .float sx j.vk
    { elts := gridOf xs ys j.vm j.vn (fun i _ x y => foldCell j.p (al i) x y)
      wc := (xs.zipIdx).map (fun x => foldCell j.p (al x.2) x.1 cB)
      mc := (xs.zipIdx).map (fun x => foldCell j.p ((al x.2).map (fun a => a &&& 0x7FFFFFFF)) (x.1.map Num.abs) mB)
      wr := ys.map (fun y => foldCell j.p none rA y)
      mr := ys.map (fun y => foldCell j.p none mA (y.map Num.abs))
      corner := foldCell j.p none rA cB })

/-! ### Combination (R67, R339) -/

/-- One rounding of the exact sum of two partial values, left operand first (R67, R339, R343). -/
def combineF (a b : Word) : Word := accRound [val a, val b]

/-- The pair partial of two chunk partials (R67); integer partials add exactly. -/
def pairVals (ar : JobArith) (x y : List PartVal) : List PartVal :=
  let f : Word → Word → Word := match ar with | .int => (· + ·) | _ => combineF
  List.zipWith (fun a b =>
    { elts := List.zipWith f a.elts b.elts, wc := List.zipWith f a.wc b.wc, mc := List.zipWith f a.mc b.mc,
      wr := List.zipWith f a.wr b.wr, mr := List.zipWith f a.mr b.mr, corner := f a.corner b.corner }) x y

/-- Combine the elements of two drained partials; the flag says whether an integer saturated (R63, R339; COMPAT
wraps, R301). -/
def combineElts (ar : JobArith) (compat : Bool) (a b : List Word) : List Word × Bool :=
  match ar with
  | .int =>
    if compat then (List.zipWith (· + ·) a b, false)
    else
      let l := List.zipWith (fun x y => sat32 (sint x + sint y)) a b
      (l.map (·.1), l.any (·.2))
  | _ => (List.zipWith combineF a b, false)

/-- Combine part by part. -/
def combineParts (ar : JobArith) (compat : Bool) (a b : List (List Word)) : List (List Word) × Bool :=
  let l := List.zipWith (combineElts ar compat) a b
  (l.map (·.1), l.any (·.2))

/-- Put a node on the stack of the canonical tree and merge siblings of one level (R69, R339). The stack holds the
latest node first; the fuel bounds the merges. -/
def pushNode (ar : JobArith) (compat : Bool) :
    Nat → List (Nat × List (List Word)) → Nat × List (List Word) → List (Nat × List (List Word)) × Bool
  | 0, st, n => (n :: st, false)
  | f + 1, st, n =>
    match st with
    | (l, v) :: rest =>
      if l = n.1 then
        let c := combineParts ar compat v n.2
        let r := pushNode ar compat f rest (l + 1, c.1)
        (r.1, r.2 || c.2)
      else (n :: st, false)
    | [] => ([n], false)

/-- The root of what the stack holds: a node without a right sibling passes up unchanged (R68, R339). -/
def rootNode (ar : JobArith) (compat : Bool) (st : List (Nat × List (List Word))) : List (List Word) × Bool :=
  match st with
  | [] => ([], false)
  | n :: rest =>
    rest.foldl (fun acc m => let c := combineParts ar compat m.2 acc.1; (c.1, acc.2 || c.2)) (n.2, false)

/-! ### The checks (R84-R86) -/

/-- What checking a partial found: the lowest failing row and column, whether the corner failed, and the skips. -/
structure WardResult where
  row : Option Nat
  col : Option Nat
  corner : Bool
  skips : Nat
  deriving DecidableEq, Repr

/-- The test of R84, evaluated exactly, on ward value, output sum and magnitude. -/
def wardClose (ftol : Nat) (w sm m : Num) : Bool :=
  ((w.sub sm).abs).le ((m.scale (-(ftol : Int))).add (.fin false 1 (-116)))

/-- One row's or column's test: passes, fails, or is skipped (R84-R86). -/
def lineTest (ar : JobArith) (ftol : Nat) (w m : Word) (elts : List Word) : Option Bool :=
  match ar with
  | .int => some (w = wrap32 (elts.map sint).sum)
  | _ =>
    let sm := rnd (sumNum (elts.map val))
    if isFinW w && isFinW m && isFinW sm && elts.all isFinW then some (wardClose ftol (val w) (val sm) (val m))
    else none

/-- Every check of one part (R84-R86). R85 skips rows and columns only: a corner whose value, or whose sum of ward values or
magnitudes, is infinite or NaN passes and counts no skip (log 143). -/
def partTest (ar : JobArith) (ftol : Nat) (g : PartGeom) (p : PartVal) : WardResult :=
  let row (i : Nat) : List Word := (p.elts.drop (i * g.nc)).take g.nc
  let col (j : Nat) : List Word := (List.range g.nr).map (fun i => p.elts.getD (i * g.nc + j) 0)
  let rt := (List.range g.nr).map (fun i => lineTest ar ftol (p.wc.getD i 0) (p.mc.getD i 0) (row i))
  let ct := (List.range g.nc).map (fun j => lineTest ar ftol (p.wr.getD j 0) (p.mr.getD j 0) (col j))
  let corner : Bool := match ar with
    | .int => decide (p.corner ≠ wrap32 (p.wc.map sint).sum)
    | _ =>
      let sw := sumNum (p.wc.map val)
      let sm := sumNum (p.mc.map val)
      (val p.corner).isFinite && sw.isFinite && sm.isFinite && !wardClose ftol (val p.corner) sw sm
  { row := (rt.findIdx? (· == some false)).map (· + g.r0)
    col := (ct.findIdx? (· == some false)).map (· + g.c0)
    corner := corner
    skips := (rt.filter (·.isNone)).length + (ct.filter (·.isNone)).length }

/-- The lesser of two optional indices. -/
def optMin (a b : Option Nat) : Option Nat :=
  match a, b with
  | none, x | x, none => x
  | some x, some y => some (min x y)

/-- The checks of all parts together. -/
def wardTest (ar : JobArith) (ftol : Nat) (gs : List PartGeom) (ps : List PartVal) : WardResult :=
  (List.zipWith (partTest ar ftol) gs ps).foldl
    (fun a r => { row := optMin a.row r.row, col := optMin a.col r.col, corner := a.corner || r.corner,
                  skips := a.skips + r.skips })
    { row := none, col := none, corner := false, skips := 0 }

/-- Whether a check failed (R87). -/
def WardResult.failed (w : WardResult) : Bool := w.row.isSome || w.col.isSome || w.corner

end Sys2Proof.Machine
end

