-- ==== Sys2Proof/Machine/Tumbler.lean ====
section
/-! DEFINITION. The Tumbler generator, its counters and the variates formed from its words
(07_tumbler_sampling.md, R307-R318). -/

namespace Sys2Proof.Machine

def tmbCA : BitVec 64 := 0x9E3779B97F4A7C15
def tmbCB : BitVec 64 := 0xBB67AE8584CAA73B

/-- ROT[0]-ROT[7] (Table 7.1, R308). -/
def tmbRot (r : Nat) : Nat :=
  match r % 8 with
  | 0 => 13 | 1 => 47 | 2 => 29 | 3 => 41 | 4 => 19 | 5 => 53 | 6 => 7 | _ => 37

/-- The three key words of the schedule (R307). -/
def tmbKeys (key : BitVec 64) (i : Nat) : BitVec 64 :=
  let k1 := key.rotateLeft 32 ^^^ tmbCA
  match i % 3 with
  | 0 => key
  | 1 => k1
  | _ => key ^^^ k1 ^^^ tmbCB

/-- One round, with the injection that follows rounds 3, 7, 11, 15 and 19 (R307). -/
def tmbRound (key : BitVec 64) (x : BitVec 64 × BitVec 64) (r : Nat) : BitVec 64 × BitVec 64 :=
  let x0 := x.1 + x.2
  let x1 := x.2.rotateLeft (tmbRot r) ^^^ x0
  if r % 4 = 3 then
    let s := (r + 1) / 4
    (x0 + tmbKeys key s, x1 + tmbKeys key (s + 1) + BitVec.ofNat 64 s)
  else (x0, x1)

/-- The state after injection 0 (R307). -/
def tmbStart (key : BitVec 64) (ctr : BitVec 128) : BitVec 64 × BitVec 64 :=
  (ctr.setWidth 64 + tmbKeys key 0, (ctr >>> 64).setWidth 64 + tmbKeys key 1)

/-- Tumbler(K, c) (R307). -/
def tumbler (key : BitVec 64) (ctr : BitVec 128) : BitVec 64 :=
  let x := (List.range 20).foldl (tmbRound key) (tmbStart key ctr)
  x.1 ^^^ x.2

/-- The counter of Table 7.2 (R309). -/
def tmbCounter (stream : Nat) (step : BitVec 32) (row col kind : Nat) : BitVec 128 :=
  BitVec.ofNat 16 stream ++ step ++ BitVec.ofNat 32 row ++ BitVec.ofNat 32 col ++ BitVec.ofNat 16 kind

/-- The random word of an SR or GCVT element at (row, col) (Table 7.4, KIND 0). -/
def srWord (key : BitVec 64) (step : BitVec 32) (stream row col : Nat) : BitVec 32 :=
  let w := tumbler key (tmbCounter stream step row (col / 2) 0)
  if col % 2 = 0 then w.setWidth 32 else (w >>> 32).setWidth 32

/-- The 16-bit field of a BERN element (Table 7.4, KIND 1). -/
def bernField (key : BitVec 64) (step : BitVec 32) (stream row col : Nat) : Nat :=
  let w := tumbler key (tmbCounter stream step row (col / 4) 1)
  (w.toNat / 2 ^ (16 * (col % 4))) % 2 ^ 16

/-- u0 (`hi = false`) or u1 of a word, an exact binary32 value (R317). -/
def uniform (w : BitVec 64) (hi : Bool) : Word :=
  let f := if hi then w.toNat / 2 ^ 41 else w.toNat / 2 ^ 9 % 2 ^ 23
  rnd (.fin false (2 * f + 1) (-24))

/-- z0 (`hi = false`) or z1 of a word (R318). -/
def gaussian (w : BitVec 64) (hi : Bool) : Word :=
  let t := fmul cNeg2Ln2 (log2 (uniform w false))
  let r := fmul t (rsqrt t)
  fmul r (if hi then sin2pi (uniform w true) else cos2pi (uniform w true))

end Sys2Proof.Machine
end

