-- ==== Sys2Proof/Machine/Drain.lean ====
section
/-! DEFINITION. The drain chain (03_tiles_drain.md, R115-R117, R139-R151, R749; COMPAT: R303), the softmax stage
(R148), RSC (04_attention_canopy.md, R171-R175), and the block-unit front end shared by every unit (R96, R93). -/

namespace Sys2Proof.Machine

/-! ### The front of a unit's queue -/

def Block.queue (k : Block) (u : BUnit) : List UEntry :=
  match u with
  | .load => k.loadQ
  | .array => k.arrayQ
  | .drain => k.drainQ
  | .sync => k.syncQ

def Block.setQueue (k : Block) (u : BUnit) (q : List UEntry) : Block :=
  match u with
  | .load => { k with loadQ := q }
  | .array => { k with arrayQ := q }
  | .drain => { k with drainQ := q }
  | .sync => { k with syncQ := q }

/-- The instruction of opcode `op` that its unit may begin now: the front of the unit's queue, not yet begun, in a
block whose launch is running and that no fault has stopped, while launches do not stand still (R30, R96, R99, R380). -/
def front (s : State) (b : Fin 48) (op : Nat) : Option (UEntry × Launch) :=
  let k := s.blocks[b]
  match unitOf op, k.lid.bind (findLaunch s) with
  | some u, some l =>
    match k.queue u with
    | e :: _ => if opOf e.word = op ∧ !e.begun ∧ l.st.mayBegin ∧ !k.stopped ∧ hostedNow s b ∧ !stalled s then some (e, l) else none
    | [] => none
  | _, _ => none

/-- Retire the front of a unit's queue. -/
def retire (s : State) (b : Fin 48) (u : BUnit) : State :=
  modBlk s b (fun k => k.setQueue u ((k.queue u).drop 1))

/-- Mark the front of a unit's queue as begun. -/
def begin_ (s : State) (b : Fin 48) (u : BUnit) : State :=
  modBlk s b (fun k => k.setQueue u (match k.queue u with | e :: es => { e with begun := true } :: es | [] => []))

/-- A counted no-op: NOOPCNT.MN (R126, R127). -/
def countNoop (s : State) (b : Fin 48) : State := cfld s .blkNoopcnt b.val 15 0 1

/-- A corrected single-bit error of a block store (Table 2.15). -/
def countEcc (s : State) (b : Fin 48) (store : Nat) : State :=
  wfld (cfld s .blkEcc b.val 15 0 1) .blkEcc b.val 19 16 store

/-- BUF_UNCORR: an uncorrectable error in a block store (R93). -/
def bufUncorr (s : State) (b : Fin 48) (idx store : Nat) : State := blkHalt s b 0x3C03 idx store

/-- Memory faults met by a unit's reads: MEM_UNCORR or MEM_POISON (R419, R420). -/
def memFaultCode (uncorr : Bool) : Nat := if uncorr then 0x3A01 else 0x3A02

/-- Run an instruction unless its accesses met an error (R93, Tables 2.15, 15.2): a single-bit error is corrected and
counted, an uncorrectable one halts the launch; of a burst that fails both of its reads the instruction gets no byte
(R418, R419). -/
def withUpset (s : State) (b : Fin 48) (idx : Nat) (u : Upset) (k : State → State) : State :=
  match u with
  | .none => k s
  | .single st => k (countEcc s b st.val)
  | .double st => bufUncorr s b idx st.val
  | .region bad => if bad then blkHalt s b 0x3E02 idx 0 else k (cfld s .hltEcc 0 15 0 1)
  | .fabric bad => if bad then blkHalt s b 0x3E01 idx 0 else k (cfld s .hltEcc 0 31 16 1)
  | .memory dpa => k (damage s dpa)

/-! ### Stages -/

/-- Flush under COMPAT (R303). -/
def cf (c : Bool) (x : Word) : Word := if c then flushW x else x

/-- What a DRN carries through its chain: rows of elements, MX scale bytes by row, and the SR stream. -/
structure ChainSt where
  rows : List (List Word)
  scales : List (List Nat)
  sr : Option Nat
  deriving DecidableEq, Repr

/-- Apply a function to every element, with its row and column. -/
def mapRows (rows : List (List Word)) (f : Nat → Nat → Word → Word) : List (List Word) :=
  (rows.zipIdx).map (fun r => (r.1.zipIdx).map (fun x => f r.2 x.2 x.1))

/-- The ACT functions (Table 3.8, R140). -/
def actFn (n : Nat) (x : Word) : Word :=
  match n with
  | 0 => relu x
  | 1 => silu x
  | 2 => geluTanh x
  | 3 => geluErf x
  | 4 => sigmoid x
  | 5 => exp2 x
  | 6 => recip x
  | _ => rsqrt x

/-- Whether MASK kind 0 allows a logical element: column at or before the query plus the offset (R142). -/
def causalOk (row col : Nat) (p d : Word) : Bool :=
  let q := if p = 0 then row else row % p.toNat
  decide ((col : Int) ≤ (q : Int) + sint d)

/-- The length a MASK of kind 1 compares with (R143). -/
def maskLen (l : Launch) (w : Word) : Nat := if w.toNat / 2 ^ 31 = 1 then (l.slot (w.toNat % 64)).getD 0 else w.toNat

/-- Whether a MASK stage allows element (i, j): causal, length or bit mask, by the kind in MODE[3:1] (R142-R144). -/
def maskOk (s : State) (b : Fin 48) (l : Launch) (d : BitVec 512) (mode : Nat) (w0 w1 : Word) (g i j : Nat) : Bool :=
  match mode / 2 with
  | 0 => causalOk (nM0 d + i) (nN0 d + j) w0 w1
  | 1 => decide (nN0 d + j < maskLen l w0)
  | _ => decide ((sget zeroFill (s.blocks[b]).scratch (g + 16 * i + j / 8)).toNat / 2 ^ (j % 8) % 2 = 1)

/-- The largest of a list of words by value, from a start (R148: exact); of zeros of both signs the first stays (DESIGN CHOICE, log 161). -/
def maxW (m : Word) (xs : List Word) : Word := xs.foldl (fun m x => if flt m x then x else m) m

/-- One row of the online softmax: the new elements and the new m, l and α (R148). `valid` counts valid columns. -/
def softmaxRow (valid : Nat) (m l : Word) (xs : List Word) : List Word × Word × Word × Word :=
  let vx := xs.take valid
  let rest := List.replicate (xs.length - vx.length) (0 : Word)
  if vx.any (fun x => isNanW x || x = posInf) || isNanW m || isNanW l then
    (vx.map (fun _ => canonNan) ++ rest, canonNan, canonNan, canonNan)
  else
    let m' := maxW m vx
    if m' = negInf then (vx.map (fun _ => 0) ++ rest, m, l, one32)
    else
      let al := exp2 (fsub m m')
      let ys := vx.map (fun x => exp2 (fsub x m'))
      let t := rnd (sumNum (ys.map val))
      (ys ++ rest, m', fadd (fmul l al) t, al)

/-- The 16-byte row state of row `i` in the area at byte `a` of the scratchpad: m, l, α. -/
def rowState (s : State) (b : Fin 48) (a i : Nat) : Word × Word × Word :=
  (scratchWord s b (a + 16 * i), scratchWord s b (a + 16 * i + 4), scratchWord s b (a + 16 * i + 8))

/-- Write m, l and α of a row; the four reserved bytes keep their value. -/
def putRowState (s : State) (b : Fin 48) (a i : Nat) (m l al : Word) : State :=
  scratchPut s b (a + 16 * i) (toLe 4 m.toNat ++ toLe 4 l.toNat ++ toLe 4 al.toNat)

/-- The softmax stage over the valid rows (R148). -/
def softmaxStage (s : State) (b : Fin 48) (first : Bool) (area valid : Nat) :
    List (List Word) → Nat → State × List (List Word)
  | [], _ => (s, [])
  | r :: rs, i =>
    let st := rowState s b area i
    let m := if first then negInf else st.1
    let l := if first then 0 else st.2.1
    let y := softmaxRow valid m l r
    let s := putRowState s b area i y.2.1 y.2.2.1 y.2.2.2
    let rest := softmaxStage s b first area valid rs (i + 1)
    (rest.1, y.1 :: rest.2)

/-- The STATS record of the valid elements: amax, sumsq, nonfinite, count (R145). -/
def statsOf (xs : List Word) : Word × Word × Nat × Nat :=
  let fs := xs.filter isFinW
  (maxW 0 (fs.map (fun x => x &&& 0x7FFFFFFF)), rnd (sumNum (fs.map (fun x => (val x).mul (val x)))),
   xs.length - fs.length, xs.length)

/-- Write or merge a STATS record at a scratchpad byte (R145). -/
def putStats (s : State) (b : Fin 48) (merge : Bool) (a : Nat) (r : Word × Word × Nat × Nat) : State :=
  let old (i : Nat) : Word := scratchWord s b (a + 4 * i)
  let sat (x y : Nat) : Nat := min (x + y) (2 ^ 32 - 1)
  let r := if merge then
      (maxW (old 0) [r.1], fadd (old 1) r.2.1, sat (old 2).toNat r.2.2.1, sat (old 3).toNat r.2.2.2) else r
  scratchPut s b a (toLe 4 r.1.toNat ++ toLe 4 r.2.1.toNat ++ toLe 4 r.2.2.1 ++ toLe 4 r.2.2.2)

/-- The scale byte of a block of valid elements (R149). -/
def mxScale (f : Fmt) (xs : List Word) : Nat :=
  if xs.any (fun x => !isFinW x) then 0xFF
  else
    match val (maxW 0 (xs.map (fun x => x &&& 0x7FFFFFFF))) with
    | .fin _ m e =>
      if m = 0 then 0
      else
        let ex := (Nat.log2 m : Int) + e - (if f = .mx4 then 2 else 8)
        (max (-127) (min 127 ex) + 127).toNat
    | _ => 0xFF

/-- Blocks of 32 of the first `n` elements of a row. -/
def blocks32 (n : Nat) (r : List Word) : List (List Word) :=
  (List.range ((n + 31) / 32)).map (fun k => (r.drop (32 * k)).take (min 32 (n - 32 * k)))

/-- Put the values of the valid columns back at their columns, from column `j` on; the other columns become zero. -/
def spread (ok : Nat → Bool) : Nat → Nat → List Word → List Word
  | 0, _, _ => []
  | n + 1, j, vs => if ok j then vs.headD 0 :: spread ok n (j + 1) (vs.drop 1) else 0 :: spread ok n (j + 1) vs

/-- One stage of the chain on the valid rows (R139-R151). -/
def runStage (l : Launch) (b : Fin 48) (d : BitVec 512) (vn : Nat) (s : State) (c : ChainSt) (t : Stage) :
    State × ChainSt :=
  let co := isCompat s
  let g := t.arg * 256
  let param (i j : Nat) : Word :=
    match t.mode with
    | 0 => nWord s b d t.arg
    | 1 => scratchWord s b (g + 4 * j)
    | _ => scratchWord s b (g + 4 * i)
  let elem (f : Nat → Nat → Word → Word) : State × ChainSt :=
    (s, { c with rows := mapRows c.rows (fun i j x => cf co (f i j (cf co x))) })
  -- the columns that hold valid elements: both halves before a gated ACT (R141)
  let wide : Bool := c.rows.any (fun r => decide (nOutTC d < r.length))
  let okCol (j : Nat) : Bool := if wide then decide (j % nOutTC d < vn) else decide (j < vn)
  let validOf (r : List Word) : List Word := ((r.zipIdx).filter (fun x => okCol x.2)).map (·.1)
  match t.code with
  | 1 => elem (fun i j x => fmul x (cf co (param i j)))
  | 2 => elem (fun i j x => fadd x (cf co (param i j)))
  | 3 =>
    if t.mode = 0 then elem (fun _ _ x => actFn t.arg x)
    else
      (s, { c with rows := c.rows.map (fun r =>
        (List.range 64).map (fun j =>
          cf co (fmul (cf co (actFn t.arg (cf co (r.getD j 0)))) (cf co (r.getD (j + 64) 0))))) })
  | 4 =>
    let f := (nRfmt d).getD .fp32
    let pitch := upTo (eltBytes f (nTC d)) 64
    let row (i : Nat) : List Byte := srange zeroFill (s.blocks[b]).scratch (g + i * pitch) (eltBytes f (nTC d))
    (s, { c with rows := (c.rows.zipIdx).map (fun r =>
      let bytes := row r.2
      (r.1.zipIdx).map (fun x =>
        cf co (rnd ((val (cf co x.1)).add (val (cf co (rnd (decodeElt f (eltCode f bytes x.2)))))))))})
  | 5 =>
    let fill : Word := if t.mode % 2 = 1 then 0 else negInf
    let w0 := nWord s b d t.arg
    let w1 := nWord s b d (t.arg + 1)
    elem (fun i j x => if maskOk s b l d t.mode w0 w1 g i j then x else fill)
  | 6 =>
    let vs := c.rows.map validOf
    let r := softmaxStage s b (t.mode % 2 = 1) g ((vs.getD 0 []).length) vs 0
    (r.1, { c with rows := List.zipWith (fun old new => spread okCol old.length 0 new) c.rows r.2 })
  | 7 => (putStats s b (t.mode = 1) g (statsOf (c.rows.flatMap validOf)), c)
  | 8 =>
    if t.mode = 0 then elem (fun _ _ x => fmul x (cf co (nWord s b d t.arg)))
    else
      let f := (nOfmt d).getD .mx8
      let sc := c.rows.map (fun r => (blocks32 vn r).map (mxScale f))
      let s := (sc.zipIdx).foldl (fun s r => scratchPut s b (g + 4 * r.2) (r.1.map (BitVec.ofNat 8))) s
      (s, { c with scales := sc })
  | 9 => (s, { c with sr := some t.arg })
  | 10 =>
    let lo := cf co (nWord s b d t.arg)
    let hi := cf co (nWord s b d (t.arg + 1))
    elem (fun _ _ x => if isNanW x then canonNan else if flt x lo then lo else if flt hi x then hi else x)
  | _ => (s, c)

/-- The final conversion of one element (R147, R149; COMPAT: R303). Under a shared scale stochastic rounding counts from the unit in the
last place of x, which for a subnormal x is not that of the scaled value (DEDUCED, log 162). -/
def finalElt (co : Bool) (f : Fmt) (scale : Nat) (w : Option (BitVec 32)) (x : Word) : Nat :=
  if co then convertCompat f x
  else if f.isMx ∧ scale ≠ 0 ∧ scale ≠ 255 then
    match val x with
    | .fin sg m e => let u := ulpForm m e; narrow f w (.fin sg u.1 (u.2 - ((scale : Int) - 127)))
    | n => narrow f w n
  else convert f w x

/-- A row of element codes as bytes with write masks: a 4-bit byte half-covered keeps its other nibble (R105, R133). -/
def packRow (f : Fmt) (codes : List Nat) : List (Byte × Byte) :=
  match f.bits with
  | 4 => (List.range ((codes.length + 1) / 2)).map (fun i =>
      let lo := codes.getD (2 * i) 0
      if 2 * i + 1 < codes.length then (BitVec.ofNat 8 (lo + 16 * codes.getD (2 * i + 1) 0), 0xFF)
      else (BitVec.ofNat 8 lo, 0x0F))
  | n => codes.flatMap (fun c => fullMask (toLe (n / 8) c))

/-- Write masked bytes to the scratchpad or the region buffer of a block (R132, R133). -/
def spPut (s : State) (b : Fin 48) (sp : Space) (a : Nat) (bs : List (Byte × Byte)) : State :=
  match sp with
  | .bank i => modBlk s b (fun k =>
      k.setBank i (sput (k.bankD i) (k.bank i) a (mergeMask (srange (k.bankD i) (k.bank i) a bs.length) bs)))
  | .scratch => modBlk s b (fun k =>
      { k with scratch := sput zeroFill k.scratch a (mergeMask (srange zeroFill k.scratch a bs.length) bs) })
  | .rbuf => modRgn s (rgnOf b) (fun r =>
      { r with rbuf := sput zeroFill r.rbuf a (mergeMask (srange zeroFill r.rbuf a bs.length) bs) })
  | .mem => s

/-- The elements a DRN reads: TR rows of TC columns of its slot from (SROW, SCOL), valid rows only, integers rounded
once at the entry (R116). -/
def drnRows (s : State) (b : Fin 48) (d : BitVec 512) (vm : Nat) : List (List Word) :=
  (List.range vm).map (fun i =>
    (accRow (s.blocks[b]) (nSlot d) (nSrow d + i) (nScol d) (nTC d)).map
      (fun w => if nInt d then ofInt (sint w) else w))

/-- The whole of a DRN: the stages in list order, then the conversion and the writes of valid elements
(R117, R132, R147, R151, R749). A gated DRN places its MX scales by its 64 output columns (R105, log 145). Where an area that it writes
overlaps one that it reads, each stage is complete before the next and DST comes last (DESIGN CHOICE, log 163). -/
def drain (s : State) (b : Fin 48) (l : Launch) (d : BitVec 512) : State :=
  let e := extents s b l d
  let co := isCompat s
  let f := (nOfmt d).getD .bf16
  let c0 : ChainSt := { rows := drnRows s b d e.1, scales := [], sr := none }
  let r := (stages d).foldl (fun a t => runStage l b d e.2.1 a.1 a.2 t) (s, c0)
  let s := r.1
  let c := r.2
  if nNoStore d then s
  else
    let key := launchKey s l
    let dst := nDst d
    (c.rows.zipIdx).foldl (fun s row =>
      let sc := c.scales.getD row.2 []
      let codes := ((row.1.take e.2.1).zipIdx).map (fun x =>
        let w := c.sr.map (fun st => srWord key l.step st (nM0 d + row.2) (nN0 d + x.2))
        finalElt co f (sc.getD (x.2 / 32) 0) w x.1)
      let a := dst.addr + row.2 * dst.stride * 64
      let s := spPut s b dst.sp a (packRow f codes)
      if f.isMx then spPut s b dst.sp (a + scaleOff f (nOutTC d)) (fullMask (sc.map (BitVec.ofNat 8))) else s) s

/-- DRN (R115, R151): passes an accumulator slot through the drain-chain stages and converts it to OFMT. -/
def execDrn (b : Fin 48) (u : Upset) (s : State) : Host.Outcome State Fault Refusal :=
  match front s b opDRN with
  | none => .next s
  | some (e, l) =>
    .next (withUpset s b e.idx u (fun s =>
      let v := extents s b l e.word
      if v.1 = 0 ∨ v.2.1 = 0 then retire (countNoop s b) b .drain
      else retire (drain s b l e.word) b .drain))

/-! ### RSC (R171-R175) -/

/-- MERGE of one row: the new row, m, l and α (R174). Partials of one operand merge by it wherever they lie (R177, log 138). -/
def mergeRow (ma la mb lb : Word) (oa ob : List Word) : List Word × Word × Word × Word :=
  if isNanW ma || isNanW la || isNanW mb || isNanW lb then (oa.map (fun _ => canonNan), canonNan, canonNan, canonNan)
  else
    let m := maxW ma [mb]
    if m = negInf then (oa.map (fun _ => 0), negInf, 0, one32)
    else
      let sa := exp2 (fsub ma m)
      let sb := exp2 (fsub mb m)
      (List.zipWith (fun x y => fadd (fmul x sa) (fmul y sb)) oa ob, m, fadd (fmul la sa) (fmul lb sb), sa)

/-- FINAL of one row: the row and its log-sum-exp (R175). -/
def finalRow (m l : Word) (o : List Word) : List Word × Word :=
  if isNanW m || isNanW l then (o.map (fun _ => canonNan), canonNan)
  else if l = 0 then (o.map (fun _ => 0), negInf)
  else (o.map (fun x => fmul x (recip l)), fadd m (log2 l))

/-- The RVE's merge of two partials, each a list of rows with m and l, the left one first (R177). No list entry carries it (R753, log
138). -/
def rveMerge (a b : List (List Word × Word × Word)) : List (List Word × Word × Word) :=
  List.zipWith (fun x y =>
    let r := mergeRow x.2.1 x.2.2 y.2.1 y.2.2 x.1 y.1
    (r.1, r.2.1, r.2.2.1)) a b

/-- The RVE's normalisation of a partial: each row and its log-sum-exp (R177). -/
def rveNormalise (a : List (List Word × Word × Word)) : List (List Word × Word) := a.map (fun x => finalRow x.2.1 x.2.2 x.1)

/-- RSC on its rows, by MODE (R173-R175). -/
def rescale (s : State) (b : Fin 48) (d : BitVec 512) : State :=
  let mode := fld d 1 1 % 4
  let slot := fld d 3 1 % 32
  let slot2 := fld d 4 1 % 32
  let tc := fld d 6 1
  let st := fld d 8 2 % 2 ^ 14 * 256
  let st2 := fld d 10 2 % 2 ^ 14 * 256
  let lse := fld d 12 2 % 2 ^ 14 * 256
  (List.range (fld d 5 1)).foldl (fun s i =>
    let o := accRow (s.blocks[b]) slot i 0 tc
    let r := rowState s b st i
    match mode with
    | 0 => modBlk s b (fun k => accPut k slot i 0 (o.map (fun x => fmul x r.2.2)))
    | 1 =>
      let r2 := rowState s b st2 i
      let y := mergeRow r.1 r.2.1 r2.1 r2.2.1 o (accRow (s.blocks[b]) slot2 i 0 tc)
      putRowState (modBlk s b (fun k => accPut k slot i 0 y.1)) b st i y.2.1 y.2.2.1 y.2.2.2
    | _ =>
      let y := finalRow r.1 r.2.1 o
      scratchPut (modBlk s b (fun k => accPut k slot i 0 y.1)) b (lse + 4 * i) (toLe 4 y.2.toNat)) s

/-- RSC (R171): rescales, merges or normalises an attention accumulator slot, as its MODE selects. -/
def execRsc (b : Fin 48) (u : Upset) (s : State) : Host.Outcome State Fault Refusal :=
  match front s b opRSC with
  | none => .next s
  | some (e, _) => .next (withUpset s b e.idx u (fun s => retire (rescale s b e.word) b .drain))

end Sys2Proof.Machine
end

