-- ==== Sys2Proof/Machine/Groups.lean ====
section
/-! DEFINITION. Configuration groups: commit, discard, consistency rules, apply points (01_structure.md, R35-R46, R744;
R101, R206, R207, R263, R264, R306, R405, R450, R507, R576, R577, R680, R735-R737). -/

namespace Sys2Proof.Machine

/-- A field of a shadow copy. -/
def sfld (s : State) (r : Reg) (i hi lo : Nat) : Nat := getF (rshadow s r i) hi lo

/-! ### Consistency rules -/

/-- REASON 0x2 where `range` holds, else 0x1 where `clash` holds, else none. -/
def reason (range clash : Bool) : Option Nat := if range then some 2 else if clash then some 1 else none

/-- Whether two entries of a list stand in a relation, the earlier one first. -/
def pairAny {α : Type} (p : α → α → Bool) : List α → Bool
  | [] => false
  | x :: xs => xs.any (p x) || pairAny p xs

/-- Two half-open ranges, each a base and a length, that share a value. -/
def overlaps (x y : Nat × Nat) : Bool := decide (0 < x.2) && decide (0 < y.2) && decide (x.1 < y.1 + y.2) && decide (y.1 < x.1 + x.2)

/-- Base and count of the four job slots from two words, a low and a high slot in each (Tables 4.12, 9.14). -/
def waySlots (lo hi : Word) : List (Nat × Nat) :=
  [lo, hi].flatMap (fun w => [(getF w 11 8, getF w 4 0), (getF w 27 24, getF w 20 16)])

/-- A way count above 16, or a base plus count above 16 (R207, R405). -/
def waysOver (l : List (Nat × Nat)) : Bool := l.any (fun x => decide (16 < x.2) || decide (16 < x.1 + x.2))

/-- Group DEV (R735, R736). -/
def devBad (s : State) : Option Nat :=
  let compat := decide (sfld s .devMode 0 1 1 ≠ rfld s .devMode 0 1 1)
  let strict := decide (sfld s .devMode 0 0 0 = 1) && decide (rfld s .devMode 0 0 0 = 0)
  reason false (compat && !s.launches.isEmpty || strict && s.launches.any (fun l => l.fld 8 2 ≠ 0))

/-- Group RGNn (R207, R740). -/
def rgnBad (s : State) (n : Nat) : Option Nat :=
  let w := waySlots (rshadow s .rgnCnpways0 n) (rshadow s .rgnCnpways1 n)
  reason (waysOver w || decide (sfld s .rgnTurn n 15 0 = 0)) (pairAny overlaps w)

/-- Group CNPn (R206). -/
def cnpBad (s : State) (n : Nat) : Option Nat :=
  reason (decide (sfld s .cnpBase n 31 31 = 1) && !installed s (sfld s .cnpBase n 19 0 * 2 ^ 24) (2 ^ 24)) false

/-- Group RVEn (R306): layer records are 32 bytes, amax records 128 (Table 6.10). -/
def rveBad (s : State) (n : Nat) : Option Nat :=
  let trn := (4096 * (rshadow s .rveTrnbase n).toNat, 16 * 32 * sfld s .rveTrncfg n 15 8)
  let amx := (4096 * (rshadow s .rveAmxbase n).toNat, 64 * 128 * sfld s .rveTrncfg n 7 0)
  let out (x : Nat × Nat) : Bool := decide (0 < x.2) && !installed s x.1 x.2
  reason (out trn || out amx) (overlaps trn amx)

/-- Group MEM_JOB (R405). -/
def jobBad (s : State) : Option Nat :=
  let w (h : Nat) := waySlots (rshadow s .memMscwaysLo h) (rshadow s .memMscwaysHi h)
  let chans := (List.range 4).map (fun j => rshadow s .memJobres j)
  reason (waysOver (w 0) || waysOver (w 1))
    (pairAny overlaps (w 0) || pairAny overlaps (w 1) || pairAny (fun x y => x &&& y != 0) chans)

/-- Group MEM_FRC (R263, R264). -/
def frcBad (s : State) : Option Nat :=
  let ws := ((List.range 16).map (fun i =>
    frcOf (rshadow s .memFrcwin0 i) (rshadow s .memFrcwin1 i) (rshadow s .memFrcwin2 i))).filter (·.on)
  let size (f : FrcWin) : Nat := f.size / 32 * f.codeBytes
  reason (ws.any (fun f => decide (f.size = 0) || decide (viewBase + 0x400000 * mib2 < f.base + f.size) ||
      !installed s f.phys (size f)))
    (pairAny overlaps (ws.map (fun f => (f.base, f.size))) || pairAny overlaps (ws.map (fun f => (f.phys, size f))))

/-- Group LAT (R577): a window in installed memory is outside the view. -/
def latBad (s : State) : Option Nat :=
  reason (decide (sfld s .latCfg 0 31 16 = 0) || (List.range 256).any (fun w =>
    decide (sfld s .latWin0 w 31 31 = 1) &&
      (decide (rshadow s .latWin3 w = 0) ||
        !installed s (4096 * (rshadow s .latWin2 w).toNat) (4096 * (rshadow s .latWin3 w).toNat)))) false

/-- The reason for which a group's shadow copy is refused, if there is one (R42). -/
def groupBad (s : State) : Group → Option Nat
  | .dev => devBad s
  | .tmb => none
  | .hlt => reason (decide (sfld s .hltCfg 0 31 16 = 0)) false
  | .blk n =>
    let f := sfld s .blkCfg n.val 3 0
    let m := sfld s .blkCfg n.val 5 4
    reason (decide (f < 8) || decide (12 < f) || decide (m = 0)) false
  | .rgn n => rgnBad s n.val
  | .cnp n => cnpBad s n.val
  | .rve n => rveBad s n.val
  | .memCfg => reason (decide (sfld s .memCfg 0 23 16 = 0)) false
  | .memJob => jobBad s
  | .memFrc => frcBad s
  | .vse h =>
    let d := sfld s .vseCfg h.val 23 16
    let c := sfld s .vseCfg h.val 15 8
    reason (decide (d < 16) || decide (152 < d) || decide (c < 4) || decide (16 < c)) false
  | .net => reason (decide (sfld s .netCfg 0 23 21 = 0) || decide (sfld s .netCfg 0 20 13 = 0) || decide (sfld s .netCfg 0 12 5 = 0) || decide (sfld s .netCfg 0 4 0 = 0)) false
  | .lat => latBad s

/-! ### Apply points (Table 1.6) -/

/-- A launch in flight: dispatched, and not ended, stopped or halted (R737). -/
def LState.inFlight : LState → Bool
  | .running | .stopping | .restoring | .aborting => true
  | _ => false

def anyInFlight (s : State) : Bool := s.launches.any (fun l => l.st.inFlight)

/-- Whether a group is at its apply point; a stream engine is between two rows, and the network engine between two packets, between
any two commands. A block that no physical block hosts is at none (R732). -/
def atApply (s : State) : Group → Bool
  | .dev | .tmb | .hlt => !anyInFlight s
  | .blk n => (s.blocks[n]).job.isNone && hostedNow s n
  | .rgn n | .cnp n | .rve n => (s.regions[n]).holder.isNone
  | .memCfg | .memJob | .memFrc => s.mem.rereads.isEmpty && s.mem.held.isEmpty && s.mem.wq.isEmpty
  | .vse _ | .net | .lat => true

/-! ### Commit, discard, apply -/

/-- A field of a group's commit register (Table 1.5). -/
def commitFld (s : State) (g : Group) (hi lo : Nat) : Nat := let c := groupCommit g; rfld s c.1 c.2 hi lo

def setCommit (s : State) (g : Group) (hi lo v : Nat) : State := let c := groupCommit g; wfld s c.1 c.2 hi lo v

/-- PENDING of a group. -/
def pendingG (s : State) (g : Group) : Bool := commitFld s g 2 2 = 1

/-- Whether a group's shadow copy differs from its active copy: DIRTY (Table 1.5). -/
def dirty (s : State) (g : Group) : Bool := (groupRegs g).any (fun x => rshadow s x.1 x.2 != rreg s x.1 x.2)

/-- The active copy over the shadow copy (R40, R44). -/
def copyBack (s : State) (g : Group) : State := (groupRegs g).foldl (fun s x => wshadow s x.1 x.2 (rreg s x.1 x.2)) s

/-- The shadow copy over the active copy (R37). -/
def copyOver (s : State) (g : Group) : State := (groupRegs g).foldl (fun s x => wreg s x.1 x.2 (rshadow s x.1 x.2)) s

/-- COMMIT_REQUEST (R744): REJECTED and REASON clear and PENDING sets; while PENDING is 1 the request is refused (R41). -/
def commitRequest (g : Group) (s : State) : State :=
  if pendingG s g then s else setCommit (setCommit (setCommit s g 15 12 0) g 8 8 0) g 2 2 1

def execCommitRequest (g : Group) (s : State) : Host.Outcome State Fault Refusal := .next (commitRequest g s)

/-- DISCARD (Table 1.5): the active copy over the shadow copy; refused while PENDING is 1 (R41). -/
def discard (g : Group) (s : State) : State := if pendingG s g then s else copyBack s g

def execDiscard (g : Group) (s : State) : Host.Outcome State Fault Refusal := .next (discard g s)

/-- Whether a binding's window is still enabled with the binding's epoch (R571). -/
def bindStands (s : State) (b : Binding) : Bool :=
  decide (rfld s .latWin0 b.win 31 31 = 1) && decide (rreg s .latWin1 b.win = b.epoch)

/-- A binding ends for good when its window is disabled or its EPOCH changes (R571). -/
def endBindings (s : State) : State :=
  { s with net := { s.net with conns := s.net.conns.map (fun c => { c with bind := c.bind.filter (bindStands s) }) } }

/-- The copy of a commit, with GEN and PENDING (R37, R43). -/
def applyGroup (s : State) (g : Group) : State :=
  let s := setCommit (setCommit (copyOver s g) g 31 16 (commitFld s g 31 16 + 1)) g 2 2 0
  if g = .lat then endBindings s else s

/-- The refusal of a commit (R42). -/
def rejectGroup (s : State) (g : Group) (why : Nat) : State :=
  setCommit (setCommit (setCommit s g 15 12 why) g 8 8 1) g 2 2 0

/-- Whether a group has a unit in half 1, which an apply reaches as a Control beat of half 0 (Table 1.2, log 67). -/
def groupInHalf1 : Group → Bool
  | .blk n => decide (24 ≤ n.val)
  | .rgn n | .cnp n | .rve n => decide (4 ≤ n.val)
  | .vse h => decide (h = 1)
  | .memCfg | .memJob | .memFrc => true
  | _ => false

/-- Whether a pending commit of a group stands at its apply point (R45). -/
def applyDue (s : State) (g : Group) : Bool := pendingG s g && atApply s g && decide (s.power.phase = .ready)

/-- CONFIG_APPLY (R42, R43, R45): a pending commit, at its group's apply point; across the Hinge with a Control credit (R26). -/
def configApply (g : Group) (s : State) : State :=
  if applyDue s g ∧ (!groupInHalf1 g ∨ hingeTakes s 0 0) then
    let s := if groupInHalf1 g then hingeSend s 0 0 else s
    match groupBad s g with
    | none => applyGroup s g
    | some why => rejectGroup s g why
  else s

def execConfigApply (g : Group) (s : State) : Host.Outcome State Fault Refusal := .next (configApply g s)

/-- Whether a commit of a group of the device kind is pending, which holds dispatch (R737). -/
def dispatchHeld (s : State) : Bool := [Group.dev, .tmb, .hlt].any (pendingG s)

/-- Every configuration group (R740). -/
def allGroups : List Group :=
  [.dev, .tmb, .hlt] ++ (List.finRange 48).map Group.blk ++ (List.finRange 8).map Group.rgn ++
  (List.finRange 8).map Group.cnp ++ (List.finRange 8).map Group.rve ++ [.memCfg, .memJob, .memFrc] ++
  (List.finRange 2).map Group.vse ++ [.net, .lat]

/-- A reset of the units that own groups: shadow copies are dropped and commits no longer pend (R44). -/
def resetGroups (s : State) (gs : List Group) : State := gs.foldl (fun s g => setCommit (copyBack s g) g 2 2 0) s

/-- A group's fields at their reset values in both copies; PENDING, REJECTED and REASON clear (R38, R644). -/
def scrubGroup (s : State) (g : Group) : State :=
  let s := (groupRegs g).foldl (fun s x => wshadow (wreg s x.1 x.2 (regReset x.1)) x.1 x.2 (regReset x.1)) s
  setCommit (setCommit (setCommit s g 15 12 0) g 8 8 0) g 2 2 0

end Sys2Proof.Machine
end

