-- ==== Sys2Proof/Machine/Array.lean ====
section
/-! DEFINITION. The array unit: the forms MMF, MMH, MMQ, MMV, CVI, CVD, ATS and ATV, their chunks, pair partials, ward
checks, replay and escalation (02_block_array.md, R57-R93, R102; 03_tiles_drain.md, R111, R112, R128, R131;
05_convolution_vae.md, R213-R222; 08_determinism.md, R343, R345). -/

namespace Sys2Proof.Machine

/-! ### Operands -/

/-- A subnormal operand element counts as a zero of its sign under COMPAT (R300). -/
def flushNum (f : Fmt) (n : Num) : Num :=
  match f, n with
  | .int8, n => n
  | f, .fin s m e => if m < 2 ^ f.layout.2.1 ∧ e = 1 - (f.layout.2.2 : Int) - f.layout.2.1 then .fin s 0 0 else .fin s m e
  | _, n => n

def flushMat (c : Bool) (f : Fmt) (m : List (List Num)) : List (List Num) :=
  if c then m.map (·.map (flushNum f)) else m

/-- One row of the gathered operand of CVI or CVD: the elements of K indices K0 to K0 + VK - 1 of output pixel `m`
(R213, R214, R221). -/
def convRow (s : State) (b : Fin 48) (d : BitVec 512) (f : Fmt) (m vk : Nat) : List Num :=
  let c := convOf d
  let a := dOPA d
  let cvd : Bool := opOf d = opCVD
  let ck := if cvd then 128 else c.ck f
  let c0 := if cvd then dN0 d else 0
  let cnt := if cvd then min 128 (c.cin - dN0 d) else c.cin
  let taps := (List.range (c.fh * c.fw)).flatMap (fun t =>
    match c.pixel m t with
    | none => List.replicate ck zeroNum
    | some p =>
      padTo ck ((readRow s b a.sp f (a.addr + p * a.stride * 64) c.cp (c0 + cnt)).drop c0))
  (taps.drop (dK0 d)).take vk

/-- One row of a CVI's weights: a stored row holds EK elements, of which those from K0 on are fed (R215, log 123). -/
def weightRow (s : State) (b : Fin 48) (d : BitVec 512) (g : Fmt) (j vk : Nat) : List Num :=
  let o := dOPB d
  let c := convOf d
  ((readRow s b o.sp g (o.addr + j * o.stride * 64) (c.ek opCVI ((dFmtA d).getD .bf16)) (dK0 d + vk)).drop (dK0 d)).take vk

/-- One row of a CVD's weights, expanded: channels outside the column's group feed zeros (R221, R222). -/
def groupRow (s : State) (b : Fin 48) (d : BitVec 512) (f : Fmt) (j vk : Nat) : List Num :=
  let c := convOf d
  let o := dOPB d
  let g := 2 ^ c.grp
  let w := readRow s b o.sp f (o.addr + j * o.stride * 64) 0 (c.fh * c.fw * g)
  let row := (List.range (c.fh * c.fw)).flatMap (fun t =>
    (List.range 128).map (fun ch => if ch / g = j / g then w.getD (t * g + ch % g) zeroNum else zeroNum))
  (row.drop (dK0 d)).take vk

/-- Rows of a key or value area in bank B, in the page layout: row `t` of `dd` elements, valid below `vn`
(R157, Table 4.8, log 31). -/
def areaRows (s : State) (b : Fin 48) (f : Fmt) (base dd r0 n valid : Nat) : List (List Num) :=
  (List.range n).map (fun j =>
    if j < valid then
      let t := r0 + j
      rowNums f (spBytes s b (.bank 2) (base + t * kvRow f dd) (kvRow f dd))
        (if f.isMx then spBytes s b (.bank 2) (base + areaScaleOff f dd + t * (dd / 32)) (dd / 32) else []) dd
    else List.replicate dd zeroNum)

/-- The output parts of a form (R78, R79, R80, R747). -/
def geomOf (op : Nat) : List PartGeom :=
  if op = opMMH then
    [{ r0 := 0, c0 := 0, nr := 128, nc := 64, a0 := 0, b0 := 0 },
     { r0 := 0, c0 := 64, nr := 128, nc := 64, a0 := 0, b0 := 64 }]
  else if op = opMMQ then
    (List.range 4).map (fun q =>
      { r0 := 64 * (q / 2), c0 := 64 * (q % 2), nr := 64, nc := 64, a0 := 64 * q, b0 := 64 * q })
  else if op = opMMV then [{ r0 := 0, c0 := 0, nr := 16, nc := 128, a0 := 0, b0 := 0 }]
  else [{ r0 := 0, c0 := 0, nr := 128, nc := 128, a0 := 0, b0 := 0 }]

/-- The two operand matrices of an instruction, padded rows included (R108, R131, R747). ATV reads P where OPA names it, whatever PGRAN
says (DESIGN CHOICE, log 165). -/
def operandsOf (s : State) (b : Fin 48) (l : Launch) (d : BitVec 512) : List (List Num) × List (List Num) :=
  let op := opOf d
  let e := extents s b l d
  let f := (dFmtA d).getD .bf16
  let g := (dFmtB d).getD .bf16
  let a := dOPA d
  let o := dOPB d
  let kt := dKT d
  let vk := e.2.2
  let zrow := List.replicate vk zeroNum
  let m := if op = opMMQ then
      ((List.range 4).flatMap (fun q => readTile s b a (a.addr + q * dQSA d) f kt 64 e.1 vk vk),
       (List.range 4).flatMap (fun q => readTile s b o (o.addr + q * dQSB d) g kt 64 e.2.1 vk vk))
    else if op = opMMH then
      (readTile s b a a.addr f kt 128 e.1 vk vk,
       (List.range 2).flatMap (fun q => readTile s b o (o.addr + q * dQSB d) g kt 64 e.2.1 vk vk))
    else if op = opCVI then
      ((List.range 128).map (fun i => if i < e.1 then convRow s b d f (dM0 d + i) vk else zrow),
       (List.range 128).map (fun j => if j < e.2.1 then weightRow s b d g j vk else zrow))
    else if op = opCVD then
      ((List.range 128).map (fun i => if i < e.1 then convRow s b d f (dM0 d + i) vk else zrow),
       (List.range 128).map (fun j => if j < e.2.1 then groupRow s b d g j vk else zrow))
    else if op = opATS then
      (readTile s b a a.addr f kt 128 e.1 vk vk, areaRows s b g o.addr vk (dN0 d % 256) 128 e.2.1)
    else if op = opATV then
      let dd := extAt l d 8
      let v := areaRows s b g o.addr dd 0 256 vk
      ((List.range 128).map (fun i =>
          if i < e.1 then padTo vk (readRow s b .scratch f (a.addr + i * eltBytes f 256) 256 vk) else zrow),
       (List.range 128).map (fun j =>
          if j < e.2.1 then (colOf v (dN0 d + j)).take vk else zrow))
    else
      (readTile s b a a.addr f kt (tileH op) e.1 vk vk, readTile s b o o.addr g kt 128 e.2.1 vk vk)
  (flushMat (isCompat s) f m.1, flushMat (isCompat s) g m.2)

/-- The α vector of score tile `h` of the P area (R160). -/
def alphaOf (s : State) (b : Fin 48) (d : BitVec 512) (h : Nat) : List Word :=
  let e := if apPfmt (apWord s b d 7) = 0 then 2 else 1
  let base := granule (apWord s b d 5) + 128 * 256 * e + 512 * h
  (List.range 128).map (fun i => scratchWord s b (base + 4 * i))

/-- The array instruction taken up by the array (R59, R66). -/
def mkJob (s : State) (b : Fin 48) (l : Launch) (e : UEntry) : ArrayJob :=
  let d := e.word
  let op := opOf d
  let x := extents s b l d
  let f := (dFmtA d).getD .bf16
  let g := (dFmtB d).getD .bf16
  let m := operandsOf s b l d
  { idx := e.idx, word := d,
    arith := if f = .int8 then .int else if f = .fp32 then .x3 else .float,
    fin := if op = opATS then .score else if op = opATV then .fold else .slot,
    p := (pairRate f g).getD 2, vm := x.1, vn := x.2.1, vk := x.2.2, geom := geomOf op,
    ovw := dOvw d, acc := dAcc d, a := m.1, b := m.2,
    alpha := if op = opATV ∧ 128 < x.2.2 then alphaOf s b d 1 else [],
    cfg := rreg s .blkCfg b.val, compat := isCompat s, inject := (s.blocks[b]).inject,
    chunk := 0, held := none, pairs := [], drained := 0, attempts := 0, replay := false, tail := false, tree := [] }

/-- Chunks of an instruction: one of 256 indices each, or a single pass for COMPAT and ATV (R66, R166, R300). -/
def ArrayJob.chunks (j : ArrayJob) : Nat := if j.compat || j.fin = .fold then 1 else (j.vk + 255) / 256

/-- Pair partials of an instruction (R67, R68). -/
def ArrayJob.nPairs (j : ArrayJob) : Nat := (j.chunks + 1) / 2

/-- The banks through which an instruction streams its operands (R109). -/
def streamed (d : BitVec 512) : List Nat :=
  [dOPA d, dOPB d].filterMap (fun r => if r.space = 0 then none else some r.bank)

/-- The tree slots of an instruction, by its KT (R111); ATS and ATV have none (Table 4.2). -/
def treeSlots (d : BitVec 512) : List Nat :=
  if isAttnOp (opOf d) then [] else (List.range (clog2 (pairsOf (dKT d)))).map (fun i => dTSB d + i)

/-- What the tree slots hold from when the array takes up the instruction (R69, R111, log 122). -/
def junkTree (s : State) (b : Fin 48) (d : BitVec 512) : State := (treeSlots d).foldl (fun s k => junkSlot s b k) s

/-- A streamed bank's contents are undefined after the instruction (R109). -/
def junkStreamed (s : State) (b : Fin 48) (d : BitVec 512) : State :=
  (streamed d).foldl (fun s k => junkBank s b k) s

/-- Zeros in every element that the form writes (R128). -/
def zeroSlot (s : State) (b : Fin 48) (d : BitVec 512) : State :=
  let rows := if opOf d = opMMV then 16 else 128
  modBlk s b (fun k => accPut k (dAcc d) 0 0 (List.replicate (rows * 128) 0))

/-- An array instruction with VM or VN of 0 is a counted no-op; one with VK of 0 follows R128 (R126, R128). -/
def arrayZero (s : State) (b : Fin 48) (d : BitVec 512) (x : Nat × Nat × Nat) : State :=
  if x.1 = 0 ∨ x.2.1 = 0 ∨ opOf d = opATS then retire (countNoop s b) b .array
  else
    let s := cfld s .blkNoopcnt b.val 31 16 1
    retire (if dOvw d then zeroSlot s b d else s) b .array

/-- The array takes up the instruction at the front of its queue: between two instructions a pending commit of the block's group
is applied (R45); then it reads the operands, once no stack that holds them is held, and starts at chunk 0. A zero-size
instruction forms no pair partial, so BLKn_CTL.INJECT stays for the next one (R102, log 124). -/
def startArray (op : Nat) (b : Fin 48) (u : Upset) (s : State) : State :=
  match front s b op with
  | none => s
  | some (e, l) =>
    if (s.blocks[b]).job.isSome ∨ readsWait s b l (fedTouches s b l e.word) then s
    else
      withUpset (configApply (.blk b) s) b e.idx u (fun s =>
        let x := extents s b l e.word
        if x.1 = 0 ∨ x.2.1 = 0 ∨ x.2.2 = 0 then arrayZero s b e.word x
        else
          match badRead s l (fedTouches s b l e.word) with
          | some bad => blkMemHalt s b e.idx bad
          | none =>
            let j := mkJob s b l e
            modBlk (junkTree (begin_ s b .array) b e.word) b (fun k => { k with job := some j, inject := false }))

/-- MMF (R58): one 128x128 product tile. -/
def execMmf (b : Fin 48) (u : Upset) (s : State) : Host.Outcome State Fault Refusal := .next (startArray opMMF b u s)

/-- MMH (R78): two 128x64 products that share their A operand. -/
def execMmh (b : Fin 48) (u : Upset) (s : State) : Host.Outcome State Fault Refusal := .next (startArray opMMH b u s)

/-- MMQ (R79, R747): four independent 64x64 products. -/
def execMmq (b : Fin 48) (u : Upset) (s : State) : Host.Outcome State Fault Refusal := .next (startArray opMMQ b u s)

/-- MMV (R80): an Mx128 product for M of 1-16. -/
def execMmv (b : Fin 48) (u : Upset) (s : State) : Host.Outcome State Fault Refusal := .next (startArray opMMV b u s)

/-- CVI (R214): implicit-GEMM convolution. -/
def execCvi (b : Fin 48) (u : Upset) (s : State) : Host.Outcome State Fault Refusal := .next (startArray opCVI b u s)

/-- CVD (R220): depthwise or grouped convolution. -/
def execCvd (b : Fin 48) (u : Upset) (s : State) : Host.Outcome State Fault Refusal := .next (startArray opCVD b u s)

/-! ### Chunks -/

/-- The starting value of an output under COMPAT: the slot's content (R300). -/
def compatStart (k : Block) (acc : Nat) (g : PartGeom) (i j : Nat) : Word :=
  k.accAt (accKey acc (g.r0 + i) (g.c0 + j))

/-- The partial of the job's chunk `c` (R66; the whole reduction for COMPAT and ATV). -/
def partialOf (k : Block) (j : ArrayJob) (c : Nat) : List PartVal :=
  if j.compat then compatPartial j (compatStart k j.acc)
  else if j.fin = .fold then foldPartial j
  else chunkPartial j c

/-- The pair partial of pair `q` of the job, from the operands (R67, R68, R88). -/
def pairOf (k : Block) (j : ArrayJob) (q : Nat) : List PartVal :=
  let x := partialOf k j (2 * q)
  if 2 * q + 1 < j.chunks then pairVals j.arith x (partialOf k j (2 * q + 1)) else x

/-- A pair has failed its checks and has not yet passed on replay: no new chunk is fed (R88). -/
def ArrayJob.held88 (j : ArrayJob) : Bool := (j.replay || decide (0 < j.attempts)) && !j.tail

/-- Whether a chunk is in progress: one is left, and an accumulator set is free for it (R88). -/
def ArrayJob.running (j : ArrayJob) : Bool :=
  decide (j.chunk < j.chunks) && decide (j.pairs.length + (if j.held.isSome then 1 else 0) < 4)

/-- The next chunk completes; an odd one is combined with its pair, and a last even one passes up unchanged
(R67, R68). Each output has four accumulator sets, and no chunk starts while they are taken. After a mismatch only the
chunk in progress completes, until the failed pair has passed on replay (R88). -/
def chunkComplete (b : Fin 48) (s : State) : State :=
  let k := s.blocks[b]
  match k.job with
  | none => s
  | some j =>
    if j.held88 ∨ !j.running ∨ stalled s then s
    else
      let x := partialOf k j j.chunk
      let j' : ArrayJob :=
        match j.held with
        | some h => { j with held := none, pairs := j.pairs ++ [(j.chunk / 2, pairVals j.arith h x)] }
        | none =>
          if j.chunk + 1 = j.chunks then { j with pairs := j.pairs ++ [(j.chunk / 2, x)] }
          else { j with held := some x }
      modBlk s b (fun k => { k with job := some { j' with chunk := j.chunk + 1, tail := false } })

/-- CHUNK_COMPLETE (R67). -/
def execChunkComplete (b : Fin 48) (s : State) : Host.Outcome State Fault Refusal := .next (chunkComplete b s)

/-! ### The final value -/

/-- Write a final value to slot ACC, one part at a time; with OVW = 0 it is first combined with the slot's content
as the left operand (R111, R343, R345). COMPAT has accumulated into the slot's value already (R300). -/
def writeSlot (k : Block) (j : ArrayJob) (v : List (List Word)) : Block :=
  (List.zip j.geom v).foldl (fun k gv =>
    let g := gv.1
    (List.range g.nr).foldl (fun k i =>
      let new := (gv.2.drop (i * g.nc)).take g.nc
      let old := accRow k j.acc (g.r0 + i) g.c0 g.nc
      let r : List Word × Bool := if j.ovw || j.compat then (new, false) else combineElts j.arith false old new
      let k := accPut k j.acc (g.r0 + i) g.c0 r.1
      { k with intSat := k.intSat || r.2 }) k) k

/-- The mask an ATS applies, in the terms of the MASK stage: kind from MKIND, parameters from the block
(Table 4.4). -/
def atsMask (s : State) (b : Fin 48) (l : Launch) (d : BitVec 512) (i j : Nat) : Bool :=
  let row := dM0 d + i
  let col := dN0 d + j
  match getF (apWord s b d 1) 2 0 with
  | 1 => causalOk row col (apWord s b d 2) (apWord s b d 3)
  | 2 => decide (col < maskLen l (apWord s b d 2))
  | 3 => decide ((sget zeroFill (s.blocks[b]).scratch (granule (apWord s b d 2) + 16 * i + j / 8)).toNat
      / 2 ^ (j % 8) % 2 = 1)
  | _ => true

/-- The score tile drains through SCALE, MASK and SOFTMAX into the P area, the α vector and the row state
(R162, R163). -/
def finishScore (s : State) (b : Fin 48) (l : Launch) (j : ArrayJob) (elts : List Word) : State :=
  let d := j.word
  let scl := apWord s b d 0
  let rows := (List.range j.vm).map (fun i =>
    (((elts.drop (i * 128)).take 128).zipIdx).map (fun x =>
      let y := fmul x.1 scl
      if atsMask s b l d i x.2 then y else negInf))
  let area := granule (apWord s b d 4)
  let f : Fmt := if apPfmt (apWord s b d 7) = 0 then .bf16 else .e4m3
  let e := eltBytes f 1
  let pg := granule (apWord s b d 5)
  let r := softmaxStage s b (aFirst d) area j.vn rows 0
  let h := dN0 d / 128 % 2
  (r.2.zipIdx).foldl (fun s row =>
    let codes := row.1.map (convert f none)
    let s := scratchPut s b (pg + (row.2 * 256 + dN0 d % 256) * e) (codes.flatMap (toLe e))
    scratchPut s b (pg + 128 * 256 * e + 512 * h + 4 * row.2)
      (toLe 4 (rowState s b area row.2).2.2.toNat)) r.1

/-- The value fold: OVW = 1 writes W, OVW = 0 replaces O by RNE(RNE(RNE(O x α₀) x α₁) + W) (R167, R168),
in each element of the slot, those beyond VM and VN too (log 146). -/
def finishFold (s : State) (b : Fin 48) (j : ArrayJob) (elts : List Word) : State :=
  let a0 := alphaOf s b j.word 0
  modBlk s b (fun k =>
    (List.range 128).foldl (fun k i =>
      let w := (elts.drop (i * 128)).take 128
      if j.ovw then accPut k j.acc i 0 w
      else
        let o := accRow k j.acc i 0 128
        let m (x y : Word) : Word := accRound [(val x).mul (val y)]
        accPut k j.acc i 0 (List.zipWith (fun o w =>
          combineF (m (m o (a0.getD i one32)) (j.alpha.getD i one32)) w) o w)) k)

/-- The last pair partial has passed: the instruction's value goes where its form says, streamed banks become
undefined, and the instruction retires (R109, R111). -/
def finishJob (s : State) (b : Fin 48) (l : Launch) (j : ArrayJob) : State :=
  let root := rootNode j.arith j.compat j.tree
  let s := modBlk s b (fun k => { k with intSat := k.intSat || root.2, job := none })
  let s := match j.fin with
    | .slot => modBlk s b (fun k => writeSlot k j root.1)
    | .score => finishScore s b l j (root.1.getD 0 [])
    | .fold => finishFold s b j (root.1.getD 0 [])
  retire (junkStreamed s b j.word) b .array

/-! ### Draining a pair partial -/

/-- Log a mismatch (R87, Table 2.14). -/
def logMismatch (s : State) (b : Fin 48) (j : ArrayJob) (pair : Nat) (w : WardResult) (attempts : Nat) : State :=
  let v := setF (setF (setF (setF (setF 0 31 31 1) 30 28 attempts) 27 20 (w.row.getD 0x80)) 19 12 (w.col.getD 0x80))
    11 0 pair
  wreg (wreg s .blkWardlog b.val v) .blkWardpc b.val (BitVec.ofNat 32 j.idx)

/-- Count an absorbed replay, and report WARD_RATE once a window when the count first exceeds RATE_LIM (R92). -/
def countReplay (s : State) (b : Fin 48) : State :=
  let s := lifeAdd (cfld s .blkWardcnt b.val 15 0 1) 24 (64 + 8 * physOf s b) 4 1
  let win := arrayCyc s / 2 ^ 32
  let k := s.blocks[b]
  let cnt := if k.rateWin = win then k.rateCnt + 1 else 1
  let sent := k.rateWin = win && k.rateSent
  let lim := rfld s .blkCfg b.val 23 16
  let fire : Bool := lim ≠ 0 && decide (lim < cnt) && !sent
  let s := modBlk s b (fun k => { k with rateWin := win, rateCnt := cnt, rateSent := sent || fire })
  if fire then reportEvent s 0x3C02 (k.lid.getD 0) (b.val + 256 * physOf s b) else s

/-- Whether taking pair partial `ps` into the tree makes the drain combine: with a sibling, at the root, or with the slot's
content (R69, R112, R168, R300). -/
def combines (j : ArrayJob) (ps : List PartVal) : Bool :=
  let t := (pushNode j.arith j.compat 32 j.tree (1, ps.map (·.elts))).1
  decide (t.length ≤ j.tree.length) ||
    (decide (j.drained + 1 = j.nPairs) &&
      (decide (2 ≤ t.length) || (!j.ovw && !j.compat && decide (j.fin ≠ .score))))

/-- WARD_PERSIST: the last permitted attempt failed (R91). The instruction ends, and the banks it streamed are undefined (R109). -/
def wardPersist (s : State) (b : Fin 48) (j : ArrayJob) : State :=
  let s := junkStreamed (modBlk s b (fun k => { k with job := none })) b j.word
  let s := lifeAdd (retire s b .array) 24 (64 + 8 * physOf s b + 4) 2 1
  blkHalt s b 0x3C01 j.idx (rreg s .blkWardlog b.val).toNat

/-- Apply an array upset to a drained partial. -/
def flipElt (ps : List PartVal) (part elt : Nat) (mask : BitVec 32) : List PartVal :=
  modAt ps part (fun p => { p with elts := modAt p.elts elt (· ^^^ mask) })

/-- A pair partial drains: the checks, then replay or escalation, or the next node of the tree (R72, R84-R91, R69,
R102). Where that makes the drain combine and its adders disagree twice, the block escalates (R70), its log showing no row and no
column (DESIGN CHOICE, log 149); with nothing to combine an adder upset shows nowhere (log 125). -/
def pairDrain (b : Fin 48) (u : DrainUpset) (s : State) : State :=
  let k := s.blocks[b]
  match k.job, k.lid.bind (findLaunch s) with
  | some j, some l =>
    match j.pairs with
    | [] => s
    | (q, ps) :: rest =>
      if j.replay ∨ stalled s then s
      else
        match u with
        | .buffer st =>
          junkStreamed (modBlk (bufUncorr s b j.idx st.val) b (fun k => { k with job := none, arrayQ := k.arrayQ.drop 1 })) b j.word
        | _ =>
          let ps := match u with | .flip p e m => flipElt ps p e m | _ => ps
          let w := wardTest j.arith (getF j.cfg 3 0) j.geom ps
          let inj : Bool := j.inject && q = 0 && j.attempts = 0
          let w := if inj then { w with row := none, col := none, corner := true } else w
          let s := cfld s .blkWardcnt b.val 31 16 w.skips
          if w.failed then
            let att := j.attempts + 1
            let s := logMismatch s b j q w att
            if getF j.cfg 5 4 < att then wardPersist s b j
            else modBlk (countReplay s b) b (fun k => { k with
              job := some { j with attempts := att, replay := true, tail := decide (j.attempts = 0) && j.running } })
          else if u = .adder true ∧ combines j ps then wardPersist (logMismatch s b j q w (j.attempts + 1)) b j
          else
            let t := pushNode j.arith j.compat 32 j.tree (1, ps.map (·.elts))
            let j' := { j with pairs := rest, drained := j.drained + 1, attempts := 0, tree := t.1 }
            let s := modBlk s b (fun k => { k with intSat := k.intSat || t.2, job := some j' })
            if j'.drained = j.nPairs then finishJob s b l j' else s
  | _, _ => s

/-- PAIR_PARTIAL_DRAIN (R72). -/
def execPairPartialDrain (b : Fin 48) (u : DrainUpset) (s : State) : Host.Outcome State Fault Refusal :=
  .next (pairDrain b u s)

/-- The failed pair is recomputed from the buffered operands by the same rules, once the chunk in progress has completed
(R88). -/
def wardReplay (b : Fin 48) (s : State) : State :=
  let s := if (s.blocks[b]).job.any (fun j => j.replay && j.tail) then chunkComplete b s else s
  let k := s.blocks[b]
  match k.job with
  | none => s
  | some j =>
    match j.replay && !stalled s, j.pairs with
    | true, (q, _) :: rest =>
      modBlk s b (fun k => { k with job := some { j with replay := false, pairs := (q, pairOf k j q) :: rest } })
    | _, _ => s

/-- WARD_REPLAY (R88). -/
def execWardReplay (b : Fin 48) (s : State) : Host.Outcome State Fault Refusal := .next (wardReplay b s)

/-- BLK_INJECT (R102): the first pair partial of the block's next array instruction fails its checks once. -/
def execBlkInject (b : Fin 48) (s : State) : Host.Outcome State Fault Refusal :=
  .next (modBlk s b (fun k => { k with inject := true }))

end Sys2Proof.Machine
end

