-- ==== Sys2Proof/Machine/Canopy.lean ====
section
/-! DEFINITION. The Canopy table and ragged batches: page lookup and fetch for ATS and ATV, the region caches,
invalidation and the bucket sort (04_attention_canopy.md, R162-R170, R182-R192, R199-R202). -/

namespace Sys2Proof.Machine

/-! ### Entries (Table 4.10) -/

/-- The table base of a region (Table 4.13). -/
def cnpTable (s : State) (r : Fin 8) : Nat := rfld s .cnpBase r.val 19 0 * 2 ^ 24

def eValid (e : BitVec 256) : Bool := bitsAt e 0 1 = 1
def eKind (e : BitVec 256) : Nat := bitsAt e 1 3
def eFmt (e : BitVec 256) : Nat := bitsAt e 4 4
def eDq (e : BitVec 256) : Nat := bitsAt e 8 4
def eFill (e : BitVec 256) : Nat := bitsAt e 12 9
def eTag (e : BitVec 256) : Nat := bitsAt e 32 32
def eOrd (e : BitVec 256) : Nat := bitsAt e 64 32
def eBase (e : BitVec 256) : Nat := bitsAt e 128 44

/-- Entry `i` (0-15) of the bytes of a table line. -/
def entryOf (bytes : List Byte) (i : Nat) : BitVec 256 := packBytes 256 ((bytes.drop (32 * i)).take 32)

/-! ### The region cache (R189-R192) -/

/-- First way and way count of a job slot (Table 4.16). -/
def cnpWays (s : State) (r : Fin 8) (job : Nat) : Nat × Nat :=
  let w := rreg s (if job < 2 then .rgnCnpways0 else .rgnCnpways1) r.val
  if job % 2 = 0 then (getF w 11 8, getF w 4 0) else (getF w 27 24, getF w 20 16)

/-- Whether a way belongs to a job slot. -/
def inWays (w : Nat × Nat) (x : Nat) : Bool := w.1 ≤ x && x < w.1 + w.2

/-- The cached line that a lookup of entry `e` hits: held in a way of the slot, with a valid copy of the entry
(R190, R191). -/
def cnpHit (g : Region) (w : Nat × Nat) (e : Nat) : Option CnpLine :=
  g.cache.find? (fun c => c.line = e / 16 && inWays w c.way && eValid (entryOf c.bytes (e % 16)))

/-- The way a fill takes: one that is free or holds this line already, else the least recently used (R190). -/
def cnpVictim (g : Region) (w : Nat × Nat) (line : Nat) : Nat :=
  let here := g.cache.filter (fun c => c.line % 16 = line % 16 && inWays w c.way)
  match here.find? (fun c => c.line = line) with
  | some c => c.way
  | none =>
    match (List.range w.2).find? (fun i => !(here.any (fun c => c.way = w.1 + i))) with
    | some i => w.1 + i
    | none => ((here.reverse.head?).map (·.way)).getD w.1

/-- Fill a line (R190, R191). -/
def cnpFill (g : Region) (w : Nat × Nat) (line : Nat) (bytes : List Byte) : Region :=
  let way := cnpVictim g w line
  { g with cache := { line := line, way := way, bytes := bytes } ::
      g.cache.filter (fun c => !(c.line % 16 = line % 16 && c.way = way)) }

/-! ### Page resolution (R186-R188) -/

/-- The ordinal of the page an ATS or ATV with FETCH resolves (R187). -/
def pageOrd (d : BitVec 512) : Nat := if opOf d = opATS then dN0 d / 256 else dK0 d / 256

/-- Word `w` of the page list (R185). -/
def plWord (s : State) (b : Fin 48) (d : BitVec 512) (w : Nat) : Nat :=
  (scratchWord s b (granule (apWord s b d 6) + 4 * w)).toNat

/-- The table index that the page list names. -/
def pageIndex (s : State) (b : Fin 48) (d : BitVec 512) : Nat := plWord s b d (2 + pageOrd d)

/-- Positions of the page below the effective key extent (R186). -/
def pageFill (s : State) (b : Fin 48) (l : Launch) (d : BitVec 512) : Nat :=
  min 256 (keyExtent s b l d - 256 * pageOrd d)

/-- CNP_RANGE (Table 4.11). -/
def cnpRange (s : State) (b : Fin 48) (d : BitVec 512) : Bool :=
  (plWord s b d 1 + 255) / 256 ≤ pageOrd d || decide (524288 ≤ pageIndex s b d) ||
    rfld s .cnpBase (rgnOf b).val 31 31 = 0

/-- The element and scale bytes a fetch reads: those of positions below the key extent (R183, Table 4.8). -/
def fetchRanges (f : Fmt) (dd n base : Nat) (v : Bool) : List (Nat × Nat) :=
  (base + pageEltOff f dd v, n * kvRow f dd) ::
    (if f.isMx then [(base + pageScaleOff f dd v, n * (dd / 32))] else [])

/-- Format and head dimension of the keys and values of an ATS or ATV. -/
def kvFmt (d : BitVec 512) : Fmt := (dFmtB d).getD .e4m3
def headDim (l : Launch) (d : BitVec 512) : Nat := if opOf d = opATS then extAt l d 12 else extAt l d 8

/-- The checks of an entry, in order: 2 CNP_INVALID, 3 CNP_MISMATCH, 4 CNP_SHORT, 5 CNP_BOUND (Table 4.11). -/
def cnpCheck (s : State) (b : Fin 48) (l : Launch) (d : BitVec 512) (e : BitVec 256) : Option Nat :=
  let sh := apWord s b d 7
  let n := pageFill s b l d
  let rs := fetchRanges (kvFmt d) (headDim l d) n (eBase e) (opOf d = opATV)
  if !eValid e || 1 < eKind e then some 2
  else if eTag e ≠ plWord s b d 0 ∨ eOrd e ≠ pageOrd d ∨ eFmt e ≠ apKvfmt sh ∨ eDq e ≠ apDq sh ∨ eKind e ≠ apKind sh then
    some 3
  else if eFill e < n then some 4
  else if rs.any (fun r => !(decide (r.1 + r.2 ≤ viewBase) && installed s r.1 r.2 && l.grants false r.1 r.2)) then some 5
  else none

/-- A Canopy fault of a block, whose index BLKn_TFPC takes (R125, R188, Table 4.15). -/
def cnpFault (s : State) (b : Fin 48) (code entry idx : Nat) : State :=
  let r := rgnOf b
  let v := setF (setF (setF (setF (rreg s .cnpFault r.val) 31 31 1) 30 28 code) 27 25 (b.val % 6)) 18 0 entry
  let s := wreg (wreg s .cnpFault r.val v) .blkTfpc b.val (BitVec.ofNat 32 idx)
  blkHalt (modBlk s b (fun k => { k with page := none })) b (0x3200 + code) idx v.toNat

/-- Load the page's K or V area into bank B: the valid rows, zero elements and scale bytes of 0x7F elsewhere
(R183). -/
def loadArea (s : State) (b : Fin 48) (l : Launch) (d : BitVec 512) (e : BitVec 256) : State :=
  let f := kvFmt d
  let dd := headDim l d
  let n := pageFill s b l d
  let v : Bool := opOf d = opATV
  let base := (dOPB d).addr
  let rb := kvRow f dd
  let elts := memBytes s (eBase e + pageEltOff f dd v) (n * rb) ++ List.replicate ((256 - n) * rb) 0
  let s := spPut s b (.bank 2) base (fullMask elts)
  if f.isMx then
    let sb := dd / 32
    spPut s b (.bank 2) (base + areaScaleOff f dd)
      (fullMask (memBytes s (eBase e + pageScaleOff f dd v) (n * sb) ++ List.replicate ((256 - n) * sb) 0x7F))
  else s

/-- With the page's entry in hand: the checks of Table 4.11, the fetch into bank B, and the start of the
instruction (R183, R187). -/
def withEntry (op : Nat) (b : Fin 48) (u : Upset) (s : State) (l : Launch) (e : UEntry) (ent : BitVec 256) : State :=
  let d := e.word
  match cnpCheck s b l d ent with
  | some c => cnpFault s b c (pageIndex s b d) e.idx
  | none =>
    let rs := fetchRanges (kvFmt d) (headDim l d) (pageFill s b l d) (eBase ent) (op = opATV)
    if rs.any (fun r => readWaits s r.1 r.2 l.job || readBehind s (.blk b) r.1 r.2) then
      modBlk s b (fun k => { k with page := some (.got (pageIndex s b d) ent) })
    else
    match rs.findSome? (fun r => firstBad s r.1 r.2 l.job) with
    | some bad => blkMemHalt s b e.idx bad
    | none => startArray op b u (modBlk (loadArea s b l d ent) b (fun k => { k with page := none }))

/-- A lookup of table entry `n` misses the region's cache: the block waits for its line, which is read once for all that wait
(R192). -/
def pageMiss (s : State) (b : Fin 48) (l : Launch) (n : Nat) : State :=
  let s := cfld s .cnpMiss (rgnOf b).val 31 0 1
  let s := modBlk s b (fun k => { k with page := some (.waiting n) })
  modRgn s (rgnOf b) (fun g =>
    if g.misses.any (fun m => m.line = n / 16) then
      { g with misses := g.misses.map (fun m =>
          if m.line = n / 16 then { m with waiters := m.waiters ++ [(b.val % 6, n)] } else m) }
    else
      { g with misses := g.misses ++
          [{ line := n / 16, job := l.job, lid := l.lid, waiters := [(b.val % 6, n)] }] })

/-- Resolve the page of an ATS or ATV with FETCH: a cache hit goes on at once, a miss waits for the table line
(R187, R190, R192). A cache word that is uncorrectable is invalidated, and the line read again (Table 15.2). -/
def resolvePage (op : Nat) (b : Fin 48) (u : Upset) (s : State) (l : Launch) (e : UEntry) : State :=
  let d := e.word
  let r := rgnOf b
  match (s.blocks[b]).page with
  | some (.got _ x) => withEntry op b u s l e x
  | some (.waiting _) => s
  | none =>
    if cnpRange s b d then cnpFault s b 1 (pageIndex s b d) e.idx
    else
      let n := pageIndex s b d
      let w := cnpWays s r l.job
      match cnpHit (s.regions[r]) w n with
      | some c =>
        if u = .region true then
          pageMiss (modRgn s r (fun g => { g with cache := g.cache.filter (fun x => x ≠ c) })) b l n
        else
          let s := cfld s .cnpHit r.val 31 0 1
          let s := modRgn s r (fun g => { g with cache := c :: g.cache.filter (fun x => x ≠ c) })
          withEntry op b u s l e (entryOf c.bytes (n % 16))
      | none => pageMiss s b l n

/-- Begin an ATS or ATV: with FETCH its page is resolved and loaded first, after the bucket sort of the launch
(R187, R202). -/
def startAttention (op : Nat) (b : Fin 48) (u : Upset) (s : State) : State :=
  match front s b op with
  | none => s
  | some (e, l) =>
    let x := extents s b l e.word
    if (s.blocks[b]).job.isSome ∨ x.1 = 0 ∨ x.2.1 = 0 ∨ x.2.2 = 0 ∨ !aFetch e.word then startArray op b u s
    else if l.fld 72 1 ≠ 0 ∧ !(s.regions[rgnOf b]).bucketsDone then s
    else resolvePage op b u s l e

/-- ATS (R162): forms an attention score tile and drains it through scale, mask and online softmax. -/
def execAts (b : Fin 48) (u : Upset) (s : State) : Host.Outcome State Fault Refusal :=
  .next (startAttention opATS b u s)

/-- ATV (R166): multiplies the probabilities by the values of one page and folds the result into O. -/
def execAtv (b : Fin 48) (u : Upset) (s : State) : Host.Outcome State Fault Refusal :=
  .next (startAttention opATV b u s)

/-! ### Fill and invalidation -/

/-- The logical blocks of a region whose lookups wait on a miss. -/
def missBlocks (r : Fin 8) (m : CnpMiss) : List (Fin 48 × Nat) :=
  m.waiters.map (fun w => (blkOf r (Fin.ofNat 6 w.1), w.2))

/-- CANOPY_CACHE_FILL (R192): the oldest miss's table line returns; every waiting lookup is served from it, and the
line is kept if a looked-up entry is valid (R191). An uncorrectable cache word makes the line be read again
(Table 15.2). -/
def cacheFill (r : Fin 8) (u : Upset) (s : State) : State :=
  match (s.regions[r]).misses with
  | [] => s
  | m :: rest =>
    let a := cnpTable s r + 512 * m.line
    let again : Bool := match u with | .region true => true | _ => false
    if again ∨ stalled s ∨ readWaits s a 512 m.job ∨ !crossMay s (halfOf r).val a then s
    else
      let s := modRgn (crossSend s (halfOf r).val a) r (fun g => { g with misses := rest })
      match firstBad s a 512 m.job with
      | some bad =>
        (missBlocks r m).foldl (fun s w =>
          let idx := ((((s.blocks[w.1]).arrayQ).head?).map (·.idx)).getD 0
          blkMemHalt (modBlk s w.1 (fun k => { k with page := none })) w.1 idx bad) s
      | none =>
        let bytes := memBytes s a 512
        let s := (missBlocks r m).foldl (fun s w =>
          modBlk s w.1 (fun k =>
            if k.page = some (.waiting w.2) then { k with page := some (.got w.2 (entryOf bytes (w.2 % 16))) }
            else k)) s
        let ways := cnpWays s r m.job
        if ways.2 ≠ 0 ∧ m.waiters.any (fun w => eValid (entryOf bytes (w.2 % 16))) then
          modRgn s r (fun g => cnpFill g ways m.line bytes)
        else s

def execCanopyCacheFill (r : Fin 8) (u : Upset) (s : State) : Host.Outcome State Fault Refusal :=
  .next (cacheFill r u s)

/-- Add an invalidation to every region's pending ones (R199). -/
def addInv (s : State) (e : Option Nat) : State :=
  { s with regions := s.regions.map (fun g => { g with inv := g.inv ++ [e] }) }

/-- Every region is to invalidate all entries (R200). -/
def invAll (s : State) : State := { s with regions := s.regions.map (fun g => { g with inv := [none] }) }

/-- Single-entry invalidations that some region has still to apply (Table 4.18). -/
def invQueued (s : State) : Nat :=
  (s.regions.toList.map (fun g => (g.inv.filter (·.isSome)).length)).foldl max 0

/-- CNP_INV_ENTRY (R200): queues the invalidation of one entry; with 64 pending the queue becomes one invalidation
of all entries. -/
def execCnpInvEntry (v : BitVec 32) (s : State) : Host.Outcome State Fault Refusal :=
  .next (if getF v 31 31 = 1 ∨ 64 ≤ invQueued s then invAll s else addInv s (some (getF v 18 0)))

/-- CNP_INV_ALL (R200). -/
def execCnpInvAll (s : State) : Host.Outcome State Fault Refusal := .next (invAll s)

/-- A cached line without its copy of one entry. -/
def dropEntry (e : Nat) (c : CnpLine) : CnpLine :=
  if c.line = e / 16 then
    { c with bytes := c.bytes.take (32 * (e % 16)) ++ List.replicate 32 0 ++ c.bytes.drop (32 * (e % 16) + 32) }
  else c

/-- CNP_INV_APPLY (R199): a region on which no launch runs applies its pending invalidations. -/
def cnpInvApply (r : Fin 8) (s : State) : State :=
  if (s.regions[r]).holder.isSome then s
  else modRgn s r (fun g =>
    { g with
      inv := [],
      cache := g.inv.foldl (fun c i => match i with | none => [] | some e => c.map (dropEntry e)) g.cache })

def execCnpInvApply (r : Fin 8) (s : State) : Host.Outcome State Fault Refusal := .next (cnpInvApply r s)

/-! ### The bucket sort (R201, R202) -/

/-- Fields of a roster entry (Table 9.2). -/
def roKlen (x : BitVec 512) : Nat := fld x 28 4
def roBkt (x : BitVec 512) : Nat := fld x 32 1
def roPlist (x : BitVec 512) : Nat := fld x 40 8 % 2 ^ 44

/-- Requests of bucket `k`, in roster order. -/
def bucket (l : Launch) (k : Nat) : List (BitVec 512) := l.roster.filter (fun x => roBkt x = k)

/-- The first bucket whose count differs from its shape slot (R202). -/
def bucketBad (l : Launch) : Option Nat :=
  (List.range (l.fld 72 1)).find? (fun k => l.slot (l.fld (416 + k) 1 % 64) ≠ some (bucket l k).length)

/-- Bytes of a page list, in whole granules. -/
def plistBytes (x : BitVec 512) : Nat := upTo (8 + 4 * ((roKlen x + 255) / 256)) 256

/-- BUCKET_SORT (R201): a stable counting sort of the roster by bucket; the page-list granules go to the region buffer
in bucket order. A count that differs from its shape slot halts the launch with BKT_COUNT (R202), whose LBLK shows 0 (DESIGN CHOICE,
log 166). -/
def bucketSort (r : Fin 8) (s : State) : State :=
  match (s.regions[r]).holder.bind (findLaunch s) with
  | none => s
  | some l =>
    if l.st ≠ .running ∨ l.fld 72 1 = 0 ∨ (s.regions[r]).bucketsDone ∨ stalled s then s
    else
      match bucketBad l with
      | some k =>
        let v := setF (setF (setF (setF (rreg s .cnpFault r.val) 31 31 1) 30 28 6) 27 25 0) 18 0 k
        haltLaunch (wreg s .cnpFault r.val v) l.lid 0x3206
          { blk := none32, place := r.val, idx := none32, reg := v.toNat }
      | none =>
        let order := (List.range (l.fld 72 1)).flatMap (bucket l)
        if order.any (fun x => readWaits s (roPlist x) (plistBytes x) l.job) then s
        else
        match order.findSome? (fun x => firstBad s (roPlist x) (plistBytes x) l.job) with
        | some bad =>
          let s := logMem s bad.1 (if bad.2 then 1 else 2)
          let st := dpaStack s bad.1
          haltLaunch s l.lid (memFaultCode bad.2)
            { blk := none32, place := st, idx := none32, reg := (rreg s .stkElog st).toNat }
        | none =>
          let bytes := order.flatMap (fun x => memBytes s (roPlist x) (plistBytes x))
          let base := (Config.bucketBase l.hdr r).val
          modRgn s r (fun g =>
            { g with
              bucketsDone := true,
              rbuf := sput zeroFill g.rbuf base (bytes.take (Space.rbuf.size - base)) })

def execBucketSort (r : Fin 8) (s : State) : Host.Outcome State Fault Refusal := .next (bucketSort r s)

end Sys2Proof.Machine
end

