-- ==== Sys2Proof/Machine/Lists.lean ====
section
/-! DEFINITION. What the list engines share (SCE, RVE, sampler, stream engine): reading entries, checking and making
accesses, halting, and flag waits and increments (05_convolution_vae.md, R225-R230, R233, R752; R326, R452, R753). -/

namespace Sys2Proof.Machine

/-! ### Runs -/

/-- The run of a list engine; other units have none. -/
def getRun (s : State) (q : WaitUnit) : ListRun :=
  match q with
  | .sce r => (s.regions[r]).sce
  | .rve r => (s.regions[r]).rve
  | .smp h => (s.halves[h]).smp
  | .vse h => (s.halves[h]).vse
  | _ => ListRun.idle

def modRun (s : State) (q : WaitUnit) (f : ListRun → ListRun) : State :=
  match q with
  | .sce r => modRgn s r (fun g => { g with sce := f g.sce })
  | .rve r => modRgn s r (fun g => { g with rve := f g.rve })
  | .smp h => modHalf s h (fun g => { g with smp := f g.smp })
  | .vse h => modHalf s h (fun g => { g with vse := f g.vse })
  | _ => s

/-- The current 64-byte entry of a list. -/
def entryAt (s : State) (u : ListRun) : BitVec 512 := packBytes 512 (memBytes s (u.base + 64 * u.idx) 64)

/-- Whether an engine stands inside an SADD with ARRIVE set, which no stop cuts (Table 9.4); a fault ends it (R655). -/
def midArrive (s : State) (u : ListRun) : Bool :=
  !u.stopped && decide (u.part ≠ 0) && decide (fld (entryAt s u) 0 1 = 0x4D) && decide (fld (entryAt s u) 1 1 / 2 % 2 = 1)

/-- The run and launch of an engine that may begin its current entry or the next part of it: dispatched for a running launch, or
inside what no stop cuts; not stopped, not at its END, not waiting on a flag, while launches do not stand still and the entry's
stack is not held (R30, R380, R425). -/
def active (s : State) (q : WaitUnit) : Option (ListRun × Launch) :=
  let u := getRun s q
  if u.stopped ∨ u.finished ∨ u.waiting.isSome then none
  else ((u.lid.bind (findLaunch s)).filter (fun l =>
    (decide (l.st = .running) || midArrive s u) && !stalled s && !readWaits s (u.base + 64 * u.idx) 64 l.job)).map (fun l => (u, l))

/-- Whether the bytes of the current entry lie in memory that exists (R753). -/
def entryThere (s : State) (u : ListRun) : Bool :=
  u.base + 64 * u.idx + 64 ≤ viewBase && installed s (u.base + 64 * u.idx) 64

/-- The next entry becomes current. -/
def nextEntry (s : State) (q : WaitUnit) : State :=
  modRun s q (fun u => { u with idx := u.idx + 1, waiting := none, ready := [], part := 0 })

/-- The next part of the current entry becomes current (Table 9.4). -/
def nextPart (s : State) (q : WaitUnit) : State := modRun s q (fun u => { u with part := u.part + 1 })

/-! ### Where a unit's fault is reported -/

/-- Blocks, regions and halves as R758 names a unit's place. -/
def placeOf (s : State) (q : WaitUnit) : Nat :=
  match q with
  | .blk b => physOf s b
  | .sce r | .rve r => r.val
  | .smp h | .vse h => h.val
  | _ => none32

/-- Stop a unit and halt its launch with a fault whose register holds `reg` (R240, R289, R332, R565). -/
def unitHalt (s : State) (q : WaitUnit) (lid : BitVec 32) (code idx reg : Nat) (more : List Byte := []) : State :=
  match q with
  | .blk b => blkHalt s b code idx reg more
  | q => haltLaunch (modRun s q (fun u => { u with stopped := true })) lid code
      { blk := none32, place := placeOf s q, idx := idx, reg := reg, more := more }

/-- A bad burst met by a list engine (R419, R420): it is counted and logged, and the launch halts. -/
def unitMemHalt (s : State) (q : WaitUnit) (lid : BitVec 32) (idx : Nat) (bad : Nat × Bool) : State :=
  let s := logMem s bad.1 (if bad.2 then 1 else 2)
  let st := dpaStack s bad.1
  haltLaunch (modRun s q (fun u => { u with stopped := true })) lid (if bad.2 then 0x3A01 else 0x3A02)
    { blk := none32, place := st, idx := idx, reg := (rreg s .stkElog st).toNat }

/-- Run a command of a list engine unless its accesses met an error of Table 15.2: an uncorrectable word of the region buffer or of the
fabric halts the launch, a corrected one is counted; of a burst that fails both of its reads the command gets no byte (R418). An engine
that does nothing now, or stands at an entry of another opcode, meets none. -/
def unitUpset (s : State) (q : WaitUnit) (mine : Nat → Bool) (u : Upset) (k : State → State) : State :=
  match (active s q).filter (fun x => mine (fld (entryAt s x.1) 0 1)) with
  | none => k s
  | some (x, l) =>
    match u with
    | .region true => unitHalt s q l.lid 0x3E02 x.idx 0
    | .fabric true => unitHalt s q l.lid 0x3E01 x.idx 0
    | .region false => k (cfld s .hltEcc 0 15 0 1)
    | .fabric false => k (cfld s .hltEcc 0 31 16 1)
    | .memory dpa => k (damage s dpa)
    | _ => k s

/-! ### Accesses of a unit of a region -/

/-- A range of bytes a unit reads or writes. -/
structure Range where
  sp : Space
  write : Bool
  addr : Nat
  len : Nat
  deriving DecidableEq, Repr

/-- Whether a range lies inside its space and, in memory, inside the installed capacity and the launch's grants; the
compressed-view range is outside for every unit that has no window access (R239, R256, R289, R325, R332, R353). -/
def Range.ok (s : State) (l : Launch) (x : Range) : Bool :=
  x.len = 0 ||
  match x.sp with
  | .mem => x.addr + x.len ≤ viewBase && installed s x.addr x.len && l.grants x.write x.addr x.len
  | sp => x.addr + x.len ≤ sp.size

/-- The first bad burst that the reads among some ranges meet. -/
def rangeBad (s : State) (l : Launch) (xs : List Range) : Option (Nat × Bool) :=
  xs.findSome? (fun x => if x.sp = .mem ∧ !x.write then firstBad s x.addr x.len l.job else none)

/-- Whether a read of a unit among some ranges waits: for a held stack, or behind the unit's own stores across the Hinge (R27, R425). -/
def rangeWaits (s : State) (q : WaitUnit) (l : Launch) (xs : List Range) : Bool :=
  xs.any (fun x => x.sp = .mem && !x.write && (readWaits s x.addr x.len l.job || readBehind s q x.addr x.len))

/-- Bytes of region `r`'s buffer or of memory. -/
def readSp (s : State) (r : Fin 8) (sp : Space) (a n : Nat) : List Byte :=
  match sp with
  | .mem => viewBytes s a n
  | _ => srange zeroFill (s.regions[r]).rbuf a n

/-- `n` binary32 words. -/
def readWords (s : State) (r : Fin 8) (sp : Space) (a n : Nat) : List Word :=
  let bs := readSp s r sp a (4 * n)
  (List.range n).map (fun i => BitVec.ofNat 32 (leAt bs (4 * i) 4))

/-- Write bytes to region `r`'s buffer, or issue them as stores of unit `q` to memory (R410). -/
def writeSp (s : State) (q : WaitUnit) (lid : BitVec 32) (r : Fin 8) (sp : Space) (a : Nat) (bs : List (Byte × Byte)) :
    State :=
  match sp with
  | .mem => issue s q lid a bs
  | _ => modRgn s r (fun g =>
      { g with rbuf := sput zeroFill g.rbuf a (mergeMask (srange zeroFill g.rbuf a bs.length) bs) })

/-- Binary32 words as bytes. -/
def wordBytes (ws : List Word) : List Byte := ws.flatMap (fun w => toLe 4 w.toNat)

/-- The lowest byte offset at which a field of a descriptor is at fault. -/
def lowest (l : List (Bool × Nat)) : Option Nat :=
  l.foldl (fun m x => if x.1 then some (match m with | none => x.2 | some y => min x.2 y) else m) none

/-- Whether `n` bytes of a descriptor from byte `b` hold a bit outside a mask. -/
def extra (d : BitVec 512) (b n mask : Nat) : Bool := fld d b n &&& (2 ^ (8 * n) - 1 - mask) ≠ 0

/-- Reserved bits in `n` bytes from byte `b`, outside a mask: each byte counts for itself (log 54). -/
def resv (d : BitVec 512) (b n mask : Nat) : List (Bool × Nat) :=
  (List.range n).map (fun k => (extra d (b + k) 1 (mask / 256 ^ k % 256), b + k))

/-- An operand reference is to the region buffer or memory (SPACE 2 or 3). -/
def ref23 (d : BitVec 512) (b : Nat) : Bool := 2 ≤ (refAt d b).space

/-! ### Flags -/

/-- The value of a flag of a region (R223). -/
def flagVal (s : State) (r : Fin 8) (f : Fin 64) : Nat := (sget zeroFill (s.regions[r]).flags f.val).toNat

/-- A field of SRC and UNIT of RGNn_FLAGFAULT, and the region whose register records a unit's flag fault (R752). -/
def flagSrc (q : WaitUnit) (rgn : Fin 8) : Fin 8 × Nat × Nat :=
  match q with
  | .blk b => (rgnOf b, b.val % 6, 0)
  | .sce r => (r, 6, 0)
  | .rve r => (r, 7, 0)
  | .smp h => (rgn, 7, 1 + h.val)
  | .vse h => (rgn, 7, 3 + h.val)
  | _ => (rgn, 7, 0)

/-- FLAG_OVERFLOW (code 1) or FLAG_TIMEOUT (code 2): recorded, and the launch halts (R229, R230, R752). -/
def flagFault (s : State) (q : WaitUnit) (lid : BitVec 32) (idx code : Nat) (rgn : Fin 8) (f : Fin 64)
    (more : List Byte := []) : State :=
  let x := flagSrc q rgn
  let v := setF (setF (setF (setF (setF (setF (rreg s .rgnFlagfault x.1.val) 31 31 1) 30 29 code) 28 26 x.2.1)
    15 12 x.2.2) 11 9 rgn.val) 5 0 f.val
  unitHalt (wreg s .rgnFlagfault x.1.val v) q lid (0x3300 + code) idx v.toNat more

/-- Stores of a unit that no controller has accepted. -/
def storesOf (s : State) (q : WaitUnit) : Nat := (s.mem.stores.filter (fun p => p.src = q)).length

/-- Ask for an increment of a flag once the unit's stores so far have been accepted (R225, R245, R331, R354). -/
def askFlag (s : State) (q : WaitUnit) (lid : BitVec 32) (idx : Nat) (rgn : Fin 8) (f : Fin 64) (n : Nat) : State :=
  { s with flagReqs := s.flagReqs ++
      [{ src := q, idx := idx, lid := lid, rgn := rgn, flag := f, inc := n, before := storesOf s q }] }

/-- Whether the current entry of an RVE list is a TADD with WAIT, and which of its partials the flags of its region have ready, in
ascending index (R349). -/
def readyParts (s : State) (r : Fin 8) (d : BitVec 512) : List Nat :=
  if fld d 0 1 = 0x4C ∧ fld d 1 1 % 2 = 1 then
    (List.range (min 64 (fld d 4 4))).filter (fun i => fld d 12 4 ≤ flagVal s r (Fin.ofNat 64 (fld d 2 1 % 64 + i)))
  else []

/-- The partials that an RVE waiting in TADD has ready join those before, which keeps the order in which they became ready
(R350). -/
def noteReady (s : State) (r : Fin 8) : State :=
  let u := (s.regions[r]).rve
  if u.waiting.isNone then s
  else modRun s (.rve r) (fun u => { u with
    ready := u.ready ++ ((readyParts s r (entryAt s u)).filter (fun i => !u.ready.any (·.1 = i))).map (fun i => (i, s.cyc)) })

/-- Begin a wait of a list engine on a flag that is below its target (R226, R244, R331, R349). -/
def beginWait (s : State) (q : WaitUnit) (l : Launch) (rgn : Fin 8) (f : Fin 64) (target : Nat) : State :=
  modRun s q (fun u => { u with waiting := some { rgn := rgn, flag := f, target := target, since := l.ran } })

/-- The wait of a list engine ends once its flag reaches the target (R226). -/
def endWait (s : State) (q : WaitUnit) : State :=
  let u := getRun s q
  match u.waiting, (u.lid.bind (findLaunch s)).filter (fun l => decide (l.st = .running) && !stalled s) with
  | some w, some _ => if w.target ≤ flagVal s w.rgn w.flag then modRun s q (fun u => { u with waiting := none }) else s
  | _, _ => s

end Sys2Proof.Machine
end

