-- ==== Sys2Proof/Machine/Move.lean ====
section
/-! DEFINITION. Loads, stores and broadcasts of tiles: LDT and STT (03_tiles_drain.md, R114, R129-R138; 05_convolution_vae.md,
R249-R258). -/

namespace Sys2Proof.Machine

/-- The element codes and scale bytes of the valid columns of one tensor row at byte `a` (R105, R114). -/
def tensorCodes (s : State) (b : Fin 48) (sp : Space) (f : Fmt) (a ec c0 cnt : Nat) : List Nat × List Byte :=
  let bytes := spBytes s b sp (a + c0 * f.bits / 8) (eltBytes f cnt)
  ((List.range cnt).map (eltCode f bytes),
   if f.isMx then spBytes s b sp (a + scaleOff f ec + c0 / 32) ((cnt + 31) / 32) else [])

/-- The rows an LDT writes: destination byte and masked bytes. Elements that are not valid are zero, and a scale whose
block holds no valid element is 0x7F (R129). -/
def ldtRows (s : State) (b : Fin 48) (l : Launch) (d : BitVec 512) : List (Nat × List (Byte × Byte)) :=
  let f := (lFmt d).getD .bf16
  let src := lSrc d
  let dst := lDst d
  let v := tileExtents l d
  let tc := lTC d
  (List.range (lTR d)).flatMap (fun i =>
    let x := if i < v.1 then
        tensorCodes s b src.sp f (tensorRow d src (lRow0 d + i)) (extAt l d 8) (lCol0 d) v.2
      else ([], [])
    let a := dst.addr + i * dst.stride * 64
    let elts := (a, packRow f (x.1 ++ List.replicate (tc - x.1.length) 0))
    if f.isMx then
      [elts, (a + scaleOff f tc, fullMask (x.2 ++ List.replicate ((tc + 31) / 32 - x.2.length) 0x7F))]
    else [elts])

/-- Write rows of masked bytes to a space of a block. -/
def putRows (s : State) (b : Fin 48) (sp : Space) (rows : List (Nat × List (Byte × Byte))) : State :=
  rows.foldl (fun s r => spPut s b sp r.1 r.2) s

/-- The logical blocks (0-5) that take part in a broadcast (R136). -/
def participants (d : BitVec 512) : List (Fin 6) :=
  ((List.finRange 6)).filter (fun j => lMask d / 2 ^ j.val % 2 = 1)

/-- A block issues its LDT of a broadcast: it joins the broadcast of the same descriptor, or begins one (R136). -/
def joinBcast (s : State) (b : Fin 48) (l : Launch) (d : BitVec 512) : State :=
  let j := b.val % 6
  modRgn s (rgnOf b) (fun r =>
    if r.bcasts.any (fun c => c.word = d && c.data.isNone) then
      { r with bcasts := r.bcasts.map (fun c =>
          if c.word = d ∧ c.data.isNone then { c with issued := insertNat j c.issued } else c) }
    else
      { r with bcasts := r.bcasts ++
          [{ word := d, issued := [j], lid := l.lid, since := l.ran, data := none, left := [] }] })

/-- Whether the load unit must leave the destination of an LDT alone for now: an attention instruction in progress has
released bank B and its pair partial has not passed its checks (R89, R165). -/
def bankHeld (s : State) (b : Fin 48) (d : BitVec 512) : Bool :=
  (lDst d).sp = .bank 2 && (s.blocks[b]).job.any (fun j => j.fin ≠ .slot)

/-- LDT (R129): loads a tile into a bank or the scratchpad. With BCAST it waits for the region buffer to send the tile
(R136). Where source and destination overlap, every row is read before any is written (log 132). -/
def execLdt (b : Fin 48) (u : Upset) (s : State) : Host.Outcome State Fault Refusal :=
  match front s b opLDT with
  | none => .next s
  | some (e, l) =>
    .next (if bankHeld s b e.word ∨ readsWait s b l (touches s b l e.word) then s else withUpset s b e.idx u (fun s =>
      let v := tileExtents l e.word
      if v.1 = 0 ∨ v.2 = 0 then retire (countNoop s b) b .load
      else if lBcast e.word then begin_ (joinBcast s b l e.word) b .load
      else
        match badRead s l (touches s b l e.word) with
        | some bad => blkMemHalt s b e.idx bad
        | none => retire (putRows s b (lDst e.word).sp (ldtRows s b l e.word)) b .load))

/-- Deliver a broadcast tile to one participant, whose LDT then completes (R136). -/
def deliver (s : State) (r : Fin 8) (d : BitVec 512) (rows : List (Nat × List (Byte × Byte))) (j : Fin 6) : State :=
  retire (putRows s (blkOf r j) (lDst d).sp rows) (blkOf r j) .load

/-- Deliver a broadcast that has been sent to those of its remaining participants that are on a physical block now and whose
bank may be written (R89, R138). -/
def deliverHosted (s : State) (r : Fin 8) (c : Bcast) (rows : List (Nat × List (Byte × Byte))) : State × List Nat :=
  let js := (participants c.word).filter (fun j => j.val ∈ c.left && hostedNow s (blkOf r j) && !bankHeld s (blkOf r j) c.word)
  (js.foldl (fun s j => deliver s r c.word rows j) s, c.left.filter (fun j => !(js.any (fun i => i.val = j))))

/-- Deliver every broadcast of a region that has been sent, as far as its participants are hosted (R138). -/
def deliverAll (s : State) (r : Fin 8) : State :=
  let step (a : State × List Bcast) (c : Bcast) : State × List Bcast :=
    match c.data with
    | none => (a.1, a.2 ++ [c])
    | some rows =>
      let x := deliverHosted a.1 r c rows
      (x.1, if x.2 = [] then a.2 else a.2 ++ [{ c with left := x.2 }])
  let x := ((s.regions[r]).bcasts).foldl step (s, [])
  modRgn x.1 r (fun g => { g with bcasts := x.2 })

/-- Whether every participant of a broadcast has issued its LDT, and the tile has not been sent (R136). -/
def Bcast.ready (c : Bcast) : Bool :=
  c.data.isNone && (participants c.word).all (fun j => j.val ∈ c.issued)

/-- The launch whose broadcast may go on. -/
def bcastLaunch (s : State) (c : Bcast) : Option Launch :=
  (findLaunch s c.lid).filter (fun l => l.st.mayBegin && !stalled s)

/-- BCAST_SEND (R136): the region buffer reads the source once and sends the tile of the first broadcast whose
participants have all issued. A fault of the source is reported by the block of its first participant. -/
def bcastSend (r : Fin 8) (u : Upset) (s : State) : State :=
  match ((s.regions[r]).bcasts).find? (fun c => c.ready && (bcastLaunch s c).isSome) with
  | none => s
  | some c =>
    match bcastLaunch s c with
    | none => s
    | some l =>
      let js := participants c.word
      let b := blkOf r (js.headD 0)
      let idx := (((s.blocks[b]).loadQ.head?).map (·.idx)).getD 0
      let ts := touches s b l c.word
      if readsWait s b l ts then s
      else withUpset s b idx u (fun s =>
        match badRead s l ts with
        | some bad => blkMemHalt s b idx bad
        | none =>
          let c' : Bcast := { c with data := some (ldtRows s b l c.word), left := js.map (·.val) }
          deliverAll (modRgn s r (fun g => { g with bcasts := g.bcasts.map (fun x => if x = c then c' else x) })) r)

def execBcastSend (c : RgnCmd) (s : State) : Host.Outcome State Fault Refusal := .next (bcastSend c.r c.u s)

/-- Record a tile fault in BLKn_TFAULT and BLKn_TFPC (R125, Tables 3.11, 3.12). -/
def recordTfault (s : State) (b : Fin 48) (code off aux idx : Nat) : State :=
  let v := setF (setF (setF (setF (rreg s .blkTfault b.val) 31 31 1) 23 16 code) 15 8 off) 7 0 aux
  wreg (wreg s .blkTfault b.val v) .blkTfpc b.val (BitVec.ofNat 32 idx)

/-- The blocks that a broadcast still waits for (R137). -/
def Bcast.missing (c : Bcast) : List (Fin 6) := (participants c.word).filter (fun j => !(j.val ∈ c.issued))

/-- BCAST_TIMEOUT (R137): a participant has not issued in time. The fault is recorded for each block that had not
issued (log 39), and the launch halts. The report names those blocks as BARRIER_TIMEOUT does (log 129). -/
def bcastTimeout (r : Fin 8) (s : State) : State :=
  let due (c : Bcast) : Bool :=
    match findLaunch s c.lid with
    | some l => c.data.isNone && c.missing ≠ [] && l.st = .running &&
        decide (c.since + timeout s (turnMode s r.val) ≤ l.ran)
    | none => false
  match ((s.regions[r]).bcasts).find? due with
  | none => s
  | some c =>
    let s := c.missing.foldl (fun s j =>
      recordTfault s (blkOf r j) 0x09 0 0 (rreg s .blkPc (blkOf r j).val).toNat) s
    let b := blkOf r (c.missing.headD 0)
    haltLaunch s c.lid 0x3109
      { blk := b.val, place := physOf s b, idx := (rreg s .blkPc b.val).toNat, reg := (rreg s .blkTfault b.val).toNat,
        more := toLe 8 ((c.missing.map (fun j => 2 ^ (blkOf r j).val)).sum) }

def execBcastTimeout (r : Fin 8) (s : State) : Host.Outcome State Fault Refusal := .next (bcastTimeout r s)

/-! ### STT -/

/-- Stores of a row of values into a compression window: every block touched, in full (R249-R251, R254). -/
def frcRow (w : FrcWin) (a : Nat) (xs : List Num) : List (Nat × List Byte × Bool) :=
  (List.range ((xs.length + 15) / 16)).map (fun k =>
    let code := frcEncode w ((xs.drop (16 * k)).take 16)
    (w.codeAt (a - w.base + 32 * k), toLe w.codeBytes code, decide (code % 256 = 0xFF)))

/-- Store one row of an STT at byte `a` of memory: encoded in a window, as bytes elsewhere (R132, R250). -/
def storeRow (s : State) (b : Fin 48) (lid : BitVec 32) (idx : Nat) (f : Fmt) (a : Nat) (codes : List Nat) : State :=
  if a < viewBase then issue s (.blk b) lid a (packRow f codes) idx
  else
    match winAt s a with
    | none => s
    | some w =>
      (frcRow (frcWin s w) a (codes.map (decodeElt f))).foldl (fun s c =>
        let s := if c.2.2 then cfld s .memFrcStat 0 15 0 1 else s
        issue s (.blk b) lid c.1 (fullMask c.2.1) idx) s

/-- The stores of an STT: valid elements, and the scale of each block that holds one (R132, R133). -/
def storeTile (s : State) (b : Fin 48) (l : Launch) (idx : Nat) (d : BitVec 512) : State :=
  let f := (lFmt d).getD .bf16
  let src := lSrc d
  let dst := lDst d
  let v := tileExtents l d
  (List.range v.1).foldl (fun s i =>
    let x := tensorCodes s b src.sp f (src.addr + i * src.stride * 64) (lTC d) 0 v.2
    let a := tensorRow d dst (lRow0 d + i)
    let e := a + lCol0 d * f.bits / 8
    let c := a + scaleOff f (extAt l d 8) + lCol0 d / 32
    match dst.sp with
    | .mem =>
      let s := storeRow s b l.lid idx f e x.1
      if f.isMx then issue s (.blk b) l.lid c (fullMask x.2) idx else s
    | sp =>
      let s := spPut s b sp e (packRow f x.1)
      if f.isMx then spPut s b sp c (fullMask x.2) else s) s

/-- STT (R132): stores the valid elements of a tile. -/
def execStt (b : Fin 48) (u : Upset) (s : State) : Host.Outcome State Fault Refusal :=
  match front s b opSTT with
  | none => .next s
  | some (e, l) =>
    .next (withUpset s b e.idx u (fun s =>
      let v := tileExtents l e.word
      if v.1 = 0 ∨ v.2 = 0 then retire (countNoop s b) b .drain
      else retire (storeTile s b l e.idx e.word) b .drain))

end Sys2Proof.Machine
end

