-- ==== Sys2Proof/Machine/Sequencer.lean ====
section
/-! DEFINITION. The sequencer of a block: line fetch, resources, dispatch, FIN (02_block_array.md, R94-R99, R746;
R103, R123-R128). -/

namespace Sys2Proof.Machine

/-! ### Fetch -/

/-- Where the program of a logical block starts (PROG, Table 9.1). -/
def progRef (l : Launch) (b : Fin 48) : OpRef := opRef (l.fld (512 + 8 * b.val) 8)

/-- The instruction of index `idx` of a block's program, and what its fetch met (R746). `bad` is the bad burst of its
line, if there is one. -/
def fetchWord (s : State) (b : Fin 48) (r : OpRef) (bad : Option (Nat × Bool)) (idx : Nat) : IqEntry :=
  let a := r.addr + 64 * idx
  match r.sp with
  | .rbuf =>
    { idx := idx, word := packBytes 512 (spBytes s b .rbuf a 64),
      err := if a + 64 ≤ Space.rbuf.size then .ok else .bound }
  | _ =>
    { idx := idx, word := packBytes 512 (memBytes s a 64),
      err := if ¬ (a + 64 ≤ viewBase ∧ installed s a 64) then .bound
        else match bad with
          | some x => .mem x.1 x.2
          | none => .ok }

/-- The instructions of one line fetch: from index `i` to the end of its 1,024-byte line, lines counted from the start of
the program (R94, log 126). -/
def fetchLine (s : State) (b : Fin 48) (l : Launch) (i : Nat) : List IqEntry :=
  let r := progRef l b
  let bad := if r.sp = .mem then firstBad s (r.addr + 1024 * (i / 16)) 1024 l.job else none
  (List.range (16 - i % 16)).map (fun k => fetchWord s b r bad (i + k))

/-- Whether a line fetch waits for a held stack, or behind the block's own stores across the Hinge (R27, R425). -/
def fetchWaits (s : State) (b : Fin 48) (l : Launch) (i : Nat) : Bool :=
  let r := progRef l b
  let a := r.addr + 1024 * (i / 16)
  r.sp = .mem && (readWaits s a 1024 l.job || readBehind s (.blk b) a 1024)

/-- The launch of a block that may dispatch: running, on a physical block, neither stopped nor at its end, while launches do not
stand still (R30). -/
def blkRunning (s : State) (b : Fin 48) : Option Launch :=
  let k := s.blocks[b]
  if k.stopped ∨ k.finished ∨ !hostedNow s b ∨ stalled s then none
  else (k.lid.bind (findLaunch s)).filter (fun l => l.st = .running)

/-- A bad burst that a line fetch meets is counted and logged at the fetch (R418, R746). -/
def fetchLog (s : State) (b : Fin 48) (l : Launch) (i : Nat) : State :=
  let r := progRef l b
  match if r.sp = .mem then firstBad s (r.addr + 1024 * (i / 16)) 1024 l.job else none with
  | some bad => logMem s bad.1 (if bad.2 then 1 else 2)
  | none => s

/-- What the fetch itself takes of an upset: an uncorrectable word of the region buffer or of the fabric shows only at dispatch
(R746). -/
def upsetCounted : Upset → Upset
  | .region true | .fabric true => .none
  | u => u

/-- What such a word makes of the line fetched with it: each instruction of the line is unusable. -/
def upsetSpoils (u : Upset) (e : IqEntry) : IqEntry :=
  match u, e.err with
  | .region true, .ok => { e with err := .upset false }
  | .fabric true, .ok => { e with err := .upset true }
  | _, _ => e

/-- LINE_FETCH (R94): a line enters the instruction queue when 16 of its 32 entries are free. What the fetch met waits for the
dispatch of an instruction of the line (R746, log 150). -/
def execLineFetch (b : Fin 48) (u : Upset) (s : State) : Host.Outcome State Fault Refusal :=
  .next (match blkRunning s b with
    | none => s
    | some l =>
      if 16 < (s.blocks[b]).iq.length ∨ fetchWaits s b l (s.blocks[b]).nextFetch then s
      else withUpset s b (s.blocks[b]).nextFetch (upsetCounted u) (fun s =>
        let i := (s.blocks[b]).nextFetch
        let line := (fetchLine s b l i).map (upsetSpoils u)
        modBlk (fetchLog s b l i) b (fun k => { k with iq := k.iq ++ line, nextFetch := i + (16 - i % 16) })))

/-! ### Resources (R97) -/

/-- A resource of R97: a bank, an accumulator slot, a flag, or a run of scratchpad granules. -/
inductive Res where
  | bank (k : Nat) | slot (k : Nat) | flag (r f : Nat) | granules (lo hi : Nat)
  deriving DecidableEq, Repr

/-- Whether two resources share something. -/
def Res.meets : Res → Res → Bool
  | .granules a b, .granules c d => a ≤ d && c ≤ b
  | x, y => x = y

/-- The STALL code of a resource (Table 2.11). -/
def Res.stall : Res → Nat
  | .bank k => if k = 2 then 3 else 2
  | .slot _ => 4
  | .granules _ _ => 5
  | .flag _ _ => 6

/-- The granules of a range of scratchpad bytes. -/
def granulesOf (a n : Nat) : Res := .granules (a / 256) ((a + n - 1) / 256)

/-- Resources that operand references and areas give, each with whether it is written. -/
def touchUses (ts : List Touch) : List (Res × Bool) :=
  ts.filterMap (fun t => match t.sp with
    | .bank k => some (.bank k, t.write)
    | .scratch => if t.len = 0 then none else some (granulesOf t.addr t.len, t.write)
    | _ => none)

/-- The accumulator slots an array instruction writes: ACC and its tree slots (R111, R165). -/
def slotUses (d : BitVec 512) : List (Res × Bool) :=
  (.slot (dAcc d), true) :: (treeSlots d).map (fun i => (.slot i, true))

/-- What an LDT writes of a bank or the scratchpad. -/
def ldtUses (d : BitVec 512) : List (Res × Bool) :=
  let dst := lDst d
  match dst.sp with
  | .bank k => [(.bank k, true)]
  | _ => (List.range (lTR d)).map (fun i =>
      (granulesOf (dst.addr + i * dst.stride * 64) (max 1 (rowBytes ((lFmt d).getD .bf16) (lTC d))), true))

/-- Every resource an instruction reads (`false`) or writes (`true`) (R97). -/
def uses (s : State) (b : Fin 48) (l : Launch) (d : BitVec 512) : List (Res × Bool) :=
  let op := opOf d
  let ts := touchUses (fedTouches s b l d)
  if isArrayOp op then
    ts ++ slotUses d ++ (streamed d).map (fun k => (.bank k, true)) ++
      (if isAttnOp op then [(.bank 2, aFetch d)] ++ (if op = opATS then [(.bank 0, false)] else []) else [])
  else if op = opLDT then ts ++ ldtUses d
  else if op = opDRN then ts ++ [(.slot (nSlot d), false)]
  else if op = opRSC then
    ts ++ [(.slot (fld d 3 1 % 32), true)] ++ (if fld d 1 1 % 4 = 1 then [(.slot (fld d 4 1 % 32), false)] else [])
  else if op = opSFL then [(.flag (fld d 2 1 % 8) (fld d 3 1 % 64), true)]
  else if op = opWFL then [(.flag (b.val / 6) (fld d 3 1 % 64), false)]
  else ts

/-- The instructions still held in the units of a block. -/
def heldEntries (k : Block) : List UEntry := k.loadQ ++ k.arrayQ ++ k.drainQ ++ k.syncQ

/-- The resources a held instruction still holds: an attention instruction has released bank B once its last chunk has
been fed (R165). -/
def heldUses (s : State) (b : Fin 48) (l : Launch) (e : UEntry) : List (Res × Bool) :=
  let fed : Bool := match (s.blocks[b]).job with
    | some j => e.begun && isAttnOp (opOf e.word) && decide (j.chunks ≤ j.chunk)
    | none => false
  let us := uses s b l e.word
  us.filter (fun x => !(fed && x.1 = .bank 2))

/-- The STALL code of the first conflict of R97 between a new instruction and those held, lowest code first. -/
def conflict (s : State) (b : Fin 48) (l : Launch) (d : BitVec 512) : Option Nat :=
  let held := (heldEntries (s.blocks[b])).flatMap (heldUses s b l)
  let hits := (uses s b l d).filterMap (fun x =>
    if held.any (fun y => x.1.meets y.1 && (x.2 || y.2)) then some x.1.stall else none)
  hits.foldl (fun m c => some (match m with | none => c | some y => min c y)) none

/-- What holds the oldest undispatched instruction: the STALL code of Table 2.11, or none when it may be dispatched.
A WFL or SYN holds every later instruction until it completes (R226, log 36); SYN, SFL and FIN wait for every earlier
one (R98, R225), which Table 2.11 gives no code, and a full queue shows before a conflict (DESIGN CHOICE, log 158). An instruction that
executes still takes one of its unit's four places (R95, log 127). -/
def stallOf (s : State) (b : Fin 48) (l : Launch) : Option Nat :=
  let k := s.blocks[b]
  match k.iq with
  | [] => some 1
  | e :: _ =>
    let op := opOf e.word
    if k.syncQ.any (fun x => opOf x.word ≠ opSFL) then
      some (match k.wait with | some (.flag ..) => 6 | _ => 0)
    else if e.err ≠ .ok then none
    else
      if op ∈ [opSYN, opSFL, opFIN] ∧ heldEntries k ≠ [] then some 0
      else
        match unitOf op with
        | none => none
        | some u => if 4 ≤ (k.queue u).length then some 7 else conflict s b l e.word

/-! ### Dispatch -/

/-- An instruction refused at issue (R124, R125). -/
def tileFault (s : State) (b : Fin 48) (code off aux idx : Nat) : State :=
  let s := recordTfault s b code off aux idx
  blkHalt s b (0x3100 + code) idx (rreg s .blkTfault b.val).toNat

/-- An access to the compressed-view range refused at issue: recorded in MEM_FRC_STAT, its index in BLKn_TFPC (R125, R257,
R258). -/
def frcFault (s : State) (b : Fin 48) (why win idx : Nat) : State :=
  let s := wreg (frcRecord s b.val why win) .blkTfpc b.val (BitVec.ofNat 32 idx)
  blkHalt s b (0x3B00 + why) idx (rreg s .memFrcStat 0).toNat

/-- The next instruction enters its unit's queue (R95). -/
def enqueue (s : State) (b : Fin 48) (l : Launch) (e : IqEntry) (u : BUnit) : State :=
  wreg (modBlk s b (fun k =>
    ({ k with iq := k.iq.drop 1 } : Block).setQueue u (k.queue u ++ [{ idx := e.idx, word := e.word, begun := false, since := l.ran }])))
    .blkPc b.val (BitVec.ofNat 32 (e.idx + 1))

/-- The sequencer dispatches the next instruction once its resources are free and it passes the issue checks
(R95-R98, R123-R126, R746). Between two instructions a pending commit of the block's group is applied (R45). -/
def dispatch (b : Fin 48) (s : State) : State :=
  let s := configApply (.blk b) s
  match blkRunning s b, (s.blocks[b]).iq with
  | some l, e :: _ =>
    if (stallOf s b l).isSome then s
    else
      match e.err with
      | .bound => tileFault s b 0x08 0 0 e.idx
      | .mem a un => blkMemStop s b e.idx (a, un)
      | .upset fabric => blkHalt s b (if fabric then 0x3E01 else 0x3E02) e.idx 0
      | .ok =>
        match issueCheck s b l e.word, unitOf (opOf e.word) with
        | .fault c off aux, _ => tileFault s b c off aux e.idx
        | .frc w n, _ => frcFault s b w n e.idx
        | _, some u => enqueue s b l e u
        | _, none => s
  | _, _ => s

/-- INSTRUCTION_DISPATCH (R97). -/
def execInstructionDispatch (b : Fin 48) (s : State) : Host.Outcome State Fault Refusal := .next (dispatch b s)

/-- FIN (R748): ends the block's program. -/
def execFin (b : Fin 48) (s : State) : Host.Outcome State Fault Refusal :=
  .next (match front s b opFIN with
    | none => s
    | some _ => modBlk (retire s b .sync) b (fun k => { k with finished := true, iq := [] }))

end Sys2Proof.Machine
end

