-- ==== Sys2Proof/Machine/Sync.lean ====
section
/-! DEFINITION. Barriers and counting flags: SYN, SFL, WFL and the events that end or time out their waits
(01_structure.md, R47-R53; 05_convolution_vae.md, R223-R232; R401, R752, R754). -/

namespace Sys2Proof.Machine

/-! ### SFL and WFL -/

/-- SFL (R225): requests an increment of a counting flag. -/
def execSfl (b : Fin 48) (s : State) : Host.Outcome State Fault Refusal :=
  .next (match front s b opSFL with
    | none => s
    | some (e, l) =>
      retire (askFlag s (.blk b) l.lid e.idx (Fin.ofNat 8 (fld e.word 2 1)) (Fin.ofNat 64 (fld e.word 3 1))
        (fld e.word 4 4)) b .sync)

/-- The increment of a requested flag, or FLAG_OVERFLOW, which leaves the flag unchanged (R225, R229). A partial of a waiting TADD
may become ready by it (R350). -/
def flagAdd (s : State) (q : FlagReq) : State :=
  let v := flagVal s q.rgn q.flag
  if v + q.inc < 2 ^ 32 then
    noteReady (modRgn s q.rgn (fun g => { g with flags := sset zeroFill g.flags q.flag.val (BitVec.ofNat 32 (v + q.inc)) })) q.rgn
  else flagFault s q.src q.lid q.idx 1 q.rgn q.flag

/-- FLAG_INCREMENT (R225): the region adds to the flag of request `k` once the unit's earlier stores have been
accepted. -/
def flagIncrement (k : Nat) (s : State) : State :=
  match s.flagReqs[k]? with
  | none => s
  | some q =>
    match (findLaunch s q.lid).filter (fun l => l.st.mayBegin && !stalled s) with
    | none => s
    | some _ => if q.before ≠ 0 then s else flagAdd { s with flagReqs := s.flagReqs.eraseIdx k } q

def execFlagIncrement (k : Nat) (s : State) : Host.Outcome State Fault Refusal := .next (flagIncrement k s)

/-- WFL (R226): waits until a flag of the block's own region is at least a target value. -/
def execWfl (b : Fin 48) (s : State) : Host.Outcome State Fault Refusal :=
  .next (match front s b opWFL with
    | none => s
    | some (e, _) =>
      let f : Fin 64 := Fin.ofNat 64 (fld e.word 3 1)
      let t := fld e.word 4 4
      if t ≤ flagVal s (rgnOf b) f then retire s b .sync
      else modBlk (begin_ s b .sync) b (fun k => { k with wait := some (.flag (rgnOf b) f t e.since) }))

/-- WFL_COMPLETE (R226): the flag has reached its target. -/
def execWflComplete (b : Fin 48) (s : State) : Host.Outcome State Fault Refusal :=
  .next (match (s.blocks[b]).wait, ((s.blocks[b]).lid.bind (findLaunch s)).filter (fun l => l.st.mayBegin && !stalled s) with
    | some (.flag r f t _), some _ =>
      if t ≤ flagVal s r f then modBlk (retire s b .sync) b (fun k => { k with wait := none }) else s
    | _, _ => s)

/-- The flag wait of a unit: region, flag, the count at its start, its launch and its index. -/
def waitOf (s : State) (q : WaitUnit) : Option (FlagWait × BitVec 32 × Nat) :=
  match q with
  | .blk b =>
    match (s.blocks[b]).wait, (s.blocks[b]).lid, (s.blocks[b]).syncQ with
    | some (.flag r f t n), some lid, e :: _ => some ({ rgn := r, flag := f, target := t, since := n }, lid, e.idx)
    | _, _, _ => none
  | q =>
    let u := getRun s q
    match u.waiting, u.lid with
    | some w, some lid => some (w, lid, u.idx)
    | _, _ => none

/-- Whether a flag wait of a launch involves a block of a region that runs in turn: any block of the launch may increment
the flag, so every flag wait of a launch that holds such a region does (R401, log 131). -/
def waitTurn (s : State) (l : Launch) : Bool := (List.finRange 8).any (fun r => l.hasRgn r && turnMode s r.val)

/-- FLAG_TIMEOUT (R230): a flag wait has not completed in time; the launch halts. The report names the flag's value and the
target from byte 48 (log 129). -/
def flagTimeout (q : WaitUnit) (s : State) : State :=
  match waitOf s q with
  | none => s
  | some (w, lid, idx) =>
    match (findLaunch s lid).filter (fun l => l.st = .running) with
    | none => s
    | some l =>
      let v := flagVal s w.rgn w.flag
      if v < w.target ∧ w.since + timeout s (waitTurn s l) ≤ l.ran then
        flagFault s q lid idx 2 w.rgn w.flag (toLe 4 v ++ toLe 4 w.target)
      else s

def execFlagTimeout (q : WaitUnit) (s : State) : Host.Outcome State Fault Refusal := .next (flagTimeout q s)

/-! ### Barriers -/

/-- The barrier a SYN names (log 11). -/
def synId (d : BitVec 512) : Fin 32 := Config.synBarrier d

/-- SYN (R98): the block comes to an internal barrier, every earlier instruction having completed. -/
def execSyn (b : Fin 48) (s : State) : Host.Outcome State Fault Refusal :=
  .next (match front s b opSYN with
    | none => s
    | some (e, _) => modBlk (begin_ s b .sync) b (fun k => { k with wait := some (.barrier (synId e.word) false) }))

/-- The barrier of an identifier in a launch, if a block has arrived at it (log 11). -/
def findBarrier (s : State) (i : Fin 32) (lid : BitVec 32) : Option Barrier :=
  (s.barriers.find? (fun x => x.1 = i.val && x.2.lid = lid)).map (·.2)

/-- Remove a barrier, or set its new value. -/
def setBarrier (s : State) (i : Fin 32) (lid : BitVec 32) (x : Option Barrier) : State :=
  let rest := s.barriers.filter (fun y => !(y.1 = i.val && y.2.lid = lid))
  { s with barriers := match x with | none => rest | some v => rest ++ [(i.val, v)] }

/-- The logical blocks that take part in a barrier of a launch (log 11), within its regions. -/
def barrierBlocks (l : Launch) (i : Fin 32) : List (Fin 48) :=
  (List.finRange 48).filter (fun b => bitsAt (Config.barrierSet l.hdr i) b.val 1 = 1 && l.hasRgn (rgnOf b))

/-- The barrier that a block waits at with an arrival not yet counted, and its launch. -/
def arrivalOf (s : State) (b : Fin 48) : Option (Fin 32 × Launch) :=
  let k := s.blocks[b]
  match k.wait, (k.lid.bind (findLaunch s)).filter (fun l => l.st.mayBegin && !stalled s) with
  | some (.barrier i false), some l => some (i, l)
  | _, _ => none

/-- Whether an arrival crosses the Hinge, as a Control beat: the barrier takes in blocks of the other half (Table 1.2). -/
def arrivalCrosses (l : Launch) (b : Fin 48) (i : Fin 32) : Bool :=
  (barrierBlocks l i).any (fun x => decide (x.val / 24 ≠ b.val / 24))

/-- A Control beat of a half, where one crosses. -/
def sendControl (s : State) (half : Nat) (crosses : Bool) : State := if crosses then hingeSend s half 0 else s

/-- BARRIER_ARRIVE (R47): a block's arrival counts once its earlier stores have been accepted, and, where it crosses, the Hinge
takes a Control beat; a second arrival before the release halts the launch with BARRIER_ORDER (R52). -/
def barrierArrive (b : Fin 48) (s : State) : State :=
  let k := s.blocks[b]
  match arrivalOf s b with
  | some (i, l) =>
    if storesWait s (.blk b) ∨ (arrivalCrosses l b i ∧ !hingeTakes s (b.val / 24) 0) then s
    else
      let s := sendControl s (b.val / 24) (arrivalCrosses l b i)
      let x := (findBarrier s i l.lid).getD { arrived := [], lid := l.lid, firstRan := l.ran, lastCyc := 0 }
      if b.val ∈ x.arrived then
        blkHalt s b 0x3C04 (((k.syncQ.head?).map (·.idx)).getD 0) 0
      else
        let x' : Barrier := { x with arrived := insertNat b.val x.arrived, lastCyc := arrayCyc s }
        modBlk (setBarrier s i l.lid (some x')) b (fun k => { k with wait := some (.barrier i true) })
  | none => s

def execBarrierArrive (b : Fin 48) (s : State) : Host.Outcome State Fault Refusal := .next (barrierArrive b s)

/-- A participant leaves a barrier: its SYN completes (R48). -/
def leave (s : State) (i : Fin 32) (b : Fin 48) : State :=
  if (s.blocks[b]).wait = some (.barrier i true) then
    modBlk (retire s b .sync) b (fun k => { k with wait := none })
  else s

/-- Whether every participant of a barrier has arrived, 96 array cycles have passed since the last arrival, and the
launch is dispatched (R48). -/
def barrierDue (s : State) (x : Nat × Barrier) : Bool :=
  match (findLaunch s x.2.lid).filter (fun l => l.st.mayBegin && !stalled s) with
  | none => false
  | some l => (barrierBlocks l (Fin.ofNat 32 x.1)).all (fun b => b.val ∈ x.2.arrived) &&
      decide (x.2.lastCyc + 96 ≤ arrayCyc s)

/-- Whether the release of a barrier crosses the Hinge: blocks of both halves have arrived (Table 1.2). -/
def releaseCrosses (x : Nat × Barrier) : Bool := x.2.arrived.any (· < 24) && x.2.arrived.any (24 ≤ ·)

/-- BARRIER_RELEASE (R48): every participant leaves 96 array cycles after the last arrival, half 1's by a Control beat. -/
def barrierRelease (i : Fin 32) (s : State) : State :=
  match s.barriers.find? (fun x => x.1 = i.val && barrierDue s x && (!releaseCrosses x || hingeTakes s 0 0)) with
  | none => s
  | some x =>
    (x.2.arrived.map (Fin.ofNat 48)).foldl (fun s b => leave s i b)
      (setBarrier (sendControl s 0 (releaseCrosses x)) i x.2.lid none)

def execBarrierRelease (i : Fin 32) (s : State) : Host.Outcome State Fault Refusal := .next (barrierRelease i s)

/-- The participants that a barrier still waits for when its time is up, while its launch runs (R53). -/
def barrierLate (s : State) (x : Nat × Barrier) : List (Fin 48) :=
  match (findLaunch s x.2.lid).filter (fun l => l.st = .running) with
  | none => []
  | some l =>
    let bs := barrierBlocks l (Fin.ofNat 32 x.1)
    let turn : Bool := bs.any (fun b => turnMode s (b.val / 6))
    if x.2.firstRan + timeout s turn ≤ l.ran then bs.filter (fun b => !(b.val ∈ x.2.arrived)) else []

/-- BARRIER_TIMEOUT (R53): a participant has not arrived in time after the first arrival; the launch halts. The report
names the blocks that had not arrived: the lowest where R758 puts a block, and all of them as a mask from byte 48 (logs 44,
129). -/
def barrierTimeout (i : Fin 32) (s : State) : State :=
  match s.barriers.find? (fun x => x.1 = i.val && barrierLate s x ≠ []) with
  | none => s
  | some x =>
    let bs := barrierLate s x
    let b := bs.headD 0
    haltLaunch s x.2.lid 0x3C05
      { blk := b.val, place := physOf s b, idx := (rreg s .blkPc b.val).toNat, reg := 0,
        more := toLe 8 ((bs.map (fun b => 2 ^ b.val)).sum) }

def execBarrierTimeout (i : Fin 32) (s : State) : Host.Outcome State Fault Refusal := .next (barrierTimeout i s)

end Sys2Proof.Machine
end

