-- ==== Sys2Proof/Machine/Ends.lean ====
section
/-! DEFINITION. What a launch holds, when its units have stopped or finished, and how it ends (09_launches_preemption.md,
R373, R379, R380; 12_latch_transport.md, R555, R564, R756). -/

namespace Sys2Proof.Machine

/-! ### Resources (R373) -/

/-- Whether a launch holds the sampler, or the stream engine, of a half. -/
def Launch.hasSmp (l : Launch) (h : Fin 2) : Bool := l.fld (1024 + 8 * h.val) 8 ≠ 0
def Launch.hasVse (l : Launch) (h : Fin 2) : Bool := l.fld (1040 + 8 * h.val) 8 ≠ 0

/-- Whether a logical block belongs to a launch. -/
def Launch.hasBlk (l : Launch) (b : Fin 48) : Bool := l.hasRgn (rgnOf b)

/-- Whether two launches need a resource in common. -/
def Launch.meets (l m : Launch) : Bool :=
  (List.finRange 8).any (fun r => l.hasRgn r && m.hasRgn r) ||
  (List.finRange 2).any (fun h => (l.hasSmp h && m.hasSmp h) || (l.hasVse h && m.hasVse h))

/-- The logical blocks, the regions and the halves of a launch. -/
def Launch.blks (l : Launch) : List (Fin 48) := (List.finRange 48).filter l.hasBlk
def Launch.rgns (l : Launch) : List (Fin 8) := (List.finRange 8).filter l.hasRgn

/-- The list engines of a launch that have a list (R373). -/
def Launch.engines (l : Launch) : List WaitUnit :=
  (l.rgns.filter (fun r => l.fld (896 + 8 * r.val) 8 ≠ 0)).map WaitUnit.sce ++
  (l.rgns.filter (fun r => l.fld (960 + 8 * r.val) 8 ≠ 0)).map WaitUnit.rve ++
  ((List.finRange 2).filter l.hasSmp).map WaitUnit.smp ++
  ((List.finRange 2).filter l.hasVse).map WaitUnit.vse

/-- FLAGS of a record (Table 9.1): 0 TIMED, 1 KEYDEF, 2 AUTOSAVE, 3 TAKE, 4 RESTORE. -/
def Launch.flag (l : Launch) (i : Nat) : Bool := l.fld 5 1 / 2 ^ i % 2 = 1

/-- The save area of part 0; 0 means that the launch has none (Table 9.1). -/
def Launch.save0 (l : Launch) : Nat := l.fld 40 8 % 2 ^ 44

/-- Whether any resource of a launch is held now by another launch (R377). -/
def heldByOther (s : State) (l : Launch) : Bool :=
  let other (x : Option (BitVec 32)) : Bool := match x with | some lid => decide (lid ≠ l.lid) | none => false
  l.rgns.any (fun r => other (s.regions[r]).holder) ||
  (List.finRange 2).any (fun h => l.hasSmp h && other (s.halves[h]).smp.lid || l.hasVse h && other (s.halves[h]).vse.lid)

/-! ### Stopped and finished units -/

/-- Whether the load unit of a block waits on a broadcast that has not been sent: its oldest LDT has begun (R136). -/
def bcastWait (k : Block) : Bool :=
  match k.loadQ with
  | e :: _ => e.begun && lBcast e.word
  | [] => false

/-- Whether a block is at its pre-emption point: no dispatched instruction can still complete; a wait in SYN, in WFL or in
a broadcast LDT is one (Table 9.4). -/
def Block.atPoint (k : Block) : Bool :=
  k.job.isNone && k.arrayQ.isEmpty && k.drainQ.isEmpty && (k.loadQ.isEmpty || bcastWait k) &&
  (k.syncQ.isEmpty || k.wait.isSome || bcastWait k)

/-- Whether a block of a halted launch has stopped: what it had begun is complete (R99, R755). -/
def Block.quiet (k : Block) : Bool :=
  k.job.isNone && !(k.arrayQ ++ k.drainQ).any (·.begun)

/-- Whether stores, flag increments, re-reads or held reads of a launch are still on their way (R379, Table 9.4). -/
def trafficOf (s : State) (lid : BitVec 32) : Bool :=
  s.mem.stores.any (fun p => !p.src.own && p.lid = lid) || s.flagReqs.any (fun q => q.lid = lid) ||
  (s.mem.rereads ++ s.mem.held).any (fun q => !q.ask.unit.own && q.ask.lid = lid)

/-- Whether every unit of a launch has stopped at its pre-emption point (R380): a list engine is at one between two commands, unless it
stands inside an SADD with ARRIVE. -/
def allStopped (s : State) (l : Launch) : Bool :=
  l.blks.all (fun b => (s.blocks[b]).lid ≠ some l.lid || (if l.fault = 0 then (s.blocks[b]).atPoint else (s.blocks[b]).quiet)) &&
  l.rgns.all (fun r => !midArrive s (s.regions[r]).rve || (s.regions[r]).rve.lid ≠ some l.lid) &&
  (l.fault ≠ 0 || !trafficOf s l.lid)

/-- Whether every unit of a launch has finished: each block has reached FIN, each list its END (R379, R748). -/
def allFinished (s : State) (l : Launch) : Bool :=
  l.blks.all (fun b => (s.blocks[b]).finished) && l.engines.all (fun q => (getRun s q).finished)

/-! ### Release and end -/

/-- A block that no launch holds: its queues and work are gone, its stores keep their contents. -/
def Block.free (k : Block) : Block :=
  { k with
    lid := none, iq := [], nextFetch := 0, loadQ := [], arrayQ := [], drainQ := [], syncQ := [], job := none,
    wait := none, page := none, stopped := false, finished := false }

/-- A region that no launch holds. -/
def Region.free (g : Region) : Region :=
  { g with misses := [], bcasts := [], sce := ListRun.idle, rve := ListRun.idle, holder := none, bucketsDone := false,
           hosted := [], turns := [], written := [], windows := [] }

/-- Free everything a launch holds. -/
def release (s : State) (lid : BitVec 32) : State :=
  { s with
    blocks := s.blocks.map (fun k => if k.lid = some lid then k.free else k),
    regions := s.regions.map (fun g => if g.holder = some lid then g.free else g),
    halves := s.halves.map (fun g =>
      let g := if g.smp.lid = some lid then { g with smp := ListRun.idle, smpRow := none } else g
      if g.vse.lid = some lid then { g with vse := ListRun.idle, vseJob := none } else g),
    barriers := s.barriers.filter (fun x => x.2.lid ≠ lid),
    flagReqs := s.flagReqs.filter (fun q => q.lid ≠ lid) }

/-- LID_UNKNOWN. -/
def cLidUnknown : Nat := 0x2002

/-- A launch ends: its resources are free, its LAUNCH completes with `code`, and a STOP or RESUME in progress completes with
LID_UNKNOWN, an ABORT with success (R555, R564, R756). -/
def endLaunch (s : State) (l : Launch) (kind code : Nat) : State :=
  let s := release s l.lid
  let s := { s with launches := s.launches.erase l }
  let s := finishCmd 1 s (cmdDone l.ring kind code l.cid l.lid 0 [])
  let s := match l.stop with
    | some (.command ring cid, _) => finishCmd 2 s (cmdDone ring 2 cLidUnknown cid l.lid 0 [])
    | some (.abort ring cid, _) => finishCmd 3 s (cmdDone ring 1 0 cid l.lid 0 [])
    | _ => s
  match l.resume with
  | some (ring, cid) => finishCmd 4 s (cmdDone ring 2 cLidUnknown cid l.lid 0 [])
  | none => s

/-- The code of an aborted launch: the halting fault, or ABORTED (R564). -/
def abortCode (l : Launch) : Nat := if l.fault = 0 then 0x2007 else l.fault

/-- End every launch as ABORTED (R600, R617, R644). -/
def abortAll (s : State) : State := s.launches.foldl (fun s l => endLaunch s l 1 (abortCode l)) s

/-! ### Which launch is next (R376-R378) -/

/-- A launch that waits for its resources: not dispatched yet, or to be resumed. -/
def Launch.waits (l : Launch) : Bool := l.st = .waiting || (l.st = .saved && l.resume.isSome)

/-- Whether a launch is the earliest of its ring that has not ended (R376). -/
def firstOfRing (s : State) (l : Launch) : Bool := (s.launches.find? (fun m => m.ring = l.ring)) = some l

/-- Whether the start time allows a launch: TSTART has been reached, or the launch is not timed or has begun (R364). -/
def timeOk (s : State) (l : Launch) : Bool :=
  !l.flag 0 || l.begun || (l.released && decide (l.fld 24 8 ≤ s.dtc.toNat))

/-- Whether a waiting launch of higher PRIO that its ring allows needs a resource of a launch (R378). -/
def outranked (s : State) (l : Launch) : Bool :=
  s.launches.any (fun m => m.waits && firstOfRing s m && decide (l.prio < m.prio) && m.meets l)

/-- Whether a launch has units in half 1, to which half 0 dispatches it as a Control beat ("One denoising step, end to end"). -/
def Launch.inHalf1 (l : Launch) : Bool := l.rgns.any (fun r => decide (4 ≤ r.val)) || l.hasSmp 1 || l.hasVse 1

/-- Whether a launch may be dispatched now: not while the Hinge is held, nor to half 1 without a Control credit (R26, R30, R377, R378,
R737). -/
def dispatchable (s : State) (l : Launch) : Bool :=
  l.waits && firstOfRing s l && timeOk s l && !heldByOther s l && !outranked s l &&
  (!dispatchHeld s || l.flag 0) && !stalled s && decide (s.hinge.mode ≠ .down) &&
  decide (s.power.phase = .ready) && (!l.inHalf1 || hingeTakes s 0 0)

/-- The launch of highest PRIO of a list, the earliest among equals. -/
def bestPrio : List Launch → Option Launch
  | [] => none
  | l :: ls =>
    match bestPrio ls with
    | none => some l
    | some m => if l.prio < m.prio then some m else some l

def nextLaunch (s : State) : Option Launch := bestPrio (s.launches.filter (dispatchable s))

end Sys2Proof.Machine
end

