-- ==== Sys2Proof/Machine/Stacks.lean ====
section
/-! DEFINITION. Stacks: temperature, refresh, lanes, spares, map-out (10_optical_memory.md, R422-R442). -/

namespace Sys2Proof.Machine

def modStk (s : State) (i : Fin 24) (f : Stack → Stack) : State := { s with stk := s.stk.set i (f s.stk[i]) }

/-! ### Temperature and throttling (R437-R442) -/

/-- The threshold in use: T_t - TOFS (R437). -/
def stkThr (s : State) (i : Fin 24) : Int := (s.stk[i]).tt - (rfld s .memCfg 0 3 0 : Nat)

/-- The entry threshold of a level (Table 10.7). -/
def levelEntry (tt : Int) (l : Nat) : Int := tt - 10 + 5 * l

/-- The level that a temperature enters (Table 10.7). -/
def levelOf (t tt : Int) : Nat := if t < tt - 5 then 0 else if t < tt then 1 else if t < tt + 5 then 2 else 3

/-- The level left over from a current one: it goes only 2 degrees below its entry threshold (R440). -/
def levelKept (t tt : Int) : Nat → Nat
  | 0 => 0
  | l + 1 => if t ≤ levelEntry tt (l + 1) - 2 then levelKept t tt l else l + 1

def levelNext (t tt : Int) (cur : Nat) : Nat := max (levelOf t tt) (levelKept t tt cur)

/-- The refresh interval code of a temperature (R438, Table 10.13). -/
def refreshOf (t : Int) : Nat := if t < 85 then 0 else if t < 95 then 1 else 2

/-- STACK_HOT names the stack (R441, R442). -/
def stackHot (s : State) (i : Fin 24) : State := setEvt (degraded s 0x3D03 i.val) 0

/-- A temperature as a register byte. -/
def tempByte (t : Int) : Nat := (max 0 (min 255 t)).toNat

/-- STACK_TEMP_SAMPLE (R437-R441): the report, the level with its hysteresis, the refresh interval, the highest reading, and
the thermal cycles of the LIFE body. -/
def stackTempSample (i : Fin 24) (t : Int) (s : State) : State :=
  let old := rreg s .stkStat i.val
  let cur := getF old 15 14
  let lv := levelNext t (stkThr s i) cur
  let v := setF (setF (setF (setF (setF old 31 24 (tempByte t)) 15 14 lv) 13 13 0) 12 11 (refreshOf t)) 7 0
    (max (getF old 7 0) (tempByte t))
  let c := thermCycle (s.stk[i]).low t
  let s := lifeAdd (modStk (wreg s .stkStat i.val v) i (fun k => { k with low := c.1 })) i.val 4 4 c.2
  if lv = 3 ∧ cur < 3 then stackHot s i else s

def execStackTempSample (i : Fin 24) (t : Int) (s : State) : Host.Outcome State Fault Refusal :=
  .next (stackTempSample i t s)

/-- STACK_SENSOR_FAIL (R442): level 3, the fastest refresh, SENSFAIL. -/
def stackSensorFail (i : Fin 24) (s : State) : State :=
  let old := rreg s .stkStat i.val
  if getF old 13 13 = 1 then s
  else stackHot (wreg s .stkStat i.val (setF (setF (setF (setF old 31 24 0xFF) 15 14 3) 13 13 1) 12 11 2)) i

def execStackSensorFail (i : Fin 24) (s : State) : Host.Outcome State Fault Refusal := .next (stackSensorFail i s)

/-- REFRESH (R435, R436, R438): a due refresh of a stack is performed. It changes when data arrive and no byte or
register. -/
def execRefresh (_i : Fin 24) (s : State) : Host.Outcome State Fault Refusal := .next s

/-! ### Links (R422-R427, Table 10.5) -/

/-- RSTATE (Table 10.17). -/
def Link.rstate (k : Link) : Nat :=
  match k.mode with
  | .down => 5
  | .retraining => 4
  | .half => 3
  | .full => if k.erased.isSome then (if k.training.isSome then 6 else 2) else if k.spare.isSome then 1 else 0

/-- WSTATE (Table 10.17). -/
def Link.wstate (k : Link) : Nat :=
  match k.mode with
  | .down => 5
  | .retraining => 4
  | .half => 2
  | .full => if k.training.isSome then 3 else if k.spare.isSome then 1 else 0

/-- OPTs_LANE shows the links (Table 10.17). -/
def showLanes (s : State) (i : Fin 24) : State :=
  let k := s.stk[i]
  let er := if k.rd.rstate = 2 ∨ k.rd.rstate = 6 then k.rd.erased.getD 0 else 0
  wreg s .optLane i.val (setF (setF (setF (setF (setF (rreg s .optLane i.val) 31 28 k.rd.rstate) 27 22 (k.rd.spare.getD 0))
    21 16 er) 15 12 k.wr.wstate) 11 7 (k.wr.spare.getD 0))

/-- A Table 10.5 event: OPTs_LANE shows it, and an OPTCAL record is requested (Table 13.3). -/
def laneEvent (s : State) (i : Fin 24) : State :=
  krgReq (showLanes s i) i.val (.optcal ((s.stk[i]).cal.getD []) (s.stk[i]).rd (s.stk[i]).wr)

def Stack.link (k : Stack) : LinkDir → Link
  | .read => k.rd
  | .write => k.wr

def modLink (s : State) (i : Fin 24) (d : LinkDir) (f : Link → Link) : State :=
  modStk s i (fun k => match d with
    | .read => { k with rd := f k.rd }
    | .write => { k with wr := f k.wr })

/-- The lanes in service at half width: the lowest healthy ones (log 49). -/
def halfLanes (d : LinkDir) (k : Link) : List Nat :=
  ((List.range (laneCount d + 1)).filter (fun p => !k.failed.any (· = p))).take (laneCount d / 2)

/-- LINK_NARROW names the stack and the direction (Table 15.3). -/
def linkNarrow (s : State) (i : Fin 24) (d : LinkDir) : State :=
  degraded s 0x3E07 (i.val + match d with | .read => 0 | .write => 256)

/-- A fault by which no launch halts is one reported without halting (R566, log 120). -/
def reportUnhalted (s : State) (code : Nat) (t : State) : State :=
  if t.launches = s.launches then reportEvent t code 0 0 else t

/-- Whether a range that a unit's launch is about to read waits for stack `i`: one of its bursts lies there, while the stack is held
(R425). -/
def waitsFor (s : State) (i : Fin 24) (a n job : Nat) : Bool :=
  stackHeld s.stk[i] && (let r := physRange s a n
    (burstsOf r.1 r.2).any (fun b => decide (dpaStack s b = i.val) && (mscLine s b job).isNone && !queued s b))

/-- Launches of blocks whose oldest instruction of a unit reads of a held stack `i`, of regions with a Canopy miss that does, and of
list engines whose entry lies there. -/
def readers (s : State) (i : Fin 24) : List (BitVec 32) :=
  let blk (b : Fin 48) : Option (BitVec 32) :=
    let k := s.blocks[b]
    (k.lid.bind (findLaunch s)).bind (fun l =>
      if (k.loadQ.take 1 ++ k.arrayQ.take 1 ++ k.drainQ.take 1).any (fun e => (fedTouches s b l e.word).any (fun t =>
        t.sp = .mem && !t.write && waitsFor s i t.addr t.len l.job)) then some l.lid else none)
  let run (u : ListRun) : Option (BitVec 32) :=
    (u.lid.bind (findLaunch s)).bind (fun l => if waitsFor s i (u.base + 64 * u.idx) 64 l.job then some l.lid else none)
  let miss (r : Fin 8) : List (BitVec 32) :=
    ((s.regions[r]).misses.filter (fun m => waitsFor s i (rfld s .cnpBase r.val 19 0 * 2 ^ 24 + 512 * m.line) 512 m.job)).map (·.lid)
  if !stackHeld s.stk[i] then []
  else
    (List.finRange 48).filterMap blk ++
    (List.finRange 8).flatMap (fun r => miss r ++ ([(s.regions[r]).sce, (s.regions[r]).rve].filterMap run)) ++
    (List.finRange 2).flatMap (fun h => [(s.halves[h]).smp, (s.halves[h]).vse].filterMap run)

/-- The launches with a request that waits for stack `i`: stores, accepted writes that are not sent, reads (R426). -/
def waitingFor (s : State) (i : Fin 24) : List (BitVec 32) :=
  ((s.mem.stores.filter (fun p => decide (dpaStack s p.addr = i.val) && !(p.src = .net) && !(p.src = .mgmt))).map (·.lid)) ++
  (s.mem.wq.filter (fun x => dpaStack s (512 * x.burst) = i.val)).flatMap (·.lids) ++
  ((s.mem.rereads ++ s.mem.held).filter (fun r => dpaStack s r.dpa = i.val)).map (·.ask.lid) ++ readers s i

/-- STACK_DOWN (R426): launches with a request waiting for the stack halt, and all its channels are mapped out from the
next start-up. -/
def stackDown (s : State) (i : Fin 24) (d : LinkDir) : State :=
  let lids := waitingFor s i
  let s := modLink s i d (fun k => { k with mode := .down, training := none, erased := none })
  let s := reportUnhalted s 0x3D02 (lids.foldl (fun s lid => haltLaunch s lid 0x3D02
    { blk := none32, place := i.val, idx := none32, reg := 0 }) s)
  let s := wfld s .stkChmap i.val 31 16 0xFFFF
  krgReq s i.val (.chmap (rfld s .stkChmap i.val 15 0) 0xFFFF)

/-- The link is retrained at half width, or, with too few healthy lanes left, the stack is down. -/
def narrowLink (s : State) (i : Fin 24) (d : LinkDir) : State :=
  let k := (s.stk[i]).link d
  if laneCount d + 1 < k.failed.length + laneCount d / 2 then stackDown s i d
  else linkNarrow (modLink s i d (fun k => { k with mode := .retraining, spare := none, training := none, erased := none })) i d

/-- The logical lane that physical lane `p` carries at full width, if it carries one: its own unless the spare has it; the
spare, the lane it was given or trains for. -/
def Link.carries (d : LinkDir) (k : Link) (p : Nat) : Option Nat :=
  if p = laneCount d then (match k.spare with | some l => some l | none => k.training)
  else if k.spare = some p ∨ k.erased = some p ∨ k.training = some p then none else some p

/-- Logical lane `l` of a full-width link is lost (Table 10.5). `spareLost` says its spare went with it. -/
def loseLane (s : State) (i : Fin 24) (d : LinkDir) (l : Nat) (spareLost : Bool) : State :=
  let k := (s.stk[i]).link d
  let free := !spareLost && k.spare.isNone && k.training.isNone && !k.failed.any (· = laneCount d)
  match d with
  | .read =>
    if k.erased.isSome && !(spareLost && k.erased = some l) then narrowLink s i d
    else if free then modLink s i d (fun k => { k with erased := some l, training := some l })
    else
      let s := modLink s i d (fun k => { k with erased := some l, training := none,
                                                spare := if spareLost then none else k.spare })
      degraded s 0x3E0A (i.val + 65536 * l)
  | .write => if free then modLink s i d (fun k => { k with training := some l }) else narrowLink s i d

/-- The failure of physical lane `p`, the spare being the last (R422, R423, Table 10.5): it is counted in the LIFE body, and
the link erases, spares, narrows or goes down. -/
def laneFail (s : State) (i : Fin 24) (d : LinkDir) (p : Nat) : State :=
  let k := (s.stk[i]).link d
  if laneCount d < p ∨ k.failed.any (· = p) ∨ k.mode = .down then s
  else
    let used := (halfLanes d k).any (· = p)
    let entry := (match d with | .read => 0 | .write => 65) + p
    let s := lifeSet (lifeAdd s i.val 24 2 1) i.val (laneByte i.val entry + 14) 1 2
    let s := modLink s i d (fun k => { k with failed := insertNat p k.failed })
    let s := match k.mode with
      | .full =>
        match k.carries d p with
        | some l => loseLane s i d l (decide (p = laneCount d))
        | none => s
      | .half => if used then narrowLink s i d else s
      | _ => narrowLink s i d
    laneEvent s i

/-! ### Symbols in error and lanes (R416, R422) -/

/-- The physical lane that carries logical lane `l` of a read link. -/
def Link.physLane (k : Link) (l : Nat) : Nat :=
  match k.mode with
  | .half => (halfLanes .read k).getD l 0
  | _ => if k.spare = some l then laneCount .read else l

/-- The erased symbols of a burst: those on the read lane marked erased (R417, Table 10.3). -/
def erasedSyms (k : Stack) : Nat :=
  match k.rd.mode, k.rd.erased with
  | .full, some l => (laneSyms .read false l).length
  | _, _ => 0

/-- The symbols in error that no erasure covers (R417). -/
def liveErrs (k : Stack) (e : BurstErr) : List Nat :=
  e.syms.filter (fun j => !(decide (k.rd.mode = .full) && decide (k.rd.erased = some (laneOf .read false j))))

/-- The physical read lanes whose symbols a burst had in error. -/
def badLanes (k : Stack) (e : BurstErr) : List Nat :=
  ((liveErrs k e).map (fun j => k.rd.physLane (laneOf .read (decide (k.rd.mode = .half)) j))).eraseDups

/-- The lanes in error of the latest 32 bursts, once one more was corrected (R422, log 135). -/
def nextHist (k : Stack) (e : BurstErr) : List (List Nat) :=
  let h := (badLanes k e :: k.hist).take 32
  if h.all (·.isEmpty) then [] else h

/-- A burst of a stack was corrected: its lanes in error are noted, and one in error in 16 of the latest 32 bursts fails
(R422). -/
def noteLanes (s : State) (i : Fin 24) (e : BurstErr) : State :=
  let k := s.stk[i]
  let h := nextHist k e
  ((badLanes k e).filter (fun p => decide (16 ≤ (h.filter (·.any (· = p))).length))).foldl (fun s p => laneFail s i .read p)
    (if h = k.hist then s else modStk s i (fun k => { k with hist := h }))

def execReadLaneFail (i : Fin 24) (lane : Fin 72) (s : State) : Host.Outcome State Fault Refusal :=
  .next (laneFail s i .read lane.val)

/-- WRITE_LANE_FAIL (R423): loss of light or lock fails a lane. A write frame that fails its check is replayed; at the third failure in
succession the link is retrained, and the lane found at fault fails. -/
def writeLaneFail (i : Fin 24) (f : WriteFault) (s : State) : State :=
  match f with
  | .lost p => laneFail s i .write p.val
  | .frame found =>
    if (s.stk[i]).badFrames < 2 then modStk s i (fun k => { k with badFrames := k.badFrames + 1 })
    else
      let s := modStk s i (fun k => { k with badFrames := 0 })
      match found with
      | some p => laneFail s i .write p.val
      | none => s

def execWriteLaneFail (i : Fin 24) (lane : WriteFault) (s : State) : Host.Outcome State Fault Refusal :=
  .next (writeLaneFail i lane s)

/-- SPARE_SWITCH_IN (R424): the trained spare takes its lane over at a burst boundary; an erasure of that lane is
cleared. -/
def spareSwitchIn (i : Fin 24) (d : LinkDir) (s : State) : State :=
  match ((s.stk[i]).link d).training with
  | none => s
  | some l =>
    let entry := match d with | .read => 64 | .write => 97
    let s := lifeSet s i.val (laneByte i.val entry + 14) 1 0
    laneEvent (modLink s i d (fun k => { k with spare := some l, training := none, erased := none })) i

def execSpareSwitchIn (i : Fin 24) (d : LinkDir) (s : State) : Host.Outcome State Fault Refusal :=
  .next (spareSwitchIn i d s)

/-- LINK_RETRAIN_DONE (R425): a held link goes on at half width. -/
def linkRetrainDone (i : Fin 24) (d : LinkDir) (s : State) : State :=
  if ((s.stk[i]).link d).mode = .retraining then laneEvent (modLink s i d (fun k => { k with mode := .half })) i else s

/-- The link that OPT_SPARE names, and whether its spare is free (R427). -/
def spareDir (v : BitVec 32) : LinkDir := if bitsAt v 31 1 = 1 then .write else .read
def spareFree (d : LinkDir) (k : Link) : Bool :=
  decide (k.mode = .full) && k.spare.isNone && k.training.isNone && k.erased.isNone && !k.failed.any (· = laneCount d)

/-- Whether the OPTCAL record of OPT_SPARE finds no place, so that the write waits (R588). -/
def spareWaits (s : State) (i : Fin 24) (v : BitVec 32) : Bool :=
  decide (bitsAt v 0 6 < laneCount (spareDir v)) && spareFree (spareDir v) ((s.stk[i]).link (spareDir v)) && krgFull s 3 i.val

/-- OPT_SPARE (R427): move a lane in service to the spare, or, with the spare not free, set REFUSED. A write whose record finds no place
waits (R588). -/
def optSpare (i : Fin 24) (v : BitVec 32) (s : State) : State :=
  let d := spareDir v
  let l := bitsAt v 0 6
  if laneCount d ≤ l ∨ spareWaits s i v then s
  else if spareFree d ((s.stk[i]).link d) then laneEvent (loseLane s i d l false) i
  else wfld s .optLane i.val 6 6 1

def execOptSpare (i : Fin 24) (v : BitVec 32) (s : State) : Host.Outcome State Fault Refusal := .next (optSpare i v s)

/-! ### Map-out (R429, Table 10.14) -/

/-- Whether an open LK grant covers a register address; a grant that closes in this management cycle does not (R641,
R642). -/
def grantCovers (s : State) (a : Nat) : Bool :=
  match s.lkp.grant with
  | none => false
  | some g => decide (s.cyc < g.closes) && g.regs.any (· = a)

/-- NEXT of a stack becomes `n`, and a CHMAP record is requested. -/
def setNext (s : State) (i : Fin 24) (n : Nat) : State :=
  let s := wfld s .stkChmap i.val 31 16 n
  krgReq s i.val (.chmap (rfld s .stkChmap i.val 15 0) n)

/-- MEM_MAPREQ: bits written 1 join NEXT (R429). A write whose record finds no place waits (R588). -/
def memMapreq (i : Fin 24) (v : BitVec 32) (s : State) : State :=
  if krgFull s 5 i.val ∨ bitsAt v 0 16 = 0 then s
  else setNext s i (rfld s .stkChmap i.val 31 16 ||| bitsAt v 0 16)

def execMemMapreq (i : Fin 24) (v : BitVec 32) (s : State) : Host.Outcome State Fault Refusal := .next (memMapreq i v s)

/-- MEM_UNMAP: under a grant that covers the register, the LK field takes the value, and bits written 1 leave NEXT
(Table 10.14, R641, R743). A write whose record finds no place waits (R588). -/
def memUnmap (i : Fin 24) (v : BitVec 32) (s : State) : State :=
  if !grantCovers s (regAddr .stkUnmap i.val) then s
  else if bitsAt v 0 16 = 0 then wfld s .stkUnmap i.val 15 0 0
  else if krgFull s 5 i.val then s
  else setNext (wfld s .stkUnmap i.val 15 0 (bitsAt v 0 16)) i (rfld s .stkChmap i.val 31 16 &&& (0xFFFF - bitsAt v 0 16))

def execMemUnmap (i : Fin 24) (v : BitVec 32) (s : State) : Host.Outcome State Fault Refusal := .next (memUnmap i v s)

end Sys2Proof.Machine
end

