-- ==== Sys2Proof/Machine/Memory.lean ====
section
/-! DEFINITION. Memory bursts: reads, writes, scrub, and the memory-side cache (10_optical_memory.md, R408-R421,
R444-R448; R403). -/

namespace Sys2Proof.Machine

/-! ### Decoding (R417) -/

/-- Whether the decoder corrects a burst (R417). -/
def decodes (k : Stack) (e : BurstErr) : Bool := !e.addrBad && decide (2 * (liveErrs k e).length + erasedSyms k ≤ 30)

/-- Whether a read of a burst decodes: the errors it met are within reach. No record is kept of a burst found uncorrectable
before (R417, R418). -/
def readsOk (s : State) (a : Nat) (e : BurstErr) : Bool := decodes (stackOfDpa s a) e

/-- Whether a burst's stored code carries POISON (R415). -/
def poisoned (s : State) (a : Nat) : Bool := s.mem.poison.any (· = burstOf a)

/-- A burst decoded: the symbols corrected are counted, erasures included (Table 10.15), the lanes in error are noted, and
its cells are good for the reads of units (R422, log 53). -/
def countCorr (s : State) (a : Nat) (e : BurstErr) : State :=
  let i : Fin 24 := Fin.ofNat 24 (dpaStack s a)
  let s := { s with mem := { s.mem with damaged := s.mem.damaged.filter (· ≠ burstOf a) } }
  noteLanes (corrected s i.val ((liveErrs s.stk[i] e).length + erasedSyms s.stk[i])) i e

/-- MEM_UNCORR (code 1) or MEM_POISON (2) of a burst that several requests asked for: it is counted and logged once, and every launch
that asked halts (R419, R420). -/
def burstFault (s : State) (a code : Nat) (asks : List Asker) : State :=
  let st := dpaStack s a
  let t := logMem s a code
  asks.foldl (fun s q => askHalt s q (0x3A00 + code) st (rreg t .stkElog st).toNat) t

/-- The fault of one request. -/
def memFault (s : State) (a code : Nat) (q : Asker) : State := burstFault s a code [q]

/-! ### The memory-side cache (R403, R444-R448) -/

/-- The set of a burst (R444). -/
def mscSet (b : Nat) : Nat :=
  let n := dpaLocal (512 * b) / 512
  (n ^^^ (n / 2 ^ 13) ^^^ (n / 2 ^ 26)) % 2 ^ 13

/-- The job slot of a launch. -/
def jobOf (s : State) (lid : BitVec 32) : Nat :=
  match findLaunch s lid with
  | some l => l.job
  | none => 0

/-- The job slot of who asks; requests of the device itself go by slot 0 (log 75). -/
def Asker.job (s : State) (q : Asker) : Nat :=
  match q.unit with
  | .net | .mgmt => 0
  | _ => jobOf s q.lid

def modMsc (s : State) (a : Nat) (f : List MscLine → List MscLine) : State :=
  modHalf s (homeHalf a) (fun g => { g with msc := f g.msc })

/-- A line becomes the most recently used. -/
def mscTouch (s : State) (a : Nat) (c : MscLine) : State :=
  modMsc s a (fun l => c :: l.filter (fun x => !(x.burst = c.burst && x.way = c.way)))

def mscDrop (s : State) (a : Nat) (c : MscLine) : State :=
  modMsc s a (fun l => l.filter (fun x => !(x.burst = c.burst && x.way = c.way)))

/-- A dirty line's burst is written back whole: it enters its channel's write queue, which makes the stored burst good; a stack that is
down takes nothing (R418, R420, R426, Table 10.9). -/
def writeBack (s : State) (c : MscLine) : State :=
  if c.dirty ∧ !stackOff (stackOfDpa s (512 * c.burst)) then
    let m := s.mem
    enterQueue { s with mem := { m with poison := m.poison.filter (· ≠ c.burst), damaged := m.damaged.filter (· ≠ c.burst) } }
      (512 * c.burst) []
  else s

/-- A free way of a job slot for a burst, and the least recently used of the lines in the burst's set. -/
def mscVictim (s : State) (a job : Nat) : Option Nat × Option MscLine :=
  let h := homeHalf a
  let ways := mscWays s h.val job
  let inSet := ((s.halves[h]).msc).filter (fun c => mscSet c.burst = mscSet (burstOf a) && ways.any (· = c.way))
  (ways.find? (fun w => !inSet.any (fun c => c.way = w)), inSet.getLast?)

/-- Whether the line that would give way is dirty and finds no place in its write queue (R449). -/
def fillWaits (s : State) (a job : Nat) : Bool :=
  match mscVictim s a job with
  | (none, some c) => c.dirty && queueFull s (512 * c.burst) && !stackOff (stackOfDpa s (512 * c.burst))
  | _ => false

/-- A read miss fills a line in the ways of the job slot: a free way, else the least recently used line gives way after
its write-back. A slot without ways is served uncached, and so is a read that has waited where the line to give way still has no place
to go (R403, R445, log 148). A line that was filled meanwhile serves it. -/
def mscFill (s : State) (a job : Nat) : State :=
  match mscLine s a job with
  | some c => mscTouch s a c
  | none =>
    if fillWaits s a job then s
    else
      match mscVictim s a job with
      | (some w, _) => mscTouch s a (MscLine.mk (burstOf a) w false)
      | (none, some c) => mscTouch (mscDrop (writeBack s c) a c) a (MscLine.mk (burstOf a) c.way false)
      | (none, none) => s

/-! ### Reads -/

/-- The link by which a stack is read; `none` while the stack is held (R425), `some false` when it is down. -/
def readLink (s : State) (a : Nat) : Option Bool :=
  let k := stackOfDpa s a
  if k.rd.mode = .down ∨ k.wr.mode = .down then some false else if stackHeld k then none else some true

/-- A burst of memory that exists. -/
def burstThere (s : State) (a : Nat) : Bool := a + 512 ≤ viewBase && installed s a 512

/-- A burst as it is served: allocated, or refused for its POISON (R420, R445). -/
def serveBurst (s : State) (a : Nat) (q : Asker) : State :=
  if poisoned s a then memFault s a 2 q else mscFill s a (q.job s)

/-- A burst decoded well (R417, R418). -/
def deliverBurst (s : State) (a : Nat) (q : Asker) (e : BurstErr) : State := serveBurst (countCorr s a e) a q

/-- An uncorrectable error in a line: a clean one is left to the next access to refill; a dirty one is written back with
POISON = 1, which makes the stored code good, and counted (R447). -/
def lineUncorr (s : State) (a : Nat) (c : MscLine) : State :=
  if c.dirty then
    let s := logMem (mscDrop (writeBack s c) a c) a 4
    { s with mem := { s.mem with poison := insertNat c.burst s.mem.poison } }
  else mscDrop s a c

/-- A read of a burst in no line and in no write queue: it waits while the stack is held, fails where it is down, and is decoded
otherwise; an uncorrectable one is read again (R418, R425, R426). -/
def readStack (s : State) (a : Nat) (q : Asker) (e : BurstErr) : State :=
  match readLink s a with
  | none => { s with mem := { s.mem with held := s.mem.held ++ [{ dpa := a, ask := q }] } }
  | some false => memFault s a 1 q
  | some true =>
    if readsOk s a e then deliverBurst s a q e
    else { s with mem := { s.mem with rereads := s.mem.rereads ++ [{ dpa := a, ask := q }] } }

/-- A read of a burst: a hit is served from its line, with the errors of R447; a burst in a write queue from there; any other from its
stack. -/
def readBurst (s : State) (a : Nat) (q : Asker) (e : BurstErr) : State :=
  match mscLine s a (q.job s) with
  | some c => if e.syms.length ≤ 1 then mscTouch s a c else lineUncorr s a c
  | none => if queued s a then serveBurst s a q else readStack s a q e

/-- The groups whose apply point a memory request passes (R45, Table 1.6). -/
def memApply (s : State) : State := configApply .memFrc (configApply .memJob (configApply .memCfg s))


/-- The bursts that a unit may have in flight (Table 10.10). -/
def unitLimit : WaitUnit → Nat
  | .blk _ => 256
  | .sce _ | .rve _ => 512
  | .vse _ => 1024
  | .smp _ => 128
  | .net | .mgmt => 2048

/-- Whether a read finds its unit, its channel's read queue and its half's tracker below their limits (R449). -/
def readRoom (s : State) (a : Nat) (u : WaitUnit) : Bool :=
  let rs := s.mem.rereads ++ s.mem.held
  decide ((rs.filter (fun r => r.ask.unit = u)).length + (s.mem.stores.filter (fun p => p.src = u)).length < unitLimit u) &&
  decide ((rs.filter (fun r => dpaChan s r.dpa = dpaChan s a)).length < 64) &&
  decide ((rs.filter (fun r => dpaHalf r.dpa = dpaHalf a)).length < 16384)

/-- Whether a unit's read goes on: of a burst that exists, with the data clocks running; not while it stands still with its launch, behind
its own stores across the Hinge, at a limit of Table 10.10, without the credits to cross, or where the line to give way has no place to
go (R26, R27, R30, R34, R449). -/
def readMay (s : State) (a : Nat) (q : Asker) : Bool :=
  burstThere s a && clocked s && !(!q.unit.own && stalled s) && !readBehind s q.unit a 512 && readRoom s a q.unit &&
  crossMay s q.unit.half a && !((mscLine s a (q.job s)).isNone && fillWaits s a (q.job s))


/-- MEMORY_READ (R411, R417): a read of a unit. -/
def memoryRead (dpa : Nat) (q : Asker) (e : BurstErr) (s : State) : State :=
  let a := 512 * burstOf dpa
  let s := memApply s
  if readMay s a q then readBurst (crossSend s q.unit.half a) a q e else s

def execMemoryRead (dpa : Nat) (q : Asker) (e : BurstErr) (s : State) : Host.Outcome State Fault Refusal :=
  .next (memoryRead dpa q e s)

/-- Take the entries of a burst off the re-reads outstanding. -/
def dropRereads (s : State) (a : Nat) : State :=
  { s with mem := { s.mem with rereads := s.mem.rereads.filter (fun r => r.dpa ≠ a) } }

/-- MEMORY_REREAD (R418-R420): the second read of a burst. When it fails too, MEM_UNCORR is raised once, when it is poisoned
MEM_POISON: every launch that asked for the burst halts, and no line is allocated. -/
def memoryReread (k : Nat) (e : BurstErr) (s : State) : State :=
  match s.mem.rereads[k]? with
  | none => s
  | some r =>
    match readLink s r.dpa with
    | none => s
    | up =>
      if !clocked s then s
      else
        let asked := (s.mem.rereads.filter (fun x => x.dpa = r.dpa)).map (·.ask)
        let s := dropRereads s r.dpa
        if up = some true ∧ readsOk s r.dpa e then
          let s := countCorr s r.dpa e
          if poisoned s r.dpa then burstFault s r.dpa 2 asked else mscFill s r.dpa (r.ask.job s)
        else burstFault (damage s r.dpa) r.dpa 1 asked

def execMemoryReread (k : Nat) (e : BurstErr) (s : State) : Host.Outcome State Fault Refusal :=
  .next (memoryReread k e s)

/-! ### Writes -/

/-- A store of a whole burst. -/
def PendStore.whole (p : PendStore) : Bool := p.data.length = 512 && p.data.all (fun x => x.2 = 0xFF)

/-- The store leaves those waiting; `ok` says it was accepted, and increments that waited for it wait for one less
(R225). -/
def dropStore (s : State) (k : Nat) (p : PendStore) (ok : Bool) : State :=
  let rank := ((s.mem.stores.take k).filter (fun x => x.src = p.src)).length
  let s := { s with mem := { s.mem with stores := s.mem.stores.eraseIdx k } }
  if ok then
    { s with flagReqs := s.flagReqs.map (fun f =>
        if f.src = p.src ∧ rank < f.before then { f with before := f.before - 1 } else f) }
  else s

/-- Whether a store crosses the Hinge to its home half. -/
def PendStore.crosses (p : PendStore) : Bool := decide (p.src.half ≠ dpaHalf p.addr)

/-- Whether an earlier store must be accepted before a later one: one of the same unit to the same burst (R411), or, across
the Hinge, to the same controller (R27). -/
def PendStore.before (s : State) (x p : PendStore) : Bool :=
  x.src = p.src && (burstOf x.addr = burstOf p.addr || (p.crosses && x.crosses && dpaStack s x.addr = dpaStack s p.addr))

/-- Who makes a store. -/
def PendStore.asker (p : PendStore) : Asker := { lid := p.lid, unit := p.src, idx := p.idx }

/-- Whether the arrival of a block of a half waits to cross, its stores accepted (R28, R47). -/
def arrivalWaits (s : State) (half : Nat) : Bool :=
  (List.finRange 48).any (fun b => decide (b.val / 24 = half) && (arrivalOf s b).any (fun x => arrivalCrosses x.2 b x.1) &&
    !storesWait s (.blk b))

/-- Whether half 0 has the release of a barrier, an apply or the dispatch of a launch to send to half 1. -/
def orderWaits (s : State) : Bool :=
  s.barriers.any (fun x => releaseCrosses x && barrierDue s x) || allGroups.any (fun g => groupInHalf1 g && applyDue s g) ||
  (nextLaunch s).any (·.inHalf1)

/-- Whether a Control beat waits in a half to cross the Hinge, which goes ahead of every other class (R23, Table 1.2); without a
credit it cannot go, and holds nothing up (R26). -/
def controlWaits (s : State) (half : Nat) : Bool :=
  hingeTakes s half 0 && (arrivalWaits s half || (half = 0 && orderWaits s))

/-- The store that may be accepted next of its source: R27 and R411 keep order, it is one of as many as its unit may have in flight
(R449), and one that crosses the Hinge needs a Request credit, with no Control beat before it (R23, R26). -/
def storeNext (s : State) (k : Nat) : Option PendStore :=
  match s.mem.stores[k]? with
  | none => none
  | some p =>
    let before := s.mem.stores.take k
    if before.any (fun x => x.before s p) ∨ unitLimit p.src ≤ (before.filter (fun x => x.src = p.src)).length ∨
        (p.crosses ∧ (!hingeTakes s p.src.half 1 ∨ controlWaits s p.src.half)) ∨ !clocked s then none
    else some p

/-- The store's bytes take effect (R410); its beat, if it crosses, has left its half (R26). -/
def acceptStore (s : State) (k : Nat) (p : PendStore) : State :=
  let s := if p.crosses then hingeSend s p.src.half 1 else s
  dropStore (memPut s p.addr (mergeMask (memBytes s p.addr p.data.length) p.data)) k p true

/-- A store is refused: its launch halts (R419, R426). -/
def refuseStore (s : State) (k : Nat) (p : PendStore) (code : Nat) : State :=
  memFault (dropStore s k p false) (512 * burstOf p.addr) code p.asker

/-- A store joins its line, which becomes dirty (Table 10.9). -/
def writeLine (s : State) (k : Nat) (p : PendStore) (c : MscLine) : State :=
  mscTouch (acceptStore s k p) p.addr { c with dirty := true }

/-- A whole burst enters its channel's write queue, its code made anew (R410, R413, log 134). -/
def writeQueue (s : State) (k : Nat) (p : PendStore) : State := enterQueue (acceptStore s k p) p.addr [p.lid]

/-- MEMORY_WRITE (R410, R426, R445): a store is accepted: merged into its line, or, a whole burst, into its channel's write
queue. A part of a burst that is in no line needs READ_MODIFY_WRITE. -/
def memoryWrite (k : Nat) (s : State) : State :=
  let s := memApply s
  match storeNext s k with
  | none => s
  | some p =>
    match mscLine s p.addr (p.asker.job s), readLink s p.addr with
    | some c, _ => writeLine s k p c
    | none, some false => refuseStore s k p 1
    | none, _ => if p.whole ∧ !queueFull s p.addr then writeQueue s k p else s

/-- What a store meets on its way (Table 15.4): a fabric word that fails its check is not written, and halts the launch; one that is
corrected is counted. -/
def storeUpset (s : State) (c : StoreCmd) (go : State → State) : State :=
  match c.u, storeNext s c.k with
  | .fabric true, some p =>
    let s := dropStore s c.k p false
    if p.src.own then s else unitHalt s p.src p.lid 0x3E01 p.idx 0
  | .fabric false, some _ => go (cfld s .hltEcc 0 31 16 1)
  | _, _ => go s

def execMemoryWrite (c : StoreCmd) (s : State) : Host.Outcome State Fault Refusal := .next (storeUpset s c (memoryWrite c.k))

/-- READ_MODIFY_WRITE (R134, R411, R419, R420): a store of part of a burst. A burst in the write queue is merged there. One that
does not decode, or is poisoned, stays as it is, and the launch halts. `e` is what the reads of R418 finally met. -/
def readModifyWrite (k : Nat) (e : BurstErr) (s : State) : State :=
  let s := memApply s
  match storeNext s k with
  | none => s
  | some p =>
    let a := 512 * burstOf p.addr
    if p.whole ∨ (mscLine s p.addr (p.asker.job s)).isSome ∨ queueFull s a then s
    else
      match readLink s a with
      | some false => refuseStore s k p 1
      | up =>
        if queued s a then writeQueue s k p
        else if up = none then s
        else if !readsOk s a e then refuseStore (damage s a) k p 1
        else if poisoned s a then refuseStore (countCorr s a e) k p 2
        else writeQueue (countCorr s a e) k p

def execReadModifyWrite (c : StoreCmd) (e : BurstErr) (s : State) : Host.Outcome State Fault Refusal :=
  .next (storeUpset s c (readModifyWrite c.k e))

/-! ### Held reads (R425) -/

/-- The reads that waited for a stack are served, in their order, once its links work again: without error, since their command has
told of none (log 137). -/
def serveHeld (s : State) (i : Fin 24) : State :=
  let mine (r : Reread) : Bool := dpaStack s r.dpa = i.val
  if stackHeld s.stk[i] then s
  else
    (s.mem.held.filter mine).foldl (fun s r => readBurst s r.dpa r.ask { syms := [], addrBad := false })
      { s with mem := { s.mem with held := s.mem.held.filter (fun r => !mine r) } }

/-- LINK_RETRAIN_DONE (R425): a held link goes on, and the accesses that waited with it. -/
def execLinkRetrainDone (i : Fin 24) (d : LinkDir) (s : State) : Host.Outcome State Fault Refusal :=
  .next (if clocked s then serveHeld (linkRetrainDone i d s) i else s)

/-- A write frame has passed its check, so the failed checks of its stack are no longer in succession (R423). -/
def goodFrames (s : State) : State :=
  if s.stk.toList.all (fun k => k.badFrames = 0) then s
  else { s with stk := s.stk.map (fun k => if takesWrites k then { k with badFrames := 0 } else k) }

/-- Write queues go on sending: in a management cycle each stack that takes writes takes the oldest burst of each of its
channels (R34, log 136). -/
def drainQueues (s : State) : State :=
  if s.mem.wq = [] ∨ !clocked s then s
  else
    let first (x : Queued) : Bool := (chanQueue s (512 * x.burst)).head? = some x
    goodFrames { s with mem := { s.mem with wq := s.mem.wq.filter (fun x => !(first x && takesWrites (stackOfDpa s (512 * x.burst)))) } }

/-! ### Scrub and flush -/

/-- PATROL_SCRUB (R411, R421): class BACK, so suspended from throttle level 1 on (Table 10.7). A corrected burst is written back;
an uncorrectable one is logged and left. A burst in the write queue is served from there. -/
def patrolScrub (dpa : Nat) (e : BurstErr) (s : State) : State :=
  let a := 512 * burstOf dpa
  if !burstThere s a ∨ readLink s a ≠ some true ∨ 0 < rfld s .stkStat (dpaStack s a) 15 14 ∨ !clocked s ∨ queued s a then s
  else if readsOk s a e then countCorr s a e
  else logMem (damage s a) a 3

def execPatrolScrub (dpa : Nat) (e : BurstErr) (s : State) : Host.Outcome State Fault Refusal :=
  .next (patrolScrub dpa e s)

/-- MSC_FLUSH (R448): a write of MEM_MSCFLUSH starts a flush of each half whose bit is 1. -/
def mscFlush (v : BitVec 32) (s : State) : State :=
  [(0 : Fin 2), 1].foldl (fun s h =>
    if bitsAt v h.val 1 = 1 then modHalf s h (fun g => { g with flushing := true }) else s) s

def execMscFlush (v : BitVec 32) (s : State) : Host.Outcome State Fault Refusal := .next (mscFlush v s)

/-- Write back every dirty line of a half, and invalidate every line (R448). -/
def flushHalf (s : State) (h : Fin 2) : State :=
  let s := ((s.halves[h]).msc).foldl writeBack s
  modHalf s h (fun g => { g with msc := [], flushing := false })

/-- Whether a dirty line of a half finds no place in its write queue, so that the flush waits (R449). -/
def flushWaits (s : State) (h : Fin 2) : Bool :=
  ((s.halves[h]).msc).any (fun c => c.dirty && !takesWrites (stackOfDpa s (512 * c.burst)) && !stackOff (stackOfDpa s (512 * c.burst)))

/-- MSC_FLUSH_DONE (R448): the flush that runs is complete. -/
def execMscFlushDone (h : Fin 2) (s : State) : Host.Outcome State Fault Refusal :=
  .next (if (s.halves[h]).flushing ∧ clocked s ∧ !flushWaits s h then flushHalf s h else s)

end Sys2Proof.Machine
end

