-- ==== Sys2Proof/Machine/Image.lean ====
section
/-! DEFINITION. The context image: its layout, saving and restoring (09_launches_preemption.md, R383-R396, R754, R759; log 17). -/

namespace Sys2Proof.Machine

def kib : Nat := 1024

/-! ### Layout (R387, Table 9.5) -/

/-- A piece of an image: a state section of a half, region or block; a bank; an accumulator slot; or a 512-byte burst of a
region buffer or scratchpad. -/
inductive Piece where
  | half (h : Fin 2) | rgn (r : Fin 8) | rbuf (r : Fin 8) (i : Nat)
  | blk (b : Fin 48) | bank (b : Fin 48) (k : Nat) | slot (b : Fin 48) (k : Nat) | scratch (b : Fin 48) (i : Nat)
  deriving DecidableEq, Repr

def Piece.len : Piece → Nat
  | .rbuf _ _ | .scratch _ _ => 512
  | .bank _ k => (Space.bank k).size
  | _ => 64 * kib

/-- The regions of a launch that lie in a half, ascending. -/
def Launch.rgnsIn (l : Launch) (h : Nat) : List (Fin 8) := l.rgns.filter (fun r => r.val / 4 = h)

def groupBytes : Nat := 86464 * kib

/-- Bytes of part 0, and where part 1 lies (R387). -/
def Launch.part0Len (l : Launch) : Nat := 192 * kib + (l.rgnsIn 0).length * groupBytes
def Launch.part1 (l : Launch) : Nat :=
  let a := l.fld 48 8 % 2 ^ 44
  if a = 0 then l.save0 + l.part0Len else a

/-- The save area of a launch: ranges of base and length (R387). -/
def Launch.saveArea (l : Launch) : List (Nat × Nat) :=
  if l.save0 = 0 then [] else [(l.save0, l.part0Len), (l.part1, (l.rgnsIn 1).length * groupBytes)]

/-! ### The live map (R384) -/

/-- The LIVEMAP of a launch. -/
def Launch.livemap (l : Launch) : Nat := l.fld 56 8 % 2 ^ 44

def Launch.livemapLen (l : Launch) : Nat := 64 * (7 * l.rgns.length)

/-- Entry `i` of a live map. -/
def lmEntry (m : List Byte) (i : Nat) : List Byte := (m.drop (64 * i)).take 64

/-- Entries of a block and of a region. -/
def lmBlk (l : Launch) (m : List Byte) (b : Fin 48) : List Byte := lmEntry m (l.blks.idxOf b)
def lmRgn (l : Launch) (m : List Byte) (r : Fin 8) : List Byte := lmEntry m (6 * l.rgns.length + l.rgns.idxOf r)

/-- The ranges of an entry from byte `b`, `n` at most: first granule, in `w` bits, and count; a count of 0 ends the list. -/
def lmRanges (e : List Byte) (b n w : Nat) : List (Nat × Nat) :=
  ((List.range n).map (fun i => (leAt e (b + 8 * i) 8 % 2 ^ w, leAt e (b + 8 * i) 8 / 2 ^ 32 % 2 ^ w))).takeWhile
    (fun x => x.2 ≠ 0)

def inRanges (l : List (Nat × Nat)) (g : Nat) : Bool := l.any (fun x => x.1 ≤ g && g < x.1 + x.2)

/-- Whether granule `g` of a scratchpad or of a region buffer is live; with no map everything is. -/
def liveScratch (l : Launch) (m : Option (List Byte)) (b : Fin 48) (g : Nat) : Bool :=
  match m with | none => true | some m => inRanges (lmRanges (lmBlk l m b) 8 7 14) g
def liveRbuf (l : Launch) (m : Option (List Byte)) (r : Fin 8) (g : Nat) : Bool :=
  match m with | none => true | some m => inRanges (lmRanges (lmRgn l m r) 0 8 17) g

/-- Whether a bank, or an accumulator slot, is live. -/
def liveBank (l : Launch) (m : Option (List Byte)) (b : Fin 48) (k : Nat) : Bool :=
  match m with | none => true | some m => leAt (lmBlk l m b) 4 1 / 2 ^ k % 2 = 1
def liveSlot (l : Launch) (m : Option (List Byte)) (b : Fin 48) (k : Nat) : Bool :=
  match m with | none => true | some m => leAt (lmBlk l m b) 0 4 / 2 ^ k % 2 = 1

/-! ### Pieces in ascending image offset -/

/-- The live bursts of a buffer of `n` granules: a burst is two granules (R383). -/
def liveBursts (live : Nat → Bool) (n : Nat) : List Nat :=
  (List.range (n / 2)).filter (fun i => live (2 * i) || live (2 * i + 1))

def blkPieces (l : Launch) (m : Option (List Byte)) (a : Nat) (b : Fin 48) : List (Nat × Piece) :=
  [(a, .blk b)] ++
  ((List.range 3).filter (liveBank l m b)).map (fun k => (a + (64 + 1024 * k) * kib, Piece.bank b k)) ++
  ((List.range 32).filter (liveSlot l m b)).map (fun k => (a + (4160 + 64 * k) * kib, Piece.slot b k)) ++
  (liveBursts (liveScratch l m b) 16384).map (fun i => (a + 6208 * kib + 512 * i, Piece.scratch b i))

def rgnPieces (l : Launch) (m : Option (List Byte)) (a : Nat) (r : Fin 8) : List (Nat × Piece) :=
  [(a, .rgn r)] ++
  (liveBursts (liveRbuf l m r) 98304).map (fun i => (a + 64 * kib + 512 * i, Piece.rbuf r i)) ++
  (List.finRange 6).flatMap (fun j => blkPieces l m (a + (24640 + 10304 * j.val) * kib) (blkOf r j))

/-- Every section that a save with a live map writes after the header, with its address. -/
def pieces (l : Launch) (m : Option (List Byte)) : List (Nat × Piece) :=
  [(l.save0 + 64 * kib, .half 0), (l.save0 + 128 * kib, .half 1)] ++
  ((l.rgnsIn 0).zipIdx).flatMap (fun x => rgnPieces l m (l.save0 + 192 * kib + x.2 * groupBytes) x.1) ++
  ((l.rgnsIn 1).zipIdx).flatMap (fun x => rgnPieces l m (l.part1 + x.2 * groupBytes) x.1)

/-! ### What a piece holds -/

/-- The state sections (log 17): queues are not saved, so a block goes on at its oldest undispatched instruction. -/
def ctxOfBlk (s : State) (l : Launch) (b : Fin 48) : Ctx :=
  let k := s.blocks[b]
  let first := match k.wait with
    | some (.barrier i true) => (findBarrier s i l.lid).map (·.firstRan)
    | _ => none
  .blk { k with
    bankA0 := [], bankA1 := [], bankB := [], junk0 := none, junk1 := none, junk2 := none, scratch := [], acc := [],
    slotJunk := [], iq := [], nextFetch := ((k.iq.head?).map (·.idx)).getD k.nextFetch } l.ran first

def ctxOfRgn (s : State) (l : Launch) (r : Fin 8) : Ctx :=
  .rgn { s.regions[r] with rbuf := [], cache := [], misses := [], inv := [], hosted := [], turns := [], written := [], windows := [], late := [] } l.ran

def ctxOfHalf (s : State) (l : Launch) (h : Fin 2) : List Ctx :=
  let g := s.halves[h]
  [if l.hasSmp h then .smp g.smp g.smpRow l.ran else .smp ListRun.idle none l.ran,
   if l.hasVse h then .vse g.vse g.vseJob l.ran else .vse ListRun.idle none l.ran]

/-- The bytes of a state section. -/
def ctxBytes (c : Ctx) : List Byte := (List.range c.len).map (Config.ctxByte c)

/-- What the state section of a piece carries, if it is one. -/
def pieceCtx (s : State) (l : Launch) : Piece → List Ctx
  | .half h => ctxOfHalf s l h
  | .rgn r => [ctxOfRgn s l r]
  | .blk b => [ctxOfBlk s l b]
  | _ => []

def pieceBytes (s : State) (l : Launch) (p : Piece) : List Byte :=
  match p with
  | .rbuf r i => srange zeroFill (s.regions[r]).rbuf (512 * i) 512
  | .bank b k => let x := s.blocks[b]; srange (x.bankD k) (x.bank k) 0 (Space.bank k).size
  | .slot b k => (accRow (s.blocks[b]) k 0 0 16384).flatMap (fun w => toLe 4 w.toNat)
  | .scratch b i => srange zeroFill (s.blocks[b]).scratch (512 * i) 512
  | p => (pieceCtx s l p).flatMap ctxBytes

/-- What the bytes of a state section carry: what was written when they are bytes that the device wrote, else what the open
layout gives (log 17). -/
def ctxRead (s : State) (bs : List Byte) : Ctx := (s.ctxs.find? (fun c => ctxBytes c = bs)).getD (Config.ctxOf bs)

/-! ### The header (Table 9.6) -/

/-- RCRC: the record with LID, FLAGS, TSTART, SLICE, SAVE0 and SAVE1 as zero. -/
def rcrc (l : Launch) : BitVec 64 :=
  let z (bs : List Byte) (b n : Nat) : List Byte := putLe bs b n 0
  crc64 (z (z (z (z (z l.hdr 0 4) 5 1) 24 12) 40 8) 48 8 ++ l.roster.flatMap (fun x => toLe 64 x.toNat))

/-- Bits of the blocks that have arrived at barrier `i` and not left it. -/
def barrMask (s : State) (lid : BitVec 32) (i : Fin 32) : Nat :=
  (((findBarrier s i lid).map (·.arrived)).getD []).foldl (fun n b => n + 2 ^ b) 0

def imageHeader (s : State) (l : Launch) (full : Bool) (icrc : BitVec 64) : List Byte :=
  toLe 2 1 ++ toLe 2 0x4880 ++ toLe 1 0xA1 ++ toLe 1 (rfld s .devFw 0 23 16) ++ toLe 1 (if full then 1 else 2) ++
  toLe 1 (l.fld 6 1) ++ toLe 4 l.lid.toNat ++ toLe 4 0 ++ toLe 8 (rcrc l).toNat ++ toLe 8 icrc.toNat ++
  toLe 8 s.dtc.toNat ++ toLe 4 (l.sliceLeft / 100) ++ List.replicate 212 0 ++
  (List.finRange 32).flatMap (fun i => toLe 8 (barrMask s l.lid i)) ++ List.replicate (64 * kib - 512) 0

/-- The checks of R396 on the header that stands in memory. -/
def headerOk (s : State) (l : Launch) : Bool :=
  let f (b n : Nat) : Nat := memLe s (l.save0 + b) n
  (firstBad s l.save0 (64 * kib)).isNone && f 0 2 = 1 && f 2 2 = 0x4880 && f 4 1 = 0xA1 &&
  f 5 1 = rfld s .devFw 0 23 16 && f 7 1 = l.fld 6 1 && f 16 8 = (rcrc l).toNat

/-- A bad burst met in a range is counted and logged, and halts nothing. -/
def logBad (s : State) (a n : Nat) : State :=
  match firstBad s a n with
  | some bad => logMem s bad.1 (if bad.2 then 1 else 2)
  | none => s

/-! ### Saving (R380-R388) -/

/-- The live map that a save or restore goes by: none for all of it (R386). -/
def liveMapOf (s : State) (l : Launch) (partial_ : Bool) : Option (List Byte) :=
  if !partial_ ∨ l.livemap = 0 ∨ (firstBad s l.livemap l.livemapLen).isSome then none
  else some (memBytes s l.livemap l.livemapLen)

/-- The dirty cache lines in the ways of a launch's job slot go to their stacks (R388). -/
def writeBackJob (s : State) (job : Nat) : State :=
  let mine (h : Fin 2) (c : MscLine) : Bool := c.way ∈ mscWays s h.val job
  (List.finRange 2).foldl (fun t h =>
    let t := ((s.halves[h]).msc.filter (mine h)).foldl writeBack t
    modHalf t h (fun g => { g with msc := g.msc.map (fun c => if mine h c then { c with dirty := false } else c) })) s

/-- The save of a stopped launch: sections, then the header (R383, R387, R388). -/
def saveImage (s : State) (l : Launch) (partial_ : Bool) : State :=
  let s := if partial_ ∧ l.livemap ≠ 0 then logBad s l.livemap l.livemapLen else s
  let m := liveMapOf s l partial_
  let ps := pieces l m
  let s := writeBackJob s l.job
  let t := ps.foldl (fun t p => putMem t p.1 (pieceBytes s l p.2)) s
  let t := { t with ctxs := t.ctxs ++ ps.flatMap (fun p => pieceCtx s l p.2) }
  putMem t l.save0 (imageHeader s l m.isNone (crc64 (ps.flatMap (fun p => pieceBytes s l p.2))))

/-- Whether a range that exists is on a stack that is held (R425). -/
def heldAt (s : State) (a n : Nat) : Bool := a + n ≤ viewBase && installed s a n && readWaits s a n 0

/-- The halves from which the beats of a save cross the Hinge: a half with a part of the launch whose area lies in the other half's
memory (Table 1.2). Those of a restore cross the other way. -/
def saveFrom (l : Launch) : List Nat :=
  (if (l.rgnsIn 0 ≠ [] ∨ l.hasSmp 0 ∨ l.hasVse 0) ∧ dpaHalf l.save0 ≠ 0 then [0] else []) ++
  (if (l.rgnsIn 1 ≠ [] ∧ dpaHalf l.part1 ≠ 1) ∨ ((l.hasSmp 1 ∨ l.hasVse 1) ∧ dpaHalf l.save0 ≠ 1) then [1] else [])

/-- Whether the Hinge takes the Save beats of some halves, and their sending. -/
def saveCredit (s : State) (hs : List Nat) : Bool := hs.all (fun h => hingeTakes s h 4)
def saveSend (s : State) (hs : List Nat) : State := hs.foldl (fun s h => hingeSend s h 4) s

/-- Whether a dirty line of a job slot finds no place in its write queue (R449). -/
def jobLinesWait (s : State) (job : Nat) : Bool :=
  (List.finRange 2).any (fun h => ((s.halves[h]).msc).any (fun c => decide (c.way ∈ mscWays s h.val job) && c.dirty &&
    !takesWrites (stackOfDpa s (512 * c.burst)) && !stackOff (stackOfDpa s (512 * c.burst))))

/-- Whether a save has to wait: the Hinge is held or takes none of its beats, its live map is on a held stack, or a write of it ends
neither way (R30, R388, R425, R449). -/
def saveWaits (s : State) (l : Launch) (partial_ : Bool) : Bool :=
  stalled s || !saveCredit s (saveFrom l) || (partial_ && decide (l.livemap ≠ 0) && heldAt s l.livemap l.livemapLen) ||
  jobLinesWait s l.job || !((l.save0, Piece.half 0) :: pieces l (liveMapOf s l partial_)).all (fun p => writeEnds s p.1 p.2.len)

/-- The overrun of a stop in µs, and its entry of DEV_OVRUN for a stop that a slice end began (R394). -/
def countOverrun (s : State) (l : Launch) : State :=
  let us := l.overrun / 100
  if us = 0 then s
  else
    let m := max (rfld s .devOvrun l.job 31 16) (min us 0xFFFF)
    cfld (wfld s .devOvrun l.job 31 16 m) .devOvrun l.job 15 0 1

/-- SAVE_COMPLETE (R383, R388, R394): every unit of the launch has stopped and its stores are accepted; the image is written,
the resources are free, and the STOP completes or STOPPED is posted. -/
def saveComplete (lid : BitVec 32) (s : State) : State :=
  match findLaunch s lid with
  | none => s
  | some l =>
    match l.st, l.stop with
    | .stopping, some (cause, partial_, _) =>
      if !allStopped s l ∨ allFinished s l ∨ saveWaits s l partial_ then s
      else
        let s := cfld (release (saveImage (saveSend s (saveFrom l)) l partial_) lid) .devPrestat 0 15 8 1
        let s := modLaunch s lid (fun l => { l with st := .saved, stop := none, overrun := 0 })
        match cause with
        | .command ring cid => finishCmd 2 s (cmdDone ring 1 0 cid lid (l.overrun / 100) [])
        | .slice => postEvent (countOverrun s l) l.ring 0x5002 lid (l.overrun / 100) []
        | _ => postEvent s l.ring 0x5002 lid (l.overrun / 100) []
    | _, _ => s

def execSaveComplete (lid : BitVec 32) (s : State) : Host.Outcome State Fault Refusal := .next (saveComplete lid s)

/-! ### Restoring (R396, R754, R759) -/

/-- A list engine's run as a launch takes it up again. -/
def ListRun.taken (u : ListRun) (lid : BitVec 32) : ListRun := { u with lid := u.lid.map (fun _ => lid) }

/-- A bank, slot or burst of a buffer from its bytes. Of a burst only the live granules are restored (R383). -/
def keepLive (live : Nat → Bool) (i : Nat) (old new : List Byte) : List Byte :=
  (if live (2 * i) then new.take 256 else old.take 256) ++ (if live (2 * i + 1) then new.drop 256 else old.drop 256)

def clearJunk (k : Block) (i : Nat) : Block :=
  match i with
  | 0 => { k with junk0 := none }
  | 1 => { k with junk1 := none }
  | _ => { k with junk2 := none }

/-- The words of bytes, little-endian. -/
def leWords (bs : List Byte) : List Word := (List.range (bs.length / 4)).map (fun i => BitVec.ofNat 32 (leAt bs (4 * i) 4))

/-- A block section taken up (Table 9.4). -/
def takeBlk (s : State) (l : Launch) (b : Fin 48) (c : Ctx) : State :=
  match c with
  | .blk k _ _ =>
    let s := modBlk s b (fun x => { x with
      lid := some l.lid, iq := [], nextFetch := k.nextFetch, loadQ := k.loadQ, arrayQ := k.arrayQ, drainQ := k.drainQ,
      syncQ := k.syncQ, job := none, wait := k.wait, page := none, intSat := k.intSat, stopped := k.stopped,
      finished := k.finished })
    wreg s .blkPc b.val (BitVec.ofNat 32 k.nextFetch)
  | _ => s

/-- A region section taken up: flags, broadcasts, and where its engines stand; the Canopy cache starts empty. -/
def takeRgn (s : State) (l : Launch) (r : Fin 8) (c : Ctx) : State :=
  match c with
  | .rgn g _ => modRgn s r (fun x => { x with
      flags := g.flags, cache := [], misses := [], bcasts := g.bcasts.map (fun y => { y with lid := l.lid }),
      sce := g.sce.taken l.lid, rve := g.rve.taken l.lid, bucketsDone := g.bucketsDone })
  | _ => s

/-- A half section taken up, for the units that the launch holds: a stream engine resumes at the saved row (R505). -/
def takeHalf (s : State) (l : Launch) (h : Fin 2) (a b : Ctx) : State :=
  let s := match a with
    | .smp u row _ => if l.hasSmp h then modHalf s h (fun x => { x with smp := u.taken l.lid, smpRow := row }) else s
    | _ => s
  match b with
  | .vse u job _ => if l.hasVse h then modHalf s h (fun x => { x with vse := u.taken l.lid, vseJob := job }) else s
  | _ => s

/-- One piece restored. -/
def takePiece (l : Launch) (m : Option (List Byte)) (s : State) (p : Nat × Piece) : State :=
  let bs := memBytes s p.1 p.2.len
  match p.2 with
  | .half h => takeHalf s l h (ctxRead s (bs.take 16384)) (ctxRead s (bs.drop 16384))
  | .rgn r => takeRgn s l r (ctxRead s bs)
  | .blk b => takeBlk s l b (ctxRead s bs)
  | .bank b k => modBlk s b (fun x => clearJunk (x.setBank k (sput zeroFill [] 0 bs)) k)
  | .slot b k => modBlk s b (fun x => accPut (dropSlot x k) k 0 0 (leWords bs))
  | .scratch b i => modBlk s b (fun x =>
      let v := keepLive (liveScratch l m b) i (srange zeroFill x.scratch (512 * i) 512) bs
      { x with scratch := sput zeroFill x.scratch (512 * i) v })
  | .rbuf r i => modRgn s r (fun x =>
      let v := keepLive (liveRbuf l m r) i (srange zeroFill x.rbuf (512 * i) 512) bs
      { x with rbuf := sput zeroFill x.rbuf (512 * i) v })

/-- The count of array cycles that a section carries (R754), and that of a barrier's first arrival. -/
def Ctx.ran : Ctx → Nat
  | .blk _ n _ | .rgn _ n | .smp _ _ n | .vse _ _ n => n

def Ctx.first : Ctx → Option Nat
  | .blk _ _ f => f
  | _ => none

/-- The barriers of the image (BARR). -/
def takeBarriers (s : State) (l : Launch) (firsts : List (Fin 48 × Nat)) : State :=
  (List.finRange 32).foldl (fun s i =>
    let x := memLe s (l.save0 + 256 + 8 * i.val) 8
    let bs := (List.range 48).filter (fun b => x / 2 ^ b % 2 = 1)
    if bs = [] then s
    else
      let f := (firsts.find? (fun y => y.1.val ∈ bs)).map (·.2)
      setBarrier s i l.lid (some (Barrier.mk bs l.lid (f.getD 0) (arrayCyc s)))) s

/-- Whether the sections of the image read well and match ICRC. -/
def sectionsOk (s : State) (l : Launch) (ps : List (Nat × Piece)) : Bool :=
  ps.all (fun p => (firstBad s p.1 p.2.len).isNone) &&
  (crc64 (ps.flatMap (fun p => memBytes s p.1 p.2.len))).toNat = memLe s (l.save0 + 24) 8

/-- The restore of an image that passed its checks: the launch runs again. -/
def takeImage (s : State) (l : Launch) (m : Option (List Byte)) (ps : List (Nat × Piece)) : State :=
  let firsts := ps.filterMap (fun p => match p.2 with
    | .blk b => (ctxRead s (memBytes s p.1 p.2.len)).first.map (fun n => (b, n))
    | _ => none)
  let ran := ((ps.head?).map (fun p => (ctxRead s (memBytes s p.1 16384)).ran)).getD 0
  let left := memLe s (l.save0 + 40) 4
  let s := takeBarriers (ps.foldl (takePiece l m) s) l firsts
  let s := cfld s .devPrestat 0 7 0 1
  let s := modLaunch s l.lid (fun l =>
    { l with st := .running, ran := ran, sliceLeft := if l.fld 32 4 = 0 then 0 else 100 * left, resume := none })
  match l.resume with
  | some (ring, cid) => finishCmd 4 s (cmdDone ring 1 0 cid l.lid 0 [])
  | none => s

/-- LNC_IMAGE. -/
def cImage : Nat := 0x1007

/-- The restore fails (R759): a RESUME is refused and the launch stays saved; a launch with RESTORE ends, refused. -/
def restoreFail (s : State) (l : Launch) : State :=
  match l.resume with
  | some (ring, cid) =>
    let s := modLaunch (release s l.lid) l.lid (fun l => { l with st := .saved, resume := none })
    finishCmd 4 s (cmdDone ring 2 cImage cid l.lid 0 [])
  | none => endLaunch s l 2 cImage

/-- Whether a restore has to wait: the Hinge is held or takes none of its beats, or the header, the live map or a section is on a held
stack (R30, R425). -/
def restoreWaits (s : State) (l : Launch) (ps : List (Nat × Piece)) : Bool :=
  stalled s || !saveCredit s ((saveFrom l).map (1 - ·)) || heldAt s l.livemap l.livemapLen ||
  ((l.save0, Piece.half 0) :: ps).any (fun p => heldAt s p.1 p.2.len)

/-- RESTORE_COMPLETE (R396, R759). -/
def restoreComplete (lid : BitVec 32) (s : State) : State :=
  match (findLaunch s lid).filter (fun l => l.st = .restoring) with
  | none => s
  | some l =>
    let m := liveMapOf s l (memLe s (l.save0 + 6) 1 = 2)
    let ps := pieces l m
    if restoreWaits s l ps then s
    else if headerOk s l ∧ sectionsOk s l ps then takeImage (saveSend s ((saveFrom l).map (1 - ·))) l m ps
    else restoreFail (ps.foldl (fun s p => logBad s p.1 p.2.len) (logBad s l.save0 (64 * kib))) l

def execRestoreComplete (lid : BitVec 32) (s : State) : Host.Outcome State Fault Refusal := .next (restoreComplete lid s)

end Sys2Proof.Machine
end

