-- ==== Sys2Proof/Machine/Rings.lean ====
section
/-! DEFINITION. Reading commands from the command rings (12_latch_transport.md, R543-R554; R612-R615). -/

namespace Sys2Proof.Machine

/-! ### Memory as the network sees it (R614, R724) -/

def inLoader (s : State) : Bool := s.power.phase = .loader

/-- Bytes of a region buffer. -/
def rbufBytes : Nat := 24 * 2 ^ 20

/-- Whether bytes exist for the network: in the loader, the region buffers of half 0 (R614). -/
def devThere (s : State) (a n : Nat) : Bool :=
  if inLoader s then a + n ≤ 4 * rbufBytes else a + n ≤ viewBase && installed s a n

/-- One byte of a region buffer of half 0, by its loader address. -/
def loaderByte (s : State) (a : Nat) : Byte := sget zeroFill (s.regions[Fin.ofNat 8 (a / rbufBytes)]).rbuf (a % rbufBytes)

def devBytes (s : State) (a n : Nat) : List Byte :=
  if inLoader s then (List.range n).map (fun i => loaderByte s (a + i)) else memBytes s a n

/-- Bytes accepted into memory, or into the loader's region buffers. -/
def devPut (s : State) (a : Nat) (bs : List Byte) : State :=
  if inLoader s then
    (bs.zipIdx).foldl (fun s x => modRgn s (Fin.ofNat 8 ((a + x.2) / rbufBytes))
      (fun g => { g with rbuf := sset zeroFill g.rbuf ((a + x.2) % rbufBytes) x.1 })) s
  else putMem s a bs

/-- The first bad burst of a range; the loader's buffers have none. -/
def netBad (s : State) (a n : Nat) : Option (Nat × Bool) := if inLoader s then none else firstBad s a n

/-- Whether a request of the network waits for a held stack (R425). -/
def netWaits (s : State) (a n : Nat) : Bool := !inLoader s && readWaits s a n 0

/-! ### Entries -/

/-- Commands in flight: read, and their completions not yet written (R550). -/
def inFlight (s : State) : Nat :=
  ((s.rings.toList.map (fun r => ((r.map (fun x => x.outs.length)).getD 0))).sum) +
  (s.comps.filter (fun c => c.kind ≠ 3)).length

/-- The entry that a ring is to read next, if the device reads one now (R548, R550). -/
def nextCmd (s : State) (ring : Nat) : Option (Ring × Nat) :=
  match getRing s ring with
  | none => none
  | some r =>
    if (s.power.phase = .ready ∨ inLoader s) ∧ r.c ≠ r.p ∧ inFlight s < 4096 then
      some (r, r.cbase + 64 * (r.c.toNat % r.entries))
    else none

/-- Read entry C: it advances, and the command is in flight (R548, R550). -/
def readCmd (s : State) (ring : Nat) (cid : Word) (op : Nat) (lid : Word := 0) : State :=
  modRing s ring (fun r => { r with c := r.c + 1, outs := r.outs ++ [OutCmd.mk cid op lid] })

/-- A refusal of the command that a ring has just read. -/
def refuse (s : State) (ring : Nat) (cid : Word) (code : Nat) (lid : Word) (aux2 : Nat) : State :=
  finishNow s (cmdDone ring 2 code cid lid aux2 [])

/-- Success of the command that a ring has just read. -/
def succeed (s : State) (ring : Nat) (cid : Word) (lid : Word) (data : List Byte) : State :=
  finishNow s (cmdDone ring 1 0 cid lid 0 data)

def cmdFormat : Nat := 0x2001

/-- OP codes of Table 12.6. -/
def isOp (op b0 : Nat) : Bool := b0 = op || (op = 0 && decide (8 ≤ b0))

/-- Whether any byte of an entry from `b` on is not zero. -/
def tailUsed (e : List Byte) (b : Nat) : Bool := (e.drop b).any (· ≠ 0)

/-- Whether a reserved field of an entry is not zero, or OP, KIND or COUNT out of range (Table 12.6, Table 12.8). -/
def cmdBad (e : List Byte) : Bool :=
  decide (leAt e 1 3 ≠ 0) ||
  match leAt e 0 1 with
  | 0 | 7 => tailUsed e 8
  | 1 => decide (2 ^ 44 ≤ leAt e 8 8) || tailUsed e 16
  | 2 => decide (leAt e 12 1 ≠ 1) && decide (leAt e 12 1 ≠ 2) || tailUsed e 13
  | 3 | 4 => tailUsed e 12
  | 5 => decide (leAt e 16 1 = 0) || decide (8 < leAt e 16 1) || tailUsed e 17
  | 6 => decide (leAt e 16 1 = 0) || decide (8 < leAt e 16 1) || decide (leAt e 17 3 ≠ 0) || tailUsed e 52
  | _ => true

/-- Whether the recovery loader executes an OP (R615). -/
def loaderOp (op : Nat) : Bool := op = 0 || decide (5 ≤ op)

/-- The device reads the next entry of a ring when it holds command `op`, and acts on it by `act`, which has the entry and
its CID. A bad entry completes with CMD_FORMAT; an entry in a bad burst is not executed, and completes refused with the
memory fault. -/
def onCmd (s : State) (ring op : Nat) (act : State → List Byte → Word → State) : State :=
  match nextCmd s ring with
  | none => s
  | some (_, a) =>
    let e := devBytes s a 64
    let cid : Word := BitVec.ofNat 32 (leAt e 4 4)
    if !isOp op (leAt e 0 1) ∨ netWaits s a 64 then s
    else
      match netBad s a 64 with
      | some bad => refuse (logBad (readCmd s ring 0 op) a 64) ring 0 (if bad.2 then 0x3A01 else 0x3A02) 0 0
      | none =>
        if cmdBad e ∨ inLoader s ∧ !loaderOp op then refuse (readCmd s ring cid op) ring cid cmdFormat 0 0
        else act s e cid

/-- NOP (R553): completes at once. An entry with a reserved OP is read here too, and completes with CMD_FORMAT. -/
def execNop (ring : Fin 16) (s : State) : Host.Outcome State Fault Refusal :=
  .next (onCmd s ring.val 0 (fun s _ cid => succeed (readCmd s ring.val cid 0) ring.val cid 0 []))

/-- MARK (R553): completes when every earlier command of its ring has completed. -/
def execMark (ring : Fin 16) (s : State) : Host.Outcome State Fault Refusal :=
  .next (onCmd s ring.val 7 (fun s _ cid =>
    match getRing s ring.val with
    | some r => if r.outs = [] then succeed (readCmd s ring.val cid 7) ring.val cid 0 [] else readCmd s ring.val cid 7
    | none => s))

end Sys2Proof.Machine
end

