-- ==== Sys2Proof/Machine/Accept.lean ====
section
/-! DEFINITION. LAUNCH: the record and its acceptance (09_launches_preemption.md, R370-R375; 08_determinism.md, R361-R363), and
the stops that TAKE begins (R390). -/

namespace Sys2Proof.Machine

/-! ### The record (Tables 9.1, 9.2) -/

/-- The launch of a record that was read. -/
def launchOf (ring : Nat) (cid : Word) (hdr : List Byte) (roster : List (BitVec 512)) : Launch :=
  { lid := BitVec.ofNat 32 (leAt hdr 0 4), ring := ring, cid := cid, hdr := hdr, roster := roster, st := .waiting, begun := false,
    released := false, fault := 0, ran := 0, sliceLeft := 100 * leAt hdr 32 4, stop := none, resume := none, overrun := 0 }

/-- Roster entries of a record in memory: NROSTER of them, 512 at most. -/
def rosterOf (s : State) (rec n : Nat) : List (BitVec 512) :=
  (List.range n).map (fun q => packBytes 512 (memBytes s (rec + 2048 + 64 * q) 64))

/-! ### Checks (Table 9.3) -/

/-- Reserved fields of the header: byte, length, and the bits of them that are reserved. -/
def hdrReserved : List (Nat × Nat × Nat) :=
  [(4, 1, 0xCC), (5, 1, 0xE0), (7, 1, 0xFF), (36, 4, 2 ^ 32 - 1), (40, 8, 2 ^ 64 - 2 ^ 44), (48, 8, 2 ^ 64 - 2 ^ 44),
   (56, 8, 2 ^ 64 - 2 ^ 44), (73, 55, 2 ^ 440 - 1), (432, 80, 2 ^ 640 - 1), (1056, 224, 2 ^ 1792 - 1),
   (1536, 512, 2 ^ 4096 - 1)] ++
  (List.range 16).map (fun b => (416 + b, 1, 0xC0)) ++
  (List.range 16).flatMap (fun g => [(1280 + 16 * g, 8, 2 ^ 64 - 2 ^ 44), (1292 + 16 * g, 1, 0xFC), (1293 + 16 * g, 3, 2 ^ 24 - 1)])

/-- Reserved fields of a roster entry (Table 9.2). -/
def roReserved : List (Nat × Nat × Nat) :=
  [(4, 2, 0xFFFC), (33, 3, 2 ^ 24 - 1), (40, 8, 2 ^ 64 - 2 ^ 44), (48, 8, 2 ^ 64 - 2 ^ 44), (56, 8, 2 ^ 64 - 1)]

/-- Check 3, LNC_FORMAT. -/
def formatBad (l : Launch) : Bool :=
  hdrReserved.any (fun x => l.fld x.1 x.2.1 &&& x.2.2 != 0) ||
  l.roster.any (fun e => roReserved.any (fun x => fld e x.1 x.2.1 &&& x.2.2 != 0)) ||
  decide (512 < l.fld 10 2) || decide (16 < l.fld 72 1) ||
  (decide (l.fld 6 1 = 0) && !(List.finRange 2).any (fun h => l.hasSmp h || l.hasVse h)) ||
  l.blks.any (fun b => decide ((progRef l b).space < 2))

/-- Check 4, LNC_REGION (R402). -/
def regionOut (s : State) (l : Launch) : Bool := l.rgns.any (fun r => (inService s r.val).isEmpty)

/-- Edge `b`, in pages. -/
def Launch.edge (l : Launch) (b : Nat) : Nat := l.fld (384 + 2 * b) 2
def Launch.nbkt (l : Launch) : Nat := l.fld 72 1

/-- Check 5, LNC_SLOT. -/
def slotBad (l : Launch) : Bool :=
  (List.range l.nbkt).any (fun b => (l.slot (l.fld (416 + b) 1 % 64)).isNone || (decide (0 < b) && decide (l.edge b ≤ l.edge (b - 1))))

/-- The bucket of a key length: the first whose edge holds its pages. -/
def bucketOf (l : Launch) (klen : Nat) : Option Nat := (List.range l.nbkt).find? (fun b => (klen + 255) / 256 ≤ l.edge b)

/-- Check 6, LNC_ROSTER. -/
def rosterBad (l : Launch) : Bool :=
  (l.roster.zipIdx).any (fun x =>
    let pair := fld x.1 6 2
    (decide (pair ≠ 0xFFFF) && (decide (pair = x.2) || match l.roster[pair]? with
      | none => true
      | some y => decide (fld y 6 2 ≠ x.2))) ||
    (if l.nbkt = 0 then decide (roBkt x.1 ≠ 0) else bucketOf l (roKlen x.1) != some (roBkt x.1)))

/-- The grants of a launch: base, length, whether it is a WRITE grant (R372). -/
def Launch.grantList (l : Launch) : List (Nat × Nat × Bool) :=
  ((List.range 16).map (fun i =>
    let b := 1280 + 16 * i
    (l.fld b 8 % 2 ^ 44, l.fld (b + 8) 4 * 2048, decide (l.fld (b + 12) 1 / 2 % 2 = 1)))).filter (fun g => g.2.1 ≠ 0)

/-- Check 7, LNC_GRANT. -/
def grantBad (s : State) (l : Launch) : Bool :=
  let areas := (l :: s.launches).flatMap Launch.saveArea
  l.grantList.any (fun g => !installed s g.1 g.2.1 || (g.2.2 && areas.any (overlaps (g.1, g.2.1))))

/-- Check 8, LNC_SAVE. -/
def saveBad (s : State) (l : Launch) : Bool :=
  l.saveArea.any (fun a => !installed s a.1 a.2) ||
  (decide (l.save0 = 0) && (l.flag 4 || l.rgns.any (fun r => turnMode s r.val)))

/-- The checks of Table 8.4 (R361, R363). The device is PTP-locked in state LOCKED (R529). -/
def detBad (s : State) (l : Launch) : Option Nat :=
  let relax := l.fld 8 2
  let t := l.fld 24 8
  let now := s.dtc.toNat
  if 4 ≤ relax ∨ rfld s .devMode 0 0 0 = 1 ∧ relax ≠ 0 then some 0x1011
  else if !l.flag 0 then none
  else if rfld s .netStat 0 30 28 ≠ 2 then some 0x1012
  else if t < now then some 0x1013
  else if now + 10 ^ 10 < t then some 0x1014
  else none

/-- Checks 3 to 9, then those of Table 8.4, on a record that was read (R375): the code of the first that fails. -/
def recordBad (s : State) (l : Launch) : Option Nat :=
  if formatBad l then some 0x1002
  else if regionOut s l then some 0x1009
  else if slotBad l then some 0x1003
  else if rosterBad l then some 0x1004
  else if grantBad s l then some 0x1005
  else if saveBad s l then some 0x1006
  else if l.flag 4 ∧ !headerOk s l then some 0x1007
  else detBad s l

/-- Check 1, LNC_FULL; a device whose Hinge is down accepts no further launch (R31). -/
def launchFull (s : State) : Bool := decide (256 ≤ s.launches.length) || decide (s.hinge.mode = .down)

/-- Check 2, LNC_RECORD: of the header, then of the roster entries it names. -/
def recordThere (s : State) (a n : Nat) : Bool := a + n ≤ viewBase && installed s a n && (firstBad s a n).isNone

/-! ### TAKE (R390) -/

/-- A stop of a launch begins (R380). -/
def beginStop (s : State) (lid : BitVec 32) (cause : StopCause) (partial_ : Bool) : State :=
  modLaunch s lid (fun l => { l with st := .stopping, stop := some (cause, partial_, s.cyc), overrun := 0 })

/-- Every running launch of lower PRIO that holds a resource of an accepted launch with TAKE is stopped with a save; one
without a save area is passed over (R382, R390). -/
def takeStops (s : State) (l : Launch) : State :=
  (s.launches.filter (fun m => m.st = .running && m.meets l && decide (m.prio < l.prio) && decide (m.save0 ≠ 0))).foldl
    (fun s m => beginStop (cfld s .devPrestat 0 31 24 1) m.lid .take (decide (m.livemap ≠ 0))) s

/-! ### LAUNCH -/

/-- A launch that passed every check is accepted; it waits, and its command with it. -/
def accept (s : State) (l : Launch) : State :=
  let s := if l.flag 3 then takeStops s l else s
  let s := modRing s l.ring (fun r => { r with outs := r.outs.dropLast ++ [OutCmd.mk l.cid 1 l.lid] })
  { s with launches := s.launches ++ [l] }

/-- Acceptance of the record at `rec` (R370, R375). -/
def acceptRecord (s : State) (ring : Nat) (cid : Word) (rec : Nat) : State :=
  if launchFull s then refuse s ring cid 0x1001 0 0
  else if rec % 64 ≠ 0 ∨ !recordThere s rec 2048 then
    refuse (if rec % 64 = 0 ∧ rec + 2048 ≤ viewBase ∧ installed s rec 2048 then logBad s rec 2048 else s) ring cid 0x1008 0 0
  else
    let hdr := memBytes s rec 2048
    let n := min 512 (leAt hdr 10 2)
    let lid : Word := BitVec.ofNat 32 (leAt hdr 0 4)
    if 0 < n ∧ !recordThere s (rec + 2048) (64 * n) then
      let a := rec + 2048
      refuse (if a + 64 * n ≤ viewBase ∧ installed s a (64 * n) then logBad s a (64 * n) else s) ring cid 0x1008 lid 0
    else
      let l := launchOf ring cid hdr (rosterOf s rec n)
      match recordBad s l with
      | some code =>
        refuse (if code = 0x1007 then logBad s l.save0 (64 * kib) else s) ring cid code lid 0
      | none => accept s l

/-- Whether a record, or the header of the image that it names, is on a stack that is held (R425). -/
def recordWaits (s : State) (rec : Nat) : Bool :=
  heldAt s rec 2048 || heldAt s rec (2048 + 64 * min 512 (memLe s (rec + 10) 2)) ||
  (decide (memLe s (rec + 5) 1 / 16 % 2 = 1) && heldAt s (memLe s (rec + 40) 8 % 2 ^ 44) (64 * kib))

/-- LAUNCH (R375, R554): the device reads the record and accepts or refuses it; while its reads wait, so does the command in its
ring. -/
def execLaunch (ring : Fin 16) (s : State) : Host.Outcome State Fault Refusal :=
  .next (onCmd s ring.val 1 (fun s e cid =>
    if recordWaits s (leAt e 8 8) then s else acceptRecord (readCmd s ring.val cid 1) ring.val cid (leAt e 8 8)))

end Sys2Proof.Machine
end

