-- ==== Sys2Proof/Machine/Hinge.lean ====
section
/-! DEFINITION. The Hinge and the root PLL (01_structure.md, R20-R34; R739). -/

namespace Sys2Proof.Machine

/-- Halt every launch with a fault of the device as a whole (R31, R34, R758). -/
def haltAll (s : State) (code reg : Nat) : State :=
  s.launches.foldl (fun s l => haltLaunch s l.lid code { blk := none32, place := none32, idx := none32, reg := reg }) s

/-- The place of a class among the credits of a direction (Table 1.2). -/
def HingeClass.index : HingeClass → Nat
  | .control => 0
  | .request => 1
  | .response => 2
  | .network => 3
  | .save => 4

def creditAt (dir : Fin 2) (c : HingeClass) : Nat := 5 * dir.val + HingeClass.index c

def modHinge (s : State) (f : Hinge → Hinge) : State := { s with hinge := f s.hinge }

/-- The flow that a beat belongs to, and how many of its beats have been delivered (R27). -/
def beatFlow (dir : Fin 2) (c : HingeBeat) : Nat × Nat × WaitUnit × WaitUnit := (dir.val, HingeClass.index c.cls, c.src, c.dst)

def Hinge.count (h : Hinge) (x : Nat × Nat × WaitUnit × WaitUnit) : Nat := ((h.flows.find? (fun y => y.1 = x)).map (·.2)).getD 0

def Hinge.deliver (h : Hinge) (x : Nat × Nat × WaitUnit × WaitUnit) : Hinge :=
  { h with flows := (x, h.count x + 1) :: h.flows.filter (fun y => y.1 ≠ x) }

/-- Whether a beat comes now: with its credits while the link is not held, as the next of its flow; a Control beat with no Request store
of its source before it, any other with no Control beat waiting (R23, R26-R28, R30, R34). -/
def beatComes (s : State) (dir : Fin 2) (c : HingeBeat) : Bool :=
  let h := s.hinge
  !(h.mode = .down) && !(h.mode = .retraining) && clocked s && decide ((if c.two then 2 else 1) ≤ h.credits.getD (creditAt dir c.cls) 0) &&
  decide (c.seq = h.count (beatFlow dir c)) &&
  (if c.cls = .control then !s.mem.stores.any (fun p => p.src = c.src && p.crosses) else !controlWaits s dir.val)

/-- HINGE_BEAT_RECEIVE (R20, R26, Table 1.3): a good beat takes the receive credits of its slots, two if both are used; a bad one
is replayed, and after its third failed replay the link is held and retrained. -/
def hingeBeatReceive (dir : Fin 2) (c : HingeBeat) (ok : Bool) (s : State) : State :=
  if !beatComes s dir c then s
  else if ok then
    modHinge s (fun h => { h.deliver (beatFlow dir c) with
      credits := modAt h.credits (creditAt dir c.cls) (· - (if c.two then 2 else 1)), fails := modAt h.fails dir.val (fun _ => 0) })
  else if s.hinge.fails.getD dir.val 0 < 3 then
    modHinge s (fun h => { h with fails := modAt h.fails dir.val (· + 1), replays := h.replays + 1 })
  else modHinge s (fun h => { h with fails := [0, 0], mode := .retraining })

def execHingeBeatReceive (dir : Fin 2) (c : HingeBeat) (ok : Bool) (s : State) : Host.Outcome State Fault Refusal :=
  .next (hingeBeatReceive dir c ok s)

/-- HINGE_CREDIT_RETURN (R26): the receiver frees a slot. A sender never holds more than Table 1.2 gives. -/
def hingeCreditReturn (dir : Fin 2) (c : HingeClass) (s : State) : State :=
  let i := creditAt dir c
  if s.hinge.mode = .down ∨ !clocked s then s
  else modHinge s (fun h => { h with credits := modAt h.credits i (fun n => min (n + 1) (hingeMax.getD (HingeClass.index c) 0)) })

def execHingeCreditReturn (dir : Fin 2) (c : HingeClass) (s : State) : Host.Outcome State Fault Refusal :=
  .next (hingeCreditReturn dir c s)

/-- The Hinge is down: HINGE_DOWN is reported and every launch halts (R31). -/
def hingeDown (s : State) : State :=
  let s := modHinge s (fun h => { h with mode := .down })
  reportUnhalted s 0x3D01 (haltAll s 0x3D01 0)

/-- The spare wires of each direction (01_structure.md). -/
def hingeSpares : Nat := 64

/-- The wires of both directions that spares take the place of, once more have been found faulty. -/
def addFaulty (was : List (List Nat)) (l : List (Fin 2 × Fin 8192)) : List (List Nat) :=
  l.foldl (fun w x => modAt w x.1.val (fun ws => if x.2.val ∈ ws then ws else ws ++ [x.2.val])) was

/-- What a training of the Hinge comes to, from the wires replaced before: full width, or, with more faulty wires than spares, half width,
or nothing where that fails too (Table 1.3). -/
def trainGives (o : HingeTrain) (was : List (List Nat)) : Option (LinkMode × List (List Nat)) :=
  let w := addFaulty was o.faulty
  if w.all (fun ws => decide (ws.length ≤ hingeSpares)) then some (.full, w)
  else if o.half then some (.half, was) else none

/-- HINGE_RETRAIN_DONE (R30, R31, Table 1.3): the link goes on at full or half width, or is down. A HINGE record is requested where
the training changed something, and the LIFE body counts the retraining (Tables 13.3, 15.7). -/
def hingeRetrainDone (o : HingeTrain) (s : State) : State :=
  if s.hinge.mode ≠ .retraining ∨ !clocked s then s
  else
    let s := lifeAdd s 24 36 4 1
    match trainGives o s.hinge.spares with
    | some (m, w) =>
      let t := krgReq (modHinge s (fun h => { h with mode := m, spares := w })) 0 (.hinge w (decide (m = LinkMode.half)))
      if m = LinkMode.half then degraded t 0x3E08 0 else t
    | none => hingeDown s

def execHingeRetrainDone (o : HingeTrain) (s : State) : Host.Outcome State Fault Refusal := .next (hingeRetrainDone o s)

/-- PLL_LOCK_LOSS (R34, R739): the data clocks stop, CLK_MGMT moves to the internal oscillator, every launch halts, the port
stops, and HLT_EVT.CLK is set. What CLK_STAT.GLITCH has counted by then is free (log 28). -/
def pllLockLoss (s : State) : State :=
  if rfld s .clkStat 0 31 31 = 0 then s
  else
    let d := drawWord s
    let s := wfld (wfld (wfld d.2 .clkStat 0 31 31 0) .clkStat 0 30 30 1) .clkStat 0 15 0 (d.1.toNat % 65536)
    let s := setEvt (haltAll s 0x3E03 (rreg s .clkStat 0).toNat) 5
    { wfld s .netStat 0 31 31 0 with power := { s.power with phase := .clockLost } }

def execPllLockLoss (s : State) : Host.Outcome State Fault Refusal := .next (pllLockLoss s)

end Sys2Proof.Machine
end

