-- ==== Sys2Proof/Machine/Volatile.lean ====
section
/-! DEFINITION. What a loss of power or a cold reset leaves of the state (13_boot_keyring.md, 16_module_physical.md). -/

namespace Sys2Proof.Machine

/-- Everything volatile at its value after a cold reset. What stays: the flash, the fuses, the supply and its pins, and what
the model keeps for itself: its time base, its counts and its queue. -/
def wipe (s : State) : State :=
  { State.reset with
    cyc := s.cyc, flash := s.flash, fuses := s.fuses, power := s.power, freeCtr := s.freeCtr, lastRead := s.lastRead,
    pending := s.pending }

end Sys2Proof.Machine
end

