-- ==== Sys2Proof/Machine/Health.lean ====
section
/-! DEFINITION. Thermal and power control, the CRC service, lifetime records (15_health_lifetime.md, R661-R681). -/

namespace Sys2Proof.Machine

/-! ### Duty (R663-R672) -/

/-- The thermal duty of a level (Table 15.5). -/
def thermalDuty (level : Nat) : Nat :=
  match level with
  | 0 => 16
  | 1 => 12
  | 2 => 8
  | _ => 2

/-- The power duty in force: 2/16 while FAST holds it (R671). -/
def powerDuty (s : State) : Nat := if s.hlt.fast then 2 else s.hlt.duty

/-- The cause bits of a half: thermal, power, FAST (Table 15.12). -/
def dutyCause (s : State) (h : Nat) : Nat :=
  (if thermalDuty (rfld s .hltTemp h 7 6) < 16 then 1 else 0) + (if s.hlt.duty < 16 then 2 else 0) +
  (if s.hlt.fast then 4 else 0)

/-- HLT_DUTY: the duty of a half is the lower of its thermal duty and the power duty (R672). -/
def setDuty (s : State) : State :=
  let d (h : Nat) : Nat := min (thermalDuty (rfld s .hltTemp h 7 6)) (powerDuty s)
  wreg s .hltDuty 0 (setF (setF (setF (setF (rreg s .hltDuty 0) 26 24 (dutyCause s 1)) 20 16 (d 1)) 10 8 (dutyCause s 0))
    4 0 (d 0))

/-! ### Die temperature (R665, R666) -/

/-- The level that a die temperature enters (Table 15.5). -/
def dieLevelOf (t : Int) : Nat := if t < 95 then 0 else if t < 100 then 1 else if t < 105 then 2 else 3

/-- The level left over from a current one: it goes only 3 degrees below its entry threshold (R665). -/
def dieLevelKept (t : Int) : Nat → Nat
  | 0 => 0
  | l + 1 => if t ≤ 90 + 5 * ((l : Int) + 1) - 3 then dieLevelKept t l else l + 1

def dieLevelNext (t : Int) (cur : Nat) : Nat := max (dieLevelOf t) (dieLevelKept t cur)

/-! ### Power (R667-R671) -/

/-- A cap written, clamped into 800-2,900 W (R667). -/
def clampCap (w : Nat) : Nat := max 800 (min 2900 w)

/-- PCAPB_SET and PCAPD_SET (R667): SET loads CAP. -/
def execPcapbSet (v : BitVec 32) (s : State) : Host.Outcome State Fault Refusal :=
  .next (wfld s .hltPcapb 0 27 16 (clampCap (bitsAt v 0 12)))

def execPcapdSet (v : BitVec 32) (s : State) : Host.Outcome State Fault Refusal :=
  .next (wfld s .hltPcapd 0 27 16 (clampCap (bitsAt v 0 12)))

/-- PCAPB_FAST (R671): bit 15 forces the power duty to 2/16, or releases it; released, it rises from 2/16. -/
def execPcapbFast (v : BitVec 32) (s : State) : Host.Outcome State Fault Refusal :=
  let on := decide (bitsAt v 15 1 = 1)
  .next (setDuty { s with hlt := { s.hlt with fast := on, duty := if on then 2 else s.hlt.duty } })

/-- The effective cap (R668). -/
def effectiveCap (s : State) : Nat := min (rfld s .hltPcapb 0 27 16) (rfld s .hltPcapd 0 27 16)

/-- POWER_CHECK (R669, R670): the mean power of the last 1 ms against the effective cap; `mv` is the input voltage. -/
def powerCheck (watts mv : Nat) (s : State) : State :=
  let s := wreg s .hltPwr 0 (setF (setF 0 31 16 (min watts 0xFFFF)) 15 0 (min (mv / 10) 0xFFFF))
  let cap := effectiveCap s
  let k := s.hlt
  if cap < watts then
    let above := if powerDuty s = 2 then k.above + 1 else 0
    let post := decide (10 ≤ above) && !k.limited
    let d := if k.fast then k.duty else max 2 (k.duty - 1)
    let s := setDuty { s with hlt := { k with duty := d, below := 0, above := above, limited := k.limited || post } }
    if post then setEvt (degraded s 0x3E05 0) 1 else s
  else
    let below := if watts + 50 < cap then k.below + 1 else 0
    let d := if k.fast ∨ below < 10 then k.duty else min 16 (k.duty + 1)
    setDuty { s with hlt := { k with duty := d, below := below, above := 0, limited := k.limited && decide (watts = cap) } }

def execPowerCheck (watts mv : Nat) (s : State) : Host.Outcome State Fault Refusal := .next (powerCheck watts mv s)

/-! ### The CRC service and the LIFE copy (R661, R662, R681) -/

def hltAddr (s : State) : Nat := (rreg s .hltAddr 0).toNat * 4096

/-- HLT_CRC (R661): the service starts, unless BUSY (R681). -/
def hltCrc (s : State) : State :=
  if s.hlt.op.isSome then s
  else
    let op := HltOp.crc (hltAddr s) ((rreg s .hltLen 0).toNat * 4096)
    wfld { s with hlt := { s.hlt with op := some op } } .hltCtl 0 30 30 0

def execHltCrc (s : State) : Host.Outcome State Fault Refusal := .next (hltCrc s)

def setCrc (s : State) (c : BitVec 64) : State :=
  wreg (wreg s .hltCrc 0 (BitVec.ofNat 32 c.toNat)) .hltCrc 1 (BitVec.ofNat 32 (c.toNat / 2 ^ 32))

/-- HLT_CRC_DONE (R661, R662): the CRC of the range, or, where a burst is bad or does not exist, CRCFAIL and 0; a bad burst
is counted and logged and halts nothing. -/
def hltCrcDone (s : State) : State :=
  match s.hlt.op with
  | some (.crc a n) =>
    if decide (a + n ≤ viewBase) && installed s a n && readWaits s a n 0 then s else
    let s := { s with hlt := { s.hlt with op := none } }
    match decide (n = 0) || (a + n ≤ viewBase && installed s a n), firstBad s a n with
    | true, none => setCrc s (crc64 (memBytes s a n))
    | true, some bad => setCrc (wfld (logMem s bad.1 (if bad.2 then 1 else 2)) .hltCtl 0 30 30 1) 0
    | false, _ => setCrc (wfld s .hltCtl 0 30 30 1) 0
  | _ => s

def execHltCrcDone (s : State) : Host.Outcome State Fault Refusal := .next (hltCrcDone s)

/-- HLT_LIFE (R681): the copy of the LIFE bodies starts, unless BUSY. -/
def hltLife (s : State) : State :=
  if s.hlt.op.isSome then s else { s with hlt := { s.hlt with op := some (.life (hltAddr s)) } }

def execHltLife (s : State) : Host.Outcome State Fault Refusal := .next (hltLife s)

/-- The current LIFE records: INDEX and body (R586). -/
def lifeCur (s : State) : List (Nat × List Byte) :=
  (List.range 25).filterMap (fun i => match krgBody s 7 i with | some (.life b) => some (i, b) | _ => none)

/-- HLT_LIFE_DONE (R681): the body of each current LIFE record is at HLT_ADDR + 4 KiB x INDEX, where such memory exists, and BUSY clears;
not while memory holds one of the writes (R425). -/
def hltLifeDone (s : State) : State :=
  match s.hlt.op with
  | some (.life a) =>
    let puts := ((lifeCur s).map (fun b => (a + 4096 * b.1, b.2))).filter (fun x =>
      decide (x.1 + x.2.length ≤ viewBase) && installed s x.1 x.2.length)
    if puts.any (fun x => !writeEnds s x.1 x.2.length) then s
    else puts.foldl (fun s x => putMem s x.1 x.2) { s with hlt := { s.hlt with op := none } }
  | _ => s

def execHltLifeDone (s : State) : Host.Outcome State Fault Refusal := .next (hltLifeDone s)

/-! ### The hourly update (R676-R678) -/

/-- A lane entry of a LIFE body (Table 15.8). -/
structure LaneEntry where
  onh : Nat
  first : Nat
  now : Nat
  anc : Nat
  mid : Nat
  age : Nat
  st : Nat
  deriving DecidableEq, Repr

def laneAt (s : State) (i lane : Nat) : LaneEntry :=
  let b := laneByte i lane
  { onh := lifeGet s i b 4, first := lifeGet s i (b + 4) 2, now := lifeGet s i (b + 6) 2, anc := lifeGet s i (b + 8) 2,
    mid := lifeGet s i (b + 10) 2, age := lifeGet s i (b + 12) 2, st := lifeGet s i (b + 14) 1 }

def lanePut (s : State) (i lane : Nat) (e : LaneEntry) : State :=
  let b := laneByte i lane
  lifeSet (lifeSet (lifeSet (lifeSet (lifeSet (lifeSet (lifeSet s i b 4 e.onh) i (b + 4) 2 e.first) i (b + 6) 2 e.now)
    i (b + 8) 2 e.anc) i (b + 10) 2 e.mid) i (b + 12) 2 e.age) i (b + 14) 1 e.st

/-- The first lock of a lane, at a bias (R676). -/
def LaneEntry.lock (e : LaneEntry) (bias : Nat) : LaneEntry :=
  if e.first = 0 then { e with first := bias, now := bias, anc := bias, mid := bias, age := 0 } else e

/-- An on-hour of a lane at a bias (R676); a spare that has locked since the last takes it for its first (log 156). AGE reaches 720 after
a wrap too. -/
def LaneEntry.hour (e : LaneEntry) (bias : Nat) : LaneEntry :=
  let e := e.lock bias
  let e := { e with now := bias, onh := e.onh + 1, age := e.age + 1 }
  if e.age = 720 then { e with mid := e.now }
  else if e.age = 1440 then { e with anc := e.mid, mid := e.now, age := 720 }
  else e

/-- REMH (R677). -/
def LaneEntry.remh (e : LaneEntry) : Nat :=
  let eol := min (3 * e.first / 2) 12000
  if e.age < 168 ∨ e.now ≤ e.anc then 0xFFFFFFFF
  else if eol ≤ e.now then 0
  else (eol - e.now) * e.age / (e.now - e.anc)

/-- Direction and lane of an entry as LASER_WEAR names them (Table 15.3). -/
def wearPlace (i lane : Nat) : Nat :=
  i + (if i < 24 ∧ 65 ≤ lane then 256 + 65536 * (lane - 65) else 65536 * lane)

/-- The hour of one lane: only a biased laser ages, so neither an idle spare nor a failed lane does; below WARNH for the
first time, the lane is worn and LASER_WEAR is posted (R676, R678). -/
def laneHour (s : State) (i lane bias : Nat) : State :=
  let e := laneAt s i lane
  if e.st = 1 ∨ e.st = 2 then s
  else
    let e := e.hour bias
    if e.st = 0 ∧ e.remh < rfld s .hltCfg 0 31 16 then
      setEvt (degraded (lanePut s i lane { e with st := 3 }) 0x3E06 (wearPlace i lane)) 2
    else lanePut s i lane e

/-- A lane locks at start-up; an idle spare or a failed lane does not (R676). -/
def laneLock (s : State) (i lane bias : Nat) : State :=
  let e := laneAt s i lane
  if e.st = 1 ∨ e.st = 2 ∨ e.first ≠ 0 then s else lanePut s i lane (e.lock bias)

/-- Every lane entry: 98 of each stack, then 8 of the network engine. -/
def allLanes : List (Nat × Nat) :=
  (List.range 24).flatMap (fun i => (List.range 98).map (fun l => (i, l))) ++ (List.range 8).map (fun l => (24, l))

/-- HLT_WEAR: the lane with the lowest REMH (R678, Table 15.12). -/
def showWear (s : State) : State :=
  let best := (allLanes.map (fun p => (p, (laneAt s p.1 p.2).remh))).foldl
    (fun m x => match m with | none => some x | some y => if x.2 < y.2 then some x else some y) none
  match best with
  | none => s
  | some (p, r) =>
    wreg s .hltWear 0 (setF (setF (setF (setF 0 31 24 p.1) 23 23 (if p.1 < 24 ∧ 65 ≤ p.2 then 1 else 0)) 22 16 p.2)
      15 0 (min r 0xFFFF))

/-- Shift DAILY of a stack by a day, every 24 powered hours (Table 15.6). -/
def dailyShift (s : State) (i : Nat) : State :=
  if lifeGet s i 0 4 % 24 = 0 then
    { s with hlt := { s.hlt with life := modAt s.hlt.life i (fun x => x.take 32 ++ [0, 0] ++ (x.drop 32).take 62 ++ x.drop 96) } }
  else s

/-- The number of bits set among the low `n`. -/
def popCount (x n : Nat) : Nat := ((List.range n).filter (fun i => x / 2 ^ i % 2 = 1)).length

/-- State of a physical block in the device LIFE body: in service, spare, retired (Table 15.7). -/
def blockState (s : State) (p : Nat) : Nat :=
  let w := rreg s .krgBlkmap (p / 7)
  if bitsAt w (p % 7) 1 = 1 then 2 else if bitsAt w (16 + p % 7) 1 = 1 then 0 else 1

/-- What the LIFE bodies give as it is now: the channels out of service, the state of each physical block, the highest erase count
(Tables 15.6, 15.7). -/
def lifeNow (s : State) : State :=
  let s := (List.range 24).foldl (fun s i => lifeSet s i 28 2 (popCount (rfld s .stkChmap i 15 0) 16)) s
  let s := lifeSet s 24 28 4 s.flash.journal.maxErase
  (List.range 56).foldl (fun s p => lifeSet s 24 (64 + 8 * p + 6) 1 (blockState s p)) s

/-- Records LIFE and TIME are requested (Table 13.3). -/
def lifeRecords (s : State) : State :=
  let s := lifeNow s
  let s := (s.hlt.life.zipIdx).foldl (fun s b => krgReq s b.2 (.life b.1)) s
  krgReq s 0 (.time s.dtc (rfld s .netStat 0 30 28))

/-- LIFE_HOURLY_UPDATE (R676-R678, Tables 13.3, 15.6, 15.7). `bias` gives the bias of each lane entry in order; a lane it does
not give keeps the last. -/
def lifeHourlyUpdate (bias : List Nat) (s : State) : State :=
  let s := (allLanes.zipIdx).foldl (fun s p =>
    laneHour s p.1.1 p.1.2 (bias.getD p.2 (laneAt s p.1.1 p.1.2).now)) s
  let s := (List.range 24).foldl (fun s i => dailyShift (lifeAdd s i 0 4 1) i) s
  lifeRecords (showWear (lifeAdd s 24 0 4 1))

def execLifeHourlyUpdate (bias : List Nat) (s : State) : Host.Outcome State Fault Refusal :=
  .next (lifeHourlyUpdate bias s)

end Sys2Proof.Machine
end

