-- ==== Sys2Proof/Machine/Conns.lean ====
section
/-! DEFINITION. The port and RoCE connections: frames, PFC, connection management, RDMA, rate reaction, role failure
(12_latch_transport.md, R511-R526, R536, R539, R542, R571, R572, R656, R760). -/

namespace Sys2Proof.Machine

/-! ### Connections -/

/-- Whether the port works: the link is up and the device is ready or in the recovery loader. -/
def portUp (s : State) : Bool :=
  decide (rfld s .netStat 0 31 31 = 1) && (decide (s.power.phase = .ready) || inLoader s)

def findConn (s : State) (qp : BitVec 24) : Option Conn := s.net.conns.find? (fun c => c.qp = qp)

def modConn (s : State) (qp : BitVec 24) (f : Conn → Conn) : State :=
  { s with net := { s.net with conns := s.net.conns.map (fun c => if c.qp = qp then f c else c) } }

/-- The live owner connection (R538, R539). -/
def ownerConn (s : State) : Option Conn := s.net.conns.find? (fun c => decide (c.role = some .owner) && !c.failed)
def standbyConn (s : State) : Option Conn := s.net.conns.find? (fun c => c.role = some .standby)

/-- Hand something to the line: with the port down there is none (R714), and while a PFC frame pauses sending it waits (R512). -/
def send (s : State) (t : Tx) : State :=
  if rfld s .netStat 0 31 31 = 0 then s
  else if s.net.pause ≠ 0 ∧ t.pauses then { s with net := { s.net with txq := s.net.txq ++ [t] } }
  else { s with net := { s.net with tx := s.net.tx ++ [t.sent s.net.cfg] } }

/-- What waited for the end of a pause is sent (R512). -/
def sendWaiting (s : State) : State :=
  if s.net.txq = [] ∨ s.net.pause ≠ 0 ∨ rfld s .netStat 0 31 31 = 0 then s
  else { s with net := { s.net with txq := [], tx := s.net.tx ++ s.net.txq.map (fun t => t.sent s.net.cfg) } }

/-- Send a packet as requester: it waits for its acknowledgement (R515). -/
def sendAck (s : State) (qp : BitVec 24) (t : Tx) : State :=
  modConn (send s t) qp (fun c => { c with retries := some (c.retries.getD 0) })

/-- A change of roles is an event of ring 0: 1 owner changed, 2 standby joined, 3 standby left (Table 12.8). -/
def roleEvent (s : State) (x : Nat) : State := postEvent s 0 0x5004 0 x []

/-- A connection ends: its keys and binding are gone, rings bound to it are unbound, an owner has then failed (R539, R571,
R760). -/
def dropConn (s : State) (qp : BitVec 24) : State :=
  match findConn s qp with
  | none => s
  | some c =>
    let s := { s with
      net := { s.net with
        conns := s.net.conns.filter (fun c => c.qp ≠ qp), ownerFailed := s.net.ownerFailed || decide (c.role = some .owner) },
      rings := s.rings.map (fun r => r.map (fun r => if r.bound = some qp then { r with bound := none } else r)) }
    if c.role = some .standby then roleEvent s 3 else s

/-- Close every connection (R617, R644). -/
def dropAll (s : State) : State := s.net.conns.foldl (fun s c => dropConn (send s (.drop c.qp)) c.qp) s

/-- A NAK other than RNR ends its connection (R760); `count` for those under R513 and R519. -/
def nak (s : State) (qp : BitVec 24) (k : Nak) (count : Bool) : State :=
  let s := send s (.nak qp k)
  dropConn (if count then cfld s .netErr 0 15 8 1 else s) qp

/-- A packet arrived on a connection (R539). -/
def heard (s : State) (qp : BitVec 24) : State := modConn s qp (fun c => { c with heard := s.cyc })

/-- A connection whose set-up is complete. -/
def upConn (s : State) (qp : BitVec 24) : Option Conn := if portUp s then (findConn s qp).filter (·.up) else none

/-- Between two packets, pending commits of the network engine's groups are applied (R45, Table 1.6). -/
def betweenPackets (s : State) : State := configApply .lat (configApply .net s)

/-! ### Frames and PFC (R511, R512, R524) -/

def mib : Nat := 2 ^ 20

/-- XOFF above 12 MiB and XON below 8 MiB, while PFC is enabled (R512): `depth` is what the receive buffer holds now. -/
def flowControl (s : State) (depth : Nat) : State :=
  let s := { s with net := { s.net with depth := depth } }
  if rfld s .netStat 0 27 27 = 0 then s
  else if 12 * mib < depth ∧ !s.net.xoff then send { s with net := { s.net with xoff := true } } (.pfc true)
  else if depth < 8 * mib ∧ s.net.xoff then send { s with net := { s.net with xoff := false } } (.pfc false)
  else s

/-- A RoCE packet of a connection: a bad ICRC is counted and the packet dropped; a CE mark is answered by a congestion
notification packet, at most one in 50 µs (R524). -/
def rocePacket (s : State) (qp : BitVec 24) (icrcOk ce ack : Bool) : State :=
  if !icrcOk then cfld s .netErr 0 23 16 1
  else
    match findConn s qp with
    | none => s
    | some c =>
      let s := heard s qp
      let s := if ack then modConn s qp (fun c => { c with retries := none }) else s
      let due : Bool := match c.cnpSent with | none => true | some t => decide (t + 5000 ≤ s.cyc)
      if ce ∧ due then modConn (send s (.cnp qp)) qp (fun c => { c with cnpSent := some s.cyc }) else s

/-! ### Connection management (R515, R516, R536, R539) -/

/-- A connection as its REQ makes it (R525). -/
def newConn (s : State) (qp : BitVec 24) (gid : BitVec 128) (mtu : Nat) : Conn :=
  { qp := qp, gid := gid, mtu := mtu, up := false, since := s.cyc, role := none, handed := false, failed := false, chal := none, slots := [],
    mkey := none, dkey := none, rkey := none, bind := none, heard := s.cyc, cnpSent := none, rate := 800, n := 0,
    lastDec := s.cyc, lastInc := s.cyc, retries := none, waiting := [] }

/-- What a REP advertises (R515). -/
def connRep (qp : BitVec 24) : Tx := .rep qp 16 7 7

/-- CM_REQ (R515, R516): REP, or REJ for another MTU, a queue pair in use or lack of resources. -/
def cmReq (qp : BitVec 24) (gid : BitVec 128) (mtu : Nat) (s : State) : State :=
  if !portUp s then s
  else if ¬ (mtu = 1024 ∨ mtu = 2048 ∨ mtu = 4096) then send s (.rej qp .mtu)
  else if (findConn s qp).isSome then send s (.rej qp .inUse)
  else if 1024 ≤ s.net.conns.length then send s (.rej qp .resources)
  else send { s with net := { s.net with conns := s.net.conns ++ [newConn s qp gid mtu] } } (connRep qp)

def execCmReq (qp : BitVec 24) (gid : BitVec 128) (mtu : Nat) (s : State) : Host.Outcome State Fault Refusal :=
  .next (cmReq qp gid mtu s)

/-- The set-up of a connection is complete, and its send rate starts (R515, R525); a repeated RTU changes nothing of that. -/
def Conn.start (c : Conn) (now : Nat) : Conn :=
  if c.up then { c with heard := now }
  else { c with up := true, heard := now, rate := 800, n := 0, lastDec := now, lastInc := now }

/-- CM_RTU (R515, R525). -/
def execCmRtu (qp : BitVec 24) (s : State) : Host.Outcome State Fault Refusal :=
  .next (if portUp s then modConn s qp (fun c => c.start s.cyc) else s)

/-- CM_DREQ (R515): DREP, and the connection closes. -/
def execCmDreq (qp : BitVec 24) (s : State) : Host.Outcome State Fault Refusal :=
  .next (if portUp s ∧ (findConn s qp).isSome then dropConn (send s (.drep qp)) qp else s)

/-- WELCOME_TIMEOUT (R536): 5 s after the REP without WELCOME. -/
def welcomeTimeout (qp : BitVec 24) (s : State) : State :=
  match findConn s qp with
  | some c => if c.role = none ∧ c.since + 500000000 ≤ s.cyc then dropConn (send s (.drop qp)) qp else s
  | none => s

def execWelcomeTimeout (qp : BitVec 24) (s : State) : Host.Outcome State Fault Refusal := .next (welcomeTimeout qp s)

/-- OWNER_KEEPALIVE_TIMEOUT (R539): no packet from the owner for KATO ms. The connection has failed; it keeps its keys until
the owner changes (R542). -/
def ownerTimeout (s : State) : State :=
  match ownerConn s with
  | some c =>
    if c.heard + 100000 * rfld s .latCfg 0 31 16 ≤ s.cyc then
      let s := modConn s c.qp (fun c => { c with failed := true })
      { s with net := { s.net with ownerFailed := true } }
    else s
  | none => s

def execOwnerKeepaliveTimeout (s : State) : Host.Outcome State Fault Refusal := .next (ownerTimeout s)

/-- RETRY_TIMEOUT (R515): a retransmission, or after 7 of them the error state; not while the port is down (R714). -/
def retryTimeout (qp : BitVec 24) (s : State) : State :=
  match if portUp s then (findConn s qp).bind (·.retries) else none with
  | none => s
  | some n =>
    if n < 7 then modConn (send s (.again qp)) qp (fun c => { c with retries := some (n + 1) }) else dropConn s qp

def execRetryTimeout (qp : BitVec 24) (s : State) : Host.Outcome State Fault Refusal := .next (retryTimeout qp s)

/-! ### Rate reaction (R525) -/

/-- CNP_RECEIVE (R525): on_cnp, and the count of NET_ERR. -/
def cnpReceive (qp : BitVec 24) (s : State) : State :=
  if !portUp s then s
  else
    let d := rfld s .netCfg 0 23 21
    let rmin := rfld s .netCfg 0 4 0
    modConn (heard (cfld s .netErr 0 7 0 1) qp) qp (fun c =>
      if c.lastDec + 5000 ≤ s.cyc then
        { c with rate := max (c.rate - c.rate / (2 ^ d : Nat)) (rmin : Nat), lastDec := s.cyc, lastInc := s.cyc, n := 0 }
      else c)

def execCnpReceive (qp : BitVec 24) (s : State) : Host.Outcome State Fault Refusal := .next (cnpReceive qp (betweenPackets s))

/-- RATE_TICK (R525): on_tick. -/
def rateTick (qp : BitVec 24) (s : State) : State :=
  let inc := rfld s .netCfg 0 20 13
  let ti := rfld s .netCfg 0 12 5
  modConn s qp (fun c =>
    if c.up ∧ c.lastInc + 500 * ti ≤ s.cyc then
      { c with n := c.n + 1, rate := min (c.rate + (inc * min (c.n + 1) 8 : Nat)) 800, lastInc := s.cyc }
    else c)

def execRateTick (qp : BitVec 24) (s : State) : Host.Outcome State Fault Refusal := .next (rateTick qp s)

/-! ### RDMA (R518-R522, R570-R572, R614, R656) -/

/-- Pieces of a network write: a burst written whole makes it good; part of a bad burst is not written, and nothing to a stack that
is down (R134, R419, R426). -/
def netWriteBad (s : State) (a n : Nat) : Option (Nat × Bool) :=
  if !inLoader s ∧ (downBad s a n 0).isSome then (downBad s a n 0).map (fun b => (b, true))
  else
  let edge (b : Nat) : Option (Nat × Bool) := if wholeBurst a n b then none else netBad s (512 * b) 512
  if n = 0 then none
  else match edge (burstOf a) with
    | some x => some x
    | none => edge (burstOf (a + n - 1))

/-- NET_READERR: window and offset (Table 12.7). -/
def readErr (s : State) (win off : Nat) : State := postEvent s 0 0x5005 0 0 (toLe 4 win ++ toLe 8 off)

/-- Whether a range of memory has bytes in half 1, to and from which the network's payload crosses the Hinge (Table 1.2). -/
def inHalf1 (s : State) (a n : Nat) : Bool := !inLoader s && (burstsOf a n).any (fun b => dpaHalf b = 1)

/-- The Network beats of such a payload, from a half. -/
def netSend (s : State) (half a n : Nat) : State := if inHalf1 s a n then hingeSend s half 3 else s

/-- Whether a write of the network has to wait: one of its bursts finds its stack held or its write queue full, or the Hinge takes no
Network beat (R26, R30, R425, R449). -/
def netPutWaits (s : State) (a n : Nat) : Bool :=
  !inLoader s &&
    ((burstsOf a n).any (fun b => !accessOff s b && !burstReady s a n b && (stackHeld (stackOfDpa s b) || queueFull s b (burstsOf a n).length)) ||
      (inHalf1 s a n && !hingeTakes s 0 3))

/-- RDMA WRITE (R519, R520, R536, R656): under MKEY the data are accepted into memory. `fab` is a fabric word that fails its check. -/
def rdmaWrite (qp : BitVec 24) (c : Conn) (key : Word) (va : Nat) (bytes : List Byte) (fab : Bool) (s : State) : State :=
  if c.role = none then nak s qp .invalid false
  else if c.mkey ≠ some key ∨ !devThere s va bytes.length then nak s qp .access true
  else if fab then nak (readErr s none32 va) qp .operational false
  else
    match netWriteBad s va bytes.length with
    | some bad => nak (logMem s bad.1 (if bad.2 then 1 else 2)) qp .operational false
    | none => devPut (netSend s 0 va bytes.length) va bytes

/-- Where an RDMA READ reads: its address, with the window it is bound to and the offset in it; an owner reads by address
(R518, R519, R570-R572). -/
def readAt (s : State) (c : Conn) (key : Word) (va n : Nat) : Option (Nat × Nat × Nat) :=
  if c.mkey = some key then some (va, none32, va)
  else if c.rkey = some key then
    match c.bind with
    | some b =>
      if bindStands s b ∧ s.dtc.toNat < b.expiry ∧ va + n ≤ b.len then
        some (4096 * (rreg s .latWin2 b.win).toNat + b.off + va, b.win, b.off + va)
      else none
    | none => none
  else none

/-- RDMA READ (R519, R521, R522, R572, R656): the data, or those before the first bad burst and a NAK; `x` is what its key gave. -/
def rdmaRead (qp : BitVec 24) (c : Conn) (x : Option (Nat × Nat × Nat)) (len : Nat) (fab : Bool) (s : State) : State :=
  if c.role = none then nak s qp .invalid false
  else
    match x.filter (fun x => devThere s x.1 len) with
    | none => nak s qp .access true
    | some (a, win, off) =>
      if fab then nak (readErr s win off) qp .operational false
      else
        match netBad s a len with
        | none => send (netSend s 1 a len) (.data qp (devBytes s a len))
        | some bad =>
          let n := bad.1 - a
          let s := logMem s bad.1 (if bad.2 then 1 else 2)
          let s := if n = 0 then s else send (netSend s 1 a n) (.data qp (devBytes s a n))
          nak (readErr s win (off + n)) qp .operational false

/-! ### Doorbells (R546, R547) -/

/-- Whether one index lies ahead of, or at, another modulo 2^32 (R546). -/
def notBehind (x y : Word) : Bool := (x - y).toNat < 2 ^ 31

/-- LAT_DOORBELL (R547): 1 ring not open, 2 CACK ahead of Q, 3 PROD beyond C + ENTRIES. -/
def doorbellEvent (s : State) (ring cause : Nat) : State := postEvent s 0 0x5006 0 (ring + 256 * cause) []

/-- CACK of a doorbell: completions up to it are acknowledged (R546, R547, R552). -/
def ringAck (s : State) (ring : Nat) (r : Ring) (cack : Word) : State :=
  if cack ≠ r.q ∧ notBehind cack r.q then doorbellEvent s ring 2
  else if notBehind cack r.a then
    modRing s ring (fun r => { r with a := cack, kept := r.kept.filter (fun x => notBehind x.1 cack),
                                      sent := if notBehind r.sent cack then r.sent else cack })
  else s

/-- PROD of a doorbell (R546, R547). -/
def ringProd (s : State) (ring : Nat) (r : Ring) (prod : Word) : State :=
  let d := (prod - r.c).toNat
  if r.entries < d ∧ d < 2 ^ 31 then doorbellEvent s ring 3
  else if notBehind prod r.p then modRing s ring (fun r => { r with p := prod })
  else s

/-- A doorbell of a ring. -/
def ringBell (s : State) (ring : Nat) (prod cack : Word) : State :=
  match getRing s ring with
  | none => doorbellEvent s ring 1
  | some r => ringProd (ringAck s ring r cack) ring r prod

/-- DOORBELL (R546, R547): an 8-byte write under DKEY at VA 64 x RING. -/
def doorbell (qp : BitVec 24) (c : Conn) (key : Word) (va : Nat) (bytes : List Byte) (s : State) : State :=
  if c.role = none then nak s qp .invalid false
  else if c.dkey ≠ some key ∨ 1024 < va + bytes.length then nak s qp .access true
  else if bytes.length = 8 ∧ va % 64 = 0 then
    ringBell s (va / 64) (BitVec.ofNat 32 (leAt bytes 0 4)) (BitVec.ofNat 32 (leAt bytes 4 4))
  else s

/-- Whether a key covers the doorbells: DKEY does, MKEY memory. -/
def bellKey (c : Conn) (key : Word) : Bool := c.role.isSome && c.mkey ≠ some key && c.dkey = some key

/-- A write by its key. -/
def netWrite (qp : BitVec 24) (c : Conn) (key : Word) (va : Nat) (bytes : List Byte) (fab : Bool) (s : State) : State :=
  if bellKey c key then doorbell qp c key va bytes s else rdmaWrite qp c key va bytes fab s

/-- BINDING_EXPIRY (R571): bindings of a window end at their EXPIRY. -/
def bindingExpiry (w : Nat) (s : State) : State :=
  let live (b : Binding) : Bool := b.win ≠ w || decide (s.dtc.toNat < b.expiry)
  { s with net := { s.net with conns := s.net.conns.map (fun c => { c with bind := c.bind.filter live }) } }

def execBindingExpiry (w : Nat) (s : State) : Host.Outcome State Fault Refusal := .next (bindingExpiry w s)

/-! ### Completions (R551, R552, R563) -/

/-- The bytes of a completion entry, written when C and the time counter are what they are now (Table 12.7). -/
def entryBytes (s : State) (r : Ring) (c : Completion) : List Byte :=
  toLe 1 c.kind ++ toLe 1 c.ring ++ toLe 2 c.code ++ toLe 4 c.cid.toNat ++ toLe 4 c.lid.toNat ++ toLe 4 r.c.toNat ++
  toLe 8 s.dtc.toNat ++ toLe 8 c.aux2 ++ (c.data ++ List.replicate (32 - c.data.length) 0).take 32

/-- The write of completion `k`: its immediate data is k + 1 (R551). -/
def writeEntry (s : State) (r : Ring) (qp : BitVec 24) (k : Word) (bs : List Byte) : State :=
  sendAck s qp (.write qp r.crkey (r.crva + 64 * (k.toNat % r.centries)) bs (k + 1))

/-- COMPLETION_WRITE (R544, R551, R552): the next completion of a bound ring: one rewritten after RESUME, or the oldest
waiting, while there is room. A PFC pause holds it (R512). -/
def completionWrite (ring : Nat) (s : State) : State :=
  match getRing s ring with
  | none => s
  | some r =>
    match r.bound.filter (fun qp => (upConn s qp).isSome && s.net.pause = 0) with
    | none => s
    | some qp =>
      if r.sent ≠ r.q then
        let s := modRing s ring (fun r => { r with sent := r.sent + 1 })
        match r.kept.find? (fun x => x.1 = r.sent) with
        | some x => writeEntry s r qp r.sent x.2
        | none => s
      else
        match s.comps.find? (fun c => c.ring = ring) with
        | none => s
        | some c =>
          if r.centries ≤ (r.q - r.a).toNat then s
          else
            let bs := entryBytes s r c
            let s := modRing { s with comps := s.comps.erase c } ring
              (fun r => { r with q := r.q + 1, sent := r.q + 1, kept := r.kept ++ [(r.q, bs)] })
            writeEntry s r qp r.q bs

def execCompletionWrite (ring : Fin 16) (s : State) : Host.Outcome State Fault Refusal := .next (completionWrite ring.val s)

end Sys2Proof.Machine
end

