-- ==== Sys2Proof/Machine/Latch.lean ====
section
/-! DEFINITION. Latch messages: format, roles, rings, tokens (12_latch_transport.md, R533-R545, R568-R573, R757; R613). -/

namespace Sys2Proof.Machine

/-! ### Messages (Tables 12.3, 12.4) -/

def latFormat : Nat := 0x4001
def latTaken : Nat := 0x4002
def latProof : Nat := 0x4003
def latToken : Nat := 0x4004
def latRing : Nat := 0x4005
def latDenied : Nat := 0x4006

/-- A message header. -/
def msgHeader (typ len status tag : Nat) : List Byte :=
  toLe 2 0x4C48 ++ toLe 1 1 ++ toLe 1 typ ++ toLe 2 len ++ toLe 2 status ++ toLe 4 tag ++ toLe 4 0

/-- LEN of a message to the device, by TYPE; 0 for a type that is none. -/
def msgLen : Nat → Nat
  | 0x01 | 0x0B => 88
  | 0x03 => 4643
  | 0x06 | 0x07 | 0x08 | 0x0C => 16
  | 0x09 => 52
  | 0x0A => 17
  | _ => 0

def msgType (m : List Byte) : Nat := leAt m 3 1
def msgTag (m : List Byte) : Nat := leAt m 8 4

/-- Whether a reserved field of a body is not zero (R535). -/
def bodyBad (m : List Byte) : Bool :=
  match msgType m with
  | 0x01 => decide (leAt m 17 7 ≠ 0) || (decide (leAt m 16 1 = 1 ∨ leAt m 16 1 = 2) && decide (leAt m 24 64 ≠ 0))
  | 0x09 => decide (2 ≤ leAt m 17 1) || decide (leAt m 18 2 ≠ 0) || decide (2 ^ 44 ≤ leAt m 24 8)
  | 0x0B => decide (leAt m 16 8 ≠ 0)
  | _ => false

/-- A message that is answered LAT_FORMAT (R534). -/
def msgBad (m : List Byte) : Bool :=
  decide (leAt m 0 2 ≠ 0x4C48) || decide (leAt m 2 1 ≠ 1) || decide (msgLen (msgType m) = 0) ||
  decide (leAt m 4 2 ≠ m.length) || decide (msgLen (msgType m) ≠ m.length) || decide (leAt m 6 2 ≠ 0) ||
  decide (leAt m 12 4 ≠ 0) || bodyBad m

/-- The messages that a role may send (Table 12.5, R536, R757). -/
def mayMsg : Option Role → Nat → Bool
  | none, t => t = 1 || t = 3
  | some .owner, t => t = 6 || t = 8 || t = 9 || t = 0x0A || t = 0x0C
  | some .standby, t => t = 6 || t = 7 || t = 0x0C
  | some .reader, t => t = 6 || t = 0x0B || t = 0x0C
  | some .former, _ => false

/-- A reply (R534). -/
def reply (s : State) (qp : BitVec 24) (bs : List Byte) : State := sendAck s qp (.reply qp bs)

def latRefuse (s : State) (qp : BitVec 24) (m : List Byte) (code : Nat) : State :=
  reply s qp (msgHeader 5 16 code (msgTag m))

def roleCode : Option Role → Nat
  | none => 0
  | some .owner => 1
  | some .standby => 2
  | some .reader => 3
  | some .former => 0

def keyNat (k : Option Word) : Nat := (k.getD 0).toNat

/-- The serial number, as DEV_SN0 and DEV_SN1 hold it. -/
def serialNat (s : State) : Nat := (rreg s .devSn0 0).toNat + 2 ^ 32 * (rreg s .devSn1 0).toNat

/-- Vendor, part and stepping codes and the firmware version, as replies carry them. -/
def codeBytes (s : State) : List Byte :=
  toLe 2 0xC5A7 ++ toLe 2 0x4880 ++ toLe 1 0xA1 ++ toLe 1 (rfld s .devFw 0 23 16) ++ toLe 2 (rfld s .devFw 0 15 0)

/-- WELCOME for a connection as it stands. -/
def welcomeBytes (s : State) (c : Conn) (tag : Nat) : List Byte :=
  msgHeader 4 64 0 tag ++ toLe 1 (roleCode c.role) ++ toLe 3 0 ++ toLe 4 (keyNat c.mkey) ++ toLe 4 (keyNat c.dkey) ++
  toLe 4 (keyNat c.rkey) ++ toLe 8 ((c.bind.map (·.len)).getD 0) ++ codeBytes s ++ toLe 8 (serialNat s) ++
  toLe 8 ((c.bind.map (·.expiry)).getD 0)

def welcome (s : State) (qp : BitVec 24) (m : List Byte) : State :=
  match findConn s qp with
  | some c => reply s qp (welcomeBytes s c (msgTag m))
  | none => s

/-! ### Receiving (R513, R517, R534, R536, R757) -/

/-- SEND: a Latch message takes a receive slot. With no slot free it meets an RNR NAK; before WELCOME anything but HELLO and
PROVE, and a message longer than a slot, meets a NAK for invalid request; a malformed message, or one that the role may not
send, is refused at once. -/
def sendMsg (qp : BitVec 24) (c : Conn) (m : List Byte) (s : State) : State :=
  if 16384 < m.length then nak s qp .invalid true
  else if 8 ≤ c.slots.length then send s (.nak qp (.rnr 80000))
  else if c.role = none ∧ !mayMsg none (msgType m) then nak s qp .invalid false
  else if msgBad m then latRefuse s qp m latFormat
  else if !mayMsg c.role (msgType m) then latRefuse s qp m latDenied
  else modConn s qp (fun c => { c with slots := c.slots ++ [m] })

/-- Act on the oldest message of a connection, if it is of a type; its receive slot is free again. A message that the role
does not permit by then is refused. -/
def onMsg (qp : BitVec 24) (typ : Nat) (s : State) (act : State → Conn → List Byte → State) : State :=
  match upConn s qp with
  | none => s
  | some c =>
    match c.slots with
    | [] => s
    | m :: rest =>
      if msgType m ≠ typ then s
      else
        let s := modConn s qp (fun c => { c with slots := rest })
        if mayMsg c.role typ then act s c m else latRefuse s qp m latDenied

/-! ### Tokens (R568-R570) -/

/-- The token key of LAT_TKEY. -/
def tokenKey (s : State) : List Byte := (List.range 8).flatMap (fun k => toLe 4 (rreg s .latTkey k).toNat)

/-- The binding that a token gives, if it is accepted (R569). -/
def tokenBind (s : State) (t : List Byte) : Option Binding :=
  let w := leAt t 3 1
  let off := leAt t 16 8
  let len := leAt t 24 8
  let b : Binding := { win := w, epoch := BitVec.ofNat 32 (leAt t 4 4), off := off, len := len, expiry := leAt t 8 8 }
  if leAt t 0 2 = 1 ∧ leAt t 2 1 = 1 ∧ (sha3 (tokenKey s ++ t.take 40)).take 24 = (t.drop 40).take 24 ∧ bindStands s b ∧
      s.dtc.toNat < b.expiry ∧ 1 ≤ len ∧ off + len ≤ 4096 * (rreg s .latWin3 w).toNat then some b
  else none

/-- Bind a connection; a connection that has an RKEY keeps it (R570). -/
def bindConn (s : State) (qp : BitVec 24) (b : Binding) : State :=
  let d := drawWord s
  modConn d.2 qp (fun c => { c with bind := some b, rkey := some (c.rkey.getD d.1) })

/-- TOKEN (R569, R570). -/
def token (qp : BitVec 24) (s : State) : State :=
  onMsg qp 0x0B s (fun s _ m =>
    match tokenBind s ((m.drop 24).take 64) with
    | some b => welcome (bindConn s qp b) qp m
    | none => latRefuse s qp m latToken)

def execToken (qp : BitVec 24) (s : State) : Host.Outcome State Fault Refusal := .next (token qp s)

/-! ### HELLO and PROVE (R537, R538, R613) -/

/-- A role by its code (Table 12.4). -/
def roleOf : Nat → Option Role
  | 1 => some .owner
  | 2 => some .standby
  | 3 => some .reader
  | _ => none

/-- HELLO (R537, R613, R757): CHALLENGE for an owner or standby, WELCOME or LAT_TOKEN for a reader; a role that is not
offered is denied. -/
def hello (qp : BitVec 24) (fresh : BitVec 256) (s : State) : State :=
  onMsg qp 0x01 s (fun s _ m =>
    match roleOf (leAt m 16 1) with
    | none => latRefuse s qp m latDenied
    | some r =>
      if inLoader s ∧ r ≠ .owner then latRefuse s qp m latDenied
      else if r = .reader then
        match tokenBind s ((m.drop 24).take 64) with
        | some b => welcome (modConn (bindConn s qp b) qp (fun c => { c with role := some .reader })) qp m
        | none => latRefuse s qp m latToken
      else
        reply (modConn s qp (fun c => { c with chal := some (fresh, r) })) qp
          (msgHeader 2 56 0 (msgTag m) ++ toLe 32 fresh.toNat ++ toLe 8 (serialNat s)))

def execHello (qp : BitVec 24) (fresh : BitVec 256) (s : State) : Host.Outcome State Fault Refusal :=
  .next (hello qp fresh s)

/-- The digest that PROVE signs: nonce, serial number, ROLE, source GID (R537). -/
def proveDigest (s : State) (nonce : BitVec 256) (r : Role) (gid : BitVec 128) : List Byte :=
  sha3 (toLe 32 nonce.toNat ++ toLe 8 (serialNat s) ++ toLe 1 (roleCode (some r)) ++ (toLe 16 gid.toNat).reverse)

/-- CONNKEY of the current Lockplate image (Table 14.4). -/
def connKey (s : State) : List Byte := (s.lkp.img.drop 64).take 2592

/-- A connection becomes the owner: it has fresh keys, every completion ring is unbound, and the former owner connection loses
its keys; one that had handed over becomes the standby, one that had failed has no role (R540, R542). -/
def makeOwner (s : State) (qp : BitVec 24) : State :=
  let d := drawWord s
  let e := drawWord d.2
  let s := e.2
  let demote (c : Conn) : Conn :=
    if c.role = some .owner then
      { c with role := some (if c.failed then .former else .standby), handed := false, mkey := none, dkey := none }
    else c
  let take (c : Conn) : Conn :=
    if c.qp = qp then { c with role := some .owner, handed := false, mkey := some d.1, dkey := some e.1 } else demote c
  { s with
    net := { s.net with conns := s.net.conns.map take, ownerFailed := false },
    rings := s.rings.map (fun r => r.map (fun r => { r with bound := none })) }

/-- PROVE (R537, R538, R541). -/
def prove (qp : BitVec 24) (s : State) : State :=
  onMsg qp 0x03 s (fun s c m =>
    let s := modConn s qp (fun c => { c with chal := none })
    match c.chal with
    | none => latRefuse s qp m latProof
    | some (nonce, r) =>
      if !Config.mlVerify (connKey s) (proveDigest s nonce r c.gid) ((m.drop 16).take 4627) then latRefuse s qp m latProof
      else if r = .owner then
        if (ownerConn s).isSome then latRefuse s qp m latTaken
        else roleEvent (welcome (makeOwner s qp) qp m) 1
      else if (standbyConn s).isSome then latRefuse s qp m latTaken
      else roleEvent (welcome (modConn s qp (fun c => { c with role := some .standby })) qp m) 2)

def execProve (qp : BitVec 24) (s : State) : Host.Outcome State Fault Refusal := .next (prove qp s)

/-! ### KEEPALIVE, PROMOTE, HANDOVER, BYE (R535, R540) -/

/-- KEEPALIVE (R535): answered with the time counter. -/
def execKeepalive (qp : BitVec 24) (s : State) : Host.Outcome State Fault Refusal :=
  .next (onMsg qp 0x06 s (fun s _ m => reply s qp (msgHeader 6 24 0 (msgTag m) ++ toLe 8 s.dtc.toNat)))

/-- PROMOTE (R540): granted if the owner connection has failed or has handed over; a former owner that is still connected
becomes the standby. -/
def promote (qp : BitVec 24) (s : State) : State :=
  onMsg qp 0x07 s (fun s _ m =>
    match ownerConn s with
    | some o =>
      if o.handed then roleEvent (roleEvent (welcome (makeOwner s qp) qp m) 1) 2 else latRefuse s qp m latTaken
    | none =>
      if s.net.ownerFailed then roleEvent (welcome (makeOwner s qp) qp m) 1 else latRefuse s qp m latTaken)

def execPromote (qp : BitVec 24) (s : State) : Host.Outcome State Fault Refusal := .next (promote qp s)

/-- HANDOVER (R540): from now on a PROMOTE takes the role over. -/
def execHandover (qp : BitVec 24) (s : State) : Host.Outcome State Fault Refusal :=
  .next (onMsg qp 0x08 s (fun s _ m => welcome (modConn s qp (fun c => { c with handed := true })) qp m))

/-- BYE (R535): a reply, then the connection closes. -/
def execBye (qp : BitVec 24) (s : State) : Host.Outcome State Fault Refusal :=
  .next (onMsg qp 0x0C s (fun s _ m => dropConn (send (welcome s qp m) (.drop qp)) qp))

/-! ### Rings (R543-R545, R613) -/

/-- A power of two in 64-4,096. -/
def ringSize (n : Nat) : Bool := n = 64 || n = 128 || n = 256 || n = 512 || n = 1024 || n = 2048 || n = 4096

/-- Whether RING_OPEN without RESUME is in range: its entries must lie in memory that exists (R543, R613, R724). -/
def ringOk (s : State) (m : List Byte) : Bool :=
  decide (leAt m 16 1 < 16) && (!inLoader s || decide (leAt m 16 1 = 0)) && ringSize (leAt m 20 4) &&
  decide (leAt m 24 8 % 4096 = 0) && devThere s (leAt m 24 8) (64 * leAt m 20 4) && ringSize (leAt m 44 4)

def setRing (s : State) (i : Nat) (r : Option Ring) : State := { s with rings := s.rings.set (Fin.ofNat 16 i) r }

/-- A ring as RING_OPEN makes it. -/
def freshRing (qp : BitVec 24) (m : List Byte) : Ring :=
  { cbase := leAt m 24 8, entries := leAt m 20 4, crva := leAt m 32 8, crkey := BitVec.ofNat 32 (leAt m 40 4),
    centries := leAt m 44 4, bound := some qp, p := 0, c := 0, q := 0, a := 0, sent := 0, kept := [], outs := [] }

/-- RING_OPEN (R543, R544). -/
def ringOpen (qp : BitVec 24) (s : State) : State :=
  onMsg qp 0x09 s (fun s _ m =>
    let i := leAt m 16 1
    let old := if i < 16 then getRing s i else none
    if leAt m 17 1 = 1 then
      match old with
      | none => latRefuse s qp m latRing
      | some r =>
        let k : Word := BitVec.ofNat 32 (leAt m 48 4)
        if !ringSize (leAt m 44 4) ∨ (r.q - r.a).toNat < (k - r.a).toNat then latRefuse s qp m latRing
        else
          let f := freshRing qp m
          welcome (setRing s i (some { r with
            crva := f.crva, crkey := f.crkey, centries := f.centries, bound := some qp, sent := k })) qp m
    else if old.isSome ∨ !ringOk s m then latRefuse s qp m latRing
    else welcome (setRing s i (some (freshRing qp m))) qp m)

def execRingOpen (qp : BitVec 24) (s : State) : Host.Outcome State Fault Refusal := .next (ringOpen qp s)

/-- RING_CLOSE (R545): every command read must have completed. -/
def ringClose (qp : BitVec 24) (s : State) : State :=
  onMsg qp 0x0A s (fun s _ m =>
    let i := leAt m 16 1
    match if i < 16 then getRing s i else none with
    | none => latRefuse s qp m latRing
    | some r =>
      if r.outs ≠ [] then latRefuse s qp m latRing
      else welcome { setRing s i none with comps := s.comps.filter (fun c => c.ring ≠ i) } qp m)

def execRingClose (qp : BitVec 24) (s : State) : Host.Outcome State Fault Refusal := .next (ringClose qp s)

end Sys2Proof.Machine
end

