-- ==== Sys2Proof/Machine/Port.lean ====
section
/-! DEFINITION. What arrives at the port: the requests of connections in their order, and frames (12_latch_transport.md, R509-R514,
R519, R520, R572, R656). -/

namespace Sys2Proof.Machine

/-! ### Requests of connections (R513, R520) -/

/-- Whether a request has to wait: its bytes lie on a held stack or behind a full write queue, or the Hinge takes no Network beat
(R26, R425, R449). -/
def reqWaits (s : State) (c : Conn) : NetReq → Bool
  | .write key va bytes _ => !bellKey c key && c.role.isSome && decide (c.mkey = some key) && devThere s va bytes.length && netPutWaits s va bytes.length
  | .read (some x) len _ => c.role.isSome && devThere s x.1 len && (netWaits s x.1 len || (inHalf1 s x.1 len && !hingeTakes s 1 3))
  | _ => false

/-- A request is executed (R513). -/
def runReq (qp : BitVec 24) (c : Conn) (r : NetReq) (s : State) : State :=
  match r with
  | .write key va bytes fab => netWrite qp c key va bytes fab s
  | .bell key va bytes => doorbell qp c key va bytes s
  | .read x len fab => rdmaRead qp c x len fab s
  | .msg m => sendMsg qp c m s
  | .bad => nak s qp .invalid true

/-- The requests of a connection that need not wait are executed, in their order: the data of a write are accepted before anything later
of its connection is acted on (R520). -/
def pumpConn (qp : BitVec 24) : Nat → State → State
  | 0, s => s
  | n + 1, s =>
    match upConn s qp with
    | none => s
    | some c =>
      match c.waiting with
      | [] => s
      | r :: rest =>
        if reqWaits s c r then s
        else pumpConn qp n (runReq qp c r (modConn s qp (fun c => { c with waiting := rest })))

/-- A request joins those of its connection. More READs than the 16 that may be outstanding are answered as an opcode that the device
does not execute (R515, log 152). -/
def netIn (qp : BitVec 24) (r : NetReq) (s : State) : State :=
  match upConn s qp with
  | none => s
  | some c =>
    let r := if r.isRead ∧ 16 ≤ (c.waiting.filter (·.isRead)).length then .bad else r
    pumpConn qp (c.waiting.length + 1) (modConn (heard s qp) qp (fun c => { c with waiting := c.waiting ++ [r] }))

/-- Requests that waited go on as the stacks and queues allow. -/
def pumpNet (s : State) : State :=
  s.net.conns.foldl (fun s c => if c.waiting = [] then s else pumpConn c.qp c.waiting.length s) s

/-- SEND (R513, R517). -/
def execSend (qp : BitVec 24) (bytes : List Byte) (s : State) : Host.Outcome State Fault Refusal :=
  .next (netIn qp (.msg bytes) (betweenPackets s))

/-- SEND_WITH_IMMEDIATE (R513): as a SEND. -/
def execSendWithImmediate (qp : BitVec 24) (bytes : List Byte) (s : State) : Host.Outcome State Fault Refusal :=
  .next (netIn qp (.msg bytes) (betweenPackets s))

/-- RDMA_WRITE (R519, R520). -/
def execRdmaWrite (qp : BitVec 24) (key : BitVec 32) (va : BitVec 64) (p : Payload) (s : State) : Host.Outcome State Fault Refusal :=
  .next (netIn qp (.write key va.toNat p.bytes p.fab) (betweenPackets s))

/-- RDMA_WRITE_WITH_IMMEDIATE (R514): as an RDMA WRITE; it takes no receive slot, and its immediate data are ignored. -/
def execRdmaWriteWithImmediate (qp : BitVec 24) (key : BitVec 32) (va : BitVec 64) (p : Payload) (s : State) :
    Host.Outcome State Fault Refusal :=
  .next (netIn qp (.write key va.toNat p.bytes p.fab) (betweenPackets s))

/-- DOORBELL (R546). -/
def execDoorbell (qp : BitVec 24) (key : BitVec 32) (va : BitVec 64) (bytes : List Byte) (s : State) :
    Host.Outcome State Fault Refusal :=
  .next (netIn qp (.bell key va.toNat bytes) (betweenPackets s))

/-- RDMA_READ (R572): the binding is checked when the request is received, whatever it waits for. -/
def execRdmaRead (qp : BitVec 24) (key : BitVec 32) (va : BitVec 64) (len : Nat) (fabErr : Bool) (s : State) :
    Host.Outcome State Fault Refusal :=
  let s := betweenPackets s
  .next (netIn qp (.read ((upConn s qp).bind (fun c => readAt s c key va.toNat len)) len fabErr) s)

/-! ### Frames (R509, R511, R512) -/

/-- `n` bytes from byte `b` of the configuration in use (R581, Table 13.2). -/
def cfgNat (s : State) (b n : Nat) : Nat := leAt s.net.cfg b n

/-- Whether IPv4 is enabled, and the MAC address. -/
def ip4On (s : State) : Bool := cfgNat s 3 1 % 2 = 1
def macNat (s : State) : Nat := (rreg s .netMac0 0).toNat + 2 ^ 32 * rfld s .netMac1 0 15 0

/-- Bytes of an address as one number, the first the most significant. -/
def beNat (bs : List Byte) : Nat := bs.foldl (fun n b => 256 * n + b.toNat) 0

/-- The link-local address, from the MAC address by the modified EUI-64 (log 151). -/
def linkLocal (s : State) : Nat :=
  let m := macNat s
  let b (i : Nat) : Nat := m / 2 ^ (8 * i) % 256
  0xFE80 * 2 ^ 112 + ((b 0 ^^^ 2) * 2 ^ 56 + b 1 * 2 ^ 48 + b 2 * 2 ^ 40 + 0xFFFE * 2 ^ 24 + b 3 * 2 ^ 16 + b 4 * 2 ^ 8 + b 5)

/-- Whether an IPv6 address is the device's: its link-local one, or the global one if it has one (Table 12.1). -/
def isMine6 (s : State) (ip : Nat) : Bool :=
  ip = linkLocal s || (ip ≠ 0 && ip = beNat ((s.net.cfg.drop 16).take 16))

/-- What the port answers to a frame that carries no RoCE packet: ARP, NDP and echo requests of its addresses, and an error message for
a port on which it does not listen. A fragment is dropped, and what Table 12.1 does not list (R509). -/
def plainFrame (s : State) : FrameBody → State
  | .arp ip => if ip4On s ∧ ip.toNat = beNat ((s.net.cfg.drop 48).take 4) then send s (.arpReply ip) else s
  | .ndp ip => if isMine6 s ip.toNat then send s (.neighbour ip) else s
  | .echo v6 bytes => if v6 ∨ ip4On s then send s (.echoReply v6 bytes) else s
  | .noPort v6 => if v6 ∨ ip4On s then send s (.icmpError v6) else s
  | _ => s

/-- Whether a frame's VLAN tag is the one that the device uses, or none where its frames are untagged (Table 12.1, log 151). -/
def vlanOk (s : State) (f : Frame) : Bool :=
  f.vlan = (if cfgNat s 3 1 / 4 % 2 = 1 then some (BitVec.ofNat 12 (cfgNat s 4 2)) else none)

/-- FRAME_RECEIVE (R509, R511-R513). -/
def frameReceive (f : Frame) (s : State) : State :=
  if !portUp s then s
  else if !f.fcsOk ∨ 4352 < f.len ∨ f.dst = .other then cfld s .netErr 0 31 24 1
  else if rfld s .netStat 0 27 27 = 0 ∧ 16 * mib < f.depth then s
  else
    let s := flowControl s f.depth
    if !vlanOk s f then s
    else
      match f.body with
      | .roce qp icrcOk ce ack => rocePacket s qp icrcOk ce ack
      | .badOp qp icrcOk ce =>
        let t := rocePacket s qp icrcOk ce false
        if icrcOk then netIn qp .bad t else t
      | b => plainFrame s b

def execFrameReceive (f : Frame) (s : State) : Host.Outcome State Fault Refusal := .next (frameReceive f (betweenPackets s))

/-- PFC_FRAME (R512): honoured while PFC is enabled; it passes through the receive buffer like any frame. -/
def execPfcFrame (p : PfcIn) (s : State) : Host.Outcome State Fault Refusal :=
  .next (if portUp s ∧ rfld s .netStat 0 27 27 = 1 then
    flowControl (sendWaiting { s with net := { s.net with pause := p.quanta } }) p.depth
  else s)

end Sys2Proof.Machine
end

