-- ==== Sys2Proof/Machine/Time.lean ====
section
/-! DEFINITION. The link, announcements, PTP and PPS (12_latch_transport.md, R527-R532, R574, R575; 08_determinism.md, R366;
16_module_physical.md, R696). -/

namespace Sys2Proof.Machine

/-! ### Announcements (R574, R575, R599) -/

/-- Enabled logical blocks: the lesser of 6 and the healthy physical blocks, summed over regions (R734). -/
def enabledBlocks (s : State) : Nat := ((List.range 8).map (fun r => min 6 (inService s r).length)).sum

/-- The state that an announcement gives (R575, R599, R612). -/
def announceState (s : State) : Nat :=
  if inLoader s then 2 else if enabledBlocks s < 48 ∨ rfld s .memCap 0 15 0 < 384 then 3 else 1

/-- Roles of an announcement: bit 0 owner live, bit 1 standby live. -/
def announceRoles (s : State) : Nat :=
  (if (ownerConn s).isSome then 1 else 0) + (if (standbyConn s).isSome then 2 else 0)

/-- The 128 bytes of an announcement (R575). The IPv4 address is given while IPv4 is enabled. -/
def announceBytes (s : State) : List Byte :=
  let ip4 := if ip4On s then cfgNat s 48 4 else 0
  toLe 2 0x4C41 ++ toLe 1 1 ++ toLe 1 (announceState s) ++ toLe 1 (announceRoles s) ++ toLe 1 (rfld s .devFw 0 23 16) ++
  toLe 2 (rfld s .devFw 0 15 0) ++ toLe 2 0xC5A7 ++ toLe 2 0x4880 ++ toLe 4 0xA1 ++ toLe 8 (serialNat s) ++
  toLe 8 (macNat s) ++ toLe 16 ip4 ++ toLe 16 (cfgNat s 16 16) ++ toLe 4 (enabledBlocks s) ++
  toLe 60 (rfld s .memCap 0 15 0)

/-- Send an announcement, if the port works. -/
def announce (s : State) : State :=
  if portUp s then send { s with net := { s.net with annAt := some s.cyc } } (.announce (announceBytes s)) else s

/-- Whether a periodic announcement is due: 1 s after the last, 10 s while an owner connection is live (R574, log 153). -/
def announceDue (s : State) : Bool :=
  match s.net.annAt with
  | none => true
  | some t => decide (t + (if (ownerConn s).isSome then 1000000000 else 100000000) ≤ s.cyc)

/-- ANNOUNCE (R574): a periodic announcement is sent when it is due. -/
def execAnnounce (s : State) : Host.Outcome State Fault Refusal := .next (if announceDue s then announce s else s)

/-- LINK_UP (R574, R714): LINK sets and the device announces itself. The port trains only while the device is ready or in the
recovery loader. -/
def linkUp (s : State) : State :=
  if (s.power.phase = .ready ∨ inLoader s) ∧ rfld s .netStat 0 31 31 = 0 then announce (wfld s .netStat 0 31 31 1) else s

def execLinkUp (s : State) : Host.Outcome State Fault Refusal := .next (linkUp s)

/-- LINK_DOWN (R714): LINK clears and the port trains again. -/
def execLinkDown (s : State) : Host.Outcome State Fault Refusal := .next (wfld s .netStat 0 31 31 0)

/-! ### PTP (R527-R530) -/

/-- NET_STAT.PTP: 0 FREE, 1 ACQUIRING, 2 LOCKED, 3 HOLDOVER. -/
def ptpState (s : State) : Nat := rfld s .netStat 0 30 28

def modPtp (s : State) (f : Ptp → Ptp) : State := { s with net := { s.net with ptp := f s.net.ptp } }

/-- Every timed launch that still waits is refused with DET_UNLOCKED (R366). -/
def refuseTimed (s : State) : State :=
  (s.launches.filter (fun l => l.flag 0 && l.st = .waiting && !l.begun)).foldl (fun s l => endLaunch s l 2 0x1012) s

/-- A change of PTP state: CLK_REF.VALID, the event PTP_STATE, and, when the lock is lost, the timed launches and PPS_OUT
(R366, R531, Table 12.8, Table 17.5). -/
def setPtp (s : State) (st : Nat) : State :=
  let lost := decide (ptpState s = 2)
  let s := wfld (wfld s .netStat 0 30 28 st) .clkRef 0 31 31 (if st = 2 then 1 else 0)
  let s := if lost then wfld (wfld s .clkRef 0 15 0 0) .clkStat 0 29 29 (rfld s .clkStat 0 31 31) else s
  let s := modPtp s (fun p => { p with good := 0, bad := 0, slew := if lost then 0 else p.slew })
  let s := postEvent s 0 0x5003 0 st []
  if lost then refuseTimed { s with net := { s.net with ppsOut := none } } else s

/-- Whether PTP runs: the device is ready and its link is up. -/
def ptpOn (s : State) : Bool := decide (s.power.phase = .ready) && portUp s

/-- Whether a message is of the domain NET_CFG.DOMAIN (R527). -/
def inDomain (s : State) (d : Nat) : Bool := d = rfld s .netCfg 0 31 24

/-- Whether a data set ranks before another: the first member that differs decides, the lower one wins (log 16). -/
def rankBefore : List Nat → List Nat → Bool
  | x :: xs, y :: ys => decide (x < y) || (x = y && rankBefore xs ys)
  | [], _ :: _ => true
  | _, _ => false

/-- PTP_ANNOUNCE (R527, Table 12.2): the best of the masters heard is selected. -/
def ptpAnnounce (m : PtpAnn) (s : State) : State :=
  if !ptpOn s ∨ !inDomain s m.domain then s
  else
    match s.net.ptp.master with
    | none =>
      let s := modPtp s (fun p => { p with master := some m.rank, lastAnn := s.cyc })
      if ptpState s = 0 then setPtp s 1 else s
    | some r =>
      if rankBefore m.rank r then modPtp s (fun p => { p with master := some m.rank, lastAnn := s.cyc })
      else if r = m.rank then modPtp s (fun p => { p with lastAnn := s.cyc })
      else s

def execPtpAnnounce (m : PtpAnn) (s : State) : Host.Outcome State Fault Refusal := .next (ptpAnnounce m s)

/-- A number of ns clamped to the range of NET_PTPOFS. -/
def clampOfs (x : Int) : Int := max (-(2 ^ 31 - 1)) (min (2 ^ 31 - 1) x)

/-- A frequency correction clamped to 100 ppm, in parts per 10^9 (R530). -/
def clampFreq (x : Int) : Int := max (-100000) (min 100000 x)

/-- The counter is stepped when the offset exceeds 10 µs, else slewed (R530). -/
def discipline (s : State) (off : Int) : State :=
  if 10000 < off.natAbs then
    modPtp { s with dtc := s.dtc - BitVec.ofInt 64 off } (fun p => { p with slew := 0 })
  else modPtp s (fun p => { p with slew := -1000 * off })

/-- While PTP is LOCKED, CLK_REF.PPM is the offset of REFCLK, and REFOK says that it is within 200 ppm (Table 17.5). -/
def showRef (s : State) (x : Int) : State :=
  if ptpState s = 2 then
    wfld (wfld s .clkRef 0 15 0 ((max (-32768) (min 32767 x)) % 65536).toNat) .clkStat 0 29 29 (if x.natAbs ≤ 20000 then 1 else 0)
  else s

/-- PTP_SYNC (R527, R528, R530, Table 12.2): a Sync of the selected master measured, by one step or two (log 16); the device's own
Delay_Req follows. -/
def ptpSync (m : PtpMeas) (s : State) : State :=
  if !ptpOn s ∨ ptpState s = 0 ∨ !inDomain s m.domain then s
  else
    let s := send (discipline (wreg s .netPtpofs 0 (BitVec.ofInt 32 (clampOfs m.off))) m.off) .delayReq
    let s := modPtp s (fun p => { p with
      good := if m.off.natAbs ≤ 40 then p.good + 1 else 0, bad := if 50 < m.off.natAbs then p.bad + 1 else 0,
      lastSync := s.cyc, interval := m.interval, freq := clampFreq m.freq })
    showRef (if ptpState s = 2 then (if 2 ≤ s.net.ptp.bad then setPtp s 3 else s)
      else if 16 ≤ s.net.ptp.good then setPtp s 2
      else s) m.ref

def execPtpSync (m : PtpMeas) (s : State) : Host.Outcome State Fault Refusal := .next (ptpSync m s)

/-- Management cycles of 10 s. -/
def tenSeconds : Nat := 1000000000

/-- PTP_SYNC_TIMEOUT (R528, Table 12.2): without a Sync for 4 Sync intervals LOCKED goes to HOLDOVER; without an Announce for 10 s there
is no master, and HOLDOVER and ACQUIRING go to FREE. -/
def ptpTimeout (s : State) : State :=
  let p := s.net.ptp
  match ptpState s with
  | 2 => if p.lastSync + 4 * p.interval ≤ s.cyc then setPtp s 3 else s
  | 1 | 3 => if p.lastAnn + tenSeconds ≤ s.cyc then setPtp (modPtp s (fun p => { p with master := none })) 0 else s
  | _ => s

def execPtpSyncTimeout (s : State) : Host.Outcome State Fault Refusal := .next (ptpTimeout s)

/-! ### PPS (R531, R532, R696) -/

/-- Whether the device time counter runs (R527, R595). -/
def counting (s : State) : Bool :=
  match s.power.phase with
  | .starting _ | .ready | .loader | .clockLost | .stopped => decide (s.power.time0 ≤ s.cyc)
  | _ => false

/-- PPS_OUT (R531, Table 16.4): at a whole second of the counter, while LOCKED, the pin rises for 100 ms. -/
def ppsOut (s : State) : State :=
  if ptpState s = 2 ∧ s.dtc.toNat % 1000000000 < 10 then { s with net := { s.net with ppsOut := some (s.cyc + 10000000) } } else s

def execPpsOut (s : State) : Host.Outcome State Fault Refusal := .next (ppsOut s)

/-- PPS_IN (R532, R696): a rising edge is timestamped, unless it follows the last accepted one by less than 500 ms. -/
def ppsIn (s : State) : State :=
  let soon : Bool := match s.net.ppsAt with | some t => decide (s.cyc < t + 50000000) | none => false
  if soon ∨ !counting s then s
  else { s with net := { s.net with ppsTime := s.dtc, ppsAt := some s.cyc } }

def execPpsIn (s : State) : Host.Outcome State Fault Refusal := .next (ppsIn s)

end Sys2Proof.Machine
end

