-- ==== Sys2Proof/Machine/Trust.lean ====
section
/-! DEFINITION. The Lockplate image, keys and firmware validity (14_lockplate_security.md, R621-R630, R645-R647). -/

namespace Sys2Proof.Machine

/-! ### Keys (R621, Table 14.2) -/

/-- DBG of Table 14.2. -/
def dbgByte (s : State) : List Byte := [if s.lkp.debug then 1 else 0]

def aliasSeed (s : State) : List Byte := seedOf "FZALIAS" (s.lkp.mfw ++ dbgByte s)

/-! ### The Lockplate image (R624, Table 14.4) -/

def imgState (g : List Byte) : Nat := leAt g 3 1
def imgEpoch (g : List Byte) : Nat := leAt g 4 1
def imgCosign (g : List Byte) : Bool := leAt g 5 1 % 2 = 1
def imgScrubDue (g : List Byte) : Bool := leAt g 5 1 / 2 % 2 = 1
def imgGen (g : List Byte) : Nat := leAt g 8 8

/-- Slot `i` of an image: its 2,624 bytes, whether it is used, its roles, and its key. -/
def imgSlot (g : List Byte) (i : Nat) : List Byte := (g.drop (slotAt i)).take 2624
def slotUsed (g : List Byte) (i : Nat) : Bool := decide (i < 8) && leAt g (slotAt i) 1 = 1
def slotRoles (g : List Byte) (i : Nat) : Nat := leAt g (slotAt i + 1) 1
def slotKey (g : List Byte) (i : Nat) : List Byte := (g.drop (slotAt i + 32)).take 2592

/-- Whether a slot is used and holds a role (Table 14.5: 0 LOCKPLATE, 1 REGISTERS, 2 FIRMWARE, 3 DEBUG). -/
def slotHas (g : List Byte) (role i : Nat) : Bool := slotUsed g i && slotRoles g i / 2 ^ role % 2 = 1

/-- Whether a copy is valid (R625). -/
def imgValid (s : State) (g : List Byte) : Bool :=
  leAt g 0 2 = 0x4C50 && leAt g 2 1 = 1 && (g.drop lkpBody).take 64 = sha3 (kLp ++ g.take lkpBody) &&
  decide (s.fuses.epoch ≤ imgEpoch g)

/-- The choice of step 2 of start-up (R625, R626): the image, which copy holds it, and whether it is to be scrubbed. -/
def chooseImg (s : State) : List Byte × Nat × Bool :=
  let a := s.flash.copyA.take lkpLen
  let b := s.flash.copyB.take lkpLen
  match imgValid s a, imgValid s b with
  | true, true => if imgGen a < imgGen b then (b, 1, imgScrubDue b) else (a, 0, imgScrubDue a)
  | true, false => (a, 0, imgScrubDue a)
  | false, true => (b, 1, imgScrubDue b)
  | false, false => (s.flash.factory.take lkpLen, 2, true)

/-- Step 2 of start-up takes the current image; fuses are blown until the count equals its EPOCH (R625-R627). -/
def lkpBoot (s : State) : State :=
  let c := chooseImg s
  { s with
    lkp := { s.lkp with img := c.1, which := c.2.1, scrubDue := c.2.2 },
    fuses := { s.fuses with epoch := max s.fuses.epoch (min 64 (imgEpoch c.1)) } }

/-- Write a new image to the copy that is not current; it becomes current (R636). -/
def writeImg (s : State) (g : List Byte) : State :=
  let x := sealImg g
  let w := if s.lkp.which = 0 then 1 else 0
  let fl := if w = 0 then { s.flash with copyA := x } else { s.flash with copyB := x }
  { s with flash := fl, lkp := { s.lkp with img := x, which := w, scrubDue := imgScrubDue x } }

/-- GEN increased by 1 (R628, R636). -/
def nextGen (g : List Byte) : List Byte := putLe g 8 8 (imgGen g + 1)

/-- SCRUBDUE as given. -/
def setScrub (g : List Byte) (on : Bool) : List Byte :=
  let f := leAt g 5 1
  putLe g 5 1 (f / 4 * 4 + f % 2 + (if on then 2 else 0))

/-! ### Firmware (R645-R647, Table 14.9) -/

/-- What a check of a firmware header and image finds: good, or RESULT 0x2 signature, 0x3 rolled back, 0x4 length. -/
inductive FwCheck where
  | good | signature | rollback | length
  deriving DecidableEq, Repr

def fwIlen (h : List Byte) : Nat := leAt h 4 4
def fwSvn (h : List Byte) : Nat := leAt h 8 1
def fwVkey (h : List Byte) : List Byte := (h.drop 80).take 2592

/-- The firmware measurement MFW (R645). -/
def fwMeasure (h : List Byte) : List Byte := sha3 (h.take 2672)

def ilenOk (n : Nat) : Bool := decide (4096 ≤ n) && decide (n ≤ 96 * 2 ^ 20) && n % 4096 = 0

/-- The countersignature, where FWCOSIGN asks for one (R646). -/
def cosigned (s : State) (h : List Byte) : Bool :=
  let i := leAt h 7299 1
  !imgCosign s.lkp.img ||
  (leAt h 3 1 % 2 = 1 && slotHas s.lkp.img 2 i &&
    Config.mlVerify (slotKey s.lkp.img i) (fwMeasure h) ((h.drop 7300).take 4627))

/-- R646, R647. -/
def fwCheck (s : State) (h img : List Byte) : FwCheck :=
  if !ilenOk (fwIlen h) then .length
  else if leAt h 0 2 = 0x4648 ∧ leAt h 2 1 = 1 ∧ sha3 (fwVkey h) = toLe 64 Config.fwKeyDig.toNat ∧
      Config.mlVerify (fwVkey h) (fwMeasure h) ((h.drop 2672).take 4627) ∧
      (h.drop 16).take 64 = sha3 (img.take (fwIlen h)) ∧ cosigned s h then
    if fwSvn h < s.fuses.svn then .rollback else .good
  else .signature

end Sys2Proof.Machine
end

