-- ==== Sys2Proof/Machine/Window.lean ====
section
/-! DEFINITION. Writing a register by its access codes, and the register windows of blocks, which a region in turn defers
(00_scope.md, R11; 01_structure.md, R35-R41, R744; 02_block_array.md, R100; 17_register_map.md, R732). -/

namespace Sys2Proof.Machine

/-! ### Writes -/

/-- The outcome of a register write: taken, refused with a code, or waiting for a place in the Keyring queue (R588). -/
inductive WriteOut where
  | ok (s : State)
  | refused (code : Nat)
  | waits
  deriving DecidableEq, Repr

def cRegAddr : Nat := 0x2004
def cRegLocked : Nat := 0x2005
def cCfgPending : Nat := 0x2006
def cRegDenied : Nat := 0x2009

/-- A write to a commit register (Table 1.5, R40, R41, R744): VIEW; REJECTED with its REASON; DISCARD before COMMIT. -/
def writeCommit (s : State) (g : Group) (v : Word) : WriteOut :=
  if getF v 1 0 ≠ 0 ∧ pendingG s g then .refused cCfgPending
  else
    let s := setCommit s g 3 3 (getF v 3 3)
    let s := if getF v 8 8 = 1 then setCommit (setCommit s g 15 12 0) g 8 8 0 else s
    .ok (if getF v 1 1 = 1 then discard g s else if getF v 0 0 = 1 then commitRequest g s else s)

/-- A write to a field register of a group changes its shadow copy, unless a commit is pending (R35, R41). -/
def writeField (s : State) (g : Group) (r : Reg) (i : Nat) (v : Word) : WriteOut :=
  if pendingG s g then .refused cCfgPending
  else
    let m := regMask r (fun a => a = .rw || a = .wo)
    .ok (wshadow s r i ((rshadow s r i &&& ~~~m) ||| (v &&& m)))

/-- A write to a register by its access codes alone (R11). An event of the write's own management cycle is the command after
it, so a W1C bit that it sets ends set (R12, log 7). -/
def writePlain (s : State) (r : Reg) (i : Nat) (v : Word) : State :=
  let rw := regMask r (· = .rw)
  let w1 := regMask r (· = .w1c)
  if rw = 0 ∧ w1 = 0 then s
  else wreg s r i (((rreg s r i &&& ~~~rw) ||| (v &&& rw)) &&& ~~~(v &&& w1))

/-! ### The windows of blocks (R732) -/

/-- Whether a launch is saving or restoring context. -/
def moving (s : State) (l : Launch) : Bool :=
  match l.st with
  | .restoring => true
  | .stopping => allStopped s l
  | _ => false

/-- BLKn_SEQSTAT (Table 2.11). A WFL that waits while the array replays shows 0x3, before 0x4 (R100, log 144). -/
def seqstat (s : State) (b : Fin 48) : Word :=
  let k := s.blocks[b]
  let l := k.lid.bind (findLaunch s)
  let replaying : Bool := match k.job with | some j => j.replay || decide (0 < j.attempts) | none => false
  let st : Nat := match l with
    | none => 0
    | some l =>
      if moving s l then 6 else if k.stopped then 5 else if k.finished then 0
      else match k.wait with
        | some (.barrier _ _) => 2
        | some (.flag _ _ _ _) => 3
        | none => if replaying then 4 else 1
  let stall : Nat := match l with
    | none => 0
    | some l => if k.stopped ∨ k.finished then 0 else (stallOf s b l).getD 0
  setF (setF (setF (setF 0 31 28 st) 27 24 stall) 23 23 (if k.intSat then 1 else 0)) 22 16 k.iq.length

/-- The registers of a block's window that the device sets, in address order. -/
def blkShown : List Reg :=
  [.blkSeqstat, .blkPc, .blkWardcnt, .blkWardlog, .blkWardpc, .blkEcc, .blkTfault, .blkTfpc, .blkNoopcnt]

/-- What they hold. -/
def blkWindow (s : State) (b : Fin 48) : List Word :=
  blkShown.map (fun r => if r = .blkSeqstat then seqstat s b else rreg s r b.val)

/-- What a register of a block's window shows while no physical block hosts the block: its value at the end of the block's last
turn. -/
def frozenWord (s : State) (r : Reg) (b : Fin 48) : Option Word :=
  if hostedNow s b ∨ r ∉ blkShown then none
  else ((s.regions[rgnOf b]).windows.find? (fun x => x.1 = b.val % 6)).bind (fun x => x.2[blkShown.idxOf r]?)

/-- Whether a register belongs to the windows of blocks, with the block. -/
def windowOf (r : Reg) (i : Nat) : Option (Fin 48) :=
  if r ∈ [Reg.blkCfg, .blkCommit, .blkTest] ++ blkShown then some (Fin.ofNat 48 i) else none

/-- A write to a register of a block's window. -/
def blkWrite (s : State) (r : Reg) (b : Fin 48) (v : Word) : WriteOut :=
  match r with
  | .blkCommit => writeCommit s (.blk b) v
  | .blkCfg => writeField s (.blk b) r b.val v
  | .blkTest => .ok (if getF v 0 0 = 1 then modBlk s b (fun k => { k with inject := true }) else s)
  | _ => .ok (writePlain s r b.val v)

/-- A write that waits for the block's next turn. -/
def putLate (s : State) (r : Reg) (b : Fin 48) (v : Word) : State :=
  modRgn s (rgnOf b) (fun g => { g with late := g.late ++ [(b.val % 6, r, v)] })

/-- A turn of a block begins: the register writes that waited for it take effect, in their order. -/
def lateWrites (s : State) (b : Fin 48) : State :=
  let mine (x : Nat × Reg × Word) : Bool := x.1 = b.val % 6
  ((s.regions[rgnOf b]).late.filter mine).foldl
    (fun s x => match blkWrite s x.2.1 b x.2.2 with | .ok t => t | _ => s)
    (modRgn s (rgnOf b) (fun g => { g with late := g.late.filter (fun x => !mine x) }))

end Sys2Proof.Machine
end

