-- ==== Sys2Proof/Machine/Launches.lean ====
section
/-! DEFINITION. Dispatch, completion, STOP, ABORT, RESUME and slices (09_launches_preemption.md, R376-R395;
07_tumbler_sampling.md, R334-R336; 12_latch_transport.md, R554-R560, R756; R223, R364, R737). -/

namespace Sys2Proof.Machine

/-! ### Dispatch -/

/-- A list engine at the start of its list, or idle when the record gives none. -/
def freshRun (l : Launch) (b : Nat) : ListRun :=
  if l.fld b 8 = 0 then ListRun.idle
  else { lid := some l.lid, base := l.fld b 8 % 2 ^ 44, idx := 0, waiting := none, ready := [], part := 0, stopped := false, finished := false }

/-- Which logical blocks a region in turn hosts first, and on which physical block: rank j of those in service (R397). -/
def firstHosted (s : State) (r : Nat) : List (Nat × Nat) :=
  if turnMode s r then ((inService s r).zipIdx).map (fun x => (x.2, x.1)) else []

/-- A region as a launch takes it: its flags are 0 (R223). -/
def takeRegion (l : Launch) (s : State) (r : Fin 8) : State :=
  let h := firstHosted s r.val
  modRgn s r (fun g => { g with
    holder := some l.lid, flags := [], misses := [], bcasts := [], bucketsDone := false, hosted := h,
    turns := h.map (fun x => Turn.mk x.2 0 none), written := [], windows := [], sce := freshRun l (896 + 8 * r.val), rve := freshRun l (960 + 8 * r.val) })

/-- A block as a launch takes it: its program starts at index 0. -/
def takeBlock (l : Launch) (s : State) (b : Fin 48) : State :=
  wreg (modBlk s b (fun k => { k.free with lid := some l.lid, intSat := false })) .blkPc b.val 0

/-- A half's units as a launch takes them. -/
def takeUnits (l : Launch) (s : State) (h : Fin 2) : State :=
  modHalf s h (fun g =>
    let g := if l.hasSmp h then { g with smp := freshRun l (1024 + 8 * h.val), smpRow := none } else g
    if l.hasVse h then { g with vse := freshRun l (1040 + 8 * h.val), vseJob := none } else g)

/-- The groups and invalidations of a region take effect between two launches (R45, R199). -/
def betweenLaunches (s : State) (r : Fin 8) : State :=
  cnpInvApply r (configApply (.rve r) (configApply (.cnp r) (configApply (.rgn r) s)))

/-- The resources of a launch become its own, and its units start, or its restore begins (R223, R373, R396). -/
def startLaunch (s : State) (l : Launch) : State :=
  let s := l.rgns.foldl betweenLaunches s
  let s := l.rgns.foldl (takeRegion l) s
  let s := l.blks.foldl (takeBlock l) s
  let s := (l.blks.filter (hostedNow s)).foldl lateWrites s
  let s := (List.finRange 2).foldl (takeUnits l) s
  let st : LState := if l.st = .saved ∨ l.flag 4 then .restoring else .running
  modLaunch s l.lid (fun l => { l with st := st, begun := true })

/-- The Tumbler units that a launch start tests, in the code of TMB_STAT.UNIT: a unit out of use is skipped (R334, R336,
Table 7.11). -/
def tumblersOf (s : State) (l : Launch) : List Nat :=
  l.blks.flatMap (fun b => (List.range 4).map (fun u => 4 * b.val + u)) ++
  (l.rgns.filter (fun r => !(s.regions[r]).rveOut)).map (fun r => 0xC0 + r.val) ++
  ((List.finRange 2).filter (fun h => l.hasSmp h && !(s.halves[h]).smpOut)).map (fun h => 0xC8 + h.val)

/-- A Tumbler unit failed its self-test: TMB_KAT halts the launch, and the unit of an RVE or sampler is out of use (R335,
R336). -/
def katFault (s : State) (l : Launch) (u : Nat) : State :=
  let s := wreg s .tmbStat 0 (setF (setF (rreg s .tmbStat 0) 31 31 1) 23 16 u)
  let b : Fin 48 := Fin.ofNat 48 (u / 4)
  let at_ (blk place : Nat) : HaltAt := { blk := blk, place := place, idx := none32, reg := (rreg s .tmbStat 0).toNat }
  if u < 0xC0 then haltLaunch (stopBlk s b) l.lid 0x3C06 (at_ b.val (physOf s b))
  else if u < 0xC8 then
    haltLaunch (modRgn s (Fin.ofNat 8 (u - 0xC0)) (fun g => { g with rveOut := true })) l.lid 0x3C06 (at_ none32 (u - 0xC0))
  else
    haltLaunch (modHalf s (Fin.ofNat 2 (u - 0xC8)) (fun g => { g with smpOut := true })) l.lid 0x3C06 (at_ none32 (u - 0xC8))

/-- LAUNCH_DISPATCH (R334, R335, R376-R379): the next launch starts, with a Control beat where it has units in half 1 (Table 1.2);
`katFail` names the Tumbler units that fail their self-test. -/
def launchDispatch (katFail : List (BitVec 8)) (s : State) : State :=
  match nextLaunch s with
  | none => s
  | some l =>
    let us := tumblersOf s l
    let s := if l.inHalf1 then hingeSend s 0 0 else s
    let s := cfld (startLaunch s l) .tmbStat 0 15 0 us.length
    ((katFail.map (·.toNat)).filter (fun u => u ∈ us)).foldl (fun s u => katFault s l u) s

def execLaunchDispatch (katFail : List (BitVec 8)) (s : State) : Host.Outcome State Fault Refusal :=
  .next (launchDispatch katFail s)

/-- TIMED_LAUNCH_RELEASE (R364): the counter has reached TSTART. -/
def timedRelease (lid : BitVec 32) (s : State) : State :=
  match findLaunch s lid with
  | some l =>
    if l.st = .waiting ∧ l.flag 0 ∧ l.fld 24 8 ≤ s.dtc.toNat then modLaunch s lid (fun l => { l with released := true })
    else s
  | none => s

def execTimedLaunchRelease (lid : BitVec 32) (s : State) : Host.Outcome State Fault Refusal := .next (timedRelease lid s)

/-! ### Completion -/

/-- LAUNCH_COMPLETE (R379, R564, R756): every unit has finished and every store is accepted; or the units of a launch that
is being aborted have stopped. -/
def launchComplete (lid : BitVec 32) (s : State) : State :=
  match findLaunch s lid with
  | none => s
  | some l =>
    match l.st with
    | .running | .stopping => if allFinished s l ∧ !trafficOf s lid then endLaunch s l 1 0 else s
    | .aborting => if allStopped s l then endLaunch s l 1 (abortCode l) else s
    | _ => s

def execLaunchComplete (lid : BitVec 32) (s : State) : Host.Outcome State Fault Refusal := .next (launchComplete lid s)

/-! ### STOP, ABORT, RESUME (R554-R560) -/

def cConflict : Nat := 0x2008

/-- The launch that a STOP, ABORT or RESUME names, or LID_UNKNOWN (R555). -/
def onLaunch (s : State) (ring : Nat) (e : List Byte) (cid : Word) (act : State → Launch → State) : State :=
  let lid : Word := BitVec.ofNat 32 (leAt e 8 4)
  let s := readCmd s ring cid (leAt e 0 1) lid
  match findLaunch s lid with
  | none => refuse s ring cid cLidUnknown lid 0
  | some l => act s l

/-- STOP (R380, R557, R558). -/
def execStop (ring : Fin 16) (s : State) : Host.Outcome State Fault Refusal :=
  .next (onCmd s ring.val 2 (fun s e cid => onLaunch s ring.val e cid (fun s l =>
    if l.st ≠ .running ∨ allFinished s l then refuse s ring.val cid cConflict l.lid 0
    else if l.save0 = 0 then refuse s ring.val cid 0x2003 l.lid 0
    else beginStop s l.lid (.command ring.val cid) (decide (leAt e 12 1 = 2)))))

/-- The units of an aborted launch stop; a halted one starts nothing that had not begun (R395, R755). -/
def beginAbort (s : State) (l : Launch) (ring : Nat) (cid : Word) : State :=
  let s := if l.st = .halted then
      l.blks.foldl (fun s b => modBlk s b (fun k => { k with
        loadQ := k.loadQ.filter (·.begun), arrayQ := k.arrayQ.filter (·.begun), drainQ := k.drainQ.filter (·.begun),
        syncQ := k.syncQ.filter (·.begun) })) s
    else s
  modLaunch s l.lid (fun l => { l with st := .aborting, stop := some (.abort ring cid, false, s.cyc) })

/-- ABORT (R395, R557, R560, R564): a launch with no unit at work ends at once. -/
def execAbort (ring : Fin 16) (s : State) : Host.Outcome State Fault Refusal :=
  .next (onCmd s ring.val 3 (fun s e cid => onLaunch s ring.val e cid (fun s l =>
    match l.st with
    | .stopping | .aborting => refuse s ring.val cid cConflict l.lid 0
    | .waiting | .saved | .restoring => succeed (endLaunch s l 1 (abortCode l)) ring.val cid l.lid []
    | _ => launchComplete l.lid (beginAbort s l ring.val cid))))

/-- Whether the header of a saved launch's image is on a stack that is held: a RESUME of it waits in its ring (R425). -/
def headerWaits (s : State) (lid : BitVec 32) : Bool :=
  (findLaunch s lid).any (fun l => decide (l.st = .saved) && heldAt s l.save0 (64 * kib))

/-- RESUME (R396, R402, R557, R559). -/
def execResume (ring : Fin 16) (s : State) : Host.Outcome State Fault Refusal :=
  .next (onCmd s ring.val 4 (fun s e cid =>
    if headerWaits s (BitVec.ofNat 32 (leAt e 8 4)) then s
    else onLaunch s ring.val e cid (fun s l =>
    if l.st ≠ .saved ∨ l.resume.isSome then refuse s ring.val cid cConflict l.lid 0
    else if regionOut s l then refuse s ring.val cid 0x1009 l.lid 0
    else if !headerOk s l then refuse (logBad s l.save0 (64 * kib)) ring.val cid cImage l.lid 0
    else modLaunch s l.lid (fun l => { l with resume := some (ring.val, cid) }))))

/-! ### Slices (R391-R393) -/

/-- SLICE_END (R392, R393): the end is reported, a new slice starts, and under AUTOSAVE a waiting launch of equal or higher
PRIO has the launch stopped with a save. -/
def sliceEnd (lid : BitVec 32) (s : State) : State :=
  match findLaunch s lid with
  | none => s
  | some l =>
    if l.st ≠ .running ∨ l.fld 32 4 = 0 ∨ l.sliceLeft ≠ 0 then s
    else
      let s := postEvent s l.ring 0x5001 lid 0 []
      let s := modLaunch s lid (fun l => { l with sliceLeft := 100 * l.fld 32 4 })
      let wanted := s.launches.any (fun m => m.waits && firstOfRing s m && decide (l.prio ≤ m.prio) && m.meets l)
      if l.flag 2 ∧ l.save0 ≠ 0 ∧ wanted then
        beginStop (cfld s .devPrestat 0 23 16 1) lid .slice (decide (l.livemap ≠ 0))
      else s

def execSliceEnd (lid : BitVec 32) (s : State) : Host.Outcome State Fault Refusal := .next (sliceEnd lid s)

end Sys2Proof.Machine
end

