-- ==== Sys2Proof/Machine/Turns.lean ====
section
/-! DEFINITION. Regions whose logical blocks run in turn on fewer than six physical blocks (09_launches_preemption.md,
R397-R401; R138, R732). -/

namespace Sys2Proof.Machine

/-- The region and the number in it of a physical block. -/
def pRgn (p : Fin 56) : Fin 8 := ⟨p.val / 7, by omega⟩

/-- The running launch on the region of a physical block, when that region runs in turn. -/
def turnLaunch (s : State) (p : Fin 56) : Option Launch :=
  if turnMode s (pRgn p).val then
    ((s.regions[pRgn p]).holder.bind (findLaunch s)).filter (fun l => decide (l.st = .running) && !stalled s)
  else none

def modTurn (s : State) (p : Fin 56) (f : Turn → Turn) : State :=
  modRgn s (pRgn p) (fun g => { g with turns := g.turns.map (fun t => if t.phys = p.val % 7 then f t else t) })

def turnOf (s : State) (p : Fin 56) : Option Turn := (s.regions[pRgn p]).turns.find? (fun t => t.phys = p.val % 7)

/-- Whether a turn is over: at FIN, in a wait, or after its quantum of array cycles (R398). -/
def turnOver (s : State) (p : Fin 56) (k : Block) (t : Turn) : Bool :=
  k.finished || k.wait.isSome || bcastWait k ||
  decide (1024 * rfld s .rgnTurn (pRgn p).val 15 0 ≤ 21 * t.used)


/-- Whether a logical block can go on: it has not finished, and it is not waiting or its wait is satisfied (R399). -/
def canGoOn (s : State) (b : Fin 48) : Bool :=
  let k := s.blocks[b]
  let sent := (s.regions[rgnOf b]).bcasts.any (fun c => c.data.isSome && decide (b.val % 6 ∈ c.left))
  !k.finished && (!bcastWait k || sent) &&
  match k.wait with
  | none => true
  | some (.flag r f t _) => decide (t ≤ flagVal s r f)
  | some (.barrier _ _) => false

/-- The logical blocks of a physical block, in the order in which turns follow that of block `j` (R397, R399). -/
def turnOrder (s : State) (p : Fin 56) (j : Nat) : List Nat :=
  let srv := inService s (pRgn p).val
  let h := max 1 srv.length
  let rank := srv.idxOf (p.val % 7)
  ((List.range 6).map (fun i => (j + 1 + i) % 6)).filter (fun x => x % h = rank)

/-- The areas of an outgoing block that are outside the live map hold nothing that the block can count on (R385): they are
free. -/
def freeAreas (s : State) (l : Launch) (m : Option (List Byte)) (b : Fin 48) : State :=
  if m.isNone then s
  else
    let s := ((List.range 3).filter (fun k => !liveBank l m b k)).foldl (fun s k => junkBank s b k) s
    let k := s.blocks[b]
    let n := s.freeCtr
    let sc := (List.range (2 ^ 22)).map (fun a =>
      if liveScratch l m b (a / 256) then sget zeroFill k.scratch a else Config.freeByte (n + a))
    let s := modBlk { s with freeCtr := n + 2 ^ 22 } b (fun k => { k with scratch := sput zeroFill [] 0 sc })
    ((List.range 32).filter (fun k => !liveSlot l m b k)).foldl (fun s k => junkSlot s b k) s

/-- A state section that the device has written (log 17). -/
def addCtx (s : State) (c : Ctx) : State := { s with ctxs := s.ctxs ++ [c] }

/-- A block's section, at image address `a`, is written under a live map. -/
def putSection (s : State) (l : Launch) (m : Option (List Byte)) (b : Fin 48) (a : Nat) : State :=
  modRgn (freeAreas (addCtx ((blkPieces l m a b).foldl (fun t x => putMem t x.1 (pieceBytes s l x.2)) s) (ctxOfBlk s l b)) l m b)
    (rgnOf b) (fun g => { g with written := insertNat (b.val % 6) g.written })

/-- The address of a block's section in the context image of a launch. -/
def sectionAt (s : State) (l : Launch) (b : Fin 48) : Option Nat :=
  ((pieces l (liveMapOf s l true)).find? (fun p => p.2 = .blk b)).map (·.1)

/-- The pieces of a block's section, under the live map if there is one. -/
def sectionAll (s : State) (l : Launch) (b : Fin 48) : List (Nat × Piece) :=
  match sectionAt s l b with
  | none => []
  | some a => blkPieces l (liveMapOf s l true) a b

/-- The outgoing block's section of the context image is written (R399). -/
def writeSection (s : State) (l : Launch) (b : Fin 48) : State :=
  match sectionAt s l b with
  | none => s
  | some a => putSection s l (liveMapOf s l true) b a

/-- Whether a section's write has to wait: a write of it ends neither way (R425, R449). -/
def sectionWaits (s : State) (l : Launch) (b : Fin 48) : Bool :=
  heldAt s l.livemap l.livemapLen || !(sectionAll s l b).all (fun p => writeEnds s p.1 p.2.len)

/-- TURN_END (R398, R399): the turn of the logical block on a physical block ends, at a point where none of its instructions is
under way, and its section is written. -/
def turnEnd (p : Fin 56) (s : State) : State :=
  let r := pRgn p
  match turnLaunch s p, turnOf s p, (s.regions[r]).hosted.find? (fun h => h.2 = p.val % 7) with
  | some l, some t, some h =>
    let b := blkOf r (Fin.ofNat 6 h.1)
    if turnOver s p (s.blocks[b]) t ∧ (s.blocks[b]).atPoint ∧ !sectionWaits s l b then
      modRgn (modTurn (writeSection s l b) p (fun t => { t with last := some h.1 })) r
        (fun g => { g with hosted := g.hosted.filter (fun x => x.2 ≠ p.val % 7),
                           windows := (h.1, blkWindow s b) :: g.windows.filter (fun x => x.1 ≠ h.1) })
    else s
  | _, _, _ => s

def execTurnEnd (p : Fin 56) (s : State) : Host.Outcome State Fault Refusal := .next (turnEnd p s)

/-- The pieces of the section of a block that an earlier turn has written. -/
def sectionPieces (s : State) (l : Launch) (b : Fin 48) : List (Nat × Piece) :=
  if b.val % 6 ∈ (s.regions[rgnOf b]).written then sectionAll s l b else []

/-- A block section taken up at a turn (R399): next index, queues and INT_SAT from the image; how far its wait has come is what the
region has seen meanwhile, the LDTs of broadcasts and the SYN or WFL that has completed (log 80). -/
def takeTurn (l : Launch) (m : Option (List Byte)) (s : State) (p : Nat × Piece) : State :=
  match p.2 with
  | .blk b =>
    let now := s.blocks[b]
    modBlk (takePiece l m s p) b (fun k => { k with wait := now.wait, syncQ := now.syncQ, loadQ := now.loadQ, stopped := now.stopped })
  | _ => takePiece l m s p

/-- The incoming block's section is read from the context image, if an earlier turn wrote it (R399). A bad burst halts the launch. -/
def readSection (s : State) (l : Launch) (b : Fin 48) : State :=
  let ps := sectionPieces s l b
  match ps.findSome? (fun p => firstBad s p.1 p.2.len l.job) with
  | some bad => blkMemHalt s b (rreg s .blkPc b.val).toNat bad
  | none => ps.foldl (takeTurn l (liveMapOf s l true)) s

/-- TURN_SWITCH (R399): the section of the next logical block that can go on is read, and it has its turn; the register writes that
waited for it take effect (R732). -/
def turnSwitch (p : Fin 56) (s : State) : State :=
  let r := pRgn p
  match turnLaunch s p, turnOf s p with
  | some l, some t =>
    match t.last with
    | none => s
    | some j =>
      match (turnOrder s p j).find? (fun x => canGoOn s (blkOf r (Fin.ofNat 6 x))) with
      | none => s
      | some x =>
        let b := blkOf r (Fin.ofNat 6 x)
        if (sectionPieces s l b).any (fun p => heldAt s p.1 p.2.len) then s
        else
          let s := readSection s l b
          let s := modTurn s p (fun t => { t with used := 0, last := none })
          let s := modRgn s r (fun g => { g with hosted := g.hosted ++ [(x, p.val % 7)] })
          lateWrites (deliverAll (cfld s .rgnTurnstat r.val 15 0 1) r) b
  | _, _ => s

def execTurnSwitch (p : Fin 56) (s : State) : Host.Outcome State Fault Refusal := .next (turnSwitch p s)

end Sys2Proof.Machine
end

