-- ==== Sys2Proof/Machine/Keyring.lean ====
section
/-! DEFINITION. The Keyring, flash programming, resets, retirement and shutdown (13_boot_keyring.md, R582-R589, R600-R618). -/

namespace Sys2Proof.Machine

/-! ### Busy (R606, R639, R640) -/

/-- KRG_STAT.BUSY: the flash is being programmed, and not only waiting for a grant to be written. -/
def krgBusy (s : State) : Bool := s.krg.op.isSome && !s.krg.waits

/-- Whether a reset or shutdown is held (R606, R640). -/
def resetHeld (s : State) : Bool := s.krg.op.isSome || s.lkp.op.isSome

def hold (s : State) (a : HeldAct) : State := { s with krg := { s.krg with held := s.krg.held ++ [a] } }

/-- Whether the management controller runs register actions: ready, or in the recovery loader. -/
def mgmtOn (s : State) : Bool := decide (s.power.phase = .ready) || inLoader s

/-! ### Records (R585-R589, R592) -/

/-- The restorable groups, in the order of R592. -/
def restorable : List Group :=
  [.dev, .tmb] ++ (List.finRange 48).map Group.blk ++ (List.finRange 8).map Group.rgn ++ [.memCfg, .memJob] ++
  (List.finRange 2).map Group.vse ++ [.net]

/-- The field registers of the restorable groups. -/
def restorableRegs : List (Reg × Nat) := restorable.flatMap groupRegs

/-- A LASTCFG body: the active copies of the restorable groups. -/
def cfgBody (s : State) : KBody := .lastcfg (restorableRegs.map (fun x => (regAddr x.1 x.2, rreg s x.1 x.2)))

/-- Whether two records are of one TYPE and INDEX. -/
def KRec.same (x y : KRec) : Bool := x.body.type = y.body.type && x.index = y.index

/-- Whether a record is kept when its sector is erased: the current one of its TYPE and INDEX, or of LASTCFG one of the two before it
(R586, R589). -/
def staysRec (rs : List KRec) (r : KRec) : Bool :=
  ((rs.filter (fun x => x.good && KRec.same r x)).take (if r.body.type = 9 then 3 else 1)).any (fun x => x.seq = r.seq)

/-- The 256-byte header of a Keyring sector (R584). -/
def KSector.header (x : KSector) : List Byte :=
  toLe 2 0x4B53 ++ List.replicate 6 0xFF ++ toLe 8 x.seq ++ toLe 4 x.erases ++ List.replicate 236 0xFF

/-- The bytes of a record's body: those of a LIFE body are its fields (R674, R675), of any other free (log 18). -/
def KBody.bytes : KBody → List Byte
  | .life b => b
  | b => Config.recordBody b

/-- The bytes that a record takes, its header of 32 with it, up to a 256-byte boundary (R584, R585). -/
def KBody.place (b : KBody) : Nat := min (upTo (32 + b.bytes.length) 256) 65280

/-- Bytes 0 to 23 of a record's header (R585). -/
def KRec.head (r : KRec) : List Byte :=
  toLe 2 0x4B52 ++ toLe 1 r.body.type ++ toLe 1 Config.recordVer.toNat ++ toLe 4 r.body.bytes.length ++ toLe 4 r.index ++
  toLe 4 Config.recordGap.toNat ++ toLe 8 r.seq

/-- A record as it is written: its header, with the CRC-64 of the header and the body, and its body (R585). -/
def KRec.bytes (r : KRec) : List Byte :=
  let b := r.head ++ toLe 8 (crc64 (r.head ++ toLe 8 0 ++ r.body.bytes)).toNat ++ r.body.bytes
  match r.cut with
  | some n => b.take n
  | none => b

/-- A record is laid behind the last, in the next erased sector where the newest has no room for it (R584). -/
def layRecord (j : Journal) (r : KRec) : Journal :=
  let n := r.body.place
  let fresh (e : Nat × Nat) (q : Nat) : KSector := { place := e.1, seq := q, erases := e.2, next := 256 + n, recs := [(256, r.seq)] }
  match j.used.reverse, j.spare with
  | x :: rest, sp =>
    if x.next + n ≤ 65536 then { j with used := (({ x with next := x.next + n, recs := x.recs ++ [(x.next, r.seq)] } : KSector) :: rest).reverse }
    else
      match sp with
      | e :: es => { used := j.used ++ [fresh e (x.seq + 1)], spare := es }
      | [] => j
  | [], e :: es => { used := [fresh e 1], spare := es }
  | [], [] => j

/-- With fewer than 16 erased sectors, the records of the oldest that are kept are copied forward; it is erased, and its other records
are gone (R589). -/
def reclaim : Nat → Flash → Flash
  | 0, f => f
  | n + 1, f =>
    if 16 ≤ f.journal.spare.length then f
    else
      match f.journal.used with
      | x :: y :: rest =>
        let here (r : KRec) : Bool := x.recs.any (fun p => p.2 = r.seq)
        let keep := f.recs.filter (fun r => here r && staysRec f.recs r)
        let t := keep.reverse.foldl layRecord { f.journal with used := y :: rest }
        reclaim n { f with recs := f.recs.filter (fun r => !here r || staysRec f.recs r),
                           journal := { t with spare := t.spare ++ [(x.place, x.erases + 1)] } }
      | _ => f

/-- A record is written to the journal (R587, R589). -/
def putRecord (f : Flash) (r : KRec) : Flash := reclaim 16 { f with recs := r :: f.recs, journal := layRecord f.journal r }

/-- The oldest queued record is written (R587). -/
def recordWrite (s : State) : State :=
  match s.krg.queue with
  | [] => s
  | r :: q => { s with krg := { s.krg with queue := q }, flash := putRecord s.flash r }

/-! ### The bytes of the flash (R579, R580, R584, R585, R623; Tables 13.1, 14.3) -/

/-- One byte of a Keyring sector, by its place among the 1,024; an erased one reads 0xFF. -/
def journalByte (f : Flash) (p x : Nat) : Byte :=
  match f.journal.used.find? (fun k => k.place = p) with
  | none => 0xFF
  | some k =>
    if x < 256 then k.header.getD x 0xFF
    else
      match k.recs.reverse.find? (fun q => q.1 ≤ x) with
      | none => 0xFF
      | some q =>
        match f.recs.find? (fun r => r.seq = q.2) with
        | some r => r.bytes.getD (x - q.1) 0xFF
        | none => 0xFF

/-- One byte of the 256 MiB of the flash: each area holds its content from its start, and what the content does not fill, and the
reserved areas, read 0xFF. -/
def flashByte (f : Flash) (a : Nat) : Byte :=
  if a < 0x10000 then f.hdr.getD a 0xFF
  else if a < 0x20000 then (f.cfg.take 64).getD (a - 0x10000) 0xFF
  else if a < 0x30000 then f.cert.getD (a - 0x20000) 0xFF
  else if a < 0x40000 then f.factory.getD (a - 0x30000) 0xFF
  else if a < 0x120000 then f.copyA.getD (a - 0x40000) 0xFF
  else if a < 0x200000 then f.copyB.getD (a - 0x120000) 0xFF
  else if a < 0x6200000 then f.image.getD (a - 0x200000) 0xFF
  else if a < 0x8000000 then 0xFF
  else if a < 0xC000000 then journalByte f ((a - 0x8000000) / 65536) (a % 65536)
  else 0xFF

/-- Wait until every queued record is durable (R594, R617). -/
def drainRecs (s : State) : State := s.krg.queue.foldl (fun s _ => recordWrite s) s

/-- SAVECFG (R589, Table 13.3): a LASTCFG record is requested; a request that finds no place waits (R588). -/
def savecfg (s : State) : State := if !mgmtOn s ∨ krgFull s 9 0 then s else krgReq s 0 (cfgBody s)

def execSavecfg (s : State) : Host.Outcome State Fault Refusal := .next (savecfg s)

/-- The LASTCFG sequence number that the current BOOTLOG holds. -/
def bootlogSeq (s : State) : Nat :=
  match krgBody s 10 0 with
  | some (.bootlog _ _ _ q _ _) => q
  | _ => 0

/-- A BOOTLOG record of the start-up as KRG_BOOT shows it. -/
def bootlog (s : State) (cfgSeq : Nat) (ready clean : Bool) : State :=
  krgReq s 0 (.bootlog (rfld s .krgBoot 0 31 30) (rfld s .krgBoot 0 29 26) (rfld s .krgBoot 0 25 22) cfgSeq ready clean)

/-! ### The block map (R18, R607-R609) -/

/-- The spare physical block of a region, chosen at manufacture. -/
def spareOf (s : State) (r : Nat) : Nat :=
  match krgBody s 6 r with
  | some (.blkmap sp _ _) => sp
  | _ => 6

/-- The physical blocks that carry logical blocks when those of `out` are retired: all others, but the spare where all seven
are healthy (R18). -/
def insvcOf (spare out : Nat) : Nat :=
  if out % 128 = 0 then 127 - 2 ^ spare % 128 else 127 - out % 128

/-- KRG_BLKMAPr for retirements now and next. -/
def blkmapWord (spare out next : Nat) : Word := setF (setF (setF 0 22 16 (insvcOf spare out)) 14 8 next) 6 0 out

def blkOut (s : State) (r : Nat) : Nat := rfld s .krgBlkmap r 6 0
def blkNext (s : State) (r : Nat) : Nat := rfld s .krgBlkmap r 14 8

/-- A BLKMAP record of a region. -/
def blkmapRec (s : State) (r : Nat) : State := krgReq s r (.blkmap (spareOf s r) (blkOut s r) (blkNext s r))

/-- The blocks retired now and next, once the retirements marked next of the physical blocks in `mask` take effect and those in `bad`
are retired (R608, R609). -/
def remapOut (s : State) (r mask bad : Nat) : Nat × Nat :=
  let next := blkNext s r ||| bad
  ((blkOut s r &&& (127 - mask % 128)) ||| (next &&& mask) ||| bad, next)

/-- Whether that changes the map, so that a record is requested. -/
def remapWrites (s : State) (r mask bad : Nat) : Bool := remapOut s r mask bad ≠ (blkOut s r, blkNext s r)

/-- Whether that retires a block anew. -/
def remapNews (s : State) (r mask bad : Nat) : Bool := (remapOut s r mask bad).1 &&& (127 - blkOut s r) ≠ 0

/-- The map as it becomes. -/
def remapMap (s : State) (r mask bad : Nat) : State :=
  let x := remapOut s r mask bad
  let t := wreg s .krgBlkmap r (blkmapWord (spareOf s r) x.1 x.2)
  if remapWrites s r mask bad then blkmapRec t r else t

/-- A remap at start-up or at a soft reset: BLK_REMAP is posted where a block is newly retired, or the region is left short of blocks
(R402, Table 15.2). -/
def remap (s : State) (r mask bad : Nat) : State :=
  let t := remapMap s r mask bad
  if remapNews s r mask bad then degraded t 0x3E09 r else t

/-- The bits of a set of 56 physical blocks that lie in a region. -/
def pblkMask (x : BitVec 56) (r : Nat) : Nat := bitsAt x (7 * r) 7

/-- Retire, or return to service, a physical block from the next reset (R607). A request that finds no place waits
(R588). -/
def setRetire (s : State) (p : Nat) (on : Bool) : State :=
  if 56 ≤ p ∨ krgFull s 6 (p / 7) then s
  else
    let b := 2 ^ (p % 7)
    let n := blkNext s (p / 7)
    blkmapRec (wfld s .krgBlkmap (p / 7) 14 8 (if on then n ||| b else n &&& (127 - b))) (p / 7)

/-- KRG_RETIRE (R607). -/
def retireBlk (v : BitVec 32) (s : State) : State := if mgmtOn s then setRetire s (bitsAt v 0 6) true else s

def execKrgRetire (v : BitVec 32) (s : State) : Host.Outcome State Fault Refusal := .next (retireBlk v s)

/-- KRG_UNRETIRE (R607, R641): under a grant that covers the register; the LK field takes the value. -/
def unretire (v : BitVec 32) (s : State) : State :=
  if mgmtOn s ∧ grantCovers s (regAddr .krgUnretire 0) ∧ !(krgFull s 6 (bitsAt v 0 6 / 7) && decide (bitsAt v 0 6 < 56)) then
    setRetire (wfld s .krgUnretire 0 5 0 (bitsAt v 0 6)) (bitsAt v 0 6) false
  else s

def execKrgUnretire (v : BitVec 32) (s : State) : Host.Outcome State Fault Refusal := .next (unretire v s)

/-- BLK_REMAP after a block reset: the event is written to ring 0, and no register changes (R603). -/
def remapQuiet (s : State) (r mask : Nat) : State :=
  let t := remapMap s r mask 0
  if remapNews s r mask 0 ∧ (getRing s 0).isSome then reportEvent t 0x3E09 0 r else t

/-- Whether the BLKMAP record of a block reset finds no place (R588). -/
def blkrstFull (s : State) (p : Nat) : Bool :=
  decide (p < 56) && (s.regions[Fin.ofNat 8 (p / 7)]).holder.isNone && remapWrites s (p / 7) (2 ^ (p % 7)) 0 && krgFull s 6 (p / 7)

/-- KRG_BLKRST (R44, R603, R604, R608, R609): a physical block is reset, zeroed and self-tested; `ok` is the outcome of its
self-test. The group of a logical block on it drops its shadow copy and its commit (log 93). -/
def blkrst (v : BitVec 32) (ok : Bool) (s : State) : State :=
  let p := bitsAt v 0 6
  let r := Fin.ofNat 8 (p / 7)
  if 56 ≤ p ∨ !mgmtOn s ∨ blkrstFull s p then s
  else if (s.regions[r]).holder.isSome then wfld s .krgStat 0 22 22 1
  else
    let mine := (List.finRange 48).filter (fun b => rgnOf b = r && physOf s b = p)
    let s := if inLoader s then s
      else resetGroups (mine.foldl (fun s b => modBlk s b (fun k => { Block.reset with intSat := k.intSat })) s) (mine.map Group.blk)
    let s := remapQuiet s (p / 7) (2 ^ (p % 7))
    if ok then s else wfld s .krgStat 0 21 21 1

def execKrgBlkrst (v : BitVec 32) (ok : Bool) (s : State) : Host.Outcome State Fault Refusal :=
  .next (blkrst v ok s)

/-! ### Cold and warm reset (R600, R606, R640) -/

/-- A cold reset starts: only the flash, the fuses and what the model keeps for itself remain, and the start-up begins. -/
def coldReset (s : State) : State :=
  let s := wipe s
  { s with power := { s.power with phase := .starting false, base := s.cyc, cold0 := s.cyc, lasers := false, noRef := false } }

/-- The counts of applied commits, which only a cold reset clears (Table 1.5). -/
def keepGen (t s : State) : State := allGroups.foldl (fun t g => setCommit t g 31 16 (commitFld s g 31 16)) t

/-- A warm reset starts: laser lock, PLL lock, the time counter and the counts of commits are kept as well, and a Hinge that
is down stays so (R31, Tables 1.5, 13.5). -/
def warmReset (s : State) : State :=
  let t := keepGen (wipe s) s
  { t with hinge := { t.hinge with mode := if s.hinge.mode = .down then .down else .full }, dtc := s.dtc, dtcPs := s.dtcPs, power := { s.power with phase := .starting true, base := s.cyc, noRef := false } }

/-- KRG_CTL.COLD and KRG_CTL.WARM (R600, R606, R640). -/
def askCold (s : State) : State := if !mgmtOn s then s else if resetHeld s then hold s .cold else coldReset s
def askWarm (s : State) : State := if !mgmtOn s then s else if resetHeld s then hold s .warm else warmReset s

def execCold (s : State) : Host.Outcome State Fault Refusal := .next (askCold s)

def execWarm (s : State) : Host.Outcome State Fault Refusal := .next (askWarm s)

/-! ### Soft reset (R602, R608, R609, Table 13.5) -/

/-- Status and counter registers of the units that a soft reset covers (R602). -/
def unitRegs : List (Reg × Nat) :=
  (List.range 48).flatMap (fun b => [(Reg.blkPc, b), (.blkWardcnt, b), (.blkWardlog, b), (.blkWardpc, b), (.blkEcc, b),
    (.blkTfault, b), (.blkTfpc, b), (.blkNoopcnt, b)]) ++
  (List.range 8).flatMap (fun r => [(Reg.cnpHit, r), (.cnpMiss, r), (.cnpFault, r), (.rgnFlagfault, r), (.rgnTurnstat, r),
    (.sceFault, r), (.sceDone, r), (.rveTrnstat, r), (.rveFbcnt, r), (.rveRndstat, r), (.rveRedstat, r)]) ++
  (List.range 2).flatMap (fun h => [(Reg.smpStat, h), (.smpFault, h), (.vseFault, h), (.vseDerr, h), (.vseRcev, h)])

/-- The groups whose units a soft reset covers (R44, R602). -/
def unitGroups : List Group :=
  (List.finRange 48).map Group.blk ++ (List.finRange 8).map Group.rgn ++ (List.finRange 8).map Group.cnp ++
  (List.finRange 8).map Group.rve ++ (List.finRange 2).map Group.vse

/-- The units after a soft reset: blocks and regions are zero, the memory-side caches are written back; `kat` gives the
Tumbler units of RVEs and samplers that fail their test (R336). -/
def resetUnits (s : State) (kat : BitVec 10) : State :=
  { s with
    blocks := Vector.replicate 48 Block.reset,
    regions := Vector.ofFn (fun r : Fin 8 => { Region.reset with rveOut := bitsAt kat r.val 1 = 1 }),
    halves := Vector.ofFn (fun h : Fin 2 =>
      { s.halves[h] with smp := ListRun.idle, smpRow := none, smpOut := bitsAt kat (8 + h.val) 1 = 1, vse := ListRun.idle,
                         vseJob := none, msc := (s.halves[h]).msc.map (fun c => { c with dirty := false }) }),
    barriers := [], flagReqs := [] }

/-- SOFT (R602, R608, R609, R634, R641): launches end as ABORTED, units are reset and self-tested; `fails` gives the physical
blocks that fail. -/
def soft (fails : BitVec 56) (kat : BitVec 10) (s : State) : State :=
  let s := abortAll s
  let s := (s.halves.toList.flatMap (·.msc)).foldl writeBack s
  let s := resetUnits s kat
  let s := unitRegs.foldl (fun s x => wreg s x.1 x.2 (regReset x.1)) s
  let s := resetGroups s unitGroups
  let s := (List.range 8).foldl (fun s r => remap s r 127 (pblkMask fails r)) s
  { s with lkp := { s.lkp with nonce := none, grant := none } }

/-- Whether a BLKMAP record of a soft reset finds no place (R588). -/
def softFull (s : State) (fails : BitVec 56) : Bool :=
  let rs := (List.range 8).filter (fun r => remapWrites s r 127 (pblkMask fails r))
  decide (63 < s.krg.queue.length + rs.length) && rs.any (fun r => !s.krg.queue.any (fun x => x.body.type = 6 && x.index = r))

/-- KRG_CTL.SOFT, in the recovery loader too (R588, R600, R615). -/
def askSoft (fails : BitVec 56) (kat : BitVec 10) (s : State) : State :=
  if mgmtOn s ∧ !softFull s fails then soft fails kat s else s

def execSoft (fails : BitVec 56) (kat : BitVec 10) (s : State) : Host.Outcome State Fault Refusal :=
  .next (askSoft fails kat s)

/-! ### Orderly shutdown (R617) -/

/-- Whether a record of the shutdown finds no place, so that the register write waits (R588). -/
def shutdownFull (s : State) : Bool :=
  krgFull s 8 0 || krgFull s 9 0 || krgFull s 10 0 || (List.range 25).any (krgFull s 7)

/-- The completions waiting are written, as far as their rings have room, before the connections close. -/
def flushComps (s : State) : State :=
  (List.range 16).foldl (fun s r => s.comps.foldl (fun s _ => completionWrite r s) s) s

/-- The shutdown, as one step (log 50): launches end, LIFE, TIME, LASTCFG and a clean BOOTLOG become durable, the lasers are ramped down,
connections close, OFF sets. A run that ends in the recovery loader has not reached ready (R593). -/
def shutdownNow (s : State) : State :=
  let s := drainRecs (lifeRecords (drainRecs (flushComps (abortAll s))))
  let s := bootlog (krgReq s 0 (cfgBody s)) (bootlogSeq s) (!inLoader s) true
  let s := wfld (dropAll (drainRecs s)) .krgStat 0 20 20 1
  let s := wfld s .netStat 0 31 31 0
  { s with power := { s.power with phase := .stopped, lasers := false } }

/-- SHUTDOWN (R606, R617, R640); the board may ask for it after a loss of lock too (R739). -/
def shutdown (s : State) : State :=
  if !(mgmtOn s || s.power.phase = .clockLost) ∨ shutdownFull s then s
  else if resetHeld s then hold s .shutdown else shutdownNow s

def execShutdown (s : State) : Host.Outcome State Fault Refusal := .next (shutdown s)

/-! ### The configuration block (R580-R583) -/

/-- Whether a configuration block is in order (R582). -/
def cfgOk (c : List Byte) : Bool :=
  leAt c 0 2 = 0x4346 && leAt c 2 1 = 1 && decide (leAt c 3 1 < 8) && leAt c 4 2 / 4096 % 2 = 0 && decide (leAt c 6 1 < 64) &&
  decide (leAt c 7 1 < 8) && leAt c 10 6 = 0 && leAt c 56 8 = (crc64 (c.take 56)).toNat

def krgSource (s : State) : Nat := (rreg s .krgSrc 0).toNat * 4096

def setResult (s : State) (v : Nat) : State := wfld s .krgStat 0 27 24 v

/-- Whether a grant is being written to the flash: its kind writes an image and its checks have passed (R636, R639). -/
def grantWrites (s : State) : Bool :=
  match s.lkp.op with
  | some (.grant k r _ _) => decide (r = 0) && decide (k ≠ 6) && decide (k ≠ 7) && decide (k ≠ 9)
  | _ => false

/-- Programming begins: RESULT in progress, PROGRESS 0; while a grant is being written it waits (R639). -/
def startProg (s : State) (op : FlashOp) : State :=
  let s := wfld (setResult s 1) .krgStat 0 13 0 0
  { s with krg := { s.krg with op := some op, waits := grantWrites s } }

/-- CFGPROG (R583): the block at KRG_SRC is checked and, if it is in order, programmed. A source that does not exist or meets a
bad burst is not in order. -/
def cfgprogNow (s : State) : State :=
  let a := krgSource s
  if !devThere s a 64 then setResult s 6
  else
    match netBad s a 64 with
    | some _ => setResult (logBad s a 64) 6
    | none =>
      let c := devBytes s a 64
      if cfgOk c then startProg s (.cfg c) else setResult s 6

def askCfgprog (s : State) : State :=
  if !mgmtOn s then s else if s.krg.op.isSome then hold s .cfgprog else cfgprogNow s

def execCfgprog (s : State) : Host.Outcome State Fault Refusal := .next (askCfgprog s)

/-! ### Firmware (R610, R611, R616, R645-R647) -/

/-- Bytes of the header area of a firmware source: the image follows it (log 19). -/
def fwHeaderLen : Nat := 65536

/-- FWINSTALL (R610, R611, R647): the source is verified before anything is erased. -/
def fwinstallNow (s : State) : State :=
  let a := krgSource s
  let n := rfld s .krgSrclen 0 14 0 * 4096
  if !devThere s a n ∨ n < fwHeaderLen then setResult s 4
  else
    match netBad s a n with
    | some _ => setResult (logBad s a n) 2
    | none =>
      let b := devBytes s a n
      let h := b.take fwHeaderLen
      let img := b.drop fwHeaderLen
      if !ilenOk (fwIlen h) ∨ fwIlen h ≠ img.length then setResult s 4
      else
        match fwCheck s h img with
        | .good => startProg s (.fw h img)
        | .rollback => setResult s 3
        | _ => setResult s 2

def askFwinstall (s : State) : State :=
  if !mgmtOn s then s else if s.krg.op.isSome then hold s .fwinstall else fwinstallNow s

def execFwinstall (s : State) : Host.Outcome State Fault Refusal := .next (askFwinstall s)

/-! ### What was held proceeds (R606, R640) -/

/-- Held resets, shutdowns and programming proceed in order, until one starts programming again or resets the device. -/
def proceed : List HeldAct → State → State
  | [], s => { s with krg := { s.krg with held := [] } }
  | a :: rest, s =>
    if resetHeld s then { s with krg := { s.krg with held := a :: rest } }
    else
      match a with
      | .cold => coldReset s
      | .warm => warmReset s
      | .shutdown => shutdownNow { s with krg := { s.krg with held := [] } }
      | .cfgprog => proceed rest (cfgprogNow s)
      | .fwinstall => proceed rest (fwinstallNow s)

def releaseHeld (s : State) : State := proceed s.krg.held s

/-- Free bytes in place of an area whose programming failed: its contents are not stated. -/
def spoil (s : State) (n : Nat) : List Byte × State := drawBytes s n

/-- CFGPROG_DONE (R583, Table 13.8): the block is programmed and read back. -/
def cfgprogDone (ok : Bool) (s : State) : State :=
  match s.krg.op with
  | some (.cfg c) =>
    if s.krg.waits then s
    else
      let d := spoil s 64
      let t := if ok then { s with flash := { s.flash with cfg := c } } else { d.2 with flash := { s.flash with cfg := d.1 } }
      let t := { t with krg := { t.krg with op := none } }
      releaseHeld (wfld (setResult t (if ok then 0 else 5)) .krgStat 0 13 0 1)
  | _ => s

def execCfgprogDone (ok : Bool) (s : State) : Host.Outcome State Fault Refusal := .next (cfgprogDone ok s)

/-- FWINSTALL_DONE (R611, R616, Tables 13.8, 15.7): the header and image are programmed and read back; in the recovery loader a
success is followed by a cold start. -/
def fwinstallDone (ok : Bool) (s : State) : State :=
  match s.krg.op with
  | some (.fw h img) =>
    if s.krg.waits then s
    else
      let d := spoil s (h.length + img.length)
      let t := if ok then { s with flash := { s.flash with hdr := h, image := img } }
        else { d.2 with flash := { s.flash with hdr := d.1.take h.length, image := d.1.drop h.length } }
      let t := { t with krg := { t.krg with op := none } }
      let t := wfld (setResult t (if ok then 0 else 5)) .krgStat 0 13 0 (1 + (img.length + 65535) / 65536)
      let t := if ok then lifeAdd t 24 32 4 1 else t
      if ok ∧ inLoader t then coldReset t else releaseHeld t
  | _ => s

def execFwinstallDone (ok : Bool) (s : State) : Host.Outcome State Fault Refusal := .next (fwinstallDone ok s)

end Sys2Proof.Machine
end

