-- ==== Sys2Proof/Machine/Lockplate.lean ====
section
/-! DEFINITION. Grants, scrub, attestation and the JTAG lock (14_lockplate_security.md, R629-R651). -/

namespace Sys2Proof.Machine

/-! ### The grant request (R631, R632, Tables 14.6, 14.7) -/

/-- BLEN by KIND; 0 for an unknown KIND. -/
def kindLen : Nat → Nat
  | 1 | 0xA => 17216
  | 2 => 7360
  | 3 | 4 | 7 | 8 | 9 | 0xB => 64
  | 5 => 2624
  | 6 => 192
  | _ => 0

/-- The role bit that the signers of a KIND must hold (Tables 14.5, 14.7). -/
def kindRole : Nat → Nat
  | 6 => 1
  | 7 => 2
  | 9 => 3
  | _ => 0

/-- Whether applying a KIND advances the epoch, given the EPOCH flag. -/
def kindEpoch (k : Nat) (flag : Bool) : Bool :=
  match k with
  | 1 | 3 | 0xA | 0xB => true
  | 2 | 4 | 5 | 8 => flag
  | _ => false

/-- Whether any of `n` bytes from `b` is not zero. -/
def anyByte (l : List Byte) (b n : Nat) : Bool := ((l.drop b).take n).any (· ≠ 0)

/-- Authority entries of a body: their places. -/
def entriesAt : Nat → List Nat
  | 1 | 0xA => [0, 7296]
  | 2 => [64]
  | _ => []

def entryKey (b : List Byte) (e : Nat) : List Byte := (b.drop e).take 2592
def entryRoles (b : List Byte) (e : Nat) : Nat := leAt b (e + 2592) 1
def entryProof (b : List Byte) (e : Nat) : List Byte := (b.drop (e + 2624)).take 4627

/-- Whether a reserved byte of a body is not zero, or a field out of range (Table 14.7). -/
def bodyWrong (k : Nat) (b : List Byte) : Bool :=
  (entriesAt k).any (fun e => anyByte b (e + 2593) 31 || decide (16 ≤ entryRoles b e)) ||
  match k with
  | 2 => decide (8 ≤ leAt b 0 1) || anyByte b 1 63
  | 3 => decide (8 ≤ leAt b 0 1) || anyByte b 1 63
  | 4 => decide (8 ≤ leAt b 0 1) || decide (16 ≤ leAt b 1 1) || anyByte b 2 62
  | 5 => anyByte b 2592 32
  | 6 => decide (leAt b 0 2 = 0) || decide (16 < leAt b 0 2) || decide (leAt b 2 2 = 0) || decide (3600 < leAt b 2 2) || anyByte b 4 60
  | 7 => decide (leAt b 0 1 = 0) || decide (64 < leAt b 0 1) || anyByte b 1 63
  | 8 => decide (2 ≤ leAt b 0 1) || anyByte b 1 63
  | 9 | 0xB => anyByte b 0 64
  | _ => false

/-- A request as read from memory. -/
structure Request where
  kind : Nat
  epoch : Bool
  serial : Nat
  gen : Nat
  nonce : List Byte
  body : List Byte
  digest : List Byte
  slot1 : Nat
  sig1 : List Byte
  slot2 : Nat
  sig2 : List Byte
  deriving DecidableEq, Repr

/-- A request of `r` bytes, parsed (Table 14.6). -/
def parseRequest (r : List Byte) : Request :=
  let n := leAt r 8 4
  let s1 := 64 + n
  let s2 := s1 + 4672
  { kind := leAt r 3 1, epoch := leAt r 4 1 % 2 = 1, serial := leAt r 16 8, gen := leAt r 24 8, nonce := (r.drop 32).take 32,
    body := (r.drop 64).take n, digest := sha3 (r.take s1), slot1 := leAt r s1 1, sig1 := (r.drop (s1 + 16)).take 4627,
    slot2 := leAt r s2 1, sig2 := (r.drop (s2 + 16)).take 4627 }

def requestLen (k : Nat) : Nat := 64 + kindLen k + 2 * 4672

/-- Check 1, FORMAT (Table 14.8): whether the bytes of a request of a known KIND are wrong. -/
def requestBad (r : List Byte) : Bool :=
  let k := leAt r 3 1
  let s1 := 64 + kindLen k
  decide (leAt r 0 2 ≠ 0x4C47) || decide (leAt r 2 1 ≠ 1) || decide (leAt r 8 4 ≠ kindLen k) || decide (2 ≤ leAt r 4 1) ||
  anyByte r 5 3 || anyByte r 12 4 || bodyWrong k ((r.drop 64).take (kindLen k)) || anyByte r (s1 + 1) 15 ||
  anyByte r (s1 + 4673) 15

/-- The request at LKP_REQ, or none where check 1 fails (Table 14.8). -/
def readRequest (s : State) : Option Request :=
  let a := (rreg s .lkpReq 0).toNat * 4096
  let k := (memByte s (a + 3)).toNat
  if devThere s a 64 ∧ kindLen k ≠ 0 ∧ devThere s a (requestLen k) ∧ (netBad s a (requestLen k)).isNone ∧
      !requestBad (devBytes s a (requestLen k)) then some (parseRequest (devBytes s a (requestLen k)))
  else none

/-! ### Checks 2 to 7 (R630, R633, Table 14.8) -/

/-- Slots of an image that hold LOCKPLATE. -/
def lockplates (g : List Byte) : Nat := ((List.range 8).filter (slotHas g 0)).length

/-- Check 4: the kind is not accepted in the current state. -/
def stateBad (s : State) (q : Request) : Bool :=
  let g := s.lkp.img
  let sl := leAt q.body 0 1
  let d (e : Nat) : List Byte := sha3 (entryKey q.body e)
  decide (imgState g ≠ (if q.kind = 1 then 1 else 2)) ||
  (kindEpoch q.kind q.epoch && decide (64 ≤ s.fuses.epoch)) ||
  match q.kind with
  | 1 | 0xA => decide (d 0 = d 7296) || decide (entryRoles q.body 0 % 2 = 0) || decide (entryRoles q.body 7296 % 2 = 0)
  | 2 => slotUsed g sl || (List.range 8).any (fun i => slotUsed g i && sha3 (slotKey g i) = d 64)
  | 3 => !slotUsed g sl || decide (lockplates g - (if slotHas g 0 sl then 1 else 0) < 2)
  | 4 => !slotUsed g sl ||
      decide (lockplates g - (if slotHas g 0 sl then 1 else 0) + leAt q.body 1 1 % 2 < 2)
  | 7 => decide (s.lkp.svn < leAt q.body 0 1)
  | _ => false

/-- Check 5: a signer's slot is empty or lacks the role, or the two are not different (R630). -/
def signerBad (g : List Byte) (q : Request) : Bool :=
  !slotHas g (kindRole q.kind) q.slot1 || !slotHas g (kindRole q.kind) q.slot2 || decide (q.slot1 = q.slot2) ||
  decide (sha3 (slotKey g q.slot1) = sha3 (slotKey g q.slot2))

/-- Check 6. -/
def signatureBad (g : List Byte) (q : Request) : Bool :=
  !Config.mlVerify (slotKey g q.slot1) q.digest q.sig1 || !Config.mlVerify (slotKey g q.slot2) q.digest q.sig2

/-- Check 7: PROOF of each authority entry (R631). -/
def proofBad (s : State) (q : Request) : Bool :=
  (entriesAt q.kind).any (fun e =>
    let d := sha3 (label "FZPROOF" ++ toLe 8 (serialNat s) ++ q.nonce ++ entryKey q.body e)
    !Config.mlVerify (entryKey q.body e) d (entryProof q.body e))

/-- The RESULT of checks 2 to 7, in order; 0 when all pass. -/
def requestResult (s : State) (q : Request) : Nat :=
  if s.lkp.nonce.map (fun n => toLe 32 n.toNat) ≠ some q.nonce then 3
  else if q.serial ≠ serialNat s ∨ q.gen ≠ imgGen s.lkp.img then 4
  else if stateBad s q then 7
  else if signerBad s.lkp.img q then 5
  else if signatureBad s.lkp.img q then 6
  else if proofBad s q then 8
  else 0

def setLkpResult (s : State) (v : Nat) : State := wfld s .lkpStat 0 30 27 v

/-- A write to LKP_CTL while BUSY, or with more than one bit set, sets OVERLAP (R638). -/
def overlap (s : State) : State := wfld s .lkpStat 0 20 20 1

/-- SUBMIT (R633, R634, R638): the checks are made, and the outcome is applied at GRANT_APPLIED; until then BUSY is 1 and RESULT
in progress. A request that passes check 1 consumes the nonce. -/
def submit (s : State) : State :=
  if s.power.phase ≠ .ready then s
  else if s.lkp.op.isSome then overlap s
  else
    let op : LkpOp := match readRequest s with
      | none => .grant 0 2 false []
      | some q => .grant q.kind (requestResult s q) q.epoch q.body
    let keep : Option (BitVec 256) := if (readRequest s).isSome then none else s.lkp.nonce
    setLkpResult { s with lkp := { s.lkp with nonce := keep, op := some op } } 1

def execSubmit (s : State) : Host.Outcome State Fault Refusal := .next (submit s)

/-! ### Applying a grant (R636, Table 14.7) -/

def putSlot (g : List Byte) (i : Nat) (x : List Byte) : List Byte := putAt g (slotAt i) x

def emptySlot : List Byte := List.replicate 2624 0

/-- Two authorities in slots 0 and 1, CONNKEY and OWNERID of a CLAIM or OWNERCHANGE body; STATE OWNED. -/
def claimImg (g body : List Byte) : List Byte :=
  let g := (List.range 8).foldl (fun g i => putSlot g i emptySlot) g
  let g := putSlot g 0 (keySlotBytes (entryRoles body 0) (entryKey body 0))
  let g := putSlot g 1 (keySlotBytes (entryRoles body 7296) (entryKey body 7296))
  putLe (putAt (putAt g 64 ((body.drop 14592).take 2592)) 16 ((body.drop 17184).take 32)) 3 1 2

/-- FWCOSIGN as given. -/
def setCosign (g : List Byte) (on : Nat) : List Byte := putLe g 5 1 (leAt g 5 1 / 2 * 2 + on)

/-- The effect of a KIND on the image, before GEN and EPOCH (Table 14.7). -/
def kindImg (s : State) (k : Nat) (g body : List Byte) : List Byte :=
  let sl := leAt body 0 1
  match k with
  | 1 => claimImg g body
  | 2 => putSlot g sl (keySlotBytes (entryRoles body 64) (entryKey body 64))
  | 3 => putSlot g sl emptySlot
  | 4 => putLe g (slotAt sl + 1) 1 (leAt body 1 1)
  | 5 => putAt g 64 (body.take 2592)
  | 8 => setCosign g (sl % 2)
  | 0xA => setCosign (claimImg g body) 0
  | 0xB =>
    let f := s.flash.factory
    let g := putAt (putAt g 64 ((f.drop 64).take 2592)) (slotAt 0) ((f.drop (slotAt 0)).take (8 * 2624))
    setCosign (putLe (putAt g 16 ((f.drop 16).take 32)) 3 1 1) 0
  | _ => g

/-- The new image of a grant: GEN increased by 1, EPOCH by 1 where it advances (R636). -/
def grantImg (s : State) (k : Nat) (adv : Bool) (body : List Byte) : List Byte :=
  let g := nextGen (kindImg s k s.lkp.img body)
  if adv then putLe g 4 1 (imgEpoch g + 1) else g

/-- The image is written; where EPOCH rose, a fuse is blown (R636). -/
def writeGrant (s : State) (adv : Bool) (g : List Byte) : State :=
  let s := writeImg s g
  if adv then { s with fuses := { s.fuses with epoch := s.fuses.epoch + 1 } } else s

/-- Step 4 of R644: memory and every store of the compute units are zero, caches are invalid. -/
def zeroAll (s : State) : State :=
  { s with
    mem := Mem.reset,
    blocks := s.blocks.map (fun k => { k with bankA0 := [], bankA1 := [], bankB := [], junk0 := none, junk1 := none,
                                              junk2 := none, scratch := [], acc := [], slotJunk := [] }),
    regions := s.regions.map (fun g => { g with rbuf := [], cache := [] }),
    halves := s.halves.map (fun h => { h with msc := [] }) }

/-- Step 5 of R644. -/
def scrubGroups (s : State) : State :=
  let s := endBindings (allGroups.foldl scrubGroup s)
  krgReq s 0 (cfgBody s)

/-- Steps 1 and 2 of R644. -/
def endUse (s : State) : State :=
  let s := dropAll (abortAll s)
  { s with lkp := { s.lkp with grant := none } }

/-- A read-back that fails leaves free bytes in the copy that is not current, which are no valid image; the old image stays current, and
RESULT is 0xA (R636, log 121). -/
def spoilCopy (s : State) : State :=
  let d := drawBytes s lkpLen
  let x := if imgValid s d.1 then [] else d.1
  let fl := if s.lkp.which = 0 then { s.flash with copyB := x } else { s.flash with copyA := x }
  setLkpResult { d.2 with flash := fl } 0xA

/-- OWNERCHANGE or RELEASE (R644): both of its images are written under R636. Where the second does not read back, the image with
SCRUBDUE stays current. -/
def changeOwner (s : State) (k : Nat) (body : List Byte) (ok : ReadBack) : State :=
  let s := endUse s
  if !ok.first then spoilCopy s
  else
    let s := scrubGroups (zeroAll (writeGrant s true (setScrub (grantImg s k true body) true)))
    announce (if ok.second then setLkpResult (writeImg s (setScrub (nextGen s.lkp.img) false)) 0 else spoilCopy s)

/-- DEBUG (R644, R650): the scrub without an image, then the debug grant. -/
def openDebug (s : State) : State :=
  let s := scrubGroups (zeroAll (endUse s))
  announce (setLkpResult { s with lkp := { s.lkp with debug := true } } 0)

/-- LKOPEN (R641): the registers covered, and when the grant closes. -/
def openLk (s : State) (body : List Byte) : State :=
  let g : LkGrant := LkGrant.mk ((List.range (leAt body 0 2)).map (fun i => leAt body (64 + 8 * i) 8))
    (s.cyc + leAt body 2 2 * 100000000)
  setLkpResult { s with lkp := { s.lkp with grant := some g } } 0

/-- CONNKEY closes the owner and standby connections (Table 14.7). -/
def dropRoles (s : State) : State :=
  (s.net.conns.filter (fun c => c.role = some .owner || c.role = some .standby)).foldl
    (fun s c => dropConn (send s (.drop c.qp)) c.qp) s

/-- A grant whose checks have passed is applied; `ok` says that its images read back (R636). -/
def applyGrant (s : State) (k : Nat) (flag : Bool) (body : List Byte) (ok : ReadBack) : State :=
  match k with
  | 6 => openLk s body
  | 7 => setLkpResult { s with fuses := { s.fuses with svn := max s.fuses.svn (leAt body 0 1) } } 0
  | 9 => openDebug s
  | 0xA | 0xB => changeOwner s k body ok
  | _ =>
    if !ok.first then spoilCopy s
    else
      let adv := kindEpoch k flag
      let s := writeGrant s adv (grantImg s k adv body)
      setLkpResult (if k = 5 then dropRoles s else s) 0

/-- The engine is free again: programming that waited goes on, and what was held proceeds (R639, R640). -/
def lkpDone (s : State) : State :=
  releaseHeld { s with lkp := { s.lkp with op := none }, krg := { s.krg with waits := false } }

/-- GRANT_APPLIED (R636, R639, R640): the submission is refused or applied. A flash write waits while the flash is being
programmed. -/
def grantApplied (ok : ReadBack) (s : State) : State :=
  match s.lkp.op with
  | some (.grant k r flag body) =>
    if r ≠ 0 then lkpDone (setLkpResult s r)
    else if grantWrites s ∧ krgBusy s then s
    else lkpDone (applyGrant s k flag body ok)
  | _ => s

def execGrantApplied (ok : ReadBack) (s : State) : Host.Outcome State Fault Refusal := .next (grantApplied ok s)

/-- CLOSE (R641): the LK grant closes; while BUSY the write only sets OVERLAP (R638). -/
def closeLk (s : State) : State :=
  if s.power.phase ≠ .ready then s
  else if s.lkp.op.isSome then overlap s else { s with lkp := { s.lkp with grant := none } }

def execClose (s : State) : Host.Outcome State Fault Refusal := .next (closeLk s)

/-- GRANT_EXPIRY (R641): DURATION seconds have passed. -/
def grantExpiry (s : State) : State :=
  match s.lkp.grant with
  | some g => if g.closes ≤ s.cyc then { s with lkp := { s.lkp with grant := none } } else s
  | none => s

def execGrantExpiry (s : State) : Host.Outcome State Fault Refusal := .next (grantExpiry s)

/-! ### The nonce (R635) -/

/-- A fresh nonce replaces the current one. -/
def freshNonce (s : State) (n : BitVec 256) : State := { s with lkp := { s.lkp with nonce := some n } }

/-- NONCE_READ (R635): a read of LKP_NONCE0 returns the first word of a fresh nonce. -/
def execNonceRead (fresh : BitVec 256) (s : State) : Host.Outcome State Fault Refusal :=
  .next (if s.power.phase = .ready then { freshNonce s fresh with lastRead := BitVec.ofNat 32 fresh.toNat } else s)

/-! ### Attestation (R648, Table 14.10) -/

def lkpOut (s : State) : Nat := (rreg s .lkpOut 0).toNat * 4096

/-- The active MEM_FRCWIN entries, in address order. -/
def frcWords (s : State) : List Word :=
  (List.range 16).flatMap (fun i => [rreg s .memFrcwin0 i, rreg s .memFrcwin1 i, rreg s .memFrcwin2 i, rreg s .memFrcwin3 i])

/-- Bytes 0-511 of a report: what the device is and how it is set. -/
def reportHead (s : State) (nonce : List Byte) : List Byte :=
  let g := s.lkp.img
  toLe 2 0x4152 ++ toLe 1 1 ++ toLe 1 ((if s.lkp.debug then 1 else 0) + (if inLoader s then 2 else 0)) ++ toLe 2 0 ++
  toLe 2 12416 ++ toLe 2 0xC5A7 ++ toLe 2 0x4880 ++ toLe 1 0xA1 ++ toLe 1 (rfld s .devFw 0 23 16) ++
  toLe 2 (rfld s .devFw 0 15 0) ++ toLe 8 (serialNat s) ++ toLe 8 s.dtc.toNat ++ toLe 1 (ptpState s) ++
  toLe 1 (imgState g) ++ toLe 1 s.fuses.epoch ++ toLe 1 s.fuses.svn ++ toLe 4 (rreg s .devMode 0).toNat ++
  toLe 4 (rreg s .memCap 0).toNat ++ toLe 4 (enabledBlocks s) ++ toLe 16 (imgGen g) ++ fit 0 32 nonce ++
  fit 0 64 s.lkp.mfw ++ sha3 (g.take lkpBody) ++
  sha3 (wordBytes (restorableRegs.map (fun x => rreg s x.1 x.2))) ++ sha3 (wordBytes (frcWords s)) ++
  sha3 (label "FZTKEY" ++ wordBytes [rreg s .tmbKey0 0, rreg s .tmbKey1 0]) ++ fit 0 32 ((g.drop 16).take 32) ++ toLe 64 0

/-- The 12,416 bytes of a report. -/
def report (s : State) (nonce : List Byte) : List Byte :=
  let pub := fit 0 2592 (Config.mlPublic (aliasSeed s))
  let cert := Config.mlSign devSeed (sha3 (pub ++ s.lkp.mfw ++ toLe 8 (serialNat s) ++ dbgByte s))
  let b := reportHead s nonce ++ pub ++ fit 0 4627 cert ++ toLe 13 0
  b ++ fit 0 4627 (Config.mlSign (aliasSeed s) (sha3 b)) ++ toLe 45 0

/-- The nonce of a report; nothing where such memory does not exist or is bad. -/
def nonceAt (s : State) (a : Nat) : List Byte := if devThere s a 32 ∧ (netBad s a 32).isNone then devBytes s a 32 else []

/-- ATTEST (R648): the nonce is read at LKP_OUT and the report begins. A nonce on a held stack is read once that goes on (R425). -/
def attest (s : State) : State :=
  if s.power.phase ≠ .ready then s
  else if s.lkp.op.isSome then overlap s
  else
    let a := lkpOut s
    let n := if netWaits s a 32 then none else some (nonceAt s a)
    let s := if n.isSome ∧ devThere s a 32 ∧ (netBad s a 32).isSome then logBad s a 32 else s
    { s with lkp := { s.lkp with op := some (.attest a n) } }

def execAttest (s : State) : Host.Outcome State Fault Refusal := .next (attest s)

/-- DEVCERT (R648): the copy of the DevID certificate begins. -/
def devcert (s : State) : State :=
  if s.power.phase ≠ .ready then s
  else if s.lkp.op.isSome then overlap s else { s with lkp := { s.lkp with op := some (.devcert (lkpOut s)) } }

def execDevcert (s : State) : Host.Outcome State Fault Refusal := .next (devcert s)

/-- Bytes written where LKP_OUT pointed, where such memory exists. -/
def putOut (s : State) (a : Nat) (bs : List Byte) : State := if devThere s a bs.length then devPut s a bs else s

/-- Whether such a write has to wait: it is not accepted at once (R425, R449). -/
def outWaits (s : State) (a n : Nat) : Bool := devThere s a n && !writeEnds s a n

/-- ATTEST_DONE (R648): the report or the certificate stands where LKP_OUT pointed when it was asked for, and BUSY clears; `ok` says that
it could be formed. While memory holds the read of the nonce or the write, it is not done. -/
def attestDone (ok : Bool) (s : State) : State :=
  match s.lkp.op with
  | some (.attest a n) =>
    if n.isNone ∧ netWaits s a 32 ∨ outWaits s a 12416 then s
    else
      let m := n.getD (nonceAt s a)
      lkpDone (if ok ∧ m ≠ [] then putOut s a (report s m) else s)
  | some (.devcert a) =>
    if outWaits s a 16384 then s else lkpDone (if ok then putOut s a (fit 0xFF 16384 s.flash.cert) else s)
  | _ => s

def execAttestDone (ok : Bool) (s : State) : Host.Outcome State Fault Refusal := .next (attestDone ok s)

/-! ### JTAG (R649, R650) -/

/-- Whether the module has power, so that its ports answer. -/
def powered (s : State) : Bool := s.power.pg

/-- A JTAG instruction is selected, with what its data register holds. -/
def jtagSet (s : State) (ir : JtagIr) (dr : Word) : State := if powered s then { s with jtag := { ir := ir, dr := dr, wait := none } } else s

/-- JTAG_IDCODE (R649). -/
def execJtagIdcode (s : State) : Host.Outcome State Fault Refusal := .next (jtagSet s .idcode 0x14880B8D)

/-- JTAG_BYPASS (R649): the bypass register, which IEEE 1149.1 clears. -/
def execJtagBypass (s : State) : Host.Outcome State Fault Refusal := .next (jtagSet s .bypass 0)

/-- The boundary-scan register is selected; what it holds is not stated. -/
def jtagScan (s : State) (ir : JtagIr) : State := if powered s then jtagSet (drawWord s).2 ir (drawWord s).1 else s

/-- JTAG_SAMPLE_PRELOAD and JTAG_EXTEST (R649). -/
def execJtagSamplePreload (s : State) : Host.Outcome State Fault Refusal := .next (jtagScan s .sample)

def execJtagExtest (s : State) : Host.Outcome State Fault Refusal := .next (jtagScan s .extest)

/-- A byte read for the debug port; what a bad burst gives is free. -/
def dbgRead (s : State) (x : Nat) : State :=
  if !devThere s x 1 then jtagSet s .debug 0
  else if (netBad s x 1).isSome then jtagScan (logBad s x 1) .debug
  else jtagSet s .debug (BitVec.ofNat 32 (leNat (devBytes s x 1)))

/-- DBGACC (R649, R650): without a debug grant it selects the bypass register; with one it reaches device memory, or the management
controller's debug port: what that answers is free, and what it does to the controller is left out (log 155). -/
def dbgacc (a : DbgAccess) (s : State) : State :=
  if !powered s then s
  else if !s.lkp.debug then jtagSet s .bypass 0
  else
    match a with
    | .port => jtagScan s .debug
    | .read x => if netWaits s x 1 then { s with jtag := { ir := .debug, dr := 0, wait := some x } } else dbgRead s x
    | .write x b => if devThere s x 1 then devPut (jtagSet s .debug 0) x [b] else jtagSet s .debug 0

def execDbgacc (a : DbgAccess) (s : State) : Host.Outcome State Fault Refusal := .next (dbgacc a s)

/-- A debug read that waited for a held stack goes on (R425). -/
def pumpJtag (s : State) : State :=
  match s.jtag.wait with
  | some x => if netWaits s x 1 then s else dbgRead s x
  | none => s

end Sys2Proof.Machine
end

