-- ==== Sys2Proof/Machine/Boot.lean ====
section
/-! DEFINITION. The start-up sequence and the recovery loader (13_boot_keyring.md, R590-R599, R612; Table 13.4). -/

namespace Sys2Proof.Machine

/-! ### Steps 1 to 3 -/

def bootFld (s : State) (hi lo v : Nat) : State := wfld s .krgBoot 0 hi lo v

/-- Step 1: the serial number, the PLL, CLK_MGMT (R596, Tables 17.4, 17.5). -/
def bootClock (s : State) : State :=
  let s := wreg s .devSn0 0 (BitVec.ofNat 32 serialFuse)
  let s := wreg s .devSn1 0 (BitVec.ofNat 32 (serialFuse / 2 ^ 32))
  let s := wfld (wfld (wfld s .clkStat 0 31 31 1) .clkStat 0 30 30 0) .clkStat 0 29 29 1
  { s with power := { s.power with noRef := false } }

/-- Step 2: the Lockplate image, and what the ROM reads of the firmware (R625-R627, R645). -/
def bootImage (s : State) : State :=
  let s := lkpBoot s
  let h := s.flash.hdr
  let s := wfld (wfld s .devFw 0 23 16 (leAt h 9 1)) .devFw 0 15 0 (leAt h 10 2)
  { s with lkp := { s.lkp with mfw := fwMeasure h, svn := fwSvn h } }

/-- The highest SEQ in the flash. -/
def maxSeq (s : State) : Nat := (s.flash.recs.map (·.seq)).foldl max 0

/-- The MAC address: IDENT, or the locally administered one with MACDEF (R590). -/
def bootMac (s : State) : State :=
  let m : Nat × Nat := match krgBody s 1 0 with
    | some (.ident m) => (m.toNat, 0)
    | _ => (0x020000000000 + serialFuse % 2 ^ 40, 1)
  bootFld (wreg (wreg s .netMac0 0 (BitVec.ofNat 32 m.1)) .netMac1 0 (BitVec.ofNat 32 (m.1 / 2 ^ 32 % 2 ^ 16))) 17 17 m.2

/-- The configuration block, or the defaults with CFGDEF (R581, R582). -/
def bootCfg (s : State) : State :=
  let c := s.flash.cfg.take 64
  let ok := cfgOk c
  let s := { s with net := { s.net with cfg := if ok then c else defaultCfg } }
  bootFld (wfld s .netStat 0 27 27 (if ok then leAt c 3 1 / 2 % 2 else 0)) 16 16 (if ok then 0 else 1)

/-- A LIFE body that no record gives: zeros, with the spare lanes idle (Table 15.8). -/
def freshLife (i : Nat) : List Byte :=
  let z := List.replicate (if i = 24 then 640 else 1664) (0 : Byte)
  if i = 24 then z else putLe (putLe z (96 + 16 * 64 + 14) 1 1) (96 + 16 * 97 + 14) 1 1

/-- The LIFE bodies of the Keyring, and the lane that HLT_WEAR reports of them (R674, R675, R678). -/
def bootLife (s : State) : State :=
  let body (i : Nat) : List Byte := match krgBody s 7 i with
    | some (.life b) => b
    | _ => freshLife i
  showWear { s with hlt := { s.hlt with life := (List.range 25).map body } }

/-- Whether the run before this one ended without shutdown (Table 13.9). -/
def wasUnclean (s : State) : Bool :=
  match krgBody s 10 0 with
  | some (.bootlog _ _ _ _ _ clean) => !clean
  | _ => false

/-- What the device needs of the flash from now on, in the recovery loader too: the next SEQ, the MAC address, the configuration block,
the LIFE bodies, and at a cold start the time counter (R586, R590, R591, R595, R612, log 51). -/
def bootKeys (s : State) (warm : Bool) : State :=
  let s := bootLife (bootCfg (bootMac { s with krg := { s.krg with nextSeq := maxSeq s + 1 } }))
  if warm then s
  else
    match krgBody s 8 0 with
    | some (.time d _) => { s with dtc := d }
    | _ => s

/-- Step 3: the scan of the Keyring, with what it finds of the run before (R666; Tables 13.9, 15.7), and BOOTLOG "in progress". -/
def bootScan (s : State) (warm : Bool) : State :=
  let unclean := wasUnclean s
  let s := bootFld (bootKeys s warm) 21 21 (if unclean then 1 else 0)
  let s := if warm then s else lifeAdd s 24 4 4 1
  let s := if unclean then lifeAdd s 24 8 4 1 else s
  let s := if s.power.tripDue then lifeAdd { s with power := { s.power with tripDue := false } } 24 24 4 1 else s
  bootlog (bootFld s 29 26 3) 0 false false

/-- The block map of a region as its record gives it: retired now and next. -/
def mapWas (s : State) (r : Nat) : Nat × Nat :=
  match krgBody s 6 r with
  | some (.blkmap _ out next) => (out, next)
  | _ => (0, 0)

/-- KRG_BLKMAPr as the BLKMAP records give it (R619). -/
def loadMap (s : State) : State :=
  (List.range 8).foldl (fun s r => wreg s .krgBlkmap r (blkmapWord (spareOf s r) (mapWas s r).1 (mapWas s r).2)) s

/-! ### The recovery loader (R612) -/

/-- The recovery loader is entered at a step, with a FAIL code: KRG_BOOT and BOOTLOG record it, and the port trains. Before step 4 has
applied it, the block map is that of the records, so that a retirement adds to it (R607, R619). -/
def enterLoader (s : State) (step fail seq : Nat) (link : Bool) : State :=
  let s := if step ≤ 4 then loadMap s else s
  let s := bootlog (bootFld (bootFld s 29 26 step) 25 22 fail) seq false false
  let s := { s with power := { s.power with phase := .loader } }
  if link then linkUp (wfld s .clkStat 0 28 28 1) else s

/-! ### Steps 4 and 5 -/

/-- The block map of a region: retirements marked next become current, and blocks that fail their self-test are retired (R591,
R609). A region that the record already leaves without a healthy block is out of service, which is posted (R402, log 117). -/
def bootBlocks (fails : BitVec 56) (s : State) (r : Nat) : State :=
  let t := remap s r 127 (pblkMask fails r)
  if blkOut s r % 128 = 127 then degraded t 0x3E09 r else t

/-- The Tumbler units of RVEs and samplers that failed their test (R336). -/
def bootTumblers (kat : BitVec 10) (s : State) : State :=
  { s with
    regions := Vector.ofFn (fun r : Fin 8 => { s.regions[r] with rveOut := bitsAt kat r.val 1 = 1 }),
    halves := Vector.ofFn (fun h : Fin 2 => { s.halves[h] with smpOut := bitsAt kat (8 + h.val) 1 = 1 }) }

/-- The spare wires and the width of the HINGE record. -/
def hingeWas (s : State) : List (List Nat) × Bool :=
  match krgBody s 2 0 with
  | some (.hinge w half) => (w, half)
  | _ => ([[], []], false)

/-- Step 5: the Hinge is trained on the restored wires and works at the width that this gave; a change is recorded (R591, Tables 1.3,
13.3). A Hinge that went down stays down through a warm start (R31). -/
def bootHinge (s : State) (o : HingeTrain) : Option State :=
  match trainGives o (hingeWas s).1 with
  | none => none
  | some (m, w) =>
    let half := decide (m = LinkMode.half)
    let s := modHinge s (fun h => { h with mode := if h.mode = .down then .down else m, spares := w })
    let s := if hingeWas s = (w, half) then s else krgReq s 0 (.hinge w half)
    some (if half then degraded s 0x3E08 0 else s)

/-! ### Steps 6 to 8 -/

/-- A link as its OPTCAL record restores it: a spare that was training carries its lane, and a link that was being retrained,
or was down, starts at half width (R591, R596). -/
def restoredLink (k : Link) : Link :=
  match k.mode with
  | .full => match k.training with
    | some l => { k with spare := some l, training := none, erased := none }
    | none => k
  | _ => { k with mode := .half, spare := none, training := none, erased := none }

/-- The TSV repairs of a stack's TSVMAP record: failed data TSVs, by channel, whose place a spare has taken. -/
def tsvWas (s : State) (i : Nat) : List (Nat × Nat) :=
  match krgBody s 4 i with
  | some (.tsvmap l) => l
  | _ => []

/-- One more failed TSV of a stack is repaired while its channel has a spare left; beyond that the code carries it (R421,
Table 10.1). -/
def repairTsv (l : List (Nat × Nat)) (x : Nat × Nat) : List (Nat × Nat) :=
  if x ∈ l ∨ spareTsvs ≤ (l.filter (fun y => y.1 = x.1)).length then l else l ++ [x]

/-- Calibration, lanes, threshold and TSV repairs of a stack; NOCAL where it has no OPTCAL record, and its lanes are calibrated anew as
they lock (R437, R591, Tables 13.3, 13.9). -/
def bootStack (env : BootEnv) (s : State) (i : Fin 24) : State :=
  let was := tsvWas s i.val
  let map := ((env.tsv.filter (fun x => x.1 = i)).map (fun x => (x.2.1.val, x.2.2.val))).foldl repairTsv was
  let fresh : Stack := { Stack.reset with tt := env.tt.getD i.val 85, tsv := map, cal := some (Config.optCal i.val) }
  let s := match krgBody s 3 i.val with
    | some (.optcal c rd wr) => modStk s i (fun _ => { fresh with cal := some c, rd := restoredLink rd, wr := restoredLink wr })
    | _ => bootFld (modStk s i (fun _ => fresh)) 18 18 1
  let n := map.length - was.length
  let s := if n = 0 then s else lifeAdd (krgReq s i.val (.tsvmap map)) i.val 26 2 n
  laneEvent s i

/-- A lane that does not lock fails as Table 10.5 gives; start-up trains the spare, or the narrower link, at once. -/
def bootLane (s : State) (x : Fin 24 × LinkDir × Fin 72) : State :=
  linkRetrainDone x.1 x.2.1 (spareSwitchIn x.1 x.2.1 (laneFail s x.1 x.2.1 x.2.2.val))

/-- Whether a stack has a link that is down. -/
def stackOut (k : Stack) : Bool := k.rd.mode = .down || k.wr.mode = .down

/-- The channel map of a stack: NEXT of the record becomes OUT and NEXT; a stack without half width is mapped out (R591,
R596). -/
def bootChmap (s : State) (i : Fin 24) : State :=
  let next := match krgBody s 5 i.val with
    | some (.chmap _ n) => n
    | _ => 0
  let n := if stackOut (s.stk[i]) then 0xFFFF else next
  let s := wreg s .stkChmap i.val (setF (setF 0 31 16 n) 15 0 n)
  if stackOut (s.stk[i]) then krgReq s i.val (.chmap n n) else s

/-- MEM_CAP (R431). -/
def bootCap (s : State) : State :=
  let n (h : Nat) : Nat := (channelList s h).length
  wreg s .memCap 0 (setF (setF (setF 0 31 24 (n 0)) 23 16 (n 1)) 15 0 (n 0 + n 1))

/-- Whether a half has no channel in service. -/
def noChannel (s : State) : Bool := (channelList s 0).isEmpty || (channelList s 1).isEmpty

/-! ### Step 9 (R592-R594) -/

/-- The LASTCFG records that a start-up may restore, the newest first: the current one and the two before it (R589, the text after
R594). -/
def lastcfgs (s : State) : List KRec := (s.flash.recs.filter (fun r => r.body.type = 9 && r.good)).take 3

/-- The records that R593 passes over: those at or above the SEQ that a start-up which did not reach ready had restored. -/
def cfgLimit (s : State) : Option Nat :=
  match krgBody s 10 0 with
  | some (.bootlog _ _ _ q ready _) => if !ready ∧ q ≠ 0 then some q else none
  | _ => none

/-- The place of a group's kind in KRG_BOOT.GRPFAIL (Table 13.9). -/
def groupKind : Group → Nat
  | .dev => 0
  | .tmb => 1
  | .blk _ => 2
  | .rgn _ => 3
  | .memCfg => 4
  | .memJob => 5
  | .vse _ => 6
  | _ => 7

/-- A group is restored under R38, or keeps its reset values where it fails its rules (R592). -/
def restoreGroup (ws : List (Nat × Word)) (s : State) (g : Group) : State :=
  let word (x : Reg × Nat) : Word :=
    match ws.find? (fun w => w.1 = regAddr x.1 x.2) with
    | some w => w.2
    | none => regReset x.1
  let t := (groupRegs g).foldl (fun t x => wshadow t x.1 x.2 (word x)) s
  match groupBad t g with
  | none => copyOver t g
  | some why => bootFld (rejectGroup (copyBack s g) g why) (8 + groupKind g) (8 + groupKind g) 1

/-- Step 9: the settings of the newest LASTCFG that R593 allows are restored; the SEQ restored, 0 for none. -/
def bootRestore (s : State) (lim : Option Nat) : State × Nat :=
  let ok (r : KRec) : Bool := match lim with | some q => decide (r.seq < q) | none => true
  let skipped := ((lastcfgs s).filter (fun r => !ok r)).length
  let s := bootFld s 20 19 (min 3 skipped)
  match (lastcfgs s).find? ok with
  | some { seq := q, body := .lastcfg ws, .. } => (restorable.foldl (restoreGroup ws) s, q)
  | _ => (s, 0)

/-- Step 9, with its BOOTLOG record durable (R594); and the SEQ restored. -/
def bootSettle (s : State) (lim : Option Nat) : State × Nat :=
  let r := bootRestore s lim
  (drainRecs (bootlog (bootFld r.1 29 26 9) r.2 false false), r.2)

/-! ### Step 8 -/

/-- Zeros in every burst of a half. -/
def zeroHalf (s : State) (h : Nat) : State :=
  let m := s.mem
  let other (b : Nat) : Bool := dpaHalf (512 * b) ≠ h
  { s with mem := { m with bytes := m.bytes.filter (fun c => dpaHalf c.1 ≠ h), poison := m.poison.filter other,
                           damaged := m.damaged.filter other } }

/-- Whether the in-service channels of a half differ from those of the start-up before, which its CHMAP records name as OUT
(R430). -/
def chmapChanged (s : State) (h : Nat) : Bool :=
  (List.range 12).any (fun i =>
    let was := match krgBody s 5 (12 * h + i) with
      | some (.chmap out _) => out
      | _ => 0
    rfld s .stkChmap (12 * h + i) 15 0 ≠ was)

/-- Step 8: a half whose set of in-service channels has changed is zeroed (R430). -/
def bootZero (s : State) : State :=
  [0, 1].foldl (fun s h => if chmapChanged s h then zeroHalf s h else s) s

/-- Where SCRUBDUE is 1, both halves are zeroed and the image is written again with it clear (R628). -/
def bootScrub (s : State) : State :=
  if s.lkp.scrubDue then writeImg (zeroHalf (zeroHalf s 0) 1) (setScrub (nextGen s.lkp.img) false) else s

/-- Steps 6 and 7: lasers and links of the stacks and of the network engine, and what their lanes lock at. -/
def bootLinks (s : State) (env : BootEnv) : State :=
  let s := (List.finRange 24).foldl (bootStack env) { s with power := { s.power with lasers := true } }
  let s := krgReq s 24 (.optcal (Config.optCal 24) Link.reset Link.reset)
  let s := env.lanes.foldl bootLane s
  showWear ((allLanes.zip env.bias).foldl (fun s x => laneLock s x.1.1 x.1.2 x.2) s)

/-- Step 8: the channel map, and the halves that it zeroes. -/
def bootMap (s : State) : State := bootCap (bootZero ((List.finRange 24).foldl bootChmap s))

/-! ### The sequence (Table 13.4) -/

/-- Steps 9 to 11: restore, BOOTLOG durable, port, ready. `late` names the step that has not ended by its latest end, 0 for none. -/
def bootFinish (s : State) (lim : Option Nat) (link : Bool) (late : Nat) : State :=
  if late = 9 then enterLoader s 9 7 0 link
  else
    let r := bootSettle s lim
    if late = 11 then enterLoader r.1 11 7 r.2 link
    else
      let s := wfld (bootlog (bootFld r.1 29 26 11) r.2 true false) .clkStat 0 28 28 1
      let s := { s with power := { s.power with phase := .ready } }
      if link then linkUp s else s

/-- Steps 6 to 11. -/
def bootLate (s : State) (env : BootEnv) (lim : Option Nat) (late : Nat) : State :=
  let s := bootLinks s env
  if late = 8 then enterLoader s 8 7 0 env.link
  else
    let s := bootMap s
    if noChannel s then enterLoader s 8 6 0 env.link else bootFinish (lifeNow (bootScrub s)) lim env.link late

/-- Steps 4 to 11. -/
def bootOn (s : State) (env : BootEnv) (lim : Option Nat) (late : Nat) : State :=
  if late = 4 then enterLoader s 4 7 0 env.link
  else if !env.fuseOk ∨ !env.mgmtOk then enterLoader s 4 4 0 env.link
  else
    let s := bootTumblers env.kat ((List.range 8).foldl (bootBlocks env.blkFail) (loadMap s))
    if late = 5 then enterLoader s 5 7 0 env.link
    else
      match bootHinge s env.hinge with
      | none => enterLoader (modHinge s (fun h => { h with mode := .down })) 5 5 0 env.link
      | some s => bootLate s env lim late

/-- Steps 1 and 2 up to the choice between the firmware and the recovery loader. -/
def bootRead (s : State) (warm : Bool) : State := bootImage (bootFld (bootFld (bootClock s) 31 30 (if warm then 2 else 1)) 29 26 2)

/-- The sequence of Table 13.4 on what `env` says the device finds: each step in order, up to the end or to the path of one that fails or
is late. -/
def bootRun (s : State) (env : BootEnv) (warm : Bool) (late : Nat) : State :=
  let s := bootRead s warm
  if late = 2 then enterLoader (bootKeys s warm) 2 7 0 env.link
  else
    match fwCheck s s.flash.hdr s.flash.image with
    | .good =>
      let lim := cfgLimit s
      if late = 3 then enterLoader (bootKeys s warm) 3 7 0 env.link else bootOn (bootScan s warm) env lim late
    | .rollback => enterLoader (bootKeys s warm) 2 3 0 env.link
    | _ => enterLoader (bootKeys s warm) 2 2 0 env.link

/-- The steps that have a latest end that matters, and that end, in management cycles (Table 13.4, R597). -/
def latestEnds : List (Nat × Nat) :=
  [(2, 200000000), (3, 250000000), (4, 400000000), (5, 450000000), (8, 8550000000), (9, 8560000000), (11, 8960000000)]

/-- START_UP (R596): the sequence of Table 13.4, as one step once time 0 has come (log 51); later than the latest end of step 11 that
step has not ended in time. -/
def startUp (env : BootEnv) (s : State) : State :=
  match s.power.phase with
  | .starting warm =>
    if s.cyc < s.power.time0 then s
    else if !env.refclk ∧ !warm then { s with power := { s.power with noRef := true } }
    else bootRun s env warm (if s.power.base + 8960000000 < s.cyc then 11 else 0)
  | _ => s

def execStartUp (env : BootEnv) (s : State) : Host.Outcome State Fault Refusal := .next (startUp env s)

/-- REFCLK_RETRY (R596, R597): step 1 tries again after 100 ms, and every latest end moves later by as much. -/
def execRefclkRetry (s : State) : Host.Outcome State Fault Refusal :=
  .next (if s.power.noRef ∧ s.power.phase = .starting false then
      { s with power := { s.power with base := s.power.base + 10000000 } }
    else s)

/-- What a start-up found until one of its steps was late: the steps before it did not fail (log 51). -/
def lateFound (e : BootEnv) : BootEnv := { e with fuseOk := true, mgmtOk := true, hinge := { e.hinge with half := true } }

/-- BOOT_STEP_TIMEOUT (R597): the last step whose latest end has come has not ended: the steps before it are carried out, FAIL 0x07 is
recorded, and the recovery loader is entered. -/
def bootTimeout (s : State) : State :=
  match s.power.phase with
  | .starting warm =>
    if s.power.noRef then s
    else
      match (latestEnds.filter (fun x => decide (s.power.base + x.2 ≤ s.cyc))).getLast? with
      | none => s
      | some x => bootRun { s with freeCtr := s.freeCtr + 1 } (lateFound (Config.lateEnv s.freeCtr)) warm x.1
  | _ => s

def execBootStepTimeout (s : State) : Host.Outcome State Fault Refusal := .next (bootTimeout s)

end Sys2Proof.Machine
end

