-- ==== Sys2Proof/Machine/Cut.lean ====
section
/-! DEFINITION. What a loss of power, RST_N or a thermal trip leaves of writing that it cuts off (13_boot_keyring.md, R594 and the
caution after R606; 14_lockplate_security.md, R636, R644). -/

namespace Sys2Proof.Machine

/-- What `t` holds in the flash and the fuses. -/
def keepFlash (s t : State) : State := { s with flash := t.flash, fuses := t.fuses }

/-- A start-up that is cut off has written nothing, or the BOOTLOG of step 3, or that of step 9 with the SEQ that it restored
(R594, log 121). -/
def cutStart (warm : Bool) (s : State) : State :=
  let d := drawWord s
  let s := d.2
  let t := bootRead s warm
  let u := drainRecs (bootScan t warm)
  match d.1.toNat % 3, fwCheck t t.flash.hdr t.flash.image with
  | 1, .good => keepFlash s u
  | 2, .good => keepFlash s (bootSettle (bootScrub u) (cfgLimit t)).1
  | _, _ => s

/-- The record that is being written is not yet there, or cut short (R586, R587, log 154). -/
def cutRecord (s : State) : State :=
  match s.krg.queue with
  | [] => s
  | r :: _ =>
    let d := drawWord s
    if d.1.toNat % 2 = 0 then d.2
    else { d.2 with flash := putRecord s.flash { r with cut := some (d.1.toNat / 2 % (32 + r.body.bytes.length)) } }

/-- Programming that is cut off leaves free bytes: a configuration block that is not in order, a firmware image that is not good
(caution after R606). -/
def cutProg (s : State) : State :=
  if s.krg.waits then s
  else
    match s.krg.op with
    | some (.cfg c) =>
      let d := spoil s c.length
      { d.2 with flash := { s.flash with cfg := if cfgOk d.1 then [] else d.1 } }
    | some (.fw h img) =>
      let d := spoil s (h.length + img.length)
      let h' := d.1.take h.length
      let i' := d.1.drop h.length
      { d.2 with flash := { s.flash with hdr := if fwCheck s h' i' = .good then [] else h', image := i' } }
    | none => s

/-- A grant that is cut off has left the old image, or the new one without its fuse, or with it, or has ended; FWFLOOR has
blown some of its fuses (R636, R644, log 121). -/
def cutGrant (s : State) : State :=
  match s.lkp.op with
  | some (.grant k r flag body) =>
    if r ≠ 0 then s
    else if k = 7 then
      let d := drawWord s
      let n := max s.fuses.svn (leAt body 0 1) - s.fuses.svn
      { d.2 with fuses := { s.fuses with svn := s.fuses.svn + d.1.toNat % (n + 1) } }
    else if grantWrites s ∧ !krgBusy s then
      let d := drawWord s
      let s := d.2
      let adv := kindEpoch k flag
      let owner := k = 0xA || k = 0xB
      let g := grantImg s k adv body
      let g := if owner then setScrub g true else g
      match d.1.toNat % 4 with
      | 0 => s
      | 1 => keepFlash s (writeImg s g)
      | 2 => keepFlash s (writeGrant s adv g)
      | _ =>
        let t := writeGrant s adv g
        keepFlash s (if owner then writeImg t (setScrub (nextGen t.lkp.img) false) else t)
    else s
  | _ => s

/-- What is being written to the flash and the fuses is cut off. -/
def cut (s : State) : State :=
  match s.power.phase with
  | .starting warm => if s.power.noRef ∨ s.cyc < s.power.time0 then s else cutStart warm s
  | _ => cutGrant (cutProg (cutRecord s))

end Sys2Proof.Machine
end

