-- ==== Sys2Proof/Machine/Pins.lean ====
section
/-! DEFINITION. Pins, the hot-swap switch, RST_N and the thermal trip (16_module_physical.md, R698-R708; 15_health_lifetime.md,
R673). -/

namespace Sys2Proof.Machine

/-- Management cycles of a second. -/
def second : Nat := 100000000

def modPower (s : State) (f : Power → Power) : State := { s with power := f s.power }

/-! ### Die temperature and the thermal trip (R665, R666) -/

/-- A thermal trip: THERMTRIP_N falls, every clock stops and every laser is off (R666). Only a cold start follows, which loads
TRIPS from the flash; nothing volatile is left. -/
def thermTrip (s : State) : State :=
  let s := wipe (cut s)
  { s with power := { s.power with phase := .tripped, trip := some (s.power.trip.getD s.cyc), tripDue := true, lasers := false } }

/-- Whether the management controller runs, so that it reads its sensors: powered, out of RST_N, not tripped. -/
def awake (s : State) : Bool :=
  match s.power.phase with
  | .off | .tripped => false
  | _ => decide (s.power.time0 ≤ s.cyc)

/-- DIE_TEMP_SAMPLE (R665, R666, R672): the readings of a half, its level, the duty, and DIE_HOT on rising to level 2 or 3;
at 110 degrees, or 95 in an optical engine, the trip. -/
def dieTempSample (h : Fin 2) (die base opt : Int) (s : State) : State :=
  if !awake s then s else
  let td := max die base
  let old := rreg s .hltTemp h.val
  let cur := getF old 7 6
  let lv := dieLevelNext td cur
  let v := setF (setF (setF (setF old 31 24 (tempByte td)) 23 16 (tempByte base)) 15 8 (tempByte opt)) 7 6 lv
  let c := thermCycle (s.hlt.low.getD h.val none) td
  let s := wreg s .hltTemp h.val v
  let s := lifeAdd { s with hlt := { s.hlt with low := modAt s.hlt.low h.val (fun _ => c.1) } } 24 (12 + 4 * h.val) 4 c.2
  let s := setDuty s
  if 110 ≤ td ∨ 95 ≤ opt then thermTrip s
  else if cur < lv ∧ 2 ≤ lv then setEvt (degraded s 0x3E04 h.val) 0
  else s

def execDieTempSample (h : Fin 2) (die base opt : Int) (s : State) : Host.Outcome State Fault Refusal :=
  .next (dieTempSample h die base opt s)

/-! ### The hot-swap switch and RST_N -/

/-- The switch opens: PG falls, everything volatile is lost, ALERT_N and THERMTRIP_N are released (R702-R704). -/
def openSwitch (s : State) : State :=
  modPower (wipe (cut s)) (fun p => { p with phase := .off, switch := false, pg := false, trip := none, lasers := false, noRef := false })

/-- PWR_EN_RISE (R698, R699): the board asks for power; the switch closes once PWR_EN has been low for 1 s. -/
def execPwrEnRise (s : State) : Host.Outcome State Fault Refusal := .next (modPower s (fun p => { p with pwrEn := true }))

/-- Whether the switch may close: PWR_EN is high, the second of low level has elapsed since it fell, and VIN is within 40-60 V;
after the module opened the switch itself, PWR_EN must have been low since (R699, R703). -/
def mayClose (s : State) : Bool :=
  let p := s.power
  p.pwrEn && !p.switch && !p.armed && decide (40000 ≤ p.vin) && decide (p.vin ≤ 60000) &&
  match p.fell with
  | none => true
  | some t => decide (t + second ≤ s.cyc)

/-- HOT_SWAP_CLOSE (R692, R698-R700): the switch closes, PG rises and the straps are sampled; time 0 of a cold start-up comes now, or
when RST_N rises, if it is held low. -/
def hotSwapClose (straps : Fin 4) (s : State) : State :=
  if mayClose s then
    let t := max s.cyc s.power.rstHigh
    modPower (wipe s) (fun p => { p with phase := .starting false, switch := true, pg := true, straps := straps,
                                         trip := none, time0 := t, base := t, cold0 := t, lasers := false, noRef := false })
  else s

def execHotSwapClose (straps : Fin 4) (s : State) : Host.Outcome State Fault Refusal := .next (hotSwapClose straps s)

/-- PWR_EN_FALL (R702): the switch opens and PG falls. -/
def pwrEnFall (s : State) : State :=
  if s.power.pwrEn then
    modPower (if s.power.switch then openSwitch s else s) (fun p => { p with pwrEn := false, fell := some s.cyc, armed := false })
  else s

def execPwrEnFall (s : State) : Host.Outcome State Fault Refusal := .next (pwrEnFall s)

/-- VIN_FAULT (R703): below 38 V for 100 µs, or above 62 V, the switch opens; it closes again only after PWR_EN has been low. -/
def vinFault (mv : Nat) (s : State) : State :=
  let s := modPower s (fun p => { p with vin := mv })
  if s.power.switch ∧ (mv < 38000 ∨ 62000 < mv) then
    modPower (openSwitch s) (fun p => { p with armed := p.pwrEn })
  else s

def execVinFault (mv : Nat) (s : State) : Host.Outcome State Fault Refusal := .next (vinFault mv s)

/-- RST_N_LOW (R697, R700, R701): RST_N goes low for `ns`, which is honoured from 2 µs and ignored below 1 µs. While PG is high, the
device is held in reset until it rises again, which is time 0 of a cold start-up; before PG rises, it lasts into the power-up. -/
def rstNLow (ns : Nat) (s : State) : State :=
  if 2000 ≤ ns ∨ (1000 ≤ ns ∧ Config.rstHonoured ns) then
    let t := max s.power.rstHigh (s.cyc + (ns + 9) / 10)
    if s.power.pg then modPower (coldReset (cut s)) (fun p => { p with rstHigh := t, time0 := t, base := t, cold0 := t })
    else modPower s (fun p => { p with rstHigh := t })
  else s

def execRstNLow (ns : Nat) (s : State) : Host.Outcome State Fault Refusal := .next (rstNLow ns s)

/-- THERMTRIP_TIMEOUT (R706): PWR_EN is still high 500 ms after the trip, so the module opens its switch. -/
def thermtripTimeout (s : State) : State :=
  match s.power.trip with
  | some t =>
    if s.power.pwrEn ∧ s.power.switch ∧ t + second / 2 ≤ s.cyc then
      modPower (openSwitch s) (fun p => { p with armed := true })
    else s
  | none => s

def execThermtripTimeout (s : State) : Host.Outcome State Fault Refusal := .next (thermtripTimeout s)

/-- The module's I3C static address, from ADDR1 and ADDR0 as they were sampled (R692). -/
def i3cAddr (s : State) : Nat := 0x48 + s.power.straps.val

/-- Its Provisioned ID: the manufacturer code, the part code and the low bits of the serial number (the text after R708). -/
def i3cPid (s : State) : Nat := 0x1C5A * 2 ^ 33 + 0x4880 * 2 ^ 16 + serialNat s % 2 ^ 16

/-- Whether ALERT_N is asserted: an enabled bit of HLT_EVT, or step 1 of start-up without REFCLK (R673, R708). -/
def alertN (s : State) : Bool :=
  decide (rreg s .hltEvt 0 &&& BitVec.ofNat 32 (rfld s .hltCfg 0 5 0) ≠ 0) || s.power.noRef

/-- Whether THERMTRIP_N is asserted (R666, R704). -/
def thermtripN (s : State) : Bool := s.power.trip.isSome

end Sys2Proof.Machine
end

