-- ==== Sys2Proof/Machine/Registers.lean ====
section
/-! DEFINITION. Register access over Latch and I3C (12_latch_transport.md, R561, R562; 16_module_physical.md, R709-R713;
17_register_map.md, R725-R732; 00_scope.md, R11). -/

namespace Sys2Proof.Machine

/-! ### What registers show -/

/-- STATE of a list engine: 0 idle, 1 running, 2 waiting on a flag, 3 stopped by a fault. -/
def engineState (u : ListRun) : Nat :=
  if u.lid.isNone ∨ u.finished then 0 else if u.stopped then 3 else if u.waiting.isSome then 2 else 1

/-- RGNn_RUN (Table 9.9). -/
def rgnRunWord (s : State) (r : Fin 8) : Word :=
  match ((s.regions[r]).holder).bind (findLaunch s) with
  | none => 0
  | some l =>
    let st : Nat := match l.st with
      | .running => 1
      | .stopping => if allStopped s l then 3 else 2
      | .aborting => 2
      | .restoring => 4
      | .halted => 5
      | _ => 0
    setF (setF (setF (setF 0 31 28 st) 27 26 l.job) 25 24 l.prio) 23 0 l.lid.toNat

/-- VSEh_STAT (Table 11.16). -/
def vseStatWord (s : State) (h : Fin 2) : Word :=
  let u := (s.halves[h]).vse
  let l := u.lid.bind (findLaunch s)
  let st := if l.any (moving s) then 4 else engineState u
  let row : Nat := match (s.halves[h]).vseJob with | some j => j.row | none => 0
  setF (setF (setF 0 31 28 st) 27 16 u.idx) 15 0 row

/-- CNP_INVSTAT (Table 4.18). -/
def invstat (s : State) : Word :=
  setF (setF 0 15 8 (invQueued s)) 0 0 (if s.regions.toList.any (fun g => g.inv ≠ []) then 1 else 0)

/-- LAT_STAT (Table 12.14) over its stored count of lost events. -/
def latStatWord (s : State) (v : Word) : Word :=
  setF (setF (setF (setF v 31 21 s.net.conns.length) 20 20 (if (ownerConn s).isSome then 1 else 0)) 19 19
    (if (standbyConn s).isSome then 1 else 0)) 12 0 (inFlight s)

/-- KRG_STAT (Table 13.8) over its stored fields. -/
def krgStatWord (s : State) (v : Word) : Word :=
  let op : Nat := match s.krg.op with | none => 0 | some (.cfg _) => 1 | some (.fw _ _) => 2
  setF (setF (setF v 31 31 (if krgBusy s then 1 else 0)) 30 28 op) 19 14 (min 63 s.krg.queue.length)

/-- KRG_WEAR (Table 13.10, R589), from the start-up on. -/
def krgWearWord (s : State) : Word :=
  if rfld s .krgBoot 0 31 30 = 0 then 0 else setF (setF 0 31 16 (min 0xFFFF s.flash.journal.maxErase)) 15 0 s.flash.journal.spare.length

/-- Whether the scrub of R644 runs: a grant that makes one has passed its checks and is not yet applied. -/
def scrubRuns (s : State) : Bool :=
  match s.lkp.op with
  | some (.grant k r _ _) => decide (r = 0) && (k = 9 || k = 0xA || k = 0xB)
  | _ => false

/-- CLK_STAT (Table 17.5) over its stored fields. How many REFCLK cycles were missing while the PLL holds lock, and what REFCLK does after
a loss of lock, is free (log 28). -/
def clkStatWord (s : State) (v : Word) : Word :=
  let d := (drawWord s).1.toNat
  if getF v 31 31 = 1 then setF v 15 0 (d % 65536)
  else if s.power.phase = .clockLost then setF v 29 29 (d % 2)
  else v

/-- LKP_STAT (Table 14.12) over its stored fields. -/
def lkpStatWord (s : State) (v : Word) : Word :=
  let g := s.lkp.img
  let slots := ((List.range 8).map (fun i => if slotUsed g i then 2 ^ i else 0)).sum
  setF (setF (setF (setF (setF (setF v 31 31 (if s.lkp.op.isSome then 1 else 0)) 26 24 (imgState g)) 23 23
    (if s.lkp.grant.isSome then 1 else 0)) 22 22 (if s.lkp.debug then 1 else 0)) 21 21 (if scrubRuns s then 1 else 0)) 15 8 slots

/-- LKP_GRANT (Table 14.14). -/
def lkpGrantWord (s : State) : Word :=
  match s.lkp.grant with
  | none => 0
  | some g => setF (setF 0 19 16 (g.regs.length - 1)) 15 0 ((g.closes - s.cyc + second - 1) / second)

/-- LKP_FUSE (Table 14.14). -/
def lkpFuseWord (s : State) : Word :=
  setF (setF (setF 0 17 17 (if imgCosign s.lkp.img then 1 else 0)) 15 8 s.fuses.svn) 7 0 s.fuses.epoch

/-- LKP_NONCEk (Table 14.13); without a nonce it reads 0. -/
def lkpNonceWord (s : State) (k : Nat) : Word :=
  match s.lkp.nonce with
  | none => 0
  | some n => BitVec.ofNat 32 (n.toNat / 2 ^ (32 * k))

/-- A commit register, with DIRTY (Table 1.5). -/
def commitWord (s : State) (g : Group) (v : Word) : Word := setF v 4 4 (if dirty s g then 1 else 0)

/-- The stored copy of a register that a read sees: the shadow copy of a field while VIEW is 1 (Table 1.5). -/
def storedWord (s : State) (r : Reg) (i : Nat) : Word :=
  match fieldGroup r i with
  | some g => if commitFld s g 3 3 = 1 then rshadow s r i else rreg s r i
  | none => rreg s r i

/-- Whether start-up has given the blocks their map: until then the counts of healthy blocks read their reset values
(R619, Tables 9.11, 17.4). -/
def mapLoaded (s : State) : Bool := decide (s.power.phase = .ready) || decide (s.power.phase = .clockLost)

/-- What register `i` shows, before its access codes. -/
def shownWord (s : State) (r : Reg) (i : Nat) : Word :=
  let v := ((windowOf r i).bind (frozenWord s r)).getD (storedWord s r i)
  match r with
  | .devId1 => if mapLoaded s then setF v 23 16 (enabledBlocks s) else v
  | .devDtc0 => BitVec.ofNat 32 s.dtc.toNat
  | .netPpsts0 => BitVec.ofNat 32 s.net.ppsTime.toNat
  | .clkStat => clkStatWord s v
  | .cnpInvstat => invstat s
  | .blkSeqstat => if (frozenWord s r (Fin.ofNat 48 i)).isSome then v else seqstat s (Fin.ofNat 48 i)
  | .rgnRun => rgnRunWord s (Fin.ofNat 8 i)
  | .rgnTurnstat => if mapLoaded s then setF v 18 16 (min 6 (inService s i).length) else v
  | .sceStat => let u := (s.regions[Fin.ofNat 8 i]).sce; setF (setF 0 31 28 (engineState u)) 15 0 u.idx
  | .smpStat => let u := (s.halves[Fin.ofNat 2 i]).smp; setF (setF v 31 28 (engineState u)) 23 16 u.idx
  | .vseStat => vseStatWord s (Fin.ofNat 2 i)
  | .memMscflush => setF v 31 31 (if s.halves.toList.any (·.flushing) then 1 else 0)
  | .latStat => latStatWord s v
  | .krgStat => krgStatWord s v
  | .krgWear => krgWearWord s
  | .lkpStat => lkpStatWord s v
  | .lkpGrant => lkpGrantWord s
  | .lkpFuse => lkpFuseWord s
  | .lkpGen => BitVec.ofNat 32 (imgGen s.lkp.img / 2 ^ (32 * i))
  | .lkpNonce => lkpNonceWord s i
  | .hltCtl => setF v 31 31 (if s.hlt.op.isSome then 1 else 0)
  | .stkStat => setF v 23 16 (tempByte (stkThr s (Fin.ofNat 24 i)))
  | _ => match commitGroup r i with
    | some g => commitWord s g v
    | none => v

/-! ### Reading (R11, R635, R728, R729) -/

/-- A fresh nonce from the Lockplate's random source. -/
def drawNonce (s : State) : State :=
  let b := drawBytes s 32
  freshNonce b.2 (BitVec.ofNat 256 (leNat b.1))

/-- What a read does before its value is taken: LKP_NONCE0 makes a fresh nonce, and a low word latches its high word. -/
def readPrepare (s : State) (r : Reg) (i : Nat) : State :=
  match r with
  | .lkpNonce => if i = 0 then drawNonce s else s
  | .devDtc0 => wreg s .devDtc1 0 (BitVec.ofNat 32 (s.dtc.toNat / 2 ^ 32))
  | .netPpsts0 => wreg s .netPpsts1 0 (BitVec.ofNat 32 (s.net.ppsTime.toNat / 2 ^ 32))
  | _ => s

/-- What a read leaves: RC fields are clear, and a free value is used up. An event of the read's own management cycle is the
command after it, so its bit ends set (R12, log 7). -/
def readFinish (s : State) (r : Reg) (i : Nat) : State :=
  let m := regMask r (· = .rc)
  let s := if r = .clkStat then (drawWord s).2 else s
  if m = 0 then s else wreg s r i (rreg s r i &&& ~~~m)

/-- Read register `i` (R11): its value, with WO fields as zero, and the state after. -/
def readReg (s : State) (r : Reg) (i : Nat) : Word × State :=
  let s := readPrepare s r i
  (shownWord s r i &&& ~~~(regMask r (· = .wo)), readFinish s r i)

/-- DTC_LATCH_READ (R729, R734). -/
def execDtcLatchRead (s : State) : Host.Outcome State Fault Refusal :=
  .next (let x := readReg s .devDtc0 0; { x.2 with lastRead := x.1 })

/-- PPSTS_LATCH_READ (R729, Table 12.12). -/
def execPpstsLatchRead (s : State) : Host.Outcome State Fault Refusal :=
  .next (let x := readReg s .netPpsts0 0; { x.2 with lastRead := x.1 })

/-! ### Writing (R11, R35, R41, R562, R588) -/

/-- Free outcomes of the self-tests that a register write starts (log 52). -/
def freeTests (s : State) : BitVec 66 × State :=
  let b := drawBytes s 9
  (BitVec.ofNat 66 (leNat b.1), b.2)

/-- A write to KRG_CTL (R588, R605, Table 13.7). -/
def writeKrgCtl (s : State) (v : Word) : WriteOut :=
  match getF v 6 0 with
  | 0 => .ok s
  | 1 => if krgFull s 9 0 then .waits else .ok (savecfg s)
  | 2 => if shutdownFull s then .waits else .ok (shutdown s)
  | 4 =>
    let t := freeTests s
    if softFull s (t.1.setWidth 56) then .waits else .ok (askSoft (t.1.setWidth 56) ((t.1 >>> 56).setWidth 10) t.2)
  | 8 => .ok (askWarm s)
  | 16 => .ok (askCold s)
  | 32 => .ok (askCfgprog s)
  | 64 => .ok (askFwinstall s)
  | _ => .ok (wfld s .krgStat 0 23 23 1)

/-- A write to LKP_CTL (R638, Table 14.12). -/
def writeLkpCtl (s : State) (v : Word) : State :=
  if s.lkp.op.isSome then overlap s
  else
    match getF v 3 0 with
    | 0 => s
    | 1 => submit s
    | 2 => closeLk s
    | 4 => attest s
    | 8 => devcert s
    | _ => overlap s

/-- A write to HLT_PCAPB (R667, R671): over I3C only. -/
def writePcapb (p : RegPath) (s : State) (v : Word) : WriteOut :=
  match p with
  | .latch => .refused cRegDenied
  | .i3c =>
    match execPcapbSet v s with
    | .next t => (match execPcapbFast v t with | .next t => .ok t | _ => .ok t)
    | _ => .ok s

/-- Write register `i` (R11, R562, R588, R641). -/
def writeReg (p : RegPath) (s : State) (r : Reg) (i : Nat) (v : Word) : WriteOut :=
  match (windowOf r i).filter (fun b => !hostedNow s b) with
  | some b => (match blkWrite s r b v with | .ok _ => .ok (putLate s r b v) | w => w)
  | none =>
  match commitGroup r i, fieldGroup r i with
  | some g, _ => writeCommit s g v
  | none, some g => writeField s g r i v
  | none, none =>
    match r with
    | .krgCtl => writeKrgCtl s v
    | .lkpCtl => .ok (writeLkpCtl s v)
    | .krgRetire => if krgFull s 6 (getF v 5 0 / 7) ∧ getF v 5 0 < 56 then .waits else .ok (retireBlk v s)
    | .krgUnretire =>
      if !grantCovers s (regAddr r i) then .refused cRegLocked
      else if krgFull s 6 (getF v 5 0 / 7) ∧ getF v 5 0 < 56 then .waits else .ok (unretire v s)
    | .krgBlkrst =>
      if blkrstFull s (getF v 5 0) then .waits else (let t := freeTests s; .ok (blkrst v (bitsAt t.1 0 1 = 1) t.2))
    | .stkMapreq => if krgFull s 5 i ∧ getF v 15 0 ≠ 0 then .waits else .ok (memMapreq (Fin.ofNat 24 i) v s)
    | .stkUnmap =>
      if !grantCovers s (regAddr r i) then .refused cRegLocked
      else if krgFull s 5 i ∧ getF v 15 0 ≠ 0 then .waits else .ok (memUnmap (Fin.ofNat 24 i) v s)
    | .optSpare => if spareWaits s (Fin.ofNat 24 i) v then .waits else .ok (optSpare (Fin.ofNat 24 i) v s)
    | .memMscflush => .ok (mscFlush v s)
    | .cnpInv => .ok (if getF v 31 31 = 1 ∨ 64 ≤ invQueued s then invAll s else addInv s (some (getF v 18 0)))
    | .blkTest => .ok (if getF v 0 0 = 1 then modBlk s (Fin.ofNat 48 i) (fun k => { k with inject := true }) else s)
    | .hltPcapb => writePcapb p s v
    | .hltPcapd => .ok (wfld s .hltPcapd 0 27 16 (clampCap (bitsAt v 0 12)))
    | .hltCtl =>
      if getF v 1 0 ≠ 0 ∧ s.hlt.op.isSome then .refused cRegDenied
      else .ok (if getF v 0 0 = 1 then hltCrc s else if getF v 1 1 = 1 then hltLife s else s)
    | _ => .ok (writePlain s r i v)

/-- A write to a register address (R562, R726). -/
def writeAddr (p : RegPath) (s : State) (a : Nat) (v : Word) : WriteOut :=
  match regAt a with
  | none => .refused cRegAddr
  | some (r, i) => writeReg p s r i v

/-! ### REGRD and REGWR (R561, R562, R615, R727-R731) -/

/-- Whether a register belongs to the KRG group, which the recovery loader serves (R615). -/
def isKrg (a : Nat) : Bool := decide (0x500 ≤ a) && decide (a ≤ 0x55C)

/-- The addresses of a REGRD or REGWR entry. -/
def entryAddrs (e : List Byte) : List Nat := (List.range (leAt e 16 1)).map (fun k => leAt e 8 8 + 4 * k)

/-- Whether the recovery loader does not execute an entry: it names a register outside the KRG group. -/
def loaderBars (s : State) (e : List Byte) : Bool :=
  inLoader s && (entryAddrs e).any (fun a => !isKrg a)

/-- Read registers in order. -/
def readAll (s : State) : List (Reg × Nat) → List Word × State
  | [] => ([], s)
  | x :: xs =>
    let v := readReg s x.1 x.2
    let rest := readAll v.2 xs
    (v.1 :: rest.1, rest.2)

/-- What became of the words of a REGWR: all written; one refused, with its index and code; or one waits, with its index. -/
inductive WordsOut where
  | ok (s : State)
  | refused (s : State) (idx code : Nat)
  | waits (s : State) (idx : Nat)
  deriving DecidableEq, Repr

/-- Write words in ascending order, up to the first that is refused or waits, or that resets the device. -/
def writeAll (s : State) (k : Nat) : List (Nat × Word) → WordsOut
  | [] => .ok s
  | (a, v) :: xs =>
    match writeAddr .latch s a v with
    | .ok t => if mgmtOn t then writeAll t (k + 1) xs else .ok t
    | .refused c => .refused s k c
    | .waits => .waits s k

/-- The words of a REGWR entry, each with its address. -/
def entryWords (e : List Byte) : List (Nat × Word) :=
  (entryAddrs e).zipIdx.map (fun x => (x.1, BitVec.ofNat 32 (leAt e (20 + 4 * x.2) 4)))

/-- A REGRD or REGWR completes: register commands do so in their order, so it is the earliest outstanding of its ring with its OP and
CID (R730). -/
def finishReg (s : State) (w : RegWait) (kind code aux2 : Nat) (data : List Byte) : State :=
  finishBy (dropCmd (fun o => o.op = leAt w.entry 0 1 && o.cid = w.cid)) s (cmdDone w.ring kind code w.cid 0 aux2 data)

/-- A REGRD that was read (R561, R727, R728): every address must name a register before any is read. -/
def doRead (s : State) (w : RegWait) : State :=
  if loaderBars s w.entry then finishReg s w 2 cmdFormat 0 []
  else
    match (entryAddrs w.entry).findIdx? (fun a => (regAt a).isNone) with
    | some k => finishReg s w 2 cRegAddr k []
    | none =>
      let x := readAll s ((entryAddrs w.entry).filterMap regAt)
      finishReg x.2 w 1 0 0 (wordBytes x.1)

/-- A REGWR that was read, from its first word not yet written (R562, R588): `some k` where word `k` waits. -/
def doWrite (s : State) (w : RegWait) : State × Option Nat :=
  if loaderBars s w.entry then (finishReg s w 2 cmdFormat 0 [], none)
  else
    match writeAll s w.done ((entryWords w.entry).drop w.done) with
    | .ok u => (finishReg u w 1 0 0 [], none)
    | .refused u k c => (finishReg u w 2 c k [], none)
    | .waits u k => (u, some k)

def setRegs (s : State) (ws : List RegWait) : State := { s with krg := { s.krg with regs := ws } }

/-- Execute register commands that were read, in that order, up to the first that waits (R588, R730, log 105). A reset on the
way ends them. -/
def runRegs : List RegWait → State → State
  | [], s => setRegs s []
  | w :: ws, s =>
    if !mgmtOn s then setRegs s []
    else if leAt w.entry 0 1 = 5 then runRegs ws (doRead s w)
    else
      match doWrite s w with
      | (t, none) => runRegs ws t
      | (t, some k) => setRegs t ({ w with done := k } :: ws)

/-- A register command is read: it is executed, unless an earlier one waits. -/
def regCmd (ring op : Nat) (s : State) : State :=
  onCmd s ring op (fun s e cid =>
    let t := readCmd s ring cid op
    let w : RegWait := { ring := ring, cid := cid, entry := e, done := 0 }
    if t.krg.regs = [] then runRegs [w] t else setRegs t (t.krg.regs ++ [w]))

/-- REGRD (R561, R727, R728, R730). -/
def execRegrd (ring : Fin 16) (s : State) : Host.Outcome State Fault Refusal := .next (regCmd ring.val 5 s)

/-- REGWR (R562, R588, R730, R731): it waits where a word waits for a place of its record. -/
def execRegwr (ring : Fin 16) (s : State) : Host.Outcome State Fault Refusal := .next (regCmd ring.val 6 s)

/-- KEYRING_RECORD_WRITE (R587, R588): the oldest queued record is written, and the register commands that waited for its
place go on. -/
def keyringRecordWrite (s : State) : State :=
  if mgmtOn s ∨ s.power.phase = .clockLost then
    let t := recordWrite s
    if t.krg.regs = [] ∨ !mgmtOn t then t else runRegs t.krg.regs t
  else s

def execKeyringRecordWrite (s : State) : Host.Outcome State Fault Refusal := .next (keyringRecordWrite s)

/-! ### I3C (R709-R713, Table 16.6) -/

/-- Whether the I3C target answers (R700, R709): from 5 ms after time 0 until PG falls. -/
def i3cOn (s : State) : Bool :=
  s.power.pg && decide (s.power.time0 + 500000 ≤ s.cyc) &&
  match s.power.phase with
  | .starting _ | .ready | .loader | .clockLost | .stopped => true
  | _ => false

/-- Whether a register access has to follow a REGWR that waits (R588, R713): I3C then answers busy, and the board repeats it (log 105). -/
def regsWait (s : State) : Bool := !s.krg.regs.isEmpty

/-- Registers that I3C may read (Table 16.6). -/
def i3cReads (r : Reg) : Bool :=
  match r with
  | .hltTemp | .hltPwr | .hltDuty | .hltPcapb | .hltPcapd | .hltEvt | .krgStat | .krgCtl => true
  | _ => false

/-- Writes that I3C may make (Table 16.6). -/
def i3cWrites (r : Reg) (v : Word) : Bool :=
  match r with
  | .hltPcapb | .hltPcapd | .hltEvt => true
  | .krgCtl => decide (v &&& ~~~2 = 0)
  | _ => false

/-- Status and state of an I3C register write (R711, R712). -/
def i3cWrite (s : State) (a : Nat) (v : Word) : Byte × State :=
  match regAt a with
  | none => (1, s)
  | some (r, i) =>
    if !i3cWrites r v then (1, s)
    else
      match writeReg .i3c s r i v with
      | .ok t => (0, t)
      | .refused _ => (1, s)
      | .waits => (3, s)

/-- I3C_PRIVATE_WRITE (R710-R713): 8 bytes give a read address, 12 bytes a write. -/
def i3cPrivateWrite (bytes : List Byte) (s : State) : State :=
  if !i3cOn s then s
  else
    let a := leAt bytes 0 8
    let set (s : State) (st : Byte) (x : Option Nat) : State := { s with i3c := { s.i3c with status := st, addr := x } }
    if bytes.length ≠ 8 ∧ bytes.length ≠ 12 then set s 2 none
    else if regsWait s then set s 3 none
    else if bytes.length = 8 then
      (if (regAt a).any (fun x => i3cReads x.1) then set s 0 (some a) else set s 1 none)
    else (let x := i3cWrite s a (BitVec.ofNat 32 (leAt bytes 8 4)); set x.2 x.1 none)

def execI3cPrivateWrite (bytes : List Byte) (s : State) : Host.Outcome State Fault Refusal :=
  .next (i3cPrivateWrite bytes s)

/-- I3C_PRIVATE_READ (R711): status, and the register's value or zero. -/
def i3cPrivateRead (s : State) : State :=
  if !i3cOn s then s
  else
    let x : Word × State := match s.i3c.addr.bind regAt with
      | some (r, i) => readReg s r i
      | none => (0, s)
    { x.2 with i3c := { s.i3c with reply := s.i3c.status :: toLe 4 x.1.toNat } }

def execI3cPrivateRead (s : State) : Host.Outcome State Fault Refusal := .next (i3cPrivateRead s)

/-- I3C_DYNAMIC_ADDRESS: SETDASA or ENTDAA assigns a dynamic address. -/
def execI3cDynamicAddress (s : State) : Host.Outcome State Fault Refusal :=
  .next (if i3cOn s then { s with i3c := { s.i3c with dynamic := true } } else s)

/-! ### A register write as a command of its own -/

/-- REGISTER_WRITE (R11, R35, R562, R713): a write over Latch while the device serves registers, or over I3C within Table 16.6, behind
every REGWR that waits. A refused write changes nothing. -/
def registerWrite (p : RegPath) (addr : BitVec 64) (v : BitVec 32) (s : State) : State :=
  if regsWait s then s else
  match p with
  | .i3c => if i3cOn s then (i3cWrite s addr.toNat v).2 else s
  | .latch =>
    if !mgmtOn s ∨ inLoader s ∧ !isKrg addr.toNat then s
    else
      match writeAddr .latch s addr.toNat v with
      | .ok t => t
      | _ => s

def execRegisterWrite (p : RegPath) (addr : BitVec 64) (v : BitVec 32) (s : State) : Host.Outcome State Fault Refusal :=
  .next (registerWrite p addr v s)

end Sys2Proof.Machine
end

