-- ==== Sys2Proof/Machine/Rve.lean ====
section
/-! DEFINITION. The region vector engine's list: training operations (06_numerics_training.md, R288-R296), random
operations (07_tumbler_sampling.md, R319-R325, R336), reductions (08_determinism.md, R347-R356), and END (R753). -/

namespace Sys2Proof.Machine

/-! ### Faults -/

/-- A training fault: TRN_DESC 1, TRN_REC 2, TRN_BOUND 3, AMAX_LOST 4; `rec` is the record the descriptor names
(Table 6.11). -/
def trnFault (s : State) (r : Fin 8) (lid : BitVec 32) (code off rec idx : Nat) : State :=
  let v := setF (setF (setF (setF (rreg s .rveTrnstat r.val) 31 31 1) 30 28 code) 27 22 (if code = 1 then off else 0))
    13 0 rec
  unitHalt (wreg s .rveTrnstat r.val v) (.rve r) lid (0x3500 + code) idx v.toNat

/-- A random fault: RND_DESC 1, RND_BOUND 2, RND_SLOT 3 (Table 7.14). -/
def rndFault (s : State) (r : Fin 8) (lid : BitVec 32) (code off idx : Nat) : State :=
  let v := setF (setF (setF (setF (rreg s .rveRndstat r.val) 31 31 1) 30 28 code) 27 22 (if code = 1 then off else 0))
    15 0 idx
  unitHalt (wreg s .rveRndstat r.val v) (.rve r) lid (0x3600 + code) idx v.toNat

/-- A reduction fault: RED_DESC 1, RED_BOUND 2 (Table 8.7). -/
def redFault (s : State) (r : Fin 8) (lid : BitVec 32) (code off idx : Nat) : State :=
  let v := setF (setF (setF (setF (rreg s .rveRedstat r.val) 31 31 1) 30 28 code) 27 22 (if code = 1 then off else 0))
    15 0 idx
  unitHalt (wreg s .rveRedstat r.val v) (.rve r) lid (0x3700 + code) idx v.toNat

/-- TMB_KAT in place of a draw of a unit that is out of use (R335, R336, Table 7.11). -/
def tmbKat (s : State) (q : WaitUnit) (lid : BitVec 32) (unit idx : Nat) : State :=
  let v := setF (setF (rreg s .tmbStat 0) 31 31 1) 23 16 unit
  unitHalt (wreg s .tmbStat 0 v) q lid 0x3C06 idx v.toNat

/-- The opcodes of an RVE list (Tables 6.6, 7.5, 8.1; R753). -/
def rveOps : List Nat := [0x3F, 0x40, 0x41, 0x42, 0x43, 0x44, 0x48, 0x49, 0x4A, 0x4B, 0x4C, 0x4D]

/-- Reading an entry: its bytes must exist and be good, and its opcode must be one of the list's (R753). `k` runs when
the entry holds opcode `op`. -/
def rveEntry (s : State) (r : Fin 8) (op : Nat) (k : ListRun → Launch → BitVec 512 → State) : State :=
  match active s (.rve r) with
  | none => s
  | some (u, l) =>
    if !entryThere s u then redFault s r l.lid 2 0 u.idx
    else
      match firstBad s (u.base + 64 * u.idx) 64 l.job with
      | some bad => unitMemHalt s (.rve r) l.lid u.idx bad
      | none =>
        let d := entryAt s u
        if !(fld d 0 1 ∈ rveOps) then trnFault s r l.lid 1 0 0 u.idx
        else if fld d 0 1 = op then k u l d else s

/-- The writes that lie in bytes `lo` to `hi` of what a descriptor writes, `p` bytes of it gone before. -/
def cutWrites (lo hi : Nat) : Nat → List (Nat × List Byte) → List (Nat × List Byte)
  | _, [] => []
  | p, (a, bs) :: rest =>
    let x := (bs.take (hi - p)).drop (lo - p)
    (if x = [] then [] else [(a + (lo - p), x)]) ++ cutWrites lo hi (p + bs.length) rest

/-- One element group of a descriptor's writes, 65,536 elements of `e` bits each (Table 9.4): the next group follows, or the descriptor is done. -/
def rveGroup (s : State) (r : Fin 8) (u : ListRun) (l : Launch) (sp : Space) (e : Nat) (ws : List (Nat × List Byte))
    (fin : State → State) : State :=
  let g := 8192 * e
  let t := (cutWrites (g * u.part) (g * (u.part + 1)) 0 ws).foldl
    (fun s w => writeSp s (.rve r) l.lid r sp w.1 (fullMask w.2)) s
  if g * (u.part + 1) < (ws.map (fun w => w.2.length)).sum then nextPart t (.rve r) else nextEntry (fin t) (.rve r)

/-- The reads of a descriptor: they wait for a held stack, and must meet no bad burst (R419, R420, R425). -/
def readsThen (s : State) (r : Fin 8) (u : ListRun) (l : Launch) (xs : List Range) (k : State) : State :=
  if rangeWaits s (.rve r) l xs then s
  else
    match rangeBad s l xs with
    | some bad => unitMemHalt s (.rve r) l.lid u.idx bad
    | none => k

def rdR (o : OpRef) (n : Nat) : Range := { sp := o.sp, write := false, addr := o.addr, len := n }
def wrR (o : OpRef) (n : Nat) : Range := { sp := o.sp, write := true, addr := o.addr, len := n }
def memR (w : Bool) (a n : Nat) : Range := { sp := .mem, write := w, addr := a, len := n }

/-- RVE_END (R753): an END entry ends the list; a non-zero byte in it raises TRN_DESC. -/
def execRveEnd (r : Fin 8) (s : State) : Host.Outcome State Fault Refusal :=
  .next (rveEntry s r 0x3F (fun u l d =>
    match (List.range 63).find? (fun i => fld d (1 + i) 1 ≠ 0) with
    | some i => trnFault s r l.lid 1 (1 + i) 0 u.idx
    | none => modRun s (.rve r) (fun u => { u with finished := true })))

/-! ### Training (Tables 6.6, 6.7) -/

def tIndex (d : BitVec 512) : Nat := fld d 4 4
def tSrcA (d : BitVec 512) : OpRef := refAt d 8
def tSrcB (d : BitVec 512) : OpRef := refAt d 16
def tDst (d : BitVec 512) : OpRef := refAt d 24
def tMargin (d : BitVec 512) : Nat := fld d 3 1 % 8

/-- Layer record `i` and amax record `j` of a region (R290). -/
def layerAt (s : State) (r : Fin 8) (i : Nat) : Nat := (rreg s .rveTrnbase r.val).toNat * 4096 + 32 * i
def amaxAt (s : State) (r : Fin 8) (j : Nat) : Nat := (rreg s .rveAmxbase r.val).toNat * 4096 + 128 * j

/-- Table sizes (Table 6.10). -/
def nLayer (s : State) (r : Fin 8) : Nat := 16 * rfld s .rveTrncfg r.val 15 8
def nAmax (s : State) (r : Fin 8) : Nat := 64 * rfld s .rveTrncfg r.val 7 0

/-- Field `w` of a STATS record: amax, sumsq, nonfinite, count (R145). -/
def statAt (s : State) (r : Fin 8) (o : OpRef) (w : Nat) : Word := (readWords s r o.sp (o.addr + 4 * w) 1).getD 0 0

/-- Words of a record in memory. -/
def memWord (s : State) (a : Nat) : Word := BitVec.ofNat 32 (memLe s a 4)

/-- The largest finite value of an update or scale format. -/
def fmtMax (f : Fmt) : Num := decodeElt f f.maxCode

/-- 2^k as an exact number. -/
def pow2 (k : Int) : Num := .fin false 1 k

/-- The largest integer e with a x 2^e at most a bound, within lo to hi; 0 when a is 0 (R292, R294). Of a value that is
not finite the spec states no exponent (log 45). -/
def scaleExp (x : Word) (bound : Num) (lo hi : Int) : Int :=
  let a := val x
  if a.isZero then 0
  else if !a.isFinite then max lo (min hi (Config.openExp x))
  else
    match (List.range (hi - lo + 1).toNat).find? (fun (k : Nat) => (a.scale (hi - (k : Int))).le bound) with
    | some k => hi - (k : Int)
    | none => lo

/-- The lowest fault of a training descriptor's fields. `x` gives the conditions of the operation. -/
def trnBad (d : BitVec 512) (res : List (Nat × Nat × Nat)) (x : List (Bool × Nat)) : Option Nat :=
  lowest (res.flatMap (fun q => resv d q.1 q.2.1 q.2.2) ++ x)

/-- Store bytes of a record, as the RVE's writes. -/
def storeMem (s : State) (r : Fin 8) (lid : BitVec 32) (a : Nat) (bs : List Byte) : State :=
  issue s (.rve r) lid a (fullMask bs)

/-- Whether the non-finite counts of UWR's two STATS records are not both 0 (R291). -/
def uwrNf (s : State) (r : Fin 8) (d : BitVec 512) : Bool :=
  statAt s r (tSrcA d) 2 ≠ 0 || statAt s r (tSrcB d) 2 ≠ 0

/-- The squared update-to-weight ratio (R291). -/
def uwrRho (s : State) (r : Fin 8) (d : BitVec 512) : Word :=
  let su := statAt s r (tSrcA d) 1
  let sw := statAt s r (tSrcB d) 1
  if uwrNf s r d then canonNan
  else if (val sw).isZero then (if (val su).isZero then 0 else posInf)
  else fmul su (recip sw)

/-- The FLAGS byte of a layer record: HI, NF, ZW (Table 6.7). -/
def uwrFlags (s : State) (r : Fin 8) (d : BitVec 512) : Nat :=
  let zw : Bool := !uwrNf s r d && (val (statAt s r (tSrcB d) 1)).isZero
  let th : Int := (BitVec.ofNat 8 (rfld s .rveTrncfg r.val 31 24)).toInt
  let hi : Bool := (pow2 th).lt (val (uwrRho s r d))
  hi.toNat + 2 * (uwrNf s r d).toNat + 4 * zw.toNat

/-- UWR's descriptor checks and its accesses. -/
def uwrBad (d : BitVec 512) : Option Nat :=
  trnBad d [(1, 3, 0), (24, 8, 0), (32, 4, 0), (36, 4, 0), (40, 2, 0), (42, 22, 0)]
    [(!ref23 d 8, 8), (!ref23 d 16, 16)]

def uwrRanges (s : State) (r : Fin 8) (d : BitVec 512) : List Range :=
  let a := layerAt s r (tIndex d)
  [rdR (tSrcA d) 16, rdR (tSrcB d) 16, memR false a 32, memR true a 16]

/-- A training descriptor: its checks in the order of Table 6.11, then its reads and what it does. -/
def trnRun (s : State) (r : Fin 8) (u : ListRun) (l : Launch) (i : Nat) (bad : Option Nat) (rec : Bool)
    (xs : List Range) (k : State) : State :=
  match bad with
  | some off => trnFault s r l.lid 1 off i u.idx
  | none =>
    if rec then trnFault s r l.lid 2 0 i u.idx
    else if xs.any (fun x => !x.ok s l) then trnFault s r l.lid 3 0 i u.idx
    else readsThen s r u l xs k

/-- The layer record that UWR leaves: RHO2, FLAGS and STEPS (R291). -/
def uwrStore (r : Fin 8) (l : Launch) (d : BitVec 512) (s0 : State) : State :=
  let a := layerAt s0 r (tIndex d)
  let s := storeMem s0 r l.lid a (toLe 4 (uwrRho s0 r d).toNat)
  let s := storeMem s r l.lid (a + 9) (toLe 1 (uwrFlags s0 r d))
  storeMem s r l.lid (a + 12) (toLe 4 (memWord s0 (a + 12) + 1).toNat)

/-- UWR (R291): computes the squared update-to-weight ratio into a layer record. -/
def uwr (r : Fin 8) (s : State) : State :=
  rveEntry s r 0x40 (fun u l d =>
    trnRun s r u l (tIndex d) (uwrBad d) (decide (nLayer s r ≤ tIndex d)) (uwrRanges s r d)
      (nextEntry (uwrStore r l d s) (.rve r)))

def execUwr (c : RgnCmd) (s : State) : Host.Outcome State Fault Refusal := .next (unitUpset s (.rve c.r) (· = 0x40) c.u (uwr c.r))

/-- LREXP's format, its descriptor checks and its accesses. -/
def tFmt (d : BitVec 512) : Option Fmt := Fmt.ofCode (fld d 2 1 % 16)

def lrexpBad (d : BitVec 512) : Option Nat :=
  trnBad d [(1, 1, 0), (2, 1, 0x0F), (3, 1, 7), (16, 8, 0), (32, 4, 0), (36, 4, 0), (40, 2, 0), (42, 22, 0)]
    [((tFmt d).isNone, 2), (!ref23 d 8, 8), (!ref23 d 24, 24)]

def lrexpRanges (s : State) (r : Fin 8) (d : BitVec 512) : List Range :=
  [rdR (tSrcA d) 16, wrR (tDst d) 8, memR true (layerAt s r (tIndex d) + 4) 5]

/-- The exponent offset of LREXP: the largest e with amax x 2^e at most MAX / 2^MARGIN (R292). -/
def lrexpExp (s : State) (r : Fin 8) (d : BitVec 512) : Int :=
  scaleExp (statAt s r (tSrcA d) 0) ((fmtMax ((tFmt d).getD .bf16)).scale (-(tMargin d : Int))) (-32) 31

/-- What LREXP leaves: AMAXU and EXP of the layer record, and the scale words 2^e and 2^-e (R292). -/
def lrexpStore (r : Fin 8) (l : Launch) (d : BitVec 512) (s0 : State) : State :=
  let e := lrexpExp s0 r d
  let s := storeMem s0 r l.lid (layerAt s0 r (tIndex d) + 4)
    (toLe 4 (statAt s0 r (tSrcA d) 0).toNat ++ toLe 1 (BitVec.ofInt 8 e).toNat)
  writeSp s (.rve r) l.lid r (tDst d).sp (tDst d).addr (fullMask (wordBytes [rnd (pow2 e), rnd (pow2 (-e))]))

/-- LREXP (R292): computes the exponent offset of an update and writes its scale words. -/
def lrexp (r : Fin 8) (s : State) : State :=
  rveEntry s r 0x41 (fun u l d =>
    trnRun s r u l (tIndex d) (lrexpBad d) (decide (nLayer s r ≤ tIndex d)) (lrexpRanges s r d)
      (nextEntry (lrexpStore r l d s) (.rve r)))

def execLrexp (c : RgnCmd) (s : State) : Host.Outcome State Fault Refusal := .next (unitUpset s (.rve c.r) (· = 0x41) c.u (lrexp c.r))

/-- HEAD and VALID of an amax record's STATE word (Table 6.7). -/
def amHead (w : Word) : Nat := getF w 3 0
def amValid (w : Word) : Nat := getF w 8 4

/-- AMXP's descriptor checks, its accesses, and the STATE word of the amax record it names. -/
def amxpBad (d : BitVec 512) : Option Nat :=
  trnBad d [(1, 3, 0), (16, 8, 0), (24, 8, 0), (32, 4, 0), (36, 4, 0), (40, 2, 0), (42, 22, 0)] [(!ref23 d 8, 8)]

def amxpRanges (s : State) (r : Fin 8) (d : BitVec 512) : List Range :=
  let a := amaxAt s r (tIndex d)
  [rdR (tSrcA d) 16, memR false a 72, memR true a 72]

def amState (s : State) (r : Fin 8) (d : BitVec 512) : Word := memWord s (amaxAt s r (tIndex d) + 64)

/-- Whether the record of AMXP or SPREP is outside the table or not a record (TRN_REC, R290). -/
def amRec (s : State) (r : Fin 8) (d : BitVec 512) : Bool :=
  decide (nAmax s r ≤ tIndex d) || decide (16 < amValid (amState s r d))

/-- The STATE word after a push: HEAD on by one modulo 16, VALID up to 16, NF sticky (R293). -/
def amPushed (s : State) (r : Fin 8) (d : BitVec 512) : Word :=
  let w := amState s r d
  let w' := setF (setF w 3 0 ((amHead w + 1) % 16)) 8 4 (min (amValid w + 1) 16)
  if statAt s r (tSrcA d) 2 ≠ 0 then setF w' 10 10 1 else w'

/-- The push of AMXP; a STATS record that counted no element pushes nothing (R293). -/
def amxpStore (r : Fin 8) (l : Launch) (d : BitVec 512) (s : State) : State :=
  let a := amaxAt s r (tIndex d)
  if statAt s r (tSrcA d) 3 = 0 then s
  else
    storeMem (storeMem s r l.lid (a + 4 * amHead (amState s r d)) (toLe 4 (statAt s r (tSrcA d) 0).toNat)) r l.lid
      (a + 64) (toLe 4 (amPushed s r d).toNat)

/-- AMXP (R293): pushes an amax value into an amax history record. -/
def amxp (r : Fin 8) (s : State) : State :=
  rveEntry s r 0x42 (fun u l d =>
    trnRun s r u l (tIndex d) (amxpBad d) (amRec s r d) (amxpRanges s r d)
      (nextEntry (amxpStore r l d s) (.rve r)))

def execAmxp (c : RgnCmd) (s : State) : Host.Outcome State Fault Refusal := .next (unitUpset s (.rve c.r) (· = 0x42) c.u (amxp c.r))

/-- The largest of the VALID entries written most recently (R294). -/
def amLargest (s : State) (a : Nat) (w : Word) : Word :=
  (List.range (amValid w)).foldl (fun m k =>
    let x := memWord s (a + 4 * ((amHead w + 15 - k) % 16))
    if flt m x then x else m) 0

/-- SPREP's format, its descriptor checks, whether it takes the probe (VALID 0, R295), and its accesses. -/
def spFmt (d : BitVec 512) : Fmt := if fld d 2 1 % 16 = 3 then .e5m2 else .e4m3

def sprepBad (d : BitVec 512) : Option Nat :=
  trnBad d [(1, 1, 0), (2, 1, 0x0F), (3, 1, 7), (16, 8, 0), (32, 4, 0), (36, 4, 0), (40, 2, 0), (42, 22, 0)]
    [(fld d 2 1 % 16 ≠ 2 && fld d 2 1 % 16 ≠ 3, 2), (!ref23 d 8, 8), (!ref23 d 24, 24)]

def spProbe (s : State) (r : Fin 8) (d : BitVec 512) : Bool := amValid (amState s r d) = 0

def sprepRanges (s : State) (r : Fin 8) (d : BitVec 512) : List Range :=
  let a := amaxAt s r (tIndex d)
  [wrR (tDst d) 4, memR false a 72, memR true (a + 64) 8] ++
    (if spProbe s r d then [rdR (tSrcA d) 16, Range.mk (tSrcA d).sp true ((tSrcA d).addr + 12) 4] else [])

/-- The exponent of the next scale (R294). -/
def sprepExp (s : State) (r : Fin 8) (d : BitVec 512) : Int :=
  let am := if spProbe s r d then statAt s r (tSrcA d) 0 else amLargest s (amaxAt s r (tIndex d)) (amState s r d)
  scaleExp am ((fmtMax (spFmt d)).scale (-(tMargin d : Int))) (-126) 127

/-- The STATE word that SPREP leaves: EXP, and FB when the probe was taken (R294, R295). -/
def spState (s : State) (r : Fin 8) (d : BitVec 512) : Word :=
  let w := setF (amState s r d) 23 16 (BitVec.ofInt 8 (sprepExp s r d)).toNat
  if spProbe s r d then setF w 9 9 1 else w

/-- What SPREP leaves: STATE, the scale word, and with the probe FBCOUNT and a cleared probe count (R294, R295). -/
def sprepStore (r : Fin 8) (l : Launch) (d : BitVec 512) (s0 : State) : State :=
  let a := amaxAt s0 r (tIndex d)
  let s := storeMem s0 r l.lid (a + 64) (toLe 4 (spState s0 r d).toNat)
  let s := writeSp s (.rve r) l.lid r (tDst d).sp (tDst d).addr (fullMask (wordBytes [rnd (pow2 (sprepExp s0 r d))]))
  if spProbe s0 r d then
    let s := storeMem s r l.lid (a + 68) (toLe 4 (memWord s0 (a + 68) + 1).toNat)
    let s := writeSp s (.rve r) l.lid r (tSrcA d).sp ((tSrcA d).addr + 12) (fullMask (toLe 4 0))
    cfld s .rveFbcnt r.val 31 0 1
  else s

/-- SPREP (R294, R295): derives the next delayed scale from the amax history, or from the probe; with neither it
raises AMAX_LOST (R296). -/
def sprep (r : Fin 8) (s : State) : State :=
  rveEntry s r 0x43 (fun u l d =>
    if (sprepBad d).isNone && !amRec s r d && (sprepRanges s r d).all (fun x => x.ok s l) &&
        !rangeWaits s (.rve r) l (sprepRanges s r d) && (rangeBad s l (sprepRanges s r d)).isNone && spProbe s r d && decide (statAt s r (tSrcA d) 3 = 0) then
      trnFault s r l.lid 4 0 (tIndex d) u.idx
    else trnRun s r u l (tIndex d) (sprepBad d) (amRec s r d) (sprepRanges s r d)
      (nextEntry (sprepStore r l d s) (.rve r)))

def execSprep (c : RgnCmd) (s : State) : Host.Outcome State Fault Refusal := .next (unitUpset s (.rve c.r) (· = 0x43) c.u (sprep c.r))

/-- GCVT's count, width, stream and format, its descriptor checks and its accesses. -/
def gN (d : BitVec 512) : Nat := fld d 32 4
def gWidth (d : BitVec 512) : Nat := fld d 36 4
def gStream (d : BitVec 512) : Nat := fld d 40 2

def gcvtBad (d : BitVec 512) : Option Nat :=
  let okF : Bool := match tFmt d with | some .bf16 | some .fp16 | some .e4m3 | some .e5m2 => true | _ => false
  trnBad d [(1, 1, 0), (2, 1, 0x0F), (3, 1, 0), (4, 4, 0), (16, 8, 0), (42, 22, 0)]
    [(!okF, 2), (!ref23 d 8, 8), (!ref23 d 24, 24), (gN d = 0, 32), (gWidth d = 0, 36), (0xFF00 ≤ gStream d, 40)]

def gcvtRanges (d : BitVec 512) : List Range :=
  [rdR (tSrcA d) (4 * gN d), wrR (tDst d) (((tFmt d).getD .bf16).bits / 8 * gN d)]

/-- The narrowed gradients (R273, Table 7.4). -/
def gcvtOut (s : State) (r : Fin 8) (l : Launch) (d : BitVec 512) : List Byte :=
  let f := (tFmt d).getD .bf16
  ((readWords s r (tSrcA d).sp (tSrcA d).addr (gN d)).zipIdx).flatMap (fun x =>
    toLe (f.bits / 8)
      (convert f (some (srWord (launchKey s l) l.step (gStream d) (x.2 / gWidth d) (x.2 % gWidth d))) x.1))

/-- GCVT (R273): narrows FP32 gradients with stochastic rounding (Table 7.4). -/
def gcvt (r : Fin 8) (s : State) : State :=
  rveEntry s r 0x44 (fun u l d =>
    if (s.regions[r]).rveOut && (gcvtBad d).isNone && (gcvtRanges d).all (fun x => x.ok s l) then
      tmbKat s (.rve r) l.lid (0xC0 + r.val) u.idx
    else trnRun s r u l 0 (gcvtBad d) false (gcvtRanges d)
      (rveGroup s r u l (tDst d).sp ((tFmt d).getD .bf16).bits [((tDst d).addr, gcvtOut s r l d)] id))

def execGcvt (c : RgnCmd) (s : State) : Host.Outcome State Fault Refusal := .next (unitUpset s (.rve c.r) (· = 0x44) c.u (gcvt c.r))

/-! ### Random variates (Table 7.5) -/

def vStream (d : BitVec 512) : Nat := fld d 28 2
def vCount (d : BitVec 512) : Nat := fld d 12 4
def vWidth (d : BitVec 512) : Nat := fld d 16 4
def vDst (d : BitVec 512) : OpRef := refAt d 32
def vFmt (d : BitVec 512) : Option Fmt := (Fmt.ofCode (fld d 2 1 % 16)).filter (fun f => f = .bf16 || f = .fp16 || f = .fp32)

/-- One element group of a random descriptor whose checks have passed, unless the Tumbler array is out of use (R336). -/
def draw (s : State) (r : Fin 8) (u : ListRun) (l : Launch) (d : BitVec 512) (e : Nat) (ws : List (Nat × List Byte)) : State :=
  if (s.regions[r]).rveOut then tmbKat s (.rve r) l.lid (0xC0 + r.val) u.idx
  else rveGroup s r u l (vDst d).sp e ws id

/-- The 2 KiB of mask area `a` of a BERN (R319, R322, R144). -/
def bernArea (key : BitVec 64) (step : BitVec 32) (d : BitVec 512) (a : Nat) : List Byte :=
  let tr := fld d 16 1 + 1
  let tc := fld d 17 1 + 1
  (List.range 128).flatMap (fun i => (List.range 16).map (fun c =>
    BitVec.ofNat 8 (((List.range 8).map (fun t =>
      let j := 8 * c + t
      if i < tr ∧ j < tc ∧
          fld d 20 2 ≤ bernField key step (vStream d) (fld d 4 4 + i) (fld d 8 4 + 128 * a + j)
      then 2 ^ t else 0)).sum)))

/-- BERN's descriptor checks. -/
def bernBad (d : BitVec 512) : Option Nat :=
  trnBad d [(1, 3, 0), (18, 2, 0), (22, 2, 0), (24, 4, 0), (30, 2, 0), (40, 24, 0)]
    [(fld d 8 4 % 128 ≠ 0, 8), (vCount d = 0, 12), (127 < fld d 16 1, 16), (127 < fld d 17 1, 17),
     (0xFF00 ≤ vStream d, 28), (!ref23 d 32, 32)]

/-- The mask areas that BERN writes, an element a bit (R319, R322). -/
def bernOut (s : State) (l : Launch) (d : BitVec 512) : List (Nat × List Byte) :=
  [((vDst d).addr, (List.range (vCount d)).flatMap (bernArea (launchKey s l) l.step d))]

/-- BERN (R319, R322): writes dropout mask tiles. -/
def bern (r : Fin 8) (s : State) : State :=
  rveEntry s r 0x48 (fun u l d =>
    match bernBad d with
    | some off => rndFault s r l.lid 1 off u.idx
    | none =>
      if !(wrR (vDst d) (2048 * vCount d)).ok s l then rndFault s r l.lid 2 0 u.idx
      else draw s r u l d 1 (bernOut s l d))

def execBern (r : Fin 8) (s : State) : Host.Outcome State Fault Refusal := .next (bern r s)

/-- The word of element `e` under a KIND (Table 7.4). -/
def variateWord (key : BitVec 64) (step : BitVec 32) (d : BitVec 512) (kind e : Nat) : BitVec 64 :=
  tumbler key (tmbCounter (vStream d) step (e / vWidth d) (e % vWidth d / 2) kind)

/-- Whether an element's column is odd. -/
def oddCol (d : BitVec 512) (e : Nat) : Bool := e % vWidth d % 2 = 1

/-- Checks shared by UNIF and GAUS. -/
def vecBad (d : BitVec 512) : Option Nat :=
  trnBad d [(1, 1, 0), (2, 1, 0x0F), (3, 1, 0), (8, 4, 0), (30, 2, 0), (40, 24, 0)]
    [((vFmt d).isNone, 2), (vCount d = 0, 12), (vWidth d = 0, 16), (0xFF00 ≤ vStream d, 28), (!ref23 d 32, 32)]

/-- The bytes of an element of a variate destination. -/
def vElt (d : BitVec 512) : Nat := ((vFmt d).getD .bf16).bits / 8

/-- Elements E0 to E0 + COUNT - 1, formed by `f` and converted (R320, R323). -/
def vecOut (l : Launch) (d : BitVec 512) (f : BitVec 512 → Launch → Nat → Word) : List (Nat × List Byte) :=
  [((vDst d).addr, (List.range (vCount d)).flatMap (fun t =>
    toLe (vElt d) (convert ((vFmt d).getD .bf16) none (f d l (fld d 4 4 + t)))))]

/-- UNIF and GAUS. -/
def variates (r : Fin 8) (s : State) (op : Nat) (f : BitVec 512 → Launch → Nat → Word) : State :=
  rveEntry s r op (fun u l d =>
    match vecBad d with
    | some off => rndFault s r l.lid 1 off u.idx
    | none =>
      if !(wrR (vDst d) (vElt d * vCount d)).ok s l then rndFault s r l.lid 2 0 u.idx
      else draw s r u l d (8 * vElt d) (vecOut l d f))

/-- A binary32 field of a descriptor. -/
def wordAt (d : BitVec 512) (b : Nat) : Word := BitVec.ofNat 32 (fld d b 4)

/-- UNIF (R320): writes uniform variates. -/
def unifElt (s : State) (d : BitVec 512) (l : Launch) (e : Nat) : Word :=
  let u := uniform (variateWord (launchKey s l) l.step d 2 e) (oddCol d e)
  fadd (wordAt d 20) (fmul u (fsub (wordAt d 24) (wordAt d 20)))

def execUnif (r : Fin 8) (s : State) : Host.Outcome State Fault Refusal := .next (variates r s 0x49 (unifElt s))

/-- GAUS (R320): writes Gaussian variates. -/
def gausElt (s : State) (d : BitVec 512) (l : Launch) (e : Nat) : Word :=
  let z := gaussian (variateWord (launchKey s l) l.step d 3 e) (oddCol d e)
  fadd (wordAt d 20) (fmul (wordAt d 24) z)

def execGaus (r : Fin 8) (s : State) : Host.Outcome State Fault Refusal := .next (variates r s 0x4A (gausElt s))

/-- SEED and RSTEP of a roster entry (Table 9.2). -/
def roSeed (x : BitVec 512) : BitVec 64 := BitVec.ofNat 64 (fld x 8 8)
def roStep (x : BitVec 512) : BitVec 32 := BitVec.ofNat 32 (fld x 16 4)

/-- NOISE's descriptor checks, its requests and where the noise of request `q` goes. -/
def noiseBad (d : BitVec 512) : Option Nat :=
  trnBad d [(1, 1, 0), (2, 1, 0x0F), (3, 1, 0), (4, 8, 0), (20, 8, 0), (30, 1, 0x3F), (31, 1, 0), (44, 20, 0)]
    [((vFmt d).isNone, 2), (vWidth d = 0, 16), (0xFF00 ≤ vStream d, 28), (!ref23 d 32, 32)]

def noiseSlot (l : Launch) (d : BitVec 512) : Option Nat :=
  (l.slot (fld d 30 1 % 64)).filter (fun n => n ≤ l.roster.length)

def noiseAt (d : BitVec 512) (q : Nat) : Nat := (vDst d).addr + q * (fld d 40 4 * 64)

/-- The noise of each request, from its seed and step (R324). -/
def noiseOut (l : Launch) (d : BitVec 512) (n : Nat) : List (Nat × List Byte) :=
  ((l.roster.take n).zipIdx).map (fun q =>
    (noiseAt d q.2, (List.range (vCount d)).flatMap (fun t =>
      let z := gaussian (variateWord (roSeed q.1) (roStep q.1) d 4 t) (oddCol d t)
      toLe (vElt d) (convert ((vFmt d).getD .bf16) none (fadd 0 (fmul one32 z))))))

/-- NOISE (R324): writes per-request Gaussian noise keyed on each request's seed and step. -/
def noise (r : Fin 8) (s : State) : State :=
  rveEntry s r 0x4B (fun u l d =>
    match noiseBad d, noiseSlot l d with
    | some off, _ => rndFault s r l.lid 1 off u.idx
    | none, none => rndFault s r l.lid 3 0 u.idx
    | none, some n =>
      if (List.range n).any (fun q => !(Range.mk (vDst d).sp true (noiseAt d q) (vElt d * vCount d)).ok s l) then
        rndFault s r l.lid 2 0 u.idx
      else draw s r u l d (8 * vElt d) (noiseOut l d n))

def execNoise (r : Fin 8) (s : State) : Host.Outcome State Fault Refusal := .next (noise r s)

/-! ### Reductions (Table 8.1) -/

def rArrive (d : BitVec 512) : Bool := fld d 1 1 / 2 % 2 = 1
def rSig (d : BitVec 512) : Bool := fld d 1 1 / 4 % 2 = 1
def rSrc (d : BitVec 512) : OpRef := refAt d 16
def rDst (d : BitVec 512) : OpRef := refAt d 24

/-- Whether a bit of the launch's RELAX mask is set (R361). -/
def relaxed (l : Launch) (bit : Nat) : Bool := l.fld 8 2 / 2 ^ bit % 2 = 1

/-- The signal of a reduction descriptor (R354). -/
def redSig (s : State) (r : Fin 8) (u : ListRun) (l : Launch) (d : BitVec 512) : State :=
  if rSig d then askFlag s (.rve r) l.lid u.idx r (Fin.ofNat 64 (fld d 3 1)) 1 else s

/-- The first partial of a TADD with WAIT that is not ready (R349). -/
def notReady (s : State) (r : Fin 8) (d : BitVec 512) : Option (Fin 64) :=
  if fld d 1 1 % 2 = 0 then none
  else ((List.range (fld d 4 4)).map (fun i => Fin.ofNat 64 (fld d 2 1 % 64 + i))).find?
    (fun f => flagVal s r f < fld d 12 4)

/-- The sum of partials in the order given (R350); under COMPAT each sum is flushed (R302). -/
def orderSum (compat : Bool) (ps : List (List Word)) : List Word :=
  match ps with
  | [] => []
  | p :: rest => rest.foldl (fun a x => List.zipWith (fun x y => cf compat (combineF x y)) a x) p

/-- The sum of partials in the canonical tree (R348), or left to right and flushed under COMPAT (R302). -/
def treeSum (s : State) (ps : List (List Word)) : List Word :=
  if isCompat s then orderSum true ps
  else
    let st := ps.foldl (fun (st : List (Nat × List (List Word))) p => (pushNode .float false 32 st (1, [p])).1) []
    ((rootNode .float false st).1).getD 0 []

/-- Arrivals, each with its management cycle, in groups of the sizes `cycles`, each group those of one fabric cycle of one such cycle
and so in ascending index; what the sizes do not reach arrived one by one (R350). -/
def byCycles : List Nat → List (Nat × Nat) → List Nat
  | [], xs => xs.map (·.1)
  | n :: ns, xs =>
    let g := (xs.take n).takeWhile (fun x => some x.2 = (xs.head?).map (·.2))
    g.foldl (fun a x => insertNat x.1 a) [] ++ byCycles ns (xs.drop g.length)

/-- The order in which a TADD takes its partials: that in which they became ready while it waited, those of one fabric cycle
ascending; all of them ready at its start, in one cycle, ascending (R350, log 147). -/
def taOrder (u : ListRun) (cycles : List Nat) (n : Nat) : List Nat :=
  if u.ready.length = n then byCycles cycles u.ready else List.range n

/-- TADD's count of partials, of elements, whether it waits, its descriptor checks and its accesses. -/
def taN (d : BitVec 512) : Nat := fld d 4 4
def taCnt (d : BitVec 512) : Nat := fld d 8 4
def taWait (d : BitVec 512) : Bool := fld d 1 1 % 2 = 1

def taddBad (l : Launch) (d : BitVec 512) : Option Nat :=
  trnBad d [(1, 1, 7), (2, 1, 0x3F), (3, 1, 0x3F), (36, 4, 0), (40, 8, 0), (48, 16, 0)]
    [(rArrive d && !relaxed l 1, 1), (taWait d && decide (64 < fld d 2 1 % 64 + taN d), 2), (taN d = 0 || 64 < taN d, 4),
     (taCnt d = 0, 8), (!ref23 d 16, 16), (!ref23 d 24, 24)]

def taAt (d : BitVec 512) (i : Nat) : Nat := (rSrc d).addr + i * (fld d 32 4 * 64)

def taddRanges (d : BitVec 512) : List Range :=
  (List.range (taN d)).map (fun i => Range.mk (rSrc d).sp false (taAt d i) (4 * taCnt d)) ++ [wrR (rDst d) (4 * taCnt d)]

/-- The words of partial `i`, and the sum that TADD forms of all (R348, R350). -/
def taPart (s : State) (r : Fin 8) (d : BitVec 512) (i : Nat) : List Word :=
  readWords s r (rSrc d).sp (taAt d i) (taCnt d)

def taSum (s : State) (r : Fin 8) (d : BitVec 512) (o : List Nat) : List Word :=
  if rArrive d then orderSum (isCompat s) (o.map (taPart s r d)) else treeSum s ((List.range (taN d)).map (taPart s r d))

/-- The words that TADD writes; with ARRIVE no stop falls between them (R348, Table 9.4). -/
def taddRun (cycles : List Nat) (s : State) (r : Fin 8) (u : ListRun) (l : Launch) (d : BitVec 512) : State :=
  let bs := wordBytes (taSum s r d (taOrder u cycles (taN d)))
  if rArrive d then
    nextEntry (redSig (writeSp s (.rve r) l.lid r (rDst d).sp (rDst d).addr (fullMask bs)) r u l d) (.rve r)
  else rveGroup s r u l (rDst d).sp 32 [((rDst d).addr, bs)] (fun t => redSig t r u l d)

/-- TADD (R348-R350): combines partials in the canonical tree, or in the order they became ready when ARRIVE is set; `cycles` says
how many became ready in each fabric cycle. -/
def tadd (r : Fin 8) (cycles : List Nat) (s : State) : State :=
  rveEntry s r 0x4C (fun u l d =>
    match taddBad l d with
    | some off => redFault s r l.lid 1 off u.idx
    | none =>
      if (taddRanges d).any (fun x => !x.ok s l) then redFault s r l.lid 2 0 u.idx
      else
        match (notReady s r d).filter (fun _ => u.part = 0) with
        | some f => noteReady (beginWait s (.rve r) l r f (fld d 12 4)) r
        | none => readsThen s r u l (taddRanges d) (taddRun cycles s r u l d))

/-- TADD also ends its wait for a partial once the flag has reached the target (R226, R349). -/
def execTadd (c : RgnCmd) (cycles : List Nat) (s : State) : Host.Outcome State Fault Refusal :=
  .next (unitUpset (endWait s (.rve c.r)) (.rve c.r) (· = 0x4C) c.u (tadd c.r cycles))

/-- SADD's row count and width, its destination rows, its descriptor checks and its accesses. -/
def saN (d : BitVec 512) : Nat := fld d 4 4
def saW (d : BitVec 512) : Nat := fld d 8 4
def saD0 (d : BitVec 512) : Nat := fld d 32 4
def saDn (d : BitVec 512) : Nat := fld d 36 4
def saIx (d : BitVec 512) : OpRef := refAt d 40

def saddBad (l : Launch) (d : BitVec 512) : Option Nat :=
  trnBad d [(1, 1, 6), (2, 1, 0), (3, 1, 0x3F), (48, 16, 0)]
    [(rArrive d && !relaxed l 0, 1), (saN d = 0, 4), (saW d = 0 || 65536 < saW d, 8), (!ref23 d 16, 16),
     ((rSrc d).stride = 0, 16), (!ref23 d 24, 24), ((rDst d).stride = 0, 24), (saDn d = 0, 36), (!ref23 d 40, 40)]

def saSrow (d : BitVec 512) (i : Nat) : Nat := (rSrc d).addr + i * (rSrc d).stride * 64
def saDrow (d : BitVec 512) (k : Nat) : Nat := (rDst d).addr + k * (rDst d).stride * 64

def saddRanges (d : BitVec 512) : List Range :=
  [Range.mk (saIx d).sp false (saIx d).addr (4 * saN d)] ++
  (List.range (saN d)).map (fun i => Range.mk (rSrc d).sp false (saSrow d i) (4 * saW d)) ++
  (List.range (saDn d)).flatMap (fun k =>
    [Range.mk (rDst d).sp false (saDrow d (saD0 d + k)) (4 * saW d),
     Range.mk (rDst d).sp true (saDrow d (saD0 d + k)) (4 * saW d)])

/-- The source rows that go to destination row `k`, in ascending index (R351, R352). -/
def saRows (s : State) (r : Fin 8) (d : BitVec 512) (k : Nat) : List Nat :=
  (((readWords s r (saIx d).sp (saIx d).addr (saN d)).map (·.toNat)).zipIdx).filterMap
    (fun x => if x.1 = k then some x.2 else none)

/-- Destination row `k` after the source rows `rows` are added to its current value one by one (R351). -/
def saVal (s : State) (r : Fin 8) (d : BitVec 512) (rows : List Nat) (k : Nat) : List Word :=
  rows.foldl (fun a i => List.zipWith combineF a (readWords s r (rSrc d).sp (saSrow d i) (saW d)))
    (readWords s r (rDst d).sp (saDrow d k) (saW d))

/-- The destination rows that some source row names, each written once (R351). -/
def saddOut (s : State) (r : Fin 8) (d : BitVec 512) : List (Nat × List Byte) :=
  ((List.range (saDn d)).map (saD0 d + ·)).filterMap (fun k =>
    if saRows s r d k = [] then none else some (saDrow d k, wordBytes (saVal s r d (saRows s r d k) k)))

/-- The destination row that source row `i` names, if it is one of the descriptor's. -/
def saDest (s : State) (r : Fin 8) (d : BitVec 512) (i : Nat) : Option Nat :=
  let k := ((readWords s r (saIx d).sp (saIx d).addr (saN d)).getD i 0).toNat
  if k < saD0 d ∨ saD0 d + saDn d ≤ k then none else some k

/-- Source row `i` is added into its destination row, if it names one in range: a read-modify-write of its own at the row's home, so
that it counts as accepted (R352). -/
def saddRow (s : State) (r : Fin 8) (l : Launch) (d : BitVec 512) (i : Nat) : State :=
  match saDest s r d i with
  | none => s
  | some k =>
    let v := wordBytes (saVal s r d [i] k)
    if (rDst d).sp = .mem then putMem s (saDrow d k) v (.rve r) l.lid l.job
    else writeSp s (.rve r) l.lid r (rDst d).sp (saDrow d k) (fullMask v)

/-- What the addition of source row `i` reads: its index, the row, and the destination row (R352). -/
def saddReads (s : State) (r : Fin 8) (d : BitVec 512) (i : Nat) : List Range :=
  Range.mk (saIx d).sp false ((saIx d).addr + 4 * i) 4 ::
  match saDest s r d i with
  | none => []
  | some k => [Range.mk (rSrc d).sp false (saSrow d i) (4 * saW d), Range.mk (rDst d).sp false (saDrow d k) (4 * saW d)]

/-- Whether the read-modify-write of that addition finds no place yet at the row's home (R410, R449). -/
def saddWaits (s : State) (r : Fin 8) (l : Launch) (d : BitVec 512) (i : Nat) : Bool :=
  (rDst d).sp = .mem && (saDest s r d i).any (fun k => !writeReady s (.rve r) (saDrow d k) (4 * saW d) l.job)

/-- What SADD does at a time: with ARRIVE one addition, else one element group of the rows it writes (R351, R352, R354). -/
def saddRun (s : State) (r : Fin 8) (u : ListRun) (l : Launch) (d : BitVec 512) : State :=
  if rArrive d then
    if saddWaits s r l d u.part then s
    else
      let t := saddRow s r l d u.part
      if u.part + 1 < saN d then nextPart t (.rve r) else nextEntry (redSig t r u l d) (.rve r)
  else rveGroup s r u l (rDst d).sp 32 (saddOut s r d) (fun t => redSig t r u l d)

/-- What a command of an SADD reads: with ARRIVE what its one addition does, else what all of them do. -/
def saddNow (s : State) (r : Fin 8) (u : ListRun) (d : BitVec 512) : List Range :=
  if rArrive d then saddReads s r d u.part else (List.range (saN d)).flatMap (saddReads s r d)

/-- SADD (R351, R352): scatter-adds source rows into destination rows, in ascending source index. With ARRIVE each command makes one
addition, so that those of other engines may come between. -/
def sadd (r : Fin 8) (s : State) : State :=
  rveEntry s r 0x4D (fun u l d =>
    match saddBad l d with
    | some off => redFault s r l.lid 1 off u.idx
    | none =>
      if (saddRanges d).any (fun x => !x.ok s l) then redFault s r l.lid 2 0 u.idx
      else readsThen s r u l (saddNow s r u d) (saddRun s r u l d))

def execSadd (c : RgnCmd) (s : State) : Host.Outcome State Fault Refusal := .next (unitUpset s (.rve c.r) (· = 0x4D) c.u (sadd c.r))

end Sys2Proof.Machine
end

