-- ==== Sys2Proof/Machine/Sampler.lean ====
section
/-! DEFINITION. The token sampler of a half (07_tumbler_sampling.md, R326-R332, R336). -/

namespace Sys2Proof.Machine

/-! ### The descriptor (Table 7.6) -/

def sFp32 (d : BitVec 512) : Bool := fld d 1 1 % 2 = 1
def sV (d : BitVec 512) : Nat := fld d 8 4
def sSrc (d : BitVec 512) : OpRef := refAt d 16
def sPrm (d : BitVec 512) : OpRef := refAt d 24
def sRes (d : BitVec 512) : OpRef := refAt d 32
def sStream (d : BitVec 512) : Nat := fld d 40 2
def sRows (l : Launch) (d : BitVec 512) : Nat := extAt l d 4

/-- The region whose buffer a reference of the descriptor names with SPACE 2 (log 42). -/
def sRgn (d : BitVec 512) (b : Nat) (h : Fin 2) : Fin 8 := Config.halfRegion d (BitVec.ofNat 64 (fld d b 8)) h

/-- A ROWS word with S = 1 must name a defined slot whose value is within the plan extent (R106, R122). -/
def extBad (l : Launch) (x : Nat) : Bool :=
  x / 2 ^ 30 % 2 = 1 ||
  (x / 2 ^ 31 % 2 = 1 && (match l.slot (x / 2 ^ 24 % 64) with | none => true | some v => decide (x % 2 ^ 24 < v)))

/-- SMP_DESC: the lowest offset of a field at fault (R332, log 41). -/
def smpBad (l : Launch) (d : BitVec 512) : Option Nat :=
  lowest (([
    (fld d 0 1 ≠ 0x50, 0), (extra d 1 1 1, 1), (extra d 2 1 0x87, 2), (extra d 3 1 0x3F, 3), (extBad l (fld d 4 4), 4),
    (sV d = 0 || 262144 < sV d, 8), (!ref23 d 16, 16), (!ref23 d 24, 24), (!ref23 d 32, 32), (0xFF00 ≤ sStream d, 40),
    (extra d 42 1 0x87, 42), (extra d 43 1 0x3F, 43)] : List (Bool × Nat)) ++ resv d 45 19 0)

/-- Bytes of a logit, the byte of a row of logits, and the ranges a descriptor touches. -/
def sElt (d : BitVec 512) : Nat := if sFp32 d then 4 else 2
def sRowAt (d : BitVec 512) (i : Nat) : Nat := (sSrc d).addr + i * (sSrc d).stride * 64

def smpRanges (l : Launch) (d : BitVec 512) : List Range :=
  (List.range (sRows l d)).map (fun i => Range.mk (sSrc d).sp false (sRowAt d i) (sElt d * sV d)) ++
  [rdR (sPrm d) (16 * sRows l d), wrR (sRes d) (16 * sRows l d)]

/-- A sampler fault: SMP_DESC 1, SMP_BOUND 2 (R332, Table 7.13). -/
def smpFault (s : State) (h : Fin 2) (lid : BitVec 32) (code off idx : Nat) : State :=
  let v := setF (setF (setF (setF (rreg s .smpFault h.val) 31 31 1) 30 28 code) 27 22 off) 7 0 idx
  unitHalt (wreg s .smpFault h.val v) (.smp h) lid (0x3800 + code) idx v.toNat

/-- Reading the current descriptor of a sampler list. Bytes that do not exist are SMP_BOUND (R332). -/
def smpEntry (s : State) (h : Fin 2) (k : ListRun → Launch → BitVec 512 → State) : State :=
  match active s (.smp h) with
  | none => s
  | some (u, l) =>
    if !entryThere s u then smpFault s h l.lid 2 0 u.idx
    else
      match firstBad s (u.base + 64 * u.idx) 64 l.job with
      | some bad => unitMemHalt s (.smp h) l.lid u.idx bad
      | none => k u l (entryAt s u)

/-- SAMPLE (R326, R331, R332): the sampler starts a SAMPLE descriptor, once its checks pass and its flag is there. -/
def sampleStart (h : Fin 2) (s : State) : State :=
  smpEntry s h (fun u l d =>
    if fld d 0 1 = 0x3F ∨ (s.halves[h]).smpRow.isSome then s
    else
      match smpBad l d with
      | some off => smpFault s h l.lid 1 off u.idx
      | none =>
        match (smpRanges l d).findIdx? (fun x => !x.ok s l) with
        | some i =>
          let off := if i < sRows l d then 16 else if i = sRows l d then 24 else 32
          smpFault s h l.lid 2 off u.idx
        | none =>
          let r : Fin 8 := Fin.ofNat 8 (fld d 2 1)
          let f : Fin 64 := Fin.ofNat 64 (fld d 3 1)
          if fld d 2 1 / 128 = 1 ∧ flagVal s r f < fld d 12 4 then beginWait s (.smp h) l r f (fld d 12 4)
          else modHalf s h (fun g => { g with smpRow := some 0 }))

/-- SAMPLE also ends the wait of the descriptor once its flag has reached the target (R226, R331). -/
def execSample (h : Fin 2) (s : State) : Host.Outcome State Fault Refusal := .next (sampleStart h (endWait s (.smp h)))

/-! ### One row (R327, R328) -/

/-- Insert an index into a candidate list: descending scaled value, lower index first. -/
def candInsert (x : Nat × Word) : List (Nat × Word) → List (Nat × Word)
  | [] => [x]
  | y :: ys => if flt y.2 x.2 then x :: y :: ys else y :: candInsert x ys

/-- The non-excluded indices in candidate order, with their scaled values. -/
def candOrder (xs : List (Nat × Word)) : List (Nat × Word) := xs.foldl (fun a x => candInsert x a) []

/-- Partial sums c[j] of a list, from +0, one rounding each. -/
def prefixSums : Word → List Word → List Word
  | _, [] => []
  | a, x :: xs => let b := fadd a x; b :: prefixSums b xs

structure RowOut where
  token : Nat
  prob : Word
  nkept : Nat
  flags : Nat
  deriving DecidableEq, Repr

def rowNone (flags : Nat) : RowOut := { token := none32, prob := 0, nkept := 0, flags := flags }

/-- The lowest index of the largest logit, NaN excluded. -/
def greedyBest (xs : List (Nat × Word)) : Option (Nat × Word) :=
  xs.foldl (fun m x => match m with | none => some x | some y => if flt y.2 x.2 then some x else some y) none

/-- Candidates that the passes of a row with TOPK 0 examine: 1,024 of the first pass and 1,024 of each further pass,
up to MAXP, stopping once a partial sum reaches t (R329). -/
def examined (t : Word) (cs : List Word) (maxp : Nat) : Nat :=
  match (List.range (maxp + 1)).find? (fun p => (cs.take (1024 * (p + 1))).any (fun c => !flt c t && !isNanW c)) with
  | some p => min cs.length (1024 * (p + 1))
  | none => min cs.length (1024 * (maxp + 1))

/-- The result of a row: `x` its logits, `tm`, `k`, `p` its parameters, `u0` its draw (R328, R329). -/
def sampleRow (x : List Word) (tm : Word) (k : Nat) (p : Word) (maxp : Nat) (u0 : Word) : RowOut :=
  let all := (x.zipIdx).map (fun a => (a.2, a.1))
  let ok := all.filter (fun a => !isNanW a.2)
  let nan := if ok.length < all.length then 4 else 0
  if (val tm).isZero then
    match greedyBest ok with
    | none => rowNone (0x10 + 1 + nan)
    | some b => { token := b.1, prob := one32, nkept := 1, flags := 1 + nan }
  else
    let g := fmul cLog2e (recip tm)
    let sc := ok.map (fun a => (a.1, fmul a.2 g))
    let sc' := sc.filter (fun a => !isNanW a.2)
    let cand := candOrder sc'
    let cand := if 0 < k then cand.take k else cand
    match cand with
    | [] => rowNone (0x10 + nan)
    | c0 :: _ =>
      if c0.2 = posInf then { token := c0.1, prob := one32, nkept := 1, flags := 2 + nan }
      else if c0.2 = negInf then rowNone (0x10 + nan)
      else
        let m := c0.2
        let e := cand.map (fun a => exp2 (fsub a.2 m))
        let c := prefixSums 0 e
        let len := if 0 < k then (c.getLast?).getD 0
          else (sc'.map (fun a => exp2 (fsub a.2 m))).foldl fadd 0
        let t := fmul p len
        let n := if 0 < k then c.length else examined t c maxp
        let hit := (c.take n).findIdx? (fun y => !flt y t && !isNanW y)
        let j := hit.getD (n - 1)
        let trunc := if hit.isNone ∧ k = 0 then 8 else 0
        let target := fmul u0 (c.getD j 0)
        let js := ((c.take (j + 1)).findIdx? (fun y => flt target y)).getD j
        { token := ((cand.getD js (0, 0)).1), prob := fmul (e.getD js 0) (recip (c.getD j 0)), nkept := j + 1,
          flags := trunc + nan }

/-- Whether a row's parameters are refused (R327). -/
def rowParamBad (l : Launch) (tm : Word) (k : Nat) (p : Word) (ridx : Nat) : Bool :=
  (flt tm 0 || !isFinW tm) || decide (1024 < k) || !(flt 0 p && (val p).le (val one32)) ||
    decide (l.roster.length ≤ ridx)

/-- The result record (Table 7.7). -/
def rowBytes7 (o : RowOut) : List Byte := toLe 4 o.token ++ toLe 4 o.prob.toNat ++ toLe 4 o.nkept ++ toLe 4 o.flags

/-- The logits of a row as binary32. -/
def rowLogits (s : State) (h : Fin 2) (d : BitVec 512) (i : Nat) : List Word :=
  let e := sElt d
  let bs := readSp s (sRgn d 16 h) (sSrc d).sp (sRowAt d i) (e * sV d)
  (List.range (sV d)).map (fun j =>
    if sFp32 d then BitVec.ofNat 32 (leAt bs (4 * j) 4) else BitVec.ofNat 32 (leAt bs (2 * j) 2 * 65536))

/-- After the last row: the signal, and the next descriptor (R331). -/
def smpDone (s : State) (h : Fin 2) (l : Launch) (idx : Nat) (d : BitVec 512) : State :=
  let s := if fld d 42 1 / 128 = 1 then
      askFlag s (.smp h) l.lid idx (Fin.ofNat 8 (fld d 42 1)) (Fin.ofNat 64 (fld d 43 1)) 1 else s
  nextEntry (modHalf s h (fun g => { g with smpRow := none })) (.smp h)

/-- SAMPLER_ROW (R328, R330): selects a token for the next row, once the record of the row before is accepted, and writes its
result record. A row that draws a word on a
unit out of use raises TMB_KAT (R336). -/
def samplerRow (h : Fin 2) (s : State) : State :=
  smpEntry s h (fun u l d =>
    match (s.halves[h]).smpRow with
    | none => s
    | some i =>
      if sRows l d ≤ i then smpDone s h l u.idx d
      else if storesWait s (.smp h) then s
      else
        let prm := readSp s (sRgn d 24 h) (sPrm d).sp ((sPrm d).addr + 16 * i) 16
        let tm : Word := BitVec.ofNat 32 (leAt prm 0 4)
        let k := leAt prm 4 4
        let p : Word := BitVec.ofNat 32 (leAt prm 8 4)
        let ridx := leAt prm 12 2
        let req := l.roster.getD ridx 0
        let rd := [Range.mk (sPrm d).sp false ((sPrm d).addr + 16 * i) 16,
          Range.mk (sSrc d).sp false (sRowAt d i) (sElt d * sV d)]
        if rangeWaits s (.smp h) l rd then s
        else
        match rangeBad s l rd with
        | some x => unitMemHalt s (.smp h) l.lid u.idx x
        | none =>
          let pb := rowParamBad l tm k p ridx
          if !pb && !(val tm).isZero && (s.halves[h]).smpOut then tmbKat s (.smp h) l.lid (0xC8 + h.val) u.idx
          else
            let w := tumbler (roSeed req) (tmbCounter (sStream d) (roStep req) (leAt prm 14 2) 0 5)
            let o := if pb then rowNone 0x20
              else sampleRow (rowLogits s h d i) tm k p (fld d 44 1) (uniform w false)
            let s := if o.flags / 8 % 2 = 1 then cfld s .smpStat h.val 15 0 1 else s
            let s := writeSp s (.smp h) l.lid (sRgn d 32 h) (sRes d).sp ((sRes d).addr + 16 * i)
              (fullMask (rowBytes7 o))
            if i + 1 = sRows l d then smpDone s h l u.idx d
            else modHalf s h (fun g => { g with smpRow := some (i + 1) }))

def execSamplerRow (c : HalfCmd) (s : State) : Host.Outcome State Fault Refusal := .next (unitUpset s (.smp c.h) (fun _ => (s.halves[c.h]).smpRow.isSome) c.u (samplerRow c.h))

/-- SMP_END (R326): the sampler stops at an END descriptor. -/
def execSmpEnd (h : Fin 2) (s : State) : Host.Outcome State Fault Refusal :=
  .next (smpEntry s h (fun _ _ d =>
    if fld d 0 1 = 0x3F then modRun s (.smp h) (fun u => { u with finished := true }) else s))

end Sys2Proof.Machine
end

