-- ==== Sys2Proof/Machine/Sce.lean ====
section
/-! DEFINITION. The shallow-channel engine of a region (05_convolution_vae.md, R233-R247). -/

namespace Sys2Proof.Machine

/-! ### The descriptor (Table 5.9) -/

/-- The formats an SCE descriptor may name. -/
def sceFmt (c : Nat) : Option Fmt :=
  match c with
  | 0 => some .bf16
  | 1 => some .fp16
  | 7 => some .fp32
  | _ => none

structure SceDesc where
  up2 : Bool
  bias : Bool
  silu : Bool
  fin : Fmt
  fw : Fmt
  lin : Nat
  lout : Nat
  ih : Nat
  iw : Nat
  cin : Nat
  cout : Nat
  fh : Nat
  fwd : Nat
  sh : Nat
  sw : Nat
  pt : Nat
  pl : Nat
  pb : Nat
  pr : Nat
  src : OpRef
  dst : OpRef
  wgt : OpRef
  spl : Nat
  dpl : Nat
  oy0 : Nat
  oyn : Nat
  deriving DecidableEq, Repr

def sceOf (d : BitVec 512) : SceDesc :=
  let n (b : Nat) : Nat := fld d b 1
  { up2 := n 1 % 2 = 1, bias := n 1 / 2 % 2 = 1, silu := n 1 / 4 % 2 = 1,
    fin := (sceFmt (n 2 % 16)).getD .bf16, fw := (sceFmt (n 2 / 16)).getD .bf16,
    lin := n 3 % 4, lout := n 3 / 16 % 4, ih := fld d 4 2, iw := fld d 6 2, cin := fld d 8 2, cout := fld d 10 2,
    fh := n 12 % 16, fwd := n 12 / 16, sh := n 13 % 16, sw := n 13 / 16, pt := n 14 % 16, pl := n 14 / 16,
    pb := n 15 % 16, pr := n 15 / 16, src := refAt d 16, dst := refAt d 24, wgt := refAt d 32,
    spl := fld d 40 4, dpl := fld d 44 4, oy0 := fld d 48 2, oyn := fld d 50 2 }

/-- Input height and width as treated (R237). -/
def SceDesc.ihx (c : SceDesc) : Nat := if c.up2 then 2 * c.ih else c.ih
def SceDesc.iwx (c : SceDesc) : Nat := if c.up2 then 2 * c.iw else c.iw

/-- Output height and width (R237). -/
def SceDesc.oh (c : SceDesc) : Nat := if c.fh ≤ c.ihx + c.pt + c.pb then (c.ihx + c.pt + c.pb - c.fh) / c.sh + 1 else 0
def SceDesc.ow (c : SceDesc) : Nat := if c.fwd ≤ c.iwx + c.pl + c.pr then (c.iwx + c.pl + c.pr - c.fwd) / c.sw + 1 else 0

/-- K of R236. -/
def SceDesc.k (c : SceDesc) : Nat := c.fh * c.fwd * c.cin

/-- Pitch of the weight rows, and where the biases begin (R236). -/
def SceDesc.wpitch (c : SceDesc) : Nat := upTo (c.k * (c.fw.bits / 8)) 64
def SceDesc.biasAt (c : SceDesc) : Nat := upTo (c.wgt.addr + c.cout * c.wpitch) 64

/-- Bytes of weights and biases. -/
def SceDesc.wbytes (c : SceDesc) : Nat := c.cout * c.wpitch + (if c.bias then 4 * c.cout else 0)

/-- SCE_DESC: the lowest offset of a field at fault (R238, log 41). -/
def sceDescBad (d : BitVec 512) : Option Nat :=
  let c := sceOf d
  let n (b : Nat) : Nat := fld d b 1
  let out (x lo hi : Nat) : Bool := x < lo || decide (hi < x)
  lowest (([
    (n 0 ≠ 1, 0), (extra d 1 1 7, 1), ((sceFmt (n 2 % 16)).isNone || (sceFmt (n 2 / 16)).isNone, 2),
    (c.lin = 3 || extra d 3 1 0x33, 3), (out c.ih 1 16384, 4), (out c.iw 1 16384, 6), (out c.cin 1 1024, 8),
    (out c.cout 1 1024, 10), (out c.fh 1 7 || out c.fwd 1 7, 12), (out c.sh 1 2 || out c.sw 1 2, 13),
    (3 < c.pt || 3 < c.pl, 14), (3 < c.pb || 3 < c.pr, 15), (!ref23 d 16, 16), (!ref23 d 24, 24), (!ref23 d 32, 32),
    (extra d 52 1 0xBF, 52), (extra d 53 1 0xBF, 53),
    (8 < c.cin && decide (8 < c.cout), 8), (65536 < c.wbytes, 32), (c.oh < c.oy0 + c.oyn, 48),
    (c.lin = 2 && c.fin = .fp32, 2)] : List (Bool × Nat)) ++ resv d 54 2 0 ++ resv d 60 4 0)

/-! ### What it reads and writes -/

/-- The source pixel of tap (fy, fx) of output (oy, ox), if it lies inside the map (R237, R241). -/
def SceDesc.tap (c : SceDesc) (oy ox fy fx : Nat) : Option (Nat × Nat) :=
  let y : Int := (oy * c.sh + fy : Nat) - (c.pt : Int)
  let x : Int := (ox * c.sw + fx : Nat) - (c.pl : Int)
  if y < 0 ∨ (c.ihx : Int) ≤ y ∨ x < 0 ∨ (c.iwx : Int) ≤ x then none
  else if c.up2 then some (y.toNat / 2, x.toNat / 2) else some (y.toNat, x.toNat)

/-- The byte of channel `ch` of source pixel (y, x) (R208, R235). -/
def SceDesc.srcAt (c : SceDesc) (y x ch : Nat) : Nat :=
  if c.lin = 2 then c.src.addr + ch * c.spl * 64 + y * c.src.stride * 64 + 2 * x
  else c.src.addr + (y * c.iw + x) * c.src.stride * 64 + ch * (c.fin.bits / 8)

/-- The byte of channel `ch` of output (y, x). -/
def SceDesc.dstAt (c : SceDesc) (y x ch : Nat) : Nat :=
  if 2 ≤ c.lout then c.dst.addr + ch * c.dpl * 64 + y * c.dst.stride * 64 + 2 * x
  else c.dst.addr + (y * c.ow + x) * c.dst.stride * 64 + 2 * ch

/-- The output positions of a descriptor, row by row. -/
def SceDesc.outs (c : SceDesc) : List (Nat × Nat) :=
  (List.range c.oyn).flatMap (fun i => (List.range c.ow).map (fun x => (c.oy0 + i, x)))

/-- The taps of a filter, in the order of K. -/
def SceDesc.taps (c : SceDesc) : List (Nat × Nat) :=
  (List.range c.fh).flatMap (fun y => (List.range c.fwd).map (fun x => (y, x)))

/-- Every source element that some output uses: each as a range. -/
def SceDesc.reads (c : SceDesc) : List Range :=
  let e := c.fin.bits / 8
  c.outs.flatMap (fun o => c.taps.flatMap (fun t =>
    match c.tap o.1 o.2 t.1 t.2 with
    | none => []
    | some p => (List.range c.cin).map (fun ch =>
        { sp := c.src.sp, write := false, addr := c.srcAt p.1 p.2 ch, len := e })))

/-- Weights and biases; none where there is no output to form (R247). -/
def SceDesc.weights (c : SceDesc) : List Range :=
  if c.outs = [] then [] else
  (List.range c.cout).map (fun o =>
    { sp := c.wgt.sp, write := false, addr := c.wgt.addr + o * c.wpitch, len := c.k * (c.fw.bits / 8) })

def SceDesc.biases (c : SceDesc) : List Range :=
  if c.outs = [] ∨ !c.bias then [] else [{ sp := c.wgt.sp, write := false, addr := c.biasAt, len := 4 * c.cout }]

def SceDesc.params (c : SceDesc) : List Range := c.weights ++ c.biases

/-- Every output element. -/
def SceDesc.writes (c : SceDesc) : List Range :=
  c.outs.flatMap (fun o => (List.range c.cout).map (fun ch =>
    { sp := c.dst.sp, write := true, addr := c.dstAt o.1 o.2 ch, len := 2 }))

/-- A range that lies in the compressed-view range, which no grant can take in (LNC_GRANT): judged by the window rules (R256, R724). -/
def Range.inView (x : Range) : Bool := x.sp = .mem && decide (viewBase ≤ x.addr) && decide (x.addr + x.len ≤ 2 ^ 44)

/-- The lowest cause of R255-R257 among an SCE's accesses, with its window. A bias is a binary32 word (R236), the format of no
window. -/
def sceFrc (s : State) (c : SceDesc) : Option (Nat × Nat) :=
  let mem (xs : List Range) (ok : Bool) (f : Fmt) : List (Nat × Nat) :=
    xs.filterMap (fun x => if x.sp = .mem then frcWhy s ok f true x.addr x.len else none)
  let all := mem c.reads true c.fin ++ mem c.weights true c.fw ++ mem c.biases true .fp32 ++ mem c.writes false .bf16
  match all with
  | [] => none
  | w :: ws => some (ws.foldl (fun m x => if x.1 < m.1 then x else m) w)

/-- SCE_BOUND: the operand reference through which a byte lies outside its space or the grants (R239). -/
def sceBound (s : State) (l : Launch) (c : SceDesc) : Option Nat :=
  let bad (xs : List Range) : Bool := xs.any (fun x => !x.inView && !x.ok s l)
  if bad c.reads then some 16 else if bad c.writes then some 24 else if bad c.params then some 32 else none

/-! ### Arithmetic (R241-R243) -/

/-- Groups of eight of a list. -/
def eights (l : List Num) : Nat → List (List Num)
  | 0 => []
  | n + 1 => if l = [] then [] else l.take 8 :: eights (l.drop 8) n

/-- U10 of a value (R243). -/
def toU10 (x : Word) : Nat :=
  let v := fadd (fmul x 0x43FFC000) 0x43FFC000
  match val v with
  | .nan => 0
  | .inf sg => if sg then 0 else 1023
  | n => (max 0 (min 1023 (rneInt n))).toNat

/-- The accumulator of one output over its products (R241). -/
def sceAcc (ps : List Num) : Word := (eights ps ps.length).foldl (fun a g => accRound (val a :: g)) 0

/-- The source elements an output reads, in the order of K: channels of each tap, zeros outside the map. -/
def sceInputs (s : State) (r : Fin 8) (c : SceDesc) (oy ox : Nat) : List (Option Num) :=
  let e := c.fin.bits / 8
  c.taps.flatMap (fun t =>
    match c.tap oy ox t.1 t.2 with
    | none => List.replicate c.cin none
    | some p => (List.range c.cin).map (fun ch =>
        some (decodeElt c.fin (leNat (readSp s r c.src.sp (c.srcAt p.1 p.2 ch) e)))))

/-- Weight row `o`. -/
def sceWeights (s : State) (r : Fin 8) (c : SceDesc) (o : Nat) : List Num :=
  let e := c.fw.bits / 8
  let bs := readSp s r c.wgt.sp (c.wgt.addr + o * c.wpitch) (c.k * e)
  (List.range c.k).map (fun i => decodeElt c.fw (leAt bs (e * i) e))

/-- One output value (R241, R242). -/
def sceOut (s : State) (r : Fin 8) (c : SceDesc) (xs : List (Option Num)) (o : Nat) : Word :=
  let ps := List.zipWith (fun x w => match x with | some v => v.mul w | none => zeroNum) xs (sceWeights s r c o)
  let a := sceAcc ps
  let a := if c.bias then fadd a ((readWords s r c.wgt.sp (c.biasAt + 4 * o) 1).getD 0 0) else a
  if c.silu then silu a else a

/-- The outputs of a descriptor, one to a lane, in the order of rows, columns and channels (log 141). -/
def SceDesc.lanes (c : SceDesc) : List ((Nat × Nat) × Nat) :=
  c.outs.flatMap (fun o => (List.range c.cout).map (fun ch => (o, ch)))

/-- Lane rounds of a descriptor: 2,048 outputs each (R246). -/
def SceDesc.rounds (c : SceDesc) : Nat := (c.oyn * c.ow * c.cout + 2047) / 2048

/-- One lane round: its outputs are formed and written. -/
def sceRound (s0 : State) (r : Fin 8) (lid : BitVec 32) (c : SceDesc) (i : Nat) : State :=
  ((c.lanes.drop (2048 * i)).take 2048).foldl (fun s o =>
    let v := sceOut s0 r c (sceInputs s0 r c o.1.1 o.1.2) o.2
    let x := if c.lout = 3 then toU10 v else convert .bf16 none v
    writeSp s (.sce r) lid r c.dst.sp (c.dstAt o.1.1 o.1.2 o.2) (fullMask (toLe 2 x))) s0

/-! ### Commands -/

/-- An SCE fault (R240, Table 5.14). -/
def sceFault (s : State) (r : Fin 8) (lid : BitVec 32) (code off idx : Nat) : State :=
  let v := setF (setF (setF (setF (rreg s .sceFault r.val) 31 31 1) 30 28 code) 27 22 off) 15 0 idx
  unitHalt (wreg s .sceFault r.val v) (.sce r) lid (0x3400 + code) idx v.toNat

/-- The descriptor has run: it signals, counts and gives way to the next (R245, R247, Table 5.13). -/
def sceDone (s : State) (r : Fin 8) (lid : BitVec 32) (idx : Nat) (d : BitVec 512) : State :=
  let s := if fld d 53 1 / 128 = 1 then askFlag s (.sce r) lid idx r (Fin.ofNat 64 (fld d 53 1)) 1 else s
  nextEntry (cfld s .sceDone r.val 31 0 1) (.sce r)

/-- A lane round has run: the next follows, or the descriptor is done (Table 9.4). -/
def sceStep (s : State) (r : Fin 8) (lid : BitVec 32) (c : SceDesc) (u : ListRun) (d : BitVec 512) : State :=
  let t := sceRound s r lid c u.part
  if u.part + 1 < c.rounds then nextPart t (.sce r) else sceDone t r lid u.idx d

/-- SCE_CONV (R241): the checks, the wait, and one lane round of the convolution (R238-R247, R380). -/
def sceConv (r : Fin 8) (s : State) : State :=
  match active s (.sce r) with
  | none => s
  | some (u, l) =>
    if !entryThere s u then sceFault s r l.lid 2 0 u.idx
    else
      match firstBad s (u.base + 64 * u.idx) 64 l.job with
      | some bad => unitMemHalt s (.sce r) l.lid u.idx bad
      | none =>
        let d := entryAt s u
        let c := sceOf d
        if fld d 0 1 = 0x3F then s
        else
          match sceDescBad d with
          | some off => sceFault s r l.lid 1 off u.idx
          | none =>
            match sceBound s l c, sceFrc s c with
            | some off, _ => sceFault s r l.lid 2 off u.idx
            | none, some w =>
              let t := frcRecord s (48 + r.val) w.1 w.2
              unitHalt t (.sce r) l.lid (0x3B00 + w.1) u.idx (rreg t .memFrcStat 0).toNat
            | none, none =>
              let f : Fin 64 := Fin.ofNat 64 (fld d 52 1)
              if u.part = 0 ∧ fld d 52 1 / 128 = 1 ∧ flagVal s r f < fld d 56 4 then beginWait s (.sce r) l r f (fld d 56 4)
              else
                if rangeWaits s (.sce r) l (c.reads ++ c.params) then s
                else
                match rangeBad s l (c.reads ++ c.params) with
                | some bad => unitMemHalt s (.sce r) l.lid u.idx bad
                | none => sceStep s r l.lid c u d

def execSceConv (c : RgnCmd) (s : State) : Host.Outcome State Fault Refusal := .next (unitUpset s (.sce c.r) (· ≠ 0x3F) c.u (sceConv c.r))

/-- SCE_END (R233): the SCE stops at an END descriptor. -/
def execSceEnd (r : Fin 8) (s : State) : Host.Outcome State Fault Refusal :=
  .next (match active s (.sce r) with
    | none => s
    | some (u, _) =>
      if entryThere s u ∧ fld (entryAt s u) 0 1 = 0x3F then modRun s (.sce r) (fun u => { u with finished := true })
      else s)

/-- SCE_WAIT_SATISFIED (R244): the flag an SCE descriptor waits on has reached its target. -/
def execSceWaitSatisfied (r : Fin 8) (s : State) : Host.Outcome State Fault Refusal := .next (endWait s (.sce r))

end Sys2Proof.Machine
end

