-- ==== Sys2Proof/Machine/Codec.lean ====
section
/-! DEFINITION. What the spec fixes of the coded pictures that a stream engine writes and of the pictures it decodes
(11_video_codec.md, R466-R482, R490-R500); what the codec standards and the encoder reference model define is free (log 12). -/

namespace Sys2Proof.Machine

/-! ### Session records (Tables 11.3, 11.12) -/

def rW (r : List Byte) : Nat := leAt r 4 2
def rH (r : List Byte) : Nat := leAt r 6 2
def rAv1 (r : List Byte) : Bool := leAt r 0 1 % 4 = 1
def rTen (r : List Byte) : Bool := leAt r 0 1 / 4 % 2 = 1
def rLow (r : List Byte) : Bool := leAt r 0 1 / 8 % 2 = 1
def rRc (r : List Byte) : Nat := leAt r 0 1 / 16 % 4
def rFmt (r : List Byte) : Nat := leAt r 1 1 % 8
def rG (r : List Byte) : Nat := 2 ^ (leAt r 2 1 % 4)
def rNref (r : List Byte) : Nat := leAt r 3 1
def rFrn (r : List Byte) : Nat := leAt r 8 4
def rFrd (r : List Byte) : Nat := leAt r 12 4
def rRate (r : List Byte) : Nat := leAt r 16 4
def rCpb (r : List Byte) : Nat := leAt r 20 4
def rD0 (r : List Byte) : Nat := leAt r 24 4
def rRefw (r : List Byte) : Nat := leAt r 35 1

/-- CTU columns and rows, and CTUs of a picture: 64 x 64 in HEVC and AV1 (Table 11.9). -/
def rCols (r : List Byte) : Nat := (rW r + 63) / 64
def rRows (r : List Byte) : Nat := (rH r + 63) / 64
def rCtus (r : List Byte) : Nat := rCols r * rRows r

/-! ### Gradual refresh (R480, R481) -/

/-- The pictures of a sweep. -/
def sweepLen (r : List Byte) : Nat := (rCols r + rRefw r - 1) / rRefw r

/-- The first CTU column of the band of P picture `i`, counted from 1 after the key picture (R480). -/
def bandStart (r : List Byte) (i : Nat) : Nat := (i - 1) % sweepLen r * rRefw r

/-- The right edges of the clean area and of the band of picture `i`, in luma samples; a key picture is clean as a whole
(log 140). -/
def cleanEdge (r : List Byte) (i : Nat) : Nat := if i = 0 then rW r else min (rW r) (64 * bandStart r i)
def bandEdge (r : List Byte) (i : Nat) : Nat := if i = 0 then rW r else min (rW r) (64 * (bandStart r i + rRefw r))

/-- Whether P picture `i` (from 1) begins a refresh sweep of LOWLAT, and so ends one (R480). -/
def sweepEnds (r : List Byte) (i : Nat) : Bool := rLow r && 0 < i && i % sweepLen r = 0

/-! ### Motion search (R470, Table 11.8) -/

/-- A search stage: the ranges around each start, in that level's samples, the subsampling of the picture searched, and the
vectors kept. -/
structure SearchStage where
  sub : Nat
  hor : Nat
  ver : Nat
  kept : Nat
  deriving DecidableEq, Repr

/-- Whether a vector of a block, in quarter samples, points into the reference extended by 64 samples on each side (R470). -/
def inExtended (r : List Byte) (x y w h : Nat) (mv : Int × Int) : Bool :=
  decide (-256 ≤ 4 * (x : Int) + mv.1) && decide (4 * (x + w : Int) + mv.1 ≤ 4 * (rW r : Int) + 256) &&
  decide (-256 ≤ 4 * (y : Int) + mv.2) && decide (4 * (y + h : Int) + mv.2 ≤ 4 * (rH r : Int) + 256)

/-- A luma picture `n` levels up the pyramid, which averages each 2 x 2 block ("The row pipeline"). -/
def pyramid : Nat → (Nat → Nat → Nat) → Nat → Nat → Nat
  | 0, f => f
  | n + 1, f => fun x y =>
    let g := pyramid n f
    (g (2 * x) (2 * y) + g (2 * x + 1) (2 * y) + g (2 * x) (2 * y + 1) + g (2 * x + 1) (2 * y + 1) + 2) / 4

/-- The nearest place inside 0 to n - 1: outside its edges a reference is extended. -/
def clampTo (n : Nat) (x : Int) : Nat := (max 0 (min ((n : Int) - 1) x)).toNat

/-- SAD of an n x n area at (x, y) of a level, `sub` to one each way, against reference `ref` displaced by a vector in that level's
samples. -/
def sadAt (k : EncKey) (ref sub n x y : Nat) (v : Int × Int) : Nat :=
  let w := rW k.record
  let h := rH k.record
  let lv := if sub = 4 then 2 else if sub = 2 then 1 else 0
  let cur := pyramid lv (fun x y => k.now.samples.getD (clampTo h y * w + clampTo w x) 0)
  let old := pyramid lv (fun x y => Config.encLuma k ref (clampTo w x) (clampTo h y))
  ((List.range n).map (fun j => ((List.range n).map (fun i =>
    let a := cur (clampTo (w / sub) (x + i : Nat)) (clampTo (h / sub) (y + j : Nat))
    let b := old (clampTo (w / sub) ((x + i : Nat) + v.1)) (clampTo (h / sub) ((y + j : Nat) + v.2))
    ((a : Int) - (b : Int)).natAbs)).sum)).sum

/-- The vectors of a stage around its starts. -/
def around (t : SearchStage) (starts : List (Int × Int)) : List (Int × Int) :=
  starts.flatMap (fun s => (List.range (2 * t.ver + 1)).flatMap (fun j => (List.range (2 * t.hor + 1)).map (fun i =>
    (s.1 + i - t.hor, s.2 + j - t.ver))))

/-- The vectors among some that a stage may keep: those with fewer than `kept` of lower cost. Which of equal cost it keeps is not
stated (log 140). -/
def keptOf (t : SearchStage) (cost : Int × Int → Nat) (l : List (Int × Int)) : List (Int × Int) :=
  l.filter (fun v => decide ((l.filter (fun u => decide (cost u < cost v))).length < t.kept))

/-- A stage over the full-resolution area of `n` samples a side at (x, y): from its starts to the vectors it keeps, in its level's
samples (Table 11.8). -/
def stageOf (k : EncKey) (ref n x y : Nat) (t : SearchStage) (starts : List (Int × Int)) : List (Int × Int) :=
  keptOf t (sadAt k ref t.sub (n / t.sub) (x / t.sub) (y / t.sub))
    ((around t starts).filter (fun v => inExtended k.record x y n n (4 * t.sub * v.1, 4 * t.sub * v.2)))

/-- What the two coarse stages leave for the 16 x 16 area at (x, y), in quarter samples. -/
def coarse (k : EncKey) (ref x y : Nat) : List (Int × Int) :=
  let cx := x / 64 * 64
  let cy := y / 64 * 64
  let co := Config.encColoc k cx cy
  let s1 := stageOf k ref 64 cx cy ⟨4, 64, 32, 4⟩ [(0, 0), (co.1.fdiv 16, co.2.fdiv 16)]
  let s2 := stageOf k ref 16 x y ⟨2, 4, 4, 2⟩ (s1.map (fun v => (2 * v.1, 2 * v.2)))
  s2.map (fun v => (8 * v.1, 8 * v.2))

/-- Whether a vector lies within `d` quarter samples of one of some. -/
def nearOne (d : Nat) (mv : Int × Int) (l : List (Int × Int)) : Bool :=
  l.any (fun v => decide ((mv.1 - v.1).natAbs ≤ d) && decide ((mv.2 - v.2).natAbs ≤ d))

/-- Whether the search can come to a vector for block `b`, the `n`th of CTU `c`: within 2 whole samples and 3 quarters of what the coarse
stages leave for an area of the block, or within 3 quarters of a candidate; which of them costs least by SATD and bits is the reference
model's (R470, R471, Table 11.8). -/
def mayFind (k : EncKey) (c n : Nat) (b : CodeBlk) (ref : Nat) (mv : Int × Int) : Bool :=
  let areas := (List.range ((b.h + 15) / 16)).flatMap (fun j => (List.range ((b.w + 15) / 16)).map (fun i => (b.x / 16 * 16 + 16 * i, b.y / 16 * 16 + 16 * j)))
  inExtended k.record b.x b.y b.w b.h mv &&
    (areas.any (fun a => nearOne 11 mv (coarse k ref a.1 a.2)) || nearOne 3 mv (Config.encCands k c n))

/-! ### Blocks that a coded picture may hold -/

/-- The intra modes the encoder uses, in the standard's numbers: 35 of HEVC; directional, DC, smooth, Paeth and CfL of AV1
(Table 11.9). -/
def intraModes (r : List Byte) : Nat := if rAv1 r then 14 else 35

/-- Whether an intra mode is one that the encoder may use: the angle delta belongs to the directional modes of AV1. -/
def intraOk (r : List Byte) (m : Nat) (delta : Int) : Bool :=
  decide (m < intraModes r) && (delta = 0 || (rAv1 r && decide (1 ≤ m) && decide (m ≤ 8) && decide (delta.natAbs ≤ 3)))

/-- Whether an intra mode reads samples right of the block, in the row above it: planar and the angles above 26 of HEVC; of AV1 the angles
below 90 degrees: D45, D67, and vertical with a negative delta (log 140). -/
def readsRight (av1 : Bool) (mode : Nat) (delta : Int) : Bool :=
  if av1 then mode = 3 || mode = 8 || (mode = 1 && decide (delta < 0)) else mode = 0 || 26 < mode

/-- The luma samples that interpolation reads right of the block: 4 of the longest luma filter; of chroma, at half resolution, whose
vector is whole only for an even whole luma vector, 2 chroma samples in HEVC and 4 in AV1 (log 140). -/
def tapsRight (r : List Byte) (mvx : Int) : Int :=
  max (if mvx % 4 = 0 then 0 else 4) (if mvx % 8 = 0 then 0 else if rAv1 r then 8 else 4)

/-- Whether block `b` of LOWLAT picture `i` keeps R480 and R481: the band is intra; the clean area and the band predict from clean
samples at least 16 left of the reference's edge, and read no sample of a column beyond the band. Reference `n` is the picture
coded `n + 1` before. -/
def refreshOk (r : List Byte) (i : Nat) (b : CodeBlk) : Bool :=
  if bandEdge r i ≤ b.x then true
  else
    match b.pred with
    | .intra m d => b.x + b.w < bandEdge r i || bandEdge r i = rW r || !readsRight (rAv1 r) m d
    | .inter n mvx _ =>
      decide (b.x + b.w ≤ cleanEdge r i) &&
        (cleanEdge r (i - 1 - n) = rW r ||
          decide (4 * (b.x + b.w : Int) + mvx + 4 * tapsRight r mvx ≤ 4 * (cleanEdge r (i - 1 - n) : Int) - 64))

/-- Whether a block has a shape that the encoder codes: square, or halved one way, so neither AMP nor 4:1; 4 x 4 in HEVC intra only, and
in AV1 nothing below 8 x 8 (R473, Table 11.9). -/
def shapeOk (r : List Byte) (b : CodeBlk) : Bool :=
  decide (b.w ∈ [4, 8, 16, 32, 64]) && decide (b.h ∈ [4, 8, 16, 32, 64]) && decide (b.w ≤ 2 * b.h) && decide (b.h ≤ 2 * b.w) &&
  (if rAv1 r then decide (8 ≤ b.w) && decide (8 ≤ b.h)
   else decide (4 < max b.w b.h) || (match b.pred with | .intra .. => true | _ => false))

/-- Whether the `n`th block of CTU `c` of a picture of TYPE `type` (0 key), `i` in coding order, is predicted as the engine may (R470,
R473, R480, R481). -/
def predOk (k : EncKey) (type i c n : Nat) (b : CodeBlk) : Bool :=
  let r := k.record
  (match b.pred with
    | .intra m d => intraOk r m d
    | .inter ref mvx mvy => decide (type ≠ 0) && decide (ref < min (rNref r) i) && mayFind k c n b ref (mvx, mvy)) &&
  (!rLow r || type = 0 || refreshOk r i b)

/-- DC prediction, which every block may use. -/
def dcPred (r : List Byte) : BlkPred := .intra (if rAv1 r then 0 else 1) 0

/-- A CTU as blocks of 8 x 8 with DC prediction. -/
def plainCtu (r : List Byte) (c : Nat) : List CodeBlk :=
  (List.range 64).map (fun i => { x := 64 * (c % max 1 (rCols r)) + 8 * (i % 8), y := 64 * (c / max 1 (rCols r)) + 8 * (i / 8), w := 8, h := 8,
                                  pred := dcPred r })

/-- The blocks of a CTU as the engine codes them: those of the reference model, within what the spec allows. -/
def ctuBlks (k : EncKey) (type i c : Nat) : List CodeBlk :=
  let bs := Config.encBlks k c
  if bs.all (shapeOk k.record) then
    (bs.zipIdx).map (fun x => if predOk k type i c x.2 x.1 then x.1 else { x.1 with pred := dcPred k.record })
  else plainCtu k.record c

/-- The last-resort form (R478). -/
def lastResort (r : List Byte) (type : Nat) : CtuForm :=
  if type = 0 then .intraDc else if rAv1 r then .globalMv else .firstMerge

/-! ### Headers (R460, R466, R474, R482) -/

/-- The colour description of MATRIX and TF, and chroma sample location type 0 (R460, R466). -/
def colourOf (r : List Byte) : HeadItem :=
  if leAt r 1 1 / 8 % 2 = 0 then .colour 1 1 1 0
  else .colour 9 (match leAt r 1 1 / 16 % 4 with | 0 => 1 | 1 => 16 | _ => 18) 9 0

/-- What the headers of a picture carry: with a key picture the parameter sets, the buffer model under CBR and CVBR, and HDR
metadata; with the first picture of a sweep in HEVC a recovery point of S - 1. -/
def headItems (r : List Byte) (type i : Nat) : List HeadItem :=
  (if type = 0 then
    [colourOf r] ++ (if rRc r = 0 then [] else [.hrd (rRate r) (rCpb r) (rD0 r)]) ++
    (if leAt r 38 1 % 2 = 1 then [.mastering ((r.drop 40).take 24), .light ((r.drop 64).take 4)] else []) else []) ++
  (if rLow r ∧ !rAv1 r ∧ 0 < i ∧ bandStart r i = 0 then [.recovery (sweepLen r - 1)] else []) ++ [.picture type]

/-- Units of a picture that end a slice or a tile group of their own under LOWLAT: CTU rows, or pairs of superblock rows; otherwise
the whole picture (R482, Table 11.9). -/
def unitRows (r : List Byte) : Nat := if !rLow r then rRows r else if rAv1 r then 2 else 1
def unitsOf (r : List Byte) : Nat := (rRows r + unitRows r - 1) / max 1 (unitRows r)

/-- The first CTU of each unit. -/
def sliceStarts (r : List Byte) : List Nat := (List.range (unitsOf r)).map (fun u => u * unitRows r * rCols r)

/-! ### Bits of a picture (R474-R479) -/

/-- The unit in which fullness is kept: 90,000 x FRN to a bit (R474). -/
def fullUnit (r : List Byte) : Int := 90000 * rFrn r

/-- What arrives in one picture period. -/
def fullInc (r : List Byte) : Int := rRate r * rFrd r * 90000

/-- The picture budget (R477). -/
def budget (r : List Byte) (maxpic : Nat) (full : Int) : Nat :=
  if rRc r = 0 then 8 * maxpic else min (full / fullUnit r).toNat (8 * maxpic)

/-- Header bits before the first CTU and after the last, with the bits that fill the last byte: at most 8,192 together (R479). -/
def headBits (k : EncKey) : Nat := min (Config.encHead k) 8184
def tailBits (k : EncKey) (before : Nat) : Nat :=
  upTo (before + min (Config.encTail k) (8184 - headBits k)) 8 - before

/-- The CTUs of a picture: bits written so far and the first last-resort CTU, if any (R478). -/
def ctuStep (k : EncKey) (p n : Nat) (a : Nat × Option Nat) (i : Nat) : Nat × Option Nat :=
  match a.2 with
  | some j => (a.1 + min (Config.encLast k j i) 24, some j)
  | none =>
    let b := a.1 + Config.encCtu k i
    if p + headBits k < b + 24 * (n - 1 - i) + 8192 then (a.1 + min (Config.encLast k i i) 24, some i) else (b, none)

structure PicBits where
  bits : Nat
  lrctu : Nat
  fill : Nat
  after : Int
  /-- The picture may be written: the fullness after its removal is not negative (R475). -/
  ok : Bool
  deriving DecidableEq, Repr

/-- The shortest filler: a filler-data NAL unit with its start code, a padding OBU (R476, log 140). -/
def fillMin (r : List Byte) : Nat := if rAv1 r then 3 else 6

/-- Filler bytes for an excess of `exc`, with `room` bytes left in the budget (R476, R477). -/
def fillBytes (r : List Byte) (exc : Int) (room : Nat) : Nat :=
  if rRc r = 1 ∧ 0 < exc then min (max (fillMin r) ((exc + 8 * fullUnit r - 1) / (8 * fullUnit r)).toNat) room else 0

/-- Bits, last-resort CTUs and filler of a picture, and the fullness after its removal (R474-R478). A picture that would leave the
buffer below 0 is not written (R475). -/
def codePic (k : EncKey) (r : List Byte) (maxpic : Nat) (full : Int) : PicBits :=
  let n := rCtus r
  let p := budget r maxpic full
  let c := (List.range n).foldl (ctuStep k p n) (headBits k, none)
  let b := c.1 + tailBits k c.1
  let u := fullUnit r
  let fill := fillBytes r (full - b * u + fullInc r - rCpb r * u) ((p - b) / 8)
  let all := b + 8 * fill
  if rRc r = 0 ∨ 0 ≤ full - all * u then
    { bits := all, lrctu := match c.2 with | none => 0 | some j => n - j, fill := fill, after := full - all * u, ok := true }
  else { bits := 0, lrctu := 0, fill := 0, after := full, ok := false }

/-- The fullness before the next picture (R474). -/
def nextFull (r : List Byte) (after : Int) : Int :=
  match rRc r with
  | 0 => after
  | 1 => after + fullInc r
  | _ => min (after + fullInc r) (rCpb r * fullUnit r)

/-- The picture as it is coded: TYPE `type`, `i` in coding order. -/
def codedPic (k : EncKey) (type i : Nat) (c : PicBits) : CodedPic :=
  let r := k.record
  let first := rCtus r - c.lrctu
  { head := headItems r type i
    ctus := (List.range (rCtus r)).map (fun n => if n < first then .normal (ctuBlks k type i n) else lastResort r type)
    slices := sliceStarts r
    tileCols := if rW r ≤ 4096 then 1 else 2
    fill := if c.fill = 0 then none else some (if rAv1 r then .obu else .nal, c.fill) }

/-- Whether a row ends a unit that FLAGS.ROWSIG signals, before the last of the picture. -/
def endsUnit (r : List Byte) (row : Nat) : Bool := (row + 1) % unitRows r = 0 && decide (row + 1 < rRows r)

/-- The bytes of a coded picture that are written by the end of a row, of `n` in all. -/
def rowEnd (k : EncKey) (p : CodedPic) (n row : Nat) : Nat :=
  if rRows k.record ≤ row + 1 then n else min n (((List.range (row + 1)).map (Config.encRowEnd k p)).foldl max 0)

/-- The part of a slot of `n` bytes that row `i` of `m` writes (log 140). -/
def slotPart (n m i : Nat) : Nat × Nat := (n * i / max 1 m, n * (i + 1) / max 1 m - n * i / max 1 m)

/-- The rows of a coded picture of `n` bytes, written to `dst`; line buffers and reference go to the session area at `a`, `slot`
being where the reference slot lies and `len` its length. `sig` says that units signal (R482, R503). -/
def encRows (k : EncKey) (p : CodedPic) (n a dst slot len : Nat) (sig : Bool) : List VseRow :=
  let start (i : Nat) : Nat := if i = 0 then 0 else rowEnd k p n (i - 1)
  (List.range (rRows k.record)).map (fun i =>
    let w := slotPart len (rRows k.record) i
    { row := i
      outs := [(dst + start i, (List.range (rowEnd k p n i - start i)).map (fun t => Config.encByte k p (start i + t))),
               (a + 4096, (List.range 61440).map (Config.encLine k i)),
               (slot + w.1, (List.range w.2).map (fun t => Config.encRef k (w.1 + t)))]
      sig := if sig && endsUnit k.record i then some (rowEnd k p n i) else none })

/-! ### Decoding: sizes and concealment (R491-R500) -/

/-- The bits that the parser reads: those of the unit, and zeros past its end (R491). -/
def unitBit (u : UnitIn) (i : Nat) : Bool :=
  match u.bytes with
  | none => false
  | some bs => (bs.getD (i / 8) 0).getLsbD (7 - i % 8)

/-- A key as the parser has it: what a unit's bytes say depends on no row's configuration. -/
def DecKey.plain (k : DecKey) : DecKey := { k with now := { k.now with cfgs := [] } }

/-- Whether the parser read past the end of the unit (R491). -/
def truncated (k : DecKey) : Bool :=
  decide (8 * ((k.now.bytes.getD []).length) < Config.decBits k.plain (unitBit k.now))

/-- Whether a picture cannot be decoded at all, with its flag: header 0 SYNTAX, a tool marked "no" 1 UNSUP, beyond MAXW, MAXH or MAXD
2 SIZE (R499, R502). -/
def undecodable (r : List Byte) (p : PicParse) : Option Nat :=
  if !p.headOk then some 1
  else if p.noTool then some 2
  else if p.w = 0 ∨ p.h = 0 ∨ rW r < p.w ∨ rH r < p.h ∨ (p.ten ∧ leAt r 2 1 = 0) then some 4
  else none

/-- Whether an item of a unit is a new picture that can be decoded. -/
def PicParse.decodes (r : List Byte) (p : PicParse) : Bool := p.again.isNone && (undecodable r p).isNone

/-- CTU columns of a picture. -/
def PicParse.cols (p : PicParse) : Nat := (p.w + max 1 p.ctu - 1) / max 1 p.ctu

/-- The CTU rows of a picture. -/
def PicParse.rows (p : PicParse) : Nat := (p.h + max 1 p.ctu - 1) / max 1 p.ctu

/-- The stream cycles of a CTU: 672 for each 64 x 64 area, 42 for a macroblock, while it needs no more than two bins to a cycle; beyond
that one cycle for two bins (the text after R501). -/
def ctuCycles (p : PicParse) (c : CtuIn) : Nat :=
  let each := 672 * (min p.ctu 64) ^ 2 / 4096
  (c.bins.map (fun n => max each ((n + 1) / 2))).sum

/-- Decoding of a slice, CTU by CTU: those decoded so far, the cycles spent in each row of the picture, 256 from its start, whatever slice
or tile they were spent in, and why it stopped: 1 SYNTAX, 16 BUDGET (R496, R497). -/
def sliceStep (cfg : Nat → Word) (p : PicParse) (a : List Nat × List Nat × Option Nat) (c : CtuIn) : List Nat × List Nat × Option Nat :=
  match a with
  | (done, spent, why) =>
    if why.isSome then a
    else
      let row := c.at_ / max 1 p.cols
      let n := ctuCycles p c
      let spent := modAt spent row (· + n)
      if c.bad then (done, spent, some 1)
      else if 256 * getF (cfg row) 15 8 ≤ n ∨ 1024 * getF (cfg row) 23 16 ≤ spent.getD row 0 then (done, spent, some 16)
      else (done ++ [c.at_], spent, none)

/-- A slice is decoded, unless a picture that it refers to is missing (R497): the CTUs done, the cycles spent, and why it stopped. -/
def sliceRun (cfg : Nat → Word) (p : PicParse) (st : DecState) (spent : List Nat) (x : SliceIn) : List Nat × List Nat × Option Nat :=
  if x.uses.any (fun n => !st.kept.any (fun q => q.id = n)) then ([], spent, some 8)
  else x.ctus.foldl (sliceStep cfg p) ([], spent, none)

/-- The slices of a picture in turn: the CTUs done, and why each slice stopped that did. -/
def slicesRun (cfg : Nat → Word) (p : PicParse) (st : DecState) : List Nat × List Nat :=
  let a := p.slices.foldl (fun (a : List Nat × List Nat × List Nat) x =>
    let y := sliceRun cfg p st a.2.1 x
    (a.1 ++ y.1, y.2.1, a.2.2 ++ y.2.2.toList)) ([], List.replicate p.rows 256, [])
  (a.1, a.2.2)

/-- The middle value of a depth (R497, R498). -/
def midSample (ten : Bool) : Nat := if ten then 512 else 128

/-- The samples of a w x h picture: luma rows, then rows of Cb and Cr interleaved. -/
def lumaLen (w h : Nat) : Nat := w * h
def chromaW (w : Nat) : Nat := (w + 1) / 2
def sampleAt (p : KeptPic) (pl x y : Nat) : Nat :=
  p.samples.getD (if pl = 0 then y * p.w + x else lumaLen p.w p.h + y * (2 * chromaW p.w) + 2 * x + (pl - 1)) 0

/-- Every sample of a picture, from a function of plane, column and row. -/
def makeSamples (w h : Nat) (f : Nat → Nat → Nat → Nat) : List Nat :=
  (List.range h).flatMap (fun y => (List.range w).map (fun x => f 0 x y)) ++
  (List.range (chromaW h)).flatMap (fun y => (List.range (chromaW w)).flatMap (fun x => [f 1 x y, f 2 x y]))

/-- A missing reference is replaced by a picture of mid-value samples (R498). -/
def greyPic (p : PicParse) (id : Nat) : KeptPic :=
  { id := id, w := p.w, h := p.h, ten := p.ten, order := 0, isRef := true, shown := true,
    samples := makeSamples p.w p.h (fun _ _ _ => midSample p.ten) }

/-- The references of a picture, as the session keeps them. -/
def refsOf (st : DecState) (p : PicParse) : List KeptPic :=
  p.refs.map (fun n => (st.kept.find? (fun q => q.id = n)).getD (greyPic p n))

/-- The picture that concealed CTUs of a slice copy: the head of reference list 0, else the latest decoded picture of the same size; none
for mid-value samples (R497). -/
def concealRef (cfg : Word) (st : DecState) (p : PicParse) (ref : Option Nat) : Option KeptPic :=
  if getF cfg 0 0 = 1 then none
  else
    match ref with
    | some n => some ((st.kept.find? (fun q => q.id = n)).getD (greyPic p n))
    | none => st.latest.find? (fun q => q.w = p.w && q.h = p.h && q.ten = p.ten)

/-- The CTU that a sample of a plane lies in. -/
def ctuAt (p : PicParse) (pl x y : Nat) : Nat :=
  let m := if pl = 0 then 1 else 2
  (m * y / max 1 p.ctu) * p.cols + m * x / max 1 p.ctu

/-- A picture decoded under the configuration of each of its rows, with concealment: its kept form, its flags, and the 64 x 64 areas
concealed. -/
def decodePic (k : DecKey) (cfg : Nat → Word) (st : DecState) (i : Nat) (p : PicParse) : KeptPic × Nat × Nat :=
  let run := slicesRun cfg p st
  let done := run.1
  let refs := refsOf st p
  let missing := p.refs.any (fun n => !st.kept.any (fun q => q.id = n)) || decide (8 ∈ run.2)
  let lost := (List.range (p.cols * p.rows)).filter (fun n => !(n ∈ done))
  let refAt (n : Nat) : Option KeptPic :=
    concealRef (cfg (n / max 1 p.cols)) st p (((p.slices.find? (fun x => x.ctus.any (fun c => c.at_ = n))).map (·.ref)).getD none)
  let smp (pl x y : Nat) : Nat :=
    let n := ctuAt p pl x y
    if n ∈ done then Config.decSample k i refs pl x y
    else match refAt n with
      | some q => sampleAt q pl x y
      | none => midSample p.ten
  let flags := (if 1 ∈ run.2 then 1 else 0) + (if missing then 8 else 0) + (if 16 ∈ run.2 then 16 else 0) + (if lost = [] then 0 else 64)
  let pic : KeptPic := { id := st.count, w := p.w, h := p.h, ten := p.ten, order := p.order, isRef := p.isRef, shown := !p.out,
                         samples := makeSamples p.w p.h smp }
  (pic, flags, (lost.length * p.ctu * p.ctu + 4095) / 4096)

/-- Rows of the decodable pictures among some. -/
def rowsOf (r : List Byte) (ps : List PicParse) : Nat := ((ps.filter (PicParse.decodes r)).map (·.rows)).sum

/-! ### Output (R492, R494, R495, R499) -/

/-- A picture as it is output: with film grain over it where the session asks for it; references stay without (R494). -/
def showPic (r : List Byte) (k : DecKey) (p : KeptPic) : DecPic :=
  let grain := rAv1 r && decide (leAt r 0 1 / 4 % 2 = 1)
  let f (pl x y : Nat) : Nat := let v := sampleAt p pl x y; if grain then Config.decGrain k p.id pl x y v else v
  { w := p.w, h := p.h, ten := p.ten, order := p.order, samples := makeSamples p.w p.h f }

/-- A decode descriptor in progress: the session, its flags, the areas concealed, and the pictures output. -/
structure DecRun where
  st : DecState
  out : DecOut
  deriving DecidableEq, Repr

/-- A picture is output, as the last of its size. A descriptor outputs `lim` at most (R502). -/
def emitPic (lim : Nat) (a : DecRun) (x : DecPic) : DecRun :=
  if lim ≤ a.out.pics.length then a
  else
    { st := { a.st with last := x :: a.st.last.filter (fun y => !(y.w = x.w && y.h = x.h)), outs := a.st.outs + 1 }
      out := { a.out with pics := a.out.pics ++ [x] } }

/-- The pictures that wait to be output. -/
def waitingPics (st : DecState) : List KeptPic := st.kept.filter (fun q => !q.shown)

/-- The next of them: the one of lowest picture order count. -/
def firstPic : List KeptPic → Option KeptPic
  | [] => none
  | q :: qs =>
    match firstPic qs with
    | none => some q
    | some x => if x.order.toInt < q.order.toInt then some x else some q

/-- Pictures that wait are output in their order until no more than `hold` are left. -/
def bumpPics (r : List Byte) (k : DecKey) (lim hold : Nat) : Nat → DecRun → DecRun
  | 0, a => a
  | n + 1, a =>
    if (waitingPics a.st).length ≤ hold then a
    else
      match firstPic (waitingPics a.st) with
      | none => a
      | some q =>
        let b := emitPic lim a (showPic r k q)
        bumpPics r k lim hold n
          { b with st := { b.st with kept := b.st.kept.map (fun x => if x.id = q.id then { x with shown := true } else x) } }

def bumpTo (r : List Byte) (k : DecKey) (lim hold : Nat) (a : DecRun) : DecRun := bumpPics r k lim hold a.st.kept.length a

/-- Pictures that wait and are not to be output. -/
def dropWaiting (a : DecRun) : DecRun := { a with st := { a.st with kept := a.st.kept.map (fun q => { q with shown := true }) } }

/-- One item of a unit: a picture shown again; a picture that cannot be decoded, in whose place a copy of the last output picture of its
size is output (R499); or a picture decoded and kept, after which those that the standard outputs then are output. A concealed picture
that the stream marks as a reference stays one (R500). -/
def stepPic (r : List Byte) (k : DecKey) (lim : Nat) (ps : List PicParse) (a : DecRun) (x : PicParse × Nat) : DecRun :=
  let p := x.1
  match p.again, undecodable r p with
  | some n, _ =>
    match a.st.kept.find? (fun q => q.id = n) with
    | some q => emitPic lim a (showPic r k q)
    | none => { a with out := { a.out with flags := a.out.flags ||| 8 } }
  | none, some f =>
    let a := { a with out := { a.out with flags := a.out.flags ||| f } }
    match a.st.last.find? (fun q => q.w = p.w && q.h = p.h) with
    | some q => emitPic lim a q
    | none => a
  | none, none =>
    let a := match p.prior with
      | none => a
      | some gone => if gone then dropWaiting a else bumpTo r k lim 0 a
    let st := a.st
    let d := decodePic k (fun row => k.now.cfgs.getD (rowsOf r (ps.take x.2) + row) 0) st x.2 p
    let kept := (st.kept ++ [d.1]).map (fun q => if q.id ∈ p.unref then { q with isRef := false } else q)
    bumpTo r k lim p.hold
      { st := { st with kept := kept, count := st.count + 1,
                        latest := d.1 :: st.latest.filter (fun q => !(q.w = p.w && q.h = p.h && q.ten = p.ten)) }
        out := { a.out with flags := a.out.flags ||| d.2.1, concealed := a.out.concealed + d.2.2 } }

/-- A picture within the limits of a session (R490). -/
def picFits (r : List Byte) (w h : Nat) (ten : Bool) : Bool :=
  decide (w ≤ rW r) && decide (h ≤ rH r) && (!ten || decide (leAt r 2 1 ≠ 0))

/-- A session state as its record allows it. -/
def fitState (r : List Byte) (st : DecState) : DecState :=
  { st with kept := st.kept.filter (fun q => picFits r q.w q.h q.ten), last := st.last.filter (fun q => picFits r q.w q.h q.ten) }

/-- What a decode descriptor does to the session, and what it answers: the items of its unit in turn, NSLOTS pictures and one of its own
output at most; DFLUSH outputs every picture still held, in order, and keeps none (Table 11.1, R490, R492, R502). -/
def decodeUnit (r : List Byte) (k : DecKey) (flush : Bool) (st : DecState) : DecState × DecOut :=
  let ps := if flush then [] else Config.decParse k.plain (unitBit k.now)
  let lim := leAt r 1 1 + (if flush then 0 else 1)
  let start : DecRun := { st := fitState r st, out := { pics := [], flags := if !flush && truncated k then 32 else 0, concealed := 0 } }
  let a := (ps.zipIdx).foldl (stepPic r k lim ps) start
  let a := if flush then bumpTo r k lim 0 a else a
  ({ a.st with kept := if flush then [] else a.st.kept.filter (fun q => q.isRef || !q.shown), units := st.units ++ [k.now] }, a.out)

/-- The rows of the pictures of a unit that can be decoded, in turn: line buffers and reference rows go to the session area at `a`,
whose slots hold `len` bytes each (R490, R503). -/
def decRows (r : List Byte) (k : DecKey) (a len : Nat) : List VseRow :=
  ((Config.decParse k.plain (unitBit k.now)).zipIdx).flatMap (fun x =>
    if !x.1.decodes r then []
    else (List.range x.1.rows).map (fun i =>
      let w := slotPart len x.1.rows i
      { row := i
        outs := [(a + 4096, (List.range 61440).map (Config.decLine k x.2 i)),
                 (a + 65536 + Config.decSlot k x.2 % max 1 (leAt r 1 1) * len + w.1,
                  (List.range w.2).map (fun t => Config.decRef k x.2 (w.1 + t)))]
        sig := none }))

/-! ### Output pictures (R492) -/

/-- The bytes of a sample: 8 bits, or P010. -/
def sampleBytes (p010 ten : Bool) (v : Nat) : List Byte :=
  if p010 then toLe 2 ((if ten then v % 1024 else v % 256 * 4) * 64) else toLe 1 v

/-- What is written of one output picture at `at_`, row by row: NV12 or P010, the chroma rows after the luma rows. -/
def picParts (p010 : Bool) (at_ : Nat) (p : DecPic) : List (Nat × List Byte) :=
  let pitch := ((if p010 then 2 else 1) * p.w + 63) / 64 * 64
  let bytes (vs : List Nat) : List Byte := vs.flatMap (sampleBytes p010 p.ten)
  let cw := 2 * chromaW p.w
  (List.range p.h).map (fun y => (at_ + y * pitch, bytes ((p.samples.drop (y * p.w)).take p.w))) ++
  (List.range (chromaW p.h)).map (fun y =>
    (at_ + (p.h + y) * pitch, bytes ((p.samples.drop (lumaLen p.w p.h + y * cw)).take cw)))

end Sys2Proof.Machine
end

