-- ==== Sys2Proof/Machine/Video.lean ====
section
/-! DEFINITION. The stream engine of a half: encode and decode sessions (11_video_codec.md, R452-R508). What the
standards and the encoder reference model define of a coded or decoded picture is free (log 12); the checks, the order,
the records and the places written are here, what the spec fixes of the pictures themselves in Codec.lean. -/

namespace Sys2Proof.Machine

/-! ### Faults and entries -/

/-- VSE_DESC 1, VSE_BOUND 2, VSE_ORDER 3, VSE_SES 4 (R506, Table 11.17). -/
def vseFault (s : State) (h : Fin 2) (lid : BitVec 32) (code off idx : Nat) : State :=
  let v := setF (setF (setF (setF (rreg s .vseFault h.val) 31 31 1) 30 28 code) 27 22 off) 11 0 idx
  unitHalt (wreg s .vseFault h.val v) (.vse h) lid (0x3900 + code) idx v.toNat

/-- The opcodes of a stream-engine list (Table 11.1). -/
def vseOps : List Nat := [0x3F, 0x60, 0x61, 0x62, 0x63, 0x64]

/-- Reading the current descriptor: `k` runs when it holds opcode `op` and the engine has no stores waiting. Before a descriptor begins
is the engine's apply point (R45). An opcode outside Table 11.1 raises VSE_DESC, bytes that do not exist VSE_BOUND (log 47). -/
def vseEntry (s0 : State) (h : Fin 2) (op : Nat) (k : State → Launch → Nat → BitVec 512 → State) : State :=
  let s := configApply (.vse h) s0
  match active s (.vse h) with
  | none => s0
  | some (u, l) =>
    if storesWait s (.vse h) then s0
    else if !entryThere s u then vseFault s h l.lid 2 0 u.idx
    else
      match firstBad s (u.base + 64 * u.idx) 64 l.job with
      | some bad => unitMemHalt s (.vse h) l.lid u.idx bad
      | none =>
        let d := entryAt s u
        if !vseOps.contains (fld d 0 1) then vseFault s h l.lid 1 0 u.idx
        else if fld d 0 1 = op then k s l u.idx d else s0

/-! ### Session records and areas (Tables 11.2, 11.3, 11.12) -/

/-- The device's firmware major version (DEV_FW). -/
def fwMajor (s : State) : Nat := rfld s .devFw 0 23 16

/-- LRMAX (R461). -/
def lrMax (r : List Byte) : Nat := 8192 + 24 * rCtus r

/-- MAXPIC of an encode session (R462). -/
def encMaxPic (r : List Byte) : Nat :=
  if rRc r = 0 then 2 * upTo (rW r) 64 * upTo (rH r) 64 * (if rTen r then 2 else 1) else (rCpb r + 7) / 8

/-- The reserved bytes of a session record from byte `b` on (log 54). -/
def resvRec (r : List Byte) (b : Nat) : List (Bool × Nat) :=
  ((r.drop b).zipIdx).map (fun x => (decide (x.1 ≠ 0), b + x.2))

/-- The first field of an encode session record out of range (R456, R460, R461). -/
def encRecBad (r : List Byte) : Option Nat :=
  let b (i : Nat) : Nat := leAt r i 1
  let out (x lo hi : Nat) : Bool := x < lo || decide (hi < x)
  let qmax := if rAv1 r then 255 else 51
  let rc := decide (rRc r ≠ 0)
  lowest (([
    (1 < b 0 % 4 || b 0 / 16 % 4 = 3 || b 0 / 64 ≠ 0, 0), (4 < b 1 % 8 || b 1 / 16 % 4 = 3 || b 1 / 64 ≠ 0, 1),
    (b 2 / 4 ≠ 0, 2), (out (b 3) 1 4, 3), (rW r % 2 = 1 || out (rW r) 128 8192, 4), (rH r % 2 = 1 || out (rH r) 96 4320, 6),
    (rFrd r = 0 || rFrn r < rFrd r || 240 * rFrd r < rFrn r, 8),
    (rc && (rRate r % 64 ≠ 0 || Config.levelMax (b 0 % 4) (b 36) (b 37) < rRate r), 16),
    (rc && decide (rRate r * rFrd r < lrMax r * rFrn r), 16),
    (rc && (rCpb r % 16 ≠ 0 || rCpb r < lrMax r), 20),
    (rRc r = 1 && decide (rCpb r * rFrn r < rRate r * rFrd r), 20),
    (rc && decide (rCpb r * 90000 < rD0 r * rRate r), 24),
    (qmax < b 28, 28), (qmax < b 29, 29), (qmax < b 30, 30), (qmax < b 31, 31), (qmax < b 32, 32),
    (rLow r && out (b 35) 1 32, 35), ((if rAv1 r then 19 else 186) < b 36, 36), ((if rAv1 r then 0 else 1) < b 37, 37),
    (1 < b 38, 38), (b 39 ≠ 0, 39)] : List (Bool × Nat)) ++ resvRec r 68)

/-- The first field of a decode session record out of range (R487). -/
def decRecBad (r : List Byte) : Option Nat :=
  let b (i : Nat) : Nat := leAt r i 1
  let avc := decide (b 0 % 4 = 2)
  let dim (x lim : Nat) : Bool := x % 2 = 1 || x < 64 || decide (lim < x)
  lowest (([
    (b 0 % 4 = 3 || b 0 / 16 ≠ 0, 0), (b 1 < 2 || 17 < b 1, 1), (1 < b 2, 2), (b 3 ≠ 0, 3),
    (dim (rW r) (if avc then 4096 else 8192), 4), (dim (rH r) (if avc then 2304 else 4320), 6)] : List (Bool × Nat)) ++ resvRec r 8)

/-- A picture slot, and the bytes of a session area (R455, Table 11.2). -/
def slotBytes (enc : Bool) (r : List Byte) : Nat :=
  let b := if (if enc then rTen r else leAt r 2 1 = 1) then 2 else 1
  upTo (upTo (rW r) 64 * upTo (rH r) 64 * ((if enc then 29 else 24) * b + 1) / 16) (2 ^ 21)

def sessArea (enc : Bool) (r : List Byte) : Nat :=
  65536 + (if enc then leAt r 3 1 + 1 else leAt r 1 1) * slotBytes enc r

/-- The bytes 256 to 4,095 of a session area (Table 11.2). -/
def sessBytes (s : State) (kind busy maxpic : Nat) (x : Session) : List Byte :=
  toLe 2 0x5A56 ++ toLe 1 kind ++ toLe 1 busy ++ toLe 1 (fwMajor s) ++ (List.range 3).map (fun i => Config.sessByte x (5 + i)) ++
  toLe 8 maxpic ++ (List.range 3824).map (fun i => Config.sessByte x (16 + i))

/-- The session whose state bytes a session area holds (log 12). -/
def sessAt (s : State) (a : Nat) : Session :=
  let bs := viewBytes s (a + 272) 3824
  (s.sessions.find? (fun x => decide ((List.range 3824).map (fun i => Config.sessByte x (16 + i)) = bs))).getD (Config.sessOf bs)

/-- Remember a session state whose bytes are written. -/
def keepSess (s : State) (x : Session) : State := { s with sessions := x :: s.sessions }

/-- VSE_BOUND (R485, R489): the offset of the first operand with a byte outside its space or outside the grants. -/
def vseBound (s : State) (l : Launch) (xs : List (Range × Nat)) : Option Nat :=
  (xs.find? (fun x => !x.1.ok s l)).map (·.2)

/-- The accesses to `n` bytes of a session area, which is read and written. -/
def sesRanges (a n : Nat) : List (Range × Nat) := [(memR false a n, 8), (memR true a n, 8)]

/-- Whether MAGIC, KIND, firmware major version and BUSY let a descriptor use a session, and its area exists as far as Table 11.2
requires (R457, log 47). -/
def sesReady (s : State) (a kind : Nat) : Bool :=
  memLe s (a + 256) 2 = 0x5A56 && memLe s (a + 258) 1 = kind && memLe s (a + 259) 1 % 2 = 0 && memLe s (a + 260) 1 = fwMajor s &&
  (let n := sessArea (kind = 1) (viewBytes s a 256)
   decide (a + n ≤ viewBase) && installed s a n)

/-- Go on with `k` once the first 4 KiB of a session area can be read and the session may be used. -/
def withSession (s : State) (h : Fin 2) (l : Launch) (idx a kind : Nat) (k : List Byte → Session → State) : State :=
  if rangeWaits s (.vse h) l [memR false a 4096] then s
  else
    match rangeBad s l [memR false a 4096] with
    | some bad => unitMemHalt s (.vse h) l.lid idx bad
    | none =>
      if !sesReady s a kind then vseFault s h l.lid 4 8 idx
      else k (viewBytes s a 256) (sessAt s a)

/-- Go on with `k` once some ranges can be read. -/
def vseReads (s : State) (h : Fin 2) (l : Launch) (idx : Nat) (xs : List Range) (k : State) : State :=
  if rangeWaits s (.vse h) l xs then s
  else
    match rangeBad s l xs with
    | some bad => unitMemHalt s (.vse h) l.lid idx bad
    | none => k

/-! ### ESES and DSES (R456) -/

/-- Open a session: read and check the record, write it and a fresh state. -/
def openSession (enc : Bool) (h : Fin 2) (s : State) : State :=
  vseEntry s h (if enc then 0x60 else 0x62) (fun s l idx d =>
    let a := (Config.openSes d).toNat
    let src := opRef (Config.openSrc d).toNat
    if a % 2 ^ 21 ≠ 0 then vseFault s h l.lid 1 8 idx
    else if src.space < 2 then vseFault s h l.lid 1 16 idx
    else
      let rd := Range.mk src.sp false src.addr 256
      match vseBound s l [(memR true a 4096, 8), (rd, 16)] with
      | some off => vseFault s h l.lid 2 off idx
      | none =>
        vseReads s h l idx [rd]
          (let r := readSp s (Config.halfRegion d (Config.openSrc d) h) src.sp src.addr 256
           match (if enc then encRecBad r else decRecBad r) with
           | some off => vseFault s h l.lid 1 off idx
           | none =>
             let x : Session := if enc then
                 .enc { pics := [], group := [], base := none, ended := false, full := rRate r * rD0 r * rFrn r }
               else .dec { units := [], outs := 0, kept := [], count := 0, last := [], latest := [] }
             let st := sessBytes s (if enc then 1 else 2) 0 (if enc then encMaxPic r else 0) x
             nextEntry (issue (keepSess s x) (.vse h) l.lid a (fullMask (r ++ st))) (.vse h)))

def execEses (c : HalfCmd) (s : State) : Host.Outcome State Fault Refusal :=
  .next (unitUpset s (.vse c.h) (· = 0x60) c.u (openSession true c.h))

def execDses (c : HalfCmd) (s : State) : Host.Outcome State Fault Refusal :=
  .next (unitUpset s (.vse c.h) (· = 0x62) c.u (openSession false c.h))

/-! ### Waits and signals (R454) -/

/-- A WAIT or SIG byte is enabled and names a region that the launch does not hold. -/
def sigBad (l : Launch) (d : BitVec 512) (b : Nat) : Bool :=
  fld d b 1 / 128 = 1 && !l.hasRgn (Fin.ofNat 8 (fld d b 1))

/-- The reserved bits and regions of WAIT, WFLAG, SIG and SFLAG. -/
def vseSigs (l : Launch) (d : BitVec 512) : List (Bool × Nat) :=
  [(extra d 2 1 0x87 || sigBad l d 2, 2), (extra d 3 1 0x3F, 3), (extra d 48 1 0x87 || sigBad l d 48, 48),
   (extra d 49 1 0x3F, 49)]

/-- The wait of a descriptor: `k` once the flag is there. -/
def vseWait (s : State) (h : Fin 2) (l : Launch) (d : BitVec 512) (k : State) : State :=
  let r : Fin 8 := Fin.ofNat 8 (fld d 2 1)
  let f : Fin 64 := Fin.ofNat 64 (fld d 3 1)
  if fld d 2 1 / 128 = 1 ∧ flagVal s r f < fld d 50 4 then beginWait s (.vse h) l r f (fld d 50 4) else k

/-- The signals of a descriptor. -/
def vseSignal (s : State) (h : Fin 2) (l : Launch) (idx : Nat) (d : BitVec 512) (n : Nat) : State :=
  if fld d 48 1 / 128 = 1 ∧ 0 < n then
    askFlag s (.vse h) l.lid idx (Fin.ofNat 8 (fld d 48 1)) (Fin.ofNat 64 (fld d 49 1)) n else s

/-- The stores of a row, and with FLAGS.ROWSIG the record's BYTES and a signal (R482, R503). -/
def vseRowOut (s : State) (h : Fin 2) (l : Launch) (idx : Nat) (d : BitVec 512) (j : VseJob) (x : VseRow) : State :=
  let t := x.outs.foldl (fun s w => issue s (.vse h) l.lid w.1 (fullMask w.2)) s
  match x.sig with
  | some n => vseSignal (issue t (.vse h) l.lid j.res (fullMask (toLe 4 n))) h l idx d 1
  | none => t

/-- The decode result record (R502). -/
def decRecord (o : DecOut) (outs nout flags : Nat) : List Byte :=
  let ps := (o.pics.zipIdx).map (fun x => ((outs + x.2) % nout, x.1.order.toNat))
  let first := ps.take 4
  let rest := ps.drop 4
  let pad (n : Nat) (bs : List Byte) : List Byte := bs ++ List.replicate (n - bs.length) 0
  toLe 1 ps.length ++ toLe 1 flags ++ toLe 2 0 ++ toLe 4 o.concealed ++
  pad 8 (first.flatMap (fun x => toLe 2 x.1)) ++ pad 48 (first.flatMap (fun x => toLe 4 x.2)) ++
  pad 128 (rest.flatMap (fun x => toLe 2 x.1 ++ toLe 2 0 ++ toLe 4 x.2))

/-- The stores of the pictures output: each to its slot of the ring (R492). -/
def ringOuts (r : List Byte) (d : BitVec 512) (outs : Nat) (ps : List DecPic) : List (Nat × List Byte) :=
  (ps.zipIdx).flatMap (fun p =>
    picParts (p.1.ten || decide (leAt r 0 1 / 8 % 2 = 1)) (fld d 28 8 + (outs + p.2) % fld d 40 1 * (fld d 36 4 * 64)) p.1)

/-- The end of a descriptor, every store of it accepted: its record is written with DONE, BUSY clears, its events count, and it
signals (R454, R457, R486, Table 11.18). -/
def vseFinish (s : State) (h : Fin 2) (l : Launch) (idx : Nat) (d : BitVec 512) (j : VseJob) (out st : List Byte)
    (lastres filler damaged : Bool) (concealed : Nat) : State :=
  let s := issue s (.vse h) l.lid (j.ses + 256) (fullMask st)
  let s := issue s (.vse h) l.lid j.res (fullMask out)
  let s := if lastres then cfld s .vseRcev h.val 31 16 1 else s
  let s := if filler then cfld s .vseRcev h.val 15 0 1 else s
  let s := if damaged then cfld s .vseDerr h.val 31 16 1 else s
  let s := if 0 < concealed then cfld s .vseDerr h.val 15 0 concealed else s
  nextEntry (modHalf (vseSignal s h l idx d 1) h (fun g => { g with vseJob := none })) (.vse h)

/-- The rows of a decode descriptor are done: its pictures are output to the ring, and its record is formed (R492, R502). -/
def decodeEnd (s : State) (h : Fin 2) (l : Launch) (d : BitVec 512) (j : VseJob) (flush : Bool) (r : List Byte) (k : DecKey)
    (e : DecState) : State :=
  let y := decodeUnit r k flush e
  let x : Session := .dec y.1
  let t := (ringOuts r d e.outs y.2.pics).foldl (fun s w => issue s (.vse h) l.lid w.1 (fullMask w.2)) (keepSess s x)
  let out := decRecord y.2 e.outs (fld d 40 1) (y.2.flags % 128 + 128)
  modHalf t h (fun g => { g with vseJob := some { j with
    tail := .ready out (sessBytes s 2 0 0 x) false false (decide (0 < y.2.flags)) y.2.concealed } })

/-- A row's configuration is noted for a decode descriptor. -/
def VseTail.noteCfg (w : Word) : VseTail → VseTail
  | .decode f r k e => .decode f r { k with now := { k.now with cfgs := k.now.cfgs ++ [w] } } e
  | x => x

/-- A descriptor in progress, the stores so far accepted: its next row, the output of a decode, or its end (R486, R503). -/
def vseGoOn (s : State) (h : Fin 2) (l : Launch) (idx : Nat) (d : BitVec 512) (j : VseJob) : State :=
  match j.todo, j.tail with
  | x :: rest, t => modHalf (vseRowOut s h l idx d j x) h (fun g =>
      { g with vseJob := some { j with todo := rest, tail := t.noteCfg (rreg s .vseCfg h.val) } })
  | [], .decode f r k e => decodeEnd s h l d j f r k e
  | [], .ready out st a b c n => vseFinish s h l idx d j out st a b c n

/-- A descriptor begins: BUSY is set, and its rows follow (R457). -/
def vseBegin (s : State) (h : Fin 2) (l : Launch) (j : VseJob) : State :=
  modHalf (issue s (.vse h) l.lid (j.ses + 259) [(1, 1)]) h (fun g => { g with vseJob := some j })

/-! ### Pictures into the encoder (R463-R467) -/

/-- One source value: its space, byte address and width in bytes. -/
def inVal (s : State) (r : Fin 8) (sp : Space) (a n : Nat) : Nat := leNat (readSp s r sp a n)

/-- The coefficients of Table 11.5. -/
def rgbCoef (bt2020 : Bool) : List Int :=
  if bt2020 then [3686, 9512, 832, -2004, -5171, 7175, 7175, -6598, -577]
  else [2983, 10034, 1013, -1644, -5531, 7175, 7175, -6517, -658]

/-- Conversion of one RGB triple to 10-bit limited range: Y, Cb, Cr (R465). -/
def rgbToYcc (bt2020 : Bool) (r g b : Nat) : Nat × Nat × Nat :=
  let c := rgbCoef bt2020
  let f (i : Nat) (off hi : Int) : Nat :=
    let v : Int := off + (c.getD i 0 * r + c.getD (i + 1) 0 * g + c.getD (i + 2) 0 * b + 8192).fdiv 16384
    (max 64 (min hi v)).toNat
  (f 0 64 940, f 3 512 960, f 6 512 960)

/-- Chroma of an RGB input at half resolution; columns outside take the nearest inside (R466). -/
def chroma420 (w : Nat) (c : Nat → Nat → Nat) (i j : Nat) : Nat :=
  let x (k : Nat) : Nat := min k (w - 1)
  (c (2 * i - 1) (2 * j) + 2 * c (x (2 * i)) (2 * j) + c (x (2 * i + 1)) (2 * j) + c (2 * i - 1) (2 * j + 1)
    + 2 * c (x (2 * i)) (2 * j + 1) + c (x (2 * i + 1)) (2 * j + 1) + 4) / 8

/-- The depth of the output (R467): `eight` says the input samples have 8 bits. -/
def toDepth (ten eight : Bool) (v : Nat) : Nat :=
  if eight then (if ten then 4 * v else v) else if ten then v else min ((v + 2) / 4) 255

/-- The R, G, B values of a pixel as U10 (R208, R235, R464). -/
def rgbAt (s : State) (rg : Fin 8) (fmt w : Nat) (o : OpRef) (plane x y : Nat) : Nat × Nat × Nat :=
  let v (c : Nat) : Nat :=
    let a := if fmt = 4 then o.addr + (y * w + x) * o.stride * 64 + 2 * c
      else o.addr + c * plane * 64 + y * o.stride * 64 + 2 * x
    let n := inVal s rg o.sp a 2
    if fmt = 2 then n % 1024 else toU10 (rnd (decodeElt .bf16 n))
  (v 0, v 1, v 2)

/-- The samples of a picture as the encoder takes them: luma by rows, then Cb and Cr interleaved by rows. -/
def inSamples (s : State) (rg : Fin 8) (r : List Byte) (o : OpRef) (plane : Nat) : List Nat :=
  let w := rW r
  let h := rH r
  let ten := rTen r
  let grid (n m : Nat) : List (Nat × Nat) := (List.range m).flatMap (fun y => (List.range n).map (fun x => (x, y)))
  match rFmt r with
  | 0 =>
    (grid w h).map (fun p => toDepth ten true (inVal s rg o.sp (o.addr + p.2 * o.stride * 64 + p.1) 1)) ++
    (grid w (h / 2)).map (fun p => toDepth ten true (inVal s rg o.sp (o.addr + plane * 64 + p.2 * o.stride * 64 + p.1) 1))
  | 1 =>
    (grid w h).map (fun p => toDepth ten false (inVal s rg o.sp (o.addr + p.2 * o.stride * 64 + 2 * p.1) 2 / 64)) ++
    (grid w (h / 2)).map (fun p =>
      toDepth ten false (inVal s rg o.sp (o.addr + plane * 64 + p.2 * o.stride * 64 + 2 * p.1) 2 / 64))
  | f =>
    let px (x y : Nat) : Nat × Nat × Nat :=
      let v := rgbAt s rg f w o plane x y
      rgbToYcc (leAt r 1 1 / 8 % 2 = 1) v.1 v.2.1 v.2.2
    (grid w h).map (fun p => toDepth ten false (px p.1 p.2).1) ++
    (grid (w / 2) (h / 2)).flatMap (fun p =>
      [toDepth ten false (chroma420 w (fun x y => (px x y).2.1) p.1 p.2),
       toDepth ten false (chroma420 w (fun x y => (px x y).2.2) p.1 p.2)])

/-- The ranges of an input picture (Table 11.4). -/
def picRanges (r : List Byte) (o : OpRef) (plane : Nat) : List Range :=
  let w := rW r
  let h := rH r
  let rows (a n m : Nat) : List Range := (List.range m).map (fun y => Range.mk o.sp false (a + y * o.stride * 64) n)
  match rFmt r with
  | 0 => rows o.addr w h ++ rows (o.addr + plane * 64) w (h / 2)
  | 1 => rows o.addr (2 * w) h ++ rows (o.addr + plane * 64) (2 * w) (h / 2)
  | 4 => rows o.addr 6 (w * h)
  | _ => (List.range 3).flatMap (fun c => rows (o.addr + c * plane * 64) (2 * w) h)

/-! ### Order of pictures (R468, R469, R484) -/

/-- Table 11.7. -/
def groupOrder (g : Nat) : List Nat :=
  match g with
  | 1 => [1]
  | 2 => [2, 1]
  | 4 => [4, 2, 1, 3]
  | _ => [8, 4, 2, 1, 3, 6, 5, 7]

/-- The next key picture after display index `g0`, if KEYINT gives one. -/
def nextKey (r : List Byte) (g0 : Nat) : Option Nat :=
  let k := if rLow r then 0 else leAt r 33 2
  if k = 0 then none else some ((g0 / k + 1) * k)

/-- Whether an EPIC may come next, what it codes (0 key, 1 P, 2 B), and the group and base it leaves; none is
VSE_ORDER. -/
def orderOf (r : List Byte) (e : EncState) (flags didx : Nat) : Option (Nat × List Nat × Nat) :=
  let force := decide (flags % 2 = 1)
  let close := decide (flags / 2 % 2 = 1)
  if e.ended then none
  else
    match e.group, e.base with
    | x :: rest, base => if didx = x && !force then some (if rLow r then 1 else 2, rest, base.getD 0) else none
    | [], none => if didx = 0 then some (0, [], 0) else none
    | [], some g0 =>
      if force || nextKey r g0 = some (g0 + 1) then
        if didx = g0 + 1 && !(force && rLow r) then some (0, [], g0 + 1) else none
      else
        let last := match nextKey r g0 with | none => g0 + rG r | some k => min (g0 + rG r) (k - 1)
        let lst := if close && g0 < didx && decide (didx ≤ last) then didx else last
        if didx ≠ lst then none
        else
          let g := if lst = g0 + rG r then (groupOrder (rG r)).map (g0 + ·)
            else lst :: (List.range (lst - g0 - 1)).map (g0 + 1 + ·)
          some (1, g.tail, lst)

/-! ### EPIC (R471, R483-R486) -/

/-- VSE_DESC of an EPIC: the lowest offset at fault (Table 11.10). -/
def epicBad (l : Launch) (d : BitVec 512) : Option Nat :=
  lowest (vseSigs l d ++ ([
    (extra d 1 1 0xF, 1), (extra d 8 8 (2 ^ 44 - 1) || fld d 8 8 % 2 ^ 21 ≠ 0, 8), (!ref23 d 16, 16),
    (extra d 28 8 (2 ^ 44 - 1), 28), (extra d 40 8 (2 ^ 44 - 1), 40)] : List (Bool × Nat)) ++ resv d 54 10 0)

/-- The encode result record (Table 11.11). -/
def encRecord (r : List Byte) (k : EncKey) (type cidx n : Nat) (c : PicBits) : List Byte :=
  let cqp := decide (rRc r = 0)
  let flags := (if 0 < c.lrctu then 1 else 0) + (if 0 < c.fill then 2 else 0) + (if sweepEnds r cidx then 4 else 0) + 128
  let qp := if cqp ∧ c.lrctu = 0 then 256 * leAt r (28 + type) 1 else Config.encQp k
  toLe 4 n ++ toLe 1 type ++ toLe 1 flags ++ toLe 2 0 ++ toLe 4 k.now.didx ++ toLe 4 cidx ++
    toLe 4 c.lrctu ++ toLe 4 c.fill ++ toLe 8 (if cqp then 0 else (c.after / fullUnit r).toNat) ++ toLe 4 qp ++
    List.replicate 28 0

/-- Encode the picture: BUSY is stored, and the rows and the record follow. -/
def epicCode (s : State) (h : Fin 2) (l : Launch) (d : BitVec 512) (r : List Byte) (e : EncState)
    (o : Nat × List Nat × Nat) : State :=
  let a := fld d 8 8
  let maxpic := memLe s (a + 264) 8
  let now : PicIn := PicIn.mk (fld d 1 1) (fld d 4 4)
    (inSamples s (Config.halfRegion d (BitVec.ofNat 64 (fld d 16 8)) h) r (refAt d 16) (fld d 24 4))
  let k : EncKey := { record := r, fw := fwMajor s, before := e.pics, now := now }
  let c := codePic k r maxpic e.full
  let n := (c.bits + 7) / 8
  let x : Session :=
    .enc (EncState.mk (e.pics ++ [now]) o.2.1 (some o.2.2) (decide (fld d 1 1 / 4 % 2 = 1)) (nextFull r c.after))
  let slot := a + 65536 + Config.encSlot k % (rNref r + 1) * slotBytes true r
  let j : VseJob :=
    { todo := encRows k (codedPic k o.1 e.pics.length c) n a (fld d 28 8) slot (slotBytes true r)
        (rLow r && decide (fld d 1 1 / 8 % 2 = 1))
      res := fld d 40 8, ses := a, rows := rRows r
      tail := .ready (encRecord r k o.1 e.pics.length n c) (sessBytes s 1 0 maxpic x) (decide (0 < c.lrctu)) (decide (0 < c.fill)) false 0 }
  vseBegin (keepSess s x) h l j

/-- EPIC: the checks of its fields, the wait, then those of R457, R485 and R469 in turn, and the coding (R454). -/
def epic (h : Fin 2) (s : State) : State :=
  vseEntry s h 0x61 (fun s l idx d =>
    match (s.halves[h]).vseJob with
    | some j => vseGoOn s h l idx d j
    | none =>
      let a := fld d 8 8
      match epicBad l d, vseBound s l (sesRanges a 4096) with
      | some off, _ => vseFault s h l.lid 1 off idx
      | none, some off => vseFault s h l.lid 2 off idx
      | none, none =>
        vseWait s h l d (withSession s h l idx a 1 (fun r x =>
          if fld d 36 4 < memLe s (a + 264) 8 then vseFault s h l.lid 1 36 idx
          else
            let ins := picRanges r (refAt d 16) (fld d 24 4)
            match vseBound s l (ins.map (fun x => (x, 16)) ++
                [(memR true (fld d 28 8) (fld d 36 4), 28), (memR true (fld d 40 8) 64, 40)] ++ sesRanges a (sessArea true r)), x with
            | some off, _ => vseFault s h l.lid 2 off idx
            | none, .dec _ => vseFault s h l.lid 4 8 idx
            | none, .enc e =>
              match orderOf r e (fld d 1 1) (fld d 4 4) with
              | none => vseFault s h l.lid 3 4 idx
              | some o => vseReads s h l idx ins (epicCode s h l d r e o))))

def execEpic (c : HalfCmd) (s : State) : Host.Outcome State Fault Refusal :=
  .next (unitUpset (endWait s (.vse c.h)) (.vse c.h) (· = 0x61) c.u (epic c.h))

/-! ### DAU and DFLUSH (R488-R502) -/

/-- VSE_DESC of a DAU or DFLUSH (R488): the lowest offset at fault. -/
def dauBad (l : Launch) (d : BitVec 512) (flush : Bool) : Option Nat :=
  lowest (vseSigs l d ++ ([
    (decide (fld d 1 1 ≠ 0), 1), (decide (fld d 4 4 ≠ 0), 4), (extra d 8 8 (2 ^ 44 - 1) || fld d 8 8 % 2 ^ 21 ≠ 0, 8),
    (extra d 16 8 (2 ^ 44 - 1), 16), (flush && fld d 24 4 ≠ 0, 24), (extra d 28 8 (2 ^ 44 - 1), 28),
    (fld d 40 1 = 0 || 64 < fld d 40 1, 40), (extra d 41 7 (2 ^ 44 - 1), 41)] : List (Bool × Nat)) ++ resv d 54 10 0)

/-- OSLOT is too small for the session's largest picture (R489). -/
def slotSmall (r : List Byte) (oslot : Nat) : Bool :=
  let b := if leAt r 2 1 = 1 ∨ leAt r 0 1 / 8 % 2 = 1 then 2 else 1
  decide (2 * (oslot * 64) < 3 * rH r * ((rW r * b + 63) / 64 * 64))

/-- Decode a unit, or flush: BUSY is stored, and the rows, the pictures and the record follow. -/
def dauCode (s : State) (h : Fin 2) (l : Launch) (d : BitVec 512) (flush : Bool) (r : List Byte) (e : DecState) : State :=
  let now : UnitIn := UnitIn.mk (if flush then none else some (viewBytes s (fld d 16 8) (fld d 24 4))) []
  let k : DecKey := { record := r, fw := fwMajor s, before := e.units, now := now }
  let rows := if flush then [] else decRows r k (fld d 8 8) (slotBytes false r)
  vseBegin s h l { todo := rows, res := fld d 41 6, ses := fld d 8 8, rows := ((rows.getLast?).map (·.row)).getD 0,
                   tail := .decode flush r k e }

/-- DAU and DFLUSH: the checks of their fields, the wait, then those of R457 and R489, and the decoding (R454). -/
def dau (flush : Bool) (h : Fin 2) (s : State) : State :=
  vseEntry s h (if flush then 0x64 else 0x63) (fun s l idx d =>
    match (s.halves[h]).vseJob with
    | some j => vseGoOn s h l idx d j
    | none =>
      let a := fld d 8 8
      match dauBad l d flush, vseBound s l (sesRanges a 4096) with
      | some off, _ => vseFault s h l.lid 1 off idx
      | none, some off => vseFault s h l.lid 2 off idx
      | none, none =>
        vseWait s h l d (withSession s h l idx a 2 (fun r x =>
          let rd := memR false (fld d 16 8) (fld d 24 4)
          if slotSmall r (fld d 36 4) then vseFault s h l.lid 1 36 idx
          else
            match vseBound s l ([(rd, 16), (memR true (fld d 28 8) (fld d 40 1 * fld d 36 4 * 64), 28),
                (memR true (fld d 41 6) 192, 41)] ++ sesRanges a (sessArea false r)), x with
            | some off, _ => vseFault s h l.lid 2 off idx
            | none, .enc _ => vseFault s h l.lid 4 8 idx
            | none, .dec e => vseReads s h l idx [rd] (dauCode s h l d flush r e))))

def execDau (c : HalfCmd) (s : State) : Host.Outcome State Fault Refusal :=
  .next (unitUpset (endWait s (.vse c.h)) (.vse c.h) (· = 0x63) c.u (dau false c.h))

def execDflush (c : HalfCmd) (s : State) : Host.Outcome State Fault Refusal :=
  .next (unitUpset (endWait s (.vse c.h)) (.vse c.h) (· = 0x64) c.u (dau true c.h))

/-- VSE_END (R452): the engine stops at an END descriptor. -/
def execVseEnd (h : Fin 2) (s : State) : Host.Outcome State Fault Refusal :=
  .next (vseEntry s h 0x3F (fun s _ _ _ => modRun s (.vse h) (fun u => { u with finished := true })))

end Sys2Proof.Machine
end

