-- ==== Sys2Proof/Machine/Dispatch.lean ====
section
/-! DEFINITION. The meaning of every command, one arm for each constructor of Instr. -/

namespace Sys2Proof.Machine

def exec (i : Instr) (s : State) : Host.Outcome State Fault Refusal :=
  match i with
  | .ldt b u => Sys2Proof.Machine.execLdt b u s
  | .stt b u => Sys2Proof.Machine.execStt b u s
  | .mmf b u => Sys2Proof.Machine.execMmf b u s
  | .mmh b u => Sys2Proof.Machine.execMmh b u s
  | .mmq b u => Sys2Proof.Machine.execMmq b u s
  | .mmv b u => Sys2Proof.Machine.execMmv b u s
  | .cvi b u => Sys2Proof.Machine.execCvi b u s
  | .cvd b u => Sys2Proof.Machine.execCvd b u s
  | .ats b u => Sys2Proof.Machine.execAts b u s
  | .atv b u => Sys2Proof.Machine.execAtv b u s
  | .rsc b u => Sys2Proof.Machine.execRsc b u s
  | .drn b u => Sys2Proof.Machine.execDrn b u s
  | .syn b => Sys2Proof.Machine.execSyn b s
  | .sfl b => Sys2Proof.Machine.execSfl b s
  | .wfl b => Sys2Proof.Machine.execWfl b s
  | .fin b => Sys2Proof.Machine.execFin b s
  | .instructionDispatch b => Sys2Proof.Machine.execInstructionDispatch b s
  | .lineFetch b u => Sys2Proof.Machine.execLineFetch b u s
  | .chunkComplete b => Sys2Proof.Machine.execChunkComplete b s
  | .pairPartialDrain b u => Sys2Proof.Machine.execPairPartialDrain b u s
  | .wardReplay b => Sys2Proof.Machine.execWardReplay b s
  | .barrierArrive b => Sys2Proof.Machine.execBarrierArrive b s
  | .barrierRelease n => Sys2Proof.Machine.execBarrierRelease n s
  | .barrierTimeout n => Sys2Proof.Machine.execBarrierTimeout n s
  | .bcastSend r => Sys2Proof.Machine.execBcastSend r s
  | .bcastTimeout r => Sys2Proof.Machine.execBcastTimeout r s
  | .flagIncrement k => Sys2Proof.Machine.execFlagIncrement k s
  | .wflComplete b => Sys2Proof.Machine.execWflComplete b s
  | .flagTimeout q => Sys2Proof.Machine.execFlagTimeout q s
  | .canopyCacheFill r u => Sys2Proof.Machine.execCanopyCacheFill r u s
  | .cnpInvEntry v => Sys2Proof.Machine.execCnpInvEntry v s
  | .cnpInvAll => Sys2Proof.Machine.execCnpInvAll s
  | .cnpInvApply r => Sys2Proof.Machine.execCnpInvApply r s
  | .bucketSort r => Sys2Proof.Machine.execBucketSort r s
  | .sceConv r => Sys2Proof.Machine.execSceConv r s
  | .sceEnd r => Sys2Proof.Machine.execSceEnd r s
  | .sceWaitSatisfied r => Sys2Proof.Machine.execSceWaitSatisfied r s
  | .uwr r => Sys2Proof.Machine.execUwr r s
  | .lrexp r => Sys2Proof.Machine.execLrexp r s
  | .amxp r => Sys2Proof.Machine.execAmxp r s
  | .sprep r => Sys2Proof.Machine.execSprep r s
  | .gcvt r => Sys2Proof.Machine.execGcvt r s
  | .bern r => Sys2Proof.Machine.execBern r s
  | .unif r => Sys2Proof.Machine.execUnif r s
  | .gaus r => Sys2Proof.Machine.execGaus r s
  | .noise r => Sys2Proof.Machine.execNoise r s
  | .tadd r cycles => Sys2Proof.Machine.execTadd r cycles s
  | .sadd r => Sys2Proof.Machine.execSadd r s
  | .rveEnd r => Sys2Proof.Machine.execRveEnd r s
  | .sample h => Sys2Proof.Machine.execSample h s
  | .samplerRow h => Sys2Proof.Machine.execSamplerRow h s
  | .smpEnd h => Sys2Proof.Machine.execSmpEnd h s
  | .eses h => Sys2Proof.Machine.execEses h s
  | .epic h => Sys2Proof.Machine.execEpic h s
  | .dses h => Sys2Proof.Machine.execDses h s
  | .dau h => Sys2Proof.Machine.execDau h s
  | .dflush h => Sys2Proof.Machine.execDflush h s
  | .vseEnd h => Sys2Proof.Machine.execVseEnd h s
  | .launch ring => Sys2Proof.Machine.execLaunch ring s
  | .launchDispatch katFail => Sys2Proof.Machine.execLaunchDispatch katFail s
  | .timedLaunchRelease lid => Sys2Proof.Machine.execTimedLaunchRelease lid s
  | .launchComplete lid => Sys2Proof.Machine.execLaunchComplete lid s
  | .stop ring => Sys2Proof.Machine.execStop ring s
  | .abort ring => Sys2Proof.Machine.execAbort ring s
  | .resume ring => Sys2Proof.Machine.execResume ring s
  | .regrd ring => Sys2Proof.Machine.execRegrd ring s
  | .regwr ring => Sys2Proof.Machine.execRegwr ring s
  | .mark ring => Sys2Proof.Machine.execMark ring s
  | .nop ring => Sys2Proof.Machine.execNop ring s
  | .saveComplete lid => Sys2Proof.Machine.execSaveComplete lid s
  | .restoreComplete lid => Sys2Proof.Machine.execRestoreComplete lid s
  | .sliceEnd lid => Sys2Proof.Machine.execSliceEnd lid s
  | .turnEnd p => Sys2Proof.Machine.execTurnEnd p s
  | .turnSwitch p => Sys2Proof.Machine.execTurnSwitch p s
  | .memoryRead dpa lid e => Sys2Proof.Machine.execMemoryRead dpa lid e s
  | .memoryReread k e => Sys2Proof.Machine.execMemoryReread k e s
  | .memoryWrite k => Sys2Proof.Machine.execMemoryWrite k s
  | .readModifyWrite k e => Sys2Proof.Machine.execReadModifyWrite k e s
  | .patrolScrub dpa e => Sys2Proof.Machine.execPatrolScrub dpa e s
  | .refresh st => Sys2Proof.Machine.execRefresh st s
  | .stackTempSample st t => Sys2Proof.Machine.execStackTempSample st t s
  | .stackSensorFail st => Sys2Proof.Machine.execStackSensorFail st s
  | .readLaneFail st lane => Sys2Proof.Machine.execReadLaneFail st lane s
  | .writeLaneFail st lane => Sys2Proof.Machine.execWriteLaneFail st lane s
  | .spareSwitchIn st dir => Sys2Proof.Machine.execSpareSwitchIn st dir s
  | .linkRetrainDone st dir => Sys2Proof.Machine.execLinkRetrainDone st dir s
  | .optSpare st v => Sys2Proof.Machine.execOptSpare st v s
  | .memMapreq st v => Sys2Proof.Machine.execMemMapreq st v s
  | .memUnmap st v => Sys2Proof.Machine.execMemUnmap st v s
  | .mscFlush v => Sys2Proof.Machine.execMscFlush v s
  | .mscFlushDone h => Sys2Proof.Machine.execMscFlushDone h s
  | .hingeBeatReceive dir beat ok => Sys2Proof.Machine.execHingeBeatReceive dir beat ok s
  | .hingeCreditReturn dir cls => Sys2Proof.Machine.execHingeCreditReturn dir cls s
  | .hingeRetrainDone outcome => Sys2Proof.Machine.execHingeRetrainDone outcome s
  | .pllLockLoss => Sys2Proof.Machine.execPllLockLoss s
  | .commitRequest g => Sys2Proof.Machine.execCommitRequest g s
  | .discard g => Sys2Proof.Machine.execDiscard g s
  | .configApply g => Sys2Proof.Machine.execConfigApply g s
  | .registerWrite p addr v => Sys2Proof.Machine.execRegisterWrite p addr v s
  | .blkInject b => Sys2Proof.Machine.execBlkInject b s
  | .nonceRead fresh => Sys2Proof.Machine.execNonceRead fresh s
  | .dtcLatchRead => Sys2Proof.Machine.execDtcLatchRead s
  | .ppstsLatchRead => Sys2Proof.Machine.execPpstsLatchRead s
  | .frameReceive f => Sys2Proof.Machine.execFrameReceive f s
  | .pfcFrame quanta => Sys2Proof.Machine.execPfcFrame quanta s
  | .send qp bytes => Sys2Proof.Machine.execSend qp bytes s
  | .sendWithImmediate qp bytes => Sys2Proof.Machine.execSendWithImmediate qp bytes s
  | .rdmaWrite qp key va bytes => Sys2Proof.Machine.execRdmaWrite qp key va bytes s
  | .rdmaWriteWithImmediate qp key va bytes => Sys2Proof.Machine.execRdmaWriteWithImmediate qp key va bytes s
  | .rdmaRead qp key va len fabErr => Sys2Proof.Machine.execRdmaRead qp key va len fabErr s
  | .cmReq qp gid mtu => Sys2Proof.Machine.execCmReq qp gid mtu s
  | .cmRtu qp => Sys2Proof.Machine.execCmRtu qp s
  | .cmDreq qp => Sys2Proof.Machine.execCmDreq qp s
  | .cnpReceive qp => Sys2Proof.Machine.execCnpReceive qp s
  | .rateTick qp => Sys2Proof.Machine.execRateTick qp s
  | .welcomeTimeout qp => Sys2Proof.Machine.execWelcomeTimeout qp s
  | .ownerKeepaliveTimeout => Sys2Proof.Machine.execOwnerKeepaliveTimeout s
  | .hello qp fresh => Sys2Proof.Machine.execHello qp fresh s
  | .prove qp => Sys2Proof.Machine.execProve qp s
  | .keepalive qp => Sys2Proof.Machine.execKeepalive qp s
  | .promote qp => Sys2Proof.Machine.execPromote qp s
  | .handover qp => Sys2Proof.Machine.execHandover qp s
  | .ringOpen qp => Sys2Proof.Machine.execRingOpen qp s
  | .ringClose qp => Sys2Proof.Machine.execRingClose qp s
  | .token qp => Sys2Proof.Machine.execToken qp s
  | .bye qp => Sys2Proof.Machine.execBye qp s
  | .doorbell qp key va bytes => Sys2Proof.Machine.execDoorbell qp key va bytes s
  | .completionWrite ring => Sys2Proof.Machine.execCompletionWrite ring s
  | .bindingExpiry w => Sys2Proof.Machine.execBindingExpiry w s
  | .announce => Sys2Proof.Machine.execAnnounce s
  | .ptpAnnounce master => Sys2Proof.Machine.execPtpAnnounce master s
  | .ptpSync offset => Sys2Proof.Machine.execPtpSync offset s
  | .ptpSyncTimeout => Sys2Proof.Machine.execPtpSyncTimeout s
  | .ppsOut => Sys2Proof.Machine.execPpsOut s
  | .ppsIn => Sys2Proof.Machine.execPpsIn s
  | .pwrEnRise => Sys2Proof.Machine.execPwrEnRise s
  | .hotSwapClose straps => Sys2Proof.Machine.execHotSwapClose straps s
  | .pwrEnFall => Sys2Proof.Machine.execPwrEnFall s
  | .vinFault mv => Sys2Proof.Machine.execVinFault mv s
  | .rstNLow ns => Sys2Proof.Machine.execRstNLow ns s
  | .startUp env => Sys2Proof.Machine.execStartUp env s
  | .refclkRetry => Sys2Proof.Machine.execRefclkRetry s
  | .bootStepTimeout => Sys2Proof.Machine.execBootStepTimeout s
  | .keyringRecordWrite => Sys2Proof.Machine.execKeyringRecordWrite s
  | .fwinstall => Sys2Proof.Machine.execFwinstall s
  | .fwinstallDone ok => Sys2Proof.Machine.execFwinstallDone ok s
  | .cfgprog => Sys2Proof.Machine.execCfgprog s
  | .cold => Sys2Proof.Machine.execCold s
  | .warm => Sys2Proof.Machine.execWarm s
  | .soft fails kat => Sys2Proof.Machine.execSoft fails kat s
  | .shutdown => Sys2Proof.Machine.execShutdown s
  | .savecfg => Sys2Proof.Machine.execSavecfg s
  | .krgRetire v => Sys2Proof.Machine.execKrgRetire v s
  | .krgUnretire v => Sys2Proof.Machine.execKrgUnretire v s
  | .krgBlkrst v ok => Sys2Proof.Machine.execKrgBlkrst v ok s
  | .submit => Sys2Proof.Machine.execSubmit s
  | .close => Sys2Proof.Machine.execClose s
  | .attest => Sys2Proof.Machine.execAttest s
  | .devcert => Sys2Proof.Machine.execDevcert s
  | .grantExpiry => Sys2Proof.Machine.execGrantExpiry s
  | .jtagIdcode => Sys2Proof.Machine.execJtagIdcode s
  | .jtagBypass => Sys2Proof.Machine.execJtagBypass s
  | .jtagSamplePreload => Sys2Proof.Machine.execJtagSamplePreload s
  | .jtagExtest => Sys2Proof.Machine.execJtagExtest s
  | .dbgacc a => Sys2Proof.Machine.execDbgacc a s
  | .dieTempSample h die base opt => Sys2Proof.Machine.execDieTempSample h die base opt s
  | .thermtripTimeout => Sys2Proof.Machine.execThermtripTimeout s
  | .powerCheck watts mv => Sys2Proof.Machine.execPowerCheck watts mv s
  | .pcapbSet v => Sys2Proof.Machine.execPcapbSet v s
  | .pcapbFast v => Sys2Proof.Machine.execPcapbFast v s
  | .pcapdSet v => Sys2Proof.Machine.execPcapdSet v s
  | .hltCrc => Sys2Proof.Machine.execHltCrc s
  | .hltCrcDone => Sys2Proof.Machine.execHltCrcDone s
  | .hltLife => Sys2Proof.Machine.execHltLife s
  | .lifeHourlyUpdate bias => Sys2Proof.Machine.execLifeHourlyUpdate bias s
  | .i3cPrivateWrite bytes => Sys2Proof.Machine.execI3cPrivateWrite bytes s
  | .i3cPrivateRead => Sys2Proof.Machine.execI3cPrivateRead s
  | .i3cDynamicAddress => Sys2Proof.Machine.execI3cDynamicAddress s
  | .linkUp => Sys2Proof.Machine.execLinkUp s
  | .linkDown => Sys2Proof.Machine.execLinkDown s
  | .retryTimeout qp => Sys2Proof.Machine.execRetryTimeout qp s
  | .cfgprogDone ok => Sys2Proof.Machine.execCfgprogDone ok s
  | .grantApplied ok => Sys2Proof.Machine.execGrantApplied ok s
  | .hltLifeDone => Sys2Proof.Machine.execHltLifeDone s
  | .attestDone ok => Sys2Proof.Machine.execAttestDone ok s

end Sys2Proof.Machine
end

