-- ==== Sys2Proof/Machine/Tick.lean ====
section
/-! DEFINITION. What passes with time: one management cycle of 10 ns, which the step takes when no command waits (log 4). -/

namespace Sys2Proof.Machine

/-- The time counter advances by 10 ns with the last frequency correction, and by what is still to be slewed, at most 1 ps in all:
100 ppm (R530). -/
def tickTime (s : State) : State :=
  if counting s then
    let p := s.net.ptp
    let a := p.acc + p.freq
    let f : Int := a / 100000
    let d : Int := max (-1 - f) (min (1 - f) p.slew)
    let ps := ((s.dtcPs : Int) + 10000 + f + d).toNat
    modPtp { s with dtc := s.dtc + BitVec.ofNat 64 (ps / 1000), dtcPs := ps % 1000 }
      (fun p => { p with slew := p.slew - d, acc := a % 100000 })
  else s

/-- A dispatched launch counts its array cycles and its slice; a stop in progress counts its overrun until every unit has
stopped (R391, R394, R754). -/
def tickLaunch (s : State) (l : Launch) : Launch :=
  match l.st with
  | .running => { l with ran := l.ran + 21, sliceLeft := l.sliceLeft - 1 }
  | .stopping => if allStopped s l then l else { l with overrun := l.overrun + 1 }
  | _ => l

/-- The turns of hosted blocks go on while their launch executes (R398). -/
def tickRegion (s : State) (g : Region) : Region :=
  if (g.holder.bind (findLaunch s)).any (fun l => l.st.live) ∧ !stalled s then
    { g with turns := g.turns.map (fun t => if g.hosted.any (fun h => h.2 = t.phys) then { t with used := t.used + 1 } else t) }
  else g

/-- A PFC pause runs out at 16 quanta a cycle, and what it held is sent; the receive buffer drains at the line rate of 1,000 bytes a
cycle (log 153); PPS_OUT falls after its high time; requests that waited for memory go on (R425, R512, Table 16.4). -/
def tickNet (s : State) : State :=
  let s := sendWaiting { s with net := { s.net with
      pause := BitVec.ofNat 16 (s.net.pause.toNat - 16), ppsOut := s.net.ppsOut.filter (fun t => s.cyc < t) } }
  pumpNet (if s.net.depth = 0 then s else flowControl s (s.net.depth - 1000))

/-- Management cycles of a minute. -/
def minute : Nat := 6000000000

/-- Whether part `i` is hot: a stack, or 24 for the dies, at level 2 or 3 (Tables 15.6, 15.7). -/
def isHot (s : State) (i : Nat) : Bool :=
  if i = 24 then decide (2 ≤ rfld s .hltTemp 0 7 6) || decide (2 ≤ rfld s .hltTemp 1 7 6)
  else decide (2 ≤ rfld s .stkStat i 15 14)

/-- HOTMIN counts the minutes of a hot part (Tables 15.6, 15.7). -/
def tickHot (s : State) (i : Nat) : State :=
  if !isHot s i then s
  else
    let n := s.hlt.hot.getD i 0 + 1
    let t := { s with hlt := { s.hlt with hot := modAt s.hlt.hot i (fun _ => if n = minute then 0 else n) } }
    if n = minute then lifeAdd t i 20 4 1 else t

/-- One management cycle. -/
def tick (s : State) : State :=
  let s := pumpJtag (drainQueues (tickNet (tickTime s)))
  let s := { s with launches := s.launches.map (tickLaunch s), regions := s.regions.map (tickRegion s), cyc := s.cyc + 1 }
  (List.range 25).foldl tickHot s

end Sys2Proof.Machine
end

