-- ==== Sys2Proof/Safety.lean ====
section
/-! DEFINITION. What claims call a well-kept state, and how they say what a command leaves unchanged. -/

namespace Sys2Proof.Machine

/-- Device memory is in canonical form: rising addresses, no entry that reads as an unlisted byte does. -/
def Memory.wf (m : Mem) : Bool := swf zeroFill m.bytes

/-- The fuse counts never fall (R620). -/
def fusesKept (s t : State) : Prop := s.fuses.svn ≤ t.fuses.svn ∧ s.fuses.epoch ≤ t.fuses.epoch

/-- A block other than `b` is as it was. -/
def OnlyBlock (b : Fin 48) (s t : State) : Prop := ∀ c : Fin 48, c ≠ b → t.blocks[c] = s.blocks[c]

/-- A region other than `r` is as it was. -/
def OnlyRegion (r : Fin 8) (s t : State) : Prop := ∀ c : Fin 8, c ≠ r → t.regions[c] = s.regions[c]

/-- A half other than `h` is as it was. -/
def OnlyHalf (h : Fin 2) (s t : State) : Prop := ∀ c : Fin 2, c ≠ h → t.halves[c] = s.halves[c]

/-- A stack other than `k` is as it was. -/
def OnlyStack (k : Fin 24) (s t : State) : Prop := ∀ c : Fin 24, c ≠ k → t.stk[c] = s.stk[c]

/-- Every register outside a list of register addresses reads as it did, whatever an unlisted one reads as. -/
def RegsBut (l : List Nat) (s t : State) : Prop := ∀ a, a ∉ l → ∀ d, sget d t.regs a = sget d s.regs a

/-- A list engine stands at an entry of opcode `op` that it may begin: its launch runs, nothing holds it, the entry lies in
good memory that exists (R233, R326, R452, R753). -/
def AtEntry (s : State) (q : WaitUnit) (op : Nat) (u : ListRun) (l : Launch) (d : BitVec 512) : Prop :=
  active s q = some (u, l) ∧ entryThere s u = true ∧ firstBad s (u.base + 64 * u.idx) 64 l.job = none ∧ entryAt s u = d ∧
    fld d 0 1 = op

/-- What a descriptor of an RVE leaves after its next element group, of 65,536 elements of `e` bits each (Table 9.4): the bytes
of the group are written in the order of the writes `ws`, a descriptor of one group writes all of them at once, and the
next group, or after the last the next entry, is current. -/
def GroupLeft (r : Fin 8) (u : ListRun) (l : Launch) (sp : Space) (e : Nat) (ws : List (Nat × List Byte)) (s t : State) : Prop :=
  let g := 8192 * e
  let n := (ws.map (fun w => w.2.length)).sum
  let put (xs : List (Nat × List Byte)) := xs.foldl (fun z w => writeSp z (.rve r) l.lid r sp w.1 (fullMask w.2)) s
  (let z := put (cutWrites (g * u.part) (g * (u.part + 1)) 0 ws)
   t.mem = z.mem ∧ t.regions[r].rbuf = z.regions[r].rbuf) ∧
  (u.part = 0 → n ≤ g → (∀ w ∈ ws, w.2 ≠ []) → t.mem = (put ws).mem ∧ t.regions[r].rbuf = ((put ws).regions[r]).rbuf) ∧
  t.regions[r] = { s.regions[r] with
    rbuf := t.regions[r].rbuf
    rve := if g * (u.part + 1) < n then { s.regions[r].rve with part := u.part + 1 }
      else { s.regions[r].rve with idx := u.idx + 1, waiting := none, ready := [], part := 0 } } ∧
  OnlyRegion r s t ∧
  t = { s with regions := t.regions, flagReqs := t.flagReqs, mem := { s.mem with stores := t.mem.stores } }

/-- No read lane reaches 16 errors in the latest 32 bursts when a burst is corrected (R422). -/
def LanesHold (k : Stack) (e : BurstErr) : Prop :=
  ∀ p ∈ badLanes k e, ((nextHist k e).filter (·.any (· = p))).length < 16

/-- A running launch has halted with a fault. -/
def Halted (t : State) (l : Launch) (code : Nat) : Prop :=
  findLaunch t l.lid = some { l with st := .halted, fault := code, stop := none, resume := none }

/-- A ring's next entry, which the device reads now, is a good command of opcode `op`: its 64 bytes and its CID (R548,
R550). -/
def AtCommand (s : State) (ring : Fin 16) (op : Nat) (e : List Byte) (cid : Word) : Prop :=
  (∃ r a, nextCmd s ring.val = some (r, a) ∧ devBytes s a 64 = e ∧ netBad s a 64 = none ∧ netWaits s a 64 = false) ∧ leAt e 0 1 = op ∧
    cmdBad e = false ∧ (inLoader s = true → loaderOp op = true) ∧ cid = BitVec.ofNat 32 (leAt e 4 4)

/-- The command's completion joins those waiting to be written, behind it only the MARKs that it lets go (R551, R553). -/
def Posted (c : Completion) (s t : State) : Prop :=
  ∃ ms : List Completion, t.comps = s.comps ++ c :: ms ∧
    ∀ m ∈ ms, m.kind = 1 ∧ m.code = 0 ∧ m.ring = c.ring ∧ m.data = []

/-- A ring other than `r` is as it was. -/
def OnlyRing (r : Fin 16) (s t : State) : Prop := ∀ c : Fin 16, c ≠ r → t.rings[c] = s.rings[c]

/-- A connection whose set-up is complete has message `m` of type `typ` in its oldest receive slot, and its role may send
it (R517, R536). -/
def AtMessage (s : State) (qp : BitVec 24) (typ : Nat) (c : Conn) (m : List Byte) (rest : List (List Byte)) : Prop :=
  upConn s qp = some c ∧ c.slots = m :: rest ∧ msgType m = typ ∧ mayMsg c.role typ = true

/-- The connection that the device last acted for, once it has sent a packet that waits for its acknowledgement (R515). -/
def Conn.sent (c : Conn) : Conn := { c with retries := some (c.retries.getD 0) }

/-- What a command hands to the line, in order: it is sent, or while a PFC pause stands waits in order, and with the link down there is no
line (R512, R714). -/
def Sends (xs : List Tx) (s t : State) : Prop :=
  if rfld s .netStat 0 31 31 = 0 then t.net.tx = s.net.tx ∧ t.net.txq = s.net.txq
  else if s.net.pause = 0 then t.net.tx = s.net.tx ++ xs.map (Tx.sent s.net.cfg) ∧ t.net.txq = s.net.txq
  else t.net.tx = s.net.tx ++ (xs.filter (fun x => !x.pauses)).map (Tx.sent s.net.cfg) ∧
    t.net.txq = s.net.txq ++ xs.filter (·.pauses)

/-- Nothing but the network state, the rings, waiting completions, status registers and free values changed. -/
def NetOnly (s t : State) : Prop :=
  t = { s with net := t.net, rings := t.rings, comps := t.comps, regs := t.regs, freeCtr := t.freeCtr }

/-- Nothing is being written to the flash or the fuses, so that a loss of power cuts nothing off. -/
def Settled (s : State) : Prop :=
  s.krg.op = none ∧ s.krg.queue = [] ∧ s.lkp.op = none ∧
    ∀ w, s.power.phase = .starting w → s.power.noRef = true ∨ s.cyc < s.power.time0

/-- Every stack takes writes, no burst is bad, and no write of the device itself waits, so that one is accepted at once. -/
def MemTakes (s : State) : Prop :=
  (∀ k : Fin 24, takesWrites s.stk[k] = true ∧ stackOff s.stk[k] = false) ∧ s.mem.damaged = [] ∧ s.mem.poison = [] ∧
    storesWait s .mgmt = false

/-- What a start-up needs to end ready (R596, Table 13.4): time 0 has come, step 11 is not late, REFCLK is there, the firmware image, the
fuses and the management controller are good, the Hinge trains, and in each half a stack whose lanes lock has a channel in service. -/
def BootGood (env : BootEnv) (warm : Bool) (s : State) : Prop :=
  s.power.time0 ≤ s.cyc ∧ s.cyc ≤ s.power.base + 8960000000 ∧ (env.refclk = true ∨ warm = true) ∧
    (let t := bootRead s warm; fwCheck t t.flash.hdr t.flash.image = .good) ∧ env.fuseOk = true ∧ env.mgmtOk = true ∧
    (trainGives env.hinge (hingeWas s).1).isSome = true ∧
    ∀ h : Fin 2, ∃ k : Fin 24, k.val / 12 = h.val ∧ (∀ x ∈ env.lanes, x.1 ≠ k) ∧
      ∀ o n, krgBody s 5 k.val = some (.chmap o n) → n % 65536 ≠ 65535

/-- Everything volatile is as after a reset; flash and fuses stay, unless writing is cut off (R600, R606, R702). -/
def Wiped (s t : State) : Prop :=
  t.mem = Mem.reset ∧ t.regs = [] ∧ t.launches = [] ∧ t.blocks = State.reset.blocks ∧
    (Settled s → t.flash = s.flash ∧ t.fuses = s.fuses ∧ t.freeCtr = s.freeCtr) ∧
    t.cyc = s.cyc ∧ t.pending = s.pending

end Sys2Proof.Machine
end

