-- ==== Sys2Proof/Certificates/Slice0/Obligations.lean ====
section
/-! DEFINITION. The statements for the provers. Each says what its title says; a docstring names the rules of spec/ it rests
on, and the log entry where a clause is the model's own choice. -/

open Sys2Proof Sys2Proof.Machine

/-- A step runs the command at the front of the queue. With a command c at the front of the queue, a step answers what
exec answers for c on the state with the queue's rest. This is the block form of the step that every per-command
statement reaches a run through. (00_scope.md, 98_glossary.md) -/
def Obligations.StepRunsFrontCommand : Prop :=
  ∀ (c : Instr) (rest : List Instr) (s : State),
    step { s with pending := c :: rest } = exec c { s with pending := rest }

/-- With no command waiting, a step is one management cycle. The model's own choice (log 4): on an empty queue a step
passes 10 ns. The cycle count goes up by one. Where the time counter does not run, it stays; where it runs with no
correction and nothing to slew, it goes on by 10 ns. A running launch counts 21 array cycles and one cycle of its
slice, a waiting one counts nothing. With no request and no debug read waiting for memory, nothing changes but the
cycle count, the time counter, the network port's own state, launches, turns, the hot-minute counters, and the write
queues of the channels, whose oldest bursts leave (log 136), which ends a row of failed write frames. (R6, R527, R530,
R391) -/
def Obligations.IdleStepIsOneManagementCycle : Prop :=
  ∀ s : State, s.pending = [] → (∀ c ∈ s.net.conns, c.waiting = []) → s.jtag.wait = none →
    ∃ t, step s = .next t ∧ t.cyc = s.cyc + 1 ∧
    (counting s = false → t.dtc = s.dtc ∧ t.dtcPs = s.dtcPs) ∧
    (counting s = true → s.net.ptp.slew = 0 → s.net.ptp.freq = 0 → s.net.ptp.acc = 0 → s.dtcPs < 1000 →
      t.dtc = s.dtc + 10 ∧ t.dtcPs = s.dtcPs) ∧
    t.launches.length = s.launches.length ∧
    (∀ (i : Nat) (l : Launch), s.launches[i]? = some l → l.st = .running →
      t.launches[i]? = some { l with ran := l.ran + 21, sliceLeft := l.sliceLeft - 1 }) ∧
    (∀ (i : Nat) (l : Launch), s.launches[i]? = some l → l.st = .waiting → t.launches[i]? = some l) ∧
    (∀ b ∈ t.mem.wq, b ∈ s.mem.wq) ∧ t.net.conns = s.net.conns ∧
    (∀ i : Fin 24, t.stk[i] = { s.stk[i] with badFrames := (t.stk[i]).badFrames }) ∧
    t = { s with cyc := t.cyc, dtc := t.dtc, dtcPs := t.dtcPs, net := t.net, launches := t.launches,
                 regions := t.regions, hlt := t.hlt, stk := t.stk, mem := { s.mem with wq := t.mem.wq } }

/-- At reset every register holds its reset value and nothing is in progress. Every register reads its reset value, in
the active and in the shadow copy; the time counter is 0; memory and its pending stores are empty and no burst is
marked, held or queued; no launch, barrier, flag request, completion or ring exists; no block, region or half is at
work; no command waits. The fuse counts of 0 and the empty memory are the model's choices (logs 24 and 1). (R15, R35,
R527, R543, R620) -/
def Obligations.ResetHoldsResetValues : Prop :=
  (∀ r i, rreg State.reset r i = regReset r ∧ rshadow State.reset r i = regReset r) ∧
  State.reset.dtc = 0 ∧ State.reset.mem.bytes = [] ∧ State.reset.mem.stores = [] ∧ State.reset.mem.poison = [] ∧
  State.reset.mem.damaged = [] ∧ State.reset.mem.held = [] ∧ State.reset.mem.wq = [] ∧ State.reset.launches = [] ∧ State.reset.barriers = [] ∧ State.reset.flagReqs = [] ∧
  State.reset.comps = [] ∧ (∀ i : Fin 16, State.reset.rings[i] = none) ∧
  (∀ b : Fin 48, State.reset.blocks[b].lid = none ∧ State.reset.blocks[b].job = none ∧
    State.reset.blocks[b].iq = []) ∧
  (∀ r : Fin 8, State.reset.regions[r].holder = none ∧ State.reset.regions[r].flags = []) ∧
  (∀ h : Fin 2, State.reset.halves[h].smp.lid = none ∧ State.reset.halves[h].vse.lid = none) ∧
  State.reset.fuses.svn = 0 ∧ State.reset.fuses.epoch = 0 ∧ State.reset.pending = [] ∧
  Memory.wf State.reset.mem = true

/-- An array instruction at the front of its queue completes its start: the array holds it, at chunk 0, with its
operands. MMF, MMH, MMQ, MMV, CVI and CVD each complete: when the instruction is at the front of a free array unit, no
commit of the block's group is pending, its extents are not zero and its reads wait for nothing and meet no bad burst,
the array takes it up: the job holds the instruction word, its valid extents and output parts and its operand rows,
stands at chunk 0 with no partial, and takes the block's pending injection with it. The queue entry is marked as
begun. Every slot but its tree slots, scratchpad and banks keep their contents (what a tree slot holds from then on is
free, log 122), and nothing outside the block changes but the count of free values. (R58, R66, R78, R79, R80, R102,
R213, R220, R747, R111) -/
def Obligations.ArrayFormsStart : Prop :=
  ∀ p ∈ [(opMMF, Instr.mmf), (opMMH, Instr.mmh), (opMMQ, Instr.mmq), (opMMV, Instr.mmv), (opCVI, Instr.cvi),
      (opCVD, Instr.cvd)],
  ∀ (b : Fin 48) (s : State) (e : UEntry) (l : Launch),
    front s b p.1 = some (e, l) → s.blocks[b].job = none → pendingG s (.blk b) = false →
    (extents s b l e.word).1 ≠ 0 → (extents s b l e.word).2.1 ≠ 0 → (extents s b l e.word).2.2 ≠ 0 →
    readsWait s b l (fedTouches s b l e.word) = false → badRead s l (fedTouches s b l e.word) = none →
    ∃ t j, exec (p.2 b .none) s = .next t ∧ t.blocks[b].job = some j ∧
      j.word = e.word ∧ j.idx = e.idx ∧ (j.vm, j.vn, j.vk) = extents s b l e.word ∧ j.geom = geomOf p.1 ∧
      (j.a, j.b) = operandsOf s b l e.word ∧ j.fin = .slot ∧ j.chunk = 0 ∧ j.held = none ∧ j.pairs = [] ∧ j.tree = [] ∧
      j.drained = 0 ∧ j.attempts = 0 ∧ j.replay = false ∧ j.ovw = dOvw e.word ∧ j.acc = dAcc e.word ∧
      j.inject = s.blocks[b].inject ∧
      t.blocks[b] = { s.blocks[b] with
        arrayQ := { e with begun := true } :: s.blocks[b].arrayQ.drop 1, job := some j, inject := false,
        acc := t.blocks[b].acc, slotJunk := t.blocks[b].slotJunk } ∧
      (∀ k, slotOfKey k ∉ treeSlots e.word → t.blocks[b].accAt k = s.blocks[b].accAt k) ∧
      OnlyBlock b s t ∧ t = { s with blocks := t.blocks, freeCtr := t.freeCtr }

/-- A zero extent makes an array, drain, load or store instruction a counted no-op. With VM or VN of 0 every array
form, DRN, LDT and STT retires, adds one to NOOPCNT.MN (saturating) and writes no slot, statistic or destination. With
VM and VN not 0 and VK of 0, a matrix or convolution form retires and adds one to NOOPCNT.KZERO; with OVW = 0 its slot
keeps its value, and with OVW = 1 every element that its form writes is +0. No other register changes, and nothing
outside the block's queue and accumulator memory. The unit is free, no commit of the block's group is pending and no
read waits. That LDT and STT count in MN is R127's. (R126, R128) -/
def Obligations.ZeroExtentIsCountedNoop : Prop :=
  (∀ p ∈ [(opMMF, Instr.mmf), (opMMH, Instr.mmh), (opMMQ, Instr.mmq), (opMMV, Instr.mmv), (opCVI, Instr.cvi),
      (opCVD, Instr.cvd), (opATS, Instr.ats), (opATV, Instr.atv), (opDRN, Instr.drn)],
    ∀ (b : Fin 48) (s : State) (e : UEntry) (l : Launch),
      front s b p.1 = some (e, l) →
      (p.1 = opDRN ∨ s.blocks[b].job = none ∧ pendingG s (.blk b) = false ∧
        readsWait s b l (fedTouches s b l e.word) = false) →
      ((extents s b l e.word).1 = 0 ∨ (extents s b l e.word).2.1 = 0) →
      ∃ t, exec (p.2 b .none) s = .next t ∧ rreg t .blkNoopcnt b.val = satF (rreg s .blkNoopcnt b.val) 15 0 1 ∧
        RegsBut [regAddr .blkNoopcnt b.val] s t ∧
        t.blocks[b] = (if p.1 = opDRN then { s.blocks[b] with drainQ := s.blocks[b].drainQ.drop 1 }
          else { s.blocks[b] with arrayQ := s.blocks[b].arrayQ.drop 1 }) ∧
        OnlyBlock b s t ∧ t = { s with regs := t.regs, blocks := t.blocks }) ∧
  (∀ p ∈ [(opLDT, Instr.ldt), (opSTT, Instr.stt)],
    ∀ (b : Fin 48) (s : State) (e : UEntry) (l : Launch),
      front s b p.1 = some (e, l) →
      (p.1 = opSTT ∨ bankHeld s b e.word = false ∧ readsWait s b l (touches s b l e.word) = false) →
      ((tileExtents l e.word).1 = 0 ∨ (tileExtents l e.word).2 = 0) →
      ∃ t, exec (p.2 b .none) s = .next t ∧ rreg t .blkNoopcnt b.val = satF (rreg s .blkNoopcnt b.val) 15 0 1 ∧
        RegsBut [regAddr .blkNoopcnt b.val] s t ∧
        t.blocks[b] = (if p.1 = opSTT then { s.blocks[b] with drainQ := s.blocks[b].drainQ.drop 1 }
          else { s.blocks[b] with loadQ := s.blocks[b].loadQ.drop 1 }) ∧
        OnlyBlock b s t ∧ t = { s with regs := t.regs, blocks := t.blocks }) ∧
  (∀ p ∈ [(opMMF, Instr.mmf), (opMMH, Instr.mmh), (opMMQ, Instr.mmq), (opMMV, Instr.mmv), (opCVI, Instr.cvi),
      (opCVD, Instr.cvd)],
    ∀ (b : Fin 48) (s : State) (e : UEntry) (l : Launch),
      front s b p.1 = some (e, l) → s.blocks[b].job = none → pendingG s (.blk b) = false →
      readsWait s b l (fedTouches s b l e.word) = false →
      (extents s b l e.word).1 ≠ 0 → (extents s b l e.word).2.1 ≠ 0 → (extents s b l e.word).2.2 = 0 →
      ∃ t, exec (p.2 b .none) s = .next t ∧ rreg t .blkNoopcnt b.val = satF (rreg s .blkNoopcnt b.val) 31 16 1 ∧
        RegsBut [regAddr .blkNoopcnt b.val] s t ∧
        (dOvw e.word = false → t.blocks[b].acc = s.blocks[b].acc) ∧
        (dOvw e.word = true → ∀ k, accKey (dAcc e.word) 0 0 ≤ k →
          k < accKey (dAcc e.word) (if p.1 = opMMV then 16 else 128) 0 → t.blocks[b].accAt k = 0) ∧
        (∀ k, (k < accKey (dAcc e.word) 0 0 ∨ accKey (dAcc e.word) (if p.1 = opMMV then 16 else 128) 0 ≤ k) →
          t.blocks[b].accAt k = s.blocks[b].accAt k) ∧
        t.blocks[b] = { s.blocks[b] with arrayQ := s.blocks[b].arrayQ.drop 1, acc := t.blocks[b].acc } ∧
        OnlyBlock b s t ∧ t = { s with regs := t.regs, blocks := t.blocks })

/-- ATS and ATV complete their start once their page is in place, and a missing entry is asked for. ATS and ATV each
complete: on a free array unit with no commit of the block's group pending and extents that are not zero. Without
FETCH, and with no held or bad burst among the reads, the array takes the instruction up as other forms do, and
nothing else changes. With FETCH, when the page's entry is in hand, passes its checks and its page meets no held or
bad burst: the page's K or V area is in bank B as R183 loads it, the array has taken the instruction up with its
operands from there, and the entry is used up. With FETCH, in a launch that sorts no roster, and an entry that the
cache does not hold: the miss is counted in CNP_MISS, the block waits for the entry, the region has a miss outstanding
on its line, and nothing else changes. (R162, R166, R183, R187, R190) -/
def Obligations.AttentionStartsFromItsPage : Prop :=
  ∀ p ∈ [(opATS, Instr.ats, JobEnd.score), (opATV, Instr.atv, JobEnd.fold)],
  ∀ (b : Fin 48) (s : State) (e : UEntry) (l : Launch),
    front s b p.1 = some (e, l) → s.blocks[b].job = none → pendingG s (.blk b) = false →
    (extents s b l e.word).1 ≠ 0 → (extents s b l e.word).2.1 ≠ 0 → (extents s b l e.word).2.2 ≠ 0 →
    (aFetch e.word = false → readsWait s b l (touches s b l e.word) = false → badRead s l (touches s b l e.word) = none →
      ∃ t j, exec (p.2.1 b .none) s = .next t ∧ t.blocks[b].job = some j ∧ j.word = e.word ∧ j.fin = p.2.2 ∧
        (j.vm, j.vn, j.vk) = extents s b l e.word ∧ (j.a, j.b) = operandsOf s b l e.word ∧ j.chunk = 0 ∧
        j.pairs = [] ∧ j.tree = [] ∧ j.inject = s.blocks[b].inject ∧
        t.blocks[b] = { s.blocks[b] with
          arrayQ := { e with begun := true } :: s.blocks[b].arrayQ.drop 1, job := some j, inject := false } ∧
        OnlyBlock b s t ∧ t = { s with blocks := t.blocks }) ∧
    (∀ (n : Nat) (x : BitVec 256), aFetch e.word = true → (l.fld 72 1 = 0 ∨ s.regions[rgnOf b].bucketsDone = true) →
      s.blocks[b].page = some (.got n x) → cnpCheck s b l e.word x = none →
      (∀ r ∈ fetchRanges (kvFmt e.word) (headDim l e.word) (pageFill s b l e.word) (eBase x) (p.1 = opATV),
        readWaits s r.1 r.2 l.job = false ∧ readBehind s (.blk b) r.1 r.2 = false ∧ firstBad s r.1 r.2 l.job = none) →
      readsWait s b l (touches s b l e.word) = false → badRead s l (touches s b l e.word) = none →
      ∃ t j, exec (p.2.1 b .none) s = .next t ∧ t.blocks[b].job = some j ∧ j.word = e.word ∧ j.fin = p.2.2 ∧
        (j.vm, j.vn, j.vk) = extents s b l e.word ∧
        (j.a, j.b) = operandsOf (loadArea s b l e.word x) b l e.word ∧ j.chunk = 0 ∧ j.pairs = [] ∧
        t.blocks[b] = { s.blocks[b] with
          bankB := ((loadArea s b l e.word x).blocks[b]).bankB, page := none,
          arrayQ := { e with begun := true } :: s.blocks[b].arrayQ.drop 1, job := some j, inject := false } ∧
        OnlyBlock b s t ∧ t = { s with blocks := t.blocks }) ∧
    (aFetch e.word = true → l.fld 72 1 = 0 → s.blocks[b].page = none → cnpRange s b e.word = false →
      cnpHit s.regions[rgnOf b] (cnpWays s (rgnOf b) l.job) (pageIndex s b e.word) = none →
      ∃ t, exec (p.2.1 b .none) s = .next t ∧
        rreg t .cnpMiss (rgnOf b).val = satF (rreg s .cnpMiss (rgnOf b).val) 31 0 1 ∧
        RegsBut [regAddr .cnpMiss (rgnOf b).val] s t ∧
        t.blocks[b] = { s.blocks[b] with page := some (.waiting (pageIndex s b e.word)) } ∧
        (∃ m ∈ t.regions[rgnOf b].misses, m.line = pageIndex s b e.word / 16) ∧
        t.regions[rgnOf b].cache = s.regions[rgnOf b].cache ∧
        OnlyBlock b s t ∧ OnlyRegion (rgnOf b) s t ∧ t = { s with regs := t.regs, blocks := t.blocks, regions := t.regions })

/-- LDT completes: it writes its tile and retires, or joins a broadcast. An LDT with extents that are not zero, whose
destination no attention instruction still holds and whose reads wait for nothing, completes. Without BCAST, and with
no bad burst among its reads: a load to the scratchpad leaves there the rows of the tile in turn, valid elements from
the source and zero elements elsewhere, one to a bank leaves them in the bank, and the load retires. The accumulator
memory and every other block are as they were for it, and nothing else of the device changes. With BCAST: the block
joins the broadcast of its descriptor, waits, and writes nothing. (R129, R136, R114) -/
def Obligations.LoadWritesItsTile : Prop :=
  ∀ (b : Fin 48) (s : State) (e : UEntry) (l : Launch),
    front s b opLDT = some (e, l) → bankHeld s b e.word = false → readsWait s b l (touches s b l e.word) = false →
    (tileExtents l e.word).1 ≠ 0 → (tileExtents l e.word).2 ≠ 0 →
    (lBcast e.word = false → badRead s l (touches s b l e.word) = none →
      ∃ t, exec (.ldt b .none) s = .next t ∧ t.blocks[b].acc = s.blocks[b].acc ∧
        t.blocks[b].loadQ = s.blocks[b].loadQ.drop 1 ∧
        ((lDst e.word).sp = .scratch → t.blocks[b] = { s.blocks[b] with
          loadQ := s.blocks[b].loadQ.drop 1,
          scratch := (ldtRows s b l e.word).foldl (fun m x =>
            sput zeroFill m x.1 (mergeMask (srange zeroFill m x.1 x.2.length) x.2)) s.blocks[b].scratch }) ∧
        (∀ k, (lDst e.word).sp = .bank k → t.blocks[b].scratch = s.blocks[b].scratch ∧
          t.blocks[b].bank k = (ldtRows s b l e.word).foldl (fun m x =>
            sput (s.blocks[b].bankD k) m x.1 (mergeMask (srange (s.blocks[b].bankD k) m x.1 x.2.length) x.2))
            (s.blocks[b].bank k)) ∧
        OnlyBlock b s t ∧ OnlyRegion (rgnOf b) s t ∧ t = { s with blocks := t.blocks, regions := t.regions } ∧
        ((lDst e.word).sp ≠ .rbuf → t = { s with blocks := t.blocks })) ∧
    (lBcast e.word = true →
      ∃ t, exec (.ldt b .none) s = .next t ∧
        (∃ c ∈ t.regions[rgnOf b].bcasts, c.word = e.word ∧ b.val % 6 ∈ c.issued) ∧
        t.blocks[b] = { s.blocks[b] with loadQ := { e with begun := true } :: s.blocks[b].loadQ.drop 1 } ∧
        OnlyBlock b s t ∧ OnlyRegion (rgnOf b) s t ∧ t = { s with blocks := t.blocks, regions := t.regions })

/-- STT completes: it issues the stores of its valid elements and retires. An STT with extents that are not zero
completes in every form: it retires, and changes no accumulator slot, no other block or region, and no byte of memory,
only the stores that wait, the region buffer, the block's own stores and MEM_FRC_STAT's count. One to memory below the
compressed-view range: its stores join those waiting for the memory controllers behind the ones that wait already,
each of them from this block and for its launch, row by row the packed elements at their addresses and, for an MX
tile, the scale bytes of the row; nothing else of the device changes. (R132, R133, R134, R250, R410) -/
def Obligations.StoreIssuesItsTile : Prop :=
  ∀ (b : Fin 48) (s : State) (e : UEntry) (l : Launch),
    front s b opSTT = some (e, l) → (tileExtents l e.word).1 ≠ 0 → (tileExtents l e.word).2 ≠ 0 →
    (∃ t, exec (.stt b .none) s = .next t ∧ t.blocks[b].acc = s.blocks[b].acc ∧
      t.blocks[b].drainQ = s.blocks[b].drainQ.drop 1 ∧ (∃ ps, t.mem = { s.mem with stores := s.mem.stores ++ ps } ∧
        ∀ q ∈ ps, q.src = .blk b ∧ q.lid = l.lid) ∧
      RegsBut [regAddr .memFrcStat 0] s t ∧ OnlyBlock b s t ∧ OnlyRegion (rgnOf b) s t ∧
      t = { s with blocks := t.blocks, regions := t.regions, mem := t.mem, regs := t.regs }) ∧
    ((lDst e.word).sp = .mem →
    (∀ i < (tileExtents l e.word).1,
      tensorRow e.word (lDst e.word) (lRow0 e.word + i) + lCol0 e.word * ((lFmt e.word).getD .bf16).bits / 8 < viewBase) →
    ∃ t ps, exec (.stt b .none) s = .next t ∧ t.mem = { s.mem with stores := s.mem.stores ++ ps } ∧
      ps = (List.range (tileExtents l e.word).1).flatMap (fun i =>
          let f := (lFmt e.word).getD .bf16
          let a := tensorRow e.word (lDst e.word) (lRow0 e.word + i)
          let x := tensorCodes s b (lSrc e.word).sp f
            ((lSrc e.word).addr + i * (lSrc e.word).stride * 64) (lTC e.word) 0 (tileExtents l e.word).2
          let cut (a : Nat) (bs : List (Byte × Byte)) :=
            (cutBursts a bs (bs.length / 512 + 2)).map (fun x => PendStore.mk (.blk b) l.lid e.idx x.1 x.2)
          cut (a + lCol0 e.word * f.bits / 8) (packRow f x.1) ++
            (if f.isMx then cut (a + scaleOff f (extAt l e.word 8) + lCol0 e.word / 32) (fullMask x.2) else [])) ∧
      t.blocks[b] = { s.blocks[b] with drainQ := s.blocks[b].drainQ.drop 1 } ∧ OnlyBlock b s t ∧
      t = { s with blocks := t.blocks, mem := t.mem })

/-- DRN and RSC complete: they leave their results and retire. A DRN with extents that are not zero completes: it
retires with the accumulator memory as it was (a drain reads its slot), and no other block or region and no register,
store or memory byte changed; with NOSTORE and no stage nothing but its queue changes; with no stage, to the
scratchpad and in a format that is not MX, the scratchpad holds row by row the converted valid elements of its slot
and every other byte as before. An RSC completes and retires, and changes nothing but its block. In mode 0 every row
of its slot holds the old elements times the row's α. In mode 1, with two slots and two row-state areas apart, every
row and its m, l and α are those of R174's merge. In mode 2, with the log-sum-exp area apart from the row states,
every row and its log-sum-exp are those of R175. (R115, R117, R132, R147, R151, R171, R173, R174, R175) -/
def Obligations.DrainAndRescaleRetire : Prop :=
  (∀ (b : Fin 48) (s : State) (e : UEntry) (l : Launch),
    front s b opDRN = some (e, l) → (extents s b l e.word).1 ≠ 0 → (extents s b l e.word).2.1 ≠ 0 →
    ∃ t, exec (.drn b .none) s = .next t ∧ t.blocks[b].acc = s.blocks[b].acc ∧
      t.blocks[b].drainQ = s.blocks[b].drainQ.drop 1 ∧
      (nNoStore e.word = true → stages e.word = [] →
        t.blocks[b] = { s.blocks[b] with drainQ := s.blocks[b].drainQ.drop 1 }) ∧
      (nNoStore e.word = false → stages e.word = [] → (nDst e.word).sp = .scratch →
        ((nOfmt e.word).getD .bf16).isMx = false →
        t.blocks[b] = { s.blocks[b] with
          drainQ := s.blocks[b].drainQ.drop 1,
          scratch := ((drnRows s b e.word (extents s b l e.word).1).zipIdx).foldl (fun m row =>
            let bs := packRow ((nOfmt e.word).getD .bf16) ((row.1.take (extents s b l e.word).2.1).map
              (finalElt (isCompat s) ((nOfmt e.word).getD .bf16) 0 none))
            let a := (nDst e.word).addr + row.2 * (nDst e.word).stride * 64
            sput zeroFill m a (mergeMask (srange zeroFill m a bs.length) bs)) s.blocks[b].scratch }) ∧
      OnlyBlock b s t ∧ OnlyRegion (rgnOf b) s t ∧ t = { s with blocks := t.blocks, regions := t.regions } ∧
      ((nDst e.word).sp ≠ .rbuf → t = { s with blocks := t.blocks })) ∧
  (∀ (b : Fin 48) (s : State) (e : UEntry) (l : Launch),
    front s b opRSC = some (e, l) →
    let slot := fld e.word 3 1 % 32
    let slot2 := fld e.word 4 1 % 32
    let n := fld e.word 5 1
    let tc := fld e.word 6 1
    let st := fld e.word 8 2 % 2 ^ 14 * 256
    let st2 := fld e.word 10 2 % 2 ^ 14 * 256
    let lse := fld e.word 12 2 % 2 ^ 14 * 256
    ∃ t, exec (.rsc b .none) s = .next t ∧ t.blocks[b].drainQ = s.blocks[b].drainQ.drop 1 ∧
      (fld e.word 1 1 % 4 = 0 → tc ≤ 128 → t.blocks[b].scratch = s.blocks[b].scratch ∧
        ∀ i < n, accRow t.blocks[b] slot i 0 tc =
          (accRow s.blocks[b] slot i 0 tc).map (fun x => fmul x (rowState s b st i).2.2)) ∧
      (fld e.word 1 1 % 4 = 1 → tc ≤ 128 → n ≤ 128 → slot ≠ slot2 → (st + 16 * n ≤ st2 ∨ st2 + 16 * n ≤ st) →
        ∀ i < n,
          let y := mergeRow (rowState s b st i).1 (rowState s b st i).2.1 (rowState s b st2 i).1
            (rowState s b st2 i).2.1 (accRow s.blocks[b] slot i 0 tc) (accRow s.blocks[b] slot2 i 0 tc)
          accRow t.blocks[b] slot i 0 tc = y.1 ∧ rowState t b st i = y.2) ∧
      (fld e.word 1 1 % 4 = 2 → tc ≤ 128 → (st + 16 * n ≤ lse ∨ lse + 4 * n ≤ st) →
        ∀ i < n,
          let y := finalRow (rowState s b st i).1 (rowState s b st i).2.1 (accRow s.blocks[b] slot i 0 tc)
          accRow t.blocks[b] slot i 0 tc = y.1 ∧ scratchWord t b (lse + 4 * i) = y.2) ∧
      OnlyBlock b s t ∧ t = { s with blocks := t.blocks })

/-- A unit's access error is corrected and counted, or stops the block and halts its launch. For every block
instruction that reads or writes a store (LDT, STT, the matrix and convolution forms, DRN, RSC) at the front of its
unit, able to begin. A single-bit error in a block store is corrected: the command does what it does without the
error, in the state in which BLKn_ECC counts it and names the store. An uncorrectable one in a block store stops the
block's sequencer, discards its instructions that have not begun and halts a running launch with BUF_UNCORR (0x3C03):
the launch holds the code and is halted, and memory bytes, other blocks and regions are as they were. (R93, R99, R565,
R755, R758) -/
def Obligations.UpsetsAreCountedOrHalt : Prop :=
  ∀ p ∈ [(opLDT, Instr.ldt), (opSTT, Instr.stt), (opMMF, Instr.mmf), (opMMH, Instr.mmh), (opMMQ, Instr.mmq),
      (opMMV, Instr.mmv), (opCVI, Instr.cvi), (opCVD, Instr.cvd), (opDRN, Instr.drn), (opRSC, Instr.rsc)],
  ∀ (b : Fin 48) (s : State) (e : UEntry) (l : Launch) (st : Fin 6),
    front s b p.1 = some (e, l) →
    (isArrayOp p.1 = true → s.blocks[b].job = none ∧ pendingG s (.blk b) = false ∧
      readsWait s b l (fedTouches s b l e.word) = false) →
    (p.1 = opLDT → bankHeld s b e.word = false ∧ readsWait s b l (touches s b l e.word) = false) →
    (exec (p.2 b (.single st)) s =
      exec (p.2 b .none) (wfld (cfld s .blkEcc b.val 15 0 1) .blkEcc b.val 19 16 st.val)) ∧
    (l.st = .running → ∃ t, exec (p.2 b (.double st)) s = .next t ∧
      (∃ m, findLaunch t l.lid = some m ∧ m.st = .halted ∧ m.fault = 0x3C03) ∧
      t.blocks[b] = { s.blocks[b] with
        stopped := true, iq := [], loadQ := s.blocks[b].loadQ.filter (·.begun),
        arrayQ := s.blocks[b].arrayQ.filter (·.begun), drainQ := s.blocks[b].drainQ.filter (·.begun),
        syncQ := s.blocks[b].syncQ.filter (·.begun) } ∧
      OnlyBlock b s t ∧ t.mem = s.mem ∧ t.regions = s.regions)

/-- SYN, SFL, WFL and FIN at the front of the sync unit. SYN begins and waits on the barrier it names (log 11), not
yet counted. SFL retires and asks for its increment, behind every store of the block that no controller has accepted.
WFL retires when its flag is at least VAL, and otherwise begins and waits on it, its time counted from its dispatch;
no flag changes. FIN retires, ends the program and empties the instruction queue. Each changes only its own block, and
SFL the list of requests. (R98, R225, R226, R748) -/
def Obligations.SyncInstructionsBegin : Prop :=
  (∀ (b : Fin 48) (s : State) (e : UEntry) (l : Launch), front s b opSYN = some (e, l) →
    ∃ t, exec (.syn b) s = .next t ∧ t.blocks[b] = { s.blocks[b] with
        syncQ := { e with begun := true } :: s.blocks[b].syncQ.drop 1,
        wait := some (.barrier (Config.synBarrier e.word) false) } ∧
      OnlyBlock b s t ∧ t = { s with blocks := t.blocks }) ∧
  (∀ (b : Fin 48) (s : State) (e : UEntry) (l : Launch), front s b opSFL = some (e, l) →
    ∃ t, exec (.sfl b) s = .next t ∧
      t.flagReqs = s.flagReqs ++ [FlagReq.mk (.blk b) e.idx l.lid (Fin.ofNat 8 (fld e.word 2 1))
        (Fin.ofNat 64 (fld e.word 3 1)) (fld e.word 4 4) (s.mem.stores.filter (fun p => p.src = .blk b)).length] ∧
      t.blocks[b] = { s.blocks[b] with syncQ := s.blocks[b].syncQ.drop 1 } ∧
      OnlyBlock b s t ∧ t = { s with blocks := t.blocks, flagReqs := t.flagReqs }) ∧
  (∀ (b : Fin 48) (s : State) (e : UEntry) (l : Launch), front s b opWFL = some (e, l) →
    ∃ t, exec (.wfl b) s = .next t ∧
      t.blocks[b] = (if fld e.word 4 4 ≤ flagVal s (rgnOf b) (Fin.ofNat 64 (fld e.word 3 1)) then
          { s.blocks[b] with syncQ := s.blocks[b].syncQ.drop 1 }
        else { s.blocks[b] with
          syncQ := { e with begun := true } :: s.blocks[b].syncQ.drop 1,
          wait := some (.flag (rgnOf b) (Fin.ofNat 64 (fld e.word 3 1)) (fld e.word 4 4) e.since) }) ∧
      OnlyBlock b s t ∧ t = { s with blocks := t.blocks }) ∧
  (∀ (b : Fin 48) (s : State) (e : UEntry) (l : Launch), front s b opFIN = some (e, l) →
    ∃ t, exec (.fin b) s = .next t ∧ t.blocks[b] = { s.blocks[b] with
        syncQ := s.blocks[b].syncQ.drop 1, finished := true, iq := [] } ∧
      OnlyBlock b s t ∧ t = { s with blocks := t.blocks })

/-- LINE_FETCH completes by filling the queue, INSTRUCTION_DISPATCH by moving its oldest instruction to its unit.
LINE_FETCH completes: for a running block with at least 16 entries free, its line in no held stack and behind no store
of its own, it appends the instructions from the next index to the end of its 1,024-byte line (lines counted from the
start of the program, log 126) and moves the next fetch to the next line; a bad burst met is counted and logged there,
with no launch halted. INSTRUCTION_DISPATCH first applies a pending commit of the block's group, then completes: for a
running block whose oldest instruction was fetched well, is held by nothing and passes the issue checks it puts that
instruction, not begun, with the launch's count of cycles, at the end of its unit's queue, leaves the rest of the
queue, and sets BLKn_PC to the index after it. Nothing else changes. (R94, R95, R746, R97) -/
def Obligations.FetchAndDispatch : Prop :=
  (∀ (b : Fin 48) (s : State) (l : Launch), blkRunning s b = some l → s.blocks[b].iq.length ≤ 16 →
    fetchWaits s b l s.blocks[b].nextFetch = false →
    ∃ t, exec (.lineFetch b .none) s = .next t ∧
      t.blocks[b].iq = s.blocks[b].iq ++ (List.range (16 - s.blocks[b].nextFetch % 16)).map (fun k =>
        fetchWord s b (progRef l b)
          (if (progRef l b).sp = .mem then
            firstBad s ((progRef l b).addr + 1024 * (s.blocks[b].nextFetch / 16)) 1024 l.job else none)
          (s.blocks[b].nextFetch + k)) ∧
      t.blocks[b].nextFetch % 16 = 0 ∧ s.blocks[b].nextFetch < t.blocks[b].nextFetch ∧
      t.blocks[b].nextFetch ≤ s.blocks[b].nextFetch + 16 ∧
      t.blocks[b] = { s.blocks[b] with iq := t.blocks[b].iq, nextFetch := t.blocks[b].nextFetch } ∧
      OnlyBlock b s t ∧ t = { s with blocks := t.blocks, regs := t.regs, hlt := t.hlt } ∧
      (((progRef l b).sp ≠ .mem ∨ firstBad s ((progRef l b).addr + 1024 * (s.blocks[b].nextFetch / 16)) 1024 l.job = none) →
        t = { s with blocks := t.blocks })) ∧
  (∀ (b : Fin 48) (s0 s : State) (l : Launch) (e : IqEntry) (es : List IqEntry) (u : BUnit), s = configApply (.blk b) s0 →
    blkRunning s b = some l → s.blocks[b].iq = e :: es → e.err = .ok → stallOf s b l = none →
    (issueCheck s b l e.word = .ok ∨ issueCheck s b l e.word = .noop) → unitOf (opOf e.word) = some u →
    ∃ t, exec (.instructionDispatch b) s0 = .next t ∧ t.blocks[b].iq = es ∧
      t.blocks[b].queue u = s.blocks[b].queue u ++ [UEntry.mk e.idx e.word false l.ran] ∧
      (∀ v, v ≠ u → t.blocks[b].queue v = s.blocks[b].queue v) ∧
      rreg t .blkPc b.val = BitVec.ofNat 32 (e.idx + 1) ∧ RegsBut [regAddr .blkPc b.val] s t ∧
      t.blocks[b].acc = s.blocks[b].acc ∧ t.blocks[b].scratch = s.blocks[b].scratch ∧ t.blocks[b].job = s.blocks[b].job ∧
      OnlyBlock b s t ∧ t = { s with regs := t.regs, blocks := t.blocks })

/-- An instruction refused at issue stops its block and halts its launch with TILE fault. When, after a pending commit
of the block's group is applied, the oldest instruction of a running block fails the issue check with a code,
INSTRUCTION_DISPATCH records code, field offset and auxiliary value in BLKn_TFAULT with VALID, and its index in
BLKn_TFPC; the sequencer stops, instructions that have not begun are discarded, and the launch is halted with fault
0x3100 plus the code. The instruction is not dispatched, and no byte of memory or of the block's stores changes. (R99,
R125, R755, R758) -/
def Obligations.IssueFaultStopsAndHalts : Prop :=
  ∀ (b : Fin 48) (s0 s : State) (l : Launch) (e : IqEntry) (es : List IqEntry) (c off aux : Nat),
    s = configApply (.blk b) s0 →
    blkRunning s b = some l → s.blocks[b].iq = e :: es → e.err = .ok → stallOf s b l = none →
    issueCheck s b l e.word = .fault c off aux →
    ∃ t, exec (.instructionDispatch b) s0 = .next t ∧
      (∃ m, findLaunch t l.lid = some m ∧ m.st = .halted ∧ m.fault = 0x3100 + c) ∧
      getF (rreg t .blkTfault b.val) 31 31 = 1 ∧ getF (rreg t .blkTfault b.val) 23 16 = c % 256 ∧
      getF (rreg t .blkTfault b.val) 15 8 = off % 256 ∧ getF (rreg t .blkTfault b.val) 7 0 = aux % 256 ∧
      rreg t .blkTfpc b.val = BitVec.ofNat 32 e.idx ∧
      t.blocks[b].stopped = true ∧ t.blocks[b].iq = [] ∧ t.blocks[b].loadQ = s.blocks[b].loadQ.filter (·.begun) ∧
      t.blocks[b].arrayQ = s.blocks[b].arrayQ.filter (·.begun) ∧
      t.blocks[b].scratch = s.blocks[b].scratch ∧ t.blocks[b].acc = s.blocks[b].acc ∧ OnlyBlock b s t ∧ t.mem = s.mem

/-- Chunk completion forms pair partials in order; a replay computes the failed pair again. CHUNK_COMPLETE completes,
while launches do not stand still, for a job that feeds chunks (no failed pair awaits its replay but for the chunk in
progress), with a chunk left and a free accumulator set. With an even chunk held, the pair of the two joins the drain
queue as pair number chunk/2, combined by R67. With none held, a last chunk passes up alone (R68), any other is held.
The job moves to the next chunk; nothing else changes. While a failed pair awaits its replay and the chunk in progress
has completed, nothing is fed. WARD_REPLAY of a job in replay puts in the failed pair's place the pair computed again
from the held operands, and ends the replay; with the chunk in progress not complete, that chunk completes first.
(R66, R67, R68, R88) -/
def Obligations.ChunksPairUpThenDrain : Prop :=
  (∀ (b : Fin 48) (s : State) (j : ArrayJob), s.blocks[b].job = some j → stalled s = false → j.held88 = false →
    j.running = true →
    ∃ t, exec (.chunkComplete b) s = .next t ∧
      (∀ h, j.held = some h → t.blocks[b].job = some { j with
        held := none, chunk := j.chunk + 1, tail := false,
        pairs := j.pairs ++ [(j.chunk / 2, pairVals j.arith h (partialOf s.blocks[b] j j.chunk))] }) ∧
      (j.held = none → j.chunk + 1 = j.chunks → t.blocks[b].job = some { j with
        chunk := j.chunk + 1, tail := false, pairs := j.pairs ++ [(j.chunk / 2, partialOf s.blocks[b] j j.chunk)] }) ∧
      (j.held = none → j.chunk + 1 ≠ j.chunks → t.blocks[b].job = some { j with
        chunk := j.chunk + 1, tail := false, held := some (partialOf s.blocks[b] j j.chunk) }) ∧
      t.blocks[b] = { s.blocks[b] with job := t.blocks[b].job } ∧ OnlyBlock b s t ∧ t = { s with blocks := t.blocks }) ∧
  (∀ (b : Fin 48) (s : State) (j : ArrayJob), s.blocks[b].job = some j → j.held88 = true →
    exec (.chunkComplete b) s = .next s) ∧
  (∀ (b : Fin 48) (s : State) (j : ArrayJob) (q : Nat) (v : List PartVal) (rest : List (Nat × List PartVal)),
    s.blocks[b].job = some j → j.replay = true → stalled s = false → j.pairs = (q, v) :: rest →
    (j.tail = false → ∃ t, exec (.wardReplay b) s = .next t ∧
      t.blocks[b] = { s.blocks[b] with
        job := some { j with replay := false, pairs := (q, pairOf s.blocks[b] j q) :: rest } } ∧
      OnlyBlock b s t ∧ t = { s with blocks := t.blocks }) ∧
    (j.tail = true → ∀ u, exec (.chunkComplete b) s = .next u → exec (.wardReplay b) s = exec (.wardReplay b) u))

/-- A pair partial that fails its checks is logged, discarded and replayed. PAIR_PARTIAL_DRAIN, while launches do not
stand still, of a job that is not in replay, whose oldest pair partial (with the upset element, if any, flipped) fails
a check, or whose injection is due, with an attempt left: the job keeps the pair and everything drained before, is in
replay, has one more attempt, and at a first mismatch notes whether a chunk is in progress; BLKn_WARDLOG reads VALID
with the attempt, the lowest failing row and column (0x80 for none) and the pair, BLKn_WARDPC holds the instruction's
index; no element passes on to a slot or the scratchpad, and the launch goes on. (R87, R88, R92, R102) -/
def Obligations.MismatchIsDiscardedAndReplayed : Prop :=
  ∀ (b : Fin 48) (u : DrainUpset) (s : State) (j : ArrayJob) (l : Launch) (q : Nat) (v : List PartVal)
    (rest : List (Nat × List PartVal)),
    s.blocks[b].job = some j → s.blocks[b].lid.bind (findLaunch s) = some l → j.pairs = (q, v) :: rest →
    j.replay = false → stalled s = false → j.attempts + 1 ≤ getF j.cfg 5 4 → (∀ st, u ≠ .buffer st) →
    let ps := (match u with | .flip p e m => flipElt v p e m | _ => v)
    let inj := j.inject = true ∧ q = 0 ∧ j.attempts = 0
    let w := wardTest j.arith (getF j.cfg 3 0) j.geom ps
    (inj ∨ w.failed = true) →
    ∃ t, exec (.pairPartialDrain b u) s = .next t ∧
      t.blocks[b].job = some { j with
        attempts := j.attempts + 1, replay := true, tail := decide (j.attempts = 0) && j.running } ∧
      getF (rreg t .blkWardlog b.val) 31 31 = 1 ∧
      getF (rreg t .blkWardlog b.val) 30 28 = (j.attempts + 1) % 8 ∧
      (¬ inj → getF (rreg t .blkWardlog b.val) 27 20 = (w.row.getD 0x80) % 256 ∧
        getF (rreg t .blkWardlog b.val) 19 12 = (w.col.getD 0x80) % 256) ∧
      (inj → getF (rreg t .blkWardlog b.val) 27 20 = 0x80 ∧ getF (rreg t .blkWardlog b.val) 19 12 = 0x80) ∧
      getF (rreg t .blkWardlog b.val) 11 0 = q % 4096 ∧ rreg t .blkWardpc b.val = BitVec.ofNat 32 j.idx ∧
      t.blocks[b].acc = s.blocks[b].acc ∧ t.blocks[b].scratch = s.blocks[b].scratch ∧ OnlyBlock b s t ∧
      t.launches = s.launches ∧ t.mem = s.mem

/-- When the last pair partial has passed, the instruction's value is in its slot. PAIR_PARTIAL_DRAIN, while launches
do not stand still, of a matrix instruction of one output part with OVW = 1, at its last pair partial, which passes
every check: with the root of the canonical tree of R339 as value, row i of slot ACC holds the value's row i, every
other word of the accumulator memory reads as before, the job is over, its instruction has left the queue, and the
launch, memory and every other block are as they were. (R68, R69, R111, R109) -/
def Obligations.FinalValueGoesToItsSlot : Prop :=
  ∀ (b : Fin 48) (s : State) (j : ArrayJob) (l : Launch) (q : Nat) (v : List PartVal) (g : PartGeom) (val : List Word),
    s.blocks[b].job = some j → s.blocks[b].lid.bind (findLaunch s) = some l → j.pairs = [(q, v)] →
    stalled s = false → j.replay = false → ¬ (j.inject = true ∧ q = 0 ∧ j.attempts = 0) →
    (wardTest j.arith (getF j.cfg 3 0) j.geom v).failed = false → j.drained + 1 = j.nPairs → j.fin = .slot →
    j.ovw = true → j.geom = [g] → g.r0 = 0 → g.c0 = 0 → g.nc = 128 → g.nr ≤ 128 →
    (rootNode j.arith j.compat (pushNode j.arith j.compat 32 j.tree (1, v.map (·.elts))).1).1 = [val] →
    val.length = g.nr * 128 →
    ∃ t, exec (.pairPartialDrain b .none) s = .next t ∧ t.blocks[b].job = none ∧
      t.blocks[b].arrayQ = s.blocks[b].arrayQ.drop 1 ∧
      (∀ i < g.nr, accRow t.blocks[b] j.acc i 0 128 = (val.drop (i * 128)).take 128) ∧
      (∀ k, (k < accKey j.acc 0 0 ∨ accKey j.acc g.nr 0 ≤ k) → t.blocks[b].accAt k = s.blocks[b].accAt k) ∧
      t.blocks[b].scratch = s.blocks[b].scratch ∧ OnlyBlock b s t ∧
      t = { s with regs := t.regs, blocks := t.blocks, freeCtr := t.freeCtr }

/-- A pair partial that passes its checks joins the canonical tree; one whose last permitted attempt fails halts the
launch. While launches do not stand still. PAIR_PARTIAL_DRAIN completes for a job that is not in replay, whose oldest
pair partial passes every check, with no injection due and pairs still to come: the partial's elements enter the tree
of the job by R69, the pair leaves the queue, the attempts are 0 again and one more pair has drained. The block's
accumulator memory, scratchpad and queues keep their values; of registers only BLKn_WARDCNT may change, by the checks
skipped. PAIR_PARTIAL_DRAIN of a running launch's job that is not in replay, whose oldest pair partial fails a check
with no attempt left: the job ends, its instruction leaves the queue, the sequencer stops and the launch is halted
with 0x3C01; the mismatch is logged with its attempt. An adder that disagrees twice where the drain combines the pair
ends the same way, with the pair logged; where nothing is combined it changes nothing (log 125), as an adder that
disagrees once. An uncorrectable word of a block store met while draining halts with BUF_UNCORR 0x3C03 and ends the
job too. The accumulator memory keeps its value in each case. (R69, R70, R72, R87, R91, R93, R111) -/
def Obligations.CheckedPairPassesOnOrHalts : Prop :=
  (∀ (b : Fin 48) (s : State) (j : ArrayJob) (l : Launch) (q : Nat) (v : List PartVal)
     (rest : List (Nat × List PartVal)),
     s.blocks[b].job = some j → s.blocks[b].lid.bind (findLaunch s) = some l → j.pairs = (q, v) :: rest →
     stalled s = false → j.replay = false → ¬ (j.inject = true ∧ q = 0 ∧ j.attempts = 0) →
     (wardTest j.arith (getF j.cfg 3 0) j.geom v).failed = false → j.drained + 1 ≠ j.nPairs →
     ∃ t, exec (.pairPartialDrain b .none) s = .next t ∧
       t.blocks[b].job = some { j with
         pairs := rest, drained := j.drained + 1, attempts := 0,
         tree := (pushNode j.arith j.compat 32 j.tree (1, v.map (·.elts))).1 } ∧
       rreg t .blkWardcnt b.val =
         satF (rreg s .blkWardcnt b.val) 31 16 (wardTest j.arith (getF j.cfg 3 0) j.geom v).skips ∧
       RegsBut [regAddr .blkWardcnt b.val] s t ∧
       t.blocks[b] = { s.blocks[b] with job := t.blocks[b].job, intSat := t.blocks[b].intSat } ∧
       OnlyBlock b s t ∧ t = { s with regs := t.regs, blocks := t.blocks }) ∧
  (∀ (b : Fin 48) (s : State) (j : ArrayJob) (l : Launch) (q : Nat) (v : List PartVal)
     (rest : List (Nat × List PartVal)),
     s.blocks[b].job = some j → s.blocks[b].lid.bind (findLaunch s) = some l → l.st = .running →
     j.pairs = (q, v) :: rest → stalled s = false → j.replay = false →
     ((wardTest j.arith (getF j.cfg 3 0) j.geom v).failed = true → getF j.cfg 5 4 < j.attempts + 1 →
       ∃ t, exec (.pairPartialDrain b .none) s = .next t ∧
         (∃ m, findLaunch t l.lid = some m ∧ m.st = .halted ∧ m.fault = 0x3C01) ∧
         t.blocks[b].job = none ∧ t.blocks[b].stopped = true ∧
         t.blocks[b].arrayQ = (s.blocks[b].arrayQ.drop 1).filter (·.begun) ∧
         getF (rreg t .blkWardlog b.val) 30 28 = (j.attempts + 1) % 8 ∧
         t.blocks[b].acc = s.blocks[b].acc ∧ OnlyBlock b s t ∧ t.mem = s.mem) ∧
     ((wardTest j.arith (getF j.cfg 3 0) j.geom v).failed = false → ¬ (j.inject = true ∧ q = 0 ∧ j.attempts = 0) →
       combines j v = true → ∃ t, exec (.pairPartialDrain b (.adder true)) s = .next t ∧
       (∃ m, findLaunch t l.lid = some m ∧ m.st = .halted ∧ m.fault = 0x3C01) ∧ t.blocks[b].job = none ∧
       getF (rreg t .blkWardlog b.val) 31 31 = 1 ∧ getF (rreg t .blkWardlog b.val) 11 0 = q % 4096 ∧
       t.blocks[b].acc = s.blocks[b].acc ∧ OnlyBlock b s t ∧ t.mem = s.mem) ∧
     (∀ twice, (twice = true → combines j v = false) →
       exec (.pairPartialDrain b (.adder twice)) s = exec (.pairPartialDrain b .none) s) ∧
     (∀ st, ∃ t, exec (.pairPartialDrain b (.buffer st)) s = .next t ∧
       (∃ m, findLaunch t l.lid = some m ∧ m.st = .halted ∧ m.fault = 0x3C03) ∧ t.blocks[b].job = none ∧
       t.blocks[b].acc = s.blocks[b].acc ∧ OnlyBlock b s t ∧ t.mem = s.mem))

/-- Any change of one element of an integer partial fails a ward check. For every integer part of R output rows and C
output columns whose elements agree with its ward values: if one of its elements is changed by a non-zero mask,
whatever the tolerance, the checks of the part fail, in the row and in the column of the element. So a partial with
one upset element is never passed on (with the rule that a failing partial is discarded). (R62, R81, R84, R87) -/
def Obligations.IntegerUpsetIsDetected : Prop :=
  ∀ (ftol : Nat) (g : PartGeom) (p : PartVal) (e : Nat) (mask : BitVec 32),
    p.elts.length = g.nr * g.nc → e < g.nr * g.nc → mask ≠ 0 →
    (partTest .int ftol g p).failed = false →
    let w := partTest .int ftol g { p with elts := modAt p.elts e (· ^^^ mask) }
    w.failed = true ∧ w.row = some (g.r0 + e / g.nc) ∧ w.col = some (g.c0 + e % g.nc)

/-- An arrival counts after the block's stores, and the release lets every participant go. BARRIER_ARRIVE of a block
that waits on barrier i, with no store of it left to accept, a Control credit of the Hinge where the arrival crosses
it, launches not standing still, and the block not yet among the arrived of its launch: the block is counted, the
barrier of the launch holds it among the arrived with the present array cycle as last arrival, an arrival that crosses
takes its credit, and no other block changes. BARRIER_RELEASE of a barrier that is due, with a Control credit where
its release crosses, which it takes: the barrier is gone, and every arrived block that waits on it has its SYN retired
and waits no longer; a block that had not arrived is as it was. (R47, R48) -/
def Obligations.BarrierArrivesAndReleases : Prop :=
  (∀ (b : Fin 48) (s : State) (l : Launch) (i : Fin 32), s.blocks[b].wait = some (.barrier i false) →
    s.blocks[b].lid.bind (findLaunch s) = some l → l.st.mayBegin = true → stalled s = false →
    storesWait s (.blk b) = false → (arrivalCrosses l b i = true → hingeTakes s (b.val / 24) 0 = true) →
    (∀ x, findBarrier s i l.lid = some x → b.val ∉ x.arrived) →
    ∃ t x, exec (.barrierArrive b) s = .next t ∧ findBarrier t i l.lid = some x ∧ b.val ∈ x.arrived ∧
      x.lastCyc = arrayCyc s ∧ t.blocks[b] = { s.blocks[b] with wait := some (.barrier i true) } ∧
      t.hinge = (if arrivalCrosses l b i then (hingeSend s (b.val / 24) 0).hinge else s.hinge) ∧
      OnlyBlock b s t ∧ t = { s with blocks := t.blocks, barriers := t.barriers, hinge := t.hinge }) ∧
  (∀ (i : Fin 32) (s : State) (x : Nat × Barrier),
    s.barriers.find? (fun x => x.1 = i.val && barrierDue s x && (!releaseCrosses x || hingeTakes s 0 0)) = some x →
    x.2.arrived.Nodup → (∀ n ∈ x.2.arrived, n < 48) →
    ∃ t, exec (.barrierRelease i) s = .next t ∧ findBarrier t i x.2.lid = none ∧
      (∀ b : Fin 48, b.val ∈ x.2.arrived → s.blocks[b].wait = some (.barrier i true) →
        t.blocks[b] = { s.blocks[b] with wait := none, syncQ := s.blocks[b].syncQ.drop 1 }) ∧
      (∀ b : Fin 48, b.val ∉ x.2.arrived → t.blocks[b] = s.blocks[b]) ∧
      t.hinge = (if releaseCrosses x then (hingeSend s 0 0).hinge else s.hinge) ∧
      t = { s with blocks := t.blocks, barriers := t.barriers, hinge := t.hinge })

/-- A barrier, broadcast or flag wait that is overdue halts its launch. BARRIER_TIMEOUT with a late participant of
barrier i, BCAST_TIMEOUT with an overdue broadcast of the region's, FLAG_TIMEOUT with a block's wait whose flag is
below its target after the timeout: the running launch is halted with BARRIER_TIMEOUT 0x3C05, TILE_BCAST_TIMEOUT
0x3109 or FLAG_TIMEOUT 0x3302. Memory bytes and region contents keep their values. The timeouts are R53's with the
factors of R401 and R664. (R53, R137, R230, R401, R664) -/
def Obligations.WaitsTimeOutAndHalt : Prop :=
  (∀ (i : Fin 32) (s : State), ∃ t, exec (.barrierTimeout i) s = .next t ∧
    (∀ x, s.barriers.find? (fun x => x.1 = i.val && barrierLate s x ≠ []) = some x →
      ∃ m, findLaunch t x.2.lid = some m ∧ m.st = .halted ∧ m.fault = 0x3C05) ∧
    ((∀ x ∈ s.barriers, x.1 = i.val → barrierLate s x = []) → t = s) ∧
    t.mem = s.mem ∧ t.blocks = s.blocks ∧ t.regions = s.regions) ∧
  (∀ (r : Fin 8) (s : State) (c : Bcast) (cs : List Bcast) (l : Launch), s.regions[r].bcasts = c :: cs →
    c.data = none → c.missing ≠ [] → findLaunch s c.lid = some l → l.st = .running →
    c.since + timeout s (turnMode s r.val) ≤ l.ran →
    ∃ t, exec (.bcastTimeout r) s = .next t ∧
      (∃ m, findLaunch t c.lid = some m ∧ m.st = .halted ∧ m.fault = 0x3109) ∧ t.mem = s.mem ∧ t.blocks = s.blocks ∧
      t.regions = s.regions) ∧
  (∀ (b : Fin 48) (s : State) (r : Fin 8) (f : Fin 64) (n since : Nat) (lid : BitVec 32) (e : UEntry)
    (es : List UEntry) (l : Launch), s.blocks[b].wait = some (.flag r f n since) → s.blocks[b].lid = some lid →
    s.blocks[b].syncQ = e :: es → findLaunch s lid = some l → l.st = .running → flagVal s r f < n →
    since + timeout s (waitTurn s l) ≤ l.ran →
    ∃ t, exec (.flagTimeout (.blk b)) s = .next t ∧
      (∃ m, findLaunch t lid = some m ∧ m.st = .halted ∧ m.fault = 0x3302) ∧
      t.blocks[b].stopped = true ∧ OnlyBlock b s t ∧ t.mem = s.mem ∧ t.regions = s.regions)

/-- A broadcast is sent, and BCAST_SEND completes, once every participant has issued. BCAST_SEND completes: of a
region whose first broadcast has had its LDT issued by every participant, in a launch that goes on, with a source in
no held or bad burst, all its participants on a physical block whose destination is free, a bank or scratchpad as
destination and no other broadcast in the region: the broadcast is over, each participant's load queue has lost its
front entry, a scratchpad destination holds the rows of the tile in turn, and no block outside the region, no memory
byte, register or flag changes. (R136, R138) -/
def Obligations.BroadcastReachesItsParticipants : Prop :=
  ∀ (r : Fin 8) (s : State) (c : Bcast) (l : Launch), s.regions[r].bcasts = [c] → c.ready = true →
    bcastLaunch s c = some l → (lDst c.word).sp ≠ .rbuf →
    (∀ j ∈ participants c.word, hostedNow s (blkOf r j) = true ∧ bankHeld s (blkOf r j) c.word = false) →
    let b := blkOf r ((participants c.word).headD 0)
    readsWait s b l (touches s b l c.word) = false → badRead s l (touches s b l c.word) = none →
    ∃ t, exec (.bcastSend ⟨r, .none⟩) s = .next t ∧ t.regions[r] = { s.regions[r] with bcasts := [] } ∧
      (∀ j ∈ participants c.word, t.blocks[blkOf r j].loadQ = s.blocks[blkOf r j].loadQ.drop 1 ∧
        t.blocks[blkOf r j].acc = s.blocks[blkOf r j].acc ∧
        ((lDst c.word).sp = .scratch → t.blocks[blkOf r j].scratch = (ldtRows s b l c.word).foldl (fun m x =>
          sput zeroFill m x.1 (mergeMask (srange zeroFill m x.1 x.2.length) x.2)) s.blocks[blkOf r j].scratch)) ∧
      (∀ b : Fin 48, rgnOf b ≠ r → t.blocks[b] = s.blocks[b]) ∧ OnlyRegion r s t ∧
      t = { s with blocks := t.blocks, regions := t.regions }

/-- A flag increment adds to the flag, and one past the largest value is refused. FLAG_INCREMENT of a request whose
earlier stores are accepted, in a launch that runs, while launches do not stand still: where the sum is below 2^32 the
flag holds the sum, the request is gone, every other flag keeps its value and nothing else changes but what the
region's RVE notes of the partials that became ready; where it is not, the flag keeps its value, the region's
RGNn_FLAGFAULT reports VALID with code 1 (FLAG_OVERFLOW), and the launch is halted with 0x3301. (R229) -/
def Obligations.FlagsCountAndOverflow : Prop :=
  ∀ (k : Nat) (s : State) (q : FlagReq) (l : Launch), s.flagReqs[k]? = some q → findLaunch s q.lid = some l →
    l.st = .running → stalled s = false → q.before = 0 →
    (flagVal s q.rgn q.flag + q.inc < 2 ^ 32 →
      ∃ t, exec (.flagIncrement k) s = .next t ∧ flagVal t q.rgn q.flag = flagVal s q.rgn q.flag + q.inc ∧
        (∀ r f, (r, f) ≠ (q.rgn, q.flag) → flagVal t r f = flagVal s r f) ∧ t.flagReqs = s.flagReqs.eraseIdx k ∧
        t.regions[q.rgn] = { s.regions[q.rgn] with flags := t.regions[q.rgn].flags, rve :=
          { s.regions[q.rgn].rve with ready := t.regions[q.rgn].rve.ready } } ∧
        OnlyRegion q.rgn s t ∧ t = { s with regions := t.regions, flagReqs := t.flagReqs }) ∧
    (2 ^ 32 ≤ flagVal s q.rgn q.flag + q.inc → (∀ b, q.src = .blk b → s.blocks[b].lid = some q.lid) →
      ∃ t, exec (.flagIncrement k) s = .next t ∧ (∀ r f, flagVal t r f = flagVal s r f) ∧
        getF (rreg t .rgnFlagfault (flagSrc q.src q.rgn).1.val) 31 31 = 1 ∧
        getF (rreg t .rgnFlagfault (flagSrc q.src q.rgn).1.val) 30 29 = 1 ∧
        (∃ m, findLaunch t q.lid = some m ∧ m.st = .halted ∧ m.fault = 0x3301))

/-- A wait on a flag ends once the flag has reached its target. WFL_COMPLETE of a block whose wait is on a flag at or
above its target, in a launch that may go on, while launches do not stand still: the WFL retires and the block waits
no longer. With the flag below the target nothing changes. SCE_WAIT_SATISFIED does the same for the wait of an SCE.
Flags, memory and registers keep their values. (R226, R244) -/
def Obligations.FlagWaitsEnd : Prop :=
  (∀ (b : Fin 48) (s : State) (r : Fin 8) (f : Fin 64) (n since : Nat) (l : Launch),
    s.blocks[b].wait = some (.flag r f n since) → s.blocks[b].lid.bind (findLaunch s) = some l →
    l.st.mayBegin = true → stalled s = false →
    (n ≤ flagVal s r f → ∃ t, exec (.wflComplete b) s = .next t ∧
      t.blocks[b] = { s.blocks[b] with syncQ := s.blocks[b].syncQ.drop 1, wait := none } ∧ OnlyBlock b s t ∧
      t = { s with blocks := t.blocks }) ∧
    (flagVal s r f < n → exec (.wflComplete b) s = .next s)) ∧
  (∀ (r : Fin 8) (s : State) (w : FlagWait) (l : Launch), s.regions[r].sce.waiting = some w →
    s.regions[r].sce.lid.bind (findLaunch s) = some l → l.st = .running → stalled s = false →
    w.target ≤ flagVal s w.rgn w.flag →
    ∃ t, exec (.sceWaitSatisfied r) s = .next t ∧
      t.regions[r] = { s.regions[r] with sce := { s.regions[r].sce with waiting := none } } ∧ OnlyRegion r s t ∧
      t = { s with regions := t.regions })

/-- A cache fill serves its waiters, and invalidations are queued and applied. CANOPY_CACHE_FILL of a region's oldest
miss with a good table line in no held stack, with the credits to cross where the line lies in the other half, while
launches do not stand still: every block that waits on an entry of it has that entry, the miss is over, and a crossing
read has taken its credits. CNP_INV_ENTRY with fewer than 64 queued adds the entry to every region's pending
invalidations, or, with bit 31 or 64 queued, puts one of all entries in their place, as CNP_INV_ALL does.
CNP_INV_APPLY of a region that no launch holds clears its pending invalidations and, after one of all entries alone,
empties its cache; a held region applies nothing. (R192, R199, R200) -/
def Obligations.CanopyFillAndInvalidation : Prop :=
  (∀ (r : Fin 8) (s : State) (m : CnpMiss) (ms : List CnpMiss), s.regions[r].misses = m :: ms →
    stalled s = false → readWaits s (cnpTable s r + 512 * m.line) 512 m.job = false →
    firstBad s (cnpTable s r + 512 * m.line) 512 m.job = none → crossMay s (halfOf r).val (cnpTable s r + 512 * m.line) = true →
    ∃ t, exec (.canopyCacheFill r .none) s = .next t ∧ t.regions[r].misses = ms ∧
      t.hinge = (crossSend s (halfOf r).val (cnpTable s r + 512 * m.line)).hinge ∧
      (∀ b : Fin 48, ∀ n, (b, n) ∈ missBlocks r m → s.blocks[b].page = some (.waiting n) →
        t.blocks[b].page = some (.got n (entryOf (memBytes s (cnpTable s r + 512 * m.line) 512) (n % 16)))) ∧
      OnlyRegion r s t ∧ t = { s with blocks := t.blocks, regions := t.regions, hinge := t.hinge }) ∧
  (∀ (v : BitVec 32) (s : State), ∃ t, exec (.cnpInvEntry v) s = .next t ∧
    (∀ r : Fin 8, t.regions[r] = { s.regions[r] with
      inv := if getF v 31 31 = 1 ∨ 64 ≤ invQueued s then [none] else s.regions[r].inv ++ [some (getF v 18 0)] }) ∧
    t = { s with regions := t.regions }) ∧
  (∀ s : State, ∃ t, exec .cnpInvAll s = .next t ∧ (∀ r : Fin 8, t.regions[r] = { s.regions[r] with inv := [none] }) ∧
    t = { s with regions := t.regions }) ∧
  (∀ (r : Fin 8) (s : State), (s.regions[r].holder.isSome = true → exec (.cnpInvApply r) s = .next s) ∧
    (s.regions[r].holder = none → ∃ t, exec (.cnpInvApply r) s = .next t ∧ t.regions[r].inv = [] ∧
      (s.regions[r].inv = [none] → t.regions[r].cache = []) ∧
      (∀ e, s.regions[r].inv = [some e] → t.regions[r].cache = s.regions[r].cache.map (dropEntry e)) ∧
      t.regions[r] = { s.regions[r] with inv := [], cache := t.regions[r].cache } ∧ OnlyRegion r s t ∧
      t = { s with regions := t.regions }))

/-- The bucket sort lays the roster's granules in bucket order, or halts on a count that differs. BUCKET_SORT of a
region held by a running launch with buckets, not yet sorted. When every bucket's count equals its shape slot and no
page-list granule is bad or in a held stack, the granules of the roster's page lists lie in the region buffer in
bucket order, roster order within a bucket, from the launch's place (log 40), the sort is marked as done and nothing
else changes. When bucket k is the first whose count differs, the launch is halted with BKT_COUNT (0x3206), CNP_FAULT
names code 6 and the bucket, and the region buffer keeps its bytes. (R201, R202) -/
def Obligations.BucketSortIsStable : Prop :=
  ∀ (r : Fin 8) (s : State) (l : Launch), s.regions[r].holder.bind (findLaunch s) = some l → l.st = .running →
    l.fld 72 1 ≠ 0 → s.regions[r].bucketsDone = false → stalled s = false →
    (bucketBad l = none →
      (∀ x ∈ l.roster, readWaits s (roPlist x) (plistBytes x) l.job = false ∧
        firstBad s (roPlist x) (plistBytes x) l.job = none) →
      ∃ t, exec (.bucketSort r) s = .next t ∧
        t.regions[r] = { s.regions[r] with
          bucketsDone := true,
          rbuf := sput zeroFill s.regions[r].rbuf (Config.bucketBase l.hdr r).val
            (((((List.range (l.fld 72 1)).flatMap (bucket l)).flatMap (fun x =>
              memBytes s (roPlist x) (plistBytes x))).take (Space.rbuf.size - (Config.bucketBase l.hdr r).val))) } ∧
        OnlyRegion r s t ∧ t = { s with regions := t.regions }) ∧
    (∀ k, bucketBad l = some k → k < 8 →
      ∃ t, exec (.bucketSort r) s = .next t ∧
        (∃ m, findLaunch t l.lid = some m ∧ m.st = .halted ∧ m.fault = 0x3206) ∧
        getF (rreg t .cnpFault r.val) 31 31 = 1 ∧ getF (rreg t .cnpFault r.val) 30 28 = 6 ∧
        getF (rreg t .cnpFault r.val) 18 0 = k ∧ t.regions = s.regions ∧ t.mem = s.mem)

/-- SCE_CONV completes a lane round, the last one signals, counts and gives way; END ends the list. SCE_CONV completes
at a CONV entry that passes the checks of R238, R239 and R255, with its wait satisfied and no held or bad burst among
its reads: the 2,048 outputs (y, x, channel) of its next lane round (in the order of log 141) have been written, each
as the two bytes of its value of R241 to R243, to the region buffer or as stores for the controllers. While lane
rounds are left the next one is current and nothing else changes; after the last, one more descriptor is counted in
SCE_DONE, the signal is asked for and the next entry is current. SCE_END at an END entry finishes the run and changes
nothing else. (R233, R241, R242, R243, R245, R246, R247, Table 9.4) -/
def Obligations.SceConvolvesAndEnds : Prop :=
  (∀ (r : Fin 8) (s : State) (u : ListRun) (l : Launch) (d : BitVec 512), AtEntry s (.sce r) 0x01 u l d →
    sceDescBad d = none → sceBound s l (sceOf d) = none → sceFrc s (sceOf d) = none →
    (u.part = 0 → fld d 52 1 / 128 = 1 → fld d 56 4 ≤ flagVal s r (Fin.ofNat 64 (fld d 52 1))) →
    rangeWaits s (.sce r) l ((sceOf d).reads ++ (sceOf d).params) = false →
    rangeBad s l ((sceOf d).reads ++ (sceOf d).params) = none →
    ∃ t, exec (.sceConv ⟨r, .none⟩) s = .next t ∧
      (let w := (((sceOf d).outs.flatMap (fun o => (List.range (sceOf d).cout).map (fun ch => (o, ch)))).drop
          (2048 * u.part)).take 2048
        let z := w.foldl (fun z x =>
          let v := sceOut s r (sceOf d) (sceInputs s r (sceOf d) x.1.1 x.1.2) x.2
          writeSp z (.sce r) l.lid r (sceOf d).dst.sp ((sceOf d).dstAt x.1.1 x.1.2 x.2)
            (fullMask (toLe 2 (if (sceOf d).lout = 3 then toU10 v else convert .bf16 none v)))) s
        t.mem = z.mem ∧ t.regions[r].rbuf = z.regions[r].rbuf ∧ t.regions[r].flags = s.regions[r].flags) ∧
      (u.part + 1 < (sceOf d).rounds → t.regions[r].sce = { s.regions[r].sce with part := u.part + 1 } ∧
        t.regs = s.regs ∧ t.flagReqs = s.flagReqs) ∧
      ((sceOf d).rounds ≤ u.part + 1 →
        t.regions[r].sce = { s.regions[r].sce with idx := u.idx + 1, waiting := none, ready := [], part := 0 } ∧
        rreg t .sceDone r.val = satF (rreg s .sceDone r.val) 31 0 1 ∧ RegsBut [regAddr .sceDone r.val] s t ∧
        (fld d 53 1 / 128 = 0 → t.flagReqs = s.flagReqs) ∧
        (fld d 53 1 / 128 = 1 → ∃ q, t.flagReqs = s.flagReqs ++ [q] ∧ q.src = .sce r ∧ q.rgn = r ∧ q.inc = 1 ∧
          q.flag = Fin.ofNat 64 (fld d 53 1))) ∧
      OnlyRegion r s t ∧ t = { s with regs := t.regs, regions := t.regions, mem := t.mem, flagReqs := t.flagReqs }) ∧
  (∀ (r : Fin 8) (s : State) (u : ListRun) (l : Launch) (d : BitVec 512), AtEntry s (.sce r) 0x3F u l d →
    ∃ t, exec (.sceEnd r) s = .next t ∧
      t.regions[r] = { s.regions[r] with sce := { s.regions[r].sce with finished := true } } ∧
      OnlyRegion r s t ∧ t = { s with regions := t.regions })

/-- UWR, LREXP and AMXP complete: they leave their records and give way to the next entry. Each completes at an entry
that passes its checks, with its record in the table, its operands inside their spaces and grants and no held or bad
burst among its reads. UWR: the layer record's RHO2 is NaN 0x7FC00000 when a non-finite count is not 0, else 0 or
+infinity when the weight sum is 0, else the update sum times the reciprocal of the weight sum; STEPS goes up by one;
its three stores are issued. LREXP stores AMAXU and EXP, with the largest exponent of R292. AMXP of a record that
counted elements stores the amax at HEAD and the STATE with HEAD on by one modulo 16; of one that counted none, it
stores nothing. Each moves to the next entry and changes nothing else. (R290, R291, R292, R293) -/
def Obligations.TrainingRecordsAreWritten : Prop :=
  (∀ (r : Fin 8) (s : State) (u : ListRun) (l : Launch) (d : BitVec 512), AtEntry s (.rve r) 0x40 u l d →
    uwrBad d = none → tIndex d < nLayer s r → (uwrRanges s r d).all (fun x => x.ok s l) = true →
    rangeWaits s (.rve r) l (uwrRanges s r d) = false → rangeBad s l (uwrRanges s r d) = none →
    ∃ t rho, exec (.uwr ⟨r, .none⟩) s = .next t ∧
      ((statAt s r (tSrcA d) 2 ≠ 0 ∨ statAt s r (tSrcB d) 2 ≠ 0) → rho = 0x7FC00000) ∧
      (statAt s r (tSrcA d) 2 = 0 → statAt s r (tSrcB d) 2 = 0 →
        ((Machine.val (statAt s r (tSrcB d) 1)).isZero = true →
          rho = if (Machine.val (statAt s r (tSrcA d) 1)).isZero then 0 else 0x7F800000) ∧
        ((Machine.val (statAt s r (tSrcB d) 1)).isZero = false →
          rho = fmul (statAt s r (tSrcA d) 1) (recip (statAt s r (tSrcB d) 1)))) ∧
      (∃ fl, t.mem.stores = ((issue (issue (issue s (.rve r) l.lid (layerAt s r (tIndex d)) (fullMask (toLe 4 rho.toNat)))
          (.rve r) l.lid (layerAt s r (tIndex d) + 9) (fullMask (toLe 1 fl)))
          (.rve r) l.lid (layerAt s r (tIndex d) + 12)
            (fullMask (toLe 4 (memWord s (layerAt s r (tIndex d) + 12) + 1).toNat)))).mem.stores ∧
        fl / 2 % 2 = (if statAt s r (tSrcA d) 2 ≠ 0 ∨ statAt s r (tSrcB d) 2 ≠ 0 then 1 else 0)) ∧
      t.regions[r] = { s.regions[r] with rve := { s.regions[r].rve with
        idx := u.idx + 1, waiting := none, ready := [], part := 0 } } ∧
      OnlyRegion r s t ∧ t = { s with regions := t.regions, mem := { s.mem with stores := t.mem.stores } }) ∧
  (∀ (r : Fin 8) (s : State) (u : ListRun) (l : Launch) (d : BitVec 512), AtEntry s (.rve r) 0x41 u l d →
    lrexpBad d = none → tIndex d < nLayer s r → (lrexpRanges s r d).all (fun x => x.ok s l) = true →
    rangeWaits s (.rve r) l (lrexpRanges s r d) = false → rangeBad s l (lrexpRanges s r d) = none →
    ∃ t, exec (.lrexp ⟨r, .none⟩) s = .next t ∧
      (let e := lrexpExp s r d
       let z := writeSp (issue s (.rve r) l.lid (layerAt s r (tIndex d) + 4)
          (fullMask (toLe 4 (statAt s r (tSrcA d) 0).toNat ++ toLe 1 (BitVec.ofInt 8 e).toNat)))
          (.rve r) l.lid r (tDst d).sp (tDst d).addr (fullMask (wordBytes [rnd (pow2 e), rnd (pow2 (-e))]))
       t.mem = z.mem ∧ t.regions[r].rbuf = z.regions[r].rbuf ∧ (-32) ≤ e ∧ e ≤ 31) ∧
      t.regions[r].rve = { s.regions[r].rve with idx := u.idx + 1, waiting := none, ready := [], part := 0 } ∧
      OnlyRegion r s t ∧ t = { s with regions := t.regions, mem := { s.mem with stores := t.mem.stores } }) ∧
  (∀ (r : Fin 8) (s : State) (u : ListRun) (l : Launch) (d : BitVec 512), AtEntry s (.rve r) 0x42 u l d →
    amxpBad d = none → amRec s r d = false → (amxpRanges s r d).all (fun x => x.ok s l) = true →
    rangeWaits s (.rve r) l (amxpRanges s r d) = false → rangeBad s l (amxpRanges s r d) = none →
    ∃ t, exec (.amxp ⟨r, .none⟩) s = .next t ∧ (statAt s r (tSrcA d) 3 = 0 → t.mem = s.mem) ∧
      (statAt s r (tSrcA d) 3 ≠ 0 → ∃ w : Word,
        getF w 3 0 = (getF (amState s r d) 3 0 + 1) % 16 ∧
        getF w 8 4 = min (getF (amState s r d) 8 4 + 1) 16 ∧
        (statAt s r (tSrcA d) 2 ≠ 0 → getF w 10 10 = 1) ∧
        t.mem = (issue (issue s (.rve r) l.lid (amaxAt s r (tIndex d) + 4 * getF (amState s r d) 3 0)
            (fullMask (toLe 4 (statAt s r (tSrcA d) 0).toNat)))
          (.rve r) l.lid (amaxAt s r (tIndex d) + 64) (fullMask (toLe 4 w.toNat))).mem) ∧
      t.regions[r] = { s.regions[r] with rve := { s.regions[r].rve with
        idx := u.idx + 1, waiting := none, ready := [], part := 0 } } ∧
      OnlyRegion r s t ∧ t = { s with regions := t.regions, mem := { s.mem with stores := t.mem.stores } })

/-- SPREP completes by storing the next scale, or loses it; GCVT completes by writing its narrowed elements. SPREP
completes at an entry that passes its checks, with no held or bad burst among its reads. With a history: the STATE
word is stored with the exponent of R294, within -126 to 127, and the scale word 2 to that exponent is written; the
fall-back counter stays. With a probe that counted elements: the same STATE store comes first, and the fall-back
counter goes up. With neither, TRN_STAT reports code 4 (AMAX_LOST) and the launch is halted with 0x3504. GCVT
completes at an entry that passes its checks, in a region whose Tumbler array is in use: the next group of 65,536
converted elements is written in order to its destination. Each moves to the next entry, GCVT after its last group; no
flag changes. (R273, R294, R295, R296, Table 9.4) -/
def Obligations.ScalesAreDerivedAndGradientsNarrowed : Prop :=
  (∀ (r : Fin 8) (s : State) (u : ListRun) (l : Launch) (d : BitVec 512), AtEntry s (.rve r) 0x43 u l d →
    sprepBad d = none → amRec s r d = false → (sprepRanges s r d).all (fun x => x.ok s l) = true →
    rangeWaits s (.rve r) l (sprepRanges s r d) = false → rangeBad s l (sprepRanges s r d) = none → spProbe s r d = false →
    ∃ t, exec (.sprep ⟨r, .none⟩) s = .next t ∧
      (let z := writeSp (issue s (.rve r) l.lid (amaxAt s r (tIndex d) + 64) (fullMask (toLe 4 (spState s r d).toNat)))
          (.rve r) l.lid r (tDst d).sp (tDst d).addr (fullMask (wordBytes [rnd (pow2 (sprepExp s r d))]))
       t.mem = z.mem ∧ t.regions[r].rbuf = z.regions[r].rbuf) ∧
      getF (spState s r d) 23 16 = (BitVec.ofInt 8 (sprepExp s r d)).toNat ∧ -126 ≤ sprepExp s r d ∧
      sprepExp s r d ≤ 127 ∧
      t.regions[r].rve = { s.regions[r].rve with idx := u.idx + 1, waiting := none, ready := [], part := 0 } ∧
      t.regions[r].flags = s.regions[r].flags ∧ OnlyRegion r s t ∧
      t = { s with regions := t.regions, mem := { s.mem with stores := t.mem.stores } }) ∧
  (∀ (r : Fin 8) (s : State) (u : ListRun) (l : Launch) (d : BitVec 512), AtEntry s (.rve r) 0x43 u l d →
    sprepBad d = none → amRec s r d = false → (sprepRanges s r d).all (fun x => x.ok s l) = true →
    rangeWaits s (.rve r) l (sprepRanges s r d) = false → rangeBad s l (sprepRanges s r d) = none → spProbe s r d = true →
    (statAt s r (tSrcA d) 3 ≠ 0 → ∃ t, exec (.sprep ⟨r, .none⟩) s = .next t ∧
      t.regions[r].rve = { s.regions[r].rve with idx := u.idx + 1, waiting := none, ready := [], part := 0 } ∧
      t.regions[r].flags = s.regions[r].flags ∧
      (∃ ps, t.mem = { s.mem with stores := (issue s (.rve r) l.lid (amaxAt s r (tIndex d) + 64)
        (fullMask (toLe 4 (spState s r d).toNat))).mem.stores ++ ps }) ∧
      getF (spState s r d) 23 16 = (BitVec.ofInt 8 (sprepExp s r d)).toNat ∧ -126 ≤ sprepExp s r d ∧
      sprepExp s r d ≤ 127 ∧ rreg t .rveFbcnt r.val = satF (rreg s .rveFbcnt r.val) 31 0 1 ∧
      RegsBut [regAddr .rveFbcnt r.val] s t ∧ OnlyRegion r s t ∧
      t = { s with regs := t.regs, regions := t.regions, mem := t.mem }) ∧
    (statAt s r (tSrcA d) 3 = 0 → ∃ t, exec (.sprep ⟨r, .none⟩) s = .next t ∧
      (∃ m, findLaunch t l.lid = some m ∧ m.st = .halted ∧ m.fault = 0x3504) ∧
      getF (rreg t .rveTrnstat r.val) 31 31 = 1 ∧ getF (rreg t .rveTrnstat r.val) 30 28 = 4 ∧ t.mem = s.mem)) ∧
  (∀ (r : Fin 8) (s : State) (u : ListRun) (l : Launch) (d : BitVec 512), AtEntry s (.rve r) 0x44 u l d →
    gcvtBad d = none → (gcvtRanges d).all (fun x => x.ok s l) = true → s.regions[r].rveOut = false →
    rangeWaits s (.rve r) l (gcvtRanges d) = false → rangeBad s l (gcvtRanges d) = none →
    ∃ t, exec (.gcvt ⟨r, .none⟩) s = .next t ∧
      (let f := (tFmt d).getD .bf16
       let out := ((readWords s r (tSrcA d).sp (tSrcA d).addr (gN d)).zipIdx).flatMap (fun x => toLe (f.bits / 8)
          (convert f (some (srWord (launchKey s l) l.step (gStream d) (x.2 / gWidth d) (x.2 % gWidth d))) x.1))
       GroupLeft r u l (tDst d).sp f.bits [((tDst d).addr, out)] s t) ∧
      t.flagReqs = s.flagReqs)

/-- BERN, UNIF, GAUS and NOISE complete by writing their variates, and a failed unit halts the launch. Each completes
at an entry that passes its checks and ranges, in a region whose Tumbler array is in use: its next group of 65,536
elements is written. BERN writes COUNT areas of 2,048 bytes (an element a bit), UNIF and GAUS the COUNT elements from
E0 converted to the format, NOISE for every request of the shape slot its elements, keyed on the request's seed and
step, at its pitch; each moves to the next entry after its last group and changes nothing but its destination. With
the array out of use the launch is halted with TMB_KAT (0x3C06) and nothing is written. (R319, R320, R322, R323, R324,
R336, Table 9.4) -/
def Obligations.VariatesAreWritten : Prop :=
  (∀ (r : Fin 8) (s : State) (u : ListRun) (l : Launch) (d : BitVec 512), AtEntry s (.rve r) 0x48 u l d →
    bernBad d = none → (wrR (vDst d) (2048 * vCount d)).ok s l = true →
    (s.regions[r].rveOut = false → ∃ t, exec (.bern r) s = .next t ∧ t.flagReqs = s.flagReqs ∧
      GroupLeft r u l (vDst d).sp 1
        [((vDst d).addr, (List.range (vCount d)).flatMap (bernArea (launchKey s l) l.step d))] s t) ∧
    (s.regions[r].rveOut = true → ∃ t, exec (.bern r) s = .next t ∧
      (∃ m, findLaunch t l.lid = some m ∧ m.st = .halted ∧ m.fault = 0x3C06) ∧ t.mem = s.mem ∧
      t.regions[r].rbuf = s.regions[r].rbuf)) ∧
  (∀ p ∈ [(0x49, Instr.unif, unifElt), (0x4A, Instr.gaus, gausElt)],
    ∀ (r : Fin 8) (s : State) (u : ListRun) (l : Launch) (d : BitVec 512), AtEntry s (.rve r) p.1 u l d →
    vecBad d = none → (wrR (vDst d) (vElt d * vCount d)).ok s l = true → s.regions[r].rveOut = false →
    ∃ t, exec (p.2.1 r) s = .next t ∧ t.flagReqs = s.flagReqs ∧
      GroupLeft r u l (vDst d).sp (8 * vElt d) [((vDst d).addr, (List.range (vCount d)).flatMap (fun k =>
        toLe (vElt d) (convert ((vFmt d).getD .bf16) none (p.2.2 s d l (fld d 4 4 + k)))))] s t) ∧
  (∀ (r : Fin 8) (s : State) (u : ListRun) (l : Launch) (d : BitVec 512) (n : Nat), AtEntry s (.rve r) 0x4B u l d →
    noiseBad d = none → noiseSlot l d = some n →
    (List.range n).all (fun q => (Range.mk (vDst d).sp true (noiseAt d q) (vElt d * vCount d)).ok s l) = true →
    s.regions[r].rveOut = false →
    ∃ t, exec (.noise r) s = .next t ∧ t.flagReqs = s.flagReqs ∧
      GroupLeft r u l (vDst d).sp (8 * vElt d) (((l.roster.take n).zipIdx).map (fun q =>
        (noiseAt d q.2, (List.range (vCount d)).flatMap (fun k =>
          toLe (vElt d) (convert ((vFmt d).getD .bf16) none
            (fadd 0 (fmul one32 (gaussian (variateWord (roSeed q.1) (roStep q.1) d 4 k) (oddCol d k))))))))) s t)

/-- TADD and SADD complete by writing their sums and signalling; an END entry ends the list. TADD completes at an
entry that passes its checks and ranges, with its partials ready and no held or bad burst among its reads. Without
ARRIVE the next group of 65,536 words of the sum in the canonical tree (under COMPAT, left to right) is written; with
ARRIVE all words of the sum in the order in which the partials became ready, those that the command says fell into one
fabric cycle ascending, or ascending where all were ready at the start (R350, log 147). SADD completes at an entry
that passes its checks: without ARRIVE the next group of the words of its destination rows is written, each row that
some source row names the sum of its content and those rows one by one; with ARRIVE, once the row's home takes the
read-modify-write, the next source row is added into its destination row, in memory at once (log 141), or into the
region buffer. After the last group or addition either asks for its signal and moves to the next entry. RVE_END at an
entry of zeros after its opcode finishes the run. Flags keep their values: a signal is only asked for. (R348, R349,
R350, R351, R352, R354, R753, Table 9.4) -/
def Obligations.ReductionsCompleteAndEnd : Prop :=
  (∀ (r : Fin 8) (cycles : List Nat) (s : State) (u : ListRun) (l : Launch) (d : BitVec 512),
    AtEntry s (.rve r) 0x4C u l d → taddBad l d = none → (taddRanges d).all (fun x => x.ok s l) = true →
    (u.part = 0 → notReady s r d = none) → rangeWaits s (.rve r) l (taddRanges d) = false → rangeBad s l (taddRanges d) = none →
    ∃ t, exec (.tadd ⟨r, .none⟩ cycles) s = .next t ∧
      (rArrive d = false →
        GroupLeft r u l (rDst d).sp 32
          [((rDst d).addr, wordBytes (treeSum s ((List.range (taN d)).map (taPart s r d))))] s t) ∧
      (rArrive d = true →
        (let o := if u.ready.length = taN d then byCycles cycles u.ready else List.range (taN d)
         let z := writeSp s (.rve r) l.lid r (rDst d).sp (rDst d).addr
           (fullMask (wordBytes (orderSum (isCompat s) (o.map (taPart s r d)))))
         t.mem = z.mem ∧ t.regions[r].rbuf = z.regions[r].rbuf) ∧
        t.regions[r].rve = { s.regions[r].rve with idx := u.idx + 1, waiting := none, ready := [], part := 0 } ∧
        t = { s with regions := t.regions, flagReqs := t.flagReqs, mem := { s.mem with stores := t.mem.stores } }) ∧
      (rSig d = false → t.flagReqs = s.flagReqs) ∧
      (rSig d = true → t.regions[r].rve.idx = u.idx + 1 →
        ∃ q, t.flagReqs = s.flagReqs ++ [q] ∧ q.src = .rve r ∧ q.rgn = r ∧ q.inc = 1) ∧
      t.regions[r].flags = s.regions[r].flags ∧ OnlyRegion r s t) ∧
  (∀ (r : Fin 8) (s : State) (u : ListRun) (l : Launch) (d : BitVec 512),
    AtEntry s (.rve r) 0x4D u l d → saddBad l d = none → (saddRanges d).all (fun x => x.ok s l) = true →
    rangeWaits s (.rve r) l (saddNow s r u d) = false → rangeBad s l (saddNow s r u d) = none →
    (rArrive d = true → saddWaits s r l d u.part = false) →
    ∃ t, exec (.sadd ⟨r, .none⟩) s = .next t ∧
      (rArrive d = false →
        GroupLeft r u l (rDst d).sp 32 (((List.range (saDn d)).map (saD0 d + ·)).filterMap (fun k =>
          if saRows s r d k = [] then none
          else some (saDrow d k, wordBytes ((saRows s r d k).foldl
            (fun a i => List.zipWith combineF a (readWords s r (rSrc d).sp (saSrow d i) (saW d)))
            (readWords s r (rDst d).sp (saDrow d k) (saW d)))))) s t) ∧
      (rArrive d = true → u.part < saN d →
        (let k := ((readWords s r (saIx d).sp (saIx d).addr (saN d)).getD u.part 0).toNat
         let v := List.zipWith combineF (readWords s r (rDst d).sp (saDrow d k) (saW d))
           (readWords s r (rSrc d).sp (saSrow d u.part) (saW d))
         let z := (if k < saD0 d ∨ saD0 d + saDn d ≤ k then s
           else if (rDst d).sp = .mem then memPut s (saDrow d k) (wordBytes v)
           else writeSp s (.rve r) l.lid r (rDst d).sp (saDrow d k) (fullMask (wordBytes v)))
         t.mem.bytes = z.mem.bytes ∧ t.mem.stores = z.mem.stores ∧ t.regions[r].rbuf = z.regions[r].rbuf) ∧
        t.regions[r].rve = (if u.part + 1 < saN d then { s.regions[r].rve with part := u.part + 1 }
          else { s.regions[r].rve with idx := u.idx + 1, waiting := none, ready := [], part := 0 }) ∧
        t = { s with regions := t.regions, flagReqs := t.flagReqs, mem := t.mem, halves := t.halves }) ∧
      (rArrive d = false → t.mem.bytes = s.mem.bytes) ∧ (rSig d = false → t.flagReqs = s.flagReqs) ∧
      (rSig d = true → t.regions[r].rve.idx = u.idx + 1 →
        ∃ q, t.flagReqs = s.flagReqs ++ [q] ∧ q.src = .rve r ∧ q.rgn = r ∧ q.inc = 1) ∧
      t.regions[r].flags = s.regions[r].flags ∧ OnlyRegion r s t) ∧
  (∀ (r : Fin 8) (s : State) (u : ListRun) (l : Launch) (d : BitVec 512),
    AtEntry s (.rve r) 0x3F u l d → (∀ i < 63, fld d (1 + i) 1 = 0) →
    ∃ t, exec (.rveEnd r) s = .next t ∧
      t.regions[r] = { s.regions[r] with rve := { s.regions[r].rve with finished := true } } ∧
      OnlyRegion r s t ∧ t = { s with regions := t.regions })

/-- SAMPLE starts its rows, SAMPLER_ROW writes one record a row, END ends the list. SAMPLE at a descriptor with no row
in progress that passes its checks and ranges and whose flag is there stands at row 0. SAMPLER_ROW of a row, with the
record before accepted and parameters, logits and draw in reach: the 16-byte record of R328 (of no token with flag
0x20 where a parameter is refused) is written at the row's place, and the next row is current, or after the last the
signal is asked for and the next entry is; only SMP_STAT's count of truncated rows may change among registers. SMP_END
at an END entry finishes the run. (R326, R327, R328, R331, R332) -/
def Obligations.SamplerSelectsTokens : Prop :=
  (∀ (h : Fin 2) (s : State) (u : ListRun) (l : Launch) (d : BitVec 512), AtEntry s (.smp h) 0x50 u l d →
    s.halves[h].smpRow = none → smpBad l d = none → (smpRanges l d).all (fun x => x.ok s l) = true →
    (fld d 2 1 / 128 = 1 → fld d 12 4 ≤ flagVal s (Fin.ofNat 8 (fld d 2 1)) (Fin.ofNat 64 (fld d 3 1))) →
    ∃ t, exec (.sample h) s = .next t ∧ t.halves[h] = { s.halves[h] with smpRow := some 0 } ∧ OnlyHalf h s t ∧
      t = { s with halves := t.halves }) ∧
  (∀ (h : Fin 2) (s : State) (u : ListRun) (l : Launch) (d : BitVec 512) (i : Nat), AtEntry s (.smp h) 0x50 u l d →
    s.halves[h].smpRow = some i → i < sRows l d → s.halves[h].smpOut = false → storesWait s (.smp h) = false →
    rangeWaits s (.smp h) l [Range.mk (sPrm d).sp false ((sPrm d).addr + 16 * i) 16,
      Range.mk (sSrc d).sp false (sRowAt d i) (sElt d * sV d)] = false →
    rangeBad s l [Range.mk (sPrm d).sp false ((sPrm d).addr + 16 * i) 16,
      Range.mk (sSrc d).sp false (sRowAt d i) (sElt d * sV d)] = none →
    ∃ t o, exec (.samplerRow ⟨h, .none⟩) s = .next t ∧
      (let prm := readSp s (sRgn d 24 h) (sPrm d).sp ((sPrm d).addr + 16 * i) 16
       let tm : Word := BitVec.ofNat 32 (leAt prm 0 4)
       let p : Word := BitVec.ofNat 32 (leAt prm 8 4)
       let req := l.roster.getD (leAt prm 12 2) 0
       let bad := rowParamBad l tm (leAt prm 4 4) p (leAt prm 12 2)
       (bad = true → o = rowNone 0x20) ∧
       (bad = false → o = sampleRow (rowLogits s h d i) tm (leAt prm 4 4) p (fld d 44 1)
          (uniform (tumbler (roSeed req) (tmbCounter (sStream d) (roStep req) (leAt prm 14 2) 0 5)) false))) ∧
      (let z := writeSp s (.smp h) l.lid (sRgn d 32 h) (sRes d).sp ((sRes d).addr + 16 * i) (fullMask (rowBytes7 o))
       t.mem = z.mem ∧ t.regions = z.regions) ∧
      (i + 1 < sRows l d → t.halves[h] = { s.halves[h] with smpRow := some (i + 1) } ∧ t.flagReqs = s.flagReqs) ∧
      (i + 1 = sRows l d → t.halves[h] = { s.halves[h] with
          smpRow := none, smp := { s.halves[h].smp with idx := u.idx + 1, waiting := none, ready := [], part := 0 } } ∧
        (fld d 42 1 / 128 = 0 → t.flagReqs = s.flagReqs) ∧
        (fld d 42 1 / 128 = 1 → ∃ q, t.flagReqs = s.flagReqs ++ [q] ∧ q.src = .smp h ∧ q.inc = 1 ∧
          q.rgn = Fin.ofNat 8 (fld d 42 1) ∧ q.flag = Fin.ofNat 64 (fld d 43 1))) ∧
      OnlyHalf h s t ∧ RegsBut [regAddr .smpStat h.val] s t ∧
      t = { s with regs := t.regs, regions := t.regions, halves := t.halves, mem := t.mem, flagReqs := t.flagReqs }) ∧
  (∀ (h : Fin 2) (s : State) (u : ListRun) (l : Launch) (d : BitVec 512), AtEntry s (.smp h) 0x3F u l d →
    ∃ t, exec (.smpEnd h) s = .next t ∧
      t.halves[h] = { s.halves[h] with smp := { s.halves[h].smp with finished := true } } ∧
      OnlyHalf h s t ∧ t = { s with halves := t.halves })

/-- ESES and DSES complete by opening a session where its area and record are good; END ends the list. ESES or DSES at
its entry, with no store of the engine waiting and no commit of its group pending. The spec gives the two descriptors
no layout, so the area and the record's source are free (logs 12, 48): where they are aligned, in reach and good, and
the record is in range, the session area's first 4,096 bytes (record, MAGIC 0x5A56, KIND, BUSY 0, firmware major
version) are issued as stores and the next entry is current; where the area is not a multiple of 2 MiB, the launch is
halted with VSE_DESC 0x3901. VSE_END finishes the run. (R452, R456, R457, R485) -/
def Obligations.SessionsOpenAndEnd : Prop :=
  (∀ p ∈ [(0x60, true, Instr.eses), (0x62, false, Instr.dses)],
    ∀ (h : Fin 2) (s : State) (u : ListRun) (l : Launch) (d : BitVec 512), AtEntry s (.vse h) p.1 u l d →
    storesWait s (.vse h) = false → pendingG s (.vse h) = false →
    let a := (Config.openSes d).toNat
    let src := opRef (Config.openSrc d).toNat
    let rd := Range.mk src.sp false src.addr 256
    let r := readSp s (Config.halfRegion d (Config.openSrc d) h) src.sp src.addr 256
    (a % 2 ^ 21 = 0 → 2 ≤ src.space → vseBound s l [(memR true a 4096, 8), (rd, 16)] = none →
      rangeWaits s (.vse h) l [rd] = false → rangeBad s l [rd] = none →
      (if p.2.1 then encRecBad r else decRecBad r) = none →
      ∃ t, exec (p.2.2 ⟨h, .none⟩) s = .next t ∧
        (∃ x : Session, t.sessions = x :: s.sessions ∧
          t.mem = (issue s (.vse h) l.lid a (fullMask (r ++
            sessBytes s (if p.2.1 then 1 else 2) 0 (if p.2.1 then encMaxPic r else 0) x))).mem) ∧
        t.halves[h] = { s.halves[h] with vse := { s.halves[h].vse with
          idx := u.idx + 1, waiting := none, ready := [], part := 0 } } ∧
        OnlyHalf h s t ∧ t = { s with halves := t.halves, mem := t.mem, sessions := t.sessions }) ∧
    (a % 2 ^ 21 ≠ 0 → ∃ t, exec (p.2.2 ⟨h, .none⟩) s = .next t ∧
      (∃ m, findLaunch t l.lid = some m ∧ m.st = .halted ∧ m.fault = 0x3901) ∧ t.mem = s.mem)) ∧
  (∀ (h : Fin 2) (s : State) (u : ListRun) (l : Launch) (d : BitVec 512), AtEntry s (.vse h) 0x3F u l d →
    storesWait s (.vse h) = false → pendingG s (.vse h) = false →
    ∃ t, exec (.vseEnd h) s = .next t ∧
      t.halves[h] = { s.halves[h] with vse := { s.halves[h].vse with finished := true } } ∧
      OnlyHalf h s t ∧ t = { s with halves := t.halves })

/-- EPIC, DAU and DFLUSH complete: they begin their picture, write it row by row, then record and signal it. EPIC, DAU
or DFLUSH at its entry with no store of the engine waiting and no commit of its group pending completes its next part.
To begin, with checks, wait, session, area and ranges passed and a session of its kind: the one store that sets BUSY
in the area is issued, and the descriptor's rows, its record for the result address and, for EPIC, the session's new
state wait; for EPIC this needs a display index that comes next (R468), else the launch is halted with VSE_ORDER
0x3903. A session of the other kind halts with VSE_SES 0x3904. A row in progress: its stores are issued in turn and
the next row waits. A decode whose rows are done: its pictures' stores are issued to the slots of the ring, the
session's new state is kept and its record waits. At the end: the session's new state and then the result record are
issued as stores, the signal is asked for when it is enabled, the descriptor is over and the next entry is current.
Memory bytes do not change before a controller accepts the stores. (R454, R457, R469, R482, R484, R486, R489, R492,
R502, R503) -/
def Obligations.PicturesAreCodedAndRecorded : Prop :=
  (∀ p ∈ [(0x61, Instr.epic), (0x63, Instr.dau), (0x64, Instr.dflush)],
    ∀ (h : Fin 2) (s : State) (u : ListRun) (l : Launch) (d : BitVec 512) (j : VseJob), AtEntry s (.vse h) p.1 u l d →
    storesWait s (.vse h) = false → pendingG s (.vse h) = false → s.halves[h].vseJob = some j →
    (∀ x rest, j.todo = x :: rest → ∃ t, exec (p.2 ⟨h, .none⟩) s = .next t ∧
      (x.sig = none → t.mem = (x.outs.foldl (fun z w => issue z (.vse h) l.lid w.1 (fullMask w.2)) s).mem ∧
        t.flagReqs = s.flagReqs) ∧
      (∃ j', t.halves[h] = { s.halves[h] with vseJob := some j' } ∧ j'.todo = rest ∧ j'.res = j.res ∧ j'.ses = j.ses) ∧
      OnlyHalf h s t ∧ t = { s with halves := t.halves, mem := { s.mem with stores := t.mem.stores },
                                    flagReqs := t.flagReqs }) ∧
    (∀ flush r k e, j.todo = [] → j.tail = .decode flush r k e → ∃ t, exec (p.2 ⟨h, .none⟩) s = .next t ∧
      t.sessions = .dec (decodeUnit r k flush e).1 :: s.sessions ∧
      t.mem = ((ringOuts r d e.outs (decodeUnit r k flush e).2.pics).foldl
        (fun z w => issue z (.vse h) l.lid w.1 (fullMask w.2)) s).mem ∧
      (∃ out st a b c n, t.halves[h] = { s.halves[h] with vseJob := some { j with tail := .ready out st a b c n } }) ∧
      OnlyHalf h s t ∧ t = { s with halves := t.halves, mem := t.mem, sessions := t.sessions }) ∧
    (∀ out st a b c n, j.todo = [] → j.tail = .ready out st a b c n → ∃ t, exec (p.2 ⟨h, .none⟩) s = .next t ∧
      t.mem = (issue (issue s (.vse h) l.lid (j.ses + 256) (fullMask st)) (.vse h) l.lid j.res (fullMask out)).mem ∧
      t.halves[h] = { s.halves[h] with
        vseJob := none, vse := { s.halves[h].vse with idx := u.idx + 1, waiting := none, ready := [], part := 0 } } ∧
      (fld d 48 1 / 128 = 1 → ∃ q, t.flagReqs = s.flagReqs ++ [q] ∧ q.src = .vse h ∧ q.inc = 1 ∧
        q.rgn = Fin.ofNat 8 (fld d 48 1) ∧ q.flag = Fin.ofNat 64 (fld d 49 1)) ∧
      (fld d 48 1 / 128 = 0 → t.flagReqs = s.flagReqs) ∧
      RegsBut [regAddr .vseRcev h.val, regAddr .vseDerr h.val] s t ∧
      OnlyHalf h s t ∧ t = { s with regs := t.regs, halves := t.halves, mem := t.mem, flagReqs := t.flagReqs })) ∧
  (∀ (h : Fin 2) (s : State) (u : ListRun) (l : Launch) (d : BitVec 512), AtEntry s (.vse h) 0x61 u l d →
    storesWait s (.vse h) = false → pendingG s (.vse h) = false → s.halves[h].vseJob = none → epicBad l d = none →
    vseBound s l (sesRanges (fld d 8 8) 4096) = none →
    (fld d 2 1 / 128 = 1 → fld d 50 4 ≤ flagVal s (Fin.ofNat 8 (fld d 2 1)) (Fin.ofNat 64 (fld d 3 1))) →
    rangeWaits s (.vse h) l [memR false (fld d 8 8) 4096] = false → rangeBad s l [memR false (fld d 8 8) 4096] = none →
    sesReady s (fld d 8 8) 1 = true →
    memLe s (fld d 8 8 + 264) 8 ≤ fld d 36 4 →
    let r := viewBytes s (fld d 8 8) 256
    let ins := picRanges r (refAt d 16) (fld d 24 4)
    vseBound s l (ins.map (fun x => (x, 16)) ++
      [(memR true (fld d 28 8) (fld d 36 4), 28), (memR true (fld d 40 8) 64, 40)] ++
      sesRanges (fld d 8 8) (sessArea true r)) = none →
    rangeWaits s (.vse h) l ins = false → rangeBad s l ins = none →
    ∃ t, exec (.epic ⟨h, .none⟩) s = .next t ∧ t.mem.bytes = s.mem.bytes ∧
      (∀ e, sessAt s (fld d 8 8) = .enc e →
        (∀ o, orderOf r e (fld d 1 1) (fld d 4 4) = some o →
          (∃ j e', t.halves[h] = { s.halves[h] with vseJob := some j } ∧ j.res = fld d 40 8 ∧ j.ses = fld d 8 8 ∧
            t.sessions = .enc e' :: s.sessions ∧ e'.group = o.2.1 ∧ e'.base = some o.2.2 ∧
            e'.pics.length = e.pics.length + 1) ∧
          t.mem = (issue s (.vse h) l.lid (fld d 8 8 + 259) [(1, 1)]).mem ∧ OnlyHalf h s t ∧
          t = { s with halves := t.halves, mem := t.mem, sessions := t.sessions }) ∧
        (orderOf r e (fld d 1 1) (fld d 4 4) = none →
          ∃ m, findLaunch t l.lid = some m ∧ m.st = .halted ∧ m.fault = 0x3903)) ∧
      (∀ e, sessAt s (fld d 8 8) = .dec e → ∃ m, findLaunch t l.lid = some m ∧ m.st = .halted ∧ m.fault = 0x3904)) ∧
  (∀ p ∈ [(0x63, false, Instr.dau), (0x64, true, Instr.dflush)],
    ∀ (h : Fin 2) (s : State) (u : ListRun) (l : Launch) (d : BitVec 512), AtEntry s (.vse h) p.1 u l d →
    storesWait s (.vse h) = false → pendingG s (.vse h) = false → s.halves[h].vseJob = none → dauBad l d p.2.1 = none →
    vseBound s l (sesRanges (fld d 8 8) 4096) = none →
    (fld d 2 1 / 128 = 1 → fld d 50 4 ≤ flagVal s (Fin.ofNat 8 (fld d 2 1)) (Fin.ofNat 64 (fld d 3 1))) →
    rangeWaits s (.vse h) l [memR false (fld d 8 8) 4096] = false → rangeBad s l [memR false (fld d 8 8) 4096] = none →
    sesReady s (fld d 8 8) 2 = true →
    let r := viewBytes s (fld d 8 8) 256
    slotSmall r (fld d 36 4) = false →
    vseBound s l ([(memR false (fld d 16 8) (fld d 24 4), 16),
      (memR true (fld d 28 8) (fld d 40 1 * fld d 36 4 * 64), 28), (memR true (fld d 41 6) 192, 41)] ++
      sesRanges (fld d 8 8) (sessArea false r)) = none →
    rangeWaits s (.vse h) l [memR false (fld d 16 8) (fld d 24 4)] = false →
    rangeBad s l [memR false (fld d 16 8) (fld d 24 4)] = none →
    ∃ t, exec (p.2.2 ⟨h, .none⟩) s = .next t ∧ t.mem.bytes = s.mem.bytes ∧
      (∀ e, sessAt s (fld d 8 8) = .dec e →
        (∃ j k, t.halves[h] = { s.halves[h] with vseJob := some j } ∧ j.res = fld d 41 6 ∧ j.ses = fld d 8 8 ∧
          j.tail = .decode p.2.1 r k e ∧ k.record = r ∧ k.before = e.units ∧
          k.now.bytes = (if p.2.1 then none else some (viewBytes s (fld d 16 8) (fld d 24 4)))) ∧
        t.mem = (issue s (.vse h) l.lid (fld d 8 8 + 259) [(1, 1)]).mem ∧ OnlyHalf h s t ∧
        t = { s with halves := t.halves, mem := t.mem }) ∧
      (∀ e, sessAt s (fld d 8 8) = .enc e → ∃ m, findLaunch t l.lid = some m ∧ m.st = .halted ∧ m.fault = 0x3904))

/-- NOP completes at once, and MARK when every earlier command of its ring has completed. At a good NOP entry the
device moves past the entry, and the command's completion (complete, no fault, its CID) is waiting to be written. At a
good MARK entry of a ring with no command outstanding the same; with a command outstanding MARK joins those
outstanding and posts nothing. An entry with a reserved OP of 8 or more completes refused with CMD_FORMAT 0x2001. No
other ring and nothing else changes. (R548, R553, Table 12.6) -/
def Obligations.NopAndMarkComplete : Prop :=
  (∀ (ring : Fin 16) (s : State) (e : List Byte) (cid : Word), AtCommand s ring 0 e cid →
    ∃ t, exec (.nop ring) s = .next t ∧ Posted (cmdDone ring.val 1 0 cid 0 0 []) s t ∧
      (∀ r, s.rings[ring] = some r → ∃ r', t.rings[ring] = some r' ∧ r'.c = r.c + 1 ∧ r'.p = r.p ∧ r'.a = r.a ∧
        r'.kept = r.kept) ∧ OnlyRing ring s t ∧ t = { s with rings := t.rings, comps := t.comps }) ∧
  (∀ (ring : Fin 16) (s : State) (e : List Byte) (cid : Word) (r : Ring), AtCommand s ring 7 e cid →
    s.rings[ring] = some r →
    (r.outs = [] → ∃ t, exec (.mark ring) s = .next t ∧ t.comps = s.comps ++ [cmdDone ring.val 1 0 cid 0 0 []] ∧
      t.rings[ring] = some { r with c := r.c + 1, outs := [] } ∧ OnlyRing ring s t ∧
      t = { s with rings := t.rings, comps := t.comps }) ∧
    (r.outs ≠ [] → ∃ t, exec (.mark ring) s = .next t ∧
      t.rings[ring] = some { r with c := r.c + 1, outs := r.outs ++ [OutCmd.mk cid 7 0] } ∧ OnlyRing ring s t ∧
      t = { s with rings := t.rings })) ∧
  (∀ (ring : Fin 16) (s : State) (r : Ring) (a : Nat), nextCmd s ring.val = some (r, a) → netBad s a 64 = none →
    netWaits s a 64 = false → 8 ≤ leAt (devBytes s a 64) 0 1 →
    ∃ t, exec (.nop ring) s = .next t ∧
      Posted (cmdDone ring.val 2 0x2001 (BitVec.ofNat 32 (leAt (devBytes s a 64) 4 4)) 0 0 []) s t)

/-- A good launch record is accepted behind the launches that wait; a full device refuses it. At a LAUNCH entry whose
record lies on no held stack, is aligned and readable, with its roster, and passes every check: the launch it
describes, with the record's header and roster, the ring and the CID, is the last of the launches and waits, and,
unless it takes, no other launch changes; no completion is posted and no memory byte changes. With 256 launches or the
Hinge down the command completes refused with LNC_FULL 0x1001 and the launches stay as they were. (R370, R371, R375,
R376, R361, R363, R554) -/
def Obligations.LaunchIsAcceptedOrRefused : Prop :=
  ∀ (ring : Fin 16) (s : State) (e : List Byte) (cid : Word), AtCommand s ring 1 e cid →
    recordWaits s (leAt e 8 8) = false →
    (launchFull s = true → ∃ t, exec (.launch ring) s = .next t ∧ Posted (cmdDone ring.val 2 0x1001 cid 0 0 []) s t ∧
      t.launches = s.launches ∧ OnlyRing ring s t ∧ t = { s with rings := t.rings, comps := t.comps }) ∧
    (∀ l : Launch, launchFull s = false → leAt e 8 8 % 64 = 0 → recordThere s (leAt e 8 8) 2048 = true →
      (0 < min 512 (leAt (memBytes s (leAt e 8 8) 2048) 10 2) →
        recordThere s (leAt e 8 8 + 2048) (64 * min 512 (leAt (memBytes s (leAt e 8 8) 2048) 10 2)) = true) →
      l = launchOf ring.val cid (memBytes s (leAt e 8 8) 2048)
        (rosterOf s (leAt e 8 8) (min 512 (leAt (memBytes s (leAt e 8 8) 2048) 10 2))) →
      recordBad s l = none → l.flag 3 = false →
      ∃ t, exec (.launch ring) s = .next t ∧ t.launches = s.launches ++ [l] ∧ l.st = .waiting ∧
        l.hdr = memBytes s (leAt e 8 8) 2048 ∧ l.ring = ring.val ∧ l.cid = cid ∧ t.comps = s.comps ∧
        OnlyRing ring s t ∧ t = { s with rings := t.rings, launches := t.launches })

/-- Dispatch gives a launch its regions, blocks and units, from fresh flags. LAUNCH_DISPATCH with a launch that may
start (the one of highest PRIO, earliest among equals, R377) and no Tumbler unit failing: a launch that is not to be
restored runs, and has begun; each of its regions is held by it with all flags 0; each of its blocks is its own with
an empty queue, its program at index 0 (BLKn_PC too) and its stores as they were; a region or block that it does not
have is as it was; memory, network, flash and completions do not change, and no Hinge credit but the Control credits
of half 0, which sends a launch with units in half 1 as a Control beat. No register write waits for a turn of its
blocks. With no launch that may start nothing changes. With a unit of its own failing, the launch is halted with
TMB_KAT 0x3C06. (R223, R334, R335, R373, R376, R377, R379) -/
def Obligations.DispatchStartsALaunch : Prop :=
  (∀ (k : List (BitVec 8)) (s : State), nextLaunch s = none → exec (.launchDispatch k) s = .next s) ∧
  (∀ (s : State) (l : Launch), nextLaunch s = some l → findLaunch s l.lid = some l → l.st = .waiting →
    l.flag 4 = false → (∀ r ∈ l.rgns, s.regions[r].late = []) →
    (∃ t, exec (.launchDispatch []) s = .next t ∧
      findLaunch t l.lid = some { l with st := .running, begun := true } ∧
      (∀ r ∈ l.rgns, t.regions[r].holder = some l.lid ∧ t.regions[r].flags = [] ∧
        t.regions[r].rbuf = s.regions[r].rbuf) ∧
      (∀ r : Fin 8, r ∉ l.rgns → t.regions[r] = s.regions[r]) ∧
      (∀ b ∈ l.blks, t.blocks[b].lid = some l.lid ∧ t.blocks[b].iq = [] ∧ t.blocks[b].nextFetch = 0 ∧
        t.blocks[b].finished = false ∧ rreg t .blkPc b.val = 0 ∧ t.blocks[b].acc = s.blocks[b].acc ∧
        t.blocks[b].scratch = s.blocks[b].scratch) ∧
      (∀ b : Fin 48, b ∉ l.blks → t.blocks[b] = s.blocks[b]) ∧
      (∀ i d, i ≠ 0 → t.hinge.credits.getD i d = s.hinge.credits.getD i d) ∧
      t = { s with regs := t.regs, regions := t.regions, blocks := t.blocks, halves := t.halves,
                   launches := t.launches, hinge := { s.hinge with credits := t.hinge.credits } }) ∧
    (∀ u : BitVec 8, u.toNat ∈ tumblersOf s l → ∃ t, exec (.launchDispatch [u]) s = .next t ∧
      (∃ m, findLaunch t l.lid = some m ∧ m.st = .halted ∧ m.fault = 0x3C06) ∧ t.mem = s.mem))

/-- A timed launch is released at its start time; a launch whose units have finished completes and frees what it held.
TIMED_LAUNCH_RELEASE of a waiting TIMED launch: with the counter at or past TSTART the launch is released; before
TSTART nothing changes. LAUNCH_COMPLETE of a running launch with no STOP or RESUME in progress, whose every unit has
finished and whose stores, increments and re-reads are done, from an open ring: the launch is gone, the completion of
its LAUNCH (complete, code 0, its CID and LID) is waiting to be written, every region and block that it held is free,
its barriers and flag requests are gone, and what other launches hold and all of memory stay. While a unit has not
finished nothing changes. (R364, R379, R564, R756) -/
def Obligations.LaunchIsReleasedAndCompletes : Prop :=
  (∀ (lid : BitVec 32) (s : State) (l : Launch), findLaunch s lid = some l → l.st = .waiting → l.flag 0 = true →
     (l.fld 24 8 ≤ s.dtc.toNat → ∃ t, exec (.timedLaunchRelease lid) s = .next t ∧
       findLaunch t lid = some { l with released := true } ∧ t.launches.length = s.launches.length ∧
       t = { s with launches := t.launches }) ∧
     (s.dtc.toNat < l.fld 24 8 → exec (.timedLaunchRelease lid) s = .next s)) ∧
  (∀ (lid : BitVec 32) (s : State) (l : Launch), findLaunch s lid = some l → l.st = .running →
     (allFinished s l = false → exec (.launchComplete lid) s = .next s) ∧
     (allFinished s l = true → trafficOf s lid = false → l.stop = none → l.resume = none →
       (getRing s l.ring).isSome = true → ∃ t, exec (.launchComplete lid) s = .next t ∧
       t.launches = s.launches.erase l ∧ Posted (cmdDone l.ring 1 0 l.cid lid 0 []) s t ∧
       (∀ r : Fin 8, t.regions[r] = (if s.regions[r].holder = some lid then s.regions[r].free else s.regions[r])) ∧
       (∀ b : Fin 48, t.blocks[b] = (if s.blocks[b].lid = some lid then s.blocks[b].free else s.blocks[b])) ∧
       (∀ x ∈ t.barriers, x.2.lid ≠ lid) ∧ (∀ q ∈ t.flagReqs, q.lid ≠ lid) ∧
       t = { s with launches := t.launches, rings := t.rings, comps := t.comps, regions := t.regions, blocks := t.blocks,
                    halves := t.halves, barriers := t.barriers, flagReqs := t.flagReqs }))

/-- STOP, ABORT and RESUME act on the launch they name, or refuse. Each names a launch by its LID; an unknown one is
refused with LID_UNKNOWN 0x2002. STOP of a running launch that has not finished, with a save area, begins a stop of
that KIND; without a save area it is refused with 0x2003, and of a launch that is not running with STATE_CONFLICT
0x2008. ABORT of a waiting launch ends it as ABORTED 0x2007 and completes; of a running one whose units have not
stopped it begins the abort. RESUME of a saved launch whose image header is good and whose regions are there makes it
wait for its restore; of one not saved it is refused with 0x2008. No region, block or byte of memory changes in any of
these. (R380, R395, R396, R555, R557, R558, R559, R560, R564) -/
def Obligations.StopAbortResume : Prop :=
  (∀ p ∈ [(2, Instr.stop), (3, Instr.abort), (4, Instr.resume)], ∀ (ring : Fin 16) (s : State) (e : List Byte) (cid : Word),
    AtCommand s ring p.1 e cid → findLaunch s (BitVec.ofNat 32 (leAt e 8 4)) = none →
    ∃ t, exec (p.2 ring) s = .next t ∧
      Posted (cmdDone ring.val 2 0x2002 cid (BitVec.ofNat 32 (leAt e 8 4)) 0 []) s t ∧
      t = { s with rings := t.rings, comps := t.comps }) ∧
  (∀ (ring : Fin 16) (s : State) (e : List Byte) (cid : Word) (l : Launch), AtCommand s ring 2 e cid →
    findLaunch s (BitVec.ofNat 32 (leAt e 8 4)) = some l →
    (l.st = .running → allFinished s l = false → l.save0 ≠ 0 → ∃ t, exec (.stop ring) s = .next t ∧
      findLaunch t l.lid = some { l with
        st := .stopping, overrun := 0, stop := some (.command ring.val cid, decide (leAt e 12 1 = 2), s.cyc) } ∧
      t = { s with rings := t.rings, launches := t.launches }) ∧
    (l.st = .running → allFinished s l = false → l.save0 = 0 → ∃ t, exec (.stop ring) s = .next t ∧
      Posted (cmdDone ring.val 2 0x2003 cid l.lid 0 []) s t ∧ t = { s with rings := t.rings, comps := t.comps }) ∧
    (l.st ≠ .running → ∃ t, exec (.stop ring) s = .next t ∧
      Posted (cmdDone ring.val 2 0x2008 cid l.lid 0 []) s t ∧ t = { s with rings := t.rings, comps := t.comps })) ∧
  (∀ (ring : Fin 16) (s : State) (e : List Byte) (cid : Word) (l : Launch), AtCommand s ring 3 e cid →
    findLaunch s (BitVec.ofNat 32 (leAt e 8 4)) = some l →
    (l.st = .waiting → l.fault = 0 → l.stop = none → l.resume = none → (getRing s l.ring).isSome = true →
      ∃ t, exec (.abort ring) s = .next t ∧ t.launches = s.launches.erase l ∧
        cmdDone l.ring 1 0x2007 l.cid l.lid 0 [] ∈ t.comps ∧ cmdDone ring.val 1 0 cid l.lid 0 [] ∈ t.comps ∧
        t.mem = s.mem) ∧
    (l.st = .running → allStopped s l = false → ∃ t, exec (.abort ring) s = .next t ∧
      findLaunch t l.lid = some { l with st := .aborting, stop := some (.abort ring.val cid, false, s.cyc) } ∧
      t = { s with rings := t.rings, launches := t.launches })) ∧
  (∀ (ring : Fin 16) (s : State) (e : List Byte) (cid : Word) (l : Launch), AtCommand s ring 4 e cid →
    findLaunch s (BitVec.ofNat 32 (leAt e 8 4)) = some l →
    (l.st ≠ .saved → ∃ t, exec (.resume ring) s = .next t ∧
      Posted (cmdDone ring.val 2 0x2008 cid l.lid 0 []) s t ∧ t = { s with rings := t.rings, comps := t.comps }) ∧
    (l.st = .saved → l.resume = none → headerWaits s l.lid = false → regionOut s l = false →
      ∃ t, exec (.resume ring) s = .next t ∧
      (headerOk s l = true → findLaunch t l.lid = some { l with resume := some (ring.val, cid) } ∧
        t = { s with rings := t.rings, launches := t.launches }) ∧
      (headerOk s l = false → Posted (cmdDone ring.val 2 0x1007 cid l.lid 0 []) s t ∧ t.launches = s.launches ∧
        t.mem.bytes = s.mem.bytes)))

/-- A save ends in a saved launch, a restore in a running or a saved one, a slice in a new slice. SAVE_COMPLETE of a
launch being stopped by a STOP command, whose units have stopped and not all finished, from an open ring, with nothing
for its traffic to wait for (a held Hinge or stack, a credit, a full write queue): the launch is saved, its regions
and blocks are free, DEV_PRESTAT counts the save, and the STOP completes with its overrun. RESTORE_COMPLETE of a
launch being restored, with nothing to wait for: where image header and sections are good, it runs with no RESUME
waiting; where they are not, a launch that a RESUME brought back stays saved, and the RESUME is refused with LNC_IMAGE
0x1007. SLICE_END of a running launch at the end of its slice without AUTOSAVE starts a new slice of 100 cycles a
microsecond and changes nothing but events. (R383, R391, R392, R396, R754, R759) -/
def Obligations.SavesRestoresAndSlices : Prop :=
  (∀ (lid : BitVec 32) (s : State) (l : Launch) (ring : Nat) (cid : Word) (part : Bool) (at_ : Nat),
    findLaunch s lid = some l → l.st = .stopping → l.stop = some (.command ring cid, part, at_) →
    allStopped s l = true → allFinished s l = false → saveWaits s l part = false → (getRing s ring).isSome = true →
    ∃ t, exec (.saveComplete lid) s = .next t ∧
      findLaunch t lid = some { l with st := .saved, stop := none, overrun := 0 } ∧
      Posted (cmdDone ring 1 0 cid lid (l.overrun / 100) []) s t ∧
      rreg t .devPrestat 0 = satF (rreg s .devPrestat 0) 15 8 1 ∧
      (∀ r : Fin 8, s.regions[r].holder = some lid → t.regions[r].holder = none) ∧
      (∀ b : Fin 48, t.blocks[b].lid ≠ some lid)) ∧
  (∀ (lid : BitVec 32) (s : State) (l : Launch), findLaunch s lid = some l → l.st = .restoring →
    restoreWaits s l (pieces l (liveMapOf s l (memLe s (l.save0 + 6) 1 = 2))) = false →
    ∃ t, exec (.restoreComplete lid) s = .next t ∧
      (let m := liveMapOf s l (memLe s (l.save0 + 6) 1 = 2)
       (headerOk s l = true → sectionsOk s l (pieces l m) = true →
        ∃ l', findLaunch t lid = some l' ∧ l'.st = .running ∧ l'.resume = none ∧ l'.hdr = l.hdr) ∧
       (¬ (headerOk s l = true ∧ sectionsOk s l (pieces l m) = true) → ∀ ring cid, l.resume = some (ring, cid) →
        (getRing s ring).isSome = true →
        findLaunch t lid = some { l with st := .saved, resume := none } ∧
        Posted (cmdDone ring 2 0x1007 cid lid 0 []) s t ∧ t.mem.bytes = s.mem.bytes))) ∧
  (∀ (lid : BitVec 32) (s : State) (l : Launch), findLaunch s lid = some l → l.st = .running → l.fld 32 4 ≠ 0 →
    l.flag 2 = false →
    (l.sliceLeft = 0 → ∃ t, exec (.sliceEnd lid) s = .next t ∧
      findLaunch t lid = some { l with sliceLeft := 100 * l.fld 32 4 } ∧
      ((getRing s l.ring).isSome = true → t.comps = s.comps ++ [Completion.mk 3 l.ring 0x5001 0 lid 0 []]) ∧
      RegsBut [regAddr .latStat 0] s t ∧ t = { s with regs := t.regs, launches := t.launches, comps := t.comps }) ∧
    (l.sliceLeft ≠ 0 → exec (.sliceEnd lid) s = .next s))

/-- A turn ends at a pre-emption point, and the next logical block takes the physical block. TURN_END on a physical
block of a running launch's region in turn, whose hosted logical block has ended its turn and is at its pre-emption
point, with nothing for the write of its section to wait for: the block's section of the image is written, no logical
block is hosted there, the turn notes the block that left, and the region keeps what the block's registers showed.
TURN_SWITCH after that, with a logical block that can go on and no register write waiting for its turn: that block is
hosted there, the turn starts from 0 cycles, and RGNn_TURNSTAT counts the switch. With no block that can go on nothing
changes. The section of the incoming block, where an earlier turn wrote it, is read from the image, which meets no
held and no bad burst. (R397, R398, R399, R732) -/
def Obligations.TurnsEndAndSwitch : Prop :=
  (∀ (p : Fin 56) (s : State) (l : Launch) (x : Turn) (h : Nat × Nat), turnLaunch s p = some l → turnOf s p = some x →
    s.regions[pRgn p].hosted.find? (fun h => h.2 = p.val % 7) = some h →
    turnOver s p s.blocks[blkOf (pRgn p) (Fin.ofNat 6 h.1)] x = true →
    s.blocks[blkOf (pRgn p) (Fin.ofNat 6 h.1)].atPoint = true →
    sectionWaits s l (blkOf (pRgn p) (Fin.ofNat 6 h.1)) = false →
    ∃ t, exec (.turnEnd p) s = .next t ∧ (∀ y ∈ t.regions[pRgn p].hosted, y.2 ≠ p.val % 7) ∧
      (∃ y, turnOf t p = some y ∧ y.last = some h.1) ∧
      (∃ w, t.regions[pRgn p].windows.find? (fun x => x.1 = h.1) = some (h.1, w) ∧ w.length = blkShown.length) ∧
      t.mem = (writeSection s l (blkOf (pRgn p) (Fin.ofNat 6 h.1))).mem ∧
      t.regions[pRgn p] = { s.regions[pRgn p] with
        hosted := t.regions[pRgn p].hosted, turns := t.regions[pRgn p].turns, written := t.regions[pRgn p].written,
        windows := t.regions[pRgn p].windows } ∧
      OnlyRegion (pRgn p) s t ∧ OnlyBlock (blkOf (pRgn p) (Fin.ofNat 6 h.1)) s t ∧ t.launches = s.launches ∧
      t.flagReqs = s.flagReqs ∧ t.barriers = s.barriers ∧ t.rings = s.rings ∧ t.comps = s.comps) ∧
  (∀ (p : Fin 56) (s : State) (l : Launch) (x : Turn) (j : Nat), turnLaunch s p = some l → turnOf s p = some x →
    x.last = some j →
    ((turnOrder s p j).find? (fun x => canGoOn s (blkOf (pRgn p) (Fin.ofNat 6 x))) = none →
      exec (.turnSwitch p) s = .next s) ∧
    (∀ n, (turnOrder s p j).find? (fun x => canGoOn s (blkOf (pRgn p) (Fin.ofNat 6 x))) = some n →
      (∀ x ∈ s.regions[pRgn p].late, x.1 ≠ n % 6) →
      (∀ q ∈ sectionPieces s l (blkOf (pRgn p) (Fin.ofNat 6 n)), heldAt s q.1 q.2.len = false ∧
        firstBad s q.1 q.2.len l.job = none) →
      ∃ t, exec (.turnSwitch p) s = .next t ∧
        t.regions[pRgn p].hosted = s.regions[pRgn p].hosted ++ [(n, p.val % 7)] ∧
        (∃ y, turnOf t p = some y ∧ y.last = none ∧ y.used = 0) ∧
        rreg t .rgnTurnstat (pRgn p).val = satF (rreg s .rgnTurnstat (pRgn p).val) 15 0 1 ∧
        RegsBut [regAddr .rgnTurnstat (pRgn p).val, regAddr .blkPc (blkOf (pRgn p) (Fin.ofNat 6 n)).val] s t ∧
        t.launches = s.launches ∧ t.flagReqs = s.flagReqs))

/-- REGRD returns the words in order; REGWR and register writes act by the access codes. With no earlier register
command waiting: at a REGRD entry whose addresses all name registers (outside the loader), the completion carries the
words of the registers in order, as each read in turn gives them. At a REGWR entry whose writes are all taken, the
writes have been made in ascending order and the command completes. One address that names no register refuses REGRD
with REG_ADDR 0x2004 and the first such index, and nothing is read. A REGWR one of whose words has to wait for a place
in the Keyring queue waits at that word, with the words before it written; while it waits, a register command that is
read on any ring only joins it. REGISTER_WRITE over Latch, with no REGWR waiting, to a plain register (no group, no
effect of its own): RW bits take the written value, W1C bits written as 1 clear, every other bit and every other
register keep their values; a write to a block that no physical block hosts only joins those that wait for its turn.
To a field of a group with no commit pending, it changes the shadow copy only. (R11, R35, R41, R561, R562, R588, R727,
R730) -/
def Obligations.RegistersAreReadAndWritten : Prop :=
  (∀ (ring : Fin 16) (s : State) (e : List Byte) (cid : Word), AtCommand s ring 5 e cid → inLoader s = false →
    s.krg.regs = [] → (∀ a ∈ entryAddrs e, (regAt a).isSome = true) →
    ∃ t, exec (.regrd ring) s = .next t ∧
      Posted (cmdDone ring.val 1 0 cid 0 0
        (wordBytes (readAll (readCmd s ring.val cid 5) ((entryAddrs e).filterMap regAt)).1)) s t ∧
      t.mem = s.mem ∧ t.launches = s.launches ∧ t.blocks = s.blocks ∧ t.shadow = s.shadow) ∧
  (∀ (ring : Fin 16) (s : State) (e : List Byte) (cid : Word) (k : Nat), AtCommand s ring 5 e cid →
    inLoader s = false → s.krg.regs = [] → (entryAddrs e).findIdx? (fun a => (regAt a).isNone) = some k →
    ∃ t, exec (.regrd ring) s = .next t ∧ Posted (cmdDone ring.val 2 0x2004 cid 0 k []) s t ∧
      t = { s with rings := t.rings, comps := t.comps }) ∧
  (∀ (ring : Fin 16) (s u : State) (e : List Byte) (cid : Word), AtCommand s ring 6 e cid → inLoader s = false →
    s.krg.regs = [] → writeAll (readCmd s ring.val cid 6) 0 (entryWords e) = .ok u →
    (getRing u ring.val).isSome = true →
    ∃ t, exec (.regwr ring) s = .next t ∧ Posted (cmdDone ring.val 1 0 cid 0 0 []) u t ∧
      t = { u with rings := t.rings, comps := t.comps, krg := { u.krg with regs := [] } }) ∧
  (∀ (ring : Fin 16) (s u : State) (e : List Byte) (cid : Word) (k : Nat), AtCommand s ring 6 e cid →
    inLoader s = false → s.krg.regs = [] →
    writeAll (readCmd s ring.val cid 6) 0 (entryWords e) = .waits u k →
    exec (.regwr ring) s = .next { u with krg := { u.krg with
      regs := [{ ring := ring.val, cid := cid, entry := e, done := k }] } }) ∧
  (∀ (ring : Fin 16) (s : State) (e : List Byte) (cid : Word) (op : Nat) (c : Instr), AtCommand s ring op e cid →
    s.krg.regs ≠ [] → (op = 5 ∧ c = .regrd ring ∨ op = 6 ∧ c = .regwr ring) →
    exec c s = .next (setRegs (readCmd s ring.val cid op)
      (s.krg.regs ++ [{ ring := ring.val, cid := cid, entry := e, done := 0 }]))) ∧
  (∀ (addr : BitVec 64) (v : BitVec 32) (s : State) (b : Fin 48) (r : Reg), mgmtOn s = true → inLoader s = false →
    s.krg.regs = [] → r ∈ [Reg.blkWardlog, .blkTfault, .blkTest] → regAt addr.toNat = some (r, b.val) → hostedNow s b = false →
    exec (.registerWrite .latch addr v) s = .next (putLate s r b v)) ∧
  (∀ (addr : BitVec 64) (v : BitVec 32) (s : State) (r : Reg) (i : Nat), mgmtOn s = true → inLoader s = false →
    s.krg.regs = [] → (∀ b, windowOf r i = some b → hostedNow s b = true) →
    regAt addr.toNat = some (r, i) → r ∈ [Reg.hltEvt, .blkWardlog, .blkTfault, .cnpFault, .lkpOut] →
    ∃ t, exec (.registerWrite .latch addr v) s = .next t ∧
      (let rw := regMask r (· = .rw)
       let w1 := regMask r (· = .w1c)
       rreg t r i = ((rreg s r i &&& ~~~rw) ||| (v &&& rw)) &&& ~~~(v &&& w1)) ∧
      RegsBut [regAddr r i] s t ∧ t = { s with regs := t.regs }) ∧
  (∀ (addr : BitVec 64) (v : BitVec 32) (s : State) (r : Reg) (i : Nat) (g : Group), mgmtOn s = true →
    inLoader s = false → s.krg.regs = [] → (∀ b, windowOf r i = some b → hostedNow s b = true) →
    regAt addr.toNat = some (r, i) → commitGroup r i = none → fieldGroup r i = some g →
    (pendingG s g = false → ∃ t, exec (.registerWrite .latch addr v) s = .next t ∧
      (let m := regMask r (fun a => a = .rw || a = .wo)
       rshadow t r i = (rshadow s r i &&& ~~~m) ||| (v &&& m)) ∧
      (∀ a, a ≠ regAddr r i → ∀ d, sget d t.shadow a = sget d s.shadow a) ∧ t = { s with shadow := t.shadow }) ∧
    (pendingG s g = true → exec (.registerWrite .latch addr v) s = .next s))

/-- A burst read is served, corrected, read again, kept waiting, or halts those who asked for it. MEMORY_READ of an
installed burst first applies pending commits of the memory groups; a read that may not go on now (R27, R30, R34,
R449) does nothing more. One that may takes its credits where it crosses the Hinge. A hit in the launch's ways with at
most one bit in error only reorders the cache; with more, the line goes, and a dirty one's burst is stored poisoned.
With no line: from a write queue the burst is served without error; over a held stack the read waits; over a link that
serves and within 2t + e of 30 the corrected symbols are counted, erasures included, or, for a poisoned burst, the
running launch that asked halts with MEM_POISON; a lane that so reaches 16 errors in 32 bursts fails; beyond reach a
re-read joins those outstanding. MEMORY_REREAD takes the burst's re-reads off; within reach it counts, or, poisoned,
halts every running launch that asked with MEM_POISON 0x3A02; beyond reach it halts each with MEM_UNCORR 0x3A01. None
changes a byte. (R411, R415, R417, R418, R419, R420, R422, R425, R447, R449) -/
def Obligations.MemoryReadsDecodeOrHalt : Prop :=
  (∀ (dpa : Nat) (q : Asker) (e : BurstErr) (s : State), readMay (memApply s) (512 * burstOf dpa) q = false →
    exec (.memoryRead dpa q e) s = .next (memApply s)) ∧
  (∀ (dpa : Nat) (q : Asker) (e : BurstErr) (s u : State) (a : Nat) (i : Fin 24), a = 512 * burstOf dpa →
    readMay (memApply s) a q = true → u = crossSend (memApply s) q.unit.half a → i = Fin.ofNat 24 (dpaStack u a) →
    (∀ c, mscLine u a (q.job u) = some c →
      (e.syms.length ≤ 1 → ∃ t, exec (.memoryRead dpa q e) s = .next t ∧
        (∀ x, x ∈ t.halves[homeHalf a].msc → x ∈ u.halves[homeHalf a].msc) ∧
        OnlyHalf (homeHalf a) u t ∧ t = { u with halves := t.halves }) ∧
      (2 ≤ e.syms.length → ∃ t, exec (.memoryRead dpa q e) s = .next t ∧
        (∀ x ∈ t.halves[homeHalf a].msc, ¬ (x.burst = c.burst ∧ x.way = c.way)) ∧ OnlyHalf (homeHalf a) u t ∧
        t.mem.bytes = u.mem.bytes ∧ t.launches = u.launches ∧ (c.dirty = true → c.burst ∈ t.mem.poison) ∧
        (c.dirty = false → t = { u with halves := t.halves }))) ∧
    (mscLine u a (q.job u) = none →
      (queued u a = true → poisoned u a = false → ∃ t, exec (.memoryRead dpa q e) s = .next t ∧
        t.mem.bytes = u.mem.bytes ∧ t.mem.rereads = u.mem.rereads ∧ t.mem.stores = u.mem.stores ∧
        t = { u with mem := t.mem, halves := t.halves }) ∧
      (queued u a = false →
        (readLink u a = none → exec (.memoryRead dpa q e) s = .next { u with mem := { u.mem with
          held := u.mem.held ++ [Reread.mk a q] } }) ∧
        (readLink u a = some true → 2 * (liveErrs u.stk[i] e).length + erasedSyms u.stk[i] ≤ 30 → e.addrBad = false →
          (LanesHold u.stk[i] e → poisoned u a = false → ∃ t, exec (.memoryRead dpa q e) s = .next t ∧
            rreg t .stkCorr i.val = satF (rreg u .stkCorr i.val) 31 0
              ((liveErrs u.stk[i] e).length + erasedSyms u.stk[i]) ∧
            RegsBut [regAddr .stkCorr i.val] u t ∧ t.mem.bytes = u.mem.bytes ∧ t.mem.stores = u.mem.stores ∧
            t.mem.rereads = u.mem.rereads ∧ t.stk[i] = { u.stk[i] with hist := nextHist u.stk[i] e } ∧ OnlyStack i u t ∧
            t = { u with regs := t.regs, mem := t.mem, halves := t.halves, hlt := t.hlt, stk := t.stk }) ∧
          (LanesHold u.stk[i] e → poisoned u a = true → q.unit.own = false → ∀ l, findLaunch u q.lid = some l → l.st = .running →
            ∃ t, exec (.memoryRead dpa q e) s = .next t ∧ Halted t l 0x3A02 ∧
              t.mem.bytes = u.mem.bytes ∧ t.halves = u.halves ∧ t.blocks = u.blocks) ∧
          (∀ p, (badLanes u.stk[i] e).filter (fun p => decide (16 ≤
              ((nextHist u.stk[i] e).filter (·.any (· = p))).length)) = [p] →
            p ≤ 64 → p ∉ u.stk[i].rd.failed → ∃ t, exec (.memoryRead dpa q e) s = .next t ∧
              p ∈ t.stk[i].rd.failed ∧ t.mem.bytes = u.mem.bytes)) ∧
        (readLink u a = some true → 30 < 2 * (liveErrs u.stk[i] e).length + erasedSyms u.stk[i] ∨ e.addrBad = true →
          exec (.memoryRead dpa q e) s = .next { u with mem := { u.mem with
            rereads := u.mem.rereads ++ [Reread.mk a q] } })))) ∧
  (∀ (k : Nat) (e : BurstErr) (s : State) (r : Reread) (i : Fin 24), s.mem.rereads[k]? = some r →
    i = Fin.ofNat 24 (dpaStack s r.dpa) → readLink s r.dpa = some true → clocked s = true →
    (readsOk s r.dpa e = true → LanesHold s.stk[i] e →
      (poisoned s r.dpa = false → ∃ t, exec (.memoryReread k e) s = .next t ∧
        (∀ x, x ∈ t.mem.rereads ↔ x ∈ s.mem.rereads ∧ x.dpa ≠ r.dpa) ∧ t.mem.bytes = s.mem.bytes ∧
        rreg t .stkCorr i.val = satF (rreg s .stkCorr i.val) 31 0
          ((liveErrs s.stk[i] e).length + erasedSyms s.stk[i]) ∧
        t = { s with regs := t.regs, mem := t.mem, halves := t.halves, hlt := t.hlt, stk := t.stk }) ∧
      (poisoned s r.dpa = true → ∃ t, exec (.memoryReread k e) s = .next t ∧
        (∀ x ∈ s.mem.rereads, x.dpa = r.dpa → x.ask.unit.own = false → ∀ l, findLaunch s x.ask.lid = some l → l.st = .running →
          ∃ l', findLaunch t x.ask.lid = some l' ∧ l'.st = .halted ∧ l'.fault = 0x3A02) ∧
        (∀ x, x ∈ t.mem.rereads ↔ x ∈ s.mem.rereads ∧ x.dpa ≠ r.dpa) ∧ t.mem.bytes = s.mem.bytes ∧
        t.halves = s.halves ∧ t.blocks = s.blocks)) ∧
    (readsOk s r.dpa e = false → ∃ t, exec (.memoryReread k e) s = .next t ∧
      (∀ x ∈ s.mem.rereads, x.dpa = r.dpa → x.ask.unit.own = false → ∀ l, findLaunch s x.ask.lid = some l → l.st = .running →
        ∃ l', findLaunch t x.ask.lid = some l' ∧ l'.st = .halted ∧ l'.fault = 0x3A01) ∧
      (∀ x, x ∈ t.mem.rereads ↔ x ∈ s.mem.rereads ∧ x.dpa ≠ r.dpa) ∧ t.mem.bytes = s.mem.bytes ∧
      t.halves = s.halves ∧ t.blocks = s.blocks ∧ t.mem.stores = s.mem.stores))

/-- An accepted store writes its masked bytes and no other byte. MEMORY_WRITE of a store that may go next of its
source, when its burst is in a line of the launch's ways, or it covers its whole burst, the stack is not down and its
channel's write queue has a place; and READ_MODIFY_WRITE of a part of a burst, likewise, that stands in the write
queue or decodes without POISON over a serving link: at the store's address memory holds its bytes under their masks,
every byte outside reads as before, the store has left the queue, and no launch, region or block changes. Without a
line the burst then stands in the write queue. A READ_MODIFY_WRITE whose burst does not decode, or is poisoned,
changes no byte and halts the store's running launch with MEM_UNCORR 0x3A01 or MEM_POISON 0x3A02; a store to a stack
that is down halts it with 0x3A01. MEMORY_WRITE of a part of a burst that no line holds changes nothing. A store whose
fabric word fails its check is not written and halts its launch with FAB_UNCORR 0x3E01. Each first applies pending
commits of the memory groups; a store that crosses the Hinge takes a credit, and no other changes the Hinge. (R134,
R410, R411, R419, R420, R426, R445, R658) -/
def Obligations.StoresTakeEffect : Prop :=
  (∀ (i : Instr) (k : Nat) (e : BurstErr) (s0 s : State) (p : PendStore), s = memApply s0 → storeNext s k = some p →
    (i = .memoryWrite ⟨k, .none⟩ ∧ ((mscLine s p.addr (p.asker.job s)).isSome = true ∨
        readLink s p.addr ≠ some false ∧ p.whole = true ∧ queueFull s p.addr = false) ∨
     i = .readModifyWrite ⟨k, .none⟩ e ∧ p.whole = false ∧ mscLine s p.addr (p.asker.job s) = none ∧
       queueFull s (512 * burstOf p.addr) = false ∧
       (readLink s (512 * burstOf p.addr) ≠ some false ∧ queued s (512 * burstOf p.addr) = true ∨
        readLink s (512 * burstOf p.addr) = some true ∧ readsOk s (512 * burstOf p.addr) e = true ∧
        LanesHold (stackOfDpa s (512 * burstOf p.addr)) e ∧ poisoned s (512 * burstOf p.addr) = false)) →
    ∃ t, exec i s0 = .next t ∧
      memBytes t p.addr p.data.length = mergeMask (memBytes s p.addr p.data.length) p.data ∧
      (∀ a, a < p.addr ∨ p.addr + p.data.length ≤ a → memByte t a = memByte s a) ∧
      t.mem.stores = s.mem.stores.eraseIdx k ∧ t.mem.rereads = s.mem.rereads ∧
      (mscLine s p.addr (p.asker.job s) = none → ∃ x ∈ t.mem.wq, x.burst = burstOf p.addr ∧ p.lid ∈ x.lids) ∧
      t.hinge = (if p.crosses then (hingeSend s p.src.half 1).hinge else s.hinge) ∧
      t = { s with mem := t.mem, flagReqs := t.flagReqs, halves := t.halves, regs := t.regs, hlt := t.hlt, stk := t.stk,
                   hinge := t.hinge } ∧
      (i = .memoryWrite ⟨k, .none⟩ → t.regs = s.regs ∧ t.hlt = s.hlt ∧ t.stk = s.stk)) ∧
  (∀ (k : Nat) (e : BurstErr) (s0 s : State) (p : PendStore) (l : Launch), s = memApply s0 → storeNext s k = some p →
    p.whole = false → p.src.own = false →
    mscLine s p.addr (p.asker.job s) = none → queueFull s (512 * burstOf p.addr) = false →
    queued s (512 * burstOf p.addr) = false → readLink s (512 * burstOf p.addr) = some true →
    findLaunch s p.lid = some l → l.st = .running →
    (readsOk s (512 * burstOf p.addr) e = false → ∃ t, exec (.readModifyWrite ⟨k, .none⟩ e) s0 = .next t ∧
      Halted t l 0x3A01 ∧
      t.mem.bytes = s.mem.bytes ∧ t.mem.stores = s.mem.stores.eraseIdx k ∧ t.blocks = s.blocks ∧ t.halves = s.halves) ∧
    (readsOk s (512 * burstOf p.addr) e = true → LanesHold (stackOfDpa s (512 * burstOf p.addr)) e →
      poisoned s (512 * burstOf p.addr) = true → ∃ t, exec (.readModifyWrite ⟨k, .none⟩ e) s0 = .next t ∧
      Halted t l 0x3A02 ∧
      t.mem.bytes = s.mem.bytes ∧ t.mem.stores = s.mem.stores.eraseIdx k ∧ t.blocks = s.blocks ∧ t.halves = s.halves)) ∧
  (∀ (k : Nat) (s0 s : State) (p : PendStore), s = memApply s0 → storeNext s k = some p → mscLine s p.addr (p.asker.job s) = none →
    (p.whole = false → readLink s p.addr ≠ some false → exec (.memoryWrite ⟨k, .none⟩) s0 = .next s) ∧
    (readLink s p.addr = some false → p.src.own = false → ∀ l, findLaunch s p.lid = some l → l.st = .running →
      ∃ t, exec (.memoryWrite ⟨k, .none⟩) s0 = .next t ∧ Halted t l 0x3A01 ∧ t.mem.bytes = s.mem.bytes ∧
        t.mem.stores = s.mem.stores.eraseIdx k ∧ t.blocks = s.blocks ∧ t.halves = s.halves)) ∧
  (∀ (i : StoreCmd → Instr) (k : Nat) (e : BurstErr) (s : State) (p : PendStore) (l : Launch),
    i = .memoryWrite ∨ i = (fun c => .readModifyWrite c e) → storeNext s k = some p → p.src.own = false →
    (∀ b, p.src = .blk b → s.blocks[b].lid = some p.lid) → findLaunch s p.lid = some l → l.st = .running →
    ∃ t, exec (i ⟨k, .fabric true⟩) s = .next t ∧ Halted t l 0x3E01 ∧
      t.mem = { s.mem with stores := s.mem.stores.eraseIdx k } ∧ t.regions.map (·.rbuf) = s.regions.map (·.rbuf))

/-- Scrub, refresh, flush and the temperature of a stack. With the data clocks running, PATROL_SCRUB at level 0 over a
serving link counts the corrected symbols of a burst that decodes, and logs one that does not in MEMs_EADDR; it
changes no byte and halts no launch; above level 0, or of a burst in the write queue, it does nothing. REFRESH changes
nothing. STACK_TEMP_SAMPLE sets TEMP, LEVEL with its hysteresis of 2 degrees, REFX and MAXT and clears SENSFAIL;
entering level 3 sets HLT_EVT.HOT. STACK_SENSOR_FAIL sets level 3, the fastest refresh, TEMP 0xFF and SENSFAIL, and
HLT_EVT.HOT. MSC_FLUSH starts a flush of each half named; MSC_FLUSH_DONE, the write queues having a place for its
dirty lines, leaves the half without lines, every byte as it was, and the bursts of its dirty lines, unless their
stack is down, without POISON. (R421, R436, R437, R440, R441, R442, R448) -/
def Obligations.StacksAreWatched : Prop :=
  (∀ (dpa : Nat) (e : BurstErr) (s : State), burstThere s (512 * burstOf dpa) = true →
    readLink s (512 * burstOf dpa) = some true → clocked s = true →
    (queued s (512 * burstOf dpa) = true → exec (.patrolScrub dpa e) s = .next s) ∧
    (rfld s .stkStat (dpaStack s (512 * burstOf dpa)) 15 14 = 0 → queued s (512 * burstOf dpa) = false →
      ∃ t, exec (.patrolScrub dpa e) s = .next t ∧
      (readsOk s (512 * burstOf dpa) e = true → LanesHold (stackOfDpa s (512 * burstOf dpa)) e →
        rreg t .stkCorr (dpaStack s (512 * burstOf dpa)) =
          satF (rreg s .stkCorr (dpaStack s (512 * burstOf dpa))) 31 0
            ((liveErrs (stackOfDpa s (512 * burstOf dpa)) e).length + erasedSyms (stackOfDpa s (512 * burstOf dpa))) ∧
        t = { s with regs := t.regs, mem := t.mem, hlt := t.hlt, stk := t.stk }) ∧
      (readsOk s (512 * burstOf dpa) e = false → rreg t .stkEaddr (dpaStack s (512 * burstOf dpa)) =
        BitVec.ofNat 32 (dpaLocal (512 * burstOf dpa) / 512) ∧ burstOf dpa ∈ t.mem.damaged ∧
        t = { s with regs := t.regs, mem := t.mem, hlt := t.hlt }) ∧
      t.mem.bytes = s.mem.bytes ∧ t.mem.stores = s.mem.stores) ∧
    (0 < rfld s .stkStat (dpaStack s (512 * burstOf dpa)) 15 14 → exec (.patrolScrub dpa e) s = .next s)) ∧
  (∀ (i : Fin 24) (s : State), exec (.refresh i) s = .next s) ∧
  (∀ (i : Fin 24) (x : Int) (s : State), ∃ t, exec (.stackTempSample i x) s = .next t ∧
    rfld t .stkStat i.val 31 24 = (max 0 (min 255 x)).toNat ∧
    rfld t .stkStat i.val 15 14 = levelNext x (stkThr s i) (rfld s .stkStat i.val 15 14) ∧
    rfld t .stkStat i.val 13 13 = 0 ∧
    rfld t .stkStat i.val 12 11 = (if x < 85 then 0 else if x < 95 then 1 else 2) ∧
    rfld t .stkStat i.val 7 0 = max (rfld s .stkStat i.val 7 0) (max 0 (min 255 x)).toNat ∧
    (stkThr s i + 5 ≤ x → rfld t .stkStat i.val 15 14 = 3 ∧
      (rfld s .stkStat i.val 15 14 < 3 → rfld t .hltEvt 0 0 0 = 1)) ∧
    RegsBut [regAddr .stkStat i.val, regAddr .hltEvt 0, regAddr .latStat 0] s t ∧ OnlyStack i s t ∧
    t = { s with regs := t.regs, stk := t.stk, hlt := t.hlt, comps := t.comps }) ∧
  (∀ (i : Fin 24) (s : State), rfld s .stkStat i.val 13 13 = 0 → ∃ t, exec (.stackSensorFail i) s = .next t ∧
    rfld t .stkStat i.val 31 24 = 255 ∧ rfld t .stkStat i.val 15 14 = 3 ∧ rfld t .stkStat i.val 13 13 = 1 ∧
    rfld t .stkStat i.val 12 11 = 2 ∧ rfld t .stkStat i.val 7 0 = rfld s .stkStat i.val 7 0 ∧
    rfld t .hltEvt 0 0 0 = 1 ∧ RegsBut [regAddr .stkStat i.val, regAddr .hltEvt 0, regAddr .latStat 0] s t ∧
    t = { s with regs := t.regs, comps := t.comps }) ∧
  (∀ (v : BitVec 32) (s : State), ∃ t, exec (.mscFlush v) s = .next t ∧
    (∀ h : Fin 2, t.halves[h] = (if bitsAt v h.val 1 = 1 then { s.halves[h] with flushing := true } else s.halves[h])) ∧
    t = { s with halves := t.halves }) ∧
  (∀ (h : Fin 2) (s : State),
    (s.halves[h].flushing = true → clocked s = true → flushWaits s h = false → ∃ t, exec (.mscFlushDone h) s = .next t ∧
      t.halves[h] = { s.halves[h] with msc := [], flushing := false } ∧ OnlyHalf h s t ∧ t.mem.bytes = s.mem.bytes ∧
      (∀ c ∈ s.halves[h].msc, c.dirty = true → stackOff (stackOfDpa s (512 * c.burst)) = false → c.burst ∉ t.mem.poison ∧ c.burst ∉ t.mem.damaged) ∧
      t = { s with mem := t.mem, halves := t.halves }) ∧
    (s.halves[h].flushing = false → exec (.mscFlushDone h) s = .next s))

/-- A failed lane is erased and spared, or the link is narrowed; a spare takes over; a retrained link goes on.
READ_LANE_FAIL of a healthy lane of a full link with the spare free erases the lane and trains the spare for it; with
another lane erased, and 32 healthy lanes left, the link retrains at half width. WRITE_LANE_FAIL of a lane that lost
light or lock trains the spare, if it is free; with the spare in use the link retrains. A write frame that fails its
check is only counted, and at the third failure in succession the count is 0 and, where the retraining finds no lane
at fault, nothing else changes. SPARE_SWITCH_IN: the spare carries the lane and no lane is erased. LINK_RETRAIN_DONE:
the link runs at half width, and, once neither link of the stack retrains, no read waits for it any more. OPT_SPARE of
a lane in service with the spare free trains the spare for it, or waits while its record finds no place; with the
spare in use it sets REFUSED. Each leaves every other stack, memory, launches and the other direction's link as they
were. (R422, R423, R424, R425, R427, R588, Table 10.5) -/
def Obligations.LanesAreSparedOrNarrowed : Prop :=
  (∀ (i : Fin 24) (lane : Fin 72) (s : State), lane.val < 64 → s.stk[i].rd.mode = .full →
    s.stk[i].rd.carries .read lane.val = some lane.val → lane.val ∉ s.stk[i].rd.failed →
    (s.stk[i].rd.erased = none → s.stk[i].rd.spare = none → s.stk[i].rd.training = none →
      64 ∉ s.stk[i].rd.failed → ∃ t, exec (.readLaneFail i lane) s = .next t ∧
      (∃ l, t.stk[i] = { s.stk[i] with rd := l } ∧ l.mode = .full ∧ l.erased = some lane.val ∧
        l.training = some lane.val ∧ l.spare = none ∧ lane.val ∈ l.failed) ∧
      rfld t .optLane i.val 31 28 = 6 ∧ rfld t .optLane i.val 21 16 = lane.val ∧
      OnlyStack i s t ∧ RegsBut [regAddr .optLane i.val] s t ∧
      t = { s with stk := t.stk, regs := t.regs, hlt := t.hlt, krg := t.krg }) ∧
    (s.stk[i].rd.erased.isSome = true → s.stk[i].rd.failed.length ≤ 32 →
      ∃ t, exec (.readLaneFail i lane) s = .next t ∧
      (∃ l, t.stk[i] = { s.stk[i] with rd := l } ∧ l.mode = .retraining ∧ lane.val ∈ l.failed) ∧ OnlyStack i s t ∧
      ((getRing s 0).isSome = true → Completion.mk 3 0 0x3E07 0 0 i.val [] ∈ t.comps) ∧
      t = { s with stk := t.stk, regs := t.regs, hlt := t.hlt, krg := t.krg, comps := t.comps })) ∧
  (∀ (i : Fin 24) (found : Option (Fin 33)) (s : State),
    (s.stk[i].badFrames < 2 → ∃ t, exec (.writeLaneFail i (.frame found)) s = .next t ∧
      t.stk[i] = { s.stk[i] with badFrames := s.stk[i].badFrames + 1 } ∧ OnlyStack i s t ∧ t = { s with stk := t.stk }) ∧
    (2 ≤ s.stk[i].badFrames → found = none → ∃ t, exec (.writeLaneFail i (.frame found)) s = .next t ∧
      t.stk[i] = { s.stk[i] with badFrames := 0 } ∧ OnlyStack i s t ∧ t = { s with stk := t.stk })) ∧
  (∀ (i : Fin 24) (lane : Fin 33) (s : State), lane.val < 32 → s.stk[i].wr.mode = .full →
    s.stk[i].wr.carries .write lane.val = some lane.val → lane.val ∉ s.stk[i].wr.failed →
    (s.stk[i].wr.spare = none → s.stk[i].wr.training = none → 32 ∉ s.stk[i].wr.failed →
      ∃ t, exec (.writeLaneFail i (.lost lane)) s = .next t ∧
      (∃ l, t.stk[i] = { s.stk[i] with wr := l } ∧ l.mode = .full ∧ l.training = some lane.val ∧ l.spare = none) ∧
      OnlyStack i s t ∧ t = { s with stk := t.stk, regs := t.regs, hlt := t.hlt, krg := t.krg }) ∧
    (s.stk[i].wr.spare.isSome = true → s.stk[i].wr.failed.length ≤ 16 →
      ∃ t, exec (.writeLaneFail i (.lost lane)) s = .next t ∧
      (∃ l, t.stk[i] = { s.stk[i] with wr := l } ∧ l.mode = .retraining) ∧ OnlyStack i s t ∧
      ((getRing s 0).isSome = true → Completion.mk 3 0 0x3E07 0 0 (i.val + 256) [] ∈ t.comps) ∧
      t = { s with stk := t.stk, regs := t.regs, hlt := t.hlt, krg := t.krg, comps := t.comps })) ∧
  (∀ (i : Fin 24) (d : LinkDir) (s : State) (l : Nat), (s.stk[i].link d).training = some l →
    ∃ t, exec (.spareSwitchIn i d) s = .next t ∧
      t.stk[i].link d = { s.stk[i].link d with spare := some l, training := none, erased := none } ∧
      (∀ d', d' ≠ d → t.stk[i].link d' = s.stk[i].link d') ∧ OnlyStack i s t ∧
      t = { s with stk := t.stk, regs := t.regs, hlt := t.hlt, krg := t.krg }) ∧
  (∀ (i : Fin 24) (d : LinkDir) (s : State), clocked s = true →
    ((s.stk[i].link d).mode = .retraining → ∃ t, exec (.linkRetrainDone i d) s = .next t ∧
      t.stk[i].link d = { s.stk[i].link d with mode := .half } ∧
      (∀ d', d' ≠ d → t.stk[i].link d' = s.stk[i].link d') ∧ OnlyStack i s t ∧ t.mem.bytes = s.mem.bytes ∧
      ((∀ d', d' ≠ d → (s.stk[i].link d').mode ≠ .retraining) → ∀ r ∈ t.mem.held, dpaStack s r.dpa ≠ i.val) ∧
      ((∀ r ∈ s.mem.held, dpaStack s r.dpa ≠ i.val) → t = { s with stk := t.stk, regs := t.regs, krg := t.krg })) ∧
    ((s.stk[i].link d).mode ≠ .retraining → (∀ r ∈ s.mem.held, dpaStack s r.dpa ≠ i.val) →
      exec (.linkRetrainDone i d) s = .next s)) ∧
  (∀ (i : Fin 24) (v : BitVec 32) (s : State), bitsAt v 31 1 = 0 → s.stk[i].rd.mode = .full →
    (s.stk[i].rd.spare = none → s.stk[i].rd.training = none → s.stk[i].rd.erased = none → 64 ∉ s.stk[i].rd.failed →
      (krgFull s 3 i.val = true → exec (.optSpare i v) s = .next s) ∧
      (krgFull s 3 i.val = false → ∃ t, exec (.optSpare i v) s = .next t ∧
        t.stk[i].rd = { s.stk[i].rd with erased := some (bitsAt v 0 6), training := some (bitsAt v 0 6) } ∧
        t.stk[i].wr = s.stk[i].wr ∧ OnlyStack i s t ∧ t = { s with stk := t.stk, regs := t.regs, krg := t.krg })) ∧
    (s.stk[i].rd.spare.isSome = true → ∃ t, exec (.optSpare i v) s = .next t ∧ rfld t .optLane i.val 6 6 = 1 ∧
      RegsBut [regAddr .optLane i.val] s t ∧ t = { s with regs := t.regs }))

/-- A channel is recorded as mapped out, or, under a grant, as returned; BLK_INJECT arms one failure. MEM_MAPREQ of
some channels, with a place in the Keyring queue: NEXT has them, OUT is unchanged, and a CHMAP record with OUT and
NEXT waits to be written; with no place nothing changes. MEM_UNMAP under a grant that covers the register: NEXT loses
them, with the same record; without such a grant nothing changes. BLK_INJECT makes the block's next array instruction
fail its first check, and changes nothing else. (R102, R429, R588, R641, R743) -/
def Obligations.ChannelsAreMappedOutAndBack : Prop :=
  (∀ (i : Fin 24) (v : BitVec 32) (s : State),
    (krgFull s 5 i.val = true → exec (.memMapreq i v) s = .next s) ∧
    (krgFull s 5 i.val = false → bitsAt v 0 16 ≠ 0 → ∃ t, exec (.memMapreq i v) s = .next t ∧
      rfld t .stkChmap i.val 31 16 = rfld s .stkChmap i.val 31 16 ||| bitsAt v 0 16 ∧
      rfld t .stkChmap i.val 15 0 = rfld s .stkChmap i.val 15 0 ∧
      (∃ r ∈ t.krg.queue, r.index = i.val ∧
        r.body = .chmap (rfld s .stkChmap i.val 15 0) (rfld t .stkChmap i.val 31 16)) ∧
      RegsBut [regAddr .stkChmap i.val] s t ∧ t = { s with regs := t.regs, krg := t.krg })) ∧
  (∀ (i : Fin 24) (v : BitVec 32) (s : State),
    (grantCovers s (regAddr .stkUnmap i.val) = false → exec (.memUnmap i v) s = .next s) ∧
    (grantCovers s (regAddr .stkUnmap i.val) = true → krgFull s 5 i.val = false → bitsAt v 0 16 ≠ 0 →
      ∃ t, exec (.memUnmap i v) s = .next t ∧
      rfld t .stkChmap i.val 31 16 = rfld s .stkChmap i.val 31 16 &&& (0xFFFF - bitsAt v 0 16) ∧
      rfld t .stkChmap i.val 15 0 = rfld s .stkChmap i.val 15 0 ∧
      (∃ r ∈ t.krg.queue, r.index = i.val ∧
        r.body = .chmap (rfld s .stkChmap i.val 15 0) (rfld t .stkChmap i.val 31 16)) ∧
      RegsBut [regAddr .stkChmap i.val, regAddr .stkUnmap i.val] s t ∧ t = { s with regs := t.regs, krg := t.krg })) ∧
  (∀ (b : Fin 48) (s : State), ∃ t, exec (.blkInject b) s = .next t ∧
    t.blocks[b] = { s.blocks[b] with inject := true } ∧ OnlyBlock b s t ∧ t = { s with blocks := t.blocks })

/-- Hinge beats, credits and retraining; losing the PLL lock. On a serving Hinge with the data clocks running, a good
beat that is the next of its flow takes the credits of its slots, one or two; a bad one is replayed, and the one after
three failed replays holds the link for retraining. Without the credits, out of order in its flow, over a held or
fallen link, with the clocks stopped, while a Control beat waits and the beat is of another class, or, of a Control
beat, while stores of its source wait to cross, no beat comes. A returned credit is one more, never above Table 1.2.
Retraining ends at full width where the 64 spares of each direction replace every faulty wire; else at half width with
no launch changed, or the Hinge is down and every running, waiting or saved launch halts with HINGE_DOWN 0x3D01. A
loss of lock clears the lock bit, sets the oscillator bit and HLT_EVT.CLK, halts every such launch with 0x3E03, and
changes no byte of memory. (R20, R23, R26, R27, R28, R30, R31, R34, R739, Table 1.3) -/
def Obligations.HingeAndLockLoss : Prop :=
  (∀ (dir : Fin 2) (c : HingeBeat) (ok : Bool) (s : State) (n : Nat), n = (if c.two then 2 else 1) →
    (s.hinge.credits.getD (creditAt dir c.cls) 0 < n ∨ s.hinge.mode = .retraining ∨ s.hinge.mode = .down ∨
        clocked s = false ∨ c.seq ≠ s.hinge.count (beatFlow dir c) ∨ c.cls ≠ .control ∧ controlWaits s dir = true ∨
        c.cls = .control ∧ (∃ p ∈ s.mem.stores, p.src = c.src ∧ p.crosses = true) →
      exec (.hingeBeatReceive dir c ok) s = .next s) ∧
    (n ≤ s.hinge.credits.getD (creditAt dir c.cls) 0 → s.hinge.mode = .full ∨ s.hinge.mode = .half → clocked s = true →
      c.seq = s.hinge.count (beatFlow dir c) →
      c.cls = .control ∧ (∀ p ∈ s.mem.stores, p.src = c.src → p.crosses = false) ∨
        c.cls ≠ .control ∧ controlWaits s dir = false →
      (ok = true → ∃ t, exec (.hingeBeatReceive dir c ok) s = .next t ∧
        t.hinge.credits = modAt s.hinge.credits (creditAt dir c.cls) (· - n) ∧
        t.hinge.fails = modAt s.hinge.fails dir.val (fun _ => 0) ∧
        t.hinge.count (beatFlow dir c) = c.seq + 1 ∧
        (∀ x, x ≠ beatFlow dir c → t.hinge.count x = s.hinge.count x) ∧
        t = { s with hinge := { s.hinge with credits := t.hinge.credits, fails := t.hinge.fails, flows := t.hinge.flows } }) ∧
      (ok = false → s.hinge.fails.getD dir.val 0 < 3 → exec (.hingeBeatReceive dir c ok) s = .next { s with hinge :=
        { s.hinge with fails := modAt s.hinge.fails dir.val (· + 1), replays := s.hinge.replays + 1 } }) ∧
      (ok = false → 3 ≤ s.hinge.fails.getD dir.val 0 → ∃ t, exec (.hingeBeatReceive dir c ok) s = .next t ∧
        t.hinge.mode = .retraining ∧ t.hinge.credits = s.hinge.credits ∧ t = { s with hinge := t.hinge }))) ∧
  (∀ (dir : Fin 2) (c : HingeClass) (s : State), s.hinge.mode ≠ .down → clocked s = true → s.hinge.credits.length = 10 →
    ∃ t, exec (.hingeCreditReturn dir c) s = .next t ∧
      t.hinge.credits.getD (creditAt dir c) 0 =
        min (s.hinge.credits.getD (creditAt dir c) 0 + 1) (hingeMax.getD (HingeClass.index c) 0) ∧
      (∀ j, j ≠ creditAt dir c → t.hinge.credits.getD j 0 = s.hinge.credits.getD j 0) ∧ t = { s with hinge := t.hinge }) ∧
  (∀ (o : HingeTrain) (s : State),
    (s.hinge.mode ≠ .retraining ∨ clocked s = false → exec (.hingeRetrainDone o) s = .next s) ∧
    (s.hinge.mode = .retraining → clocked s = true → ∃ t, exec (.hingeRetrainDone o) s = .next t ∧ t.mem = s.mem ∧
      t.blocks = s.blocks ∧ t.hinge.credits = s.hinge.credits ∧
      ((∀ ws ∈ addFaulty s.hinge.spares o.faulty, ws.length ≤ 64) → t.hinge.mode = .full ∧
        t.hinge.spares = addFaulty s.hinge.spares o.faulty ∧ t.launches = s.launches ∧ t.comps = s.comps ∧ t.regs = s.regs) ∧
      ((∃ ws ∈ addFaulty s.hinge.spares o.faulty, 64 < ws.length) →
        (o.half = true → t.hinge.mode = .half ∧ t.launches = s.launches) ∧
        (o.half = false → t.hinge.mode = .down ∧ ∀ lid l, findLaunch s lid = some l →
          l.st = .running ∨ l.st = .waiting ∨ l.st = .saved →
          ∃ m, findLaunch t lid = some m ∧ m.st = .halted ∧ m.fault = 0x3D01)))) ∧
  (∀ s : State,
    (rfld s .clkStat 0 31 31 = 0 → exec .pllLockLoss s = .next s) ∧
    (rfld s .clkStat 0 31 31 = 1 → ∃ t, exec .pllLockLoss s = .next t ∧ rfld t .clkStat 0 31 31 = 0 ∧
      rfld t .clkStat 0 30 30 = 1 ∧ rfld t .hltEvt 0 5 5 = 1 ∧ rfld t .netStat 0 31 31 = 0 ∧
      t.power.phase = .clockLost ∧ t.mem = s.mem ∧ t.blocks = s.blocks ∧
      (∀ lid l, findLaunch s lid = some l → l.st = .running ∨ l.st = .waiting ∨ l.st = .saved →
        ∃ m, findLaunch t lid = some m ∧ m.st = .halted ∧ m.fault = 0x3E03)))

/-- A commit waits for its apply point, then takes the whole group or nothing of it. COMMIT_REQUEST with no commit
pending sets PENDING and clears REJECTED and REASON, and DISCARD copies every active field of the group over its
shadow copy; with one pending neither changes anything. CONFIG_APPLY of a pending commit at its apply point on a ready
device, with a Control credit of the Hinge, which it takes, where the group reaches half 1: where the shadow copy
meets the group's rules, every field of the group reads as its shadow copy did, GEN is one more, and PENDING is 0;
where it does not, REJECTED is 1, REASON names why, PENDING is 0, and every field, active and shadow, is as it was.
Otherwise it changes nothing. No register outside the group and its commit register changes. (R26, R35, R36, R37, R42,
R43, R45, R744) -/
def Obligations.GroupsCommitAndApplyWhole : Prop :=
  (∀ (g : Group) (s : State),
    (pendingG s g = true → exec (.commitRequest g) s = .next s ∧ exec (.discard g) s = .next s) ∧
    (pendingG s g = false →
      (∃ t, exec (.commitRequest g) s = .next t ∧ pendingG t g = true ∧ commitFld t g 8 8 = 0 ∧ commitFld t g 15 12 = 0 ∧
        commitFld t g 31 16 = commitFld s g 31 16 ∧
        RegsBut [regAddr (groupCommit g).1 (groupCommit g).2] s t ∧ t = { s with regs := t.regs }) ∧
      (∃ t, exec (.discard g) s = .next t ∧ (∀ x ∈ groupRegs g, rshadow t x.1 x.2 = rreg s x.1 x.2) ∧
        (∀ a, a ∉ (groupRegs g).map (fun x => regAddr x.1 x.2) → ∀ d, sget d t.shadow a = sget d s.shadow a) ∧
        t = { s with shadow := t.shadow }))) ∧
  (∀ (g : Group) (s : State),
    (¬ (pendingG s g = true ∧ atApply s g = true ∧ s.power.phase = .ready ∧ (groupInHalf1 g = true → hingeTakes s 0 0 = true)) →
      exec (.configApply g) s = .next s) ∧
    (pendingG s g = true → atApply s g = true → s.power.phase = .ready → (groupInHalf1 g = true → hingeTakes s 0 0 = true) →
      ∃ t, exec (.configApply g) s = .next t ∧ pendingG t g = false ∧
      t.hinge = (if groupInHalf1 g then (hingeSend s 0 0).hinge else s.hinge) ∧
      (groupBad s g = none → (∀ x ∈ groupRegs g, rreg t x.1 x.2 = rshadow s x.1 x.2) ∧
        commitFld t g 31 16 = (commitFld s g 31 16 + 1) % 65536 ∧
        commitFld t g 8 8 = commitFld s g 8 8 ∧ commitFld t g 15 12 = commitFld s g 15 12 ∧
        t = { s with regs := t.regs, net := { s.net with conns := t.net.conns }, hinge := t.hinge } ∧
        (g ≠ .lat → t.net = s.net)) ∧
      (∀ why, groupBad s g = some why → (∀ x ∈ groupRegs g, rreg t x.1 x.2 = rreg s x.1 x.2) ∧
        commitFld t g 8 8 = 1 ∧ commitFld t g 15 12 = why ∧ commitFld t g 31 16 = commitFld s g 31 16 ∧
        t = { s with regs := t.regs, hinge := t.hinge }) ∧
      RegsBut (regAddr (groupCommit g).1 (groupCommit g).2 :: (groupRegs g).map (fun x => regAddr x.1 x.2)) s t))

/-- While a commit is pending, writes to its group are refused; DISCARD beats COMMIT. While PENDING is 1, a write to a
field register of the group, and a write of COMMIT or DISCARD to its commit register, is refused with CFG_PENDING
0x2006: REGISTER_WRITE of it changes nothing, and a REGWR entry whose first word it is, with no earlier register
command waiting, completes refused with that code and index 0, with no register changed. With no commit pending, a
write that sets both COMMIT and DISCARD performs the discard and requests no commit. (R40, R41) -/
def Obligations.PendingGroupRefusesWrites : Prop :=
  (∀ (s : State) (addr : BitVec 64) (v : BitVec 32) (r : Reg) (i : Nat) (g : Group), regAt addr.toNat = some (r, i) →
    pendingG s g = true →
    (commitGroup r i = none ∧ fieldGroup r i = some g ∨ commitGroup r i = some g ∧ getF v 1 0 ≠ 0) →
    writeAddr .latch s addr.toNat v = .refused 0x2006 ∧ exec (.registerWrite .latch addr v) s = .next s ∧
    (∀ (ring : Fin 16) (e : List Byte) (cid : Word) (rest : List (Nat × Word)), AtCommand s ring 6 e cid →
      s.krg.regs = [] → loaderBars s e = false → entryWords e = (addr.toNat, v) :: rest →
      ∃ t, exec (.regwr ring) s = .next t ∧ Posted (cmdDone ring.val 2 0x2006 cid 0 0 []) s t ∧ t = { s with rings := t.rings, comps := t.comps })) ∧
  (∀ (s : State) (r : Reg) (i : Nat) (v : BitVec 32) (g : Group), commitGroup r i = some g → pendingG s g = false →
    getF v 1 0 = 3 → ∃ t, writeReg .latch s r i v = .ok t ∧ pendingG t g = false ∧
      (∀ x ∈ groupRegs g, rshadow t x.1 x.2 = rreg s x.1 x.2))

/-- Frames, PFC, congestion, announcements and retransmission at the port. Between two packets, commits pending on the
network's groups are applied. Then, while the port works: a frame with a bad FCS, too long or for another station only
counts in NET_ERR [31:24]; a RoCE packet with a bad ICRC counts in [23:16]; one marked CE for a connection not
notified yet is answered by a congestion notification packet; an opcode that the device does not execute ends its
connection with a NAK, counted in [15:8]; ARP and NDP requests for its addresses, ICMPv6 echo requests and datagrams
to another port are answered; a fragment, or a frame with another VLAN tag, is dropped; with PFC enabled XOFF is sent
above 12 MiB and XON below 8 MiB. A PFC frame sets the pause while PFC is enabled; one of no quanta lets what waited
go. A congestion notification 50 µs or more after the last decrease lowers the rate by a 2^D-th, not below RMIN; a
tick TI after the last increase of a connection that is set up raises it, not above 800. LINK_UP sets LINK and sends a
128-byte announcement, LINK_DOWN clears LINK, ANNOUNCE sends one when it is due. RETRY_TIMEOUT retransmits up to 7
times, then the connection ends. (R509, R511, R512, R513, R515, R524, R525, R539, R574, R575, R714) -/
def Obligations.PortFramesAndRates : Prop :=
  (∀ (f : Frame) (s0 s : State), s = betweenPackets s0 → portUp s = true →
    (f.fcsOk = false ∨ 4352 < f.len ∨ f.dst = .other → ∃ t, exec (.frameReceive f) s0 = .next t ∧
      rreg t .netErr 0 = satF (rreg s .netErr 0) 31 24 1 ∧ RegsBut [regAddr .netErr 0] s t ∧ t = { s with regs := t.regs }) ∧
    (f.fcsOk = true → f.len ≤ 4352 → f.dst ≠ .other →
      (rfld s .netStat 0 27 27 = 1 → f.body = .other → ∃ t, exec (.frameReceive f) s0 = .next t ∧
        (12 * 2 ^ 20 < f.depth → s.net.xoff = false → t.net.xoff = true ∧ Sends [.pfc true] s t) ∧
        (f.depth < 8 * 2 ^ 20 → s.net.xoff = true → t.net.xoff = false ∧ Sends [.pfc false] s t) ∧
        t = { s with net := { s.net with depth := f.depth, xoff := t.net.xoff, tx := t.net.tx } }) ∧
      (rfld s .netStat 0 27 27 = 0 → f.depth ≤ 16 * 2 ^ 20 → vlanOk s f = false → exec (.frameReceive f) s0 =
        .next { s with net := { s.net with depth := f.depth } }) ∧
      (rfld s .netStat 0 27 27 = 0 → f.depth ≤ 16 * 2 ^ 20 → vlanOk s f = true →
        (∀ (qp : BitVec 24) (ack : Bool) (c : Conn), f.body = .roce qp true true ack → findConn s qp = some c →
          c.cnpSent = none → ∃ t, exec (.frameReceive f) s0 = .next t ∧
          findConn t qp = some { c with
            heard := s.cyc, cnpSent := some s.cyc, retries := if ack then none else c.retries } ∧ Sends [.cnp qp] s t ∧
          t = { s with net := { s.net with depth := f.depth, conns := t.net.conns, tx := t.net.tx, txq := t.net.txq } }) ∧
        (∀ (qp : BitVec 24) (ce ack : Bool), f.body = .roce qp false ce ack →
          ∃ t, exec (.frameReceive f) s0 = .next t ∧ rreg t .netErr 0 = satF (rreg s .netErr 0) 23 16 1 ∧
          RegsBut [regAddr .netErr 0] s t ∧ t = { s with regs := t.regs, net := { s.net with depth := f.depth } }) ∧
        (∀ (qp : BitVec 24) (c : Conn), f.body = .badOp qp true false → findConn s qp = some c → c.up = true →
          c.waiting = [] → ∃ t, exec (.frameReceive f) s0 = .next t ∧ findConn t qp = none ∧ Sends [.nak qp .invalid] s t ∧
          rreg t .netErr 0 = satF (rreg s .netErr 0) 15 8 1 ∧ NetOnly s t) ∧
        (∀ x : Tx, (∃ ip, f.body = .arp ip ∧ ip4On s = true ∧ ip.toNat = beNat ((s.net.cfg.drop 48).take 4) ∧ x = .arpReply ip) ∨
            (∃ ip, f.body = .ndp ip ∧ isMine6 s ip.toNat = true ∧ x = .neighbour ip) ∨
            (∃ bs, f.body = .echo true bs ∧ x = .echoReply true bs) ∨ f.body = .noPort true ∧ x = .icmpError true →
          ∃ t, exec (.frameReceive f) s0 = .next t ∧ Sends [x] s t ∧
          t = { s with net := { s.net with depth := f.depth, tx := t.net.tx, txq := t.net.txq } }) ∧
        (f.body = .fragment → exec (.frameReceive f) s0 = .next { s with net := { s.net with depth := f.depth } })))) ∧
  (∀ (p : PfcIn) (s : State),
    (portUp s = true → rfld s .netStat 0 27 27 = 1 → 8 * 2 ^ 20 ≤ p.depth → p.depth ≤ 12 * 2 ^ 20 →
      (p.quanta ≠ 0 → exec (.pfcFrame p) s = .next { s with net := { s.net with pause := p.quanta, depth := p.depth } }) ∧
      (p.quanta = 0 → exec (.pfcFrame p) s = .next { s with net := { s.net with
        pause := 0, depth := p.depth, txq := [], tx := s.net.tx ++ s.net.txq.map (Tx.sent s.net.cfg) } })) ∧
    (rfld s .netStat 0 27 27 = 0 → exec (.pfcFrame p) s = .next s)) ∧
  (∀ (qp : BitVec 24) (s0 s : State) (c : Conn), s = betweenPackets s0 → findConn s qp = some c → portUp s = true →
    ∃ t, exec (.cnpReceive qp) s0 = .next t ∧ rreg t .netErr 0 = satF (rreg s .netErr 0) 7 0 1 ∧
      findConn t qp = some (if c.lastDec + 5000 ≤ s.cyc then { c with
        rate := max (c.rate - c.rate / ((2 ^ rfld s .netCfg 0 23 21 : Nat) : Rat)) ((rfld s .netCfg 0 4 0 : Nat) : Rat),
        lastDec := s.cyc, lastInc := s.cyc, n := 0, heard := s.cyc } else { c with heard := s.cyc }) ∧
      RegsBut [regAddr .netErr 0] s t ∧ t = { s with regs := t.regs, net := { s.net with conns := t.net.conns } }) ∧
  (∀ (qp : BitVec 24) (s : State) (c : Conn), findConn s qp = some c → ∃ t, exec (.rateTick qp) s = .next t ∧
      findConn t qp = some (if c.up = true ∧ c.lastInc + 500 * rfld s .netCfg 0 12 5 ≤ s.cyc then { c with
        rate := min (c.rate + ((rfld s .netCfg 0 20 13 * min (c.n + 1) 8 : Nat) : Rat)) 800, n := c.n + 1,
        lastInc := s.cyc } else c) ∧ t = { s with net := { s.net with conns := t.net.conns } }) ∧
  (∀ s : State, (s.power.phase = .ready → rfld s .netStat 0 31 31 = 0 → s.net.pause = 0 → ∃ t bs, exec .linkUp s = .next t ∧
      rfld t .netStat 0 31 31 = 1 ∧ t.net.tx = s.net.tx ++ [Tx.sent s.net.cfg (.announce bs)] ∧ bs.length = 128 ∧
      t.net.annAt = some s.cyc ∧ RegsBut [regAddr .netStat 0] s t ∧
      t = { s with regs := t.regs, net := { s.net with tx := t.net.tx, annAt := t.net.annAt } }) ∧
    (∃ t, exec .linkDown s = .next t ∧ rfld t .netStat 0 31 31 = 0 ∧ RegsBut [regAddr .netStat 0] s t ∧
      t = { s with regs := t.regs }) ∧
    (portUp s = true → announceDue s = true → ∃ t, exec .announce s = .next t ∧ Sends [.announce (announceBytes s)] s t ∧
      t = { s with net := { s.net with annAt := some s.cyc, tx := t.net.tx, txq := t.net.txq } }) ∧
    (portUp s = false ∨ announceDue s = false → exec .announce s = .next s)) ∧
  (∀ (qp : BitVec 24) (s : State) (c : Conn) (n : Nat), findConn s qp = some c → c.retries = some n →
    (portUp s = false → exec (.retryTimeout qp) s = .next s) ∧
    (portUp s = true → ∃ t, exec (.retryTimeout qp) s = .next t ∧ NetOnly s t ∧
      (n < 7 → findConn t qp = some { c with retries := some (n + 1) } ∧ Sends [.again qp] s t) ∧
      (7 ≤ n → findConn t qp = none)))

/-- Connections are made, refused and ended, and messages take receive slots. CM_REQ with a path MTU of 1,024, 2,048
or 4,096, a new queue pair and fewer than 1,024 connections makes a connection without a role and answers REP;
otherwise REJ with its reason. CM_RTU completes the set-up, and the send rate starts. CM_DREQ is answered with DREP,
the connection is gone and its rings unbound. 5 s without WELCOME ends a connection; after KATO ms without a packet
the owner connection has failed (it keeps its keys until the owner changes: log 55). After pending network commits are
applied, and with no request of the connection waiting, SEND, with or without immediate, of a good message that the
role may send takes a receive slot; with eight taken it meets an RNR NAK; before WELCOME any message but HELLO and
PROVE ends the connection with a NAK; a good message that the role may not send is answered LAT_DENIED 0x4006. (R513,
R515, R516, R517, R525, R534, R536, R539, R571) -/
def Obligations.ConnectionsComeAndGo : Prop :=
  (∀ (qp : BitVec 24) (gid : BitVec 128) (mtu : Nat) (s : State), portUp s = true →
    ((mtu = 1024 ∨ mtu = 2048 ∨ mtu = 4096) → findConn s qp = none → s.net.conns.length < 1024 →
      ∃ t, exec (.cmReq qp gid mtu) s = .next t ∧ t.net.conns = s.net.conns ++ [newConn s qp gid mtu] ∧
      Sends [.rep qp 16 7 7] s t ∧ t = { s with net := { s.net with conns := t.net.conns, tx := t.net.tx, txq := t.net.txq } }) ∧
    (∀ why : Rej, (¬ (mtu = 1024 ∨ mtu = 2048 ∨ mtu = 4096) ∧ why = .mtu ∨
        (mtu = 1024 ∨ mtu = 2048 ∨ mtu = 4096) ∧ (findConn s qp).isSome = true ∧ why = .inUse ∨
        (mtu = 1024 ∨ mtu = 2048 ∨ mtu = 4096) ∧ findConn s qp = none ∧ 1024 ≤ s.net.conns.length ∧ why = .resources) →
      ∃ t, exec (.cmReq qp gid mtu) s = .next t ∧ Sends [.rej qp why] s t ∧
      t = { s with net := { s.net with tx := t.net.tx, txq := t.net.txq } })) ∧
  (∀ (qp : BitVec 24) (s : State) (c : Conn), portUp s = true → findConn s qp = some c →
    (∃ t, exec (.cmRtu qp) s = .next t ∧ findConn t qp = some (c.start s.cyc) ∧ (c.start s.cyc).up = true ∧
      (c.up = false → (c.start s.cyc).rate = 800 ∧ (c.start s.cyc).n = 0 ∧ (c.start s.cyc).lastInc = s.cyc) ∧
      t = { s with net := { s.net with conns := t.net.conns } }) ∧
    (∃ t, exec (.cmDreq qp) s = .next t ∧ findConn t qp = none ∧ Sends [(.drep qp)] s t ∧
      (∀ (i : Fin 16) (r : Ring), s.rings[i] = some r →
        t.rings[i] = some (if r.bound = some qp then { r with bound := none } else r)) ∧ NetOnly s t)) ∧
  (∀ (qp : BitVec 24) (s : State) (c : Conn), findConn s qp = some c →
    (c.role = none → c.since + 500000000 ≤ s.cyc → ∃ t, exec (.welcomeTimeout qp) s = .next t ∧ findConn t qp = none ∧
      Sends [(.drop qp)] s t ∧ NetOnly s t) ∧
    (c.role ≠ none ∨ s.cyc < c.since + 500000000 → exec (.welcomeTimeout qp) s = .next s)) ∧
  (∀ (s : State) (c : Conn), ownerConn s = some c → findConn s c.qp = some c →
    (c.heard + 100000 * rfld s .latCfg 0 31 16 ≤ s.cyc → ∃ t, exec .ownerKeepaliveTimeout s = .next t ∧
      t.net.ownerFailed = true ∧ findConn t c.qp = some { c with failed := true } ∧
      t = { s with net := { s.net with conns := t.net.conns, ownerFailed := true } }) ∧
    (s.cyc < c.heard + 100000 * rfld s .latCfg 0 31 16 → exec .ownerKeepaliveTimeout s = .next s)) ∧
  (∀ (i : Instr) (qp : BitVec 24) (m : List Byte) (s0 s : State) (c : Conn), i = .send qp m ∨ i = .sendWithImmediate qp m →
    s = betweenPackets s0 → upConn s qp = some c → c.waiting = [] → m.length ≤ 16384 →
    (c.slots.length < 8 → msgBad m = false → mayMsg c.role (msgType m) = true → ∃ t, exec i s0 = .next t ∧
      findConn t qp = some { c with heard := s.cyc, slots := c.slots ++ [m] } ∧
      t = { s with net := { s.net with conns := t.net.conns } }) ∧
    (8 ≤ c.slots.length → ∃ t, exec i s0 = .next t ∧ findConn t qp = some { c with heard := s.cyc } ∧
      Sends [(.nak qp (.rnr 80000))] s t ∧ NetOnly s t ∧ t.regs = s.regs ∧ t.rings = s.rings ∧ t.comps = s.comps) ∧
    (c.slots.length < 8 → c.role = none → mayMsg none (msgType m) = false → ∃ t, exec i s0 = .next t ∧
      findConn t qp = none ∧ Sends [(.nak qp .invalid)] s t ∧ NetOnly s t) ∧
    (c.slots.length < 8 → c.role ≠ none → msgBad m = false → mayMsg c.role (msgType m) = false →
      ∃ t, exec i s0 = .next t ∧ findConn t qp = some (Conn.sent { c with heard := s.cyc }) ∧
      Sends [(.reply qp (msgHeader 5 16 0x4006 (msgTag m)))] s t ∧ NetOnly s t))

/-- Roles, rings and tokens: what each Latch message does. KEEPALIVE is answered with the time counter. HELLO for
owner is answered with a CHALLENGE of the fresh nonce, and the challenge is kept; for reader the token, where it is
accepted, gives the role and the binding, else LAT_TOKEN 0x4004. PROVE for owner with no owner connected: a signature
that verifies makes the connection the owner with MKEY and DKEY and unbinds every ring; one that does not is answered
LAT_PROOF 0x4003. PROMOTE makes the standby the owner when the owner has failed (a failed owner that is still
connected loses its keys and its role: log 55), or has handed over and becomes the standby, else LAT_TAKEN 0x4002.
HANDOVER marks the owner. TOKEN binds a reader whose token is accepted. RING_OPEN makes the ring it describes, or with
RESUME rebinds an open one; RING_CLOSE of a ring without commands closes it and drops its completions; otherwise
LAT_RING 0x4005. BYE is answered and the connection is gone. (R535, R537, R538, R540, R543, R544, R545, R569, R570,
R613, R757) -/
def Obligations.LatchMessagesAreAnswered : Prop :=
  (∀ (qp : BitVec 24) (s : State) (c : Conn) (m : List Byte) (rest : List (List Byte)), AtMessage s qp 0x06 c m rest →
    ∃ t, exec (.keepalive qp) s = .next t ∧ findConn t qp = some (Conn.sent { c with slots := rest }) ∧
      Sends [(.reply qp (msgHeader 6 24 0 (msgTag m) ++ toLe 8 s.dtc.toNat))] s t ∧
      t = { s with net := { s.net with conns := t.net.conns, tx := t.net.tx, txq := t.net.txq } }) ∧
  (∀ (qp : BitVec 24) (fresh : BitVec 256) (s : State) (c : Conn) (m : List Byte) (rest : List (List Byte)),
    AtMessage s qp 0x01 c m rest →
    (leAt m 16 1 = 1 → ∃ t, exec (.hello qp fresh) s = .next t ∧
      findConn t qp = some (Conn.sent { c with slots := rest, chal := some (fresh, .owner) }) ∧
      Sends [(.reply qp (msgHeader 2 56 0 (msgTag m) ++ toLe 32 fresh.toNat ++ toLe 8 (serialNat s)))] s t ∧ NetOnly s t) ∧
    (leAt m 16 1 = 3 → inLoader s = false → ∃ t, exec (.hello qp fresh) s = .next t ∧ NetOnly s t ∧
      (∀ b, tokenBind s ((m.drop 24).take 64) = some b → ∃ c', findConn t qp = some c' ∧ c'.role = some .reader ∧
        c'.bind = some b ∧ c'.rkey.isSome = true) ∧
      (tokenBind s ((m.drop 24).take 64) = none → findConn t qp = some (Conn.sent { c with slots := rest }) ∧
        Sends [(.reply qp (msgHeader 5 16 0x4004 (msgTag m)))] s t))) ∧
  (∀ (qp : BitVec 24) (s : State) (c : Conn) (m : List Byte) (rest : List (List Byte)), AtMessage s qp 0x03 c m rest →
    (∀ nonce, c.chal = some (nonce, .owner) → ownerConn s = none → ∃ t, exec (.prove qp) s = .next t ∧ NetOnly s t ∧
      (Config.mlVerify (connKey s) (proveDigest s nonce .owner c.gid) ((m.drop 16).take 4627) = true →
        (∃ c', findConn t qp = some c' ∧ c'.role = some .owner ∧ c'.chal = none ∧ c'.mkey.isSome = true ∧
          c'.dkey.isSome = true) ∧ t.net.ownerFailed = false ∧
        (∀ (i : Fin 16) (r : Ring), t.rings[i] = some r → r.bound = none)) ∧
      (Config.mlVerify (connKey s) (proveDigest s nonce .owner c.gid) ((m.drop 16).take 4627) = false →
        findConn t qp = some (Conn.sent { c with slots := rest, chal := none }) ∧
        Sends [(.reply qp (msgHeader 5 16 0x4003 (msgTag m)))] s t)) ∧
    (c.chal = none → ∃ t, exec (.prove qp) s = .next t ∧ findConn t qp = some (Conn.sent { c with slots := rest }) ∧
      Sends [(.reply qp (msgHeader 5 16 0x4003 (msgTag m)))] s t ∧ NetOnly s t)) ∧
  (∀ (qp : BitVec 24) (s : State) (c : Conn) (m : List Byte) (rest : List (List Byte)), AtMessage s qp 0x07 c m rest →
    (ownerConn s = none → s.net.ownerFailed = true → ∃ t, exec (.promote qp) s = .next t ∧ NetOnly s t ∧
      (∃ c', findConn t qp = some c' ∧ c'.role = some .owner ∧ c'.mkey.isSome = true) ∧ t.net.ownerFailed = false ∧
      (∀ o, findConn s o.qp = some o → o.qp ≠ qp → o.role = some .owner →
        ∃ o', findConn t o.qp = some o' ∧ o'.role = some .former ∧ o'.mkey = none ∧ o'.dkey = none)) ∧
    (∀ o, ownerConn s = some o → findConn s o.qp = some o → o.qp ≠ qp →
      (o.handed = true → ∃ t, exec (.promote qp) s = .next t ∧ NetOnly s t ∧
        (∃ c', findConn t qp = some c' ∧ c'.role = some .owner ∧ c'.mkey.isSome = true) ∧
        (∃ o', findConn t o.qp = some o' ∧ o'.role = some .standby ∧ o'.mkey = none)) ∧
      (o.handed = false → ∃ t, exec (.promote qp) s = .next t ∧
        findConn t qp = some (Conn.sent { c with slots := rest }) ∧
        Sends [(.reply qp (msgHeader 5 16 0x4002 (msgTag m)))] s t ∧ NetOnly s t))) ∧
  (∀ (qp : BitVec 24) (s : State) (c : Conn) (m : List Byte) (rest : List (List Byte)), AtMessage s qp 0x08 c m rest →
    ∃ t bs, exec (.handover qp) s = .next t ∧
      findConn t qp = some (Conn.sent { c with slots := rest, handed := true }) ∧
      Sends [(.reply qp bs)] s t ∧ bs.length = 64 ∧ NetOnly s t) ∧
  (∀ (qp : BitVec 24) (s : State) (c : Conn) (m : List Byte) (rest : List (List Byte)), AtMessage s qp 0x0B c m rest →
    ∃ t, exec (.token qp) s = .next t ∧ NetOnly s t ∧
      (∀ b, tokenBind s ((m.drop 24).take 64) = some b → ∃ c', findConn t qp = some c' ∧ c'.bind = some b ∧
        c'.role = c.role ∧ c'.rkey.isSome = true ∧ (∀ k, c.rkey = some k → c'.rkey = some k)) ∧
      (tokenBind s ((m.drop 24).take 64) = none → findConn t qp = some (Conn.sent { c with slots := rest }) ∧
        Sends [(.reply qp (msgHeader 5 16 0x4004 (msgTag m)))] s t)) ∧
  (∀ (qp : BitVec 24) (s : State) (c : Conn) (m : List Byte) (rest : List (List Byte)) (i : Fin 16),
    AtMessage s qp 0x09 c m rest → leAt m 16 1 = i.val →
    (leAt m 17 1 = 0 → s.rings[i] = none → ringOk s m = true → ∃ t, exec (.ringOpen qp) s = .next t ∧
      t.rings[i] = some (freshRing qp m) ∧ OnlyRing i s t ∧ NetOnly s t) ∧
    (leAt m 17 1 = 0 → s.rings[i].isSome = true → ∃ t, exec (.ringOpen qp) s = .next t ∧ t.rings = s.rings ∧
      Sends [(.reply qp (msgHeader 5 16 0x4005 (msgTag m)))] s t ∧ NetOnly s t) ∧
    (∀ r, leAt m 17 1 = 1 → s.rings[i] = some r → ringSize (leAt m 44 4) = true →
      (BitVec.ofNat 32 (leAt m 48 4) - r.a).toNat ≤ (r.q - r.a).toNat → ∃ t, exec (.ringOpen qp) s = .next t ∧
      t.rings[i] = some { r with
        crva := leAt m 32 8, crkey := BitVec.ofNat 32 (leAt m 40 4), centries := leAt m 44 4, bound := some qp,
        sent := BitVec.ofNat 32 (leAt m 48 4) } ∧ OnlyRing i s t ∧ NetOnly s t)) ∧
  (∀ (qp : BitVec 24) (s : State) (c : Conn) (m : List Byte) (rest : List (List Byte)) (i : Fin 16) (r : Ring),
    AtMessage s qp 0x0A c m rest → leAt m 16 1 = i.val → s.rings[i] = some r →
    (r.outs = [] → ∃ t, exec (.ringClose qp) s = .next t ∧ t.rings[i] = none ∧ OnlyRing i s t ∧
      t.comps = s.comps.filter (fun x => x.ring ≠ i.val) ∧ NetOnly s t) ∧
    (r.outs ≠ [] → ∃ t, exec (.ringClose qp) s = .next t ∧ t.rings = s.rings ∧ t.comps = s.comps ∧
      Sends [(.reply qp (msgHeader 5 16 0x4005 (msgTag m)))] s t ∧ NetOnly s t)) ∧
  (∀ (qp : BitVec 24) (s : State) (c : Conn) (m : List Byte) (rest : List (List Byte)), AtMessage s qp 0x0C c m rest →
    ∃ t bs, exec (.bye qp) s = .next t ∧ findConn t qp = none ∧
      Sends [(.reply qp bs), (.drop qp)] s t ∧ bs.length = 64 ∧ NetOnly s t)

/-- RDMA reaches memory only under a key; doorbells move indices; completions are written while there is room. After
pending network commits are applied, and with no earlier request of the connection waiting, RDMA WRITE under MKEY,
with or without immediate, of memory that exists, whose part-written bursts are good and whose bursts can be accepted
at once: the bytes are stored there, every other byte reads as before, and cache lines of its bursts are dirty; one
that has to wait (a held stack, a full write queue, no Network credit) is kept and changes nothing; one whose fabric
word fails its check ends the connection with a NAK. Under a key that the connection does not have nothing is written
and the connection ends with a NAK for access. RDMA READ under MKEY answers the bytes; a reader's under RKEY answers
those of its live binding; a binding that has expired ends the connection with a NAK. A doorbell that moves PROD
within the ring and CACK up to Q sets P and A. COMPLETION_WRITE of a bound ring with nothing to rewrite, a completion
waiting and room writes its 64-byte entry with index Q + 1 as immediate; without room nothing changes. BINDING_EXPIRY
ends the window's bindings whose EXPIRY has come, and no other. (R514, R518, R519, R520, R521, R546, R547, R551, R552,
R571, R572, R656) -/
def Obligations.RemoteAccessUnderKeys : Prop :=
  (∀ (i : Instr) (qp : BitVec 24) (key : BitVec 32) (va : BitVec 64) (p : Payload) (bs : List Byte) (s0 s : State) (c : Conn),
    i = .rdmaWrite qp key va p ∨ i = .rdmaWriteWithImmediate qp key va p → bs = p.bytes → s = betweenPackets s0 →
    upConn s qp = some c → c.role ≠ none → c.waiting = [] →
    (c.mkey = some key → devThere s va.toNat bs.length = true → inLoader s = false →
      (netPutWaits s va.toNat bs.length = true → ∃ t, exec i s0 = .next t ∧
        findConn t qp = some { c with heard := s.cyc, waiting := [.write key va.toNat bs p.fab] } ∧
        t = { s with net := { s.net with conns := t.net.conns } }) ∧
      (netPutWaits s va.toNat bs.length = false → p.fab = true → ∃ t, exec i s0 = .next t ∧ findConn t qp = none ∧
        Sends [.nak qp .operational] s t ∧ NetOnly s t) ∧
      (p.fab = false → netWriteBad s va.toNat bs.length = none → writeReady s .mgmt va.toNat bs.length = true →
        (inHalf1 s va.toNat bs.length = true → hingeTakes s 0 3 = true) → ∃ t, exec i s0 = .next t ∧
        memBytes t va.toNat bs.length = bs ∧
        (∀ a, a < va.toNat ∨ va.toNat + bs.length ≤ a → memByte t a = memByte s a) ∧
        findConn t qp = some { c with heard := s.cyc } ∧ t.mem.stores = s.mem.stores ∧
        (∀ h : Fin 2, ∀ x ∈ t.halves[h].msc, va.toNat / 512 ≤ x.burst → x.burst ≤ (va.toNat + bs.length - 1) / 512 →
          0 < bs.length → x.dirty = true) ∧
        t.hinge = (if inHalf1 s va.toNat bs.length then (hingeSend s 0 3).hinge else s.hinge) ∧
        t = { s with mem := t.mem, halves := t.halves, net := { s.net with conns := t.net.conns }, hinge := t.hinge })) ∧
    (c.mkey ≠ some key → c.dkey ≠ some key → ∃ t, exec i s0 = .next t ∧ findConn t qp = none ∧
      Sends [(.nak qp .access)] s t ∧ rreg t .netErr 0 = satF (rreg s .netErr 0) 15 8 1 ∧ NetOnly s t)) ∧
  (∀ (qp : BitVec 24) (key : BitVec 32) (va : BitVec 64) (n : Nat) (s0 s : State) (c : Conn), s = betweenPackets s0 → upConn s qp = some c →
    c.role ≠ none → c.waiting = [] →
    (c.mkey = some key → devThere s va.toNat n = true → netWaits s va.toNat n = false → netBad s va.toNat n = none →
      (inHalf1 s va.toNat n = true → hingeTakes s 1 3 = true) → ∃ t, exec (.rdmaRead qp key va n false) s0 = .next t ∧
      Sends [(.data qp (devBytes s va.toNat n))] s t ∧
      t = { s with net := { s.net with conns := t.net.conns, tx := t.net.tx, txq := t.net.txq }, hinge := t.hinge }) ∧
    (∀ b, c.mkey = none → c.rkey = some key → c.bind = some b → bindStands s b = true → va.toNat + n ≤ b.len →
      (s.dtc.toNat < b.expiry →
        devThere s (4096 * (rreg s .latWin2 b.win).toNat + b.off + va.toNat) n = true →
        netWaits s (4096 * (rreg s .latWin2 b.win).toNat + b.off + va.toNat) n = false →
        netBad s (4096 * (rreg s .latWin2 b.win).toNat + b.off + va.toNat) n = none →
        (inHalf1 s (4096 * (rreg s .latWin2 b.win).toNat + b.off + va.toNat) n = true → hingeTakes s 1 3 = true) →
        ∃ t, exec (.rdmaRead qp key va n false) s0 = .next t ∧ Sends [(.data qp (devBytes s (4096 * (rreg s .latWin2 b.win).toNat + b.off + va.toNat) n))] s t ∧
        t = { s with net := { s.net with conns := t.net.conns, tx := t.net.tx, txq := t.net.txq }, hinge := t.hinge }) ∧
      (b.expiry ≤ s.dtc.toNat → ∃ t, exec (.rdmaRead qp key va n false) s0 = .next t ∧ findConn t qp = none ∧
        Sends [(.nak qp .access)] s t ∧ NetOnly s t))) ∧
  (∀ (qp : BitVec 24) (key : BitVec 32) (va : BitVec 64) (bs : List Byte) (s0 s : State) (c : Conn) (i : Fin 16) (r : Ring),
    s = betweenPackets s0 → upConn s qp = some c → c.role ≠ none → c.waiting = [] → c.dkey = some key → bs.length = 8 → va.toNat = 64 * i.val →
    s.rings[i] = some r →
    (let prod : Word := BitVec.ofNat 32 (leAt bs 0 4)
     let cack : Word := BitVec.ofNat 32 (leAt bs 4 4)
     notBehind prod r.p = true → (prod - r.c).toNat ≤ r.entries → notBehind cack r.a = true →
      cack = r.q ∨ notBehind cack r.q = false →
      ∃ t, exec (.doorbell qp key va bs) s0 = .next t ∧
      (∃ r', t.rings[i] = some r' ∧ r'.p = prod ∧ r'.a = cack ∧ r'.c = r.c ∧ r'.q = r.q ∧ r'.outs = r.outs ∧
        r'.kept = r.kept.filter (fun x => notBehind x.1 cack)) ∧ OnlyRing i s t ∧
      t = { s with rings := t.rings, net := { s.net with conns := t.net.conns } })) ∧
  (∀ (ring : Fin 16) (s : State) (r : Ring) (qp : BitVec 24) (x : Completion), s.rings[ring] = some r →
    r.bound = some qp → (upConn s qp).isSome = true → s.net.pause = 0 → r.sent = r.q →
    s.comps.find? (fun c => c.ring = ring.val) = some x →
    ((r.q - r.a).toNat < r.centries → ∃ t, exec (.completionWrite ring) s = .next t ∧
      t.comps = s.comps.erase x ∧
      t.rings[ring] = some { r with
        q := r.q + 1, sent := r.q + 1, kept := r.kept ++ [(r.q, entryBytes s r x)] } ∧
      Sends [(.write qp r.crkey (r.crva + 64 * (r.q.toNat % r.centries)) (entryBytes s r x) (r.q + 1))] s t ∧
      (entryBytes s r x).length = 64 ∧ OnlyRing ring s t ∧
      t = { s with rings := t.rings, comps := t.comps, net := { s.net with conns := t.net.conns, tx := t.net.tx, txq := t.net.txq } }) ∧
    (r.centries ≤ (r.q - r.a).toNat → exec (.completionWrite ring) s = .next s)) ∧
  (∀ (w : Nat) (s : State), ∃ t, exec (.bindingExpiry w) s = .next t ∧
    (∀ qp c, findConn s qp = some c → findConn t qp = some { c with
      bind := c.bind.filter (fun b => b.win ≠ w || decide (s.dtc.toNat < b.expiry)) }) ∧
    t = { s with net := { s.net with conns := t.net.conns } })

/-- PTP states, the time counter, PPS, and the reads that latch. While PTP runs, messages of the device's domain
count. A first master takes FREE to ACQUIRING, a better one takes its place, a worse one changes nothing. A Sync
outside FREE sets NET_PTPOFS to the clamped offset, steps the counter when the offset exceeds 10 µs and leaves it
otherwise, keeps the frequency correction, within 100 ppm, and is followed by a Delay_Req; the 16th in succession
within 40 ns locks; a second beyond 50 ns takes LOCKED to HOLDOVER; while LOCKED, CLK_STAT.REFOK says that REFCLK is
within 200 ppm. Without a Sync for 4 Sync intervals LOCKED goes to HOLDOVER, where CLK_REF.VALID and PPS_OUT are off
and no timed launch waits; ACQUIRING and HOLDOVER go to FREE after 10 s without a master. PPS_OUT rises at a whole
second while LOCKED; PPS_IN, while the counter runs, takes the time of an edge unless it follows the last by less than
500 ms. A read of DEV_DTC0 or NET_PPSTS0 returns the low word and latches the high word; a read of LKP_NONCE0 replaces
the nonce. (R366, R527, R528, R530, R531, R532, R635, R696, R729) -/
def Obligations.TimeIsDisciplinedAndLatched : Prop :=
  (∀ (m : PtpAnn) (s : State), ptpOn s = true →
    (inDomain s m.domain = false → exec (.ptpAnnounce m) s = .next s) ∧
    (inDomain s m.domain = true → s.net.ptp.master = none → ptpState s = 0 → ∃ t, exec (.ptpAnnounce m) s = .next t ∧
      ptpState t = 1 ∧ t.net.ptp.master = some m.rank ∧ t.net.ptp.lastAnn = s.cyc ∧
      t.dtc = s.dtc ∧ t.launches = s.launches ∧ t.mem = s.mem) ∧
    (∀ x, inDomain s m.domain = true → s.net.ptp.master = some x →
      (rankBefore m.rank x = true ∨ x = m.rank → exec (.ptpAnnounce m) s = .next { s with net := { s.net with
        ptp := { s.net.ptp with master := some m.rank, lastAnn := s.cyc } } }) ∧
      (rankBefore m.rank x = false → x ≠ m.rank → exec (.ptpAnnounce m) s = .next s))) ∧
  (∀ (m : PtpMeas) (s : State), ptpOn s = true → ptpState s ≠ 0 →
    (inDomain s m.domain = false → exec (.ptpSync m) s = .next s) ∧
    (inDomain s m.domain = true → ∃ t, exec (.ptpSync m) s = .next t ∧
      rreg t .netPtpofs 0 = BitVec.ofInt 32 (max (-(2 ^ 31 - 1)) (min (2 ^ 31 - 1) m.off)) ∧
      t.dtc = (if 10000 < m.off.natAbs then s.dtc - BitVec.ofInt 64 m.off else s.dtc) ∧ t.mem = s.mem ∧
      Sends [.delayReq] s t ∧ t.net.ptp.freq = max (-100000) (min 100000 m.freq) ∧ t.net.ptp.lastSync = s.cyc ∧
      (ptpState s = 2 → 50 < m.off.natAbs → 1 ≤ s.net.ptp.bad → ptpState t = 3 ∧ rfld t .clkRef 0 31 31 = 0) ∧
      (ptpState s = 2 → m.off.natAbs ≤ 50 → ptpState t = 2 ∧ t.launches = s.launches ∧
        rfld t .clkStat 0 29 29 = (if m.ref.natAbs ≤ 20000 then 1 else 0)) ∧
      (ptpState s = 1 ∨ ptpState s = 3 → m.off.natAbs ≤ 40 → 15 ≤ s.net.ptp.good →
        ptpState t = 2 ∧ rfld t .clkRef 0 31 31 = 1))) ∧
  (∀ s : State,
    (ptpState s = 2 →
      (s.net.ptp.lastSync + 4 * s.net.ptp.interval ≤ s.cyc → ∃ t, exec .ptpSyncTimeout s = .next t ∧ ptpState t = 3 ∧
        rfld t .clkRef 0 31 31 = 0 ∧ t.net.ppsOut = none ∧ t.dtc = s.dtc ∧
        ∀ l ∈ t.launches, ¬ (l.flag 0 = true ∧ l.st = .waiting ∧ l.begun = false)) ∧
      (s.cyc < s.net.ptp.lastSync + 4 * s.net.ptp.interval → exec .ptpSyncTimeout s = .next s)) ∧
    (ptpState s = 1 ∨ ptpState s = 3 →
      (s.net.ptp.lastAnn + 1000000000 ≤ s.cyc → ∃ t, exec .ptpSyncTimeout s = .next t ∧ ptpState t = 0 ∧
        t.net.ptp.master = none ∧ t.dtc = s.dtc ∧ t.launches = s.launches) ∧
      (s.cyc < s.net.ptp.lastAnn + 1000000000 → exec .ptpSyncTimeout s = .next s)) ∧
    (ptpState s = 0 → exec .ptpSyncTimeout s = .next s)) ∧
  (∀ s : State,
    (ptpState s = 2 → s.dtc.toNat % 1000000000 < 10 →
      exec .ppsOut s = .next { s with net := { s.net with ppsOut := some (s.cyc + 10000000) } }) ∧
    (ptpState s ≠ 2 → exec .ppsOut s = .next s) ∧
    (counting s = true → (∀ x, s.net.ppsAt = some x → x + 50000000 ≤ s.cyc) →
      exec .ppsIn s = .next { s with net := { s.net with ppsTime := s.dtc, ppsAt := some s.cyc } }) ∧
    (∀ x, s.net.ppsAt = some x → s.cyc < x + 50000000 → exec .ppsIn s = .next s)) ∧
  (∀ s : State,
    (∃ t, exec .dtcLatchRead s = .next t ∧ t.lastRead = BitVec.ofNat 32 s.dtc.toNat ∧
      rreg t .devDtc1 0 = BitVec.ofNat 32 (s.dtc.toNat / 2 ^ 32) ∧ RegsBut [regAddr .devDtc1 0] s t ∧
      t = { s with regs := t.regs, lastRead := t.lastRead }) ∧
    (∃ t, exec .ppstsLatchRead s = .next t ∧ t.lastRead = BitVec.ofNat 32 s.net.ppsTime.toNat ∧
      rreg t .netPpsts1 0 = BitVec.ofNat 32 (s.net.ppsTime.toNat / 2 ^ 32) ∧ RegsBut [regAddr .netPpsts1 0] s t ∧
      t = { s with regs := t.regs, lastRead := t.lastRead })) ∧
  (∀ (fresh : BitVec 256) (s : State),
    (s.power.phase = .ready → exec (.nonceRead fresh) s = .next { s with
      lkp := { s.lkp with nonce := some fresh }, lastRead := BitVec.ofNat 32 fresh.toNat }) ∧
    (s.power.phase ≠ .ready → exec (.nonceRead fresh) s = .next s))

/-- Power pins, RST_N, JTAG, debug access and I3C. PWR_EN rising is noted; the switch closes when it may, PG rises and
a cold start-up begins, its time 0 now or when RST_N rises; PWR_EN falling, VIN outside 38-62 V, or PWR_EN still high
500 ms after a trip opens it and PG falls; what was volatile is gone, and flash and fuses stay while nothing is being
written to them; power lost while the configuration block is programmed leaves a block that is not in order. A low on
RST_N of 2 µs begins a cold start-up whose time 0 is its end, or with PG low lasts into the power-up; one below 1 µs
does nothing. The JTAG instructions select their registers; IDCODE reads 0x14880B8D. A debug access without a debug
grant selects bypass; with one it reads a byte of memory, waiting for a held stack, writes one that can be accepted,
or selects the management controller's debug port. I3C: a readable address sets status 0, another 1, a wrong length 2,
either while a register write waits 3; a read returns status and value in 5 bytes; a dynamic address is noted. (R649,
R650, R666, R698, R699, R701, R702, R703, R706, R709, R710, R711) -/
def Obligations.PowerPinsAndSidePorts : Prop :=
  (∀ s : State, exec .pwrEnRise s = .next { s with power := { s.power with pwrEn := true } }) ∧
  (∀ (x : Fin 4) (s : State),
    (mayClose s = true → ∃ t, exec (.hotSwapClose x) s = .next t ∧ t.power.phase = .starting false ∧
      t.power.switch = true ∧ t.power.pg = true ∧ t.power.straps = x ∧ t.power.time0 = max s.cyc s.power.rstHigh ∧
      Wiped s t) ∧
    (mayClose s = false → exec (.hotSwapClose x) s = .next s)) ∧
  (∀ s : State,
    (s.power.pwrEn = true → s.power.switch = true → ∃ t, exec .pwrEnFall s = .next t ∧ t.power.phase = .off ∧
      t.power.pg = false ∧ t.power.switch = false ∧ t.power.pwrEn = false ∧ t.power.fell = some s.cyc ∧ Wiped s t) ∧
    (∀ c, s.power.pwrEn = true → s.power.switch = true → s.krg.op = some (.cfg c) → s.krg.waits = false →
      (∀ w, s.power.phase ≠ .starting w) → ∃ t, exec .pwrEnFall s = .next t ∧ cfgOk t.flash.cfg = false) ∧
    (s.power.pwrEn = false → exec .pwrEnFall s = .next s)) ∧
  (∀ (mv : Nat) (s : State),
    (s.power.switch = true → mv < 38000 ∨ 62000 < mv → ∃ t, exec (.vinFault mv) s = .next t ∧ t.power.phase = .off ∧
      t.power.pg = false ∧ t.power.switch = false ∧ t.power.vin = mv ∧ t.power.armed = s.power.pwrEn ∧ Wiped s t) ∧
    (38000 ≤ mv → mv ≤ 62000 → exec (.vinFault mv) s = .next { s with power := { s.power with vin := mv } })) ∧
  (∀ (ns : Nat) (s : State),
    (s.power.pg = true → 2000 ≤ ns → ∃ t, exec (.rstNLow ns) s = .next t ∧ t.power.phase = .starting false ∧
      t.power.time0 = max s.power.rstHigh (s.cyc + (ns + 9) / 10) ∧ Wiped s t) ∧
    (s.power.pg = false → 2000 ≤ ns → exec (.rstNLow ns) s =
      .next { s with power := { s.power with rstHigh := max s.power.rstHigh (s.cyc + (ns + 9) / 10) } }) ∧
    (ns < 1000 → exec (.rstNLow ns) s = .next s)) ∧
  (∀ (s : State) (x : Nat), s.power.trip = some x →
    (s.power.pwrEn = true → s.power.switch = true → x + 50000000 ≤ s.cyc → ∃ t, exec .thermtripTimeout s = .next t ∧
      t.power.phase = .off ∧ t.power.pg = false ∧ t.power.switch = false ∧ t.power.armed = true ∧ Wiped s t) ∧
    (s.cyc < x + 50000000 → exec .thermtripTimeout s = .next s)) ∧
  (∀ s : State, s.power.pg = true →
    exec .jtagIdcode s = .next { s with jtag := { ir := .idcode, dr := 0x14880B8D, wait := none } } ∧
    exec .jtagBypass s = .next { s with jtag := { ir := .bypass, dr := 0, wait := none } } ∧
    (∃ t, exec .jtagSamplePreload s = .next t ∧ t.jtag.ir = .sample ∧ t = { s with jtag := t.jtag, freeCtr := t.freeCtr }) ∧
    (∃ t, exec .jtagExtest s = .next t ∧ t.jtag.ir = .extest ∧ t = { s with jtag := t.jtag, freeCtr := t.freeCtr })) ∧
  (∀ s : State, s.power.pg = true →
    (s.lkp.debug = false → ∀ a, exec (.dbgacc a) s = .next { s with jtag := { ir := .bypass, dr := 0, wait := none } }) ∧
    (s.lkp.debug = true →
      (∃ t, exec (.dbgacc .port) s = .next t ∧ t.jtag.ir = .debug ∧ t = { s with jtag := t.jtag, freeCtr := t.freeCtr }) ∧
      ∀ x, devThere s x 1 = true → inLoader s = false →
        (netWaits s x 1 = false → netBad s x 1 = none → exec (.dbgacc (.read x)) s =
          .next { s with jtag := { ir := .debug, dr := (memByte s x).setWidth 32, wait := none } }) ∧
        (netWaits s x 1 = true → exec (.dbgacc (.read x)) s =
          .next { s with jtag := { ir := .debug, dr := 0, wait := some x } }) ∧
        (writeReady s .mgmt x 1 = true → ∀ b, ∃ t, exec (.dbgacc (.write x b)) s = .next t ∧ memByte t x = b ∧
          (∀ y, y ≠ x → memByte t y = memByte s y) ∧ t.mem.stores = s.mem.stores ∧
          t = { s with jtag := t.jtag, mem := t.mem, halves := t.halves }))) ∧
  (∀ s : State, i3cOn s = true →
    (∀ bs : List Byte, bs.length = 8 ∨ bs.length = 12 → s.krg.regs ≠ [] → exec (.i3cPrivateWrite bs) s =
      .next { s with i3c := { s.i3c with status := 3, addr := none } }) ∧
    (∀ bs : List Byte, bs.length = 8 → s.krg.regs = [] →
      ((regAt (leAt bs 0 8)).any (fun x => i3cReads x.1) = true → exec (.i3cPrivateWrite bs) s =
        .next { s with i3c := { s.i3c with status := 0, addr := some (leAt bs 0 8) } }) ∧
      ((regAt (leAt bs 0 8)).any (fun x => i3cReads x.1) = false → exec (.i3cPrivateWrite bs) s =
        .next { s with i3c := { s.i3c with status := 1, addr := none } })) ∧
    (∀ bs : List Byte, bs.length ≠ 8 → bs.length ≠ 12 → exec (.i3cPrivateWrite bs) s =
      .next { s with i3c := { s.i3c with status := 2, addr := none } }) ∧
    (∀ a r i, s.i3c.addr = some a → regAt a = some (r, i) → ∃ t, exec .i3cPrivateRead s = .next t ∧
      t.i3c.reply = s.i3c.status :: toLe 4 (readReg s r i).1.toNat ∧ t.i3c.reply.length = 5) ∧
    exec .i3cDynamicAddress s = .next { s with i3c := { s.i3c with dynamic := true } })

/-- Resets, shutdown, retirement, Keyring writes, and how start-up ends. COLD and WARM leave flash and fuses, WARM the
time counter and the counts of applied commits too, and start-up begins; while the flash is programmed or the
Lockplate works they are held. SOFT ends every launch, makes every block as after reset, keeps memory and clears nonce
and LK grant. SHUTDOWN ends launches and connections, writes every queued record, turns the lasers off and sets OFF.
SOFT, SHUTDOWN, SAVECFG and KRG_BLKRST wait while a record of theirs finds no place. SAVECFG queues the active
restorable groups. KRG_RETIRE and, under a grant, KRG_UNRETIRE change the next state of the block they name.
KRG_BLKRST of a block of a held region only sets its flag; else it resets the block, whose INT_SAT stays, and the
block's group drops its shadow copy and its commit. A queued record, written with no register command waiting, is the
current one of its type and index, and every other stays. START_UP waits for time 0; it ends ready where everything is
good (BootGood), else ready or in the recovery loader, every byte of memory as it was or 0, a bad firmware image in
the loader with FAIL 2; without REFCLK it waits and the latest ends move; a step past its latest end leads to the
loader, with FAIL 7 where the steps before it are good. (R587, R589, R596, R597, R600, R602, R603, R606, R607, R612,
R617, R640) -/
def Obligations.ResetsAndStartUp : Prop :=
  (∀ s : State, mgmtOn s = true →
    (resetHeld s = false →
      (∃ t, exec .cold s = .next t ∧ t.power.phase = .starting false ∧ t.power.base = s.cyc ∧
        t.power.time0 = s.power.time0 ∧ Wiped s t) ∧
      (∃ t, exec .warm s = .next t ∧ t.power.phase = .starting true ∧ t.power.base = s.cyc ∧ t.dtc = s.dtc ∧
        (∀ g, commitFld t g 31 16 = commitFld s g 31 16) ∧
        (∀ r i, (∀ g, groupCommit g ≠ (r, i)) → rreg t r i = regReset r) ∧ Wiped s { t with regs := [] })) ∧
    (resetHeld s = true →
      exec .cold s = .next { s with krg := { s.krg with held := s.krg.held ++ [.cold] } } ∧
      exec .warm s = .next { s with krg := { s.krg with held := s.krg.held ++ [.warm] } })) ∧
  (∀ (f : BitVec 56) (k : BitVec 10) (s : State), mgmtOn s = true →
    (softFull s f = false → ∃ t, exec (.soft f k) s = .next t ∧
      t.launches = [] ∧ (∀ b : Fin 48, t.blocks[b] = Block.reset) ∧ t.mem.bytes = s.mem.bytes ∧ t.lkp.nonce = none ∧
      t.lkp.grant = none ∧ t.flash = s.flash ∧ t.net.conns = s.net.conns) ∧
    (softFull s f = true → exec (.soft f k) s = .next s)) ∧
  (∀ s : State, mgmtOn s = true →
    (shutdownFull s = true → exec .shutdown s = .next s) ∧
    (shutdownFull s = false → resetHeld s = false → ∃ t, exec .shutdown s = .next t ∧ t.power.phase = .stopped ∧
      t.launches = [] ∧ t.net.conns = [] ∧ t.krg.queue = [] ∧ rfld t .krgStat 0 20 20 = 1 ∧ t.power.lasers = false ∧
      t.mem = s.mem ∧ t.fuses = s.fuses) ∧
    (shutdownFull s = false → resetHeld s = true → exec .shutdown s =
      .next { s with krg := { s.krg with held := s.krg.held ++ [.shutdown] } })) ∧
  (∀ s : State, mgmtOn s = true →
    (krgFull s 9 0 = false → ∃ t, exec .savecfg s = .next t ∧
      (∃ r ∈ t.krg.queue, r.index = 0 ∧ r.body = cfgBody s) ∧ t = { s with krg := t.krg }) ∧
    (krgFull s 9 0 = true → exec .savecfg s = .next s)) ∧
  (∀ (v : BitVec 32) (s : State), mgmtOn s = true → bitsAt v 0 6 < 56 → krgFull s 6 (bitsAt v 0 6 / 7) = false →
    (∃ t, exec (.krgRetire v) s = .next t ∧
      blkNext t (bitsAt v 0 6 / 7) = blkNext s (bitsAt v 0 6 / 7) ||| 2 ^ (bitsAt v 0 6 % 7) ∧
      blkOut t (bitsAt v 0 6 / 7) = blkOut s (bitsAt v 0 6 / 7) ∧
      RegsBut [regAddr .krgBlkmap (bitsAt v 0 6 / 7)] s t ∧ t = { s with regs := t.regs, krg := t.krg }) ∧
    (grantCovers s (regAddr .krgUnretire 0) = true → ∃ t, exec (.krgUnretire v) s = .next t ∧
      blkNext t (bitsAt v 0 6 / 7) = blkNext s (bitsAt v 0 6 / 7) &&& (127 - 2 ^ (bitsAt v 0 6 % 7)) ∧
      blkOut t (bitsAt v 0 6 / 7) = blkOut s (bitsAt v 0 6 / 7) ∧
      RegsBut [regAddr .krgBlkmap (bitsAt v 0 6 / 7), regAddr .krgUnretire 0] s t ∧
      t = { s with regs := t.regs, krg := t.krg }) ∧
    (grantCovers s (regAddr .krgUnretire 0) = false → exec (.krgUnretire v) s = .next s)) ∧
  (∀ (v : BitVec 32) (ok : Bool) (s : State), s.power.phase = .ready → bitsAt v 0 6 < 56 →
    (s.regions[Fin.ofNat 8 (bitsAt v 0 6 / 7)].holder.isSome = true → ∃ t, exec (.krgBlkrst v ok) s = .next t ∧
      rfld t .krgStat 0 22 22 = 1 ∧ RegsBut [regAddr .krgStat 0] s t ∧ t = { s with regs := t.regs }) ∧
    (blkrstFull s (bitsAt v 0 6) = true → exec (.krgBlkrst v ok) s = .next s) ∧
    (blkrstFull s (bitsAt v 0 6) = false → s.regions[Fin.ofNat 8 (bitsAt v 0 6 / 7)].holder = none →
      ∃ t, exec (.krgBlkrst v ok) s = .next t ∧
      (∀ b : Fin 48, t.blocks[b] = (if rgnOf b = Fin.ofNat 8 (bitsAt v 0 6 / 7) ∧ physOf s b = bitsAt v 0 6
        then { Block.reset with intSat := s.blocks[b].intSat } else s.blocks[b])) ∧
      (ok = false → rfld t .krgStat 0 21 21 = 1) ∧
      (∀ b : Fin 48, rgnOf b = Fin.ofNat 8 (bitsAt v 0 6 / 7) → physOf s b = bitsAt v 0 6 →
        pendingG t (.blk b) = false ∧ ∀ x ∈ groupRegs (.blk b), rshadow t x.1 x.2 = rreg s x.1 x.2) ∧
      t = { s with blocks := t.blocks, regs := t.regs, shadow := t.shadow, krg := t.krg, comps := t.comps })) ∧
  (∀ (s : State) (r : KRec) (q : List KRec), mgmtOn s = true → s.krg.regs = [] → r.good = true →
    s.krg.queue = r :: q →
    ∃ t, exec .keyringRecordWrite s = .next t ∧ t.krg.queue = q ∧ krgCur t r.body.type r.index = some r ∧
      (∀ ty ix, ¬ (ty = r.body.type ∧ ix = r.index) → krgCur t ty ix = krgCur s ty ix) ∧
      t = { s with krg := t.krg, flash := { s.flash with recs := t.flash.recs, journal := t.flash.journal } }) ∧
  (∀ (env : BootEnv) (s : State) (w : Bool), s.power.phase = .starting w → s.cyc < s.power.time0 →
    exec (.startUp env) s = .next s) ∧
  (∀ (env : BootEnv) (s : State) (w : Bool), s.power.phase = .starting w → BootGood env w s →
    ∃ t, exec (.startUp env) s = .next t ∧ t.power.phase = .ready ∧ t.power.lasers = true ∧
      rfld t .krgBoot 0 31 30 = (if w then 2 else 1) ∧ rfld t .krgBoot 0 29 26 = 11 ∧
      rfld t .krgBoot 0 25 22 = rfld s .krgBoot 0 25 22) ∧
  (∀ (env : BootEnv) (s : State) (w : Bool), s.power.phase = .starting w → s.power.time0 ≤ s.cyc →
    (env.refclk = true ∨ w = true → ∃ t, exec (.startUp env) s = .next t ∧
      (t.power.phase = .ready ∨ t.power.phase = .loader) ∧
      (∀ a, memByte t a = memByte s a ∨ memByte t a = 0) ∧ fusesKept s t ∧
      (fwCheck (bootRead s w) (bootRead s w).flash.hdr (bootRead s w).flash.image = .signature →
        t.power.phase = .loader ∧ rfld t .krgBoot 0 25 22 = 2)) ∧
    (env.refclk = false → w = false →
      exec (.startUp env) s = .next { s with power := { s.power with noRef := true } }) ∧
    (s.power.noRef = true → w = false → exec .refclkRetry s =
      .next { s with power := { s.power with base := s.power.base + 10000000 } }) ∧
    (s.power.noRef = false → s.cyc < s.power.base + 200000000 → exec .bootStepTimeout s = .next s) ∧
    (s.power.noRef = false → s.power.base + 200000000 ≤ s.cyc →
      ∃ t, exec .bootStepTimeout s = .next t ∧ t.power.phase = .loader ∧
      (∀ a, memByte t a = memByte s a ∨ memByte t a = 0) ∧
      (s.cyc < s.power.base + 250000000 ∨ (fwCheck (bootRead s w) (bootRead s w).flash.hdr (bootRead s w).flash.image = .good ∧
        s.cyc < s.power.base + 8560000000) → rfld t .krgBoot 0 25 22 = 7)))

/-- Programming the flash, submitting and applying grants, and reports. CFGPROG of a block in order begins its
programming with RESULT in progress, one not in order gives RESULT 6; with the flash being programmed it is held.
CFGPROG_DONE and FWINSTALL_DONE with nothing held leave what was programmed in the flash with RESULT 0, or RESULT 5.
FWINSTALL begins the programming of a source that passes every check, with RESULT in progress, and else gives RESULT
2, 3 or 4; it never touches the flash itself. SUBMIT begins a submission and a well-formed one uses the nonce up;
while busy it sets OVERLAP. GRANT_APPLIED of a refused submission gives its RESULT and changes no image or fuse; of
KIND 7 raises the SVN fuses, of KIND 6 opens the LK grant, of KIND 2 makes the new image current, or with a failed
read-back gives RESULT 0xA and leaves no valid image in the other copy. CLOSE and GRANT_EXPIRY close the LK grant.
ATTEST takes the nonce at LKP_OUT, DEVCERT begins, and ATTEST_DONE leaves the report, or the certificate padded to 16
KiB, where LKP_OUT pointed then, once memory takes it; without a nonce it writes nothing. (R583, R606, R610, R611,
R633, R634, R636, R638, R641, R648) -/
def Obligations.FlashAndGrants : Prop :=
  (∀ s : State, mgmtOn s = true →
    (s.krg.op.isSome = true →
      exec .cfgprog s = .next { s with krg := { s.krg with held := s.krg.held ++ [.cfgprog] } } ∧
      exec .fwinstall s = .next { s with krg := { s.krg with held := s.krg.held ++ [.fwinstall] } }) ∧
    (s.krg.op = none →
      (devThere s (krgSource s) 64 = true → netBad s (krgSource s) 64 = none →
        ∃ t, exec .cfgprog s = .next t ∧ RegsBut [regAddr .krgStat 0] s t ∧ t = { s with regs := t.regs, krg := t.krg } ∧
        (cfgOk (devBytes s (krgSource s) 64) = true → t.krg.op = some (.cfg (devBytes s (krgSource s) 64)) ∧
          rfld t .krgStat 0 27 24 = 1) ∧
        (cfgOk (devBytes s (krgSource s) 64) = false → t.krg = s.krg ∧ rfld t .krgStat 0 27 24 = 6)) ∧
      (∃ t, exec .fwinstall s = .next t ∧ t.flash = s.flash ∧ t.mem = s.mem ∧ t.fuses = s.fuses ∧
        ((∃ h img, t.krg.op = some (.fw h img) ∧ fwCheck s h img = .good ∧ rfld t .krgStat 0 27 24 = 1) ∨
          t.krg = s.krg ∧ rfld t .krgStat 0 27 24 ∈ [2, 3, 4])) ∧
      (∀ h img, devThere s (krgSource s) (rfld s .krgSrclen 0 14 0 * 4096) = true →
        netBad s (krgSource s) (rfld s .krgSrclen 0 14 0 * 4096) = none →
        devBytes s (krgSource s) (rfld s .krgSrclen 0 14 0 * 4096) = h ++ img → h.length = 65536 →
        ilenOk (fwIlen h) = true → fwIlen h = img.length →
        (fwCheck s h img = .good → ∃ t, exec .fwinstall s = .next t ∧
          t.krg = { s.krg with op := some (.fw h img), waits := grantWrites s } ∧ rfld t .krgStat 0 27 24 = 1 ∧
          rfld t .krgStat 0 13 0 = 0 ∧ RegsBut [regAddr .krgStat 0] s t ∧ t = { s with regs := t.regs, krg := t.krg }) ∧
        (fwCheck s h img = .signature → exec .fwinstall s = .next (wfld s .krgStat 0 27 24 2)) ∧
        (fwCheck s h img = .rollback → exec .fwinstall s = .next (wfld s .krgStat 0 27 24 3))))) ∧
  (∀ s : State, s.krg.waits = false → s.krg.held = [] →
    (∀ c, s.krg.op = some (.cfg c) →
      (∃ t, exec (.cfgprogDone true) s = .next t ∧ t.flash = { s.flash with cfg := c } ∧ t.krg.op = none ∧
        rfld t .krgStat 0 27 24 = 0 ∧ t.mem = s.mem) ∧
      (∃ t, exec (.cfgprogDone false) s = .next t ∧ t.flash = { s.flash with cfg := t.flash.cfg } ∧ t.krg.op = none ∧
        rfld t .krgStat 0 27 24 = 5 ∧ t.mem = s.mem)) ∧
    (∀ h img, s.krg.op = some (.fw h img) → inLoader s = false →
      (∃ t, exec (.fwinstallDone true) s = .next t ∧ t.flash = { s.flash with hdr := h, image := img } ∧
        t.krg.op = none ∧ rfld t .krgStat 0 27 24 = 0 ∧ t.mem = s.mem) ∧
      (∃ t, exec (.fwinstallDone false) s = .next t ∧ t.krg.op = none ∧ rfld t .krgStat 0 27 24 = 5 ∧ t.mem = s.mem))) ∧
  (∀ s : State, s.power.phase = .ready →
    (s.lkp.op = none →
      (∃ t, exec .submit s = .next t ∧ t.lkp.op.isSome = true ∧ rfld t .lkpStat 0 30 27 = 1 ∧ t.lkp.img = s.lkp.img ∧
        ((readRequest s).isSome = true → t.lkp.nonce = none) ∧ ((readRequest s).isSome = false → t.lkp.nonce = s.lkp.nonce) ∧
        RegsBut [regAddr .lkpStat 0] s t ∧ t = { s with regs := t.regs, lkp := t.lkp }) ∧
      exec .close s = .next { s with lkp := { s.lkp with grant := none } } ∧
      exec .devcert s = .next { s with lkp := { s.lkp with op := some (.devcert (lkpOut s)) } } ∧
      (netWaits s (lkpOut s) 32 = true →
        exec .attest s = .next { s with lkp := { s.lkp with op := some (.attest (lkpOut s) none) } }) ∧
      (netWaits s (lkpOut s) 32 = false → devThere s (lkpOut s) 32 = true → netBad s (lkpOut s) 32 = none →
        exec .attest s =
          .next { s with lkp := { s.lkp with op := some (.attest (lkpOut s) (some (devBytes s (lkpOut s) 32))) } }) ∧
      (netWaits s (lkpOut s) 32 = false → devThere s (lkpOut s) 32 = false ∨ (netBad s (lkpOut s) 32).isSome = true →
        ∃ t, exec .attest s = .next t ∧ t.lkp = { s.lkp with op := some (.attest (lkpOut s) (some [])) } ∧
          t = { s with regs := t.regs, hlt := t.hlt, lkp := t.lkp })) ∧
    (s.lkp.op.isSome = true → ∀ i ∈ [Instr.submit, .close, .devcert, .attest], ∃ t, exec i s = .next t ∧
      rfld t .lkpStat 0 20 20 = 1 ∧ RegsBut [regAddr .lkpStat 0] s t ∧ t = { s with regs := t.regs })) ∧
  (∀ (ok : ReadBack) (s : State) (k r : Nat) (flag : Bool) (body : List Byte), s.lkp.op = some (.grant k r flag body) →
    s.krg.held = [] →
    (r ≠ 0 → r < 16 → ∃ t, exec (.grantApplied ok) s = .next t ∧ rfld t .lkpStat 0 30 27 = r ∧
      t.lkp = { s.lkp with op := none } ∧ t.flash = s.flash ∧ t.fuses = s.fuses ∧ t.mem = s.mem) ∧
    (r = 0 → k = 7 → ∃ t, exec (.grantApplied ok) s = .next t ∧ rfld t .lkpStat 0 30 27 = 0 ∧
      t.fuses = { s.fuses with svn := max s.fuses.svn (leAt body 0 1) } ∧ t.lkp = { s.lkp with op := none } ∧
      t.flash = s.flash) ∧
    (r = 0 → k = 6 → ∃ t g, exec (.grantApplied ok) s = .next t ∧ t.lkp = { s.lkp with op := none, grant := some g } ∧
      g.closes = s.cyc + leAt body 2 2 * 100000000 ∧ g.regs.length = leAt body 0 2 ∧ t.flash = s.flash ∧
      t.fuses = s.fuses) ∧
    (r = 0 → k = 2 → krgBusy s = false → ok.first = true → ∃ t, exec (.grantApplied ok) s = .next t ∧
      rfld t .lkpStat 0 30 27 = 0 ∧ t.lkp.op = none ∧ t.lkp.img = sealImg (grantImg s 2 flag body) ∧
      t.lkp.which = (if s.lkp.which = 0 then 1 else 0) ∧
      (if s.lkp.which = 0 then t.flash.copyB else t.flash.copyA) = t.lkp.img ∧
      t.fuses = { s.fuses with epoch := s.fuses.epoch + (if flag then 1 else 0) } ∧ t.mem = s.mem) ∧
    (r = 0 → k = 2 → krgBusy s = false → ok.first = false → ∃ t, exec (.grantApplied ok) s = .next t ∧
      rfld t .lkpStat 0 30 27 = 10 ∧ t.lkp = { s.lkp with op := none } ∧ t.fuses = s.fuses ∧
      t.flash = (if s.lkp.which = 0 then { s.flash with copyB := t.flash.copyB }
        else { s.flash with copyA := t.flash.copyA }) ∧
      imgValid t (if s.lkp.which = 0 then t.flash.copyB else t.flash.copyA) = false)) ∧
  (∀ (s : State) (g : LkGrant), s.lkp.grant = some g →
    (g.closes ≤ s.cyc → exec .grantExpiry s = .next { s with lkp := { s.lkp with grant := none } }) ∧
    (s.cyc < g.closes → exec .grantExpiry s = .next s)) ∧
  (∀ (s : State) (a : Nat), s.krg.held = [] → inLoader s = false →
    (s.lkp.op = some (.devcert a) → devThere s a 16384 = true → MemTakes s → ∃ t, exec (.attestDone true) s = .next t ∧
      memBytes t a 16384 = fit 0xFF 16384 s.flash.cert ∧
      (∀ x, x < a ∨ a + 16384 ≤ x → memByte t x = memByte s x) ∧ t.lkp = { s.lkp with op := none }) ∧
    (∀ n, s.lkp.op = some (.attest a (some n)) → n ≠ [] → devThere s a 12416 = true → MemTakes s →
      ∃ t, exec (.attestDone true) s = .next t ∧ t.lkp = { s.lkp with op := none } ∧
      memBytes t a 12416 = report s n ∧ (∀ x, x < a ∨ a + 12416 ≤ x → memByte t x = memByte s x)) ∧
    (s.lkp.op = some (.attest a (some [])) → outWaits s a 12416 = false → ∀ ok, ∃ t, exec (.attestDone ok) s = .next t ∧
      t.lkp = { s.lkp with op := none } ∧ t.mem = s.mem) ∧
    (∀ n, s.lkp.op = some (.attest a n) → outWaits s a 12416 = true ∨ (n = none ∧ netWaits s a 32 = true) →
      ∀ ok, exec (.attestDone ok) s = .next s))

/-- Temperature, power caps and duty, the CRC service, and the lifetime record. A die sample, while the device runs,
sets HLT_TEMP with a level of 3 degrees hysteresis, and the half's duty to the lower of its thermal and the power
duty; 110 degrees, or 95 in the optical engine, trips: everything volatile is gone. Above the effective cap the power
duty falls by one, not below 2; after ten checks more than 50 W below it rises by one, not above 16. PCAPB_SET and
PCAPD_SET load a cap clamped into 800-2,900 W; FAST forces 2/16. HLT_CRC begins a service that ends with the CRC-64 of
a range of good memory, or CRCFAIL and 0, and changes no byte; HLT_LIFE ends with every current LIFE record at its
place where memory is installed, once memory takes it. The hourly update counts the device's powered hour, requests a
TIME record, and changes no byte of memory. (R661, R662, R665, R666, R667, R669, R671, R672, R676, R681) -/
def Obligations.HealthIsControlledAndRecorded : Prop :=
  (∀ (h : Fin 2) (die base opt : Int) (s : State),
    (awake s = false → exec (.dieTempSample h die base opt) s = .next s) ∧
    (awake s = true → max die base < 110 → opt < 95 → ∃ t, exec (.dieTempSample h die base opt) s = .next t ∧
      rfld t .hltTemp h.val 31 24 = tempByte (max die base) ∧ rfld t .hltTemp h.val 23 16 = tempByte base ∧
      rfld t .hltTemp h.val 15 8 = tempByte opt ∧
      rfld t .hltTemp h.val 7 6 = dieLevelNext (max die base) (rfld s .hltTemp h.val 7 6) ∧
      rfld t .hltDuty 0 (if h = 0 then 4 else 20) (if h = 0 then 0 else 16) =
        min (thermalDuty (dieLevelNext (max die base) (rfld s .hltTemp h.val 7 6))) (powerDuty s) ∧
      RegsBut [regAddr .hltTemp h.val, regAddr .hltDuty 0, regAddr .hltEvt 0, regAddr .latStat 0] s t ∧
      t = { s with regs := t.regs, hlt := t.hlt, comps := t.comps }) ∧
    (awake s = true → 110 ≤ max die base ∨ 95 ≤ opt → ∃ t, exec (.dieTempSample h die base opt) s = .next t ∧
      t.power.phase = .tripped ∧ t.power.trip = some (s.power.trip.getD s.cyc) ∧ t.power.tripDue = true ∧
      t.power.lasers = false ∧ Wiped s t)) ∧
  (∀ (watts mv : Nat) (s : State), ∃ t, exec (.powerCheck watts mv) s = .next t ∧
    rfld t .hltPwr 0 31 16 = min watts 0xFFFF ∧ rfld t .hltPwr 0 15 0 = min (mv / 10) 0xFFFF ∧
    (effectiveCap s < watts → s.hlt.fast = false → t.hlt.duty = max 2 (s.hlt.duty - 1)) ∧
    (watts + 50 < effectiveCap s → s.hlt.fast = false →
      t.hlt.duty = (if 9 ≤ s.hlt.below then min 16 (s.hlt.duty + 1) else s.hlt.duty)) ∧
    RegsBut [regAddr .hltPwr 0, regAddr .hltDuty 0, regAddr .hltEvt 0, regAddr .latStat 0] s t ∧
    t = { s with regs := t.regs, hlt := t.hlt, comps := t.comps }) ∧
  (∀ (v : BitVec 32) (s : State),
    (∃ t, exec (.pcapbSet v) s = .next t ∧ rfld t .hltPcapb 0 27 16 = max 800 (min 2900 (bitsAt v 0 12)) ∧
      RegsBut [regAddr .hltPcapb 0] s t ∧ t = { s with regs := t.regs }) ∧
    (∃ t, exec (.pcapdSet v) s = .next t ∧ rfld t .hltPcapd 0 27 16 = max 800 (min 2900 (bitsAt v 0 12)) ∧
      RegsBut [regAddr .hltPcapd 0] s t ∧ t = { s with regs := t.regs }) ∧
    (∃ t, exec (.pcapbFast v) s = .next t ∧
      t.hlt = { s.hlt with fast := decide (bitsAt v 15 1 = 1), duty := if bitsAt v 15 1 = 1 then 2 else s.hlt.duty } ∧
      (bitsAt v 15 1 = 1 → rfld t .hltDuty 0 4 0 = 2 ∧ rfld t .hltDuty 0 20 16 = 2) ∧
      RegsBut [regAddr .hltDuty 0] s t ∧ t = { s with regs := t.regs, hlt := t.hlt })) ∧
  (∀ s : State,
    (s.hlt.op.isSome = true → exec .hltCrc s = .next s ∧ exec .hltLife s = .next s) ∧
    (s.hlt.op = none →
      (∃ t, exec .hltCrc s = .next t ∧
        t.hlt = { s.hlt with op := some (.crc (hltAddr s) ((rreg s .hltLen 0).toNat * 4096)) } ∧
        rfld t .hltCtl 0 30 30 = 0 ∧ RegsBut [regAddr .hltCtl 0] s t ∧ t = { s with regs := t.regs, hlt := t.hlt }) ∧
      exec .hltLife s = .next { s with hlt := { s.hlt with op := some (.life (hltAddr s)) } })) ∧
  (∀ (s : State) (a n : Nat), s.hlt.op = some (.crc a n) →
    (a + n ≤ viewBase → installed s a n = true → readWaits s a n 0 = true → exec .hltCrcDone s = .next s) ∧
    (a + n ≤ viewBase → installed s a n = true → readWaits s a n 0 = false → firstBad s a n = none →
      ∃ t, exec .hltCrcDone s = .next t ∧
      rreg t .hltCrc 1 ++ rreg t .hltCrc 0 = crc64 (memBytes s a n) ∧ t.hlt = { s.hlt with op := none } ∧
      RegsBut [regAddr .hltCrc 0, regAddr .hltCrc 1] s t ∧ t = { s with regs := t.regs, hlt := t.hlt }) ∧
    (0 < n → readWaits s a n 0 = false → (firstBad s a n).isSome = true → ∃ t, exec .hltCrcDone s = .next t ∧
      rreg t .hltCrc 0 = 0 ∧
      rreg t .hltCrc 1 = 0 ∧ rfld t .hltCtl 0 30 30 = 1 ∧ t.hlt.op = none ∧
      t = { s with regs := t.regs, hlt := t.hlt })) ∧
  (∀ (s : State) (a : Nat), s.hlt.op = some (.life a) →
    (∀ p ∈ lifeCur s, a + 4096 * p.1 + p.2.length ≤ viewBase → installed s (a + 4096 * p.1) p.2.length = true →
      writeEnds s (a + 4096 * p.1) p.2.length = false → exec .hltLifeDone s = .next s) ∧
    ((∀ p ∈ lifeCur s, p.2.length ≤ 4096) → MemTakes s →
      ∃ t, exec .hltLifeDone s = .next t ∧ t.hlt = { s.hlt with op := none } ∧
      (∀ p ∈ lifeCur s, a + 4096 * p.1 + p.2.length ≤ viewBase → installed s (a + 4096 * p.1) p.2.length = true →
        memBytes t (a + 4096 * p.1) p.2.length = p.2) ∧
      (∀ x, (∀ p ∈ lifeCur s, x < a + 4096 * p.1 ∨ a + 4096 * p.1 + p.2.length ≤ x) → memByte t x = memByte s x) ∧
      t = { s with mem := t.mem, halves := t.halves, hlt := t.hlt })) ∧
  (∀ (bias : List Nat) (s : State) (b : List Byte), s.hlt.life.length = 25 → s.hlt.life[24]? = some b → b.length = 640 →
    ∃ t, exec (.lifeHourlyUpdate bias) s = .next t ∧
      lifeGet t 24 0 4 = min (lifeGet s 24 0 4 + 1) (2 ^ 32 - 1) ∧
      (∃ r ∈ t.krg.queue, r.index = 0 ∧ r.body = .time s.dtc (rfld s .netStat 0 30 28)) ∧
      t = { s with regs := t.regs, hlt := t.hlt, krg := t.krg, comps := t.comps })

/-- Every step keeps device memory in its canonical form. From every state whose memory lists strictly rising
addresses and no byte that reads as an unlisted one does, a step to a next state leaves memory in that form, whatever
command stood at the front of the queue, or none. The form is the model's own; it makes equal memories equal data.
(10_optical_memory.md, 00_scope.md) -/
def Obligations.MemoryStaysCanonical : Prop :=
  ∀ s t : State, Memory.wf s.mem = true → step s = .next t → Memory.wf t.mem = true

/-- No step returns a blown fuse. From every state, a step to a next state leaves the count of SVN fuses and the count
of EPOCH fuses at least what they were; the other fuse banks are constants of the model, which no step changes. (R620)
-/
def Obligations.FusesNeverReturn : Prop :=
  ∀ s t : State, step s = .next t → fusesKept s t
end

