-- ==== Sys2Proof/Laws/Hash.lean ====
section
/-! SUPPORT. The length of what the hash functions give. -/

namespace Sys2Proof.Machine

theorem keccakF_length (a : List (BitVec 64)) : (keccakF a).length = 25 := by
  unfold keccakF
  rw [List.range_succ, List.foldl_append]
  simp [iotaStep, chiStep]

theorem absorb_length (bs : List Byte) : ∀ n, (absorb bs n).length = 25
  | 0 => by simp [absorb]
  | _ + 1 => keccakF_length _

/-- A SHA3-512 digest has 64 bytes. -/
theorem sha3_length (bs : List Byte) : (sha3 bs).length = 64 := by
  have h (l : List (BitVec 64)) : (l.flatMap (fun w => toLe 8 w.toNat)).length = 8 * l.length := by
    induction l with
    | nil => rfl
    | cons x l ih => rw [List.flatMap_cons, List.length_append, ih]; simp [toLe]; omega
  unfold sha3
  rw [h, List.length_take, absorb_length]
  rfl

end Sys2Proof.Machine
end

