-- ==== Sys2Proof/Laws/State.lean ====
section
/-! SUPPORT. What each update of the state leaves of every field, so that no proof unfolds one. -/

namespace Sys2Proof.Machine

variable (s : State)

/-! A change of one block. -/

@[simp] theorem modBlk_regs (b : Fin 48) (f : Block → Block) : (modBlk s b f).regs = s.regs := rfl
@[simp] theorem modBlk_shadow (b : Fin 48) (f : Block → Block) : (modBlk s b f).shadow = s.shadow := rfl
@[simp] theorem modBlk_cyc (b : Fin 48) (f : Block → Block) : (modBlk s b f).cyc = s.cyc := rfl
@[simp] theorem modBlk_dtc (b : Fin 48) (f : Block → Block) : (modBlk s b f).dtc = s.dtc := rfl
@[simp] theorem modBlk_blocks (b : Fin 48) (f : Block → Block) : (modBlk s b f).blocks = s.blocks.set b (f s.blocks[b]) := rfl
@[simp] theorem modBlk_regions (b : Fin 48) (f : Block → Block) : (modBlk s b f).regions = s.regions := rfl
@[simp] theorem modBlk_halves (b : Fin 48) (f : Block → Block) : (modBlk s b f).halves = s.halves := rfl
@[simp] theorem modBlk_mem (b : Fin 48) (f : Block → Block) : (modBlk s b f).mem = s.mem := rfl
@[simp] theorem modBlk_stk (b : Fin 48) (f : Block → Block) : (modBlk s b f).stk = s.stk := rfl
@[simp] theorem modBlk_hinge (b : Fin 48) (f : Block → Block) : (modBlk s b f).hinge = s.hinge := rfl
@[simp] theorem modBlk_launches (b : Fin 48) (f : Block → Block) : (modBlk s b f).launches = s.launches := rfl
@[simp] theorem modBlk_barriers (b : Fin 48) (f : Block → Block) : (modBlk s b f).barriers = s.barriers := rfl
@[simp] theorem modBlk_flagReqs (b : Fin 48) (f : Block → Block) : (modBlk s b f).flagReqs = s.flagReqs := rfl
@[simp] theorem modBlk_comps (b : Fin 48) (f : Block → Block) : (modBlk s b f).comps = s.comps := rfl
@[simp] theorem modBlk_rings (b : Fin 48) (f : Block → Block) : (modBlk s b f).rings = s.rings := rfl
@[simp] theorem modBlk_net (b : Fin 48) (f : Block → Block) : (modBlk s b f).net = s.net := rfl
@[simp] theorem modBlk_flash (b : Fin 48) (f : Block → Block) : (modBlk s b f).flash = s.flash := rfl
@[simp] theorem modBlk_fuses (b : Fin 48) (f : Block → Block) : (modBlk s b f).fuses = s.fuses := rfl
@[simp] theorem modBlk_krg (b : Fin 48) (f : Block → Block) : (modBlk s b f).krg = s.krg := rfl
@[simp] theorem modBlk_lkp (b : Fin 48) (f : Block → Block) : (modBlk s b f).lkp = s.lkp := rfl
@[simp] theorem modBlk_hlt (b : Fin 48) (f : Block → Block) : (modBlk s b f).hlt = s.hlt := rfl
@[simp] theorem modBlk_power (b : Fin 48) (f : Block → Block) : (modBlk s b f).power = s.power := rfl
@[simp] theorem modBlk_i3c (b : Fin 48) (f : Block → Block) : (modBlk s b f).i3c = s.i3c := rfl
@[simp] theorem modBlk_jtag (b : Fin 48) (f : Block → Block) : (modBlk s b f).jtag = s.jtag := rfl
@[simp] theorem modBlk_dtcPs (b : Fin 48) (f : Block → Block) : (modBlk s b f).dtcPs = s.dtcPs := rfl
@[simp] theorem modBlk_ctxs (b : Fin 48) (f : Block → Block) : (modBlk s b f).ctxs = s.ctxs := rfl
@[simp] theorem modBlk_sessions (b : Fin 48) (f : Block → Block) : (modBlk s b f).sessions = s.sessions := rfl
@[simp] theorem modBlk_freeCtr (b : Fin 48) (f : Block → Block) : (modBlk s b f).freeCtr = s.freeCtr := rfl
@[simp] theorem modBlk_lastRead (b : Fin 48) (f : Block → Block) : (modBlk s b f).lastRead = s.lastRead := rfl
@[simp] theorem modBlk_pending (b : Fin 48) (f : Block → Block) : (modBlk s b f).pending = s.pending := rfl

/-! A change of one region. -/

@[simp] theorem modRgn_regs (r : Fin 8) (f : Region → Region) : (modRgn s r f).regs = s.regs := rfl
@[simp] theorem modRgn_shadow (r : Fin 8) (f : Region → Region) : (modRgn s r f).shadow = s.shadow := rfl
@[simp] theorem modRgn_cyc (r : Fin 8) (f : Region → Region) : (modRgn s r f).cyc = s.cyc := rfl
@[simp] theorem modRgn_dtc (r : Fin 8) (f : Region → Region) : (modRgn s r f).dtc = s.dtc := rfl
@[simp] theorem modRgn_blocks (r : Fin 8) (f : Region → Region) : (modRgn s r f).blocks = s.blocks := rfl
@[simp] theorem modRgn_regions (r : Fin 8) (f : Region → Region) : (modRgn s r f).regions = s.regions.set r (f s.regions[r]) := rfl
@[simp] theorem modRgn_halves (r : Fin 8) (f : Region → Region) : (modRgn s r f).halves = s.halves := rfl
@[simp] theorem modRgn_mem (r : Fin 8) (f : Region → Region) : (modRgn s r f).mem = s.mem := rfl
@[simp] theorem modRgn_stk (r : Fin 8) (f : Region → Region) : (modRgn s r f).stk = s.stk := rfl
@[simp] theorem modRgn_hinge (r : Fin 8) (f : Region → Region) : (modRgn s r f).hinge = s.hinge := rfl
@[simp] theorem modRgn_launches (r : Fin 8) (f : Region → Region) : (modRgn s r f).launches = s.launches := rfl
@[simp] theorem modRgn_barriers (r : Fin 8) (f : Region → Region) : (modRgn s r f).barriers = s.barriers := rfl
@[simp] theorem modRgn_flagReqs (r : Fin 8) (f : Region → Region) : (modRgn s r f).flagReqs = s.flagReqs := rfl
@[simp] theorem modRgn_comps (r : Fin 8) (f : Region → Region) : (modRgn s r f).comps = s.comps := rfl
@[simp] theorem modRgn_rings (r : Fin 8) (f : Region → Region) : (modRgn s r f).rings = s.rings := rfl
@[simp] theorem modRgn_net (r : Fin 8) (f : Region → Region) : (modRgn s r f).net = s.net := rfl
@[simp] theorem modRgn_flash (r : Fin 8) (f : Region → Region) : (modRgn s r f).flash = s.flash := rfl
@[simp] theorem modRgn_fuses (r : Fin 8) (f : Region → Region) : (modRgn s r f).fuses = s.fuses := rfl
@[simp] theorem modRgn_krg (r : Fin 8) (f : Region → Region) : (modRgn s r f).krg = s.krg := rfl
@[simp] theorem modRgn_lkp (r : Fin 8) (f : Region → Region) : (modRgn s r f).lkp = s.lkp := rfl
@[simp] theorem modRgn_hlt (r : Fin 8) (f : Region → Region) : (modRgn s r f).hlt = s.hlt := rfl
@[simp] theorem modRgn_power (r : Fin 8) (f : Region → Region) : (modRgn s r f).power = s.power := rfl
@[simp] theorem modRgn_i3c (r : Fin 8) (f : Region → Region) : (modRgn s r f).i3c = s.i3c := rfl
@[simp] theorem modRgn_jtag (r : Fin 8) (f : Region → Region) : (modRgn s r f).jtag = s.jtag := rfl
@[simp] theorem modRgn_dtcPs (r : Fin 8) (f : Region → Region) : (modRgn s r f).dtcPs = s.dtcPs := rfl
@[simp] theorem modRgn_ctxs (r : Fin 8) (f : Region → Region) : (modRgn s r f).ctxs = s.ctxs := rfl
@[simp] theorem modRgn_sessions (r : Fin 8) (f : Region → Region) : (modRgn s r f).sessions = s.sessions := rfl
@[simp] theorem modRgn_freeCtr (r : Fin 8) (f : Region → Region) : (modRgn s r f).freeCtr = s.freeCtr := rfl
@[simp] theorem modRgn_lastRead (r : Fin 8) (f : Region → Region) : (modRgn s r f).lastRead = s.lastRead := rfl
@[simp] theorem modRgn_pending (r : Fin 8) (f : Region → Region) : (modRgn s r f).pending = s.pending := rfl

/-! A change of one half. -/

@[simp] theorem modHalf_regs (h : Fin 2) (f : Half → Half) : (modHalf s h f).regs = s.regs := rfl
@[simp] theorem modHalf_shadow (h : Fin 2) (f : Half → Half) : (modHalf s h f).shadow = s.shadow := rfl
@[simp] theorem modHalf_cyc (h : Fin 2) (f : Half → Half) : (modHalf s h f).cyc = s.cyc := rfl
@[simp] theorem modHalf_dtc (h : Fin 2) (f : Half → Half) : (modHalf s h f).dtc = s.dtc := rfl
@[simp] theorem modHalf_blocks (h : Fin 2) (f : Half → Half) : (modHalf s h f).blocks = s.blocks := rfl
@[simp] theorem modHalf_regions (h : Fin 2) (f : Half → Half) : (modHalf s h f).regions = s.regions := rfl
@[simp] theorem modHalf_halves (h : Fin 2) (f : Half → Half) : (modHalf s h f).halves = s.halves.set h (f s.halves[h]) := rfl
@[simp] theorem modHalf_mem (h : Fin 2) (f : Half → Half) : (modHalf s h f).mem = s.mem := rfl
@[simp] theorem modHalf_stk (h : Fin 2) (f : Half → Half) : (modHalf s h f).stk = s.stk := rfl
@[simp] theorem modHalf_hinge (h : Fin 2) (f : Half → Half) : (modHalf s h f).hinge = s.hinge := rfl
@[simp] theorem modHalf_launches (h : Fin 2) (f : Half → Half) : (modHalf s h f).launches = s.launches := rfl
@[simp] theorem modHalf_barriers (h : Fin 2) (f : Half → Half) : (modHalf s h f).barriers = s.barriers := rfl
@[simp] theorem modHalf_flagReqs (h : Fin 2) (f : Half → Half) : (modHalf s h f).flagReqs = s.flagReqs := rfl
@[simp] theorem modHalf_comps (h : Fin 2) (f : Half → Half) : (modHalf s h f).comps = s.comps := rfl
@[simp] theorem modHalf_rings (h : Fin 2) (f : Half → Half) : (modHalf s h f).rings = s.rings := rfl
@[simp] theorem modHalf_net (h : Fin 2) (f : Half → Half) : (modHalf s h f).net = s.net := rfl
@[simp] theorem modHalf_flash (h : Fin 2) (f : Half → Half) : (modHalf s h f).flash = s.flash := rfl
@[simp] theorem modHalf_fuses (h : Fin 2) (f : Half → Half) : (modHalf s h f).fuses = s.fuses := rfl
@[simp] theorem modHalf_krg (h : Fin 2) (f : Half → Half) : (modHalf s h f).krg = s.krg := rfl
@[simp] theorem modHalf_lkp (h : Fin 2) (f : Half → Half) : (modHalf s h f).lkp = s.lkp := rfl
@[simp] theorem modHalf_hlt (h : Fin 2) (f : Half → Half) : (modHalf s h f).hlt = s.hlt := rfl
@[simp] theorem modHalf_power (h : Fin 2) (f : Half → Half) : (modHalf s h f).power = s.power := rfl
@[simp] theorem modHalf_i3c (h : Fin 2) (f : Half → Half) : (modHalf s h f).i3c = s.i3c := rfl
@[simp] theorem modHalf_jtag (h : Fin 2) (f : Half → Half) : (modHalf s h f).jtag = s.jtag := rfl
@[simp] theorem modHalf_dtcPs (h : Fin 2) (f : Half → Half) : (modHalf s h f).dtcPs = s.dtcPs := rfl
@[simp] theorem modHalf_ctxs (h : Fin 2) (f : Half → Half) : (modHalf s h f).ctxs = s.ctxs := rfl
@[simp] theorem modHalf_sessions (h : Fin 2) (f : Half → Half) : (modHalf s h f).sessions = s.sessions := rfl
@[simp] theorem modHalf_freeCtr (h : Fin 2) (f : Half → Half) : (modHalf s h f).freeCtr = s.freeCtr := rfl
@[simp] theorem modHalf_lastRead (h : Fin 2) (f : Half → Half) : (modHalf s h f).lastRead = s.lastRead := rfl
@[simp] theorem modHalf_pending (h : Fin 2) (f : Half → Half) : (modHalf s h f).pending = s.pending := rfl

/-! A change of one stack. -/

@[simp] theorem modStk_regs (i : Fin 24) (f : Stack → Stack) : (modStk s i f).regs = s.regs := rfl
@[simp] theorem modStk_shadow (i : Fin 24) (f : Stack → Stack) : (modStk s i f).shadow = s.shadow := rfl
@[simp] theorem modStk_cyc (i : Fin 24) (f : Stack → Stack) : (modStk s i f).cyc = s.cyc := rfl
@[simp] theorem modStk_dtc (i : Fin 24) (f : Stack → Stack) : (modStk s i f).dtc = s.dtc := rfl
@[simp] theorem modStk_blocks (i : Fin 24) (f : Stack → Stack) : (modStk s i f).blocks = s.blocks := rfl
@[simp] theorem modStk_regions (i : Fin 24) (f : Stack → Stack) : (modStk s i f).regions = s.regions := rfl
@[simp] theorem modStk_halves (i : Fin 24) (f : Stack → Stack) : (modStk s i f).halves = s.halves := rfl
@[simp] theorem modStk_mem (i : Fin 24) (f : Stack → Stack) : (modStk s i f).mem = s.mem := rfl
@[simp] theorem modStk_stk (i : Fin 24) (f : Stack → Stack) : (modStk s i f).stk = s.stk.set i (f s.stk[i]) := rfl
@[simp] theorem modStk_hinge (i : Fin 24) (f : Stack → Stack) : (modStk s i f).hinge = s.hinge := rfl
@[simp] theorem modStk_launches (i : Fin 24) (f : Stack → Stack) : (modStk s i f).launches = s.launches := rfl
@[simp] theorem modStk_barriers (i : Fin 24) (f : Stack → Stack) : (modStk s i f).barriers = s.barriers := rfl
@[simp] theorem modStk_flagReqs (i : Fin 24) (f : Stack → Stack) : (modStk s i f).flagReqs = s.flagReqs := rfl
@[simp] theorem modStk_comps (i : Fin 24) (f : Stack → Stack) : (modStk s i f).comps = s.comps := rfl
@[simp] theorem modStk_rings (i : Fin 24) (f : Stack → Stack) : (modStk s i f).rings = s.rings := rfl
@[simp] theorem modStk_net (i : Fin 24) (f : Stack → Stack) : (modStk s i f).net = s.net := rfl
@[simp] theorem modStk_flash (i : Fin 24) (f : Stack → Stack) : (modStk s i f).flash = s.flash := rfl
@[simp] theorem modStk_fuses (i : Fin 24) (f : Stack → Stack) : (modStk s i f).fuses = s.fuses := rfl
@[simp] theorem modStk_krg (i : Fin 24) (f : Stack → Stack) : (modStk s i f).krg = s.krg := rfl
@[simp] theorem modStk_lkp (i : Fin 24) (f : Stack → Stack) : (modStk s i f).lkp = s.lkp := rfl
@[simp] theorem modStk_hlt (i : Fin 24) (f : Stack → Stack) : (modStk s i f).hlt = s.hlt := rfl
@[simp] theorem modStk_power (i : Fin 24) (f : Stack → Stack) : (modStk s i f).power = s.power := rfl
@[simp] theorem modStk_i3c (i : Fin 24) (f : Stack → Stack) : (modStk s i f).i3c = s.i3c := rfl
@[simp] theorem modStk_jtag (i : Fin 24) (f : Stack → Stack) : (modStk s i f).jtag = s.jtag := rfl
@[simp] theorem modStk_dtcPs (i : Fin 24) (f : Stack → Stack) : (modStk s i f).dtcPs = s.dtcPs := rfl
@[simp] theorem modStk_ctxs (i : Fin 24) (f : Stack → Stack) : (modStk s i f).ctxs = s.ctxs := rfl
@[simp] theorem modStk_sessions (i : Fin 24) (f : Stack → Stack) : (modStk s i f).sessions = s.sessions := rfl
@[simp] theorem modStk_freeCtr (i : Fin 24) (f : Stack → Stack) : (modStk s i f).freeCtr = s.freeCtr := rfl
@[simp] theorem modStk_lastRead (i : Fin 24) (f : Stack → Stack) : (modStk s i f).lastRead = s.lastRead := rfl
@[simp] theorem modStk_pending (i : Fin 24) (f : Stack → Stack) : (modStk s i f).pending = s.pending := rfl

/-! A change of one link. -/

@[simp] theorem modLink_regs (i : Fin 24) (d : LinkDir) (f : Link → Link) : (modLink s i d f).regs = s.regs := rfl
@[simp] theorem modLink_shadow (i : Fin 24) (d : LinkDir) (f : Link → Link) : (modLink s i d f).shadow = s.shadow := rfl
@[simp] theorem modLink_cyc (i : Fin 24) (d : LinkDir) (f : Link → Link) : (modLink s i d f).cyc = s.cyc := rfl
@[simp] theorem modLink_dtc (i : Fin 24) (d : LinkDir) (f : Link → Link) : (modLink s i d f).dtc = s.dtc := rfl
@[simp] theorem modLink_blocks (i : Fin 24) (d : LinkDir) (f : Link → Link) : (modLink s i d f).blocks = s.blocks := rfl
@[simp] theorem modLink_regions (i : Fin 24) (d : LinkDir) (f : Link → Link) : (modLink s i d f).regions = s.regions := rfl
@[simp] theorem modLink_halves (i : Fin 24) (d : LinkDir) (f : Link → Link) : (modLink s i d f).halves = s.halves := rfl
@[simp] theorem modLink_mem (i : Fin 24) (d : LinkDir) (f : Link → Link) : (modLink s i d f).mem = s.mem := rfl
@[simp] theorem modLink_hinge (i : Fin 24) (d : LinkDir) (f : Link → Link) : (modLink s i d f).hinge = s.hinge := rfl
@[simp] theorem modLink_launches (i : Fin 24) (d : LinkDir) (f : Link → Link) : (modLink s i d f).launches = s.launches := rfl
@[simp] theorem modLink_barriers (i : Fin 24) (d : LinkDir) (f : Link → Link) : (modLink s i d f).barriers = s.barriers := rfl
@[simp] theorem modLink_flagReqs (i : Fin 24) (d : LinkDir) (f : Link → Link) : (modLink s i d f).flagReqs = s.flagReqs := rfl
@[simp] theorem modLink_comps (i : Fin 24) (d : LinkDir) (f : Link → Link) : (modLink s i d f).comps = s.comps := rfl
@[simp] theorem modLink_rings (i : Fin 24) (d : LinkDir) (f : Link → Link) : (modLink s i d f).rings = s.rings := rfl
@[simp] theorem modLink_net (i : Fin 24) (d : LinkDir) (f : Link → Link) : (modLink s i d f).net = s.net := rfl
@[simp] theorem modLink_flash (i : Fin 24) (d : LinkDir) (f : Link → Link) : (modLink s i d f).flash = s.flash := rfl
@[simp] theorem modLink_fuses (i : Fin 24) (d : LinkDir) (f : Link → Link) : (modLink s i d f).fuses = s.fuses := rfl
@[simp] theorem modLink_krg (i : Fin 24) (d : LinkDir) (f : Link → Link) : (modLink s i d f).krg = s.krg := rfl
@[simp] theorem modLink_lkp (i : Fin 24) (d : LinkDir) (f : Link → Link) : (modLink s i d f).lkp = s.lkp := rfl
@[simp] theorem modLink_hlt (i : Fin 24) (d : LinkDir) (f : Link → Link) : (modLink s i d f).hlt = s.hlt := rfl
@[simp] theorem modLink_power (i : Fin 24) (d : LinkDir) (f : Link → Link) : (modLink s i d f).power = s.power := rfl
@[simp] theorem modLink_i3c (i : Fin 24) (d : LinkDir) (f : Link → Link) : (modLink s i d f).i3c = s.i3c := rfl
@[simp] theorem modLink_jtag (i : Fin 24) (d : LinkDir) (f : Link → Link) : (modLink s i d f).jtag = s.jtag := rfl
@[simp] theorem modLink_dtcPs (i : Fin 24) (d : LinkDir) (f : Link → Link) : (modLink s i d f).dtcPs = s.dtcPs := rfl
@[simp] theorem modLink_ctxs (i : Fin 24) (d : LinkDir) (f : Link → Link) : (modLink s i d f).ctxs = s.ctxs := rfl
@[simp] theorem modLink_sessions (i : Fin 24) (d : LinkDir) (f : Link → Link) : (modLink s i d f).sessions = s.sessions := rfl
@[simp] theorem modLink_freeCtr (i : Fin 24) (d : LinkDir) (f : Link → Link) : (modLink s i d f).freeCtr = s.freeCtr := rfl
@[simp] theorem modLink_lastRead (i : Fin 24) (d : LinkDir) (f : Link → Link) : (modLink s i d f).lastRead = s.lastRead := rfl
@[simp] theorem modLink_pending (i : Fin 24) (d : LinkDir) (f : Link → Link) : (modLink s i d f).pending = s.pending := rfl

/-! KRG_STAT.RESULT. -/

@[simp] theorem setResult_shadow (v : Nat) : (setResult s v).shadow = s.shadow := rfl
@[simp] theorem setResult_cyc (v : Nat) : (setResult s v).cyc = s.cyc := rfl
@[simp] theorem setResult_dtc (v : Nat) : (setResult s v).dtc = s.dtc := rfl
@[simp] theorem setResult_blocks (v : Nat) : (setResult s v).blocks = s.blocks := rfl
@[simp] theorem setResult_regions (v : Nat) : (setResult s v).regions = s.regions := rfl
@[simp] theorem setResult_halves (v : Nat) : (setResult s v).halves = s.halves := rfl
@[simp] theorem setResult_mem (v : Nat) : (setResult s v).mem = s.mem := rfl
@[simp] theorem setResult_stk (v : Nat) : (setResult s v).stk = s.stk := rfl
@[simp] theorem setResult_hinge (v : Nat) : (setResult s v).hinge = s.hinge := rfl
@[simp] theorem setResult_launches (v : Nat) : (setResult s v).launches = s.launches := rfl
@[simp] theorem setResult_barriers (v : Nat) : (setResult s v).barriers = s.barriers := rfl
@[simp] theorem setResult_flagReqs (v : Nat) : (setResult s v).flagReqs = s.flagReqs := rfl
@[simp] theorem setResult_comps (v : Nat) : (setResult s v).comps = s.comps := rfl
@[simp] theorem setResult_rings (v : Nat) : (setResult s v).rings = s.rings := rfl
@[simp] theorem setResult_net (v : Nat) : (setResult s v).net = s.net := rfl
@[simp] theorem setResult_flash (v : Nat) : (setResult s v).flash = s.flash := rfl
@[simp] theorem setResult_fuses (v : Nat) : (setResult s v).fuses = s.fuses := rfl
@[simp] theorem setResult_krg (v : Nat) : (setResult s v).krg = s.krg := rfl
@[simp] theorem setResult_lkp (v : Nat) : (setResult s v).lkp = s.lkp := rfl
@[simp] theorem setResult_hlt (v : Nat) : (setResult s v).hlt = s.hlt := rfl
@[simp] theorem setResult_power (v : Nat) : (setResult s v).power = s.power := rfl
@[simp] theorem setResult_i3c (v : Nat) : (setResult s v).i3c = s.i3c := rfl
@[simp] theorem setResult_jtag (v : Nat) : (setResult s v).jtag = s.jtag := rfl
@[simp] theorem setResult_dtcPs (v : Nat) : (setResult s v).dtcPs = s.dtcPs := rfl
@[simp] theorem setResult_ctxs (v : Nat) : (setResult s v).ctxs = s.ctxs := rfl
@[simp] theorem setResult_sessions (v : Nat) : (setResult s v).sessions = s.sessions := rfl
@[simp] theorem setResult_freeCtr (v : Nat) : (setResult s v).freeCtr = s.freeCtr := rfl
@[simp] theorem setResult_lastRead (v : Nat) : (setResult s v).lastRead = s.lastRead := rfl
@[simp] theorem setResult_pending (v : Nat) : (setResult s v).pending = s.pending := rfl

/-! LKP_STAT.RESULT. -/

@[simp] theorem setLkpResult_shadow (v : Nat) : (setLkpResult s v).shadow = s.shadow := rfl
@[simp] theorem setLkpResult_cyc (v : Nat) : (setLkpResult s v).cyc = s.cyc := rfl
@[simp] theorem setLkpResult_dtc (v : Nat) : (setLkpResult s v).dtc = s.dtc := rfl
@[simp] theorem setLkpResult_blocks (v : Nat) : (setLkpResult s v).blocks = s.blocks := rfl
@[simp] theorem setLkpResult_regions (v : Nat) : (setLkpResult s v).regions = s.regions := rfl
@[simp] theorem setLkpResult_halves (v : Nat) : (setLkpResult s v).halves = s.halves := rfl
@[simp] theorem setLkpResult_mem (v : Nat) : (setLkpResult s v).mem = s.mem := rfl
@[simp] theorem setLkpResult_stk (v : Nat) : (setLkpResult s v).stk = s.stk := rfl
@[simp] theorem setLkpResult_hinge (v : Nat) : (setLkpResult s v).hinge = s.hinge := rfl
@[simp] theorem setLkpResult_launches (v : Nat) : (setLkpResult s v).launches = s.launches := rfl
@[simp] theorem setLkpResult_barriers (v : Nat) : (setLkpResult s v).barriers = s.barriers := rfl
@[simp] theorem setLkpResult_flagReqs (v : Nat) : (setLkpResult s v).flagReqs = s.flagReqs := rfl
@[simp] theorem setLkpResult_comps (v : Nat) : (setLkpResult s v).comps = s.comps := rfl
@[simp] theorem setLkpResult_rings (v : Nat) : (setLkpResult s v).rings = s.rings := rfl
@[simp] theorem setLkpResult_net (v : Nat) : (setLkpResult s v).net = s.net := rfl
@[simp] theorem setLkpResult_flash (v : Nat) : (setLkpResult s v).flash = s.flash := rfl
@[simp] theorem setLkpResult_fuses (v : Nat) : (setLkpResult s v).fuses = s.fuses := rfl
@[simp] theorem setLkpResult_krg (v : Nat) : (setLkpResult s v).krg = s.krg := rfl
@[simp] theorem setLkpResult_lkp (v : Nat) : (setLkpResult s v).lkp = s.lkp := rfl
@[simp] theorem setLkpResult_hlt (v : Nat) : (setLkpResult s v).hlt = s.hlt := rfl
@[simp] theorem setLkpResult_power (v : Nat) : (setLkpResult s v).power = s.power := rfl
@[simp] theorem setLkpResult_i3c (v : Nat) : (setLkpResult s v).i3c = s.i3c := rfl
@[simp] theorem setLkpResult_jtag (v : Nat) : (setLkpResult s v).jtag = s.jtag := rfl
@[simp] theorem setLkpResult_dtcPs (v : Nat) : (setLkpResult s v).dtcPs = s.dtcPs := rfl
@[simp] theorem setLkpResult_ctxs (v : Nat) : (setLkpResult s v).ctxs = s.ctxs := rfl
@[simp] theorem setLkpResult_sessions (v : Nat) : (setLkpResult s v).sessions = s.sessions := rfl
@[simp] theorem setLkpResult_freeCtr (v : Nat) : (setLkpResult s v).freeCtr = s.freeCtr := rfl
@[simp] theorem setLkpResult_lastRead (v : Nat) : (setLkpResult s v).lastRead = s.lastRead := rfl
@[simp] theorem setLkpResult_pending (v : Nat) : (setLkpResult s v).pending = s.pending := rfl

/-! LKP_STAT.OVERLAP. -/

@[simp] theorem overlap_shadow  : (overlap s ).shadow = s.shadow := rfl
@[simp] theorem overlap_cyc  : (overlap s ).cyc = s.cyc := rfl
@[simp] theorem overlap_dtc  : (overlap s ).dtc = s.dtc := rfl
@[simp] theorem overlap_blocks  : (overlap s ).blocks = s.blocks := rfl
@[simp] theorem overlap_regions  : (overlap s ).regions = s.regions := rfl
@[simp] theorem overlap_halves  : (overlap s ).halves = s.halves := rfl
@[simp] theorem overlap_mem  : (overlap s ).mem = s.mem := rfl
@[simp] theorem overlap_stk  : (overlap s ).stk = s.stk := rfl
@[simp] theorem overlap_hinge  : (overlap s ).hinge = s.hinge := rfl
@[simp] theorem overlap_launches  : (overlap s ).launches = s.launches := rfl
@[simp] theorem overlap_barriers  : (overlap s ).barriers = s.barriers := rfl
@[simp] theorem overlap_flagReqs  : (overlap s ).flagReqs = s.flagReqs := rfl
@[simp] theorem overlap_comps  : (overlap s ).comps = s.comps := rfl
@[simp] theorem overlap_rings  : (overlap s ).rings = s.rings := rfl
@[simp] theorem overlap_net  : (overlap s ).net = s.net := rfl
@[simp] theorem overlap_flash  : (overlap s ).flash = s.flash := rfl
@[simp] theorem overlap_fuses  : (overlap s ).fuses = s.fuses := rfl
@[simp] theorem overlap_krg  : (overlap s ).krg = s.krg := rfl
@[simp] theorem overlap_lkp  : (overlap s ).lkp = s.lkp := rfl
@[simp] theorem overlap_hlt  : (overlap s ).hlt = s.hlt := rfl
@[simp] theorem overlap_power  : (overlap s ).power = s.power := rfl
@[simp] theorem overlap_i3c  : (overlap s ).i3c = s.i3c := rfl
@[simp] theorem overlap_jtag  : (overlap s ).jtag = s.jtag := rfl
@[simp] theorem overlap_dtcPs  : (overlap s ).dtcPs = s.dtcPs := rfl
@[simp] theorem overlap_ctxs  : (overlap s ).ctxs = s.ctxs := rfl
@[simp] theorem overlap_sessions  : (overlap s ).sessions = s.sessions := rfl
@[simp] theorem overlap_freeCtr  : (overlap s ).freeCtr = s.freeCtr := rfl
@[simp] theorem overlap_lastRead  : (overlap s ).lastRead = s.lastRead := rfl
@[simp] theorem overlap_pending  : (overlap s ).pending = s.pending := rfl

/-! A write of one register. -/

@[simp] theorem wreg_regs (r : Reg) (i : Nat) (v : Word) : (wreg s r i v).regs = sset (fun _ => regReset r) s.regs (regAddr r i) v := rfl
@[simp] theorem wreg_shadow (r : Reg) (i : Nat) (v : Word) : (wreg s r i v).shadow = s.shadow := rfl
@[simp] theorem wreg_cyc (r : Reg) (i : Nat) (v : Word) : (wreg s r i v).cyc = s.cyc := rfl
@[simp] theorem wreg_dtc (r : Reg) (i : Nat) (v : Word) : (wreg s r i v).dtc = s.dtc := rfl
@[simp] theorem wreg_blocks (r : Reg) (i : Nat) (v : Word) : (wreg s r i v).blocks = s.blocks := rfl
@[simp] theorem wreg_regions (r : Reg) (i : Nat) (v : Word) : (wreg s r i v).regions = s.regions := rfl
@[simp] theorem wreg_halves (r : Reg) (i : Nat) (v : Word) : (wreg s r i v).halves = s.halves := rfl
@[simp] theorem wreg_mem (r : Reg) (i : Nat) (v : Word) : (wreg s r i v).mem = s.mem := rfl
@[simp] theorem wreg_stk (r : Reg) (i : Nat) (v : Word) : (wreg s r i v).stk = s.stk := rfl
@[simp] theorem wreg_hinge (r : Reg) (i : Nat) (v : Word) : (wreg s r i v).hinge = s.hinge := rfl
@[simp] theorem wreg_launches (r : Reg) (i : Nat) (v : Word) : (wreg s r i v).launches = s.launches := rfl
@[simp] theorem wreg_barriers (r : Reg) (i : Nat) (v : Word) : (wreg s r i v).barriers = s.barriers := rfl
@[simp] theorem wreg_flagReqs (r : Reg) (i : Nat) (v : Word) : (wreg s r i v).flagReqs = s.flagReqs := rfl
@[simp] theorem wreg_comps (r : Reg) (i : Nat) (v : Word) : (wreg s r i v).comps = s.comps := rfl
@[simp] theorem wreg_rings (r : Reg) (i : Nat) (v : Word) : (wreg s r i v).rings = s.rings := rfl
@[simp] theorem wreg_net (r : Reg) (i : Nat) (v : Word) : (wreg s r i v).net = s.net := rfl
@[simp] theorem wreg_flash (r : Reg) (i : Nat) (v : Word) : (wreg s r i v).flash = s.flash := rfl
@[simp] theorem wreg_fuses (r : Reg) (i : Nat) (v : Word) : (wreg s r i v).fuses = s.fuses := rfl
@[simp] theorem wreg_krg (r : Reg) (i : Nat) (v : Word) : (wreg s r i v).krg = s.krg := rfl
@[simp] theorem wreg_lkp (r : Reg) (i : Nat) (v : Word) : (wreg s r i v).lkp = s.lkp := rfl
@[simp] theorem wreg_hlt (r : Reg) (i : Nat) (v : Word) : (wreg s r i v).hlt = s.hlt := rfl
@[simp] theorem wreg_power (r : Reg) (i : Nat) (v : Word) : (wreg s r i v).power = s.power := rfl
@[simp] theorem wreg_i3c (r : Reg) (i : Nat) (v : Word) : (wreg s r i v).i3c = s.i3c := rfl
@[simp] theorem wreg_jtag (r : Reg) (i : Nat) (v : Word) : (wreg s r i v).jtag = s.jtag := rfl
@[simp] theorem wreg_dtcPs (r : Reg) (i : Nat) (v : Word) : (wreg s r i v).dtcPs = s.dtcPs := rfl
@[simp] theorem wreg_ctxs (r : Reg) (i : Nat) (v : Word) : (wreg s r i v).ctxs = s.ctxs := rfl
@[simp] theorem wreg_sessions (r : Reg) (i : Nat) (v : Word) : (wreg s r i v).sessions = s.sessions := rfl
@[simp] theorem wreg_freeCtr (r : Reg) (i : Nat) (v : Word) : (wreg s r i v).freeCtr = s.freeCtr := rfl
@[simp] theorem wreg_lastRead (r : Reg) (i : Nat) (v : Word) : (wreg s r i v).lastRead = s.lastRead := rfl
@[simp] theorem wreg_pending (r : Reg) (i : Nat) (v : Word) : (wreg s r i v).pending = s.pending := rfl

/-! A write of one shadow copy. -/

@[simp] theorem wshadow_regs (r : Reg) (i : Nat) (v : Word) : (wshadow s r i v).regs = s.regs := rfl
@[simp] theorem wshadow_shadow (r : Reg) (i : Nat) (v : Word) : (wshadow s r i v).shadow = sset (fun _ => regReset r) s.shadow (regAddr r i) v := rfl
@[simp] theorem wshadow_cyc (r : Reg) (i : Nat) (v : Word) : (wshadow s r i v).cyc = s.cyc := rfl
@[simp] theorem wshadow_dtc (r : Reg) (i : Nat) (v : Word) : (wshadow s r i v).dtc = s.dtc := rfl
@[simp] theorem wshadow_blocks (r : Reg) (i : Nat) (v : Word) : (wshadow s r i v).blocks = s.blocks := rfl
@[simp] theorem wshadow_regions (r : Reg) (i : Nat) (v : Word) : (wshadow s r i v).regions = s.regions := rfl
@[simp] theorem wshadow_halves (r : Reg) (i : Nat) (v : Word) : (wshadow s r i v).halves = s.halves := rfl
@[simp] theorem wshadow_mem (r : Reg) (i : Nat) (v : Word) : (wshadow s r i v).mem = s.mem := rfl
@[simp] theorem wshadow_stk (r : Reg) (i : Nat) (v : Word) : (wshadow s r i v).stk = s.stk := rfl
@[simp] theorem wshadow_hinge (r : Reg) (i : Nat) (v : Word) : (wshadow s r i v).hinge = s.hinge := rfl
@[simp] theorem wshadow_launches (r : Reg) (i : Nat) (v : Word) : (wshadow s r i v).launches = s.launches := rfl
@[simp] theorem wshadow_barriers (r : Reg) (i : Nat) (v : Word) : (wshadow s r i v).barriers = s.barriers := rfl
@[simp] theorem wshadow_flagReqs (r : Reg) (i : Nat) (v : Word) : (wshadow s r i v).flagReqs = s.flagReqs := rfl
@[simp] theorem wshadow_comps (r : Reg) (i : Nat) (v : Word) : (wshadow s r i v).comps = s.comps := rfl
@[simp] theorem wshadow_rings (r : Reg) (i : Nat) (v : Word) : (wshadow s r i v).rings = s.rings := rfl
@[simp] theorem wshadow_net (r : Reg) (i : Nat) (v : Word) : (wshadow s r i v).net = s.net := rfl
@[simp] theorem wshadow_flash (r : Reg) (i : Nat) (v : Word) : (wshadow s r i v).flash = s.flash := rfl
@[simp] theorem wshadow_fuses (r : Reg) (i : Nat) (v : Word) : (wshadow s r i v).fuses = s.fuses := rfl
@[simp] theorem wshadow_krg (r : Reg) (i : Nat) (v : Word) : (wshadow s r i v).krg = s.krg := rfl
@[simp] theorem wshadow_lkp (r : Reg) (i : Nat) (v : Word) : (wshadow s r i v).lkp = s.lkp := rfl
@[simp] theorem wshadow_hlt (r : Reg) (i : Nat) (v : Word) : (wshadow s r i v).hlt = s.hlt := rfl
@[simp] theorem wshadow_power (r : Reg) (i : Nat) (v : Word) : (wshadow s r i v).power = s.power := rfl
@[simp] theorem wshadow_i3c (r : Reg) (i : Nat) (v : Word) : (wshadow s r i v).i3c = s.i3c := rfl
@[simp] theorem wshadow_jtag (r : Reg) (i : Nat) (v : Word) : (wshadow s r i v).jtag = s.jtag := rfl
@[simp] theorem wshadow_dtcPs (r : Reg) (i : Nat) (v : Word) : (wshadow s r i v).dtcPs = s.dtcPs := rfl
@[simp] theorem wshadow_ctxs (r : Reg) (i : Nat) (v : Word) : (wshadow s r i v).ctxs = s.ctxs := rfl
@[simp] theorem wshadow_sessions (r : Reg) (i : Nat) (v : Word) : (wshadow s r i v).sessions = s.sessions := rfl
@[simp] theorem wshadow_freeCtr (r : Reg) (i : Nat) (v : Word) : (wshadow s r i v).freeCtr = s.freeCtr := rfl
@[simp] theorem wshadow_lastRead (r : Reg) (i : Nat) (v : Word) : (wshadow s r i v).lastRead = s.lastRead := rfl
@[simp] theorem wshadow_pending (r : Reg) (i : Nat) (v : Word) : (wshadow s r i v).pending = s.pending := rfl

/-! A write of one field. -/

@[simp] theorem wfld_regs (r : Reg) (i hi lo v : Nat) : (wfld s r i hi lo v).regs = (wreg s r i (setF (rreg s r i) hi lo v)).regs := rfl
@[simp] theorem wfld_shadow (r : Reg) (i hi lo v : Nat) : (wfld s r i hi lo v).shadow = s.shadow := rfl
@[simp] theorem wfld_cyc (r : Reg) (i hi lo v : Nat) : (wfld s r i hi lo v).cyc = s.cyc := rfl
@[simp] theorem wfld_dtc (r : Reg) (i hi lo v : Nat) : (wfld s r i hi lo v).dtc = s.dtc := rfl
@[simp] theorem wfld_blocks (r : Reg) (i hi lo v : Nat) : (wfld s r i hi lo v).blocks = s.blocks := rfl
@[simp] theorem wfld_regions (r : Reg) (i hi lo v : Nat) : (wfld s r i hi lo v).regions = s.regions := rfl
@[simp] theorem wfld_halves (r : Reg) (i hi lo v : Nat) : (wfld s r i hi lo v).halves = s.halves := rfl
@[simp] theorem wfld_mem (r : Reg) (i hi lo v : Nat) : (wfld s r i hi lo v).mem = s.mem := rfl
@[simp] theorem wfld_stk (r : Reg) (i hi lo v : Nat) : (wfld s r i hi lo v).stk = s.stk := rfl
@[simp] theorem wfld_hinge (r : Reg) (i hi lo v : Nat) : (wfld s r i hi lo v).hinge = s.hinge := rfl
@[simp] theorem wfld_launches (r : Reg) (i hi lo v : Nat) : (wfld s r i hi lo v).launches = s.launches := rfl
@[simp] theorem wfld_barriers (r : Reg) (i hi lo v : Nat) : (wfld s r i hi lo v).barriers = s.barriers := rfl
@[simp] theorem wfld_flagReqs (r : Reg) (i hi lo v : Nat) : (wfld s r i hi lo v).flagReqs = s.flagReqs := rfl
@[simp] theorem wfld_comps (r : Reg) (i hi lo v : Nat) : (wfld s r i hi lo v).comps = s.comps := rfl
@[simp] theorem wfld_rings (r : Reg) (i hi lo v : Nat) : (wfld s r i hi lo v).rings = s.rings := rfl
@[simp] theorem wfld_net (r : Reg) (i hi lo v : Nat) : (wfld s r i hi lo v).net = s.net := rfl
@[simp] theorem wfld_flash (r : Reg) (i hi lo v : Nat) : (wfld s r i hi lo v).flash = s.flash := rfl
@[simp] theorem wfld_fuses (r : Reg) (i hi lo v : Nat) : (wfld s r i hi lo v).fuses = s.fuses := rfl
@[simp] theorem wfld_krg (r : Reg) (i hi lo v : Nat) : (wfld s r i hi lo v).krg = s.krg := rfl
@[simp] theorem wfld_lkp (r : Reg) (i hi lo v : Nat) : (wfld s r i hi lo v).lkp = s.lkp := rfl
@[simp] theorem wfld_hlt (r : Reg) (i hi lo v : Nat) : (wfld s r i hi lo v).hlt = s.hlt := rfl
@[simp] theorem wfld_power (r : Reg) (i hi lo v : Nat) : (wfld s r i hi lo v).power = s.power := rfl
@[simp] theorem wfld_i3c (r : Reg) (i hi lo v : Nat) : (wfld s r i hi lo v).i3c = s.i3c := rfl
@[simp] theorem wfld_jtag (r : Reg) (i hi lo v : Nat) : (wfld s r i hi lo v).jtag = s.jtag := rfl
@[simp] theorem wfld_dtcPs (r : Reg) (i hi lo v : Nat) : (wfld s r i hi lo v).dtcPs = s.dtcPs := rfl
@[simp] theorem wfld_ctxs (r : Reg) (i hi lo v : Nat) : (wfld s r i hi lo v).ctxs = s.ctxs := rfl
@[simp] theorem wfld_sessions (r : Reg) (i hi lo v : Nat) : (wfld s r i hi lo v).sessions = s.sessions := rfl
@[simp] theorem wfld_freeCtr (r : Reg) (i hi lo v : Nat) : (wfld s r i hi lo v).freeCtr = s.freeCtr := rfl
@[simp] theorem wfld_lastRead (r : Reg) (i hi lo v : Nat) : (wfld s r i hi lo v).lastRead = s.lastRead := rfl
@[simp] theorem wfld_pending (r : Reg) (i hi lo v : Nat) : (wfld s r i hi lo v).pending = s.pending := rfl

/-! A count in one field. -/

@[simp] theorem cfld_regs (r : Reg) (i hi lo n : Nat) : (cfld s r i hi lo n).regs = (wreg s r i (satF (rreg s r i) hi lo n)).regs := rfl
@[simp] theorem cfld_shadow (r : Reg) (i hi lo n : Nat) : (cfld s r i hi lo n).shadow = s.shadow := rfl
@[simp] theorem cfld_cyc (r : Reg) (i hi lo n : Nat) : (cfld s r i hi lo n).cyc = s.cyc := rfl
@[simp] theorem cfld_dtc (r : Reg) (i hi lo n : Nat) : (cfld s r i hi lo n).dtc = s.dtc := rfl
@[simp] theorem cfld_blocks (r : Reg) (i hi lo n : Nat) : (cfld s r i hi lo n).blocks = s.blocks := rfl
@[simp] theorem cfld_regions (r : Reg) (i hi lo n : Nat) : (cfld s r i hi lo n).regions = s.regions := rfl
@[simp] theorem cfld_halves (r : Reg) (i hi lo n : Nat) : (cfld s r i hi lo n).halves = s.halves := rfl
@[simp] theorem cfld_mem (r : Reg) (i hi lo n : Nat) : (cfld s r i hi lo n).mem = s.mem := rfl
@[simp] theorem cfld_stk (r : Reg) (i hi lo n : Nat) : (cfld s r i hi lo n).stk = s.stk := rfl
@[simp] theorem cfld_hinge (r : Reg) (i hi lo n : Nat) : (cfld s r i hi lo n).hinge = s.hinge := rfl
@[simp] theorem cfld_launches (r : Reg) (i hi lo n : Nat) : (cfld s r i hi lo n).launches = s.launches := rfl
@[simp] theorem cfld_barriers (r : Reg) (i hi lo n : Nat) : (cfld s r i hi lo n).barriers = s.barriers := rfl
@[simp] theorem cfld_flagReqs (r : Reg) (i hi lo n : Nat) : (cfld s r i hi lo n).flagReqs = s.flagReqs := rfl
@[simp] theorem cfld_comps (r : Reg) (i hi lo n : Nat) : (cfld s r i hi lo n).comps = s.comps := rfl
@[simp] theorem cfld_rings (r : Reg) (i hi lo n : Nat) : (cfld s r i hi lo n).rings = s.rings := rfl
@[simp] theorem cfld_net (r : Reg) (i hi lo n : Nat) : (cfld s r i hi lo n).net = s.net := rfl
@[simp] theorem cfld_flash (r : Reg) (i hi lo n : Nat) : (cfld s r i hi lo n).flash = s.flash := rfl
@[simp] theorem cfld_fuses (r : Reg) (i hi lo n : Nat) : (cfld s r i hi lo n).fuses = s.fuses := rfl
@[simp] theorem cfld_krg (r : Reg) (i hi lo n : Nat) : (cfld s r i hi lo n).krg = s.krg := rfl
@[simp] theorem cfld_lkp (r : Reg) (i hi lo n : Nat) : (cfld s r i hi lo n).lkp = s.lkp := rfl
@[simp] theorem cfld_hlt (r : Reg) (i hi lo n : Nat) : (cfld s r i hi lo n).hlt = s.hlt := rfl
@[simp] theorem cfld_power (r : Reg) (i hi lo n : Nat) : (cfld s r i hi lo n).power = s.power := rfl
@[simp] theorem cfld_i3c (r : Reg) (i hi lo n : Nat) : (cfld s r i hi lo n).i3c = s.i3c := rfl
@[simp] theorem cfld_jtag (r : Reg) (i hi lo n : Nat) : (cfld s r i hi lo n).jtag = s.jtag := rfl
@[simp] theorem cfld_dtcPs (r : Reg) (i hi lo n : Nat) : (cfld s r i hi lo n).dtcPs = s.dtcPs := rfl
@[simp] theorem cfld_ctxs (r : Reg) (i hi lo n : Nat) : (cfld s r i hi lo n).ctxs = s.ctxs := rfl
@[simp] theorem cfld_sessions (r : Reg) (i hi lo n : Nat) : (cfld s r i hi lo n).sessions = s.sessions := rfl
@[simp] theorem cfld_freeCtr (r : Reg) (i hi lo n : Nat) : (cfld s r i hi lo n).freeCtr = s.freeCtr := rfl
@[simp] theorem cfld_lastRead (r : Reg) (i hi lo n : Nat) : (cfld s r i hi lo n).lastRead = s.lastRead := rfl
@[simp] theorem cfld_pending (r : Reg) (i hi lo n : Nat) : (cfld s r i hi lo n).pending = s.pending := rfl

/-! A flag of HLT_EVT. -/

@[simp] theorem setEvt_regs (bit : Nat) : (setEvt s bit).regs = (wfld s .hltEvt 0 bit bit 1).regs := rfl
@[simp] theorem setEvt_shadow (bit : Nat) : (setEvt s bit).shadow = s.shadow := rfl
@[simp] theorem setEvt_cyc (bit : Nat) : (setEvt s bit).cyc = s.cyc := rfl
@[simp] theorem setEvt_dtc (bit : Nat) : (setEvt s bit).dtc = s.dtc := rfl
@[simp] theorem setEvt_blocks (bit : Nat) : (setEvt s bit).blocks = s.blocks := rfl
@[simp] theorem setEvt_regions (bit : Nat) : (setEvt s bit).regions = s.regions := rfl
@[simp] theorem setEvt_halves (bit : Nat) : (setEvt s bit).halves = s.halves := rfl
@[simp] theorem setEvt_mem (bit : Nat) : (setEvt s bit).mem = s.mem := rfl
@[simp] theorem setEvt_stk (bit : Nat) : (setEvt s bit).stk = s.stk := rfl
@[simp] theorem setEvt_hinge (bit : Nat) : (setEvt s bit).hinge = s.hinge := rfl
@[simp] theorem setEvt_launches (bit : Nat) : (setEvt s bit).launches = s.launches := rfl
@[simp] theorem setEvt_barriers (bit : Nat) : (setEvt s bit).barriers = s.barriers := rfl
@[simp] theorem setEvt_flagReqs (bit : Nat) : (setEvt s bit).flagReqs = s.flagReqs := rfl
@[simp] theorem setEvt_comps (bit : Nat) : (setEvt s bit).comps = s.comps := rfl
@[simp] theorem setEvt_rings (bit : Nat) : (setEvt s bit).rings = s.rings := rfl
@[simp] theorem setEvt_net (bit : Nat) : (setEvt s bit).net = s.net := rfl
@[simp] theorem setEvt_flash (bit : Nat) : (setEvt s bit).flash = s.flash := rfl
@[simp] theorem setEvt_fuses (bit : Nat) : (setEvt s bit).fuses = s.fuses := rfl
@[simp] theorem setEvt_krg (bit : Nat) : (setEvt s bit).krg = s.krg := rfl
@[simp] theorem setEvt_lkp (bit : Nat) : (setEvt s bit).lkp = s.lkp := rfl
@[simp] theorem setEvt_hlt (bit : Nat) : (setEvt s bit).hlt = s.hlt := rfl
@[simp] theorem setEvt_power (bit : Nat) : (setEvt s bit).power = s.power := rfl
@[simp] theorem setEvt_i3c (bit : Nat) : (setEvt s bit).i3c = s.i3c := rfl
@[simp] theorem setEvt_jtag (bit : Nat) : (setEvt s bit).jtag = s.jtag := rfl
@[simp] theorem setEvt_dtcPs (bit : Nat) : (setEvt s bit).dtcPs = s.dtcPs := rfl
@[simp] theorem setEvt_ctxs (bit : Nat) : (setEvt s bit).ctxs = s.ctxs := rfl
@[simp] theorem setEvt_sessions (bit : Nat) : (setEvt s bit).sessions = s.sessions := rfl
@[simp] theorem setEvt_freeCtr (bit : Nat) : (setEvt s bit).freeCtr = s.freeCtr := rfl
@[simp] theorem setEvt_lastRead (bit : Nat) : (setEvt s bit).lastRead = s.lastRead := rfl
@[simp] theorem setEvt_pending (bit : Nat) : (setEvt s bit).pending = s.pending := rfl

/-! Bytes accepted into memory. -/

@[simp] theorem memPut_regs (a : Nat) (bs : List Byte) : (memPut s a bs).regs = s.regs := rfl
@[simp] theorem memPut_shadow (a : Nat) (bs : List Byte) : (memPut s a bs).shadow = s.shadow := rfl
@[simp] theorem memPut_cyc (a : Nat) (bs : List Byte) : (memPut s a bs).cyc = s.cyc := rfl
@[simp] theorem memPut_dtc (a : Nat) (bs : List Byte) : (memPut s a bs).dtc = s.dtc := rfl
@[simp] theorem memPut_blocks (a : Nat) (bs : List Byte) : (memPut s a bs).blocks = s.blocks := rfl
@[simp] theorem memPut_regions (a : Nat) (bs : List Byte) : (memPut s a bs).regions = s.regions := rfl
@[simp] theorem memPut_halves (a : Nat) (bs : List Byte) : (memPut s a bs).halves = s.halves := rfl
@[simp] theorem memPut_stk (a : Nat) (bs : List Byte) : (memPut s a bs).stk = s.stk := rfl
@[simp] theorem memPut_hinge (a : Nat) (bs : List Byte) : (memPut s a bs).hinge = s.hinge := rfl
@[simp] theorem memPut_launches (a : Nat) (bs : List Byte) : (memPut s a bs).launches = s.launches := rfl
@[simp] theorem memPut_barriers (a : Nat) (bs : List Byte) : (memPut s a bs).barriers = s.barriers := rfl
@[simp] theorem memPut_flagReqs (a : Nat) (bs : List Byte) : (memPut s a bs).flagReqs = s.flagReqs := rfl
@[simp] theorem memPut_comps (a : Nat) (bs : List Byte) : (memPut s a bs).comps = s.comps := rfl
@[simp] theorem memPut_rings (a : Nat) (bs : List Byte) : (memPut s a bs).rings = s.rings := rfl
@[simp] theorem memPut_net (a : Nat) (bs : List Byte) : (memPut s a bs).net = s.net := rfl
@[simp] theorem memPut_flash (a : Nat) (bs : List Byte) : (memPut s a bs).flash = s.flash := rfl
@[simp] theorem memPut_fuses (a : Nat) (bs : List Byte) : (memPut s a bs).fuses = s.fuses := rfl
@[simp] theorem memPut_krg (a : Nat) (bs : List Byte) : (memPut s a bs).krg = s.krg := rfl
@[simp] theorem memPut_lkp (a : Nat) (bs : List Byte) : (memPut s a bs).lkp = s.lkp := rfl
@[simp] theorem memPut_hlt (a : Nat) (bs : List Byte) : (memPut s a bs).hlt = s.hlt := rfl
@[simp] theorem memPut_power (a : Nat) (bs : List Byte) : (memPut s a bs).power = s.power := rfl
@[simp] theorem memPut_i3c (a : Nat) (bs : List Byte) : (memPut s a bs).i3c = s.i3c := rfl
@[simp] theorem memPut_jtag (a : Nat) (bs : List Byte) : (memPut s a bs).jtag = s.jtag := rfl
@[simp] theorem memPut_dtcPs (a : Nat) (bs : List Byte) : (memPut s a bs).dtcPs = s.dtcPs := rfl
@[simp] theorem memPut_ctxs (a : Nat) (bs : List Byte) : (memPut s a bs).ctxs = s.ctxs := rfl
@[simp] theorem memPut_sessions (a : Nat) (bs : List Byte) : (memPut s a bs).sessions = s.sessions := rfl
@[simp] theorem memPut_freeCtr (a : Nat) (bs : List Byte) : (memPut s a bs).freeCtr = s.freeCtr := rfl
@[simp] theorem memPut_lastRead (a : Nat) (bs : List Byte) : (memPut s a bs).lastRead = s.lastRead := rfl
@[simp] theorem memPut_pending (a : Nat) (bs : List Byte) : (memPut s a bs).pending = s.pending := rfl

/-! Stores issued. -/

@[simp] theorem issue_regs (u : WaitUnit) (lid : BitVec 32) (a : Nat) (bs : List (Byte × Byte)) (idx : Nat) : (issue s u lid a bs idx).regs = s.regs := rfl
@[simp] theorem issue_shadow (u : WaitUnit) (lid : BitVec 32) (a : Nat) (bs : List (Byte × Byte)) (idx : Nat) : (issue s u lid a bs idx).shadow = s.shadow := rfl
@[simp] theorem issue_cyc (u : WaitUnit) (lid : BitVec 32) (a : Nat) (bs : List (Byte × Byte)) (idx : Nat) : (issue s u lid a bs idx).cyc = s.cyc := rfl
@[simp] theorem issue_dtc (u : WaitUnit) (lid : BitVec 32) (a : Nat) (bs : List (Byte × Byte)) (idx : Nat) : (issue s u lid a bs idx).dtc = s.dtc := rfl
@[simp] theorem issue_blocks (u : WaitUnit) (lid : BitVec 32) (a : Nat) (bs : List (Byte × Byte)) (idx : Nat) : (issue s u lid a bs idx).blocks = s.blocks := rfl
@[simp] theorem issue_regions (u : WaitUnit) (lid : BitVec 32) (a : Nat) (bs : List (Byte × Byte)) (idx : Nat) : (issue s u lid a bs idx).regions = s.regions := rfl
@[simp] theorem issue_halves (u : WaitUnit) (lid : BitVec 32) (a : Nat) (bs : List (Byte × Byte)) (idx : Nat) : (issue s u lid a bs idx).halves = s.halves := rfl
@[simp] theorem issue_stk (u : WaitUnit) (lid : BitVec 32) (a : Nat) (bs : List (Byte × Byte)) (idx : Nat) : (issue s u lid a bs idx).stk = s.stk := rfl
@[simp] theorem issue_hinge (u : WaitUnit) (lid : BitVec 32) (a : Nat) (bs : List (Byte × Byte)) (idx : Nat) : (issue s u lid a bs idx).hinge = s.hinge := rfl
@[simp] theorem issue_launches (u : WaitUnit) (lid : BitVec 32) (a : Nat) (bs : List (Byte × Byte)) (idx : Nat) : (issue s u lid a bs idx).launches = s.launches := rfl
@[simp] theorem issue_barriers (u : WaitUnit) (lid : BitVec 32) (a : Nat) (bs : List (Byte × Byte)) (idx : Nat) : (issue s u lid a bs idx).barriers = s.barriers := rfl
@[simp] theorem issue_flagReqs (u : WaitUnit) (lid : BitVec 32) (a : Nat) (bs : List (Byte × Byte)) (idx : Nat) : (issue s u lid a bs idx).flagReqs = s.flagReqs := rfl
@[simp] theorem issue_comps (u : WaitUnit) (lid : BitVec 32) (a : Nat) (bs : List (Byte × Byte)) (idx : Nat) : (issue s u lid a bs idx).comps = s.comps := rfl
@[simp] theorem issue_rings (u : WaitUnit) (lid : BitVec 32) (a : Nat) (bs : List (Byte × Byte)) (idx : Nat) : (issue s u lid a bs idx).rings = s.rings := rfl
@[simp] theorem issue_net (u : WaitUnit) (lid : BitVec 32) (a : Nat) (bs : List (Byte × Byte)) (idx : Nat) : (issue s u lid a bs idx).net = s.net := rfl
@[simp] theorem issue_flash (u : WaitUnit) (lid : BitVec 32) (a : Nat) (bs : List (Byte × Byte)) (idx : Nat) : (issue s u lid a bs idx).flash = s.flash := rfl
@[simp] theorem issue_fuses (u : WaitUnit) (lid : BitVec 32) (a : Nat) (bs : List (Byte × Byte)) (idx : Nat) : (issue s u lid a bs idx).fuses = s.fuses := rfl
@[simp] theorem issue_krg (u : WaitUnit) (lid : BitVec 32) (a : Nat) (bs : List (Byte × Byte)) (idx : Nat) : (issue s u lid a bs idx).krg = s.krg := rfl
@[simp] theorem issue_lkp (u : WaitUnit) (lid : BitVec 32) (a : Nat) (bs : List (Byte × Byte)) (idx : Nat) : (issue s u lid a bs idx).lkp = s.lkp := rfl
@[simp] theorem issue_hlt (u : WaitUnit) (lid : BitVec 32) (a : Nat) (bs : List (Byte × Byte)) (idx : Nat) : (issue s u lid a bs idx).hlt = s.hlt := rfl
@[simp] theorem issue_power (u : WaitUnit) (lid : BitVec 32) (a : Nat) (bs : List (Byte × Byte)) (idx : Nat) : (issue s u lid a bs idx).power = s.power := rfl
@[simp] theorem issue_i3c (u : WaitUnit) (lid : BitVec 32) (a : Nat) (bs : List (Byte × Byte)) (idx : Nat) : (issue s u lid a bs idx).i3c = s.i3c := rfl
@[simp] theorem issue_jtag (u : WaitUnit) (lid : BitVec 32) (a : Nat) (bs : List (Byte × Byte)) (idx : Nat) : (issue s u lid a bs idx).jtag = s.jtag := rfl
@[simp] theorem issue_dtcPs (u : WaitUnit) (lid : BitVec 32) (a : Nat) (bs : List (Byte × Byte)) (idx : Nat) : (issue s u lid a bs idx).dtcPs = s.dtcPs := rfl
@[simp] theorem issue_ctxs (u : WaitUnit) (lid : BitVec 32) (a : Nat) (bs : List (Byte × Byte)) (idx : Nat) : (issue s u lid a bs idx).ctxs = s.ctxs := rfl
@[simp] theorem issue_sessions (u : WaitUnit) (lid : BitVec 32) (a : Nat) (bs : List (Byte × Byte)) (idx : Nat) : (issue s u lid a bs idx).sessions = s.sessions := rfl
@[simp] theorem issue_freeCtr (u : WaitUnit) (lid : BitVec 32) (a : Nat) (bs : List (Byte × Byte)) (idx : Nat) : (issue s u lid a bs idx).freeCtr = s.freeCtr := rfl
@[simp] theorem issue_lastRead (u : WaitUnit) (lid : BitVec 32) (a : Nat) (bs : List (Byte × Byte)) (idx : Nat) : (issue s u lid a bs idx).lastRead = s.lastRead := rfl
@[simp] theorem issue_pending (u : WaitUnit) (lid : BitVec 32) (a : Nat) (bs : List (Byte × Byte)) (idx : Nat) : (issue s u lid a bs idx).pending = s.pending := rfl

/-! A burst whose cells are damaged. -/

@[simp] theorem damage_regs (a : Nat) : (damage s a).regs = s.regs := by unfold damage; split <;> rfl
@[simp] theorem damage_shadow (a : Nat) : (damage s a).shadow = s.shadow := by unfold damage; split <;> rfl
@[simp] theorem damage_cyc (a : Nat) : (damage s a).cyc = s.cyc := by unfold damage; split <;> rfl
@[simp] theorem damage_dtc (a : Nat) : (damage s a).dtc = s.dtc := by unfold damage; split <;> rfl
@[simp] theorem damage_blocks (a : Nat) : (damage s a).blocks = s.blocks := by unfold damage; split <;> rfl
@[simp] theorem damage_regions (a : Nat) : (damage s a).regions = s.regions := by unfold damage; split <;> rfl
@[simp] theorem damage_halves (a : Nat) : (damage s a).halves = s.halves := by unfold damage; split <;> rfl
@[simp] theorem damage_stk (a : Nat) : (damage s a).stk = s.stk := by unfold damage; split <;> rfl
@[simp] theorem damage_hinge (a : Nat) : (damage s a).hinge = s.hinge := by unfold damage; split <;> rfl
@[simp] theorem damage_launches (a : Nat) : (damage s a).launches = s.launches := by unfold damage; split <;> rfl
@[simp] theorem damage_barriers (a : Nat) : (damage s a).barriers = s.barriers := by unfold damage; split <;> rfl
@[simp] theorem damage_flagReqs (a : Nat) : (damage s a).flagReqs = s.flagReqs := by unfold damage; split <;> rfl
@[simp] theorem damage_comps (a : Nat) : (damage s a).comps = s.comps := by unfold damage; split <;> rfl
@[simp] theorem damage_rings (a : Nat) : (damage s a).rings = s.rings := by unfold damage; split <;> rfl
@[simp] theorem damage_net (a : Nat) : (damage s a).net = s.net := by unfold damage; split <;> rfl
@[simp] theorem damage_flash (a : Nat) : (damage s a).flash = s.flash := by unfold damage; split <;> rfl
@[simp] theorem damage_fuses (a : Nat) : (damage s a).fuses = s.fuses := by unfold damage; split <;> rfl
@[simp] theorem damage_krg (a : Nat) : (damage s a).krg = s.krg := by unfold damage; split <;> rfl
@[simp] theorem damage_lkp (a : Nat) : (damage s a).lkp = s.lkp := by unfold damage; split <;> rfl
@[simp] theorem damage_hlt (a : Nat) : (damage s a).hlt = s.hlt := by unfold damage; split <;> rfl
@[simp] theorem damage_power (a : Nat) : (damage s a).power = s.power := by unfold damage; split <;> rfl
@[simp] theorem damage_i3c (a : Nat) : (damage s a).i3c = s.i3c := by unfold damage; split <;> rfl
@[simp] theorem damage_jtag (a : Nat) : (damage s a).jtag = s.jtag := by unfold damage; split <;> rfl
@[simp] theorem damage_dtcPs (a : Nat) : (damage s a).dtcPs = s.dtcPs := by unfold damage; split <;> rfl
@[simp] theorem damage_ctxs (a : Nat) : (damage s a).ctxs = s.ctxs := by unfold damage; split <;> rfl
@[simp] theorem damage_sessions (a : Nat) : (damage s a).sessions = s.sessions := by unfold damage; split <;> rfl
@[simp] theorem damage_freeCtr (a : Nat) : (damage s a).freeCtr = s.freeCtr := by unfold damage; split <;> rfl
@[simp] theorem damage_lastRead (a : Nat) : (damage s a).lastRead = s.lastRead := by unfold damage; split <;> rfl
@[simp] theorem damage_pending (a : Nat) : (damage s a).pending = s.pending := by unfold damage; split <;> rfl

/-! Re-reads taken off. -/

@[simp] theorem dropRereads_regs (a : Nat) : (dropRereads s a).regs = s.regs := rfl
@[simp] theorem dropRereads_shadow (a : Nat) : (dropRereads s a).shadow = s.shadow := rfl
@[simp] theorem dropRereads_cyc (a : Nat) : (dropRereads s a).cyc = s.cyc := rfl
@[simp] theorem dropRereads_dtc (a : Nat) : (dropRereads s a).dtc = s.dtc := rfl
@[simp] theorem dropRereads_blocks (a : Nat) : (dropRereads s a).blocks = s.blocks := rfl
@[simp] theorem dropRereads_regions (a : Nat) : (dropRereads s a).regions = s.regions := rfl
@[simp] theorem dropRereads_halves (a : Nat) : (dropRereads s a).halves = s.halves := rfl
@[simp] theorem dropRereads_stk (a : Nat) : (dropRereads s a).stk = s.stk := rfl
@[simp] theorem dropRereads_hinge (a : Nat) : (dropRereads s a).hinge = s.hinge := rfl
@[simp] theorem dropRereads_launches (a : Nat) : (dropRereads s a).launches = s.launches := rfl
@[simp] theorem dropRereads_barriers (a : Nat) : (dropRereads s a).barriers = s.barriers := rfl
@[simp] theorem dropRereads_flagReqs (a : Nat) : (dropRereads s a).flagReqs = s.flagReqs := rfl
@[simp] theorem dropRereads_comps (a : Nat) : (dropRereads s a).comps = s.comps := rfl
@[simp] theorem dropRereads_rings (a : Nat) : (dropRereads s a).rings = s.rings := rfl
@[simp] theorem dropRereads_net (a : Nat) : (dropRereads s a).net = s.net := rfl
@[simp] theorem dropRereads_flash (a : Nat) : (dropRereads s a).flash = s.flash := rfl
@[simp] theorem dropRereads_fuses (a : Nat) : (dropRereads s a).fuses = s.fuses := rfl
@[simp] theorem dropRereads_krg (a : Nat) : (dropRereads s a).krg = s.krg := rfl
@[simp] theorem dropRereads_lkp (a : Nat) : (dropRereads s a).lkp = s.lkp := rfl
@[simp] theorem dropRereads_hlt (a : Nat) : (dropRereads s a).hlt = s.hlt := rfl
@[simp] theorem dropRereads_power (a : Nat) : (dropRereads s a).power = s.power := rfl
@[simp] theorem dropRereads_i3c (a : Nat) : (dropRereads s a).i3c = s.i3c := rfl
@[simp] theorem dropRereads_jtag (a : Nat) : (dropRereads s a).jtag = s.jtag := rfl
@[simp] theorem dropRereads_dtcPs (a : Nat) : (dropRereads s a).dtcPs = s.dtcPs := rfl
@[simp] theorem dropRereads_ctxs (a : Nat) : (dropRereads s a).ctxs = s.ctxs := rfl
@[simp] theorem dropRereads_sessions (a : Nat) : (dropRereads s a).sessions = s.sessions := rfl
@[simp] theorem dropRereads_freeCtr (a : Nat) : (dropRereads s a).freeCtr = s.freeCtr := rfl
@[simp] theorem dropRereads_lastRead (a : Nat) : (dropRereads s a).lastRead = s.lastRead := rfl
@[simp] theorem dropRereads_pending (a : Nat) : (dropRereads s a).pending = s.pending := rfl

/-! A change of one launch. -/

@[simp] theorem modLaunch_regs (lid : BitVec 32) (f : Launch → Launch) : (modLaunch s lid f).regs = s.regs := rfl
@[simp] theorem modLaunch_shadow (lid : BitVec 32) (f : Launch → Launch) : (modLaunch s lid f).shadow = s.shadow := rfl
@[simp] theorem modLaunch_cyc (lid : BitVec 32) (f : Launch → Launch) : (modLaunch s lid f).cyc = s.cyc := rfl
@[simp] theorem modLaunch_dtc (lid : BitVec 32) (f : Launch → Launch) : (modLaunch s lid f).dtc = s.dtc := rfl
@[simp] theorem modLaunch_blocks (lid : BitVec 32) (f : Launch → Launch) : (modLaunch s lid f).blocks = s.blocks := rfl
@[simp] theorem modLaunch_regions (lid : BitVec 32) (f : Launch → Launch) : (modLaunch s lid f).regions = s.regions := rfl
@[simp] theorem modLaunch_halves (lid : BitVec 32) (f : Launch → Launch) : (modLaunch s lid f).halves = s.halves := rfl
@[simp] theorem modLaunch_mem (lid : BitVec 32) (f : Launch → Launch) : (modLaunch s lid f).mem = s.mem := rfl
@[simp] theorem modLaunch_stk (lid : BitVec 32) (f : Launch → Launch) : (modLaunch s lid f).stk = s.stk := rfl
@[simp] theorem modLaunch_hinge (lid : BitVec 32) (f : Launch → Launch) : (modLaunch s lid f).hinge = s.hinge := rfl
@[simp] theorem modLaunch_launches (lid : BitVec 32) (f : Launch → Launch) : (modLaunch s lid f).launches = modFirst (fun l => l.lid = lid) f s.launches := rfl
@[simp] theorem modLaunch_barriers (lid : BitVec 32) (f : Launch → Launch) : (modLaunch s lid f).barriers = s.barriers := rfl
@[simp] theorem modLaunch_flagReqs (lid : BitVec 32) (f : Launch → Launch) : (modLaunch s lid f).flagReqs = s.flagReqs := rfl
@[simp] theorem modLaunch_comps (lid : BitVec 32) (f : Launch → Launch) : (modLaunch s lid f).comps = s.comps := rfl
@[simp] theorem modLaunch_rings (lid : BitVec 32) (f : Launch → Launch) : (modLaunch s lid f).rings = s.rings := rfl
@[simp] theorem modLaunch_net (lid : BitVec 32) (f : Launch → Launch) : (modLaunch s lid f).net = s.net := rfl
@[simp] theorem modLaunch_flash (lid : BitVec 32) (f : Launch → Launch) : (modLaunch s lid f).flash = s.flash := rfl
@[simp] theorem modLaunch_fuses (lid : BitVec 32) (f : Launch → Launch) : (modLaunch s lid f).fuses = s.fuses := rfl
@[simp] theorem modLaunch_krg (lid : BitVec 32) (f : Launch → Launch) : (modLaunch s lid f).krg = s.krg := rfl
@[simp] theorem modLaunch_lkp (lid : BitVec 32) (f : Launch → Launch) : (modLaunch s lid f).lkp = s.lkp := rfl
@[simp] theorem modLaunch_hlt (lid : BitVec 32) (f : Launch → Launch) : (modLaunch s lid f).hlt = s.hlt := rfl
@[simp] theorem modLaunch_power (lid : BitVec 32) (f : Launch → Launch) : (modLaunch s lid f).power = s.power := rfl
@[simp] theorem modLaunch_i3c (lid : BitVec 32) (f : Launch → Launch) : (modLaunch s lid f).i3c = s.i3c := rfl
@[simp] theorem modLaunch_jtag (lid : BitVec 32) (f : Launch → Launch) : (modLaunch s lid f).jtag = s.jtag := rfl
@[simp] theorem modLaunch_dtcPs (lid : BitVec 32) (f : Launch → Launch) : (modLaunch s lid f).dtcPs = s.dtcPs := rfl
@[simp] theorem modLaunch_ctxs (lid : BitVec 32) (f : Launch → Launch) : (modLaunch s lid f).ctxs = s.ctxs := rfl
@[simp] theorem modLaunch_sessions (lid : BitVec 32) (f : Launch → Launch) : (modLaunch s lid f).sessions = s.sessions := rfl
@[simp] theorem modLaunch_freeCtr (lid : BitVec 32) (f : Launch → Launch) : (modLaunch s lid f).freeCtr = s.freeCtr := rfl
@[simp] theorem modLaunch_lastRead (lid : BitVec 32) (f : Launch → Launch) : (modLaunch s lid f).lastRead = s.lastRead := rfl
@[simp] theorem modLaunch_pending (lid : BitVec 32) (f : Launch → Launch) : (modLaunch s lid f).pending = s.pending := rfl

/-! A completion that joins. -/

@[simp] theorem post_regs (c : Completion) : (post s c).regs = s.regs := rfl
@[simp] theorem post_shadow (c : Completion) : (post s c).shadow = s.shadow := rfl
@[simp] theorem post_cyc (c : Completion) : (post s c).cyc = s.cyc := rfl
@[simp] theorem post_dtc (c : Completion) : (post s c).dtc = s.dtc := rfl
@[simp] theorem post_blocks (c : Completion) : (post s c).blocks = s.blocks := rfl
@[simp] theorem post_regions (c : Completion) : (post s c).regions = s.regions := rfl
@[simp] theorem post_halves (c : Completion) : (post s c).halves = s.halves := rfl
@[simp] theorem post_mem (c : Completion) : (post s c).mem = s.mem := rfl
@[simp] theorem post_stk (c : Completion) : (post s c).stk = s.stk := rfl
@[simp] theorem post_hinge (c : Completion) : (post s c).hinge = s.hinge := rfl
@[simp] theorem post_launches (c : Completion) : (post s c).launches = s.launches := rfl
@[simp] theorem post_barriers (c : Completion) : (post s c).barriers = s.barriers := rfl
@[simp] theorem post_flagReqs (c : Completion) : (post s c).flagReqs = s.flagReqs := rfl
@[simp] theorem post_comps (c : Completion) : (post s c).comps = s.comps ++ [c] := rfl
@[simp] theorem post_rings (c : Completion) : (post s c).rings = s.rings := rfl
@[simp] theorem post_net (c : Completion) : (post s c).net = s.net := rfl
@[simp] theorem post_flash (c : Completion) : (post s c).flash = s.flash := rfl
@[simp] theorem post_fuses (c : Completion) : (post s c).fuses = s.fuses := rfl
@[simp] theorem post_krg (c : Completion) : (post s c).krg = s.krg := rfl
@[simp] theorem post_lkp (c : Completion) : (post s c).lkp = s.lkp := rfl
@[simp] theorem post_hlt (c : Completion) : (post s c).hlt = s.hlt := rfl
@[simp] theorem post_power (c : Completion) : (post s c).power = s.power := rfl
@[simp] theorem post_i3c (c : Completion) : (post s c).i3c = s.i3c := rfl
@[simp] theorem post_jtag (c : Completion) : (post s c).jtag = s.jtag := rfl
@[simp] theorem post_dtcPs (c : Completion) : (post s c).dtcPs = s.dtcPs := rfl
@[simp] theorem post_ctxs (c : Completion) : (post s c).ctxs = s.ctxs := rfl
@[simp] theorem post_sessions (c : Completion) : (post s c).sessions = s.sessions := rfl
@[simp] theorem post_freeCtr (c : Completion) : (post s c).freeCtr = s.freeCtr := rfl
@[simp] theorem post_lastRead (c : Completion) : (post s c).lastRead = s.lastRead := rfl
@[simp] theorem post_pending (c : Completion) : (post s c).pending = s.pending := rfl

/-! A change of one ring. -/

@[simp] theorem modRing_regs (i : Nat) (f : Ring → Ring) : (modRing s i f).regs = s.regs := rfl
@[simp] theorem modRing_shadow (i : Nat) (f : Ring → Ring) : (modRing s i f).shadow = s.shadow := rfl
@[simp] theorem modRing_cyc (i : Nat) (f : Ring → Ring) : (modRing s i f).cyc = s.cyc := rfl
@[simp] theorem modRing_dtc (i : Nat) (f : Ring → Ring) : (modRing s i f).dtc = s.dtc := rfl
@[simp] theorem modRing_blocks (i : Nat) (f : Ring → Ring) : (modRing s i f).blocks = s.blocks := rfl
@[simp] theorem modRing_regions (i : Nat) (f : Ring → Ring) : (modRing s i f).regions = s.regions := rfl
@[simp] theorem modRing_halves (i : Nat) (f : Ring → Ring) : (modRing s i f).halves = s.halves := rfl
@[simp] theorem modRing_mem (i : Nat) (f : Ring → Ring) : (modRing s i f).mem = s.mem := rfl
@[simp] theorem modRing_stk (i : Nat) (f : Ring → Ring) : (modRing s i f).stk = s.stk := rfl
@[simp] theorem modRing_hinge (i : Nat) (f : Ring → Ring) : (modRing s i f).hinge = s.hinge := rfl
@[simp] theorem modRing_launches (i : Nat) (f : Ring → Ring) : (modRing s i f).launches = s.launches := rfl
@[simp] theorem modRing_barriers (i : Nat) (f : Ring → Ring) : (modRing s i f).barriers = s.barriers := rfl
@[simp] theorem modRing_flagReqs (i : Nat) (f : Ring → Ring) : (modRing s i f).flagReqs = s.flagReqs := rfl
@[simp] theorem modRing_comps (i : Nat) (f : Ring → Ring) : (modRing s i f).comps = s.comps := rfl
@[simp] theorem modRing_net (i : Nat) (f : Ring → Ring) : (modRing s i f).net = s.net := rfl
@[simp] theorem modRing_flash (i : Nat) (f : Ring → Ring) : (modRing s i f).flash = s.flash := rfl
@[simp] theorem modRing_fuses (i : Nat) (f : Ring → Ring) : (modRing s i f).fuses = s.fuses := rfl
@[simp] theorem modRing_krg (i : Nat) (f : Ring → Ring) : (modRing s i f).krg = s.krg := rfl
@[simp] theorem modRing_lkp (i : Nat) (f : Ring → Ring) : (modRing s i f).lkp = s.lkp := rfl
@[simp] theorem modRing_hlt (i : Nat) (f : Ring → Ring) : (modRing s i f).hlt = s.hlt := rfl
@[simp] theorem modRing_power (i : Nat) (f : Ring → Ring) : (modRing s i f).power = s.power := rfl
@[simp] theorem modRing_i3c (i : Nat) (f : Ring → Ring) : (modRing s i f).i3c = s.i3c := rfl
@[simp] theorem modRing_jtag (i : Nat) (f : Ring → Ring) : (modRing s i f).jtag = s.jtag := rfl
@[simp] theorem modRing_dtcPs (i : Nat) (f : Ring → Ring) : (modRing s i f).dtcPs = s.dtcPs := rfl
@[simp] theorem modRing_ctxs (i : Nat) (f : Ring → Ring) : (modRing s i f).ctxs = s.ctxs := rfl
@[simp] theorem modRing_sessions (i : Nat) (f : Ring → Ring) : (modRing s i f).sessions = s.sessions := rfl
@[simp] theorem modRing_freeCtr (i : Nat) (f : Ring → Ring) : (modRing s i f).freeCtr = s.freeCtr := rfl
@[simp] theorem modRing_lastRead (i : Nat) (f : Ring → Ring) : (modRing s i f).lastRead = s.lastRead := rfl
@[simp] theorem modRing_pending (i : Nat) (f : Ring → Ring) : (modRing s i f).pending = s.pending := rfl

/-! An entry that is read. -/

@[simp] theorem readCmd_regs (ring : Nat) (cid : Word) (op : Nat) (lid : Word) : (readCmd s ring cid op lid).regs = s.regs := rfl
@[simp] theorem readCmd_shadow (ring : Nat) (cid : Word) (op : Nat) (lid : Word) : (readCmd s ring cid op lid).shadow = s.shadow := rfl
@[simp] theorem readCmd_cyc (ring : Nat) (cid : Word) (op : Nat) (lid : Word) : (readCmd s ring cid op lid).cyc = s.cyc := rfl
@[simp] theorem readCmd_dtc (ring : Nat) (cid : Word) (op : Nat) (lid : Word) : (readCmd s ring cid op lid).dtc = s.dtc := rfl
@[simp] theorem readCmd_blocks (ring : Nat) (cid : Word) (op : Nat) (lid : Word) : (readCmd s ring cid op lid).blocks = s.blocks := rfl
@[simp] theorem readCmd_regions (ring : Nat) (cid : Word) (op : Nat) (lid : Word) : (readCmd s ring cid op lid).regions = s.regions := rfl
@[simp] theorem readCmd_halves (ring : Nat) (cid : Word) (op : Nat) (lid : Word) : (readCmd s ring cid op lid).halves = s.halves := rfl
@[simp] theorem readCmd_mem (ring : Nat) (cid : Word) (op : Nat) (lid : Word) : (readCmd s ring cid op lid).mem = s.mem := rfl
@[simp] theorem readCmd_stk (ring : Nat) (cid : Word) (op : Nat) (lid : Word) : (readCmd s ring cid op lid).stk = s.stk := rfl
@[simp] theorem readCmd_hinge (ring : Nat) (cid : Word) (op : Nat) (lid : Word) : (readCmd s ring cid op lid).hinge = s.hinge := rfl
@[simp] theorem readCmd_launches (ring : Nat) (cid : Word) (op : Nat) (lid : Word) : (readCmd s ring cid op lid).launches = s.launches := rfl
@[simp] theorem readCmd_barriers (ring : Nat) (cid : Word) (op : Nat) (lid : Word) : (readCmd s ring cid op lid).barriers = s.barriers := rfl
@[simp] theorem readCmd_flagReqs (ring : Nat) (cid : Word) (op : Nat) (lid : Word) : (readCmd s ring cid op lid).flagReqs = s.flagReqs := rfl
@[simp] theorem readCmd_comps (ring : Nat) (cid : Word) (op : Nat) (lid : Word) : (readCmd s ring cid op lid).comps = s.comps := rfl
@[simp] theorem readCmd_net (ring : Nat) (cid : Word) (op : Nat) (lid : Word) : (readCmd s ring cid op lid).net = s.net := rfl
@[simp] theorem readCmd_flash (ring : Nat) (cid : Word) (op : Nat) (lid : Word) : (readCmd s ring cid op lid).flash = s.flash := rfl
@[simp] theorem readCmd_fuses (ring : Nat) (cid : Word) (op : Nat) (lid : Word) : (readCmd s ring cid op lid).fuses = s.fuses := rfl
@[simp] theorem readCmd_krg (ring : Nat) (cid : Word) (op : Nat) (lid : Word) : (readCmd s ring cid op lid).krg = s.krg := rfl
@[simp] theorem readCmd_lkp (ring : Nat) (cid : Word) (op : Nat) (lid : Word) : (readCmd s ring cid op lid).lkp = s.lkp := rfl
@[simp] theorem readCmd_hlt (ring : Nat) (cid : Word) (op : Nat) (lid : Word) : (readCmd s ring cid op lid).hlt = s.hlt := rfl
@[simp] theorem readCmd_power (ring : Nat) (cid : Word) (op : Nat) (lid : Word) : (readCmd s ring cid op lid).power = s.power := rfl
@[simp] theorem readCmd_i3c (ring : Nat) (cid : Word) (op : Nat) (lid : Word) : (readCmd s ring cid op lid).i3c = s.i3c := rfl
@[simp] theorem readCmd_jtag (ring : Nat) (cid : Word) (op : Nat) (lid : Word) : (readCmd s ring cid op lid).jtag = s.jtag := rfl
@[simp] theorem readCmd_dtcPs (ring : Nat) (cid : Word) (op : Nat) (lid : Word) : (readCmd s ring cid op lid).dtcPs = s.dtcPs := rfl
@[simp] theorem readCmd_ctxs (ring : Nat) (cid : Word) (op : Nat) (lid : Word) : (readCmd s ring cid op lid).ctxs = s.ctxs := rfl
@[simp] theorem readCmd_sessions (ring : Nat) (cid : Word) (op : Nat) (lid : Word) : (readCmd s ring cid op lid).sessions = s.sessions := rfl
@[simp] theorem readCmd_freeCtr (ring : Nat) (cid : Word) (op : Nat) (lid : Word) : (readCmd s ring cid op lid).freeCtr = s.freeCtr := rfl
@[simp] theorem readCmd_lastRead (ring : Nat) (cid : Word) (op : Nat) (lid : Word) : (readCmd s ring cid op lid).lastRead = s.lastRead := rfl
@[simp] theorem readCmd_pending (ring : Nat) (cid : Word) (op : Nat) (lid : Word) : (readCmd s ring cid op lid).pending = s.pending := rfl

/-! A ring opened or closed. -/

@[simp] theorem setRing_regs (i : Nat) (r : Option Ring) : (setRing s i r).regs = s.regs := rfl
@[simp] theorem setRing_shadow (i : Nat) (r : Option Ring) : (setRing s i r).shadow = s.shadow := rfl
@[simp] theorem setRing_cyc (i : Nat) (r : Option Ring) : (setRing s i r).cyc = s.cyc := rfl
@[simp] theorem setRing_dtc (i : Nat) (r : Option Ring) : (setRing s i r).dtc = s.dtc := rfl
@[simp] theorem setRing_blocks (i : Nat) (r : Option Ring) : (setRing s i r).blocks = s.blocks := rfl
@[simp] theorem setRing_regions (i : Nat) (r : Option Ring) : (setRing s i r).regions = s.regions := rfl
@[simp] theorem setRing_halves (i : Nat) (r : Option Ring) : (setRing s i r).halves = s.halves := rfl
@[simp] theorem setRing_mem (i : Nat) (r : Option Ring) : (setRing s i r).mem = s.mem := rfl
@[simp] theorem setRing_stk (i : Nat) (r : Option Ring) : (setRing s i r).stk = s.stk := rfl
@[simp] theorem setRing_hinge (i : Nat) (r : Option Ring) : (setRing s i r).hinge = s.hinge := rfl
@[simp] theorem setRing_launches (i : Nat) (r : Option Ring) : (setRing s i r).launches = s.launches := rfl
@[simp] theorem setRing_barriers (i : Nat) (r : Option Ring) : (setRing s i r).barriers = s.barriers := rfl
@[simp] theorem setRing_flagReqs (i : Nat) (r : Option Ring) : (setRing s i r).flagReqs = s.flagReqs := rfl
@[simp] theorem setRing_comps (i : Nat) (r : Option Ring) : (setRing s i r).comps = s.comps := rfl
@[simp] theorem setRing_rings (i : Nat) (r : Option Ring) : (setRing s i r).rings = s.rings.set (Fin.ofNat 16 i) r := rfl
@[simp] theorem setRing_net (i : Nat) (r : Option Ring) : (setRing s i r).net = s.net := rfl
@[simp] theorem setRing_flash (i : Nat) (r : Option Ring) : (setRing s i r).flash = s.flash := rfl
@[simp] theorem setRing_fuses (i : Nat) (r : Option Ring) : (setRing s i r).fuses = s.fuses := rfl
@[simp] theorem setRing_krg (i : Nat) (r : Option Ring) : (setRing s i r).krg = s.krg := rfl
@[simp] theorem setRing_lkp (i : Nat) (r : Option Ring) : (setRing s i r).lkp = s.lkp := rfl
@[simp] theorem setRing_hlt (i : Nat) (r : Option Ring) : (setRing s i r).hlt = s.hlt := rfl
@[simp] theorem setRing_power (i : Nat) (r : Option Ring) : (setRing s i r).power = s.power := rfl
@[simp] theorem setRing_i3c (i : Nat) (r : Option Ring) : (setRing s i r).i3c = s.i3c := rfl
@[simp] theorem setRing_jtag (i : Nat) (r : Option Ring) : (setRing s i r).jtag = s.jtag := rfl
@[simp] theorem setRing_dtcPs (i : Nat) (r : Option Ring) : (setRing s i r).dtcPs = s.dtcPs := rfl
@[simp] theorem setRing_ctxs (i : Nat) (r : Option Ring) : (setRing s i r).ctxs = s.ctxs := rfl
@[simp] theorem setRing_sessions (i : Nat) (r : Option Ring) : (setRing s i r).sessions = s.sessions := rfl
@[simp] theorem setRing_freeCtr (i : Nat) (r : Option Ring) : (setRing s i r).freeCtr = s.freeCtr := rfl
@[simp] theorem setRing_lastRead (i : Nat) (r : Option Ring) : (setRing s i r).lastRead = s.lastRead := rfl
@[simp] theorem setRing_pending (i : Nat) (r : Option Ring) : (setRing s i r).pending = s.pending := rfl

/-! A change of one connection. -/

@[simp] theorem modConn_regs (qp : BitVec 24) (f : Conn → Conn) : (modConn s qp f).regs = s.regs := rfl
@[simp] theorem modConn_shadow (qp : BitVec 24) (f : Conn → Conn) : (modConn s qp f).shadow = s.shadow := rfl
@[simp] theorem modConn_cyc (qp : BitVec 24) (f : Conn → Conn) : (modConn s qp f).cyc = s.cyc := rfl
@[simp] theorem modConn_dtc (qp : BitVec 24) (f : Conn → Conn) : (modConn s qp f).dtc = s.dtc := rfl
@[simp] theorem modConn_blocks (qp : BitVec 24) (f : Conn → Conn) : (modConn s qp f).blocks = s.blocks := rfl
@[simp] theorem modConn_regions (qp : BitVec 24) (f : Conn → Conn) : (modConn s qp f).regions = s.regions := rfl
@[simp] theorem modConn_halves (qp : BitVec 24) (f : Conn → Conn) : (modConn s qp f).halves = s.halves := rfl
@[simp] theorem modConn_mem (qp : BitVec 24) (f : Conn → Conn) : (modConn s qp f).mem = s.mem := rfl
@[simp] theorem modConn_stk (qp : BitVec 24) (f : Conn → Conn) : (modConn s qp f).stk = s.stk := rfl
@[simp] theorem modConn_hinge (qp : BitVec 24) (f : Conn → Conn) : (modConn s qp f).hinge = s.hinge := rfl
@[simp] theorem modConn_launches (qp : BitVec 24) (f : Conn → Conn) : (modConn s qp f).launches = s.launches := rfl
@[simp] theorem modConn_barriers (qp : BitVec 24) (f : Conn → Conn) : (modConn s qp f).barriers = s.barriers := rfl
@[simp] theorem modConn_flagReqs (qp : BitVec 24) (f : Conn → Conn) : (modConn s qp f).flagReqs = s.flagReqs := rfl
@[simp] theorem modConn_comps (qp : BitVec 24) (f : Conn → Conn) : (modConn s qp f).comps = s.comps := rfl
@[simp] theorem modConn_rings (qp : BitVec 24) (f : Conn → Conn) : (modConn s qp f).rings = s.rings := rfl
@[simp] theorem modConn_flash (qp : BitVec 24) (f : Conn → Conn) : (modConn s qp f).flash = s.flash := rfl
@[simp] theorem modConn_fuses (qp : BitVec 24) (f : Conn → Conn) : (modConn s qp f).fuses = s.fuses := rfl
@[simp] theorem modConn_krg (qp : BitVec 24) (f : Conn → Conn) : (modConn s qp f).krg = s.krg := rfl
@[simp] theorem modConn_lkp (qp : BitVec 24) (f : Conn → Conn) : (modConn s qp f).lkp = s.lkp := rfl
@[simp] theorem modConn_hlt (qp : BitVec 24) (f : Conn → Conn) : (modConn s qp f).hlt = s.hlt := rfl
@[simp] theorem modConn_power (qp : BitVec 24) (f : Conn → Conn) : (modConn s qp f).power = s.power := rfl
@[simp] theorem modConn_i3c (qp : BitVec 24) (f : Conn → Conn) : (modConn s qp f).i3c = s.i3c := rfl
@[simp] theorem modConn_jtag (qp : BitVec 24) (f : Conn → Conn) : (modConn s qp f).jtag = s.jtag := rfl
@[simp] theorem modConn_dtcPs (qp : BitVec 24) (f : Conn → Conn) : (modConn s qp f).dtcPs = s.dtcPs := rfl
@[simp] theorem modConn_ctxs (qp : BitVec 24) (f : Conn → Conn) : (modConn s qp f).ctxs = s.ctxs := rfl
@[simp] theorem modConn_sessions (qp : BitVec 24) (f : Conn → Conn) : (modConn s qp f).sessions = s.sessions := rfl
@[simp] theorem modConn_freeCtr (qp : BitVec 24) (f : Conn → Conn) : (modConn s qp f).freeCtr = s.freeCtr := rfl
@[simp] theorem modConn_lastRead (qp : BitVec 24) (f : Conn → Conn) : (modConn s qp f).lastRead = s.lastRead := rfl
@[simp] theorem modConn_pending (qp : BitVec 24) (f : Conn → Conn) : (modConn s qp f).pending = s.pending := rfl

/-! Something handed to the line. -/

@[simp] theorem send_regs (x : Tx) : (send s x).regs = s.regs := by unfold send; split <;> [rfl; (split <;> rfl)]
@[simp] theorem send_shadow (x : Tx) : (send s x).shadow = s.shadow := by unfold send; split <;> [rfl; (split <;> rfl)]
@[simp] theorem send_cyc (x : Tx) : (send s x).cyc = s.cyc := by unfold send; split <;> [rfl; (split <;> rfl)]
@[simp] theorem send_dtc (x : Tx) : (send s x).dtc = s.dtc := by unfold send; split <;> [rfl; (split <;> rfl)]
@[simp] theorem send_blocks (x : Tx) : (send s x).blocks = s.blocks := by unfold send; split <;> [rfl; (split <;> rfl)]
@[simp] theorem send_regions (x : Tx) : (send s x).regions = s.regions := by unfold send; split <;> [rfl; (split <;> rfl)]
@[simp] theorem send_halves (x : Tx) : (send s x).halves = s.halves := by unfold send; split <;> [rfl; (split <;> rfl)]
@[simp] theorem send_mem (x : Tx) : (send s x).mem = s.mem := by unfold send; split <;> [rfl; (split <;> rfl)]
@[simp] theorem send_stk (x : Tx) : (send s x).stk = s.stk := by unfold send; split <;> [rfl; (split <;> rfl)]
@[simp] theorem send_hinge (x : Tx) : (send s x).hinge = s.hinge := by unfold send; split <;> [rfl; (split <;> rfl)]
@[simp] theorem send_launches (x : Tx) : (send s x).launches = s.launches := by unfold send; split <;> [rfl; (split <;> rfl)]
@[simp] theorem send_barriers (x : Tx) : (send s x).barriers = s.barriers := by unfold send; split <;> [rfl; (split <;> rfl)]
@[simp] theorem send_flagReqs (x : Tx) : (send s x).flagReqs = s.flagReqs := by unfold send; split <;> [rfl; (split <;> rfl)]
@[simp] theorem send_comps (x : Tx) : (send s x).comps = s.comps := by unfold send; split <;> [rfl; (split <;> rfl)]
@[simp] theorem send_rings (x : Tx) : (send s x).rings = s.rings := by unfold send; split <;> [rfl; (split <;> rfl)]
@[simp] theorem send_flash (x : Tx) : (send s x).flash = s.flash := by unfold send; split <;> [rfl; (split <;> rfl)]
@[simp] theorem send_fuses (x : Tx) : (send s x).fuses = s.fuses := by unfold send; split <;> [rfl; (split <;> rfl)]
@[simp] theorem send_krg (x : Tx) : (send s x).krg = s.krg := by unfold send; split <;> [rfl; (split <;> rfl)]
@[simp] theorem send_lkp (x : Tx) : (send s x).lkp = s.lkp := by unfold send; split <;> [rfl; (split <;> rfl)]
@[simp] theorem send_hlt (x : Tx) : (send s x).hlt = s.hlt := by unfold send; split <;> [rfl; (split <;> rfl)]
@[simp] theorem send_power (x : Tx) : (send s x).power = s.power := by unfold send; split <;> [rfl; (split <;> rfl)]
@[simp] theorem send_i3c (x : Tx) : (send s x).i3c = s.i3c := by unfold send; split <;> [rfl; (split <;> rfl)]
@[simp] theorem send_jtag (x : Tx) : (send s x).jtag = s.jtag := by unfold send; split <;> [rfl; (split <;> rfl)]
@[simp] theorem send_dtcPs (x : Tx) : (send s x).dtcPs = s.dtcPs := by unfold send; split <;> [rfl; (split <;> rfl)]
@[simp] theorem send_ctxs (x : Tx) : (send s x).ctxs = s.ctxs := by unfold send; split <;> [rfl; (split <;> rfl)]
@[simp] theorem send_sessions (x : Tx) : (send s x).sessions = s.sessions := by unfold send; split <;> [rfl; (split <;> rfl)]
@[simp] theorem send_freeCtr (x : Tx) : (send s x).freeCtr = s.freeCtr := by unfold send; split <;> [rfl; (split <;> rfl)]
@[simp] theorem send_lastRead (x : Tx) : (send s x).lastRead = s.lastRead := by unfold send; split <;> [rfl; (split <;> rfl)]
@[simp] theorem send_pending (x : Tx) : (send s x).pending = s.pending := by unfold send; split <;> [rfl; (split <;> rfl)]

/-! A packet sent as requester. -/

@[simp] theorem sendAck_regs (qp : BitVec 24) (x : Tx) : (sendAck s qp x).regs = s.regs := by simp [sendAck]
@[simp] theorem sendAck_shadow (qp : BitVec 24) (x : Tx) : (sendAck s qp x).shadow = s.shadow := by simp [sendAck]
@[simp] theorem sendAck_cyc (qp : BitVec 24) (x : Tx) : (sendAck s qp x).cyc = s.cyc := by simp [sendAck]
@[simp] theorem sendAck_dtc (qp : BitVec 24) (x : Tx) : (sendAck s qp x).dtc = s.dtc := by simp [sendAck]
@[simp] theorem sendAck_blocks (qp : BitVec 24) (x : Tx) : (sendAck s qp x).blocks = s.blocks := by simp [sendAck]
@[simp] theorem sendAck_regions (qp : BitVec 24) (x : Tx) : (sendAck s qp x).regions = s.regions := by simp [sendAck]
@[simp] theorem sendAck_halves (qp : BitVec 24) (x : Tx) : (sendAck s qp x).halves = s.halves := by simp [sendAck]
@[simp] theorem sendAck_mem (qp : BitVec 24) (x : Tx) : (sendAck s qp x).mem = s.mem := by simp [sendAck]
@[simp] theorem sendAck_stk (qp : BitVec 24) (x : Tx) : (sendAck s qp x).stk = s.stk := by simp [sendAck]
@[simp] theorem sendAck_hinge (qp : BitVec 24) (x : Tx) : (sendAck s qp x).hinge = s.hinge := by simp [sendAck]
@[simp] theorem sendAck_launches (qp : BitVec 24) (x : Tx) : (sendAck s qp x).launches = s.launches := by simp [sendAck]
@[simp] theorem sendAck_barriers (qp : BitVec 24) (x : Tx) : (sendAck s qp x).barriers = s.barriers := by simp [sendAck]
@[simp] theorem sendAck_flagReqs (qp : BitVec 24) (x : Tx) : (sendAck s qp x).flagReqs = s.flagReqs := by simp [sendAck]
@[simp] theorem sendAck_comps (qp : BitVec 24) (x : Tx) : (sendAck s qp x).comps = s.comps := by simp [sendAck]
@[simp] theorem sendAck_rings (qp : BitVec 24) (x : Tx) : (sendAck s qp x).rings = s.rings := by simp [sendAck]
@[simp] theorem sendAck_flash (qp : BitVec 24) (x : Tx) : (sendAck s qp x).flash = s.flash := by simp [sendAck]
@[simp] theorem sendAck_fuses (qp : BitVec 24) (x : Tx) : (sendAck s qp x).fuses = s.fuses := by simp [sendAck]
@[simp] theorem sendAck_krg (qp : BitVec 24) (x : Tx) : (sendAck s qp x).krg = s.krg := by simp [sendAck]
@[simp] theorem sendAck_lkp (qp : BitVec 24) (x : Tx) : (sendAck s qp x).lkp = s.lkp := by simp [sendAck]
@[simp] theorem sendAck_hlt (qp : BitVec 24) (x : Tx) : (sendAck s qp x).hlt = s.hlt := by simp [sendAck]
@[simp] theorem sendAck_power (qp : BitVec 24) (x : Tx) : (sendAck s qp x).power = s.power := by simp [sendAck]
@[simp] theorem sendAck_i3c (qp : BitVec 24) (x : Tx) : (sendAck s qp x).i3c = s.i3c := by simp [sendAck]
@[simp] theorem sendAck_jtag (qp : BitVec 24) (x : Tx) : (sendAck s qp x).jtag = s.jtag := by simp [sendAck]
@[simp] theorem sendAck_dtcPs (qp : BitVec 24) (x : Tx) : (sendAck s qp x).dtcPs = s.dtcPs := by simp [sendAck]
@[simp] theorem sendAck_ctxs (qp : BitVec 24) (x : Tx) : (sendAck s qp x).ctxs = s.ctxs := by simp [sendAck]
@[simp] theorem sendAck_sessions (qp : BitVec 24) (x : Tx) : (sendAck s qp x).sessions = s.sessions := by simp [sendAck]
@[simp] theorem sendAck_freeCtr (qp : BitVec 24) (x : Tx) : (sendAck s qp x).freeCtr = s.freeCtr := by simp [sendAck]
@[simp] theorem sendAck_lastRead (qp : BitVec 24) (x : Tx) : (sendAck s qp x).lastRead = s.lastRead := by simp [sendAck]
@[simp] theorem sendAck_pending (qp : BitVec 24) (x : Tx) : (sendAck s qp x).pending = s.pending := by simp [sendAck]

/-! A packet that arrived. -/

@[simp] theorem heard_regs (qp : BitVec 24) : (heard s qp).regs = s.regs := rfl
@[simp] theorem heard_shadow (qp : BitVec 24) : (heard s qp).shadow = s.shadow := rfl
@[simp] theorem heard_cyc (qp : BitVec 24) : (heard s qp).cyc = s.cyc := rfl
@[simp] theorem heard_dtc (qp : BitVec 24) : (heard s qp).dtc = s.dtc := rfl
@[simp] theorem heard_blocks (qp : BitVec 24) : (heard s qp).blocks = s.blocks := rfl
@[simp] theorem heard_regions (qp : BitVec 24) : (heard s qp).regions = s.regions := rfl
@[simp] theorem heard_halves (qp : BitVec 24) : (heard s qp).halves = s.halves := rfl
@[simp] theorem heard_mem (qp : BitVec 24) : (heard s qp).mem = s.mem := rfl
@[simp] theorem heard_stk (qp : BitVec 24) : (heard s qp).stk = s.stk := rfl
@[simp] theorem heard_hinge (qp : BitVec 24) : (heard s qp).hinge = s.hinge := rfl
@[simp] theorem heard_launches (qp : BitVec 24) : (heard s qp).launches = s.launches := rfl
@[simp] theorem heard_barriers (qp : BitVec 24) : (heard s qp).barriers = s.barriers := rfl
@[simp] theorem heard_flagReqs (qp : BitVec 24) : (heard s qp).flagReqs = s.flagReqs := rfl
@[simp] theorem heard_comps (qp : BitVec 24) : (heard s qp).comps = s.comps := rfl
@[simp] theorem heard_rings (qp : BitVec 24) : (heard s qp).rings = s.rings := rfl
@[simp] theorem heard_flash (qp : BitVec 24) : (heard s qp).flash = s.flash := rfl
@[simp] theorem heard_fuses (qp : BitVec 24) : (heard s qp).fuses = s.fuses := rfl
@[simp] theorem heard_krg (qp : BitVec 24) : (heard s qp).krg = s.krg := rfl
@[simp] theorem heard_lkp (qp : BitVec 24) : (heard s qp).lkp = s.lkp := rfl
@[simp] theorem heard_hlt (qp : BitVec 24) : (heard s qp).hlt = s.hlt := rfl
@[simp] theorem heard_power (qp : BitVec 24) : (heard s qp).power = s.power := rfl
@[simp] theorem heard_i3c (qp : BitVec 24) : (heard s qp).i3c = s.i3c := rfl
@[simp] theorem heard_jtag (qp : BitVec 24) : (heard s qp).jtag = s.jtag := rfl
@[simp] theorem heard_dtcPs (qp : BitVec 24) : (heard s qp).dtcPs = s.dtcPs := rfl
@[simp] theorem heard_ctxs (qp : BitVec 24) : (heard s qp).ctxs = s.ctxs := rfl
@[simp] theorem heard_sessions (qp : BitVec 24) : (heard s qp).sessions = s.sessions := rfl
@[simp] theorem heard_freeCtr (qp : BitVec 24) : (heard s qp).freeCtr = s.freeCtr := rfl
@[simp] theorem heard_lastRead (qp : BitVec 24) : (heard s qp).lastRead = s.lastRead := rfl
@[simp] theorem heard_pending (qp : BitVec 24) : (heard s qp).pending = s.pending := rfl

/-! A change of the PTP state. -/

@[simp] theorem modPtp_regs (f : Ptp → Ptp) : (modPtp s f).regs = s.regs := rfl
@[simp] theorem modPtp_shadow (f : Ptp → Ptp) : (modPtp s f).shadow = s.shadow := rfl
@[simp] theorem modPtp_cyc (f : Ptp → Ptp) : (modPtp s f).cyc = s.cyc := rfl
@[simp] theorem modPtp_dtc (f : Ptp → Ptp) : (modPtp s f).dtc = s.dtc := rfl
@[simp] theorem modPtp_blocks (f : Ptp → Ptp) : (modPtp s f).blocks = s.blocks := rfl
@[simp] theorem modPtp_regions (f : Ptp → Ptp) : (modPtp s f).regions = s.regions := rfl
@[simp] theorem modPtp_halves (f : Ptp → Ptp) : (modPtp s f).halves = s.halves := rfl
@[simp] theorem modPtp_mem (f : Ptp → Ptp) : (modPtp s f).mem = s.mem := rfl
@[simp] theorem modPtp_stk (f : Ptp → Ptp) : (modPtp s f).stk = s.stk := rfl
@[simp] theorem modPtp_hinge (f : Ptp → Ptp) : (modPtp s f).hinge = s.hinge := rfl
@[simp] theorem modPtp_launches (f : Ptp → Ptp) : (modPtp s f).launches = s.launches := rfl
@[simp] theorem modPtp_barriers (f : Ptp → Ptp) : (modPtp s f).barriers = s.barriers := rfl
@[simp] theorem modPtp_flagReqs (f : Ptp → Ptp) : (modPtp s f).flagReqs = s.flagReqs := rfl
@[simp] theorem modPtp_comps (f : Ptp → Ptp) : (modPtp s f).comps = s.comps := rfl
@[simp] theorem modPtp_rings (f : Ptp → Ptp) : (modPtp s f).rings = s.rings := rfl
@[simp] theorem modPtp_flash (f : Ptp → Ptp) : (modPtp s f).flash = s.flash := rfl
@[simp] theorem modPtp_fuses (f : Ptp → Ptp) : (modPtp s f).fuses = s.fuses := rfl
@[simp] theorem modPtp_krg (f : Ptp → Ptp) : (modPtp s f).krg = s.krg := rfl
@[simp] theorem modPtp_lkp (f : Ptp → Ptp) : (modPtp s f).lkp = s.lkp := rfl
@[simp] theorem modPtp_hlt (f : Ptp → Ptp) : (modPtp s f).hlt = s.hlt := rfl
@[simp] theorem modPtp_power (f : Ptp → Ptp) : (modPtp s f).power = s.power := rfl
@[simp] theorem modPtp_i3c (f : Ptp → Ptp) : (modPtp s f).i3c = s.i3c := rfl
@[simp] theorem modPtp_jtag (f : Ptp → Ptp) : (modPtp s f).jtag = s.jtag := rfl
@[simp] theorem modPtp_dtcPs (f : Ptp → Ptp) : (modPtp s f).dtcPs = s.dtcPs := rfl
@[simp] theorem modPtp_ctxs (f : Ptp → Ptp) : (modPtp s f).ctxs = s.ctxs := rfl
@[simp] theorem modPtp_sessions (f : Ptp → Ptp) : (modPtp s f).sessions = s.sessions := rfl
@[simp] theorem modPtp_freeCtr (f : Ptp → Ptp) : (modPtp s f).freeCtr = s.freeCtr := rfl
@[simp] theorem modPtp_lastRead (f : Ptp → Ptp) : (modPtp s f).lastRead = s.lastRead := rfl
@[simp] theorem modPtp_pending (f : Ptp → Ptp) : (modPtp s f).pending = s.pending := rfl

/-! A change of the Hinge. -/

@[simp] theorem modHinge_regs (f : Hinge → Hinge) : (modHinge s f).regs = s.regs := rfl
@[simp] theorem modHinge_shadow (f : Hinge → Hinge) : (modHinge s f).shadow = s.shadow := rfl
@[simp] theorem modHinge_cyc (f : Hinge → Hinge) : (modHinge s f).cyc = s.cyc := rfl
@[simp] theorem modHinge_dtc (f : Hinge → Hinge) : (modHinge s f).dtc = s.dtc := rfl
@[simp] theorem modHinge_blocks (f : Hinge → Hinge) : (modHinge s f).blocks = s.blocks := rfl
@[simp] theorem modHinge_regions (f : Hinge → Hinge) : (modHinge s f).regions = s.regions := rfl
@[simp] theorem modHinge_halves (f : Hinge → Hinge) : (modHinge s f).halves = s.halves := rfl
@[simp] theorem modHinge_mem (f : Hinge → Hinge) : (modHinge s f).mem = s.mem := rfl
@[simp] theorem modHinge_stk (f : Hinge → Hinge) : (modHinge s f).stk = s.stk := rfl
@[simp] theorem modHinge_hinge (f : Hinge → Hinge) : (modHinge s f).hinge = f s.hinge := rfl
@[simp] theorem modHinge_launches (f : Hinge → Hinge) : (modHinge s f).launches = s.launches := rfl
@[simp] theorem modHinge_barriers (f : Hinge → Hinge) : (modHinge s f).barriers = s.barriers := rfl
@[simp] theorem modHinge_flagReqs (f : Hinge → Hinge) : (modHinge s f).flagReqs = s.flagReqs := rfl
@[simp] theorem modHinge_comps (f : Hinge → Hinge) : (modHinge s f).comps = s.comps := rfl
@[simp] theorem modHinge_rings (f : Hinge → Hinge) : (modHinge s f).rings = s.rings := rfl
@[simp] theorem modHinge_net (f : Hinge → Hinge) : (modHinge s f).net = s.net := rfl
@[simp] theorem modHinge_flash (f : Hinge → Hinge) : (modHinge s f).flash = s.flash := rfl
@[simp] theorem modHinge_fuses (f : Hinge → Hinge) : (modHinge s f).fuses = s.fuses := rfl
@[simp] theorem modHinge_krg (f : Hinge → Hinge) : (modHinge s f).krg = s.krg := rfl
@[simp] theorem modHinge_lkp (f : Hinge → Hinge) : (modHinge s f).lkp = s.lkp := rfl
@[simp] theorem modHinge_hlt (f : Hinge → Hinge) : (modHinge s f).hlt = s.hlt := rfl
@[simp] theorem modHinge_power (f : Hinge → Hinge) : (modHinge s f).power = s.power := rfl
@[simp] theorem modHinge_i3c (f : Hinge → Hinge) : (modHinge s f).i3c = s.i3c := rfl
@[simp] theorem modHinge_jtag (f : Hinge → Hinge) : (modHinge s f).jtag = s.jtag := rfl
@[simp] theorem modHinge_dtcPs (f : Hinge → Hinge) : (modHinge s f).dtcPs = s.dtcPs := rfl
@[simp] theorem modHinge_ctxs (f : Hinge → Hinge) : (modHinge s f).ctxs = s.ctxs := rfl
@[simp] theorem modHinge_sessions (f : Hinge → Hinge) : (modHinge s f).sessions = s.sessions := rfl
@[simp] theorem modHinge_freeCtr (f : Hinge → Hinge) : (modHinge s f).freeCtr = s.freeCtr := rfl
@[simp] theorem modHinge_lastRead (f : Hinge → Hinge) : (modHinge s f).lastRead = s.lastRead := rfl
@[simp] theorem modHinge_pending (f : Hinge → Hinge) : (modHinge s f).pending = s.pending := rfl

/-! A change of the power state. -/

@[simp] theorem modPower_regs (f : Power → Power) : (modPower s f).regs = s.regs := rfl
@[simp] theorem modPower_shadow (f : Power → Power) : (modPower s f).shadow = s.shadow := rfl
@[simp] theorem modPower_cyc (f : Power → Power) : (modPower s f).cyc = s.cyc := rfl
@[simp] theorem modPower_dtc (f : Power → Power) : (modPower s f).dtc = s.dtc := rfl
@[simp] theorem modPower_blocks (f : Power → Power) : (modPower s f).blocks = s.blocks := rfl
@[simp] theorem modPower_regions (f : Power → Power) : (modPower s f).regions = s.regions := rfl
@[simp] theorem modPower_halves (f : Power → Power) : (modPower s f).halves = s.halves := rfl
@[simp] theorem modPower_mem (f : Power → Power) : (modPower s f).mem = s.mem := rfl
@[simp] theorem modPower_stk (f : Power → Power) : (modPower s f).stk = s.stk := rfl
@[simp] theorem modPower_hinge (f : Power → Power) : (modPower s f).hinge = s.hinge := rfl
@[simp] theorem modPower_launches (f : Power → Power) : (modPower s f).launches = s.launches := rfl
@[simp] theorem modPower_barriers (f : Power → Power) : (modPower s f).barriers = s.barriers := rfl
@[simp] theorem modPower_flagReqs (f : Power → Power) : (modPower s f).flagReqs = s.flagReqs := rfl
@[simp] theorem modPower_comps (f : Power → Power) : (modPower s f).comps = s.comps := rfl
@[simp] theorem modPower_rings (f : Power → Power) : (modPower s f).rings = s.rings := rfl
@[simp] theorem modPower_net (f : Power → Power) : (modPower s f).net = s.net := rfl
@[simp] theorem modPower_flash (f : Power → Power) : (modPower s f).flash = s.flash := rfl
@[simp] theorem modPower_fuses (f : Power → Power) : (modPower s f).fuses = s.fuses := rfl
@[simp] theorem modPower_krg (f : Power → Power) : (modPower s f).krg = s.krg := rfl
@[simp] theorem modPower_lkp (f : Power → Power) : (modPower s f).lkp = s.lkp := rfl
@[simp] theorem modPower_hlt (f : Power → Power) : (modPower s f).hlt = s.hlt := rfl
@[simp] theorem modPower_power (f : Power → Power) : (modPower s f).power = f s.power := rfl
@[simp] theorem modPower_i3c (f : Power → Power) : (modPower s f).i3c = s.i3c := rfl
@[simp] theorem modPower_jtag (f : Power → Power) : (modPower s f).jtag = s.jtag := rfl
@[simp] theorem modPower_dtcPs (f : Power → Power) : (modPower s f).dtcPs = s.dtcPs := rfl
@[simp] theorem modPower_ctxs (f : Power → Power) : (modPower s f).ctxs = s.ctxs := rfl
@[simp] theorem modPower_sessions (f : Power → Power) : (modPower s f).sessions = s.sessions := rfl
@[simp] theorem modPower_freeCtr (f : Power → Power) : (modPower s f).freeCtr = s.freeCtr := rfl
@[simp] theorem modPower_lastRead (f : Power → Power) : (modPower s f).lastRead = s.lastRead := rfl
@[simp] theorem modPower_pending (f : Power → Power) : (modPower s f).pending = s.pending := rfl

/-! A write in a LIFE body. -/

@[simp] theorem lifeSet_regs (i b n v : Nat) : (lifeSet s i b n v).regs = s.regs := rfl
@[simp] theorem lifeSet_shadow (i b n v : Nat) : (lifeSet s i b n v).shadow = s.shadow := rfl
@[simp] theorem lifeSet_cyc (i b n v : Nat) : (lifeSet s i b n v).cyc = s.cyc := rfl
@[simp] theorem lifeSet_dtc (i b n v : Nat) : (lifeSet s i b n v).dtc = s.dtc := rfl
@[simp] theorem lifeSet_blocks (i b n v : Nat) : (lifeSet s i b n v).blocks = s.blocks := rfl
@[simp] theorem lifeSet_regions (i b n v : Nat) : (lifeSet s i b n v).regions = s.regions := rfl
@[simp] theorem lifeSet_halves (i b n v : Nat) : (lifeSet s i b n v).halves = s.halves := rfl
@[simp] theorem lifeSet_mem (i b n v : Nat) : (lifeSet s i b n v).mem = s.mem := rfl
@[simp] theorem lifeSet_stk (i b n v : Nat) : (lifeSet s i b n v).stk = s.stk := rfl
@[simp] theorem lifeSet_hinge (i b n v : Nat) : (lifeSet s i b n v).hinge = s.hinge := rfl
@[simp] theorem lifeSet_launches (i b n v : Nat) : (lifeSet s i b n v).launches = s.launches := rfl
@[simp] theorem lifeSet_barriers (i b n v : Nat) : (lifeSet s i b n v).barriers = s.barriers := rfl
@[simp] theorem lifeSet_flagReqs (i b n v : Nat) : (lifeSet s i b n v).flagReqs = s.flagReqs := rfl
@[simp] theorem lifeSet_comps (i b n v : Nat) : (lifeSet s i b n v).comps = s.comps := rfl
@[simp] theorem lifeSet_rings (i b n v : Nat) : (lifeSet s i b n v).rings = s.rings := rfl
@[simp] theorem lifeSet_net (i b n v : Nat) : (lifeSet s i b n v).net = s.net := rfl
@[simp] theorem lifeSet_flash (i b n v : Nat) : (lifeSet s i b n v).flash = s.flash := rfl
@[simp] theorem lifeSet_fuses (i b n v : Nat) : (lifeSet s i b n v).fuses = s.fuses := rfl
@[simp] theorem lifeSet_krg (i b n v : Nat) : (lifeSet s i b n v).krg = s.krg := rfl
@[simp] theorem lifeSet_lkp (i b n v : Nat) : (lifeSet s i b n v).lkp = s.lkp := rfl
@[simp] theorem lifeSet_power (i b n v : Nat) : (lifeSet s i b n v).power = s.power := rfl
@[simp] theorem lifeSet_i3c (i b n v : Nat) : (lifeSet s i b n v).i3c = s.i3c := rfl
@[simp] theorem lifeSet_jtag (i b n v : Nat) : (lifeSet s i b n v).jtag = s.jtag := rfl
@[simp] theorem lifeSet_dtcPs (i b n v : Nat) : (lifeSet s i b n v).dtcPs = s.dtcPs := rfl
@[simp] theorem lifeSet_ctxs (i b n v : Nat) : (lifeSet s i b n v).ctxs = s.ctxs := rfl
@[simp] theorem lifeSet_sessions (i b n v : Nat) : (lifeSet s i b n v).sessions = s.sessions := rfl
@[simp] theorem lifeSet_freeCtr (i b n v : Nat) : (lifeSet s i b n v).freeCtr = s.freeCtr := rfl
@[simp] theorem lifeSet_lastRead (i b n v : Nat) : (lifeSet s i b n v).lastRead = s.lastRead := rfl
@[simp] theorem lifeSet_pending (i b n v : Nat) : (lifeSet s i b n v).pending = s.pending := rfl

/-! A count in a LIFE body. -/

@[simp] theorem lifeAdd_regs (i b n k : Nat) : (lifeAdd s i b n k).regs = s.regs := rfl
@[simp] theorem lifeAdd_shadow (i b n k : Nat) : (lifeAdd s i b n k).shadow = s.shadow := rfl
@[simp] theorem lifeAdd_cyc (i b n k : Nat) : (lifeAdd s i b n k).cyc = s.cyc := rfl
@[simp] theorem lifeAdd_dtc (i b n k : Nat) : (lifeAdd s i b n k).dtc = s.dtc := rfl
@[simp] theorem lifeAdd_blocks (i b n k : Nat) : (lifeAdd s i b n k).blocks = s.blocks := rfl
@[simp] theorem lifeAdd_regions (i b n k : Nat) : (lifeAdd s i b n k).regions = s.regions := rfl
@[simp] theorem lifeAdd_halves (i b n k : Nat) : (lifeAdd s i b n k).halves = s.halves := rfl
@[simp] theorem lifeAdd_mem (i b n k : Nat) : (lifeAdd s i b n k).mem = s.mem := rfl
@[simp] theorem lifeAdd_stk (i b n k : Nat) : (lifeAdd s i b n k).stk = s.stk := rfl
@[simp] theorem lifeAdd_hinge (i b n k : Nat) : (lifeAdd s i b n k).hinge = s.hinge := rfl
@[simp] theorem lifeAdd_launches (i b n k : Nat) : (lifeAdd s i b n k).launches = s.launches := rfl
@[simp] theorem lifeAdd_barriers (i b n k : Nat) : (lifeAdd s i b n k).barriers = s.barriers := rfl
@[simp] theorem lifeAdd_flagReqs (i b n k : Nat) : (lifeAdd s i b n k).flagReqs = s.flagReqs := rfl
@[simp] theorem lifeAdd_comps (i b n k : Nat) : (lifeAdd s i b n k).comps = s.comps := rfl
@[simp] theorem lifeAdd_rings (i b n k : Nat) : (lifeAdd s i b n k).rings = s.rings := rfl
@[simp] theorem lifeAdd_net (i b n k : Nat) : (lifeAdd s i b n k).net = s.net := rfl
@[simp] theorem lifeAdd_flash (i b n k : Nat) : (lifeAdd s i b n k).flash = s.flash := rfl
@[simp] theorem lifeAdd_fuses (i b n k : Nat) : (lifeAdd s i b n k).fuses = s.fuses := rfl
@[simp] theorem lifeAdd_krg (i b n k : Nat) : (lifeAdd s i b n k).krg = s.krg := rfl
@[simp] theorem lifeAdd_lkp (i b n k : Nat) : (lifeAdd s i b n k).lkp = s.lkp := rfl
@[simp] theorem lifeAdd_power (i b n k : Nat) : (lifeAdd s i b n k).power = s.power := rfl
@[simp] theorem lifeAdd_i3c (i b n k : Nat) : (lifeAdd s i b n k).i3c = s.i3c := rfl
@[simp] theorem lifeAdd_jtag (i b n k : Nat) : (lifeAdd s i b n k).jtag = s.jtag := rfl
@[simp] theorem lifeAdd_dtcPs (i b n k : Nat) : (lifeAdd s i b n k).dtcPs = s.dtcPs := rfl
@[simp] theorem lifeAdd_ctxs (i b n k : Nat) : (lifeAdd s i b n k).ctxs = s.ctxs := rfl
@[simp] theorem lifeAdd_sessions (i b n k : Nat) : (lifeAdd s i b n k).sessions = s.sessions := rfl
@[simp] theorem lifeAdd_freeCtr (i b n k : Nat) : (lifeAdd s i b n k).freeCtr = s.freeCtr := rfl
@[simp] theorem lifeAdd_lastRead (i b n k : Nat) : (lifeAdd s i b n k).lastRead = s.lastRead := rfl
@[simp] theorem lifeAdd_pending (i b n k : Nat) : (lifeAdd s i b n k).pending = s.pending := rfl

/-! A reset held. -/

@[simp] theorem hold_regs (a : HeldAct) : (hold s a).regs = s.regs := rfl
@[simp] theorem hold_shadow (a : HeldAct) : (hold s a).shadow = s.shadow := rfl
@[simp] theorem hold_cyc (a : HeldAct) : (hold s a).cyc = s.cyc := rfl
@[simp] theorem hold_dtc (a : HeldAct) : (hold s a).dtc = s.dtc := rfl
@[simp] theorem hold_blocks (a : HeldAct) : (hold s a).blocks = s.blocks := rfl
@[simp] theorem hold_regions (a : HeldAct) : (hold s a).regions = s.regions := rfl
@[simp] theorem hold_halves (a : HeldAct) : (hold s a).halves = s.halves := rfl
@[simp] theorem hold_mem (a : HeldAct) : (hold s a).mem = s.mem := rfl
@[simp] theorem hold_stk (a : HeldAct) : (hold s a).stk = s.stk := rfl
@[simp] theorem hold_hinge (a : HeldAct) : (hold s a).hinge = s.hinge := rfl
@[simp] theorem hold_launches (a : HeldAct) : (hold s a).launches = s.launches := rfl
@[simp] theorem hold_barriers (a : HeldAct) : (hold s a).barriers = s.barriers := rfl
@[simp] theorem hold_flagReqs (a : HeldAct) : (hold s a).flagReqs = s.flagReqs := rfl
@[simp] theorem hold_comps (a : HeldAct) : (hold s a).comps = s.comps := rfl
@[simp] theorem hold_rings (a : HeldAct) : (hold s a).rings = s.rings := rfl
@[simp] theorem hold_net (a : HeldAct) : (hold s a).net = s.net := rfl
@[simp] theorem hold_flash (a : HeldAct) : (hold s a).flash = s.flash := rfl
@[simp] theorem hold_fuses (a : HeldAct) : (hold s a).fuses = s.fuses := rfl
@[simp] theorem hold_lkp (a : HeldAct) : (hold s a).lkp = s.lkp := rfl
@[simp] theorem hold_hlt (a : HeldAct) : (hold s a).hlt = s.hlt := rfl
@[simp] theorem hold_power (a : HeldAct) : (hold s a).power = s.power := rfl
@[simp] theorem hold_i3c (a : HeldAct) : (hold s a).i3c = s.i3c := rfl
@[simp] theorem hold_jtag (a : HeldAct) : (hold s a).jtag = s.jtag := rfl
@[simp] theorem hold_dtcPs (a : HeldAct) : (hold s a).dtcPs = s.dtcPs := rfl
@[simp] theorem hold_ctxs (a : HeldAct) : (hold s a).ctxs = s.ctxs := rfl
@[simp] theorem hold_sessions (a : HeldAct) : (hold s a).sessions = s.sessions := rfl
@[simp] theorem hold_freeCtr (a : HeldAct) : (hold s a).freeCtr = s.freeCtr := rfl
@[simp] theorem hold_lastRead (a : HeldAct) : (hold s a).lastRead = s.lastRead := rfl
@[simp] theorem hold_pending (a : HeldAct) : (hold s a).pending = s.pending := rfl

/-! A fresh nonce. -/

@[simp] theorem freshNonce_regs (n : BitVec 256) : (freshNonce s n).regs = s.regs := rfl
@[simp] theorem freshNonce_shadow (n : BitVec 256) : (freshNonce s n).shadow = s.shadow := rfl
@[simp] theorem freshNonce_cyc (n : BitVec 256) : (freshNonce s n).cyc = s.cyc := rfl
@[simp] theorem freshNonce_dtc (n : BitVec 256) : (freshNonce s n).dtc = s.dtc := rfl
@[simp] theorem freshNonce_blocks (n : BitVec 256) : (freshNonce s n).blocks = s.blocks := rfl
@[simp] theorem freshNonce_regions (n : BitVec 256) : (freshNonce s n).regions = s.regions := rfl
@[simp] theorem freshNonce_halves (n : BitVec 256) : (freshNonce s n).halves = s.halves := rfl
@[simp] theorem freshNonce_mem (n : BitVec 256) : (freshNonce s n).mem = s.mem := rfl
@[simp] theorem freshNonce_stk (n : BitVec 256) : (freshNonce s n).stk = s.stk := rfl
@[simp] theorem freshNonce_hinge (n : BitVec 256) : (freshNonce s n).hinge = s.hinge := rfl
@[simp] theorem freshNonce_launches (n : BitVec 256) : (freshNonce s n).launches = s.launches := rfl
@[simp] theorem freshNonce_barriers (n : BitVec 256) : (freshNonce s n).barriers = s.barriers := rfl
@[simp] theorem freshNonce_flagReqs (n : BitVec 256) : (freshNonce s n).flagReqs = s.flagReqs := rfl
@[simp] theorem freshNonce_comps (n : BitVec 256) : (freshNonce s n).comps = s.comps := rfl
@[simp] theorem freshNonce_rings (n : BitVec 256) : (freshNonce s n).rings = s.rings := rfl
@[simp] theorem freshNonce_net (n : BitVec 256) : (freshNonce s n).net = s.net := rfl
@[simp] theorem freshNonce_flash (n : BitVec 256) : (freshNonce s n).flash = s.flash := rfl
@[simp] theorem freshNonce_fuses (n : BitVec 256) : (freshNonce s n).fuses = s.fuses := rfl
@[simp] theorem freshNonce_krg (n : BitVec 256) : (freshNonce s n).krg = s.krg := rfl
@[simp] theorem freshNonce_lkp (n : BitVec 256) : (freshNonce s n).lkp = { s.lkp with nonce := some n } := rfl
@[simp] theorem freshNonce_hlt (n : BitVec 256) : (freshNonce s n).hlt = s.hlt := rfl
@[simp] theorem freshNonce_power (n : BitVec 256) : (freshNonce s n).power = s.power := rfl
@[simp] theorem freshNonce_i3c (n : BitVec 256) : (freshNonce s n).i3c = s.i3c := rfl
@[simp] theorem freshNonce_jtag (n : BitVec 256) : (freshNonce s n).jtag = s.jtag := rfl
@[simp] theorem freshNonce_dtcPs (n : BitVec 256) : (freshNonce s n).dtcPs = s.dtcPs := rfl
@[simp] theorem freshNonce_ctxs (n : BitVec 256) : (freshNonce s n).ctxs = s.ctxs := rfl
@[simp] theorem freshNonce_sessions (n : BitVec 256) : (freshNonce s n).sessions = s.sessions := rfl
@[simp] theorem freshNonce_freeCtr (n : BitVec 256) : (freshNonce s n).freeCtr = s.freeCtr := rfl
@[simp] theorem freshNonce_lastRead (n : BitVec 256) : (freshNonce s n).lastRead = s.lastRead := rfl
@[simp] theorem freshNonce_pending (n : BitVec 256) : (freshNonce s n).pending = s.pending := rfl

/-! A field of a commit register. -/

@[simp] theorem setCommit_shadow (g : Group) (hi lo v : Nat) : (setCommit s g hi lo v).shadow = s.shadow := rfl
@[simp] theorem setCommit_cyc (g : Group) (hi lo v : Nat) : (setCommit s g hi lo v).cyc = s.cyc := rfl
@[simp] theorem setCommit_dtc (g : Group) (hi lo v : Nat) : (setCommit s g hi lo v).dtc = s.dtc := rfl
@[simp] theorem setCommit_blocks (g : Group) (hi lo v : Nat) : (setCommit s g hi lo v).blocks = s.blocks := rfl
@[simp] theorem setCommit_regions (g : Group) (hi lo v : Nat) : (setCommit s g hi lo v).regions = s.regions := rfl
@[simp] theorem setCommit_halves (g : Group) (hi lo v : Nat) : (setCommit s g hi lo v).halves = s.halves := rfl
@[simp] theorem setCommit_mem (g : Group) (hi lo v : Nat) : (setCommit s g hi lo v).mem = s.mem := rfl
@[simp] theorem setCommit_stk (g : Group) (hi lo v : Nat) : (setCommit s g hi lo v).stk = s.stk := rfl
@[simp] theorem setCommit_hinge (g : Group) (hi lo v : Nat) : (setCommit s g hi lo v).hinge = s.hinge := rfl
@[simp] theorem setCommit_launches (g : Group) (hi lo v : Nat) : (setCommit s g hi lo v).launches = s.launches := rfl
@[simp] theorem setCommit_barriers (g : Group) (hi lo v : Nat) : (setCommit s g hi lo v).barriers = s.barriers := rfl
@[simp] theorem setCommit_flagReqs (g : Group) (hi lo v : Nat) : (setCommit s g hi lo v).flagReqs = s.flagReqs := rfl
@[simp] theorem setCommit_comps (g : Group) (hi lo v : Nat) : (setCommit s g hi lo v).comps = s.comps := rfl
@[simp] theorem setCommit_rings (g : Group) (hi lo v : Nat) : (setCommit s g hi lo v).rings = s.rings := rfl
@[simp] theorem setCommit_net (g : Group) (hi lo v : Nat) : (setCommit s g hi lo v).net = s.net := rfl
@[simp] theorem setCommit_flash (g : Group) (hi lo v : Nat) : (setCommit s g hi lo v).flash = s.flash := rfl
@[simp] theorem setCommit_fuses (g : Group) (hi lo v : Nat) : (setCommit s g hi lo v).fuses = s.fuses := rfl
@[simp] theorem setCommit_krg (g : Group) (hi lo v : Nat) : (setCommit s g hi lo v).krg = s.krg := rfl
@[simp] theorem setCommit_lkp (g : Group) (hi lo v : Nat) : (setCommit s g hi lo v).lkp = s.lkp := rfl
@[simp] theorem setCommit_hlt (g : Group) (hi lo v : Nat) : (setCommit s g hi lo v).hlt = s.hlt := rfl
@[simp] theorem setCommit_power (g : Group) (hi lo v : Nat) : (setCommit s g hi lo v).power = s.power := rfl
@[simp] theorem setCommit_i3c (g : Group) (hi lo v : Nat) : (setCommit s g hi lo v).i3c = s.i3c := rfl
@[simp] theorem setCommit_jtag (g : Group) (hi lo v : Nat) : (setCommit s g hi lo v).jtag = s.jtag := rfl
@[simp] theorem setCommit_dtcPs (g : Group) (hi lo v : Nat) : (setCommit s g hi lo v).dtcPs = s.dtcPs := rfl
@[simp] theorem setCommit_ctxs (g : Group) (hi lo v : Nat) : (setCommit s g hi lo v).ctxs = s.ctxs := rfl
@[simp] theorem setCommit_sessions (g : Group) (hi lo v : Nat) : (setCommit s g hi lo v).sessions = s.sessions := rfl
@[simp] theorem setCommit_freeCtr (g : Group) (hi lo v : Nat) : (setCommit s g hi lo v).freeCtr = s.freeCtr := rfl
@[simp] theorem setCommit_lastRead (g : Group) (hi lo v : Nat) : (setCommit s g hi lo v).lastRead = s.lastRead := rfl
@[simp] theorem setCommit_pending (g : Group) (hi lo v : Nat) : (setCommit s g hi lo v).pending = s.pending := rfl

/-! A cache line used. -/

@[simp] theorem mscTouch_regs (a : Nat) (c : MscLine) : (mscTouch s a c).regs = s.regs := rfl
@[simp] theorem mscTouch_shadow (a : Nat) (c : MscLine) : (mscTouch s a c).shadow = s.shadow := rfl
@[simp] theorem mscTouch_cyc (a : Nat) (c : MscLine) : (mscTouch s a c).cyc = s.cyc := rfl
@[simp] theorem mscTouch_dtc (a : Nat) (c : MscLine) : (mscTouch s a c).dtc = s.dtc := rfl
@[simp] theorem mscTouch_blocks (a : Nat) (c : MscLine) : (mscTouch s a c).blocks = s.blocks := rfl
@[simp] theorem mscTouch_regions (a : Nat) (c : MscLine) : (mscTouch s a c).regions = s.regions := rfl
@[simp] theorem mscTouch_mem (a : Nat) (c : MscLine) : (mscTouch s a c).mem = s.mem := rfl
@[simp] theorem mscTouch_stk (a : Nat) (c : MscLine) : (mscTouch s a c).stk = s.stk := rfl
@[simp] theorem mscTouch_hinge (a : Nat) (c : MscLine) : (mscTouch s a c).hinge = s.hinge := rfl
@[simp] theorem mscTouch_launches (a : Nat) (c : MscLine) : (mscTouch s a c).launches = s.launches := rfl
@[simp] theorem mscTouch_barriers (a : Nat) (c : MscLine) : (mscTouch s a c).barriers = s.barriers := rfl
@[simp] theorem mscTouch_flagReqs (a : Nat) (c : MscLine) : (mscTouch s a c).flagReqs = s.flagReqs := rfl
@[simp] theorem mscTouch_comps (a : Nat) (c : MscLine) : (mscTouch s a c).comps = s.comps := rfl
@[simp] theorem mscTouch_rings (a : Nat) (c : MscLine) : (mscTouch s a c).rings = s.rings := rfl
@[simp] theorem mscTouch_net (a : Nat) (c : MscLine) : (mscTouch s a c).net = s.net := rfl
@[simp] theorem mscTouch_flash (a : Nat) (c : MscLine) : (mscTouch s a c).flash = s.flash := rfl
@[simp] theorem mscTouch_fuses (a : Nat) (c : MscLine) : (mscTouch s a c).fuses = s.fuses := rfl
@[simp] theorem mscTouch_krg (a : Nat) (c : MscLine) : (mscTouch s a c).krg = s.krg := rfl
@[simp] theorem mscTouch_lkp (a : Nat) (c : MscLine) : (mscTouch s a c).lkp = s.lkp := rfl
@[simp] theorem mscTouch_hlt (a : Nat) (c : MscLine) : (mscTouch s a c).hlt = s.hlt := rfl
@[simp] theorem mscTouch_power (a : Nat) (c : MscLine) : (mscTouch s a c).power = s.power := rfl
@[simp] theorem mscTouch_i3c (a : Nat) (c : MscLine) : (mscTouch s a c).i3c = s.i3c := rfl
@[simp] theorem mscTouch_jtag (a : Nat) (c : MscLine) : (mscTouch s a c).jtag = s.jtag := rfl
@[simp] theorem mscTouch_dtcPs (a : Nat) (c : MscLine) : (mscTouch s a c).dtcPs = s.dtcPs := rfl
@[simp] theorem mscTouch_ctxs (a : Nat) (c : MscLine) : (mscTouch s a c).ctxs = s.ctxs := rfl
@[simp] theorem mscTouch_sessions (a : Nat) (c : MscLine) : (mscTouch s a c).sessions = s.sessions := rfl
@[simp] theorem mscTouch_freeCtr (a : Nat) (c : MscLine) : (mscTouch s a c).freeCtr = s.freeCtr := rfl
@[simp] theorem mscTouch_lastRead (a : Nat) (c : MscLine) : (mscTouch s a c).lastRead = s.lastRead := rfl
@[simp] theorem mscTouch_pending (a : Nat) (c : MscLine) : (mscTouch s a c).pending = s.pending := rfl

/-! A cache line dropped. -/

@[simp] theorem mscDrop_regs (a : Nat) (c : MscLine) : (mscDrop s a c).regs = s.regs := rfl
@[simp] theorem mscDrop_shadow (a : Nat) (c : MscLine) : (mscDrop s a c).shadow = s.shadow := rfl
@[simp] theorem mscDrop_cyc (a : Nat) (c : MscLine) : (mscDrop s a c).cyc = s.cyc := rfl
@[simp] theorem mscDrop_dtc (a : Nat) (c : MscLine) : (mscDrop s a c).dtc = s.dtc := rfl
@[simp] theorem mscDrop_blocks (a : Nat) (c : MscLine) : (mscDrop s a c).blocks = s.blocks := rfl
@[simp] theorem mscDrop_regions (a : Nat) (c : MscLine) : (mscDrop s a c).regions = s.regions := rfl
@[simp] theorem mscDrop_mem (a : Nat) (c : MscLine) : (mscDrop s a c).mem = s.mem := rfl
@[simp] theorem mscDrop_stk (a : Nat) (c : MscLine) : (mscDrop s a c).stk = s.stk := rfl
@[simp] theorem mscDrop_hinge (a : Nat) (c : MscLine) : (mscDrop s a c).hinge = s.hinge := rfl
@[simp] theorem mscDrop_launches (a : Nat) (c : MscLine) : (mscDrop s a c).launches = s.launches := rfl
@[simp] theorem mscDrop_barriers (a : Nat) (c : MscLine) : (mscDrop s a c).barriers = s.barriers := rfl
@[simp] theorem mscDrop_flagReqs (a : Nat) (c : MscLine) : (mscDrop s a c).flagReqs = s.flagReqs := rfl
@[simp] theorem mscDrop_comps (a : Nat) (c : MscLine) : (mscDrop s a c).comps = s.comps := rfl
@[simp] theorem mscDrop_rings (a : Nat) (c : MscLine) : (mscDrop s a c).rings = s.rings := rfl
@[simp] theorem mscDrop_net (a : Nat) (c : MscLine) : (mscDrop s a c).net = s.net := rfl
@[simp] theorem mscDrop_flash (a : Nat) (c : MscLine) : (mscDrop s a c).flash = s.flash := rfl
@[simp] theorem mscDrop_fuses (a : Nat) (c : MscLine) : (mscDrop s a c).fuses = s.fuses := rfl
@[simp] theorem mscDrop_krg (a : Nat) (c : MscLine) : (mscDrop s a c).krg = s.krg := rfl
@[simp] theorem mscDrop_lkp (a : Nat) (c : MscLine) : (mscDrop s a c).lkp = s.lkp := rfl
@[simp] theorem mscDrop_hlt (a : Nat) (c : MscLine) : (mscDrop s a c).hlt = s.hlt := rfl
@[simp] theorem mscDrop_power (a : Nat) (c : MscLine) : (mscDrop s a c).power = s.power := rfl
@[simp] theorem mscDrop_i3c (a : Nat) (c : MscLine) : (mscDrop s a c).i3c = s.i3c := rfl
@[simp] theorem mscDrop_jtag (a : Nat) (c : MscLine) : (mscDrop s a c).jtag = s.jtag := rfl
@[simp] theorem mscDrop_dtcPs (a : Nat) (c : MscLine) : (mscDrop s a c).dtcPs = s.dtcPs := rfl
@[simp] theorem mscDrop_ctxs (a : Nat) (c : MscLine) : (mscDrop s a c).ctxs = s.ctxs := rfl
@[simp] theorem mscDrop_sessions (a : Nat) (c : MscLine) : (mscDrop s a c).sessions = s.sessions := rfl
@[simp] theorem mscDrop_freeCtr (a : Nat) (c : MscLine) : (mscDrop s a c).freeCtr = s.freeCtr := rfl
@[simp] theorem mscDrop_lastRead (a : Nat) (c : MscLine) : (mscDrop s a c).lastRead = s.lastRead := rfl
@[simp] theorem mscDrop_pending (a : Nat) (c : MscLine) : (mscDrop s a c).pending = s.pending := rfl

/-! A sequencer stopped. -/

@[simp] theorem stopBlk_regs (b : Fin 48) : (stopBlk s b).regs = s.regs := rfl
@[simp] theorem stopBlk_shadow (b : Fin 48) : (stopBlk s b).shadow = s.shadow := rfl
@[simp] theorem stopBlk_cyc (b : Fin 48) : (stopBlk s b).cyc = s.cyc := rfl
@[simp] theorem stopBlk_dtc (b : Fin 48) : (stopBlk s b).dtc = s.dtc := rfl
@[simp] theorem stopBlk_regions (b : Fin 48) : (stopBlk s b).regions = s.regions := rfl
@[simp] theorem stopBlk_halves (b : Fin 48) : (stopBlk s b).halves = s.halves := rfl
@[simp] theorem stopBlk_mem (b : Fin 48) : (stopBlk s b).mem = s.mem := rfl
@[simp] theorem stopBlk_stk (b : Fin 48) : (stopBlk s b).stk = s.stk := rfl
@[simp] theorem stopBlk_hinge (b : Fin 48) : (stopBlk s b).hinge = s.hinge := rfl
@[simp] theorem stopBlk_launches (b : Fin 48) : (stopBlk s b).launches = s.launches := rfl
@[simp] theorem stopBlk_barriers (b : Fin 48) : (stopBlk s b).barriers = s.barriers := rfl
@[simp] theorem stopBlk_flagReqs (b : Fin 48) : (stopBlk s b).flagReqs = s.flagReqs := rfl
@[simp] theorem stopBlk_comps (b : Fin 48) : (stopBlk s b).comps = s.comps := rfl
@[simp] theorem stopBlk_rings (b : Fin 48) : (stopBlk s b).rings = s.rings := rfl
@[simp] theorem stopBlk_net (b : Fin 48) : (stopBlk s b).net = s.net := rfl
@[simp] theorem stopBlk_flash (b : Fin 48) : (stopBlk s b).flash = s.flash := rfl
@[simp] theorem stopBlk_fuses (b : Fin 48) : (stopBlk s b).fuses = s.fuses := rfl
@[simp] theorem stopBlk_krg (b : Fin 48) : (stopBlk s b).krg = s.krg := rfl
@[simp] theorem stopBlk_lkp (b : Fin 48) : (stopBlk s b).lkp = s.lkp := rfl
@[simp] theorem stopBlk_hlt (b : Fin 48) : (stopBlk s b).hlt = s.hlt := rfl
@[simp] theorem stopBlk_power (b : Fin 48) : (stopBlk s b).power = s.power := rfl
@[simp] theorem stopBlk_i3c (b : Fin 48) : (stopBlk s b).i3c = s.i3c := rfl
@[simp] theorem stopBlk_jtag (b : Fin 48) : (stopBlk s b).jtag = s.jtag := rfl
@[simp] theorem stopBlk_dtcPs (b : Fin 48) : (stopBlk s b).dtcPs = s.dtcPs := rfl
@[simp] theorem stopBlk_ctxs (b : Fin 48) : (stopBlk s b).ctxs = s.ctxs := rfl
@[simp] theorem stopBlk_sessions (b : Fin 48) : (stopBlk s b).sessions = s.sessions := rfl
@[simp] theorem stopBlk_freeCtr (b : Fin 48) : (stopBlk s b).freeCtr = s.freeCtr := rfl
@[simp] theorem stopBlk_lastRead (b : Fin 48) : (stopBlk s b).lastRead = s.lastRead := rfl
@[simp] theorem stopBlk_pending (b : Fin 48) : (stopBlk s b).pending = s.pending := rfl

/-! Symbols corrected. -/

@[simp] theorem corrected_shadow (st n : Nat) : (corrected s st n).shadow = s.shadow := rfl
@[simp] theorem corrected_cyc (st n : Nat) : (corrected s st n).cyc = s.cyc := rfl
@[simp] theorem corrected_dtc (st n : Nat) : (corrected s st n).dtc = s.dtc := rfl
@[simp] theorem corrected_blocks (st n : Nat) : (corrected s st n).blocks = s.blocks := rfl
@[simp] theorem corrected_regions (st n : Nat) : (corrected s st n).regions = s.regions := rfl
@[simp] theorem corrected_halves (st n : Nat) : (corrected s st n).halves = s.halves := rfl
@[simp] theorem corrected_mem (st n : Nat) : (corrected s st n).mem = s.mem := rfl
@[simp] theorem corrected_stk (st n : Nat) : (corrected s st n).stk = s.stk := rfl
@[simp] theorem corrected_hinge (st n : Nat) : (corrected s st n).hinge = s.hinge := rfl
@[simp] theorem corrected_launches (st n : Nat) : (corrected s st n).launches = s.launches := rfl
@[simp] theorem corrected_barriers (st n : Nat) : (corrected s st n).barriers = s.barriers := rfl
@[simp] theorem corrected_flagReqs (st n : Nat) : (corrected s st n).flagReqs = s.flagReqs := rfl
@[simp] theorem corrected_comps (st n : Nat) : (corrected s st n).comps = s.comps := rfl
@[simp] theorem corrected_rings (st n : Nat) : (corrected s st n).rings = s.rings := rfl
@[simp] theorem corrected_net (st n : Nat) : (corrected s st n).net = s.net := rfl
@[simp] theorem corrected_flash (st n : Nat) : (corrected s st n).flash = s.flash := rfl
@[simp] theorem corrected_fuses (st n : Nat) : (corrected s st n).fuses = s.fuses := rfl
@[simp] theorem corrected_krg (st n : Nat) : (corrected s st n).krg = s.krg := rfl
@[simp] theorem corrected_lkp (st n : Nat) : (corrected s st n).lkp = s.lkp := rfl
@[simp] theorem corrected_power (st n : Nat) : (corrected s st n).power = s.power := rfl
@[simp] theorem corrected_i3c (st n : Nat) : (corrected s st n).i3c = s.i3c := rfl
@[simp] theorem corrected_jtag (st n : Nat) : (corrected s st n).jtag = s.jtag := rfl
@[simp] theorem corrected_dtcPs (st n : Nat) : (corrected s st n).dtcPs = s.dtcPs := rfl
@[simp] theorem corrected_ctxs (st n : Nat) : (corrected s st n).ctxs = s.ctxs := rfl
@[simp] theorem corrected_sessions (st n : Nat) : (corrected s st n).sessions = s.sessions := rfl
@[simp] theorem corrected_freeCtr (st n : Nat) : (corrected s st n).freeCtr = s.freeCtr := rfl
@[simp] theorem corrected_lastRead (st n : Nat) : (corrected s st n).lastRead = s.lastRead := rfl
@[simp] theorem corrected_pending (st n : Nat) : (corrected s st n).pending = s.pending := rfl

end Sys2Proof.Machine
end

