-- ==== Sys2Proof/Laws/Store.lean ====
section
/-! SUPPORT. Sparse stores: what a write does to every read, and that a write keeps the canonical form. -/

namespace Sys2Proof.Machine

variable {w : Nat} (d : Nat → BitVec w)

/-- Every listed cell has a key of at least `b`, and the form of a rising store from `b` on. -/
def risingFrom (b : Nat) : Store w → Bool
  | [] => true
  | c :: m => c.2 != d c.1 && decide (b ≤ c.1) && risingFrom (c.1 + 1) m

/-- The canonical form is a rising store from 0. -/
theorem swf_iff_rising (m : Store w) : swf d m = risingFrom d 0 m := by
  have h : ∀ (m : Store w) (c : Nat × BitVec w), (swf d (c :: m)) = (c.2 != d c.1 && risingFrom d (c.1 + 1) m) := by
    intro m
    induction m with
    | nil => intro c; simp [swf, risingFrom]
    | cons a m ih =>
      intro c
      rw [swf, ih a, risingFrom]
      by_cases h1 : c.1 < a.1
      · have h2 : c.1 + 1 ≤ a.1 := h1
        simp [h1, h2]
      · have h2 : ¬ (c.1 + 1 ≤ a.1) := h1
        simp [h1, h2]
  cases m with
  | nil => rfl
  | cons c m => rw [h, risingFrom]; simp

/-- A rising store from `b` is rising from any lower key. -/
theorem risingFrom_mono {b b' : Nat} (hb : b' ≤ b) : ∀ m : Store w, risingFrom d b m = true → risingFrom d b' m = true
  | [], _ => rfl
  | c :: m, h => by
    simp only [risingFrom, Bool.and_eq_true, decide_eq_true_eq] at h ⊢
    exact ⟨⟨h.1.1, by omega⟩, h.2⟩

/-- Filtering keeps a rising store. -/
theorem risingFrom_filter (p : Nat × BitVec w → Bool) : ∀ (m : Store w) (b : Nat), risingFrom d b m = true →
    risingFrom d b (m.filter p) = true
  | [], _, _ => rfl
  | c :: m, b, h => by
    simp only [risingFrom, Bool.and_eq_true, decide_eq_true_eq] at h
    rw [List.filter_cons]
    split
    · simp only [risingFrom, Bool.and_eq_true, decide_eq_true_eq]
      exact ⟨h.1, risingFrom_filter p m _ h.2⟩
    · exact risingFrom_mono d (by omega) _ (risingFrom_filter p m _ h.2)

/-- A rising store whose keys are below `e`, followed by one rising from `e`. -/
theorem risingFrom_append (e : Nat) (n : Store w) (hn : risingFrom d e n = true) :
    ∀ (m : Store w) (b : Nat), b ≤ e → risingFrom d b m = true → (∀ c ∈ m, c.1 < e) → risingFrom d b (m ++ n) = true
  | [], b, hb, _, _ => risingFrom_mono d hb n hn
  | c :: m, b, _, h, hc => by
    simp only [risingFrom, Bool.and_eq_true, decide_eq_true_eq] at h
    simp only [List.cons_append, risingFrom, Bool.and_eq_true, decide_eq_true_eq]
    refine ⟨h.1, risingFrom_append e n hn m _ ?_ h.2 (fun x hx => hc x (List.mem_cons_of_mem _ hx))⟩
    exact hc c List.mem_cons_self

/-- The cells of values laid from `b` are rising from `b` and below `b` plus their number. -/
theorem scells_rising : ∀ (vs : List (BitVec w)) (b : Nat), risingFrom d b (scells d b vs) = true
  | [], _ => rfl
  | v :: vs, b => by
    rw [scells]
    split
    · exact risingFrom_mono d (Nat.le_succ b) _ (scells_rising vs (b + 1))
    · rename_i h
      simp only [risingFrom, Bool.and_eq_true, decide_eq_true_eq, bne_iff_ne]
      exact ⟨⟨h, le_refl b⟩, scells_rising vs (b + 1)⟩

theorem scells_mem : ∀ (vs : List (BitVec w)) (b : Nat) (c : Nat × BitVec w), c ∈ scells d b vs → b ≤ c.1 ∧ c.1 < b + vs.length
  | [], b, c, h => by simp [scells] at h
  | v :: vs, b, c, h => by
    rw [scells] at h
    split at h
    · have := scells_mem vs (b + 1) c h
      simp only [List.length_cons]; omega
    · rcases List.mem_cons.mp h with rfl | h
      · simp only [List.length_cons]; omega
      · have := scells_mem vs (b + 1) c h
        simp only [List.length_cons]; omega

/-- A write keeps the canonical form. -/
theorem sput_wf (m : Store w) (b : Nat) (vs : List (BitVec w)) (h : swf d m = true) : swf d (sput d m b vs) = true := by
  rw [swf_iff_rising] at h ⊢
  have hi : risingFrom d (b + vs.length) (m.filter (fun c => decide (b + vs.length ≤ c.1))) = true := by
    have g : ∀ (m : Store w) (x : Nat), risingFrom d x m = true →
        risingFrom d (b + vs.length) (m.filter (fun c => decide (b + vs.length ≤ c.1))) = true := by
      intro m
      induction m with
      | nil => intro _ _; rfl
      | cons c m ih =>
        intro x hx
        simp only [risingFrom, Bool.and_eq_true, decide_eq_true_eq] at hx
        rw [List.filter_cons]
        split
        · rename_i hc
          simp only [risingFrom, Bool.and_eq_true, decide_eq_true_eq]
          exact ⟨⟨hx.1.1, by simpa using hc⟩, risingFrom_filter d _ m _ hx.2⟩
        · exact ih _ hx.2
    exact g m 0 h
  have mid := risingFrom_append d (b + vs.length) _ hi (scells d b vs) b (by omega) (scells_rising d vs b)
    (fun c hc => (scells_mem d vs b c hc).2)
  have low := risingFrom_append d b _ mid (m.filter (fun c => decide (c.1 < b))) 0 (Nat.zero_le _)
    (risingFrom_filter d _ m 0 h) (fun c hc => by simpa using (List.mem_filter.mp hc).2)
  simpa [sput, List.append_assoc] using low

theorem sset_wf (m : Store w) (k : Nat) (v : BitVec w) (h : swf d m = true) : swf d (sset d m k v) = true :=
  sput_wf d m k [v] h

/-- Reading a store that starts with cells of other keys. -/
theorem sget_append_of_not_mem (k : Nat) (m n : Store w) (h : ∀ c ∈ m, c.1 ≠ k) : sget d (m ++ n) k = sget d n k := by
  have : m.find? (fun c => c.1 == k) = none := by
    rw [List.find?_eq_none]; intro c hc; simpa using h c hc
  simp [sget, List.find?_append, this]

/-- Filtering by the key leaves the reads of the keys that stay. -/
theorem sget_filter (k : Nat) (p : Nat → Bool) (hp : p k = true) (m : Store w) :
    sget d (m.filter (fun c => p c.1)) k = sget d m k := by
  have : (m.filter (fun c => p c.1)).find? (fun c => c.1 == k) = m.find? (fun c => c.1 == k) := by
    rw [List.find?_filter]
    congr 1
    funext c
    by_cases hc : c.1 = k <;> simp [hc, hp]
  simp [sget, this]

/-- A store in which no key is `k` reads there as an unlisted one does. -/
theorem sget_of_not_mem (k : Nat) (m : Store w) (h : ∀ c ∈ m, c.1 ≠ k) : sget d m k = d k := by
  have := sget_append_of_not_mem d k m [] h
  simpa [sget] using this

/-- The cells of values laid from `b` read as those values. -/
theorem sget_scells : ∀ (vs : List (BitVec w)) (b i : Nat) (h : i < vs.length) (n : Store w), (∀ c ∈ n, b + vs.length ≤ c.1) →
    sget d (scells d b vs ++ n) (b + i) = vs[i]
  | v :: vs, b, 0, _, n, hn => by
    have hcs : ∀ c ∈ scells d (b + 1) vs ++ n, c.1 ≠ b := by
      intro c hc
      rcases List.mem_append.mp hc with hc | hc
      · have := (scells_mem d vs (b + 1) c hc).1; omega
      · have := hn c hc; simp only [List.length_cons] at this; omega
    rw [scells]
    split
    · rename_i hv
      exact (sget_of_not_mem d b _ hcs).trans hv.symm
    · simp [sget]
  | v :: vs, b, i + 1, h, n, hn => by
    have ih := sget_scells vs (b + 1) i (by simpa using h) n
      (by intro c hc; have := hn c hc; simp only [List.length_cons] at this; omega)
    have e : b + (i + 1) = b + 1 + i := by omega
    rw [scells, e]
    split
    · simpa using ih
    · have : ((b, v) :: scells d (b + 1) vs) ++ n = [(b, v)] ++ (scells d (b + 1) vs ++ n) := by simp
      rw [this, sget_append_of_not_mem d _ [(b, v)] _ (by intro c hc; simp only [List.mem_singleton] at hc; subst hc; simp; omega)]
      simpa using ih

/-- Read after write: a key that was written reads as the value. -/
theorem sget_sput_in (m : Store w) (b : Nat) (vs : List (BitVec w)) (i : Nat) (h : i < vs.length) :
    sget d (sput d m b vs) (b + i) = vs[i] := by
  rw [sput, List.append_assoc, sget_append_of_not_mem]
  · exact sget_scells d vs b i h _ (fun c hc => by simpa using (List.mem_filter.mp hc).2)
  · intro c hc; have := (List.mem_filter.mp hc).2; simp at this; omega

/-- Read after write: any other key reads as before, whatever an unlisted key reads as. -/
theorem sget_sput_out (d' : Nat → BitVec w) (m : Store w) (b : Nat) (vs : List (BitVec w)) (k : Nat)
    (h : k < b ∨ b + vs.length ≤ k) : sget d' (sput d m b vs) k = sget d' m k := by
  have hc : ∀ c ∈ scells d b vs, c.1 ≠ k := by intro c hc; have := scells_mem d vs b c hc; omega
  rw [sput]
  rcases h with h | h
  · have key : sget d' (m.filter (fun c => decide (c.1 < b)) ++ scells d b vs ++ m.filter (fun c => decide (b + vs.length ≤ c.1))) k
        = sget d' (m.filter (fun c => decide (c.1 < b))) k := by
      have e : ∀ c ∈ scells d b vs ++ m.filter (fun c => decide (b + vs.length ≤ c.1)), c.1 ≠ k := by
        intro c hh
        rcases List.mem_append.mp hh with hh | hh
        · exact hc c hh
        · have := (List.mem_filter.mp hh).2; simp at this; omega
      have f : (scells d b vs ++ m.filter (fun c => decide (b + vs.length ≤ c.1))).find? (fun c => c.1 == k) = none := by
        rw [List.find?_eq_none]; intro c hh; simpa using e c hh
      rw [List.append_assoc]
      simp only [sget, List.find?_append, f, Option.or_none]
    rw [key]
    exact sget_filter d' k (fun x => decide (x < b)) (by simpa using h) m
  · rw [List.append_assoc, sget_append_of_not_mem, sget_append_of_not_mem _ _ _ _ hc]
    · exact sget_filter d' k (fun x => decide (b + vs.length ≤ x)) (by simpa using h) m
    · intro c hh; have := (List.mem_filter.mp hh).2; simp at this; omega

@[simp] theorem sget_sset_same (m : Store w) (k : Nat) (v : BitVec w) : sget d (sset d m k v) k = v := by
  have := sget_sput_in d m k [v] 0 (by simp)
  simpa [sset] using this

/-- One written key leaves every other as it was. -/
theorem sget_sset_other (d' : Nat → BitVec w) (m : Store w) (k : Nat) (v : BitVec w) (a : Nat) (h : a ≠ k) :
    sget d' (sset d m k v) a = sget d' m a := by
  apply sget_sput_out
  simp only [List.length_singleton]; omega

/-- Reading consecutive keys is reading each of them. -/
theorem srange_eq_map (m : Store w) (b n : Nat) : srange d m b n = (List.range n).map (fun i => sget d m (b + i)) := by
  simp only [srange]
  apply List.map_congr_left
  intro i hi
  have hi := List.mem_range.mp hi
  have := sget_filter d (b + i) (fun k => decide (b ≤ k) && decide (k < b + n)) (by simp; omega) m
  simpa using this

@[simp] theorem srange_length (m : Store w) (b n : Nat) : (srange d m b n).length = n := by simp [srange]

/-- Read after write of a whole range. -/
theorem srange_sput_same (m : Store w) (b : Nat) (vs : List (BitVec w)) : srange d (sput d m b vs) b vs.length = vs := by
  rw [srange_eq_map]
  apply List.ext_getElem
  · simp
  · intro i h1 h2
    simp [sget_sput_in d m b vs i h2]

/-- A number's little-endian bytes read back as the number, modulo their range. -/
theorem leNat_toLe (n x : Nat) : leNat (toLe n x) = x % 256 ^ n := by
  induction n generalizing x with
  | zero => simp [toLe, leNat, Nat.mod_one]
  | succ n ih =>
    have h : x % (256 * 256 ^ n) = x % 256 + 256 * (x / 256 % 256 ^ n) := Nat.mod_mul
    have e : 256 ^ (n + 1) = 256 * 256 ^ n := by rw [pow_succ, Nat.mul_comm]
    rw [toLe, leNat, ih, e, h]
    rfl

theorem toLe_length (n x : Nat) : (toLe n x).length = n := by
  induction n generalizing x with
  | zero => rfl
  | succ n ih => rw [toLe, List.length_cons, ih]

end Sys2Proof.Machine
end

