-- ==== Sys2Proof/Laws/Ops.lean ====
section
/-! SUPPORT. What the shared operations leave as it was, each as one equation, and what halting a launch does to it. -/

namespace Sys2Proof.Machine

/-! ### Registers -/

/-- Places of one register's instances, and of other registers, differ where their addresses do. -/
theorem rreg_wreg_same (s : State) (r : Reg) (i : Nat) (v : Word) : rreg (wreg s r i v) r i = v := by
  simp [rreg]

theorem rreg_wreg_other (s : State) (r q : Reg) (i j : Nat) (v : Word) (h : regAddr q j ≠ regAddr r i) :
    rreg (wreg s r i v) q j = rreg s q j := by
  simp only [rreg, wreg_regs]
  exact sget_sset_other _ _ _ _ _ _ h

theorem rfld_wreg_other (s : State) (r q : Reg) (i j hi lo : Nat) (v : Word) (h : regAddr q j ≠ regAddr r i) :
    rfld (wreg s r i v) q j hi lo = rfld s q j hi lo := by
  simp [rfld, rreg_wreg_other s r q i j v h]

/-! ### Device memory -/

theorem memBytes_memPut_same (s : State) (a : Nat) (bs : List Byte) : memBytes (memPut s a bs) a bs.length = bs :=
  srange_sput_same _ _ _ _

theorem memByte_memPut_other (s : State) (a : Nat) (bs : List Byte) (x : Nat) (h : x < a ∨ a + bs.length ≤ x) :
    memByte (memPut s a bs) x = memByte s x :=
  sget_sput_out _ _ _ _ _ _ h

/-! ### Events and completions -/

theorem postEvent_frame (s : State) (ring code : Nat) (lid : Word) (aux2 : Nat) (data : List Byte) :
    postEvent s ring code lid aux2 data =
      { s with regs := (postEvent s ring code lid aux2 data).regs, comps := (postEvent s ring code lid aux2 data).comps } := by
  unfold postEvent
  split
  · rfl
  · split <;> rfl

theorem reportEvent_frame (s : State) (code : Nat) (lid : Word) (aux2 : Nat) :
    reportEvent s code lid aux2 =
      { s with regs := (reportEvent s code lid aux2).regs, comps := (reportEvent s code lid aux2).comps } :=
  postEvent_frame s 0 code lid aux2 []

theorem degraded_frame (s : State) (code aux2 : Nat) :
    degraded s code aux2 = { s with regs := (degraded s code aux2).regs, comps := (degraded s code aux2).comps } := by
  have h := reportEvent_frame s code 0 aux2
  unfold degraded
  generalize reportEvent s code 0 aux2 = u at h
  rw [h]
  rfl

theorem roleEvent_frame (s : State) (x : Nat) :
    roleEvent s x = { s with regs := (roleEvent s x).regs, comps := (roleEvent s x).comps } :=
  postEvent_frame s 0 0x5004 0 x []

/-- The completions of MARKs join those waiting. -/
theorem marks_frame (c : Completion) (ms : List OutCmd) : ∀ s : State,
    ms.foldl (fun s m => post s (cmdDone c.ring 1 0 m.cid 0 0 [])) s =
      { s with comps := s.comps ++ ms.map (fun m => cmdDone c.ring 1 0 m.cid 0 0 []) } := by
  induction ms with
  | nil => intro s; simp
  | cons m ms ih => intro s; rw [List.foldl_cons, ih]; simp [post, List.append_assoc]

theorem finishBy_frame (drop : List OutCmd → List OutCmd) (s : State) (c : Completion) :
    finishBy drop s c = { s with rings := (finishBy drop s c).rings, comps := (finishBy drop s c).comps } := by
  unfold finishBy
  split
  · rfl
  · simp only [marks_frame]; rfl

theorem finishCmd_frame (op : Nat) (s : State) (c : Completion) :
    finishCmd op s c = { s with rings := (finishCmd op s c).rings, comps := (finishCmd op s c).comps } :=
  finishBy_frame _ s c

@[simp] theorem finishCmd_launches (op : Nat) (s : State) (c : Completion) : (finishCmd op s c).launches = s.launches := by
  rw [finishCmd_frame]

/-- The completion of an open ring's command is the next to join those waiting; the MARKs it lets complete follow it. -/
theorem finishBy_comps (drop : List OutCmd → List OutCmd) (s : State) (c : Completion) (r : Ring) (h : getRing s c.ring = some r) :
    (finishBy drop s c).comps = s.comps ++ c ::
      ((drop r.outs).takeWhile (·.mark)).map (fun m => cmdDone c.ring 1 0 m.cid 0 0 []) := by
  unfold finishBy
  rw [h]
  dsimp only
  rw [marks_frame]
  simp [List.append_assoc]

/-! ### Halting -/

/-- A state that differs from another in its registers, launches, rings and completions only. -/
def Told (s u : State) : Prop :=
  u = { s with regs := u.regs, launches := u.launches, rings := u.rings, comps := u.comps }

theorem Told.trans {s u v : State} (h : Told s u) (k : Told u v) : Told s v := by
  unfold Told at *
  rw [k, h]

theorem told_modLaunch (s : State) (lid : BitVec 32) (f : Launch → Launch) : Told s (modLaunch s lid f) := rfl

theorem told_finishCmd (op : Nat) (s : State) (c : Completion) : Told s (finishCmd op s c) := by
  unfold Told
  rw [finishCmd_frame]

/-- A halt's event and its flag of HLT_EVT. -/
theorem told_haltEvent (s : State) (ring code : Nat) (lid : Word) (d : List Byte) :
    Told s (setEvt (postEvent s ring code lid 0 d) 4) := by
  unfold Told
  rw [postEvent_frame]
  rfl

theorem haltLaunch_told (s : State) (lid : BitVec 32) (code : Nat) (h : HaltAt) : Told s (haltLaunch s lid code h) := by
  have stop (u : State) (w : Option (StopCause × Bool × Nat)) : Told u (match w with
      | some (.command ring cid, _, _) => finishCmd 2 u (cmdDone ring 1 code cid lid 0 [])
      | _ => u) := by
    split
    · exact told_finishCmd _ _ _
    · rfl
  have resume (u : State) (w : Option (Nat × Word)) : Told u (match w with
      | some (ring, cid) => finishCmd 4 u (cmdDone ring 1 code cid lid 0 [])
      | none => u) := by
    split
    · exact told_finishCmd _ _ _
    · rfl
  unfold haltLaunch
  split
  · rfl
  · split
    case h_6 => split <;> first | rfl | exact (told_modLaunch _ _ _).trans (told_haltEvent _ _ _ _ _)
    case h_7 => rfl
    all_goals
      exact (((told_modLaunch _ _ _).trans (stop _ _)).trans (resume _ _)).trans (told_haltEvent _ _ _ _ _)

/-- A request of a unit that fails halts its launch; one of the device itself halts none. -/
theorem askHalt_told (s : State) (q : Asker) (code stack reg : Nat) : Told s (askHalt s q code stack reg) := by
  unfold askHalt
  split
  · rfl
  · rfl
  all_goals exact haltLaunch_told _ _ _ _

theorem haltLaunch_frame (s : State) (lid : BitVec 32) (code : Nat) (h : HaltAt) :
    haltLaunch s lid code h = { s with
      regs := (haltLaunch s lid code h).regs, launches := (haltLaunch s lid code h).launches,
      rings := (haltLaunch s lid code h).rings, comps := (haltLaunch s lid code h).comps } :=
  haltLaunch_told s lid code h

/-- `modFirst` changes what `find?` finds, where the change leaves it to be found. -/
theorem find_modFirst {α : Type} (p : α → Bool) (f : α → α) (hf : ∀ x, p (f x) = p x) (l : List α) :
    (modFirst p f l).find? p = (l.find? p).map f := by
  induction l with
  | nil => rfl
  | cons x l ih =>
    cases h : p x <;> simp [modFirst, h, hf, ih]

/-- It leaves alone what another test finds. -/
theorem find_modFirst_other {α : Type} (p q : α → Bool) (f : α → α) (hp : ∀ x, p x = true → q x = false)
    (hf : ∀ x, p x = true → q (f x) = false) (l : List α) : (modFirst p f l).find? q = l.find? q := by
  induction l with
  | nil => rfl
  | cons x l ih =>
    cases h : p x
    · cases k : q x <;> simp [modFirst, h, k, ih]
    · simp [modFirst, h, hp x h, hf x h]

theorem findLaunch_modLaunch_same (s : State) (lid : BitVec 32) (f : Launch → Launch) (l : Launch)
    (h : findLaunch s lid = some l) (hf : ∀ x, (f x).lid = x.lid) : findLaunch (modLaunch s lid f) lid = some (f l) := by
  unfold findLaunch at h ⊢
  rw [modLaunch_launches, find_modFirst _ _ (by simp [hf]), h]
  rfl

theorem findLaunch_modLaunch_other (s : State) (lid lid' : BitVec 32) (f : Launch → Launch) (hne : lid' ≠ lid)
    (hf : ∀ x, (f x).lid = x.lid) : findLaunch (modLaunch s lid f) lid' = findLaunch s lid' := by
  unfold findLaunch
  rw [modLaunch_launches]
  apply find_modFirst_other
  all_goals
    intro x hx
    simp only [decide_eq_true_eq] at hx
    simp [hf, hx, hne.symm]

/-- A running launch that halts stands halted, with the fault's code. -/
theorem haltLaunch_running (s : State) (lid : BitVec 32) (code : Nat) (h : HaltAt) (l : Launch)
    (hl : findLaunch s lid = some l) (hr : l.st = .running) :
    findLaunch (haltLaunch s lid code h) lid =
      some { l with st := .halted, fault := code, stop := none, resume := none } := by
  have base := findLaunch_modLaunch_same s lid
    (fun l => { l with st := .halted, fault := code, stop := none, resume := none }) l hl (fun _ => rfl)
  have event (u : State) (d : List Byte) :
      findLaunch (setEvt (postEvent u l.ring code lid 0 d) 4) lid = findLaunch u lid := by
    unfold findLaunch
    rw [setEvt_launches, postEvent_frame]
  have fin (op : Nat) (u : State) (x : Completion) : findLaunch (finishCmd op u x) lid = findLaunch u lid := by
    simp [findLaunch]
  unfold haltLaunch
  simp only [hl, hr]
  rw [event]
  split <;> split <;> simp only [fin, base]

/-! ### The Keyring, memory faults, stores -/

theorem krgReq_frame (s : State) (idx : Nat) (body : KBody) :
    krgReq s idx body = { s with krg := (krgReq s idx body).krg } := by
  unfold krgReq; dsimp only; split <;> rfl

theorem logMem_frame (s : State) (a code : Nat) : ∃ r x, logMem s a code = { s with regs := r, hlt := x } := by
  obtain ⟨x, hx⟩ : ∃ x, lifeAdd s (dpaChan s a).1 16 4 1 = { s with hlt := x } := ⟨_, rfl⟩
  unfold logMem
  dsimp only
  rw [hx]
  split <;> exact ⟨_, _, rfl⟩

theorem memFault_frame (s : State) (a code : Nat) (q : Asker) :
    ∃ r l g c x, memFault s a code q = { s with regs := r, launches := l, rings := g, comps := c, hlt := x } := by
  obtain ⟨r, x, h⟩ := logMem_frame s a code
  unfold memFault burstFault
  generalize logMem s a code = t at h ⊢
  have k := askHalt_told t q (0x3A00 + code) (dpaStack s a) (rreg t .stkElog (dpaStack s a)).toNat
  rw [List.foldl_cons, List.foldl_nil, k, h]
  exact ⟨_, _, _, _, _, rfl⟩

theorem writeBack_frame (s : State) (c : MscLine) : writeBack s c = { s with mem := (writeBack s c).mem } := by
  unfold writeBack; split <;> rfl

theorem dropStore_frame (s : State) (k : Nat) (p : PendStore) (ok : Bool) :
    dropStore s k p ok = { s with mem := (dropStore s k p ok).mem, flagReqs := (dropStore s k p ok).flagReqs } := by
  unfold dropStore; dsimp only; split <;> rfl

theorem dropConn_frame (s : State) (qp : BitVec 24) :
    dropConn s qp = { s with
      net := (dropConn s qp).net, rings := (dropConn s qp).rings, regs := (dropConn s qp).regs,
      comps := (dropConn s qp).comps } := by
  unfold dropConn
  split
  · rfl
  · dsimp only
    split
    · rw [roleEvent_frame]
    · rfl

theorem release_frame (s : State) (lid : BitVec 32) :
    release s lid = { s with
      blocks := (release s lid).blocks, regions := (release s lid).regions, halves := (release s lid).halves,
      barriers := (release s lid).barriers, flagReqs := (release s lid).flagReqs } := rfl

theorem endLaunch_frame (s : State) (l : Launch) (kind code : Nat) :
    ∃ a b c d e f g h, endLaunch s l kind code = { s with
      blocks := a, regions := b, halves := c, barriers := d, flagReqs := e, launches := f, rings := g, comps := h } := by
  have fin (op : Nat) (u : State) (x : Completion) (k : ∃ a b c d e f g h, u = { s with
      blocks := a, regions := b, halves := c, barriers := d, flagReqs := e, launches := f, rings := g, comps := h }) :
      ∃ a b c d e f g h, finishCmd op u x = { s with
        blocks := a, regions := b, halves := c, barriers := d, flagReqs := e, launches := f, rings := g, comps := h } := by
    obtain ⟨a, b, c, d, e, f, g, h, rfl⟩ := k
    rw [finishCmd_frame]
    exact ⟨_, _, _, _, _, _, _, _, rfl⟩
  have first := fin 1 { release s l.lid with launches := (release s l.lid).launches.erase l }
    (cmdDone l.ring kind code l.cid l.lid 0 []) ⟨_, _, _, _, _, _, _, _, rfl⟩
  unfold endLaunch
  dsimp only
  split <;> split <;> first
    | exact fin _ _ _ (fin _ _ _ first)
    | exact fin _ _ _ first
    | exact first

/-- The launches after one has ended. -/
theorem endLaunch_launches (s : State) (l : Launch) (kind code : Nat) :
    (endLaunch s l kind code).launches = s.launches.erase l := by
  unfold endLaunch
  dsimp only
  split <;> split <;> simp [release]

/-! ### Commits -/

/-- Applying a commit that is not pending changes nothing. -/
theorem configApply_idle (g : Group) (s : State) (h : pendingG s g = false) : configApply g s = s := by
  unfold configApply
  rw [if_neg (by simp [applyDue, h])]

theorem betweenPackets_idle (s : State) (hn : pendingG s .net = false) (hl : pendingG s .lat = false) : betweenPackets s = s := by
  unfold betweenPackets
  rw [configApply_idle _ _ hn, configApply_idle _ _ hl]

end Sys2Proof.Machine
end

