-- ==== Sys2Proof/Laws/Lanes.lean ====
section
/-! SUPPORT. What the failure of a lane can change: registers, links, LIFE bodies, the Keyring's queue, completions, and the launches
that a stack's loss halts (R422-R426). -/

namespace Sys2Proof.Machine

/-- `t` is `s` but for what a lane's failure can change. -/
def LaneChange (s t : State) : Prop :=
  t = { s with regs := t.regs, stk := t.stk, hlt := t.hlt, krg := t.krg, comps := t.comps, launches := t.launches, rings := t.rings }

theorem LaneChange.refl (s : State) : LaneChange s s := rfl

theorem LaneChange.trans {s t u : State} (h : LaneChange s t) (k : LaneChange t u) : LaneChange s u := by
  unfold LaneChange at *
  rw [k, h]

theorem Told.lane {s t : State} (h : Told s t) : LaneChange s t := by
  unfold LaneChange
  rw [show t = _ from h]

theorem LaneChange.mem {s t : State} (h : LaneChange s t) : t.mem = s.mem := by rw [show t = _ from h]

theorem LaneChange.halves {s t : State} (h : LaneChange s t) : t.halves = s.halves := by rw [show t = _ from h]

theorem krgReq_change (s : State) (i : Nat) (b : KBody) : LaneChange s (krgReq s i b) := by
  unfold LaneChange
  rw [krgReq_frame]

theorem modLink_change (s : State) (i : Fin 24) (d : LinkDir) (f : Link → Link) : LaneChange s (modLink s i d f) :=
  rfl

theorem haltLaunch_change (s : State) (lid : BitVec 32) (code : Nat) (h : HaltAt) : LaneChange s (haltLaunch s lid code h) :=
  (haltLaunch_told s lid code h).lane

theorem haltFold_change (code : Nat) (h : HaltAt) (l : List (BitVec 32)) :
    ∀ s : State, LaneChange s (l.foldl (fun s lid => haltLaunch s lid code h) s) := by
  induction l with
  | nil => exact LaneChange.refl
  | cons x l ih => intro s; rw [List.foldl_cons]; exact (haltLaunch_change s x code h).trans (ih _)

theorem reportEvent_change (s : State) (code : Nat) (lid : Word) (x : Nat) : LaneChange s (reportEvent s code lid x) := by
  unfold LaneChange
  rw [reportEvent_frame]

theorem degraded_change (s : State) (code x : Nat) : LaneChange s (degraded s code x) := by
  unfold LaneChange
  rw [degraded_frame]

theorem wfld_change (s : State) (r : Reg) (i hi lo v : Nat) : LaneChange s (wfld s r i hi lo v) := rfl

theorem stackDown_change (s : State) (i : Fin 24) (d : LinkDir) : LaneChange s (stackDown s i d) := by
  unfold stackDown
  dsimp only
  refine LaneChange.trans ?_ (krgReq_change _ _ _)
  refine LaneChange.trans ?_ (wfld_change _ _ _ _ _ _)
  refine (modLink_change s i d (fun k => { k with mode := .down, training := none, erased := none })).trans ?_
  unfold reportUnhalted
  split
  · exact (haltFold_change _ _ _ _).trans (reportEvent_change _ _ _ _)
  · exact haltFold_change _ _ _ _

theorem narrowLink_change (s : State) (i : Fin 24) (d : LinkDir) : LaneChange s (narrowLink s i d) := by
  unfold narrowLink
  dsimp only
  split
  · exact stackDown_change s i d
  · exact (modLink_change s i d _).trans (degraded_change _ _ _)

theorem loseLane_change (s : State) (i : Fin 24) (d : LinkDir) (l : Nat) (x : Bool) : LaneChange s (loseLane s i d l x) := by
  unfold loseLane
  dsimp only
  split
  · split
    · exact narrowLink_change s i _
    · split
      · exact modLink_change s i _ _
      · exact (modLink_change s i _ _).trans (degraded_change _ _ _)
  · split
    · exact modLink_change s i _ _
    · exact narrowLink_change s i _

theorem laneEvent_change (s : State) (i : Fin 24) : LaneChange s (laneEvent s i) := by
  unfold laneEvent
  refine LaneChange.trans ?_ (krgReq_change _ _ _)
  exact rfl

/-- The lane lost, by the link's mode. -/
theorem laneLost_change (s : State) (i : Fin 24) (d : LinkDir) (p : Nat) (used : Bool) (k : Link) :
    LaneChange s (match k.mode with
      | .full =>
        match k.carries d p with
        | some l => loseLane s i d l (decide (p = laneCount d))
        | none => s
      | .half => if used then narrowLink s i d else s
      | _ => narrowLink s i d) := by
  split
  · split
    · exact loseLane_change _ _ _ _ _
    · exact LaneChange.refl _
  · split
    · exact narrowLink_change _ _ _
    · exact LaneChange.refl _
  · exact narrowLink_change _ _ _

/-- What the failure of a lane does (R422-R426). -/
theorem laneFail_change (s : State) (i : Fin 24) (d : LinkDir) (p : Nat) : LaneChange s (laneFail s i d p) := by
  have h0 : ∀ n, LaneChange s (modLink (lifeSet (lifeAdd s i.val 24 2 1) i.val n 1 2) i d
      (fun k => { k with failed := insertNat p k.failed })) := fun n => rfl
  unfold laneFail
  dsimp only
  split
  · exact LaneChange.refl s
  · exact ((h0 _).trans (laneLost_change _ i d p _ _)).trans (laneEvent_change _ _)

/-- What noting a corrected burst's lanes does (R422). -/
theorem noteLanes_change (s : State) (i : Fin 24) (e : BurstErr) : LaneChange s (noteLanes s i e) := by
  have f : ∀ (l : List Nat) (u : State), LaneChange u (l.foldl (fun s p => laneFail s i .read p) u) := by
    intro l
    induction l with
    | nil => exact LaneChange.refl
    | cons x l ih => intro u; rw [List.foldl_cons]; exact (laneFail_change u i .read x).trans (ih _)
  unfold noteLanes
  dsimp only
  refine LaneChange.trans ?_ (f _ _)
  split
  · exact LaneChange.refl s
  · exact rfl

/-- A burst decoded: memory but for the record of damage, links, registers, LIFE bodies and what follows of a lane's failure. -/
theorem countCorr_change (s : State) (a : Nat) (e : BurstErr) :
    LaneChange { s with mem := { s.mem with damaged := s.mem.damaged.filter (· ≠ burstOf a) } } (countCorr s a e) := by
  unfold countCorr
  dsimp only
  refine LaneChange.trans ?_ (noteLanes_change _ _ _)
  exact rfl

/-- A memory fault of several requests halts their launches, and counts and logs once. -/
theorem burstFault_change (s : State) (a code : Nat) (l : List Asker) : LaneChange s (burstFault s a code l) := by
  have f (c st r : Nat) (l : List Asker) : ∀ u : State, LaneChange u (l.foldl (fun s q => askHalt s q c st r) u) := by
    induction l with
    | nil => exact LaneChange.refl
    | cons x l ih => intro u; rw [List.foldl_cons]; exact (askHalt_told u x c st r).lane.trans (ih _)
  unfold burstFault
  refine LaneChange.trans ?_ (f _ _ _ _ _)
  obtain ⟨r, x, h⟩ := logMem_frame s a code
  rw [h]
  rfl

end Sys2Proof.Machine
end

