-- ==== Sys2Proof/Laws/Memory.lean ====
section
/-! SUPPORT. Every operation on device memory keeps its canonical form; those that store nothing leave every byte. -/

namespace Sys2Proof.Machine

/-- The canonical form speaks of the bytes alone. -/
theorem Memory.wf_of_bytes {m m' : Mem} (h : m'.bytes = m.bytes) (hm : Memory.wf m = true) : Memory.wf m' = true := by
  simpa [Memory.wf, h] using hm

theorem reset_memory_wf : Memory.wf State.reset.mem = true := rfl

theorem memPut_wf (s : State) (a : Nat) (bs : List Byte) (h : Memory.wf s.mem = true) :
    Memory.wf (memPut s a bs).mem = true :=
  sput_wf _ _ _ _ h

/-! ### Operations that store nothing -/

@[simp] theorem issue_bytes (s : State) (u : WaitUnit) (lid : BitVec 32) (a : Nat) (bs : List (Byte × Byte)) (idx : Nat) :
    (issue s u lid a bs idx).mem.bytes = s.mem.bytes := rfl

@[simp] theorem damage_bytes (s : State) (a : Nat) : (damage s a).mem.bytes = s.mem.bytes := by
  unfold damage; split <;> rfl

@[simp] theorem countCorr_bytes (s : State) (a : Nat) (e : BurstErr) : (countCorr s a e).mem.bytes = s.mem.bytes := by
  rw [(countCorr_change s a e).mem]

@[simp] theorem burstFault_mem (s : State) (a code : Nat) (l : List Asker) : (burstFault s a code l).mem = s.mem :=
  (burstFault_change s a code l).mem

@[simp] theorem hingeSend_mem (s : State) (h c : Nat) : (hingeSend s h c).mem = s.mem := rfl

@[simp] theorem crossSend_mem (s : State) (h a : Nat) : (crossSend s h a).mem = s.mem := by
  unfold crossSend; split <;> rfl

/-- The copy of a commit writes registers. -/
theorem copyOver_frame (s : State) (g : Group) : copyOver s g = { s with regs := (copyOver s g).regs } := by
  unfold copyOver
  generalize groupRegs g = l
  induction l generalizing s with
  | nil => rfl
  | cons x l ih => rw [List.foldl_cons, ih]; rfl

/-- Applying a commit changes registers, the Hinge's credits, and with group LAT the bindings that end (R26, R37, R571). -/
theorem configApply_frame (g : Group) (s : State) : configApply g s =
    { s with regs := (configApply g s).regs, net := (configApply g s).net, hinge := (configApply g s).hinge } := by
  have apply (u : State) : applyGroup u g = { u with regs := (applyGroup u g).regs, net := (applyGroup u g).net } := by
    unfold applyGroup
    rw [copyOver_frame]
    dsimp only
    split <;> rfl
  unfold configApply
  split
  · dsimp only
    split
    · rw [apply]; split <;> rfl
    · split <;> rfl
  · rfl

@[simp] theorem configApply_mem (g : Group) (s : State) : (configApply g s).mem = s.mem := by
  rw [configApply_frame]

@[simp] theorem memApply_mem (s : State) : (memApply s).mem = s.mem := by simp [memApply]

@[simp] theorem dropRereads_bytes (s : State) (a : Nat) : (dropRereads s a).mem.bytes = s.mem.bytes := rfl

@[simp] theorem dropStore_bytes (s : State) (k : Nat) (p : PendStore) (ok : Bool) :
    (dropStore s k p ok).mem.bytes = s.mem.bytes := by
  unfold dropStore; dsimp only; split <;> rfl

@[simp] theorem writeBack_bytes (s : State) (c : MscLine) : (writeBack s c).mem.bytes = s.mem.bytes := by
  unfold writeBack; split <;> rfl

@[simp] theorem enterQueue_bytes (s : State) (a : Nat) (l : List (BitVec 32)) : (enterQueue s a l).mem.bytes = s.mem.bytes := rfl

@[simp] theorem logMem_mem (s : State) (a code : Nat) : (logMem s a code).mem = s.mem := by
  obtain ⟨r, x, h⟩ := logMem_frame s a code; rw [h]

@[simp] theorem haltLaunch_mem (s : State) (lid : BitVec 32) (code : Nat) (h : HaltAt) :
    (haltLaunch s lid code h).mem = s.mem := by rw [haltLaunch_frame]

@[simp] theorem memFault_mem (s : State) (a code : Nat) (q : Asker) : (memFault s a code q).mem = s.mem := by
  obtain ⟨_, _, _, _, _, h⟩ := memFault_frame s a code q; rw [h]

@[simp] theorem refuseStore_bytes (s : State) (k : Nat) (p : PendStore) (code : Nat) :
    (refuseStore s k p code).mem.bytes = s.mem.bytes := by simp [refuseStore]

@[simp] theorem mscFill_bytes (s : State) (a job : Nat) : (mscFill s a job).mem.bytes = s.mem.bytes := by
  unfold mscFill
  split
  · simp
  · split
    · rfl
    · split <;> simp

@[simp] theorem serveBurst_bytes (s : State) (a : Nat) (q : Asker) : (serveBurst s a q).mem.bytes = s.mem.bytes := by
  unfold serveBurst
  split <;> simp

@[simp] theorem readStack_bytes (s : State) (a : Nat) (q : Asker) (e : BurstErr) :
    (readStack s a q e).mem.bytes = s.mem.bytes := by
  unfold readStack
  split
  · rfl
  · simp
  · split
    · simp [deliverBurst]
    · rfl

@[simp] theorem lineUncorr_bytes (s : State) (a : Nat) (c : MscLine) : (lineUncorr s a c).mem.bytes = s.mem.bytes := by
  unfold lineUncorr
  split
  · simp
  · simp

@[simp] theorem readBurst_bytes (s : State) (a : Nat) (q : Asker) (e : BurstErr) : (readBurst s a q e).mem.bytes = s.mem.bytes := by
  unfold readBurst
  split
  · split <;> simp
  · split <;> simp

/-- MEMORY_READ stores nothing. -/
theorem memoryRead_bytes (dpa : Nat) (q : Asker) (e : BurstErr) (s : State) :
    (memoryRead dpa q e s).mem.bytes = s.mem.bytes := by
  unfold memoryRead
  dsimp only
  split <;> simp

/-- MEMORY_REREAD stores nothing. -/
theorem memoryReread_bytes (k : Nat) (e : BurstErr) (s : State) : (memoryReread k e s).mem.bytes = s.mem.bytes := by
  unfold memoryReread
  split
  · rfl
  · split
    · rfl
    · split
      · rfl
      · dsimp only
        split
        · split <;> simp
        · simp

/-- Serving the held reads of a stack stores nothing (R425). -/
theorem serveHeld_bytes (s : State) (i : Fin 24) : (serveHeld s i).mem.bytes = s.mem.bytes := by
  have f : ∀ (l : List Reread) (u : State),
      (l.foldl (fun s r => readBurst s r.dpa r.ask { syms := [], addrBad := false }) u).mem.bytes = u.mem.bytes := by
    intro l
    induction l with
    | nil => intro u; rfl
    | cons x l ih => intro u; rw [List.foldl_cons, ih]; simp
  unfold serveHeld
  dsimp only
  split
  · rfl
  · rw [f]

/-- Draining the write queues stores nothing: memory has the bytes already. -/
theorem drainQueues_bytes (s : State) : (drainQueues s).mem.bytes = s.mem.bytes := by
  have g (u : State) : (goodFrames u).mem = u.mem := by unfold goodFrames; split <;> rfl
  unfold drainQueues
  split
  · rfl
  · dsimp only; rw [g]

/-- PATROL_SCRUB stores nothing. -/
theorem patrolScrub_bytes (dpa : Nat) (e : BurstErr) (s : State) : (patrolScrub dpa e s).mem.bytes = s.mem.bytes := by
  unfold patrolScrub
  dsimp only
  split
  · rfl
  · split <;> simp

/-- A flush stores nothing: memory has the bytes of its lines already. -/
theorem flushHalf_bytes (s : State) (h : Fin 2) : (flushHalf s h).mem.bytes = s.mem.bytes := by
  have f : ∀ (l : List MscLine) (u : State), (l.foldl writeBack u).mem.bytes = u.mem.bytes := by
    intro l
    induction l with
    | nil => intro u; rfl
    | cons x l ih => intro u; rw [List.foldl_cons, ih]; simp
  unfold flushHalf
  simp [f]

/-! ### Operations that store -/

theorem acceptStore_wf (s : State) (k : Nat) (p : PendStore) (h : Memory.wf s.mem = true) :
    Memory.wf (acceptStore s k p).mem = true := by
  have b (u : State) (hu : u.mem = s.mem) : Memory.wf (dropStore (memPut u p.addr
      (mergeMask (memBytes u p.addr p.data.length) p.data)) k p true).mem = true :=
    Memory.wf_of_bytes (dropStore_bytes _ k p true) (memPut_wf u p.addr _ (hu ▸ h))
  unfold acceptStore
  split
  · exact b _ (hingeSend_mem s _ _)
  · exact b s rfl

theorem writeQueue_wf (s : State) (k : Nat) (p : PendStore) (h : Memory.wf s.mem = true) :
    Memory.wf (writeQueue s k p).mem = true :=
  Memory.wf_of_bytes rfl (acceptStore_wf s k p h)

theorem writeLine_wf (s : State) (k : Nat) (p : PendStore) (c : MscLine) (h : Memory.wf s.mem = true) :
    Memory.wf (writeLine s k p c).mem = true := by
  simpa [writeLine] using acceptStore_wf s k p h

/-- MEMORY_WRITE keeps the canonical form. -/
theorem memoryWrite_wf (k : Nat) (s : State) (h : Memory.wf s.mem = true) : Memory.wf (memoryWrite k s).mem = true := by
  have h' : Memory.wf (memApply s).mem = true := by rw [memApply_mem]; exact h
  unfold memoryWrite
  dsimp only
  split
  · exact h'
  · split
    · exact writeLine_wf _ k _ _ h'
    · exact Memory.wf_of_bytes (refuseStore_bytes _ k _ 1) h'
    · split
      · exact writeQueue_wf _ k _ h'
      · exact h'

/-- READ_MODIFY_WRITE keeps the canonical form. -/
theorem readModifyWrite_wf (k : Nat) (e : BurstErr) (s : State) (h : Memory.wf s.mem = true) :
    Memory.wf (readModifyWrite k e s).mem = true := by
  have h' : Memory.wf (memApply s).mem = true := by rw [memApply_mem]; exact h
  unfold readModifyWrite
  dsimp only
  split
  · exact h'
  · split
    · exact h'
    · split
      · exact Memory.wf_of_bytes (refuseStore_bytes _ k _ 1) h'
      · split
        · exact writeQueue_wf _ k _ h'
        · split
          · exact h'
          · split
            · exact Memory.wf_of_bytes (by simp) h'
            · split
              · exact Memory.wf_of_bytes (by simp) h'
              · exact writeQueue_wf _ k _ (Memory.wf_of_bytes (countCorr_bytes _ _ e) h')

@[simp] theorem blkHalt_mem (s : State) (b : Fin 48) (code idx r : Nat) (more : List Byte) :
    (blkHalt s b code idx r more).mem = s.mem := by
  unfold blkHalt
  split <;> simp

@[simp] theorem modRun_mem (s : State) (u : WaitUnit) (f : ListRun → ListRun) : (modRun s u f).mem = s.mem := by
  cases u <;> rfl

@[simp] theorem unitHalt_mem (s : State) (u : WaitUnit) (lid : BitVec 32) (code idx r : Nat) :
    (unitHalt s u lid code idx r).mem = s.mem := by
  unfold unitHalt
  split <;> simp

/-- What a store meets on its way keeps the canonical form, where its command does. -/
theorem storeUpset_wf (s : State) (c : StoreCmd) (go : State → State)
    (hg : ∀ u : State, Memory.wf u.mem = true → Memory.wf (go u).mem = true) (h : Memory.wf s.mem = true) :
    Memory.wf (storeUpset s c go).mem = true := by
  unfold storeUpset
  split
  · dsimp only
    split
    · exact Memory.wf_of_bytes (by simp) h
    · exact Memory.wf_of_bytes (by simp) h
  · exact hg _ h
  · exact hg _ h

@[simp] theorem dirtyLines_mem (s : State) (a n : Nat) : (dirtyLines s a n).mem = s.mem := by
  unfold dirtyLines
  dsimp only
  split <;> rfl

/-- Bytes accepted into lines and write queues keep the canonical form. -/
theorem acceptMem_wf (s : State) (a : Nat) (bs : List Byte) (job : Nat) (h : Memory.wf s.mem = true) :
    Memory.wf (acceptMem s a bs job).mem = true := by
  have f (l : List Nat) : ∀ u : State, (l.foldl (fun t b => enterQueue t b []) u).mem.bytes = u.mem.bytes := by
    induction l with
    | nil => intro u; rfl
    | cons x l ih => intro u; rw [List.foldl_cons, ih]; rfl
  refine Memory.wf_of_bytes (m := (memPut s a bs).mem) ?_ (memPut_wf s a bs h)
  unfold acceptMem
  rw [f, dirtyLines_mem]

theorem putBurst_wf (q : WaitUnit) (lid : BitVec 32) (s : State) (c : Nat × List (Byte × Byte)) (h : Memory.wf s.mem = true) :
    Memory.wf (putBurst q lid s c).mem = true := by
  unfold putBurst
  split
  · rw [logMem_mem]; exact h
  · split
    · exact acceptMem_wf s _ _ _ h
    · exact h

/-- Bytes written to memory by the device itself keep the canonical form. -/
theorem putMem_wf (s : State) (a : Nat) (bs : List Byte) (q : WaitUnit) (lid : BitVec 32) (job : Nat)
    (h : Memory.wf s.mem = true) : Memory.wf (putMem s a bs q lid job).mem = true := by
  have f (l : List (Nat × List (Byte × Byte))) : ∀ u : State, Memory.wf u.mem = true →
      Memory.wf (l.foldl (putBurst q lid) u).mem = true := by
    induction l with
    | nil => intro u hu; exact hu
    | cons x l ih => intro u hu; exact ih _ (putBurst_wf q lid u x hu)
  unfold putMem
  split
  · exact acceptMem_wf s a bs job h
  · exact f _ _ h

/-- Bytes that come over the network keep the canonical form. -/
theorem devPut_wf (s : State) (a : Nat) (bs : List Byte) (h : Memory.wf s.mem = true) :
    Memory.wf (devPut s a bs).mem = true := by
  have f : ∀ (l : List (Byte × Nat)) (u : State),
      (l.foldl (fun s x => modRgn s (Fin.ofNat 8 ((a + x.2) / rbufBytes))
        (fun g => { g with rbuf := sset zeroFill g.rbuf ((a + x.2) % rbufBytes) x.1 })) u).mem = u.mem := by
    intro l
    induction l with
    | nil => intro u; rfl
    | cons x l ih => intro u; rw [List.foldl_cons, ih]; simp
  unfold devPut
  split
  · rw [f]; exact h
  · exact putMem_wf s a bs _ _ _ h

/-- What the Lockplate writes at LKP_OUT keeps the canonical form. -/
theorem putOut_wf (s : State) (a : Nat) (bs : List Byte) (h : Memory.wf s.mem = true) : Memory.wf (putOut s a bs).mem = true := by
  unfold putOut
  split
  · exact devPut_wf s a bs h
  · exact h

/-- The copy of the LIFE bodies keeps the canonical form. -/
theorem hltLifeDone_wf (s : State) (h : Memory.wf s.mem = true) : Memory.wf (hltLifeDone s).mem = true := by
  have f (l : List (Nat × List Byte)) : ∀ u : State, Memory.wf u.mem = true →
      Memory.wf (l.foldl (fun s x => putMem s x.1 x.2) u).mem = true := by
    induction l with
    | nil => intro u hu; exact hu
    | cons x l ih => intro u hu; exact ih _ (putMem_wf u _ _ _ _ _ hu)
  unfold hltLifeDone
  split
  · dsimp only
    split
    · exact h
    · exact f _ _ h
  · exact h

/-! ### Writes of the device itself -/

/-- What an accepted write can change: the bytes it writes, and what says how memory, its lines and its queues stand. -/
theorem acceptMem_frame (s : State) (a : Nat) (bs : List Byte) (job : Nat) : acceptMem s a bs job =
    { s with
      mem := { s.mem with
        bytes := sput zeroFill s.mem.bytes a bs, poison := (acceptMem s a bs job).mem.poison,
        damaged := (acceptMem s a bs job).mem.damaged, wq := (acceptMem s a bs job).mem.wq },
      halves := (acceptMem s a bs job).halves } := by
  have f (l : List Nat) : ∀ u : State, l.foldl (fun t b => enterQueue t b []) u =
      { u with mem := { u.mem with wq := (l.foldl (fun t b => enterQueue t b []) u).mem.wq } } := by
    induction l with
    | nil => intro u; rfl
    | cons x l ih => intro u; rw [List.foldl_cons, ih]; rfl
  have d (u : State) (n : Nat) : dirtyLines u a n = { u with halves := (dirtyLines u a n).halves } := by
    unfold dirtyLines; dsimp only; split <;> rfl
  unfold acceptMem
  rw [f, d]
  rfl

/-- The bytes written are there. -/
theorem memBytes_acceptMem (s : State) (a : Nat) (bs : List Byte) (job : Nat) :
    memBytes (acceptMem s a bs job) a bs.length = bs := by
  rw [acceptMem_frame]
  exact srange_sput_same _ _ _ _

/-- Every other byte is as it was. -/
theorem memByte_acceptMem_other (s : State) (a : Nat) (bs : List Byte) (job x : Nat) (h : x < a ∨ a + bs.length ≤ x) :
    memByte (acceptMem s a bs job) x = memByte s x := by
  rw [acceptMem_frame]
  exact sget_sput_out _ _ _ _ _ _ h

/-- Where every stack takes writes and no burst is bad, every burst can be accepted. -/
theorem burstReady_of_takes {s : State} (h : MemTakes s) (a n b job : Nat) : burstReady s a n b job = true := by
  obtain ⟨hk, hd, hp, -⟩ := h
  have k := hk (Fin.ofNat 24 (dpaStack s b))
  have w : takesWrites (stackOfDpa s b) = true := k.1
  have o : stackOff (stackOfDpa s b) = false := k.2
  have g : stackHeld (stackOfDpa s b) = false := by
    simp only [takesWrites, Bool.and_eq_true, Bool.not_eq_true'] at w
    exact w.1.1
  simp [burstReady, queueFull, w, o, g, hd, hp]

/-- So a write of the device itself is accepted at once. -/
theorem writeReady_of_takes {s : State} (h : MemTakes s) (a n job : Nat) : writeReady s .mgmt a n job = true := by
  have w := h.2.2.2
  simp only [storesWait, List.any_eq_false] at w
  have f : ∀ p ∈ s.mem.stores, ¬ p.src = .mgmt := fun p hp => by simpa using w p hp
  simp only [writeReady, Bool.and_eq_true, List.all_eq_true, Bool.not_eq_true', List.any_eq_false]
  exact ⟨fun b _ => burstReady_of_takes h a n b job, fun p hp => by simp [f p hp]⟩

theorem writeEnds_of_takes {s : State} (h : MemTakes s) (a n : Nat) : writeEnds s a n = true := by
  simp only [writeEnds, Bool.and_eq_true, List.all_eq_true, Bool.or_eq_true, Bool.not_eq_true']
  exact ⟨fun b _ => .inr (burstReady_of_takes h a n b 0), h.2.2.2⟩

theorem putMem_of_takes {s : State} (h : MemTakes s) (a : Nat) (bs : List Byte) (lid : BitVec 32) (job : Nat) :
    putMem s a bs .mgmt lid job = acceptMem s a bs job := by
  unfold putMem
  rw [if_pos (writeReady_of_takes h a bs.length job)]

/-- A scrub leaves memory as after reset. -/
theorem zeroAll_wf (s : State) : Memory.wf (zeroAll s).mem = true := rfl

/-- Zeroing a half keeps the canonical form (R430). -/
theorem zeroHalf_wf (s : State) (h : Nat) (hm : Memory.wf s.mem = true) : Memory.wf (zeroHalf s h).mem = true := by
  have e := swf_iff_rising (w := 8) zeroFill
  simp only [Memory.wf, e] at hm ⊢
  exact risingFrom_filter zeroFill _ _ _ hm

/-- The scrub that start-up completes keeps the canonical form (R628). -/
theorem bootScrub_wf (s : State) (hm : Memory.wf s.mem = true) : Memory.wf (bootScrub s).mem = true := by
  unfold bootScrub
  split
  · exact zeroHalf_wf _ 1 (zeroHalf_wf s 0 hm)
  · exact hm

/-- Start-up's zeroing keeps the canonical form. -/
theorem bootZero_wf (s : State) (hm : Memory.wf s.mem = true) : Memory.wf (bootZero s).mem = true := by
  have f : ∀ (u : State) (h : Nat), Memory.wf u.mem = true → Memory.wf (if chmapChanged u h then zeroHalf u h else u).mem = true := by
    intro u h hu
    split
    · exact zeroHalf_wf u h hu
    · exact hu
  unfold bootZero
  rw [List.foldl_cons, List.foldl_cons, List.foldl_nil]
  exact f _ _ (f _ _ hm)

theorem wipe_wf (s : State) : Memory.wf (wipe s).mem = true := rfl

end Sys2Proof.Machine
end

