-- ==== Sys2Proof/WellFormed.lean ====
section
/-! DEFINITION. Which commands the outside can send: operand values that the spec gives a meaning. -/

namespace Sys2Proof

/-- Lanes that a link of the direction has: 65 of read (64 and the spare), 33 of write (R405). -/
def lanesOf : LinkDir → Nat
  | .read => 65
  | .write => 33

/-- Symbols in error are among the 384 that are transmitted (R416). -/
def errOk (e : BurstErr) : Bool := e.syms.all (fun j => decide (j < 384))

/-- A bias for each lane entry of the LIFE bodies at most, each of 16 bits (R676, Table 15.8). -/
def biasOk (bias : List Nat) : Bool := decide (bias.length ≤ 2360) && bias.all (fun x => decide (x < 65536))

/-- What start-up can find: a throttle threshold for each of the 24 stacks, of 85 to 100 °C,
lanes that exist, and the biases at which they lock (R676, Tables 10.3, 13.4). -/
def BootEnv.wf (e : BootEnv) : Bool :=
  decide (e.tt.length = 24) && e.tt.all (fun t => decide (85 ≤ t) && decide (t ≤ 100)) &&
    e.lanes.all (fun l => decide (l.2.2.val < lanesOf l.2.1)) && biasOk e.bias

/-- A command with operands that the device's interfaces can carry. -/
def Instr.wf : Instr → Bool
  | .ldt _ _ => true
  | .stt _ _ => true
  | .mmf _ _ => true
  | .mmh _ _ => true
  | .mmq _ _ => true
  | .mmv _ _ => true
  | .cvi _ _ => true
  | .cvd _ _ => true
  | .ats _ _ => true
  | .atv _ _ => true
  | .rsc _ _ => true
  | .drn _ _ => true
  | .syn _ => true
  | .sfl _ => true
  | .wfl _ => true
  | .fin _ => true
  | .instructionDispatch _ => true
  | .lineFetch _ _ => true
  | .chunkComplete _ => true
  | .pairPartialDrain _ _ => true
  | .wardReplay _ => true
  | .barrierArrive _ => true
  | .barrierRelease _ => true
  | .barrierTimeout _ => true
  | .bcastSend _ => true
  | .bcastTimeout _ => true
  | .flagIncrement _ => true
  | .wflComplete _ => true
  | .flagTimeout _ => true
  | .canopyCacheFill _ _ => true
  | .cnpInvEntry _ => true
  | .cnpInvAll => true
  | .cnpInvApply _ => true
  | .bucketSort _ => true
  | .sceConv _ => true
  | .sceEnd _ => true
  | .sceWaitSatisfied _ => true
  | .uwr _ => true
  | .lrexp _ => true
  | .amxp _ => true
  | .sprep _ => true
  | .gcvt _ => true
  | .bern _ => true
  | .unif _ => true
  | .gaus _ => true
  | .noise _ => true
  | .tadd _ _ => true
  | .sadd _ => true
  | .rveEnd _ => true
  | .sample _ => true
  | .samplerRow _ => true
  | .smpEnd _ => true
  | .eses _ => true
  | .epic _ => true
  | .dses _ => true
  | .dau _ => true
  | .dflush _ => true
  | .vseEnd _ => true
  | .launch _ => true
  | .launchDispatch katFail => katFail.all (fun c => decide (c.toNat < 0xCA))
  | .timedLaunchRelease _ => true
  | .launchComplete _ => true
  | .stop _ => true
  | .abort _ => true
  | .resume _ => true
  | .regrd _ => true
  | .regwr _ => true
  | .mark _ => true
  | .nop _ => true
  | .saveComplete _ => true
  | .restoreComplete _ => true
  | .sliceEnd _ => true
  | .turnEnd _ => true
  | .turnSwitch _ => true
  | .memoryRead dpa _ e => decide (dpa < 2 ^ 44) && errOk e
  | .memoryReread _ e => errOk e
  | .memoryWrite _ => true
  | .readModifyWrite _ e => errOk e
  | .patrolScrub dpa e => decide (dpa < 2 ^ 44) && errOk e
  | .refresh _ => true
  | .stackTempSample _ _ => true
  | .stackSensorFail _ => true
  | .readLaneFail _ lane => decide (lane.val ≤ 64)
  | .writeLaneFail _ _ => true
  | .spareSwitchIn _ _ => true
  | .linkRetrainDone _ _ => true
  | .optSpare _ _ => true
  | .memMapreq _ _ => true
  | .memUnmap _ _ => true
  | .mscFlush _ => true
  | .mscFlushDone _ => true
  | .hingeBeatReceive _ _ _ => true
  | .hingeCreditReturn _ _ => true
  | .hingeRetrainDone _ => true
  | .pllLockLoss => true
  | .commitRequest _ => true
  | .discard _ => true
  | .configApply _ => true
  | .registerWrite _ _ _ => true
  | .blkInject _ => true
  | .nonceRead _ => true
  | .dtcLatchRead => true
  | .ppstsLatchRead => true
  | .frameReceive _ => true
  | .pfcFrame _ => true
  | .send _ _ => true
  | .sendWithImmediate _ _ => true
  | .rdmaWrite _ _ _ _ => true
  | .rdmaWriteWithImmediate _ _ _ _ => true
  | .rdmaRead _ _ va len _ => decide (va.toNat + len ≤ 2 ^ 64)
  | .cmReq _ _ _ => true
  | .cmRtu _ => true
  | .cmDreq _ => true
  | .cnpReceive _ => true
  | .rateTick _ => true
  | .welcomeTimeout _ => true
  | .ownerKeepaliveTimeout => true
  | .hello _ _ => true
  | .prove _ => true
  | .keepalive _ => true
  | .promote _ => true
  | .handover _ => true
  | .ringOpen _ => true
  | .ringClose _ => true
  | .token _ => true
  | .bye _ => true
  | .doorbell _ _ _ _ => true
  | .completionWrite _ => true
  | .bindingExpiry w => decide (w < 256)
  | .announce => true
  | .ptpAnnounce m => decide (m.domain < 256)
  | .ptpSync m => decide (m.domain < 256)
  | .ptpSyncTimeout => true
  | .ppsOut => true
  | .ppsIn => true
  | .pwrEnRise => true
  | .hotSwapClose _ => true
  | .pwrEnFall => true
  | .vinFault mv => decide (mv < 65536)
  | .rstNLow _ => true
  | .startUp env => BootEnv.wf env
  | .refclkRetry => true
  | .bootStepTimeout => true
  | .keyringRecordWrite => true
  | .fwinstall => true
  | .fwinstallDone _ => true
  | .cfgprog => true
  | .cold => true
  | .warm => true
  | .soft _ _ => true
  | .shutdown => true
  | .savecfg => true
  | .krgRetire v => decide ((v.extractLsb' 0 6).toNat < 56)
  | .krgUnretire v => decide ((v.extractLsb' 0 6).toNat < 56)
  | .krgBlkrst v _ => decide ((v.extractLsb' 0 6).toNat < 56)
  | .submit => true
  | .close => true
  | .attest => true
  | .devcert => true
  | .grantExpiry => true
  | .jtagIdcode => true
  | .jtagBypass => true
  | .jtagSamplePreload => true
  | .jtagExtest => true
  | .dbgacc _ => true
  | .dieTempSample _ _ _ _ => true
  | .thermtripTimeout => true
  | .powerCheck watts mv => decide (watts < 65536) && decide (mv < 65536)
  | .pcapbSet _ => true
  | .pcapbFast _ => true
  | .pcapdSet _ => true
  | .hltCrc => true
  | .hltCrcDone => true
  | .hltLife => true
  | .lifeHourlyUpdate bias => biasOk bias
  | .i3cPrivateWrite _ => true
  | .i3cPrivateRead => true
  | .i3cDynamicAddress => true
  | .linkUp => true
  | .linkDown => true
  | .retryTimeout _ => true
  | .cfgprogDone _ => true
  | .grantApplied _ => true
  | .hltLifeDone => true
  | .attestDone _ => true

end Sys2Proof
end

