-- ==== Sys2Proof/Tests/States.lean ====
section
/-! SUPPORT. Small states and words that the tests are about. -/

namespace Sys2Proof.Tests

open Sys2Proof Sys2Proof.Machine

/-- A byte list of `n` zeros with byte strings laid over it. -/
def tBytes (n : Nat) (fs : List (Nat × List Byte)) : List Byte :=
  fs.foldl (fun l f => l.take f.1 ++ f.2 ++ l.drop (f.1 + f.2.length)) (List.replicate n 0)

/-- A 64-byte word with fields (byte, width in bytes, value). -/
def tWord (fs : List (Nat × Nat × Nat)) : BitVec 512 :=
  packBytes 512 (tBytes 64 (fs.map (fun f => (f.1, toLe f.2.1 f.2.2))))

/-- A ready device with 10 GiB of memory and region 0's six blocks on six physical blocks. -/
def tRdy : State :=
  wfld (wreg { State.reset with power := { Power.reset with phase := .ready } } .memCap 0 0x01010000) .krgBlkmap 0 21 16 63

/-- A running launch that has region 0. -/
def tL : Launch :=
  { lid := 1, ring := 0, cid := 7, hdr := tBytes 128 [(6, [1])], roster := [], st := .running, begun := true,
    released := false, fault := 0, ran := 0, sliceLeft := 0, stop := none, resume := none, overrun := 0 }

/-- A ring of 64 entries with one command not yet read. -/
def tRing : Ring :=
  { cbase := 0x10000, entries := 64, crva := 0, crkey := 0, centries := 64, bound := some 5, p := 1, c := 0, q := 0, a := 0,
    sent := 0, kept := [], outs := [] }

/-- The device with a running launch, which holds region 0, and an open ring 0. -/
def tRun : State :=
  modRgn { tRdy with launches := [tL], rings := tRdy.rings.set 0 (some tRing) } 0 (fun r => { r with holder := some 1 })

/-- Block 0 of that launch, with an instruction in front of every unit's queue. -/
def tBlk (w : BitVec 512) : State :=
  modBlk tRun 0 (fun k => { k with
    lid := some 1, loadQ := [UEntry.mk 3 w false 0], arrayQ := [UEntry.mk 3 w false 0], drainQ := [UEntry.mk 3 w false 0],
    syncQ := [UEntry.mk 3 w false 0] })

/-- Bytes placed in device memory. -/
def tPut (s : State) (ps : List (Nat × List Byte)) : State := ps.foldl (fun s p => memPut s p.1 p.2) s

/-- A list engine's run at an entry at 0x4000. -/
def tList : ListRun := { lid := some 1, base := 0x4000, idx := 0, waiting := none, ready := [], part := 0, stopped := false, finished := false }

/-- The device with the word as the current list entry of every list engine of region 0 and half 0. -/
def tEng (w : BitVec 512) (l : Launch) : State :=
  let s := tPut { tRun with launches := [l] } [(0x4000, toLe 64 w.toNat)]
  modHalf (modRgn s 0 (fun r => { r with sce := tList, rve := tList })) 0 (fun h => { h with smp := tList, vse := tList })

/-- The block that launch 1 reads memory for. -/
def tQ : Asker := { lid := 1, unit := .blk 0, idx := 3 }

/-- The device with a command entry next on ring 0. -/
def tCmd (e : List Byte) (s : State) : State := tPut s [(0x10000, e)]

end Sys2Proof.Tests
end

