-- ==== Sys2Proof/Tests/Slice0.lean ====
section
/-! SUPPORT. Tests: ill-formed commands, vectors that the spec states, states that meet the hypotheses of the statements,
and single steps with results worked out by hand. -/

set_option Elab.async false

namespace Sys2Proof.Tests

open Sys2Proof Sys2Proof.Machine

/-! ### Ill-formed commands are refused -/

theorem test_wf_memoryRead : Instr.wf (.memoryRead (2 ^ 44) tQ (BurstErr.mk [] false)) = false ∧
    Instr.wf (.memoryReread 0 (BurstErr.mk [384] false)) = false ∧
    Instr.wf (.readModifyWrite (StoreCmd.mk 0 .none) (BurstErr.mk [384] false)) = false := by decide
theorem test_wf_patrolScrub : Instr.wf (.patrolScrub (2 ^ 44) (BurstErr.mk [] false)) = false ∧
    Instr.wf (.patrolScrub 0 (BurstErr.mk [384] false)) = false := by decide
theorem test_wf_readLaneFail : Instr.wf (.readLaneFail 0 65) = false := by decide
theorem test_wf_ptp : Instr.wf (.ptpAnnounce { domain := 256, rank := [] }) = false ∧
    Instr.wf (.ptpSync { domain := 256, off := 0, interval := 0, freq := 0 }) = false := by decide
theorem test_wf_rdmaRead : Instr.wf (.rdmaRead 5 1 (BitVec.ofNat 64 (2 ^ 64 - 1)) 2 false) = false := by decide
theorem test_wf_bindingExpiry : Instr.wf (.bindingExpiry 256) = false := by decide
theorem test_wf_vinFault : Instr.wf (.vinFault 65536) = false := by decide
theorem test_wf_powerCheck : Instr.wf (.powerCheck 65536 0) = false ∧ Instr.wf (.powerCheck 0 65536) = false := by decide
theorem test_wf_launchDispatch : Instr.wf (.launchDispatch [0, 0xCA]) = false := by decide
theorem test_wf_krgRetire : Instr.wf (.krgRetire 56) = false := by decide
theorem test_wf_krgUnretire : Instr.wf (.krgUnretire 56) = false := by decide
theorem test_wf_krgBlkrst : Instr.wf (.krgBlkrst 56 true) = false := by decide
theorem test_wf_lifeHourlyUpdate : Instr.wf (.lifeHourlyUpdate (List.replicate 2361 0)) = false ∧
    Instr.wf (.lifeHourlyUpdate [65536]) = false := by decide +kernel

/-- What a start-up finds on a sound module. -/
def tEnv : BootEnv :=
  { refclk := true, fuseOk := true, mgmtOk := true, blkFail := 0, kat := 0, hinge := { faulty := [], half := true }, lanes := [],
    tt := List.replicate 24 95, tsv := [], link := true }

theorem test_wf_startUp : Instr.wf (.startUp tEnv) = true ∧ Instr.wf (.startUp { tEnv with tt := [] }) = false ∧
    Instr.wf (.startUp { tEnv with tt := List.replicate 24 84 }) = false ∧
    Instr.wf (.startUp { tEnv with tt := List.replicate 24 101 }) = false ∧
    Instr.wf (.startUp { tEnv with lanes := [(0, .write, 33)] }) = false ∧
    Instr.wf (.startUp { tEnv with bias := [65536] }) = false := by decide

/-! ### Vectors that the spec states -/

/-- Table 6.5. -/
theorem test_exp2_vectors : [0x00000000, 0x41200000, 0xBF800000, 0xC3150000, 0xC3160000, 0x42FE0000, 0x43000000, 0xFF800000].map exp2 =
    [0x3F800000, 0x44800000, 0x3F000000, 0x00000001, 0, 0x7F000000, 0x7F800000, 0] := by decide +kernel

theorem test_log2_vectors : [0x3F800000, 0x41000000, 0x3F000000, 0x00000001, 0x80000000, 0xBF800000, 0x7F800000].map log2 =
    [0, 0x40400000, 0xBF800000, 0xC3150000, 0xFF800000, 0x7FC00000, 0x7F800000] := by decide +kernel

theorem test_sin2pi_vectors : [0x3E800000, 0x3F000000, 0x3F400000, 0xBF400000, 0x4B000001, 0x7F800000].map sin2pi =
    [0x3F800000, 0, 0xBF800000, 0x3F800000, 0, 0x7FC00000] := by decide +kernel

theorem test_cos2pi_vectors : [0x00000000, 0x3F000000, 0x3E800000].map cos2pi = [0x3F800000, 0xBF800000, 0] := by decide +kernel

theorem test_recip_vectors : [0x40400000, 0x3DCCCCCD, 0x7F000000, 0x80000000, 0x7F800000].map recip =
    [0x3EAAAAAB, 0x41200000, 0x00400000, 0xFF800000, 0] := by decide +kernel

theorem test_rsqrt_vectors : [0x40800000, 0x40000000, 0x3E800000, 0x80000000, 0xBF800000].map rsqrt =
    [0x3F000000, 0x3F3504F3, 0x40000000, 0xFF800000, 0x7FC00000] := by decide +kernel

theorem test_sigmoid_vectors : [0x00000000, 0x7F800000, 0xFF800000, 0x7FC00000].map sigmoid =
    [0x3F000000, 0x3F800000, 0, 0x7FC00000] := by decide +kernel

theorem test_silu_vectors : [0x00000000, 0x42C80000, 0xC3480000, 0xFF800000].map silu = [0, 0x42C80000, 0, 0] := by decide +kernel

theorem test_gelu_vectors : ∀ f ∈ [geluTanh, geluErf], [0x00000000, 0x42C80000, 0xC2C80000, 0x7F800000, 0xFF800000].map f =
    [0, 0x42C80000, 0, 0x7F800000, 0] := by
  intro f hf
  simp only [List.mem_cons, List.not_mem_nil, or_false] at hf
  rcases hf with rfl | rfl <;> decide +kernel

/-- Table 7.3. -/
theorem test_tumbler_vectors : tmbKeys 0x0123456789ABCDEF 1 = 0x179CB4567E693972 ∧
    tmbKeys 0x0123456789ABCDEF 2 = 0xADD85FB4730853A6 ∧ tmbKeys 0 1 = 0x9E3779B97F4A7C15 ∧ tmbKeys 0 2 = 0x2550D73CFB80DB2E ∧
    tmbStart 0 0 = (0, 0x9E3779B97F4A7C15) ∧
    tmbRound 0 (tmbStart 0 0) 0 = (0x9E3779B97F4A7C15, 0x7100565030C8CFD3) ∧
    tmbRound 0 (tmbRound 0 (tmbStart 0 0) 0) 1 = (0x0F37D009B0134BE8, 0x68DE68899B3B538C) ∧
    tmbCounter 9 37 1000 2048 0 = 0x000900000025000003E8000008000000 := by decide +kernel

/-- Table 11.6. -/
theorem test_rgb_vectors : rgbToYcc false 0 0 0 = (64, 512, 512) ∧ rgbToYcc false 1023 1023 1023 = (940, 512, 512) ∧
    rgbToYcc false 1023 0 0 = (250, 409, 960) := by decide +kernel

/-- R660: the CRC of the ASCII bytes 123456789. -/
theorem test_crc64_check : crc64 [0x31, 0x32, 0x33, 0x34, 0x35, 0x36, 0x37, 0x38, 0x39] = 0x6C40DF5F0B497347 := by decide +kernel

/-- The examples of register addresses of 17_register_map.md. -/
theorem test_register_addresses : regAddr .blkCfg 19 = 0x11300 ∧ regAddr .rgnCommit 5 = 0x25000 ∧ regAddr .stkUnmap 17 = 0x3110C := by
  decide +kernel

/-! ### Block instructions -/

/-- An array instruction of extents m, n, k, from the scratchpad; K tile 64, slot 0, overwriting. -/
def wArr (op m n k : Nat) : BitVec 512 :=
  tWord [(0, 1, op), (1, 1, 1), (4, 4, m), (8, 4, n), (12, 4, k), (28, 4, 64), (32, 8, 2 ^ 62 + 2 ^ 45),
    (40, 8, 2 ^ 62 + 2 ^ 45)]

def tEnt (w : BitVec 512) : UEntry := UEntry.mk 3 w false 0

theorem witness_ArrayFormsStart : ∀ op ∈ [opMMF, opMMH, opMMQ, opMMV, opCVI, opCVD],
    front (tBlk (wArr op 1 1 1)) 0 op = some (tEnt (wArr op 1 1 1), tL) ∧ (tBlk (wArr op 1 1 1)).blocks[0].job = none ∧
    (extents (tBlk (wArr op 1 1 1)) 0 tL (wArr op 1 1 1)).1 ≠ 0 ∧
    (extents (tBlk (wArr op 1 1 1)) 0 tL (wArr op 1 1 1)).2.1 ≠ 0 ∧
    (extents (tBlk (wArr op 1 1 1)) 0 tL (wArr op 1 1 1)).2.2 ≠ 0 ∧
    pendingG (tBlk (wArr op 1 1 1)) (.blk 0) = false ∧
    readsWait (tBlk (wArr op 1 1 1)) 0 tL (fedTouches (tBlk (wArr op 1 1 1)) 0 tL (wArr op 1 1 1)) = false ∧
    badRead (tBlk (wArr op 1 1 1)) tL (fedTouches (tBlk (wArr op 1 1 1)) 0 tL (wArr op 1 1 1)) = none := by decide +kernel

/-- A DRN of r by c elements of slot 0 to the scratchpad at 4,096, without a stage. -/
def wDrn (r c : Nat) : BitVec 512 :=
  tWord [(0, 1, opDRN), (6, 1, 2), (7, 1, 16), (8, 4, r), (12, 4, c), (24, 8, 2 ^ 62 + 4096)]

/-- An LDT or STT of a tile of r by c elements (2 rows of 16 at most) between memory at 0x20000 and the scratchpad. -/
def wTile (op fl r c : Nat) : BitVec 512 :=
  tWord [(0, 1, op), (1, 1, fl), (3, 1, 63), (4, 4, r), (8, 4, c), (20, 4, 2), (24, 4, 16),
    (28, 8, if op = opLDT then 3 * 2 ^ 62 + 2 ^ 44 + 0x20000 else 2 ^ 62 + 2 ^ 44),
    (36, 8, if op = opLDT then 2 ^ 62 + 2 ^ 44 else 3 * 2 ^ 62 + 2 ^ 44 + 0x20000)]

theorem witness_ZeroExtentIsCountedNoop_MN : (∀ op ∈ [opMMF, opMMH, opMMQ, opMMV, opCVI, opCVD, opATS, opATV],
      front (tBlk (wArr op 0 1 1)) 0 op = some (tEnt (wArr op 0 1 1), tL) ∧
      (tBlk (wArr op 0 1 1)).blocks[0].job = none ∧
      pendingG (tBlk (wArr op 0 1 1)) (.blk 0) = false ∧
      readsWait (tBlk (wArr op 0 1 1)) 0 tL (fedTouches (tBlk (wArr op 0 1 1)) 0 tL (wArr op 0 1 1)) = false ∧
      (extents (tBlk (wArr op 0 1 1)) 0 tL (wArr op 0 1 1)).1 = 0) ∧
    front (tBlk (wDrn 0 1)) 0 opDRN = some (tEnt (wDrn 0 1), tL) ∧
    (extents (tBlk (wDrn 0 1)) 0 tL (wDrn 0 1)).1 = 0 := by decide +kernel

theorem witness_ZeroExtentIsCountedNoop_tiles : ∀ op ∈ [opLDT, opSTT],
    front (tBlk (wTile op 0 0 1)) 0 op = some (tEnt (wTile op 0 0 1), tL) ∧
    bankHeld (tBlk (wTile op 0 0 1)) 0 (wTile op 0 0 1) = false ∧
    readsWait (tBlk (wTile op 0 0 1)) 0 tL (touches (tBlk (wTile op 0 0 1)) 0 tL (wTile op 0 0 1)) = false ∧
    (tileExtents tL (wTile op 0 0 1)).1 = 0 := by decide +kernel

theorem witness_ZeroExtentIsCountedNoop_K : ∀ op ∈ [opMMF, opMMH, opMMQ, opMMV, opCVI, opCVD],
    front (tBlk (wArr op 1 1 0)) 0 op = some (tEnt (wArr op 1 1 0), tL) ∧
    (tBlk (wArr op 1 1 0)).blocks[0].job = none ∧ pendingG (tBlk (wArr op 1 1 0)) (.blk 0) = false ∧
    readsWait (tBlk (wArr op 1 1 0)) 0 tL (fedTouches (tBlk (wArr op 1 1 0)) 0 tL (wArr op 1 1 0)) = false ∧
    (extents (tBlk (wArr op 1 1 0)) 0 tL (wArr op 1 1 0)).1 ≠ 0 ∧
    (extents (tBlk (wArr op 1 1 0)) 0 tL (wArr op 1 1 0)).2.1 ≠ 0 ∧
    (extents (tBlk (wArr op 1 1 0)) 0 tL (wArr op 1 1 0)).2.2 = 0 ∧ dOvw (wArr op 1 1 0) = true ∧
    dOvw (tWord [(0, 1, op)]) = false := by decide +kernel

/-- An attention instruction with its parameter block at 0x1000 of the scratchpad. -/
def wAtt (op fl : Nat) : BitVec 512 :=
  tWord [(0, 1, op), (4, 4, 1), (8, 4, 64), (12, 4, 64), (28, 4, 64), (32, 8, 2 ^ 62), (40, 8, 2 ^ 62), (52, 2, 16), (54, 1, fl)]

/-- The scratchpad that such an instruction needs: a page list at 0x2000 with 64 keys, of page 5; a valid table base. -/
def tAtt (w : BitVec 512) : State :=
  wreg (scratchPut (tBlk w) 0 0x1000 (tBytes 0x1100 [(24, toLe 4 0x20), (0x1004, toLe 4 64), (0x1008, toLe 4 5)]))
    .cnpBase 0 0x80000001

theorem witness_AttentionStartsFromItsPage : ∀ op ∈ [opATS, opATV],
    (front (tAtt (wAtt op 0)) 0 op = some (tEnt (wAtt op 0), tL) ∧ (tAtt (wAtt op 0)).blocks[0].job = none ∧
      (extents (tAtt (wAtt op 0)) 0 tL (wAtt op 0)).1 ≠ 0 ∧ (extents (tAtt (wAtt op 0)) 0 tL (wAtt op 0)).2.1 ≠ 0 ∧
      (extents (tAtt (wAtt op 0)) 0 tL (wAtt op 0)).2.2 ≠ 0 ∧ aFetch (wAtt op 0) = false ∧
      pendingG (tAtt (wAtt op 0)) (.blk 0) = false ∧
      readsWait (tAtt (wAtt op 0)) 0 tL (touches (tAtt (wAtt op 0)) 0 tL (wAtt op 0)) = false ∧
      badRead (tAtt (wAtt op 0)) tL (touches (tAtt (wAtt op 0)) 0 tL (wAtt op 0)) = none) ∧
    (front (tAtt (wAtt op 2)) 0 op = some (tEnt (wAtt op 2), tL) ∧ (tAtt (wAtt op 2)).blocks[0].job = none ∧
      (extents (tAtt (wAtt op 2)) 0 tL (wAtt op 2)).1 ≠ 0 ∧ (extents (tAtt (wAtt op 2)) 0 tL (wAtt op 2)).2.1 ≠ 0 ∧
      (extents (tAtt (wAtt op 2)) 0 tL (wAtt op 2)).2.2 ≠ 0 ∧ aFetch (wAtt op 2) = true ∧ tL.fld 72 1 = 0 ∧
      (tAtt (wAtt op 2)).blocks[0].page = none ∧ cnpRange (tAtt (wAtt op 2)) 0 (wAtt op 2) = false ∧
      cnpHit (tAtt (wAtt op 2)).regions[rgnOf 0] (cnpWays (tAtt (wAtt op 2)) (rgnOf 0) tL.job)
        (pageIndex (tAtt (wAtt op 2)) 0 (wAtt op 2)) = none) := by decide +kernel

/-- An LDT of such a tile from memory to bank A0. -/
def wBank : BitVec 512 :=
  tWord [(0, 1, opLDT), (3, 1, 63), (4, 4, 2), (8, 4, 16), (20, 4, 2), (24, 4, 16), (28, 8, 3 * 2 ^ 62 + 2 ^ 44 + 0x20000),
    (36, 8, 2 ^ 44)]

theorem witness_LoadWritesItsTile : (front (tBlk (wTile opLDT 0 2 16)) 0 opLDT = some (tEnt (wTile opLDT 0 2 16), tL) ∧
      bankHeld (tBlk (wTile opLDT 0 2 16)) 0 (wTile opLDT 0 2 16) = false ∧
      readsWait (tBlk (wTile opLDT 0 2 16)) 0 tL (touches (tBlk (wTile opLDT 0 2 16)) 0 tL (wTile opLDT 0 2 16)) = false ∧
      (tileExtents tL (wTile opLDT 0 2 16)).1 ≠ 0 ∧ (tileExtents tL (wTile opLDT 0 2 16)).2 ≠ 0 ∧
      lBcast (wTile opLDT 0 2 16) = false ∧
      badRead (tBlk (wTile opLDT 0 2 16)) tL (touches (tBlk (wTile opLDT 0 2 16)) 0 tL (wTile opLDT 0 2 16)) = none ∧
      (lDst (wTile opLDT 0 2 16)).sp = .scratch) ∧
    (front (tBlk (wTile opLDT 2 2 16)) 0 opLDT = some (tEnt (wTile opLDT 2 2 16), tL) ∧
      (tileExtents tL (wTile opLDT 2 2 16)).1 ≠ 0 ∧ (tileExtents tL (wTile opLDT 2 2 16)).2 ≠ 0 ∧
      lBcast (wTile opLDT 2 2 16) = true ∧ bankHeld (tBlk (wTile opLDT 2 2 16)) 0 (wTile opLDT 2 2 16) = false ∧
      readsWait (tBlk (wTile opLDT 2 2 16)) 0 tL (touches (tBlk (wTile opLDT 2 2 16)) 0 tL (wTile opLDT 2 2 16)) = false) ∧
    (front (tBlk wBank) 0 opLDT = some (tEnt wBank, tL) ∧ (lDst wBank).sp = .bank 0 ∧ lBcast wBank = false ∧
      bankHeld (tBlk wBank) 0 wBank = false ∧ readsWait (tBlk wBank) 0 tL (touches (tBlk wBank) 0 tL wBank) = false ∧
      (tileExtents tL wBank).1 ≠ 0 ∧ (tileExtents tL wBank).2 ≠ 0 ∧
      badRead (tBlk wBank) tL (touches (tBlk wBank) 0 tL wBank) = none) := by decide +kernel

theorem witness_StoreIssuesItsTile : front (tBlk (wTile opSTT 0 2 16)) 0 opSTT = some (tEnt (wTile opSTT 0 2 16), tL) ∧
    (tileExtents tL (wTile opSTT 0 2 16)).1 ≠ 0 ∧ (tileExtents tL (wTile opSTT 0 2 16)).2 ≠ 0 ∧
    (lDst (wTile opSTT 0 2 16)).sp = .mem ∧
    (∀ i < (tileExtents tL (wTile opSTT 0 2 16)).1, tensorRow (wTile opSTT 0 2 16) (lDst (wTile opSTT 0 2 16))
      (lRow0 (wTile opSTT 0 2 16) + i) + lCol0 (wTile opSTT 0 2 16) * ((lFmt (wTile opSTT 0 2 16)).getD .bf16).bits / 8
        < viewBase) ∧ ((lFmt (wTile opSTT 0 2 16)).getD .bf16).isMx = false := by decide +kernel

/-- An RSC of two rows of 16 columns of slot 0 (and 1), row states at 0x1000, others (and results) at 0x2000. -/
def wRsc (mode : Nat) : BitVec 512 :=
  tWord [(0, 1, opRSC), (1, 1, mode), (4, 1, 1), (5, 1, 2), (6, 1, 16), (8, 2, 16), (10, 2, 32), (12, 2, 32)]

theorem witness_DrainAndRescaleRetire : (front (tBlk (wDrn 2 16)) 0 opDRN = some (tEnt (wDrn 2 16), tL) ∧
      (extents (tBlk (wDrn 2 16)) 0 tL (wDrn 2 16)).1 ≠ 0 ∧ (extents (tBlk (wDrn 2 16)) 0 tL (wDrn 2 16)).2.1 ≠ 0 ∧
      (nDst (wDrn 2 16)).sp = .scratch ∧ nNoStore (wDrn 2 16) = false ∧ stages (wDrn 2 16) = [] ∧
      ((nOfmt (wDrn 2 16)).getD .bf16).isMx = false) ∧
    (∀ m ∈ [0, 1, 2], front (tBlk (wRsc m)) 0 opRSC = some (tEnt (wRsc m), tL) ∧ fld (wRsc m) 1 1 % 4 = m ∧
      fld (wRsc m) 6 1 ≤ 128 ∧ fld (wRsc m) 5 1 ≤ 128 ∧ fld (wRsc m) 3 1 % 32 ≠ fld (wRsc m) 4 1 % 32 ∧
      fld (wRsc m) 8 2 % 2 ^ 14 * 256 + 16 * fld (wRsc m) 5 1 ≤ fld (wRsc m) 10 2 % 2 ^ 14 * 256 ∧
      fld (wRsc m) 8 2 % 2 ^ 14 * 256 + 16 * fld (wRsc m) 5 1 ≤ fld (wRsc m) 12 2 % 2 ^ 14 * 256) ∧
    nNoStore (tWord [(0, 1, opDRN), (1, 1, 2)]) = true := by decide +kernel

theorem witness_UpsetsAreCountedOrHalt : (∀ op ∈ [opLDT, opSTT, opMMF, opMMH, opMMQ, opMMV, opCVI, opCVD, opDRN, opRSC],
    front (tBlk (tWord [(0, 1, op)])) 0 op = some (tEnt (tWord [(0, 1, op)]), tL) ∧
    (tBlk (tWord [(0, 1, op)])).blocks[0].job = none ∧ pendingG (tBlk (tWord [(0, 1, op)])) (.blk 0) = false ∧
    bankHeld (tBlk (tWord [(0, 1, op)])) 0 (tWord [(0, 1, op)]) = false ∧
    readsWait (tBlk (tWord [(0, 1, op)])) 0 tL (fedTouches (tBlk (tWord [(0, 1, op)])) 0 tL (tWord [(0, 1, op)])) = false ∧
    readsWait (tBlk (tWord [(0, 1, op)])) 0 tL (touches (tBlk (tWord [(0, 1, op)])) 0 tL (tWord [(0, 1, op)])) = false) ∧
    tL.st = .running := by decide +kernel

theorem witness_SyncInstructionsBegin : ∀ op ∈ [opSYN, opSFL, opWFL, opFIN],
    front (tBlk (tWord [(0, 1, op)])) 0 op = some (tEnt (tWord [(0, 1, op)]), tL) := by decide +kernel

/-- Block 0 running with nothing held. -/
def tIdle : State := modBlk tRun 0 (fun k => { k with lid := some 1 })

/-- Block 0 running with one fetched instruction. -/
def tFetched (w : BitVec 512) : State := modBlk tIdle 0 (fun k => { k with iq := [IqEntry.mk 3 w .ok] })

theorem witness_FetchAndDispatch : (blkRunning tIdle 0 = some tL ∧ tIdle.blocks[0].iq.length ≤ 16 ∧
      fetchWaits tIdle 0 tL tIdle.blocks[0].nextFetch = false) ∧
    (blkRunning (tFetched (wArr opMMF 1 1 0)) 0 = some tL ∧
      (tFetched (wArr opMMF 1 1 0)).blocks[0].iq = [IqEntry.mk 3 (wArr opMMF 1 1 0) .ok] ∧
      stallOf (tFetched (wArr opMMF 1 1 0)) 0 tL = none ∧
      issueCheck (tFetched (wArr opMMF 1 1 0)) 0 tL (wArr opMMF 1 1 0) = .noop ∧
      unitOf (opOf (wArr opMMF 1 1 0)) = some .array) ∧
    (stallOf (tFetched (tWord [(0, 1, opFIN)])) 0 tL = none ∧
      issueCheck (tFetched (tWord [(0, 1, opFIN)])) 0 tL (tWord [(0, 1, opFIN)]) = .ok ∧
      unitOf (opOf (tWord [(0, 1, opFIN)])) = some .sync) := by decide +kernel

theorem witness_IssueFaultStopsAndHalts : blkRunning (tFetched (tWord [(0, 1, 0x77)])) 0 = some tL ∧
    (tFetched (tWord [(0, 1, 0x77)])).blocks[0].iq = [IqEntry.mk 3 (tWord [(0, 1, 0x77)]) .ok] ∧
    stallOf (tFetched (tWord [(0, 1, 0x77)])) 0 tL = none ∧
    ∃ o a, issueCheck (tFetched (tWord [(0, 1, 0x77)])) 0 tL (tWord [(0, 1, 0x77)]) = .fault 1 o a :=
  ⟨by decide +kernel, by decide +kernel, by decide +kernel, 0, 0, by decide +kernel⟩

/-! ### Jobs, barriers, broadcasts, flags, the page cache, buckets and turns -/

/-- An integer part of one row whose column ward of row 0 is `w`: it passes its checks when w is 0. -/
def tPart (w : Word) : PartVal :=
  { elts := List.replicate 128 0, wc := [w], mc := [0], wr := List.replicate 128 0, mr := List.replicate 128 0, corner := w }

/-- A job of one output row whose oldest pair partial is `tPart w`. -/
def tJob (w : Word) (vk att chunk : Nat) (replay : Bool) : ArrayJob :=
  { idx := 3, word := wArr opMMF 1 1 vk, arith := .int, fin := .slot, p := 0, vm := 1, vn := 1, vk := vk,
    geom := [{ r0 := 0, c0 := 0, nr := 1, nc := 128, a0 := 0, b0 := 0 }], ovw := true, acc := 0, a := [], b := [],
    alpha := [], cfg := 0x10, compat := false, inject := false, chunk := chunk, held := none, pairs := [(0, [tPart w])],
    drained := 0, attempts := att, replay := replay, tail := false, tree := [] }

def tJobS (j : ArrayJob) : State := modBlk (tBlk (wArr opMMF 1 1 1)) 0 (fun k => { k with job := some j })

theorem witness_ChunksPairUpThenDrain :
    ((tJobS (tJob 0 1 0 0 false)).blocks[0].job = some (tJob 0 1 0 0 false) ∧ stalled (tJobS (tJob 0 1 0 0 false)) = false ∧
      (tJob 0 1 0 0 false).held88 = false ∧ (tJob 0 1 0 0 false).running = true ∧ (tJob 0 1 0 0 false).held = none ∧
      (tJob 0 1 0 0 false).chunk + 1 = (tJob 0 1 0 0 false).chunks) ∧
    ((tJob 0 512 0 0 false).held88 = false ∧ (tJob 0 512 0 0 false).running = true ∧
      (tJob 0 512 0 0 false).chunk + 1 ≠ (tJob 0 512 0 0 false).chunks) ∧
    ((tJobS { tJob 0 512 0 1 false with held := some [tPart 0] }).blocks[0].job =
        some { tJob 0 512 0 1 false with held := some [tPart 0] } ∧
      ({ tJob 0 512 0 1 false with held := some [tPart 0] }).held88 = false ∧
      ({ tJob 0 512 0 1 false with held := some [tPart 0] }).running = true) ∧
    ((tJobS (tJob 0 1 1 1 true)).blocks[0].job = some (tJob 0 1 1 1 true) ∧ (tJob 0 1 1 1 true).held88 = true ∧
      stalled (tJobS (tJob 0 1 1 1 true)) = false ∧ (tJob 0 1 1 1 true).replay = true ∧ (tJob 0 1 1 1 true).tail = false ∧
      (tJob 0 1 1 1 true).pairs = [(0, [tPart 0])]) ∧
    ({ tJob 0 512 1 0 true with tail := true }).tail = true ∧ ({ tJob 0 512 1 0 true with tail := true }).replay = true ∧
    ({ tJob 0 512 1 0 true with tail := true }).running = true := by decide +kernel

theorem witness_MismatchIsDiscardedAndReplayed :
    (tJobS (tJob 1 1 0 1 false)).blocks[0].job = some (tJob 1 1 0 1 false) ∧
    (tJobS (tJob 1 1 0 1 false)).blocks[0].lid.bind (findLaunch (tJobS (tJob 1 1 0 1 false))) = some tL ∧
    (tJob 1 1 0 1 false).pairs = [(0, [tPart 1])] ∧ (tJob 1 1 0 1 false).replay = false ∧
    stalled (tJobS (tJob 1 1 0 1 false)) = false ∧
    (tJob 1 1 0 1 false).attempts + 1 ≤ getF (tJob 1 1 0 1 false).cfg 5 4 ∧
    (wardTest .int (getF (tJob 1 1 0 1 false).cfg 3 0) (tJob 1 1 0 1 false).geom [tPart 1]).failed = true ∧
    ({ tJob 0 1 0 1 false with inject := true }).inject = true ∧ (tJob 0 1 0 1 false).attempts = 0 ∧
    (wardTest .int 0 (tJob 0 1 0 1 false).geom (flipElt [tPart 0] 0 5 1)).failed = true := by decide +kernel

theorem witness_FinalValueGoesToItsSlot :
    (tJobS (tJob 0 1 0 1 false)).blocks[0].job = some (tJob 0 1 0 1 false) ∧
    (tJobS (tJob 0 1 0 1 false)).blocks[0].lid.bind (findLaunch (tJobS (tJob 0 1 0 1 false))) = some tL ∧
    (tJob 0 1 0 1 false).pairs = [(0, [tPart 0])] ∧ (tJob 0 1 0 1 false).replay = false ∧
    stalled (tJobS (tJob 0 1 0 1 false)) = false ∧ (tJob 0 1 0 1 false).inject = false ∧
    (wardTest .int (getF (tJob 0 1 0 1 false).cfg 3 0) (tJob 0 1 0 1 false).geom [tPart 0]).failed = false ∧
    (tJob 0 1 0 1 false).drained + 1 = (tJob 0 1 0 1 false).nPairs ∧ (tJob 0 1 0 1 false).fin = .slot ∧
    (tJob 0 1 0 1 false).ovw = true ∧
    (rootNode .int false (pushNode .int false 32 (tJob 0 1 0 1 false).tree (1, [(tPart 0).elts])).1).1 =
      [List.replicate 128 0] := by decide +kernel

theorem witness_CheckedPairPassesOnOrHalts :
    ((tJobS (tJob 0 1024 0 2 false)).blocks[0].job = some (tJob 0 1024 0 2 false) ∧
      (tJob 0 1024 0 2 false).pairs = [(0, [tPart 0])] ∧ (tJob 0 1024 0 2 false).replay = false ∧
      stalled (tJobS (tJob 0 1024 0 2 false)) = false ∧
      (wardTest .int 0 (tJob 0 1024 0 2 false).geom [tPart 0]).failed = false ∧
      (tJob 0 1024 0 2 false).drained + 1 ≠ (tJob 0 1024 0 2 false).nPairs) ∧
    ((tJobS (tJob 1 1 1 1 false)).blocks[0].lid.bind (findLaunch (tJobS (tJob 1 1 1 1 false))) = some tL ∧
      tL.st = .running ∧ (wardTest .int 0 (tJob 1 1 1 1 false).geom [tPart 1]).failed = true ∧
      getF (tJob 1 1 1 1 false).cfg 5 4 < (tJob 1 1 1 1 false).attempts + 1) ∧
    combines (tJob 0 1024 0 2 false) [tPart 0] = false ∧
    combines { tJob 0 1024 0 4 false with drained := 1, tree := [(1, [List.replicate 128 0])] } [tPart 0] = true := by decide +kernel

theorem witness_IntegerUpsetIsDetected : (tPart 0).elts.length = 1 * 128 ∧ 127 < 1 * 128 ∧ (0x80000000 : Word) ≠ 0 ∧
    (partTest .int 0 { r0 := 0, c0 := 0, nr := 1, nc := 128, a0 := 0, b0 := 0 } (tPart 0)).failed = false := by
  decide +kernel

/-- The barrier that every block has reached, at array cycle 48. -/
def tBarrier : Barrier := { arrived := List.range 48, lid := 1, firstRan := 0, lastCyc := 48 }

/-- Block 0 waits on barrier 2. -/
def tBar (counted : Bool) (at_ : Nat) : State :=
  modBlk { tBlk (tWord [(0, 1, opSYN)]) with barriers := if counted then [(2, tBarrier)] else [], cyc := at_ } 0
    (fun k => { k with wait := some (.barrier 2 counted) })

theorem tBarrier_due : barrierDue (tBar true 100) (2, tBarrier) = true := by
  have h : (findLaunch (tBar true 100) tBarrier.lid).filter (fun l => l.st.mayBegin && !stalled (tBar true 100)) = some tL := by
    decide +kernel
  have h2 : tBarrier.lastCyc + 96 ≤ arrayCyc (tBar true 100) := by decide +kernel
  have h3 : ∀ b : Fin 48, b.val ∈ tBarrier.arrived := by simp [tBarrier]
  unfold barrierDue
  simp only [h]
  simp [h2, h3]

theorem witness_BarrierArrivesAndReleases : ((tBar false 0).blocks[0].wait = some (.barrier 2 false) ∧
      (tBar false 0).blocks[0].lid.bind (findLaunch (tBar false 0)) = some tL ∧ tL.st.mayBegin = true ∧
      stalled (tBar false 0) = false ∧ hingeTakes (tBar false 0) ((0 : Fin 48).val / 24) 0 = true ∧
      storesWait (tBar false 0) (.blk 0) = false ∧ findBarrier (tBar false 0) 2 tL.lid = none) ∧
    ((tBar true 100).barriers.find? (fun x => x.1 = (2 : Fin 32).val && barrierDue (tBar true 100) x &&
          (!releaseCrosses x || hingeTakes (tBar true 100) 0 0)) = some (2, tBarrier) ∧
      (tBar true 100).blocks[0].wait = some (.barrier 2 true) ∧
      tBarrier.arrived.Nodup ∧ ∀ n ∈ tBarrier.arrived, n < 48) := by
  refine ⟨by decide +kernel, ?_, by decide +kernel, by decide +kernel, by decide +kernel⟩
  have h : hingeTakes (tBar true 100) 0 0 = true := by decide +kernel
  rw [show (tBar true 100).barriers = [(2, tBarrier)] from rfl]
  simp [tBarrier_due, h]

/-- Block 0's wait on flag 9 of region 0 up to 4, begun at the launch's array cycle 0; the launch has run `ran`. -/
def tFlag (v : Word) (ran : Nat) : State :=
  modRgn (modBlk { tBlk (tWord [(0, 1, opWFL), (3, 1, 9), (4, 4, 4)]) with launches := [{ tL with ran := ran }] } 0
    (fun k => { k with wait := some (.flag 0 9 4 0) })) 0 (fun r => { r with
      flags := sset zeroFill r.flags 9 v, sce := { tList with waiting := some (FlagWait.mk 0 9 4 0) } })

/-- A broadcast of an LDT to blocks 0 to 5 of region 0. -/
def tBcast (iss : List Nat) : Bcast :=
  { word := wTile opLDT 2 2 16, issued := iss, lid := 1, since := 0, data := none, left := [] }

def tBc (iss : List Nat) (ran : Nat) : State :=
  modRgn { tRun with launches := [{ tL with ran := ran }] } 0 (fun r => { r with bcasts := [tBcast iss] })

theorem witness_WaitsTimeOutAndHalt :
    ((tBc [0] (2 ^ 27)).regions[0].bcasts = [tBcast [0]] ∧ (tBcast [0]).data = none ∧ (tBcast [0]).missing ≠ [] ∧
      findLaunch (tBc [0] (2 ^ 27)) 1 = some { tL with ran := 2 ^ 27 } ∧
      (tBcast [0]).since + timeout (tBc [0] (2 ^ 27)) (turnMode (tBc [0] (2 ^ 27)) 0) ≤ 2 ^ 27) ∧
    ((tFlag 3 (2 ^ 27)).blocks[0].wait = some (.flag 0 9 4 0) ∧ (tFlag 3 (2 ^ 27)).blocks[0].lid = some 1 ∧
      (tFlag 3 (2 ^ 27)).blocks[0].syncQ = [tEnt (tWord [(0, 1, opWFL), (3, 1, 9), (4, 4, 4)])] ∧
      findLaunch (tFlag 3 (2 ^ 27)) 1 = some { tL with ran := 2 ^ 27 } ∧ flagVal (tFlag 3 (2 ^ 27)) 0 9 < 4 ∧
      0 + timeout (tFlag 3 (2 ^ 27)) (waitTurn (tFlag 3 (2 ^ 27)) { tL with ran := 2 ^ 27 }) ≤ 2 ^ 27) := by decide +kernel

/-- A launch that has run for long. -/
def tOld : Launch := { tL with ran := 2 ^ 27 }

/-- A barrier with nobody arrived, its first arrival long ago. -/
def tWait : Barrier := { arrived := [], lid := 1, firstRan := 0, lastCyc := 0 }

def tLate : State := { tRun with launches := [tOld], barriers := [(2, tWait)] }

theorem late_of_none_arrived (s : State) (x : Nat × Barrier) (l : Launch)
    (hl : (findLaunch s x.2.lid).filter (fun l => l.st = .running) = some l)
    (ht : ∀ t : Bool, x.2.firstRan + timeout s t ≤ l.ran) (ha : x.2.arrived = []) :
    barrierLate s x = barrierBlocks l (Fin.ofNat 32 x.1) := by
  unfold barrierLate
  simp only [hl, ht, if_true, ha, List.not_mem_nil, decide_false, Bool.not_false, List.filter_true]

theorem tLate_facts : (findLaunch tLate 1).filter (fun l => l.st = .running) = some tOld ∧ tWait.lid = 1 ∧
    (tWait.firstRan + timeout tLate false ≤ tOld.ran ∧ tWait.firstRan + timeout tLate true ≤ tOld.ran) := by decide +kernel

/-- The record's barrier sets have no layout in the spec (log 11): where barrier 2 has a participant in the launch's
regions, its lateness is seen. -/
theorem witness_WaitsTimeOutAndHalt_barrier (h : barrierBlocks tOld 2 ≠ []) : barrierLate tLate (2, tWait) ≠ [] := by
  rw [late_of_none_arrived tLate (2, tWait) tOld tLate_facts.1 ?_ (by unfold tWait; exact Eq.refl _)]
  · exact h
  · intro t
    cases t
    · exact tLate_facts.2.2.1
    · exact tLate_facts.2.2.2

theorem witness_BroadcastReachesItsParticipants : (tBc [0, 1, 2, 3, 4, 5] 0).regions[0].bcasts = [tBcast [0, 1, 2, 3, 4, 5]] ∧
    (tBcast [0, 1, 2, 3, 4, 5]).ready = true ∧
    bcastLaunch (tBc [0, 1, 2, 3, 4, 5] 0) (tBcast [0, 1, 2, 3, 4, 5]) = some tL ∧
    (lDst (tBcast [0, 1, 2, 3, 4, 5]).word).sp ≠ .rbuf ∧
    (∀ j ∈ participants (tBcast [0, 1, 2, 3, 4, 5]).word, hostedNow (tBc [0, 1, 2, 3, 4, 5] 0) (blkOf 0 j) = true ∧
      bankHeld (tBc [0, 1, 2, 3, 4, 5] 0) (blkOf 0 j) (tBcast [0, 1, 2, 3, 4, 5]).word = false) ∧
    readsWait (tBc [0, 1, 2, 3, 4, 5] 0) 0 tL (touches (tBc [0, 1, 2, 3, 4, 5] 0) 0 tL (wTile opLDT 2 2 16)) = false ∧
    badRead (tBc [0, 1, 2, 3, 4, 5] 0) tL (touches (tBc [0, 1, 2, 3, 4, 5] 0) 0 tL (wTile opLDT 2 2 16)) = none := by
  decide +kernel

/-- A flag increment of block 0 on flag 9 of region 0, with no earlier store. -/
def tReq : FlagReq := { src := .blk 0, idx := 3, lid := 1, rgn := 0, flag := 9, inc := 1, before := 0 }

theorem witness_FlagsCountAndOverflow :
    (({ tFlag 3 0 with flagReqs := [tReq] }).flagReqs[0]? = some tReq ∧ findLaunch (tFlag 3 0) 1 = some tL ∧
      tL.st = .running ∧ stalled (tFlag 3 0) = false ∧ tReq.before = 0 ∧ flagVal (tFlag 3 0) 0 9 + tReq.inc < 2 ^ 32) ∧
    (findLaunch (tFlag 0xFFFFFFFF 0) 1 = some tL ∧ flagVal (tFlag 0xFFFFFFFF 0) 0 9 + tReq.inc = 2 ^ 32 ∧
      (tFlag 0xFFFFFFFF 0).blocks[0].lid = some 1) := by decide +kernel

theorem witness_FlagWaitsEnd : ((tFlag 4 0).blocks[0].wait = some (.flag 0 9 4 0) ∧
      (tFlag 4 0).blocks[0].lid.bind (findLaunch (tFlag 4 0)) = some tL ∧ tL.st.mayBegin = true ∧
      stalled (tFlag 4 0) = false ∧ 4 ≤ flagVal (tFlag 4 0) 0 9 ∧ (tFlag 4 0).regions[0].sce.waiting = some (FlagWait.mk 0 9 4 0) ∧
      (tFlag 4 0).regions[0].sce.lid.bind (findLaunch (tFlag 4 0)) = some tL ∧ tL.st = .running) ∧
    ((tFlag 3 0).blocks[0].wait = some (.flag 0 9 4 0) ∧
      (tFlag 3 0).blocks[0].lid.bind (findLaunch (tFlag 3 0)) = some tL ∧ flagVal (tFlag 3 0) 0 9 < 4) := by decide +kernel

/-- A miss of table line 0 in region 0, which block 0 waits for with entry 5. -/
def tMiss : CnpMiss := { line := 0, job := 0, lid := 1, waiters := [(0, 5)] }

def tCnp : State :=
  modRgn (modBlk (tBlk 0) 0 (fun k => { k with page := some (.waiting 5) })) 0 (fun r => { r with
    misses := [tMiss], inv := [some 5] })

theorem witness_CanopyFillAndInvalidation : (tCnp.regions[0].misses = [tMiss] ∧
      stalled tCnp = false ∧ readWaits tCnp (cnpTable tCnp 0 + 512 * tMiss.line) 512 tMiss.job = false ∧
      firstBad tCnp (cnpTable tCnp 0 + 512 * tMiss.line) 512 tMiss.job = none ∧
      crossMay tCnp (halfOf 0).val (cnpTable tCnp 0 + 512 * tMiss.line) = true ∧ ((0 : Fin 48), 5) ∈ missBlocks 0 tMiss ∧
      tCnp.blocks[0].page = some (.waiting 5)) ∧
    getF (0x80000000 : Word) 31 31 = 1 ∧ invQueued tCnp < 64 ∧ tCnp.regions[0].holder.isSome = true ∧
    (tRdy.regions[0].holder = none ∧
      (modRgn tRdy 0 (fun r => { r with inv := [none] })).regions[0].inv = [none]) := by decide +kernel

/-- A launch with one bucket, whose shape slot 0 counts n, and one roster entry in bucket 0. -/
def tBkt (n : Nat) : Launch :=
  { tL with
    hdr := tBytes 512 [(6, [1]), (64, toLe 8 1), (72, [1]), (128, toLe 4 n)],
    roster := [tWord [(40, 8, 0x8000)]] }

theorem witness_BucketSortIsStable :
    (({ tRun with launches := [tBkt 1] }).regions[0].holder.bind (findLaunch { tRun with launches := [tBkt 1] }) =
        some (tBkt 1) ∧ (tBkt 1).st = .running ∧ (tBkt 1).fld 72 1 ≠ 0 ∧
      ({ tRun with launches := [tBkt 1] }).regions[0].bucketsDone = false ∧ bucketBad (tBkt 1) = none ∧
      stalled { tRun with launches := [tBkt 1] } = false ∧
      (tBkt 1).roster.all (fun x => !readWaits { tRun with launches := [tBkt 1] } (roPlist x) (plistBytes x) (tBkt 1).job &&
        (firstBad { tRun with launches := [tBkt 1] } (roPlist x) (plistBytes x) (tBkt 1).job).isNone) = true) ∧
    (({ tRun with launches := [tBkt 2] }).regions[0].holder.bind (findLaunch { tRun with launches := [tBkt 2] }) =
        some (tBkt 2) ∧ bucketBad (tBkt 2) = some 0) := by decide +kernel

/-- Region 0 in turn on one physical block, block 0 finished; hosted, or gone. -/
def tTurn (gone : Bool) : State :=
  modRgn (modBlk (wfld tRun .krgBlkmap 0 21 16 1) 0 (fun k => { k with lid := some 1, finished := true })) 0 (fun r => { r with
    hosted := if gone then [] else [(0, 0)],
    turns := [{ phys := 0, used := 0, last := if gone then some 0 else none }] })

theorem witness_TurnsEndAndSwitch : (turnLaunch (tTurn false) 0 = some tL ∧
      turnOf (tTurn false) 0 = some { phys := 0, used := 0, last := none } ∧
      (tTurn false).regions[pRgn 0].hosted.find? (fun h => h.2 = (0 : Fin 56).val % 7) = some (0, 0) ∧
      turnOver (tTurn false) 0 (tTurn false).blocks[blkOf (pRgn 0) (Fin.ofNat 6 0)] { phys := 0, used := 0, last := none } = true ∧
      (tTurn false).blocks[blkOf (pRgn 0) (Fin.ofNat 6 0)].atPoint = true) ∧
    (turnLaunch (tTurn true) 0 = some tL ∧ turnOf (tTurn true) 0 = some { phys := 0, used := 0, last := some 0 } ∧
      (turnOrder (tTurn true) 0 0).find? (fun x => canGoOn (tTurn true) (blkOf (pRgn 0) (Fin.ofNat 6 x))) = some 1) := by
  decide +kernel

/-- A state in which every stack takes writes, no burst is bad and nothing waits. -/
theorem takes_of (s : State) (h : s.stk.toList.all (fun k => takesWrites k && !stackOff k) = true) (hd : s.mem.damaged = [])
    (hp : s.mem.poison = []) (hs : storesWait s .mgmt = false) : MemTakes s := by
  refine ⟨fun k => ?_, hd, hp, hs⟩
  have x := List.all_eq_true.mp h s.stk[k] (by simp)
  simpa using x

/-- The outgoing section is accepted at once, and the block that comes in has had no turn, so that nothing of it is read. -/
theorem witness_TurnsEndAndSwitch_section :
    sectionWaits (tTurn false) tL (blkOf (pRgn 0) (Fin.ofNat 6 0)) = false ∧ (tTurn true).regions[pRgn 0].late = [] ∧
    ∀ q ∈ sectionPieces (tTurn true) tL (blkOf (pRgn 0) (Fin.ofNat 6 1)), heldAt (tTurn true) q.1 q.2.len = false ∧
      firstBad (tTurn true) q.1 q.2.len tL.job = none := by
  have h : MemTakes (tTurn false) := takes_of _ (by decide +kernel) (by decide +kernel) (by decide +kernel) (by decide +kernel)
  have e : sectionPieces (tTurn true) tL (blkOf (pRgn 0) (Fin.ofNat 6 1)) = [] := by
    unfold sectionPieces
    rw [if_neg (by decide +kernel)]
  have a : heldAt (tTurn false) tL.livemap tL.livemapLen = false := by decide +kernel
  refine ⟨?_, by decide +kernel, ?_⟩
  · simp [sectionWaits, a, writeEnds_of_takes h]
  · rw [e]
    exact fun q hq => absurd hq List.not_mem_nil

/-- Every block of region 0 has finished. -/
def tAllDone : State :=
  (List.finRange 6).foldl (fun s j => modBlk s (blkOf 0 j) (fun k => { k with finished := true })) (tTurn true)

theorem witness_TurnsEndAndSwitch_none : turnLaunch tAllDone 0 = some tL ∧
    (turnOrder tAllDone 0 0).find? (fun x => canGoOn tAllDone (blkOf (pRgn 0) (Fin.ofNat 6 x))) = none := by decide +kernel

/-! ### List engines -/

/-- The launch with a grant to read and write the first 2 GiB, shape slot 0 holding 1, and one roster entry. -/
def tLG : Launch :=
  { tL with
    hdr := tBytes 1536 [(6, [1]), (64, toLe 8 1), (128, toLe 4 1), (1288, toLe 4 (2 ^ 20)), (1292, [3])], roster := [0] }

/-- A table entry that fits the parameter block of such an instruction. -/
def tEntry (s : State) (w : BitVec 512) : BitVec 256 :=
  let sh := apWord s 0 w 7
  BitVec.ofNat 256 (1 + 2 * apKind sh + 16 * apKvfmt sh + 256 * apDq sh + 4096 * 64)

theorem witness_AttentionStartsFromItsPage_got : ∀ op ∈ [opATS, opATV],
    let w := wAtt op 2
    let s0 : State := { tAtt w with launches := [tLG] }
    let s := modBlk s0 0 (fun k => { k with page := some (.got 5 (tEntry s0 w)) })
    front s 0 op = some (tEnt w, tLG) ∧ s.blocks[0].job = none ∧ pendingG s (.blk 0) = false ∧
    (extents s 0 tLG w).1 ≠ 0 ∧ (extents s 0 tLG w).2.1 ≠ 0 ∧ (extents s 0 tLG w).2.2 ≠ 0 ∧ aFetch w = true ∧
    tLG.fld 72 1 = 0 ∧ s.blocks[0].page = some (.got 5 (tEntry s0 w)) ∧ cnpCheck s 0 tLG w (tEntry s0 w) = none ∧
    (∀ r ∈ fetchRanges (kvFmt w) (headDim tLG w) (pageFill s 0 tLG w) (eBase (tEntry s0 w)) (op = opATV),
      readWaits s r.1 r.2 tLG.job = false ∧ readBehind s (.blk 0) r.1 r.2 = false ∧ firstBad s r.1 r.2 tLG.job = none) ∧
    readsWait s 0 tLG (touches s 0 tLG w) = false ∧ badRead s tLG (touches s 0 tLG w) = none := by decide +kernel

/-- A region-buffer operand at address a. -/
def rb (a : Nat) : Nat := 2 ^ 63 + a

/-- The device at a list entry, with one layer record and 64 amax records. -/
def tE (w : BitVec 512) : State :=
  wreg (wreg (wreg (tEng w tLG) .rveTrncfg 0 0x0101) .rveTrnbase 0 0x100) .rveAmxbase 0 0x200

/-- A CONV of one pixel and channel in the region buffer. -/
def wConv (sig : Nat) : BitVec 512 :=
  tWord [(0, 1, 1), (4, 2, 1), (6, 2, 1), (8, 2, 1), (10, 2, 1), (12, 1, 0x11), (13, 1, 0x11), (16, 8, rb 0), (24, 8, rb 4096),
    (32, 8, rb 8192), (50, 2, 1), (52, 1, sig), (53, 1, sig)]

theorem witness_SceConvolvesAndEnds : ∀ sig ∈ [0, 0x80],
    AtEntry (tE (wConv sig)) (.sce 0) 0x01 tList tLG (wConv sig) ∧ sceDescBad (wConv sig) = none ∧
    sceBound (tE (wConv sig)) tLG (sceOf (wConv sig)) = none ∧ sceFrc (tE (wConv sig)) (sceOf (wConv sig)) = none ∧
    fld (wConv sig) 56 4 ≤ flagVal (tE (wConv sig)) 0 (Fin.ofNat 64 (fld (wConv sig) 52 1)) ∧
    rangeWaits (tE (wConv sig)) (.sce 0) tLG ((sceOf (wConv sig)).reads ++ (sceOf (wConv sig)).params) = false ∧
    rangeBad (tE (wConv sig)) tLG ((sceOf (wConv sig)).reads ++ (sceOf (wConv sig)).params) = none ∧
    fld (wConv sig) 52 1 = sig ∧ fld (wConv sig) 53 1 = sig ∧ (sceOf (wConv sig)).rounds ≤ tList.part + 1 ∧
    AtEntry (tE (tWord [(0, 1, 0x3F)])) (.sce 0) 0x3F tList tLG (tWord [(0, 1, 0x3F)]) := by
  unfold AtEntry; decide +kernel

/-- A CONV of three pixels of 1,024 channels: two lane rounds. -/
def wConv2 : BitVec 512 :=
  tWord [(0, 1, 1), (4, 2, 1), (6, 2, 3), (8, 2, 1), (10, 2, 1024), (12, 1, 0x11), (13, 1, 0x11), (16, 8, rb 0 + 2 ^ 44),
    (24, 8, rb 4096 + 32 * 2 ^ 44), (32, 8, rb 65536), (50, 2, 1)]

theorem witness_SceConvolvesAndEnds_rounds : AtEntry (tE wConv2) (.sce 0) 0x01 tList tLG wConv2 ∧ sceDescBad wConv2 = none ∧
    sceBound (tE wConv2) tLG (sceOf wConv2) = none ∧ sceFrc (tE wConv2) (sceOf wConv2) = none ∧ fld wConv2 52 1 = 0 ∧
    rangeWaits (tE wConv2) (.sce 0) tLG ((sceOf wConv2).reads ++ (sceOf wConv2).params) = false ∧
    rangeBad (tE wConv2) tLG ((sceOf wConv2).reads ++ (sceOf wConv2).params) = none ∧
    tList.part + 1 < (sceOf wConv2).rounds := by
  unfold AtEntry; decide +kernel

/-- A training entry with its three operands in the region buffer. -/
def wTrn (op fmt : Nat) : BitVec 512 :=
  tWord [(0, 1, op), (2, 1, fmt), (8, 8, rb 0), (24, 8, rb 128)]

def wUwr : BitVec 512 := tWord [(0, 1, 0x40), (8, 8, rb 0), (16, 8, rb 64)]
def wAmxp : BitVec 512 := tWord [(0, 1, 0x42), (8, 8, rb 0)]

theorem witness_TrainingRecordsAreWritten :
    (AtEntry (tE wUwr) (.rve 0) 0x40 tList tLG wUwr ∧ uwrBad wUwr = none ∧ tIndex wUwr < nLayer (tE wUwr) 0 ∧
      (uwrRanges (tE wUwr) 0 wUwr).all (fun x => x.ok (tE wUwr) tLG) = true ∧
      rangeWaits (tE wUwr) (.rve 0) tLG (uwrRanges (tE wUwr) 0 wUwr) = false ∧
      rangeBad (tE wUwr) tLG (uwrRanges (tE wUwr) 0 wUwr) = none) ∧
    (AtEntry (tE (wTrn 0x41 2)) (.rve 0) 0x41 tList tLG (wTrn 0x41 2) ∧ lrexpBad (wTrn 0x41 2) = none ∧
      tIndex (wTrn 0x41 2) < nLayer (tE (wTrn 0x41 2)) 0 ∧
      (lrexpRanges (tE (wTrn 0x41 2)) 0 (wTrn 0x41 2)).all (fun x => x.ok (tE (wTrn 0x41 2)) tLG) = true ∧
      rangeWaits (tE (wTrn 0x41 2)) (.rve 0) tLG (lrexpRanges (tE (wTrn 0x41 2)) 0 (wTrn 0x41 2)) = false ∧
      rangeBad (tE (wTrn 0x41 2)) tLG (lrexpRanges (tE (wTrn 0x41 2)) 0 (wTrn 0x41 2)) = none) ∧
    (AtEntry (tE wAmxp) (.rve 0) 0x42 tList tLG wAmxp ∧ amxpBad wAmxp = none ∧ amRec (tE wAmxp) 0 wAmxp = false ∧
      (amxpRanges (tE wAmxp) 0 wAmxp).all (fun x => x.ok (tE wAmxp) tLG) = true ∧
      rangeWaits (tE wAmxp) (.rve 0) tLG (amxpRanges (tE wAmxp) 0 wAmxp) = false ∧
      rangeBad (tE wAmxp) tLG (amxpRanges (tE wAmxp) 0 wAmxp) = none ∧ statAt (tE wAmxp) 0 (tSrcA wAmxp) 3 = 0) := by
  unfold AtEntry; decide +kernel

/-- The region buffer with 1 in each of the first 32 words. -/
def tOnes (s : State) : State :=
  modRgn s 0 (fun r => { r with rbuf := sput zeroFill r.rbuf 0 ((List.range 32).flatMap (fun _ => toLe 4 1)) })

def tOnesU : State := tOnes (tE wUwr)
def tOnesA : State := tOnes (tE wAmxp)

theorem witness_TrainingRecordsAreWritten_counts : AtEntry tOnesU (.rve 0) 0x40 tList tLG wUwr ∧ tIndex wUwr < nLayer tOnesU 0 ∧
    (uwrRanges tOnesU 0 wUwr).all (fun x => x.ok tOnesU tLG) = true ∧
    rangeWaits tOnesU (.rve 0) tLG (uwrRanges tOnesU 0 wUwr) = false ∧ rangeBad tOnesU tLG (uwrRanges tOnesU 0 wUwr) = none ∧
    statAt tOnesU 0 (tSrcA wUwr) 2 ≠ 0 ∧
    statAt (tE wUwr) 0 (tSrcA wUwr) 2 = 0 ∧ statAt (tE wUwr) 0 (tSrcB wUwr) 2 = 0 ∧
    (Machine.val (statAt (tE wUwr) 0 (tSrcB wUwr) 1)).isZero = true ∧
    AtEntry tOnesA (.rve 0) 0x42 tList tLG wAmxp ∧ amRec tOnesA 0 wAmxp = false ∧
    (amxpRanges tOnesA 0 wAmxp).all (fun x => x.ok tOnesA tLG) = true ∧
    rangeWaits tOnesA (.rve 0) tLG (amxpRanges tOnesA 0 wAmxp) = false ∧ rangeBad tOnesA tLG (amxpRanges tOnesA 0 wAmxp) = none ∧
    statAt tOnesA 0 (tSrcA wAmxp) 3 ≠ 0 ∧ statAt tOnesA 0 (tSrcA wAmxp) 2 ≠ 0 := by
  unfold AtEntry; decide +kernel

/-- Sums of weights alone, without a non-finite count. -/
def tSum : State := modRgn (tE wUwr) 0 (fun r => { r with rbuf := sput zeroFill r.rbuf 68 (toLe 4 0x3F800000) })

theorem witness_TrainingRecordsAreWritten_sum : AtEntry tSum (.rve 0) 0x40 tList tLG wUwr ∧ tIndex wUwr < nLayer tSum 0 ∧
    (uwrRanges tSum 0 wUwr).all (fun x => x.ok tSum tLG) = true ∧ rangeWaits tSum (.rve 0) tLG (uwrRanges tSum 0 wUwr) = false ∧
    rangeBad tSum tLG (uwrRanges tSum 0 wUwr) = none ∧ statAt tSum 0 (tSrcA wUwr) 2 = 0 ∧ statAt tSum 0 (tSrcB wUwr) 2 = 0 ∧
    (Machine.val (statAt tSum 0 (tSrcB wUwr) 1)).isZero = false := by
  unfold AtEntry; decide +kernel

/-- The SPREP entry's amax record with one valid amax. -/
def tHist : State := tPut (tE (wTrn 0x43 2)) [(0x200 * 4096 + 64, [0x10])]

/-- A probe that counted elements. -/
def tProbe : State :=
  modRgn (tE (wTrn 0x43 2)) 0 (fun r => { r with rbuf := sput zeroFill r.rbuf 0 (toLe 4 0x3F800000 ++ toLe 8 0 ++ toLe 4 7) })

theorem witness_ScalesAreDerivedAndGradientsNarrowed_probe : AtEntry tProbe (.rve 0) 0x43 tList tLG (wTrn 0x43 2) ∧
    amRec tProbe 0 (wTrn 0x43 2) = false ∧ (sprepRanges tProbe 0 (wTrn 0x43 2)).all (fun x => x.ok tProbe tLG) = true ∧
    rangeWaits tProbe (.rve 0) tLG (sprepRanges tProbe 0 (wTrn 0x43 2)) = false ∧
    rangeBad tProbe tLG (sprepRanges tProbe 0 (wTrn 0x43 2)) = none ∧ spProbe tProbe 0 (wTrn 0x43 2) = true ∧
    statAt tProbe 0 (tSrcA (wTrn 0x43 2)) 3 ≠ 0 := by
  unfold AtEntry; decide +kernel

def wGcvt : BitVec 512 := tWord [(0, 1, 0x44), (8, 8, rb 0), (24, 8, rb 128), (32, 4, 1), (36, 4, 1)]

theorem witness_ScalesAreDerivedAndGradientsNarrowed :
    (AtEntry tHist (.rve 0) 0x43 tList tLG (wTrn 0x43 2) ∧ sprepBad (wTrn 0x43 2) = none ∧
      amRec tHist 0 (wTrn 0x43 2) = false ∧
      (sprepRanges tHist 0 (wTrn 0x43 2)).all (fun x => x.ok tHist tLG) = true ∧
      rangeWaits tHist (.rve 0) tLG (sprepRanges tHist 0 (wTrn 0x43 2)) = false ∧
      rangeBad tHist tLG (sprepRanges tHist 0 (wTrn 0x43 2)) = none ∧ spProbe tHist 0 (wTrn 0x43 2) = false) ∧
    (AtEntry (tE (wTrn 0x43 2)) (.rve 0) 0x43 tList tLG (wTrn 0x43 2) ∧ amRec (tE (wTrn 0x43 2)) 0 (wTrn 0x43 2) = false ∧
      (sprepRanges (tE (wTrn 0x43 2)) 0 (wTrn 0x43 2)).all (fun x => x.ok (tE (wTrn 0x43 2)) tLG) = true ∧
      rangeWaits (tE (wTrn 0x43 2)) (.rve 0) tLG (sprepRanges (tE (wTrn 0x43 2)) 0 (wTrn 0x43 2)) = false ∧
      rangeBad (tE (wTrn 0x43 2)) tLG (sprepRanges (tE (wTrn 0x43 2)) 0 (wTrn 0x43 2)) = none ∧
      spProbe (tE (wTrn 0x43 2)) 0 (wTrn 0x43 2) = true ∧ statAt (tE (wTrn 0x43 2)) 0 (tSrcA (wTrn 0x43 2)) 3 = 0) ∧
    (AtEntry (tE wGcvt) (.rve 0) 0x44 tList tLG wGcvt ∧ gcvtBad wGcvt = none ∧
      (gcvtRanges wGcvt).all (fun x => x.ok (tE wGcvt) tLG) = true ∧ (tE wGcvt).regions[0].rveOut = false ∧
      rangeWaits (tE wGcvt) (.rve 0) tLG (gcvtRanges wGcvt) = false ∧
      rangeBad (tE wGcvt) tLG (gcvtRanges wGcvt) = none) := by
  unfold AtEntry; decide +kernel

/-- A Tumbler entry of one area or element. -/
def wVar (op w : Nat) : BitVec 512 := tWord [(0, 1, op), (12, 4, 1), (16, 4, w), (32, 8, rb 0)]

def tOut (s : State) : State := modRgn s 0 (fun r => { r with rveOut := true })

theorem witness_VariatesAreWritten :
    (AtEntry (tE (wVar 0x48 0)) (.rve 0) 0x48 tList tLG (wVar 0x48 0) ∧ bernBad (wVar 0x48 0) = none ∧
      (wrR (vDst (wVar 0x48 0)) (2048 * vCount (wVar 0x48 0))).ok (tE (wVar 0x48 0)) tLG = true ∧
      (tE (wVar 0x48 0)).regions[0].rveOut = false ∧
      AtEntry (tOut (tE (wVar 0x48 0))) (.rve 0) 0x48 tList tLG (wVar 0x48 0) ∧
      (wrR (vDst (wVar 0x48 0)) (2048 * vCount (wVar 0x48 0))).ok (tOut (tE (wVar 0x48 0))) tLG = true ∧
      (tOut (tE (wVar 0x48 0))).regions[0].rveOut = true) ∧
    (∀ op ∈ [0x49, 0x4A], AtEntry (tE (wVar op 1)) (.rve 0) op tList tLG (wVar op 1) ∧ vecBad (wVar op 1) = none ∧
      (wrR (vDst (wVar op 1)) (vElt (wVar op 1) * vCount (wVar op 1))).ok (tE (wVar op 1)) tLG = true ∧
      (tE (wVar op 1)).regions[0].rveOut = false) ∧
    (AtEntry (tE (wVar 0x4B 1)) (.rve 0) 0x4B tList tLG (wVar 0x4B 1) ∧ noiseBad (wVar 0x4B 1) = none ∧
      noiseSlot tLG (wVar 0x4B 1) = some 1 ∧
      (List.range 1).all (fun q => (Range.mk (vDst (wVar 0x4B 1)).sp true (noiseAt (wVar 0x4B 1) q)
        (vElt (wVar 0x4B 1) * vCount (wVar 0x4B 1))).ok (tE (wVar 0x4B 1)) tLG) = true ∧
      (tE (wVar 0x4B 1)).regions[0].rveOut = false) := by
  unfold AtEntry; decide +kernel

/-- A TADD of one part of one element; mode 0 in order, 3 by arrival after a wait, 4 with a signal. -/
def wTadd (mode : Nat) : BitVec 512 :=
  tWord [(0, 1, 0x4C), (1, 1, mode), (4, 4, 1), (8, 4, 1), (16, 8, rb 0), (24, 8, rb 4096)]

/-- A SADD of one row of one word. -/
def wSadd (mode : Nat) : BitVec 512 :=
  tWord [(0, 1, 0x4D), (1, 1, mode), (4, 4, 1), (8, 4, 1), (16, 8, 2 ^ 44 + rb 0), (24, 8, 2 ^ 44 + rb 4096), (36, 4, 1),
    (40, 8, rb 8192)]

/-- The launch with both relaxations of the fixed order. -/
def tRelax : Launch := { tLG with hdr := tBytes 1536 [(6, [1]), (8, [3]), (1288, toLe 4 (2 ^ 20)), (1292, [3])] }

theorem witness_ReductionsCompleteAndEnd : (∀ m ∈ [0, 3, 4], AtEntry (tEng (wTadd m) tRelax) (.rve 0) 0x4C tList tRelax (wTadd m) ∧
      taddBad tRelax (wTadd m) = none ∧ (taddRanges (wTadd m)).all (fun x => x.ok (tEng (wTadd m) tRelax) tRelax) = true ∧
      notReady (tEng (wTadd m) tRelax) 0 (wTadd m) = none ∧
      rangeWaits (tEng (wTadd m) tRelax) (.rve 0) tRelax (taddRanges (wTadd m)) = false ∧
      rangeBad (tEng (wTadd m) tRelax) tRelax (taddRanges (wTadd m)) = none) ∧
    rArrive (wTadd 0) = false ∧ rArrive (wTadd 3) = true ∧ rSig (wTadd 4) = true ∧ rSig (wTadd 0) = false ∧
    (∀ m ∈ [0, 2, 4], AtEntry (tEng (wSadd m) tRelax) (.rve 0) 0x4D tList tRelax (wSadd m) ∧
      saddBad tRelax (wSadd m) = none ∧ (saddRanges (wSadd m)).all (fun x => x.ok (tEng (wSadd m) tRelax) tRelax) = true ∧
      rangeWaits (tEng (wSadd m) tRelax) (.rve 0) tRelax (saddNow (tEng (wSadd m) tRelax) 0 tList (wSadd m)) = false ∧
      rangeBad (tEng (wSadd m) tRelax) tRelax (saddNow (tEng (wSadd m) tRelax) 0 tList (wSadd m)) = none ∧
      saddWaits (tEng (wSadd m) tRelax) 0 tRelax (wSadd m) tList.part = false) ∧ rArrive (wSadd 0) = false ∧
    rArrive (wSadd 2) = true ∧ tList.part + 1 = saN (wSadd 2) ∧ rSig (wSadd 0) = false ∧ rSig (wSadd 4) = true ∧
    AtEntry (tE (tWord [(0, 1, 0x3F)])) (.rve 0) 0x3F tList tLG (tWord [(0, 1, 0x3F)]) ∧
    (∀ i < 63, fld (tWord [(0, 1, 0x3F)]) (1 + i) 1 = 0) := by
  unfold AtEntry; decide +kernel

/-- A SAMPLE of two rows of one logit. -/
def wSmp : BitVec 512 := tWord [(0, 1, 0x50), (4, 4, 2), (8, 4, 1), (16, 8, rb 0), (24, 8, rb 4096), (32, 8, rb 8192)]

def tRow : State := modHalf (tE wSmp) 0 (fun h => { h with smpRow := some 0 })

theorem witness_SamplerSelectsTokens : (AtEntry (tE wSmp) (.smp 0) 0x50 tList tLG wSmp ∧ (tE wSmp).halves[0].smpRow = none ∧
      smpBad tLG wSmp = none ∧ (smpRanges tLG wSmp).all (fun x => x.ok (tE wSmp) tLG) = true ∧ fld wSmp 2 1 / 128 = 0) ∧
    (AtEntry tRow (.smp 0) 0x50 tList tLG wSmp ∧ tRow.halves[0].smpRow = some 0 ∧ 0 + 1 < sRows tLG wSmp ∧
      tRow.halves[0].smpOut = false ∧ storesWait tRow (.smp 0) = false ∧
      rangeWaits tRow (.smp 0) tLG [Range.mk (sPrm wSmp).sp false ((sPrm wSmp).addr + 16 * 0) 16,
        Range.mk (sSrc wSmp).sp false (sRowAt wSmp 0) (sElt wSmp * sV wSmp)] = false ∧
      rangeBad tRow tLG [Range.mk (sPrm wSmp).sp false ((sPrm wSmp).addr + 16 * 0) 16,
        Range.mk (sSrc wSmp).sp false (sRowAt wSmp 0) (sElt wSmp * sV wSmp)] = none) ∧
    AtEntry (tE (tWord [(0, 1, 0x3F)])) (.smp 0) 0x3F tList tLG (tWord [(0, 1, 0x3F)]) := by
  unfold AtEntry; decide +kernel

/-- A SAMPLE whose row parameters stand in memory: TM 1.0, K 0, P 1.0, roster entry 0; or 1, which is not there. -/
def wSmpM : BitVec 512 :=
  tWord [(0, 1, 0x50), (4, 4, 2), (8, 4, 1), (16, 8, rb 0), (24, 8, 3 * 2 ^ 62 + 0x9000), (32, 8, rb 8192)]

def tRowM (req : Nat) : State :=
  tPut (modHalf (tE wSmpM) 0 (fun h => { h with smpRow := some 0 }))
    [(0x9000, toLe 4 0x3F800000 ++ toLe 4 0 ++ toLe 4 0x3F800000 ++ toLe 2 req)]

theorem witness_SamplerSelectsTokens_params : ∀ req ∈ [0, 1],
    AtEntry (tRowM req) (.smp 0) 0x50 tList tLG wSmpM ∧ (tRowM req).halves[0].smpRow = some 0 ∧ 0 + 1 < sRows tLG wSmpM ∧
    (tRowM req).halves[0].smpOut = false ∧ storesWait (tRowM req) (.smp 0) = false ∧
    rangeWaits (tRowM req) (.smp 0) tLG [Range.mk (sPrm wSmpM).sp false ((sPrm wSmpM).addr + 16 * 0) 16,
      Range.mk (sSrc wSmpM).sp false (sRowAt wSmpM 0) (sElt wSmpM * sV wSmpM)] = false ∧
    rangeBad (tRowM req) tLG [Range.mk (sPrm wSmpM).sp false ((sPrm wSmpM).addr + 16 * 0) 16,
      Range.mk (sSrc wSmpM).sp false (sRowAt wSmpM 0) (sElt wSmpM * sV wSmpM)] = none ∧
    rowParamBad tLG (BitVec.ofNat 32 (leAt (memBytes (tRowM req) 0x9000 16) 0 4)) (leAt (memBytes (tRowM req) 0x9000 16) 4 4)
      (BitVec.ofNat 32 (leAt (memBytes (tRowM req) 0x9000 16) 8 4)) (leAt (memBytes (tRowM req) 0x9000 16) 12 2) =
      decide (req = 1) := by
  unfold AtEntry; decide +kernel

/-- The last row, with and without a signal. -/
def wSmpS (sig : Nat) : BitVec 512 :=
  tWord [(0, 1, 0x50), (4, 4, 2), (8, 4, 1), (16, 8, rb 0), (24, 8, rb 4096), (32, 8, rb 8192), (42, 1, sig)]

def tLast (sig : Nat) : State := modHalf (tE (wSmpS sig)) 0 (fun h => { h with smpRow := some 1 })

theorem witness_SamplerSelectsTokens_last : ∀ sig ∈ [0, 0x80],
    AtEntry (tLast sig) (.smp 0) 0x50 tList tLG (wSmpS sig) ∧ (tLast sig).halves[0].smpRow = some 1 ∧
    1 + 1 = sRows tLG (wSmpS sig) ∧ (tLast sig).halves[0].smpOut = false ∧ storesWait (tLast sig) (.smp 0) = false ∧
    rangeWaits (tLast sig) (.smp 0) tLG [Range.mk (sPrm (wSmpS sig)).sp false ((sPrm (wSmpS sig)).addr + 16 * 1) 16,
      Range.mk (sSrc (wSmpS sig)).sp false (sRowAt (wSmpS sig) 1) (sElt (wSmpS sig) * sV (wSmpS sig))] = false ∧
    rangeBad (tLast sig) tLG [Range.mk (sPrm (wSmpS sig)).sp false ((sPrm (wSmpS sig)).addr + 16 * 1) 16,
      Range.mk (sSrc (wSmpS sig)).sp false (sRowAt (wSmpS sig) 1) (sElt (wSmpS sig) * sV (wSmpS sig))] = none ∧
    fld (wSmpS sig) 42 1 = sig := by
  unfold AtEntry; decide +kernel

theorem witness_SessionsOpenAndEnd : ∀ op ∈ [0x60, 0x62, 0x3F],
    AtEntry (tE (tWord [(0, 1, op)])) (.vse 0) op tList tLG (tWord [(0, 1, op)]) ∧
    storesWait (tE (tWord [(0, 1, op)])) (.vse 0) = false ∧ pendingG (tE (tWord [(0, 1, op)])) (.vse 0) = false := by
  unfold AtEntry; decide +kernel

/-- The session area, its record and header (record zeros, MAGIC, KIND, BUSY 0, the firmware's major version). -/
def sesA : Nat := 0x200000

def tHead (kind : Nat) : List Byte :=
  tBytes 272 [(256, [0x56, 0x5A]), (258, toLe 1 kind), (260, toLe 1 (fwMajor tRdy))]

/-- A stream-engine entry whose session area is `sesA`. -/
def wVse (op : Nat) : BitVec 512 := tWord [(0, 1, op), (8, 8, sesA), (16, 8, if op = 0x61 then rb 0 else 0), (40, 1, 1)]

def tVse0 (op kind : Nat) (x : Session) : State :=
  { tPut (tEng (wVse op) tLG) [(sesA, tHead kind)] with sessions := [x] }

def sessBs (x : Session) : List Byte := (List.range 3824).map (fun i => Config.sessByte x (16 + i))

/-- The device at that entry, with the bytes of session state x in the area. -/
def tVse (op kind : Nat) (x : Session) : State := memPut (tVse0 op kind x) (sesA + 272) (sessBs x)

theorem sessBs_length (x : Session) : (sessBs x).length = 3824 := by simp [sessBs]

theorem memBytes_tVse (op kind : Nat) (x : Session) (b n : Nat) (h : b + n ≤ sesA + 272) :
    memBytes (tVse op kind x) b n = memBytes (tVse0 op kind x) b n := by
  have g : ∀ y, y < sesA + 272 → memByte (tVse op kind x) y = memByte (tVse0 op kind x) y := fun y hy => by
    unfold tVse; exact memByte_memPut_other _ _ _ _ (Or.inl hy)
  unfold memBytes
  rw [srange_eq_map, srange_eq_map]
  apply List.map_congr_left
  intro i hi
  exact g (b + i) (by have := List.mem_range.mp hi; omega)

theorem sessAt_tVse (op kind : Nat) (x : Session) : sessAt (tVse op kind x) sesA = x := by
  have h : viewBytes (tVse op kind x) (sesA + 272) 3824 = sessBs x := by
    unfold viewBytes
    rw [if_pos (by decide), ← sessBs_length x]
    exact memBytes_memPut_same _ _ _
  unfold sessAt
  rw [h]
  rw [show (tVse op kind x).sessions = [x] from rfl]
  simp [sessBs]

theorem viewBytes_tVse (op kind : Nat) (x : Session) (h : memBytes (tVse0 op kind x) sesA 256 = (tHead kind).take 256) :
    viewBytes (tVse op kind x) sesA 256 = (tHead kind).take 256 := by
  unfold viewBytes
  rw [if_pos (by decide), memBytes_tVse _ _ _ _ _ (by decide), h]

def encNew : Session := .enc { pics := [], group := [], base := none, ended := false, full := 0 }
def encEnd : Session := .enc { pics := [], group := [], base := none, ended := true, full := 0 }
def decState0 : DecState := { units := [], outs := 0, kept := [], count := 0, last := [], latest := [] }
def decNew : Session := .dec decState0

/-- A job with one row left, one with a decode to output, and one at its end. -/
def tJobs : List VseJob :=
  [{ todo := [VseRow.mk 0 [] none], res := 0, ses := 0, rows := 0, tail := .ready [] [] false false false 0 },
   { todo := [], res := 0, ses := 0, rows := 0,
     tail := .decode false [] (DecKey.mk [] 0 [] (UnitIn.mk none [])) decState0 },
   { todo := [], res := 0, ses := 0, rows := 0, tail := .ready [] [] false false false 0 }]

theorem witness_PicturesAreCodedAndRecorded_record : ∀ op ∈ [0x61, 0x63, 0x64], ∀ sig ∈ [0, 0x80], ∀ j ∈ tJobs,
    let w := tWord [(0, 1, op), (48, 1, sig)]
    let s := modHalf (tE w) 0 (fun h => { h with vseJob := some j })
    AtEntry s (.vse 0) op tList tLG w ∧ storesWait s (.vse 0) = false ∧ pendingG s (.vse 0) = false ∧
    s.halves[0].vseJob = some j ∧ fld w 48 1 = sig := by
  unfold AtEntry; decide +kernel

theorem memLe_tVse (op kind : Nat) (x : Session) (b n : Nat) (h : b + n ≤ sesA + 272) :
    memLe (tVse op kind x) b n = memLe (tVse0 op kind x) b n := by
  unfold memLe; rw [memBytes_tVse _ _ _ _ _ h]

theorem sesReady_tVse (op kind : Nat) (x : Session) :
    sesReady (tVse op kind x) sesA kind = sesReady (tVse0 op kind x) sesA kind := by
  have hf : fwMajor (tVse op kind x) = fwMajor (tVse0 op kind x) := by unfold tVse memPut fwMajor rfld rreg; rfl
  have hi (n : Nat) : installed (tVse op kind x) sesA n = installed (tVse0 op kind x) sesA n := by
    unfold tVse memPut installed rfld rreg; rfl
  have hv : viewBytes (tVse op kind x) sesA 256 = viewBytes (tVse0 op kind x) sesA 256 := by
    unfold viewBytes; rw [if_pos (by decide), if_pos (by decide), memBytes_tVse _ _ _ _ _ (by decide)]
  unfold sesReady
  rw [hf, hv, memLe_tVse _ _ _ _ _ (by decide), memLe_tVse _ _ _ _ _ (by decide), memLe_tVse _ _ _ _ _ (by decide),
    memLe_tVse _ _ _ _ _ (by decide)]
  simp only [hi]

/-- What EPIC asks of its entry and area, beside the session's state. -/
theorem witness_PicturesAreCodedAndRecorded_epic : ∀ x ∈ [encNew, encEnd, decNew],
    AtEntry (tVse 0x61 1 x) (.vse 0) 0x61 tList tLG (wVse 0x61) ∧ storesWait (tVse 0x61 1 x) (.vse 0) = false ∧
    pendingG (tVse 0x61 1 x) (.vse 0) = false ∧
    (tVse 0x61 1 x).halves[0].vseJob = none ∧ epicBad tLG (wVse 0x61) = none ∧ fld (wVse 0x61) 8 8 = sesA ∧
    vseBound (tVse 0x61 1 x) tLG (sesRanges sesA 4096) = none ∧
    rangeWaits (tVse 0x61 1 x) (.vse 0) tLG [memR false sesA 4096] = false ∧
    rangeBad (tVse 0x61 1 x) tLG [memR false sesA 4096] = none ∧ sesReady (tVse 0x61 1 x) sesA 1 = true ∧
    memLe (tVse 0x61 1 x) (sesA + 264) 8 ≤ fld (wVse 0x61) 36 4 ∧
    vseBound (tVse 0x61 1 x) tLG ((picRanges (viewBytes (tVse 0x61 1 x) sesA 256) (refAt (wVse 0x61) 16) (fld (wVse 0x61) 24 4)).map
        (fun x => (x, 16)) ++ [(memR true (fld (wVse 0x61) 28 8) (fld (wVse 0x61) 36 4), 28),
       (memR true (fld (wVse 0x61) 40 8) 64, 40)] ++
       sesRanges sesA (sessArea true (viewBytes (tVse 0x61 1 x) sesA 256))) = none ∧
    rangeWaits (tVse 0x61 1 x) (.vse 0) tLG
      (picRanges (viewBytes (tVse 0x61 1 x) sesA 256) (refAt (wVse 0x61) 16) (fld (wVse 0x61) 24 4)) = false ∧
    rangeBad (tVse 0x61 1 x) tLG
      (picRanges (viewBytes (tVse 0x61 1 x) sesA 256) (refAt (wVse 0x61) 16) (fld (wVse 0x61) 24 4)) = none ∧
    fld (wVse 0x61) 2 1 / 128 = 0 ∧ sessAt (tVse 0x61 1 x) sesA = x := by
  intro x hx
  have hv := viewBytes_tVse 0x61 1 x
  simp only [List.mem_cons, List.not_mem_nil, or_false] at hx
  rcases hx with rfl | rfl | rfl
  all_goals
    rw [hv (by decide +kernel), sesReady_tVse, memLe_tVse _ _ _ _ _ (by decide), sessAt_tVse]
    unfold AtEntry entryAt
    rw [memBytes_tVse _ _ _ _ _ (by decide +kernel)]
    decide +kernel

theorem witness_PicturesAreCodedAndRecorded_order :
    (orderOf ((tHead 1).take 256) { pics := [], group := [], base := none, ended := false, full := 0 } (fld (wVse 0x61) 1 1)
      (fld (wVse 0x61) 4 4)).isSome = true ∧
    orderOf ((tHead 1).take 256) { pics := [], group := [], base := none, ended := true, full := 0 } (fld (wVse 0x61) 1 1)
      (fld (wVse 0x61) 4 4) = none := by decide +kernel

/-- What DAU and DFLUSH ask of their entry and area, beside the session's state. -/
theorem witness_PicturesAreCodedAndRecorded_dau : ∀ p ∈ [(0x63, false), (0x64, true)], ∀ x ∈ [decNew, encNew],
    AtEntry (tVse p.1 2 x) (.vse 0) p.1 tList tLG (wVse p.1) ∧ storesWait (tVse p.1 2 x) (.vse 0) = false ∧
    pendingG (tVse p.1 2 x) (.vse 0) = false ∧
    (tVse p.1 2 x).halves[0].vseJob = none ∧ dauBad tLG (wVse p.1) p.2 = none ∧ fld (wVse p.1) 8 8 = sesA ∧
    vseBound (tVse p.1 2 x) tLG (sesRanges sesA 4096) = none ∧
    rangeWaits (tVse p.1 2 x) (.vse 0) tLG [memR false sesA 4096] = false ∧
    rangeBad (tVse p.1 2 x) tLG [memR false sesA 4096] = none ∧ sesReady (tVse p.1 2 x) sesA 2 = true ∧
    slotSmall (viewBytes (tVse p.1 2 x) sesA 256) (fld (wVse p.1) 36 4) = false ∧
    vseBound (tVse p.1 2 x) tLG ([(memR false (fld (wVse p.1) 16 8) (fld (wVse p.1) 24 4), 16),
      (memR true (fld (wVse p.1) 28 8) (fld (wVse p.1) 40 1 * fld (wVse p.1) 36 4 * 64), 28),
      (memR true (fld (wVse p.1) 41 6) 192, 41)] ++
      sesRanges sesA (sessArea false (viewBytes (tVse p.1 2 x) sesA 256))) = none ∧
    rangeWaits (tVse p.1 2 x) (.vse 0) tLG [memR false (fld (wVse p.1) 16 8) (fld (wVse p.1) 24 4)] = false ∧
    rangeBad (tVse p.1 2 x) tLG [memR false (fld (wVse p.1) 16 8) (fld (wVse p.1) 24 4)] = none ∧
    fld (wVse p.1) 2 1 / 128 = 0 ∧ sessAt (tVse p.1 2 x) sesA = x := by
  intro p hp x hx
  simp only [List.mem_cons, List.not_mem_nil, or_false] at hp hx
  rcases hp with rfl | rfl <;> rcases hx with rfl | rfl
  all_goals
    rw [viewBytes_tVse _ _ _ (by decide +kernel), sesReady_tVse, sessAt_tVse]
    unfold AtEntry entryAt
    rw [memBytes_tVse _ _ _ _ _ (by decide +kernel)]
    decide +kernel

/-! ### Commands and launches -/

/-- A command entry: OP, CID 9 and further fields. -/
def wCmd (op : Nat) (fs : List (Nat × List Byte)) : List Byte := tBytes 64 ([(0, toLe 1 op), (4, toLe 4 9)] ++ fs)

theorem tAt (s : State) (op : Nat) (e : List Byte) (r : Ring) (a : Nat)
    (h : nextCmd s 0 = some (r, a) ∧ devBytes s a 64 = e ∧ netBad s a 64 = none ∧ netWaits s a 64 = false ∧ leAt e 0 1 = op ∧
      cmdBad e = false ∧ inLoader s = false ∧ leAt e 4 4 = 9) : AtCommand s 0 op e 9 :=
  ⟨⟨r, a, h.1, h.2.1, h.2.2.1, h.2.2.2.1⟩, h.2.2.2.2.1, h.2.2.2.2.2.1, fun x => (by rw [h.2.2.2.2.2.2.1] at x; cases x),
    by rw [h.2.2.2.2.2.2.2]; rfl⟩

def tC (op : Nat) (fs : List (Nat × List Byte)) : State := tCmd (wCmd op fs) tRun

/-- Ring 0 with a command of CID 4 outstanding. -/
def tBusy (op : Nat) : State :=
  { tC op [] with rings := (tC op []).rings.set 0 (some { tRing with outs := [OutCmd.mk 4 0 0] }) }

theorem witness_NopAndMarkComplete : AtCommand (tC 0 []) 0 0 (wCmd 0 []) 9 ∧ AtCommand (tC 7 []) 0 7 (wCmd 7 []) 9 ∧
    AtCommand (tBusy 7) 0 7 (wCmd 7 []) 9 ∧ (tC 7 []).rings[0] = some tRing ∧ tRing.outs = [] ∧
    (tBusy 7).rings[0] = some { tRing with outs := [OutCmd.mk 4 0 0] } ∧
    nextCmd (tC 8 []) 0 = some (tRing, 0x10000) ∧ netBad (tC 8 []) 0x10000 64 = none ∧
    netWaits (tC 8 []) 0x10000 64 = false ∧ leAt (devBytes (tC 8 []) 0x10000 64) 0 1 = 8 :=
  ⟨tAt _ _ _ tRing 0x10000 (by decide +kernel), tAt _ _ _ tRing 0x10000 (by decide +kernel),
    tAt _ _ _ { tRing with outs := [OutCmd.mk 4 0 0] } 0x10000 (by decide +kernel), by decide +kernel⟩

/-- A launch record at 0x40000 of sampler 0 alone. -/
def wRec : List Byte := tBytes 2048 [(0, toLe 4 2), (1024, toLe 8 0x4000)]

def tLnc : State := tPut (tC 1 [(8, toLe 8 0x40000)]) [(0x40000, wRec)]

/-- The same with the Hinge down. -/
def tLncDown : State := { tLnc with hinge := { tLnc.hinge with mode := .down } }

theorem witness_LaunchIsAcceptedOrRefused : AtCommand tLnc 0 1 (wCmd 1 [(8, toLe 8 0x40000)]) 9 ∧
    AtCommand tLncDown 0 1 (wCmd 1 [(8, toLe 8 0x40000)]) 9 ∧
    leAt (wCmd 1 [(8, toLe 8 0x40000)]) 8 8 = 0x40000 ∧ recordWaits tLnc 0x40000 = false ∧ launchFull tLnc = false ∧
    0x40000 % 64 = 0 ∧ recordThere tLnc 0x40000 2048 = true ∧ leAt (memBytes tLnc 0x40000 2048) 10 2 = 0 ∧
    recordBad tLnc (launchOf 0 9 wRec []) = none ∧ (launchOf 0 9 wRec []).flag 3 = false ∧
    memBytes tLnc 0x40000 2048 = wRec ∧ recordWaits tLncDown 0x40000 = false ∧ launchFull tLncDown = true :=
  ⟨tAt _ _ _ tRing 0x10000 (by decide +kernel), tAt _ _ _ tRing 0x10000 (by decide +kernel), by decide +kernel⟩

/-- A waiting launch that has region 0 and block 0. -/
def tWaiting : Launch :=
  { tL with st := .waiting, begun := false, hdr := tBytes 1024 [(6, [1]), (512, toLe 8 (3 * 2 ^ 62 + 0x20000))] }

theorem witness_DispatchStartsALaunch : nextLaunch tRdy = none ∧
    nextLaunch { tRdy with launches := [tWaiting] } = some tWaiting ∧
    findLaunch { tRdy with launches := [tWaiting] } tWaiting.lid = some tWaiting ∧ tWaiting.st = .waiting ∧
    tWaiting.flag 4 = false ∧ (0 : Fin 8) ∈ tWaiting.rgns ∧ (0 : Fin 48) ∈ tWaiting.blks ∧
    (∀ r ∈ tWaiting.rgns, ({ tRdy with launches := [tWaiting] } : State).regions[r].late = []) ∧
    (0xC0 : BitVec 8).toNat ∈ tumblersOf { tRdy with launches := [tWaiting] } tWaiting := by decide +kernel

/-- A timed launch that starts at 1,000 ns. -/
def tTimed : Launch := { tWaiting with hdr := tBytes 1024 [(5, [1]), (6, [1]), (24, toLe 8 1000)] }

/-- A running launch of sampler 0 alone, and the state in which the sampler has finished it, or has not. -/
def tSmpL : Launch := { tL with hdr := wRec }

def tSmpS (done : Bool) : State :=
  modHalf { tRun with launches := [tSmpL] } 0 (fun h => { h with smp := { tList with finished := done } })

theorem witness_LaunchIsReleasedAndCompletes :
    (findLaunch { tRdy with launches := [tTimed], dtc := 1000 } 1 = some tTimed ∧ tTimed.st = .waiting ∧
      tTimed.flag 0 = true ∧ tTimed.fld 24 8 = 1000) ∧
    (findLaunch (tSmpS false) 1 = some tSmpL ∧ tSmpL.st = .running ∧ allFinished (tSmpS false) tSmpL = false) ∧
    (findLaunch (tSmpS true) 1 = some tSmpL ∧ allFinished (tSmpS true) tSmpL = true ∧ trafficOf (tSmpS true) 1 = false ∧
      tSmpL.stop = none ∧ tSmpL.resume = none ∧ (getRing (tSmpS true) tSmpL.ring).isSome = true) := by decide +kernel

/-- A launch of sampler 0 with a save area at 0x100000, in state st. -/
def tSv (st : LState) : Launch := { tL with hdr := tBytes 2048 [(0, toLe 4 2), (40, toLe 8 0x100000), (1024, toLe 8 0x4000)], st := st }

/-- The device at a command about launch 1. -/
def tOn (op : Nat) (l : Launch) : State :=
  modHalf { tC op [(8, toLe 4 1), (12, toLe 1 (if op = 2 then 1 else 0))] with launches := [l] } 0 (fun h => { h with smp := tList })

def eOn (op : Nat) : List Byte := wCmd op [(8, toLe 4 1), (12, toLe 1 (if op = 2 then 1 else 0))]

theorem witness_StopAbortResume_unknown : ∀ op ∈ [2, 3, 4],
    AtCommand { tOn op tL with launches := [] } 0 op (eOn op) 9 ∧
    findLaunch { tOn op tL with launches := [] } (BitVec.ofNat 32 (leAt (eOn op) 8 4)) = none := by
  intro op h
  simp only [List.mem_cons, List.not_mem_nil, or_false] at h
  rcases h with rfl | rfl | rfl <;> exact ⟨tAt _ _ _ tRing 0x10000 (by decide +kernel), by decide +kernel⟩

theorem witness_StopAbortResume_stop : (∀ l ∈ [tSv .running, tSmpL, tWaiting], AtCommand (tOn 2 l) 0 2 (eOn 2) 9) ∧
    (∀ l ∈ [tSv .running, tSmpL, tWaiting], findLaunch (tOn 2 l) (BitVec.ofNat 32 (leAt (eOn 2) 8 4)) = some l) ∧
    allFinished (tOn 2 (tSv .running)) (tSv .running) = false ∧ (tSv .running).save0 ≠ 0 ∧
    allFinished (tOn 2 tSmpL) tSmpL = false ∧ tSmpL.save0 = 0 ∧ tWaiting.st ≠ .running := by
  refine ⟨fun l hl => ?_, by decide +kernel⟩
  simp only [List.mem_cons, List.not_mem_nil, or_false] at hl
  rcases hl with rfl | rfl | rfl <;> exact tAt _ _ _ tRing 0x10000 (by decide +kernel)

/-- An ABORT of a running launch that still has an increment under way. -/
def tAbS : State := { tOn 3 tSmpL with flagReqs := [FlagReq.mk (.smp 0) 0 1 0 0 1 0] }

theorem witness_StopAbortResume_abort : AtCommand (tOn 3 tWaiting) 0 3 (eOn 3) 9 ∧ AtCommand tAbS 0 3 (eOn 3) 9 ∧
    findLaunch (tOn 3 tWaiting) (BitVec.ofNat 32 (leAt (eOn 3) 8 4)) = some tWaiting ∧ tWaiting.st = .waiting ∧
    tWaiting.fault = 0 ∧ tWaiting.stop = none ∧ tWaiting.resume = none ∧ (getRing (tOn 3 tWaiting) tWaiting.ring).isSome = true ∧
    findLaunch tAbS 1 = some tSmpL ∧ tSmpL.st = .running ∧ allStopped tAbS tSmpL = false :=
  ⟨tAt _ _ _ tRing 0x10000 (by decide +kernel), tAt _ _ _ tRing 0x10000 (by decide +kernel), by decide +kernel⟩

theorem crc64_zeros (bs : List Byte) (h' : bs.all (fun b => decide (b = 0)) = true) : crc64 bs = 0 := by
  have h : ∀ b ∈ bs, b = 0 := by simpa using h'
  clear h'
  have hz : crcByte 0 0 = 0 := by decide
  unfold crc64
  induction bs with
  | nil => rfl
  | cons b bs ih =>
    rw [List.foldl_cons, h b (by simp), hz]
    exact ih (fun c hc => h c (by simp [hc]))

/-- A launch without units, whose save area is at 0x100000: every byte that its record CRC covers is 0. -/
def tImgL (st : LState) : Launch := { tL with hdr := tBytes 2048 [(40, toLe 8 0x100000)], st := st }

theorem rcrc_tImgL (st : LState) : rcrc (tImgL st) = 0 := by
  have h : rcrc (tImgL st) = rcrc (tImgL .saved) := rfl
  rw [h]
  unfold rcrc
  exact crc64_zeros _ (by decide +kernel)

/-- The header of its context image: format, device, kind, firmware. -/
def wImg : List Byte :=
  tBytes 64 [(0, toLe 2 1), (2, toLe 2 0x4880), (4, [0xA1]), (5, toLe 1 (rfld tRdy .devFw 0 23 16))]

/-- The device at a RESUME of it, with its image in memory. -/
def tImgS (st : LState) : State := tPut (tOn 4 (tImgL st)) [(0x100000, wImg)]

theorem headerOk_tImgS : headerOk (tImgS .saved) (tImgL .saved) = true ∧ headerOk (tImgS .restoring) (tImgL .restoring) = true := by
  constructor <;> (unfold headerOk; rw [rcrc_tImgL]; decide +kernel)

theorem witness_StopAbortResume_resume :
    (∀ s ∈ [tOn 4 tWaiting, tOn 4 (tImgL .saved), tImgS .saved], AtCommand s 0 4 (eOn 4) 9) ∧
    headerOk (tImgS .saved) (tImgL .saved) = true ∧ headerOk (tOn 4 (tImgL .saved)) (tImgL .saved) = false ∧
    findLaunch (tOn 4 tWaiting) (BitVec.ofNat 32 (leAt (eOn 4) 8 4)) = some tWaiting ∧ tWaiting.st ≠ .saved ∧
    (tImgL .saved).resume = none ∧
    ∀ s ∈ [tOn 4 (tImgL .saved), tImgS .saved],
      findLaunch s (BitVec.ofNat 32 (leAt (eOn 4) 8 4)) = some (tImgL .saved) ∧
      headerWaits s (tImgL .saved).lid = false ∧ regionOut s (tImgL .saved) = false := by
  refine ⟨fun s hs => ?_, headerOk_tImgS.1, by decide +kernel⟩
  simp only [List.mem_cons, List.not_mem_nil, or_false] at hs
  rcases hs with rfl | rfl | rfl <;> exact tAt _ _ _ tRing 0x10000 (by decide +kernel)

/-! ### Saves, slices and registers -/

/-- A launch of sampler 0 being stopped by a STOP of CID 9, its sampler not finished. -/
def tStopL : Launch := { tSv .stopping with stop := some (.command 0 9, false, 0), overrun := 250 }

def tStopS : State :=
  modHalf { tRun with launches := [tStopL] } 0 (fun h => { h with smp := tList })

theorem witness_SavesRestoresAndSlices_save : findLaunch tStopS 1 = some tStopL ∧ tStopL.st = .stopping ∧
    tStopL.stop = some (.command 0 9, false, 0) ∧ allStopped tStopS tStopL = true ∧ allFinished tStopS tStopL = false ∧
    (getRing tStopS 0).isSome = true := by decide +kernel

theorem witness_SavesRestoresAndSlices_ready : saveWaits tStopS tStopL false = false := by
  have h : MemTakes tStopS := takes_of _ (by decide +kernel) (by decide +kernel) (by decide +kernel) (by decide +kernel)
  have a : stalled tStopS = false ∧ saveCredit tStopS (saveFrom tStopL) = true ∧ jobLinesWait tStopS tStopL.job = false := by
    decide +kernel
  simp [saveWaits, a, writeEnds_of_takes h]

theorem memByte_tImgS (st : LState) (a : Nat) (h : 0x100000 + 64 ≤ a) : memByte (tImgS st) a = 0 := by
  have h1 : memByte (tImgS st) a = memByte (tPut (tOn 4 (tImgL st)) []) a :=
    memByte_memPut_other _ _ _ _ (Or.inr (by rw [show wImg.length = 64 by decide +kernel]; exact h))
  have h2 : ∀ c ∈ (tPut (tOn 4 (tImgL st)) []).mem.bytes, c.1 < 0x100000 + 64 := by
    have : (tPut (tOn 4 (tImgL st)) []).mem.bytes = (tPut (tOn 4 (tImgL .saved)) []).mem.bytes := rfl
    rw [this]; decide +kernel
  rw [h1]
  exact sget_of_not_mem _ _ _ (fun c hc => by have := h2 c hc; omega)

theorem sectionsOk_tImgS :
    sectionsOk (tImgS .restoring) (tImgL .restoring)
      (pieces (tImgL .restoring) (liveMapOf (tImgS .restoring) (tImgL .restoring)
        (memLe (tImgS .restoring) ((tImgL .restoring).save0 + 6) 1 = 2))) = true := by
  have hp : pieces (tImgL .restoring) (liveMapOf (tImgS .restoring) (tImgL .restoring)
      (memLe (tImgS .restoring) ((tImgL .restoring).save0 + 6) 1 = 2)) =
      [((tImgL .restoring).save0 + 64 * kib, .half 0), ((tImgL .restoring).save0 + 128 * kib, .half 1)] := by
    unfold pieces
    rw [show ((tImgL .restoring).rgnsIn 0).zipIdx = [] by decide +kernel,
      show ((tImgL .restoring).rgnsIn 1).zipIdx = [] by decide +kernel]
    rfl
  have hs : (tImgL .restoring).save0 = 0x100000 := by decide +kernel
  rw [hp]
  unfold sectionsOk
  rw [crc64_zeros]
  · rw [hs]; decide +kernel
  · rw [hs]
    simp only [List.all_eq_true, decide_eq_true_eq, List.mem_flatMap]
    rintro b ⟨p, hp, hb⟩
    unfold memBytes at hb
    rw [srange_eq_map] at hb
    obtain ⟨i, -, rfl⟩ := List.mem_map.mp hb
    apply memByte_tImgS
    simp only [List.mem_cons, List.not_mem_nil, or_false] at hp
    rcases hp with rfl | rfl <;> simp only [kib] <;> omega

theorem witness_SavesRestoresAndSlices_restore : findLaunch (tImgS .restoring) 1 = some (tImgL .restoring) ∧
    (tImgL .restoring).st = .restoring ∧ headerOk (tImgS .restoring) (tImgL .restoring) = true ∧
    sectionsOk (tImgS .restoring) (tImgL .restoring)
      (pieces (tImgL .restoring) (liveMapOf (tImgS .restoring) (tImgL .restoring)
        (memLe (tImgS .restoring) ((tImgL .restoring).save0 + 6) 1 = 2))) = true ∧
    (findLaunch (tOn 4 { tImgL .restoring with resume := some (0, 9) }) 1 = some { tImgL .restoring with resume := some (0, 9) } ∧
      headerOk (tOn 4 { tImgL .restoring with resume := some (0, 9) }) { tImgL .restoring with resume := some (0, 9) } = false ∧
      (getRing (tOn 4 { tImgL .restoring with resume := some (0, 9) }) 0).isSome = true) :=
  ⟨by decide +kernel, by decide +kernel, headerOk_tImgS.2, sectionsOk_tImgS, by decide +kernel⟩

/-- Where no stack is held nothing of a range is. -/
theorem heldAt_of (s : State) (h : s.stk.toList.any stackHeld = false) (a n : Nat) : heldAt s a n = false := by
  simp [heldAt, readWaits, h]

theorem restoreWaits_of (s : State) (l : Launch) (ps : List (Nat × Piece)) (h : stalled s = false ∧
    saveCredit s ((saveFrom l).map (1 - ·)) = true ∧ s.stk.toList.any stackHeld = false) : restoreWaits s l ps = false := by
  unfold restoreWaits
  rw [h.1, h.2.1]
  simp [heldAt_of _ h.2.2]

theorem witness_SavesRestoresAndSlices_go : ∀ ps,
    restoreWaits (tImgS .restoring) (tImgL .restoring) ps = false ∧
    restoreWaits (tOn 4 { tImgL .restoring with resume := some (0, 9) }) { tImgL .restoring with resume := some (0, 9) } ps =
      false :=
  fun _ => ⟨restoreWaits_of _ _ _ (by decide +kernel), restoreWaits_of _ _ _ (by decide +kernel)⟩

/-- A running launch with a slice of 5 µs. -/
def tSlice (left : Nat) : Launch := { tL with hdr := tBytes 64 [(6, [1]), (32, toLe 4 5)], sliceLeft := left }

theorem witness_SavesRestoresAndSlices_slice : ∀ n ∈ [0, 500],
    findLaunch { tRun with launches := [tSlice n] } 1 = some (tSlice n) ∧ (tSlice n).st = .running ∧
    (tSlice n).fld 32 4 ≠ 0 ∧ (tSlice n).flag 2 = false ∧ (tSlice n).sliceLeft = n ∧
    (getRing { tRun with launches := [tSlice n] } (tSlice n).ring).isSome = true := by decide +kernel

/-- A REGRD of one register, and a REGWR of the value v to it. -/
def eRd (a : Nat) : List Byte := wCmd 5 [(8, toLe 8 a), (16, [1])]
def eWr (a v : Nat) : List Byte := wCmd 6 [(8, toLe 8 a), (16, [1]), (20, toLe 4 v)]

theorem witness_RegistersAreReadAndWritten_read : AtCommand (tCmd (eRd 0) tRun) 0 5 (eRd 0) 9 ∧
    AtCommand (tCmd (eRd 2) tRun) 0 5 (eRd 2) 9 ∧
    inLoader (tCmd (eRd 0) tRun) = false ∧ (entryAddrs (eRd 0)).all (fun a => (regAt a).isSome) = true ∧
    inLoader (tCmd (eRd 2) tRun) = false ∧ (tCmd (eRd 2) tRun).krg.regs = [] ∧
    (entryAddrs (eRd 2)).findIdx? (fun a => (regAt a).isNone) = some 0 :=
  ⟨tAt _ _ _ tRing 0x10000 (by decide +kernel), tAt _ _ _ tRing 0x10000 (by decide +kernel), by decide +kernel⟩

/-- A full queue of Keyring records. -/
def tFull : State :=
  { tRun with krg := { tRun.krg with queue := List.replicate 63 { seq := 0, index := 0, body := .hinge [[], []] false } } }

/-- A Keyring queue without a place, and a register command that waits. -/
def tHeld (e : List Byte) : State :=
  { tCmd e tRun with krg := { tFull.krg with regs := [{ ring := 1, cid := 3, entry := e, done := 0 }] } }

theorem witness_RegistersAreReadAndWritten_waits :
    AtCommand { tCmd (eWr (regAddr .krgRetire 0) 3) tRun with krg := tFull.krg } 0 6 (eWr (regAddr .krgRetire 0) 3) 9 ∧
    AtCommand (tHeld (eRd 0)) 0 5 (eRd 0) 9 ∧ AtCommand (tHeld (eWr 0 0)) 0 6 (eWr 0 0) 9 ∧
    tFull.krg.regs = [] ∧ (tHeld []).krg.regs ≠ [] ∧
    (match writeAll (readCmd { tCmd (eWr (regAddr .krgRetire 0) 3) tRun with krg := tFull.krg } 0 9 6) 0
        (entryWords (eWr (regAddr .krgRetire 0) 3)) with
      | .waits _ k => decide (k = 0)
      | _ => false) = true :=
  ⟨tAt _ _ _ tRing 0x10000 (by decide +kernel), tAt _ _ _ tRing 0x10000 (by decide +kernel),
    tAt _ _ _ tRing 0x10000 (by decide +kernel), by decide +kernel⟩

theorem witness_RegistersAreReadAndWritten_write :
    AtCommand (tCmd (eWr (regAddr .hltEvt 0) 1) tRun) 0 6 (eWr (regAddr .hltEvt 0) 1) 9 ∧ tRun.krg.regs = [] ∧
    (match writeAll (readCmd (tCmd (eWr (regAddr .hltEvt 0) 1) tRun) 0 9 6) 0 (entryWords (eWr (regAddr .hltEvt 0) 1)) with
      | .ok u => (getRing u 0).isSome
      | _ => false) = true ∧
    mgmtOn tRun = true ∧ inLoader tRun = false ∧ hostedNow tRun 0 = true ∧ hostedNow (tTurn true) 0 = false ∧
    mgmtOn (tTurn true) = true ∧ inLoader (tTurn true) = false ∧ (tTurn true).krg.regs = [] ∧
    windowOf .hltEvt 0 = none ∧ windowOf .blkTfault 0 = some 0 ∧ windowOf .devMode 0 = none ∧
    regAt (BitVec.ofNat 64 (regAddr .blkTest 0)).toNat = some (.blkTest, 0) ∧
    (∀ r ∈ [Reg.hltEvt, .blkWardlog, .blkTfault, .cnpFault, .lkpOut],
      regAt (BitVec.ofNat 64 (regAddr r 0)).toNat = some (r, 0)) ∧
    regAt (BitVec.ofNat 64 (regAddr .devMode 0)).toNat = some (.devMode, 0) ∧ commitGroup .devMode 0 = none ∧
    fieldGroup .devMode 0 = some .dev ∧ pendingG tRun .dev = false ∧ pendingG (wfld tRun .devCommit 0 2 2 1) .dev = true ∧
    mgmtOn (wfld tRun .devCommit 0 2 2 1) = true :=
  ⟨tAt _ _ _ tRing 0x10000 (by decide +kernel), by decide +kernel⟩

/-! ### Memory, stacks, the Hinge and configuration groups -/

/-- Burst 0 with POISON and a re-read outstanding. -/
def tMemS (poison : List Nat) : State :=
  { tRun with mem := { tRun.mem with poison := poison, rereads := [Reread.mk 0 tQ] } }

/-- The device with burst 0 in a line; in a write queue; every stack as given; without data clocks. -/
def tLine (dirty : Bool) : State := modHalf tRun 0 (fun h => { h with msc := [MscLine.mk 0 0 dirty] })
def tWq : State := { tRun with mem := { tRun.mem with wq := [Queued.mk 0 [2]] } }
def tStk (k : Stack) : State := { tRun with stk := Vector.replicate 24 k }
def tNoClk : State := { tRun with power := { tRun.power with phase := .clockLost } }

/-- A link that retrains, one that is down, and a read lane that had errors in 15 of the latest bursts. -/
def kHeld : Stack := { Stack.reset with rd := { Link.reset with mode := .retraining } }
def kDown : Stack := { Stack.reset with rd := { Link.reset with mode := .down } }
def kLane : Stack := { Stack.reset with hist := List.replicate 15 [0] }

/-- Errors in the first `n` symbols. -/
def bErr (n : Nat) : BurstErr := BurstErr.mk (List.range n) false

/-- What a read of burst 0 by block 0 of launch 1 meets once pending commits are applied and its credit is taken. -/
def tRd (s : State) : State := crossSend (memApply s) tQ.unit.half (512 * burstOf 0)

theorem witness_MemoryReadsDecodeOrHalt_line : readMay (memApply tNoClk) (512 * burstOf 0) tQ = false ∧ ∀ dirty : Bool,
    readMay (memApply (tLine dirty)) (512 * burstOf 0) tQ = true ∧
    mscLine (tRd (tLine dirty)) (512 * burstOf 0) (tQ.job (tRd (tLine dirty))) = some (MscLine.mk 0 0 dirty) ∧
    (bErr 1).syms.length ≤ 1 ∧ 2 ≤ (bErr 2).syms.length := by
  decide +kernel

theorem witness_MemoryReadsDecodeOrHalt_queue :
    (∀ s ∈ [tWq, tStk kHeld], readMay (memApply s) (512 * burstOf 0) tQ = true ∧
      mscLine (tRd s) (512 * burstOf 0) (tQ.job (tRd s)) = none) ∧
    queued (tRd tWq) (512 * burstOf 0) = true ∧ poisoned (tRd tWq) (512 * burstOf 0) = false ∧
    queued (tRd (tStk kHeld)) (512 * burstOf 0) = false ∧ readLink (tRd (tStk kHeld)) (512 * burstOf 0) = none := by
  decide +kernel

theorem witness_MemoryReadsDecodeOrHalt_stack : ∀ q ∈ [[], [0]],
    let u := tRd (tMemS q)
    let k := u.stk[Fin.ofNat 24 (dpaStack u (512 * burstOf 0))]
    readMay (memApply (tMemS q)) (512 * burstOf 0) tQ = true ∧ mscLine u (512 * burstOf 0) (tQ.job u) = none ∧
    queued u (512 * burstOf 0) = false ∧ readLink u (512 * burstOf 0) = some true ∧
    2 * (liveErrs k (bErr 15)).length + erasedSyms k ≤ 30 ∧ (bErr 15).addrBad = false ∧ LanesHold k (bErr 15) ∧
    poisoned u (512 * burstOf 0) = decide (q = [0]) ∧ tQ.unit.own = false ∧ findLaunch u tQ.lid = some tL ∧ tL.st = .running ∧
    30 < 2 * (liveErrs k (bErr 16)).length + erasedSyms k ∧ (BurstErr.mk [] true).addrBad = true := by
  unfold LanesHold; decide +kernel

theorem witness_MemoryReadsDecodeOrHalt_lane :
    let u := tRd (tStk kLane)
    let k := u.stk[Fin.ofNat 24 (dpaStack u (512 * burstOf 0))]
    readMay (memApply (tStk kLane)) (512 * burstOf 0) tQ = true ∧ mscLine u (512 * burstOf 0) (tQ.job u) = none ∧
    queued u (512 * burstOf 0) = false ∧ readLink u (512 * burstOf 0) = some true ∧
    2 * (liveErrs k (bErr 1)).length + erasedSyms k ≤ 30 ∧ (bErr 1).addrBad = false ∧
    (badLanes k (bErr 1)).filter (fun p => decide (16 ≤ ((nextHist k (bErr 1)).filter (·.any (· = p))).length)) = [0] ∧
    0 ∉ k.rd.failed := by decide +kernel

theorem witness_MemoryReadsDecodeOrHalt_reread : ∀ q ∈ [[], [0]],
    let s := tMemS q
    let k := s.stk[Fin.ofNat 24 (dpaStack s 0)]
    s.mem.rereads[0]? = some (Reread.mk 0 tQ) ∧ readLink s 0 = some true ∧ clocked s = true ∧ readsOk s 0 (bErr 15) = true ∧
    LanesHold k (bErr 15) ∧ poisoned s 0 = decide (q = [0]) ∧ readsOk s 0 (bErr 16) = false ∧ tQ.unit.own = false ∧
    findLaunch s tQ.lid = some tL := by
  unfold LanesHold; decide +kernel

/-- A store of n bytes of block 0 at 0, waiting; and a cache line that holds its burst, or none; POISON and queued bursts. -/
def tStore (n : Nat) : PendStore := { src := .blk 0, lid := 1, idx := 3, addr := 0, data := List.replicate n (5, 0xFF) }

def tSt (n : Nat) (line : Bool) (poison wq : List Nat) : State :=
  modHalf { tBlk 0 with mem := { tRun.mem with
    stores := [tStore n], poison := poison, wq := wq.map (fun b => Queued.mk b [2]) } } 0 (fun h => { h with
    msc := if line then [MscLine.mk 0 0 true] else [] })

/-- The same once pending commits of the memory groups are applied. -/
def tSa (n : Nat) (line : Bool) (poison wq : List Nat) : State := memApply (tSt n line poison wq)

theorem witness_StoresTakeEffect_written :
    (storeNext (tSa 512 false [] []) 0 = some (tStore 512) ∧ readLink (tSa 512 false [] []) (tStore 512).addr ≠ some false ∧
      (tStore 512).whole = true ∧ queueFull (tSa 512 false [] []) (tStore 512).addr = false ∧
      mscLine (tSa 512 false [] []) (tStore 512).addr ((tStore 512).asker.job (tSa 512 false [] [])) = none) ∧
    (storeNext (tSa 4 true [] []) 0 = some (tStore 4) ∧
      (mscLine (tSa 4 true [] []) (tStore 4).addr ((tStore 4).asker.job (tSa 4 true [] []))).isSome = true) ∧
    (∀ wq ∈ [[], [0]], storeNext (tSa 4 false [] wq) 0 = some (tStore 4) ∧ (tStore 4).whole = false ∧
      mscLine (tSa 4 false [] wq) (tStore 4).addr ((tStore 4).asker.job (tSa 4 false [] wq)) = none ∧
      queueFull (tSa 4 false [] wq) (512 * burstOf (tStore 4).addr) = false ∧
      readLink (tSa 4 false [] wq) (512 * burstOf (tStore 4).addr) = some true ∧
      queued (tSa 4 false [] wq) (512 * burstOf (tStore 4).addr) = decide (wq = [0]) ∧
      readsOk (tSa 4 false [] wq) (512 * burstOf (tStore 4).addr) (bErr 15) = true ∧
      LanesHold (stackOfDpa (tSa 4 false [] wq) (512 * burstOf (tStore 4).addr)) (bErr 15) ∧
      poisoned (tSa 4 false [] wq) (512 * burstOf (tStore 4).addr) = false) := by
  unfold LanesHold; decide +kernel

theorem witness_StoresTakeEffect_halted : ∀ q ∈ [[], [0]],
    storeNext (tSa 4 false q []) 0 = some (tStore 4) ∧ (tStore 4).whole = false ∧ (tStore 4).src.own = false ∧
    mscLine (tSa 4 false q []) (tStore 4).addr ((tStore 4).asker.job (tSa 4 false q [])) = none ∧
    queueFull (tSa 4 false q []) (512 * burstOf (tStore 4).addr) = false ∧
    queued (tSa 4 false q []) (512 * burstOf (tStore 4).addr) = false ∧
    readLink (tSa 4 false q []) (512 * burstOf (tStore 4).addr) = some true ∧
    findLaunch (tSa 4 false q []) (tStore 4).lid = some tL ∧ tL.st = .running ∧
    readsOk (tSa 4 false q []) (512 * burstOf (tStore 4).addr) (bErr 16) = false ∧
    readsOk (tSa 4 false q []) (512 * burstOf (tStore 4).addr) (bErr 15) = true ∧
    LanesHold (stackOfDpa (tSa 4 false q []) (512 * burstOf (tStore 4).addr)) (bErr 15) ∧
    poisoned (tSa 4 false q []) (512 * burstOf (tStore 4).addr) = decide (q = [0]) := by
  unfold LanesHold; decide +kernel

/-- A store to a stack that is down. -/
def tStDown : State := memApply { tStk kDown with mem := { tRun.mem with stores := [tStore 4] } }

theorem witness_StoresTakeEffect_down : storeNext tStDown 0 = some (tStore 4) ∧
    mscLine tStDown (tStore 4).addr ((tStore 4).asker.job tStDown) = none ∧ readLink tStDown (tStore 4).addr = some false ∧
    findLaunch tStDown (tStore 4).lid = some tL := by decide +kernel

/-- A store whose fabric word fails, of a block that is the launch's. -/
theorem witness_StoresTakeEffect_fabric : storeNext (tSt 4 false [] []) 0 = some (tStore 4) ∧ (tStore 4).src.own = false ∧
    (tSt 4 false [] []).blocks[0].lid = some (tStore 4).lid ∧ findLaunch (tSt 4 false [] []) (tStore 4).lid = some tL ∧
    tL.st = .running := by decide +kernel

def tFlush : State := modHalf tRun 0 (fun h => { h with msc := [MscLine.mk 0 0 true], flushing := true })

theorem witness_StacksAreWatched : burstThere tRun (512 * burstOf 0) = true ∧ readLink tRun (512 * burstOf 0) = some true ∧
    clocked tRun = true ∧ rfld tRun .stkStat (dpaStack tRun (512 * burstOf 0)) 15 14 = 0 ∧
    queued tRun (512 * burstOf 0) = false ∧
    readsOk tRun (512 * burstOf 0) (bErr 15) = true ∧ LanesHold (stackOfDpa tRun (512 * burstOf 0)) (bErr 15) ∧
    readsOk tRun (512 * burstOf 0) (bErr 16) = false ∧
    (∀ s ∈ [wfld tRun .stkStat (dpaStack tRun 0) 15 14 1, tWq],
      burstThere s (512 * burstOf 0) = true ∧ readLink s (512 * burstOf 0) = some true ∧ clocked s = true ∧
      (0 < rfld s .stkStat (dpaStack s (512 * burstOf 0)) 15 14 ∨ queued s (512 * burstOf 0) = true)) ∧
    stkThr tRun 3 + 5 ≤ 90 ∧ rfld tRun .stkStat 3 15 14 < 3 ∧ rfld tRun .stkStat 3 13 13 = 0 ∧
    tFlush.halves[0].flushing = true ∧ clocked tFlush = true ∧ flushWaits tFlush 0 = false ∧
    tFlush.halves[0].msc = [MscLine.mk 0 0 true] ∧ stackOff (stackOfDpa tFlush 0) = false ∧
    tRun.halves[0].flushing = false := by
  unfold LanesHold; decide +kernel

/-- Stack 2 with its links as given. -/
def tLinks (rd wr : Link) : State := { tRun with stk := tRun.stk.set 2 { Stack.reset with rd := rd, wr := wr } }

def tErased : Link := { Link.reset with erased := some 3, training := some 3, failed := [3] }
def tSpared : Link := { Link.reset with spare := some 3, failed := [3] }
def tRetrain : Link := { Link.reset with mode := .retraining }

theorem witness_LanesAreSparedOrNarrowed_fails :
    (let k := (tLinks Link.reset Link.reset).stk[2]
     (7 : Fin 72).val < 64 ∧ k.rd.mode = .full ∧ k.rd.carries .read 7 = some 7 ∧ 7 ∉ k.rd.failed ∧ k.rd.erased = none ∧
      k.rd.spare = none ∧ k.rd.training = none ∧ 64 ∉ k.rd.failed ∧
      k.wr.mode = .full ∧ k.wr.carries .write 7 = some 7 ∧ 7 ∉ k.wr.failed ∧ k.wr.spare = none ∧ k.wr.training = none ∧
      32 ∉ k.wr.failed ∧ k.badFrames < 2) ∧
    (let k := (tLinks tErased Link.reset).stk[2]
     k.rd.mode = .full ∧ k.rd.carries .read 7 = some 7 ∧ 7 ∉ k.rd.failed ∧ k.rd.erased.isSome = true ∧ k.rd.failed.length ≤ 32) ∧
    (let k := (tLinks Link.reset tSpared).stk[2]
     k.wr.mode = .full ∧ k.wr.carries .write 7 = some 7 ∧ 7 ∉ k.wr.failed ∧ k.wr.spare.isSome = true ∧ k.wr.failed.length ≤ 16) ∧
    2 ≤ (tStk { Stack.reset with badFrames := 2 }).stk[2].badFrames := by decide +kernel

theorem witness_LanesAreSparedOrNarrowed_goesOn :
    ((tLinks tErased Link.reset).stk[2].link .read).training = some 3 ∧
    (clocked (tLinks tRetrain Link.reset) = true ∧ ((tLinks tRetrain Link.reset).stk[2].link .read).mode = .retraining ∧
      (∀ d', d' ≠ LinkDir.read → ((tLinks tRetrain Link.reset).stk[2].link d').mode ≠ .retraining) ∧
      (tLinks tRetrain Link.reset).mem.held = []) ∧
    (clocked tRun = true ∧ (tRun.stk[2].link .read).mode ≠ .retraining ∧ tRun.mem.held = []) ∧
    (bitsAt (5 : BitVec 32) 31 1 = 0 ∧ tFull.stk[2] = Stack.reset ∧ tRun.stk[2] = Stack.reset ∧ Stack.reset.rd = Link.reset ∧
      Link.reset.mode = .full ∧ Link.reset.spare = none ∧ Link.reset.training = none ∧ Link.reset.erased = none ∧
      64 ∉ Link.reset.failed ∧ krgFull tFull 3 2 = true ∧ krgFull tRun 3 2 = false) ∧
    ((tLinks tSpared Link.reset).stk[2].rd.mode = .full ∧ (tLinks tSpared Link.reset).stk[2].rd.spare.isSome = true) := by
  refine ⟨by decide +kernel, ⟨by decide +kernel, by decide +kernel, fun d hd => ?_, by decide +kernel⟩, by decide +kernel⟩
  cases d
  · exact absurd rfl hd
  · decide +kernel

/-- The device with a register grant that covers MEM_UNMAP of stack 2 and KRG_UNRETIRE. -/
def tGrant : State :=
  { tRun with lkp := { tRun.lkp with grant := some { regs := [regAddr .stkUnmap 2, regAddr .krgUnretire 0], closes := 100 } } }

theorem witness_ChannelsAreMappedOutAndBack : krgFull tFull 5 2 = true ∧ krgFull tRun 5 2 = false ∧
    bitsAt (3 : BitVec 32) 0 16 ≠ 0 ∧ grantCovers tRun (regAddr .stkUnmap 2) = false ∧
    grantCovers tGrant (regAddr .stkUnmap 2) = true ∧ krgFull tGrant 5 2 = false := by decide +kernel

def tHinge (m : LinkMode) (c : List Nat) (f : List Nat) : State := { tRun with hinge := { tRun.hinge with mode := m, credits := c, fails := f } }

/-- Beat `n` of a class between block 0 and block 24. -/
def tBeat (c : HingeClass) (two : Bool) (n : Nat) : HingeBeat := HingeBeat.mk c two (.blk 0) (.blk 24) n

/-- A store of block 0 that has to cross. -/
def tCross : PendStore := { tStore 4 with addr := half1Base }

/-- A Control beat of block 0 behind that store. -/
def tBehind : State := { tRun with mem := { tRun.mem with stores := [tCross] } }

theorem witness_HingeAndLockLoss_waits :
    (tHinge .full (List.replicate 10 0) [0, 0]).hinge.credits.getD (creditAt 1 .save) 0 < 1 ∧
    (tHinge .full (1 :: hingeMax) [0, 0]).hinge.credits.getD (creditAt 0 .control) 0 < 2 ∧ clocked tNoClk = false ∧
    (tBeat .save true 1).seq ≠ tRun.hinge.count (beatFlow 0 (tBeat .save true 1)) ∧
    (∃ p ∈ tBehind.mem.stores, p.src = (tBeat .control true 0).src ∧ p.crosses = true) := by
  refine ⟨by decide +kernel, by decide +kernel, by decide +kernel, by decide +kernel, tCross, List.mem_singleton.mpr rfl, ?_⟩
  decide +kernel

theorem witness_HingeAndLockLoss_beats : (∀ c ∈ [HingeClass.save, .control], ∀ two : Bool,
      (if two then 2 else 1) ≤ tRun.hinge.credits.getD (creditAt 1 c) 0 ∧
      (tBeat c two 0).seq = tRun.hinge.count (beatFlow 1 (tBeat c two 0))) ∧
    tRun.hinge.mode = .full ∧ clocked tRun = true ∧ controlWaits tRun 1 = false ∧ tRun.mem.stores = [] ∧
    tRun.hinge.fails.getD 1 0 < 3 ∧
    (3 ≤ (tHinge .half hingeMax [3, 3]).hinge.fails.getD 0 0 ∧ (tHinge .half hingeMax [3, 3]).hinge.mode = .half ∧
      clocked (tHinge .half hingeMax [3, 3]) = true ∧ 2 ≤ (tHinge .half hingeMax [3, 3]).hinge.credits.getD (creditAt 0 .control) 0 ∧
      (tHinge .half hingeMax [3, 3]).hinge.count (beatFlow 0 (tBeat .control true 0)) = 0) ∧
    (tRun.hinge.mode ≠ .down ∧ tRun.hinge.credits.length = 10) := by decide +kernel

/-- More faulty wires of a direction than its 64 spares. -/
def tWires : List (Fin 2 × Fin 8192) := (List.range 65).map (fun i => (1, Fin.ofNat 8192 i))

theorem witness_HingeAndLockLoss_retrain : tRun.hinge.mode ≠ .retraining ∧
    (tHinge .retraining hingeMax [0, 0]).hinge.mode = .retraining ∧ clocked (tHinge .retraining hingeMax [0, 0]) = true ∧
    (∀ ws ∈ addFaulty (tHinge .retraining hingeMax [0, 0]).hinge.spares (tWires.take 64), ws.length ≤ 64) ∧
    ((addFaulty (tHinge .retraining hingeMax [0, 0]).hinge.spares tWires).any (fun ws => decide (64 < ws.length)) = true) ∧
    (∀ st ∈ [LState.running, .waiting, .saved],
      findLaunch { tHinge .retraining hingeMax [0, 0] with launches := [{ tL with st := st }] } 1 = some { tL with st := st } ∧
      findLaunch { wfld tRun .clkStat 0 31 31 1 with launches := [{ tL with st := st }] } 1 = some { tL with st := st }) ∧
    rfld (wfld tRun .clkStat 0 31 31 0) .clkStat 0 31 31 = 0 ∧ rfld (wfld tRun .clkStat 0 31 31 1) .clkStat 0 31 31 = 1 := by
  decide +kernel

def allGroups : List Group :=
  [.dev, .tmb, .hlt, .blk 3, .rgn 1, .cnp 1, .rve 1, .memCfg, .memJob, .memFrc, .vse 1, .net, .lat]

/-- A commit of the group pending on a ready device without launches. -/
def tPend (g : Group) : State := wfld tRdy (groupCommit g).1 (groupCommit g).2 2 2 1

theorem witness_GroupsCommitAndApplyWhole : allGroups.all (fun g => pendingG (tPend g) g && !pendingG tRdy g &&
      atApply (tPend g) g && decide ((tPend g).power.phase = .ready) && hingeTakes (tPend g) 0 0) = true ∧
    groupInHalf1 (.rgn 1) = false ∧ groupInHalf1 (.rgn 5) = true ∧
    groupBad (tPend .tmb) .tmb = none ∧
    groupBad (wshadow (tPend (.blk 3)) .blkCfg 3 0x2A) (.blk 3) = none ∧
    (groupBad (wshadow (tPend (.blk 3)) .blkCfg 3 0) (.blk 3)).isSome = true ∧
    ¬ (pendingG tRdy .dev = true) := by decide +kernel

/-- A REGWR of DEV_MODE with a commit of its group pending. -/
def tRefW : State := wfld (tCmd (eWr (regAddr .devMode 0) 1) tRun) .devCommit 0 2 2 1

theorem witness_PendingGroupRefusesWrites : AtCommand tRefW 0 6 (eWr (regAddr .devMode 0) 1) 9 ∧ tRefW.krg.regs = [] ∧
    regAt (BitVec.ofNat 64 (regAddr .devMode 0)).toNat = some (.devMode, 0) ∧
    pendingG (tPend .dev) .dev = true ∧ commitGroup .devMode 0 = none ∧ fieldGroup .devMode 0 = some .dev ∧
    regAt (BitVec.ofNat 64 (regAddr .devCommit 0)).toNat = some (.devCommit, 0) ∧ commitGroup .devCommit 0 = some .dev ∧
    getF (1 : BitVec 32) 1 0 ≠ 0 ∧ getF (3 : BitVec 32) 1 0 = 3 ∧ pendingG tRdy .dev = false ∧
    loaderBars tRefW (eWr (regAddr .devMode 0) 1) = false ∧
    entryWords (eWr (regAddr .devMode 0) 1) = [((BitVec.ofNat 64 (regAddr .devMode 0)).toNat, 1)] ∧
    pendingG tRefW .dev = true :=
  ⟨tAt _ _ _ tRing 0x10000 (by decide +kernel), by decide +kernel⟩

/-! ### The port, connections and rings -/

/-- A connection of queue pair 5 with a role and messages in its slots. -/
def tConn (r : Option Role) (slots : List (List Byte)) : Conn :=
  { qp := 5, gid := 1, mtu := 4096, up := true, since := 0, role := r, handed := false, failed := false, chal := none,
    slots := slots, mkey := none, dkey := none, rkey := none, bind := none, heard := 0, cnpSent := none, rate := 800, n := 0, lastDec := 0,
    lastInc := 0, retries := none, waiting := [] }

/-- The port works and holds the connections. -/
def tNet (cs : List Conn) : State := wfld { tRun with net := { tRun.net with conns := cs } } .netStat 0 31 31 1

theorem portUp_tNet (cs : List Conn) : portUp (tNet cs) = true := by
  have h : portUp (tNet cs) = portUp (tNet []) := rfl
  rw [h]; decide +kernel

theorem findConn_tNet (c : Conn) (cs : List Conn) : findConn (tNet (c :: cs)) c.qp = some c := by
  have h : (tNet (c :: cs)).net.conns = c :: cs := rfl
  simp [findConn, h]

theorem upConn_tNet (c : Conn) (cs : List Conn) (h : c.up = true) : upConn (tNet (c :: cs)) c.qp = some c := by
  unfold upConn
  rw [portUp_tNet, findConn_tNet]
  simp [h]

/-- No commit is pending between two packets. -/
theorem between_tNet (cs : List Conn) : tNet cs = betweenPackets (tNet cs) := by
  have h (g : Group) : pendingG (tNet cs) g = pendingG (tNet []) g := rfl
  exact (betweenPackets_idle _ ((h _).trans (by decide +kernel)) ((h _).trans (by decide +kernel))).symm

/-- A frame. -/
def tFrm (len : Nat) (dst : FrameDst) (b : FrameBody) (depth : Nat) : Frame :=
  { fcsOk := true, len := len, dst := dst, body := b, depth := depth }

/-- The port of a device with an IPv4 address and a global IPv6 one. -/
def tAddr : State :=
  { tNet [] with net := { (tNet []).net with cfg := tBytes 64 [(3, [1]), (16, List.replicate 16 3), (48, [10, 0, 0, 2])] } }

/-- The port with PFC enabled. -/
def tPfc (xoff : Bool) : State := wfld { tNet [] with net := { (tNet []).net with xoff := xoff } } .netStat 0 27 27 1

theorem witness_PortFramesAndRates_frames : portUp (tNet []) = true ∧ (tFrm 100 .other .other 0).dst = .other ∧
    4352 < (tFrm 4353 .mine .other 0).len ∧ (∀ x : Bool, rfld (tPfc x) .netStat 0 27 27 = 1 ∧ portUp (tPfc x) = true ∧
      (tPfc x).net.xoff = x) ∧
    12 * 2 ^ 20 < (tFrm 100 .mine .other (12 * 2 ^ 20 + 1)).depth ∧
    rfld (tNet []) .netStat 0 27 27 = 0 ∧ (tFrm 100 .mine (.roce 5 true true false) 100).depth ≤ 16 * 2 ^ 20 ∧
    vlanOk (tNet []) { tFrm 100 .mine .other 0 with vlan := some 5 } = false ∧
    (∀ b : FrameBody, vlanOk (tNet []) (tFrm 100 .mine b 100) = vlanOk (tNet []) (tFrm 100 .mine .other 100)) ∧
    vlanOk (tNet []) (tFrm 100 .mine .other 100) = true ∧
    (findConn (tNet [tConn none []]) 5 = some (tConn none []) ∧ (tConn none []).cnpSent = none ∧ (tConn none []).up = true ∧
      (tConn none []).waiting = []) ∧
    portUp tAddr = true ∧ rfld tAddr .netStat 0 27 27 = 0 ∧ vlanOk tAddr (tFrm 100 .mine .other 100) = true ∧ ip4On tAddr = true ∧
    (0x0A000002 : BitVec 32).toNat = beNat ((tAddr.net.cfg.drop 48).take 4) ∧
    isMine6 tAddr (BitVec.ofNat 128 (beNat (List.replicate 16 3))).toNat = true := by
  refine ⟨by decide +kernel, by decide +kernel, by decide +kernel, by decide +kernel, ?_⟩
  refine ⟨by decide +kernel, by decide +kernel, by decide +kernel, by decide +kernel, fun _ => rfl, by decide +kernel⟩

theorem witness_PortFramesAndRates_rates : tRdy.power.phase = .ready ∧ rfld tRdy .netStat 0 31 31 = 0 ∧ tRdy.net.pause = 0 ∧
    portUp tRdy = false ∧ rfld tRdy .netStat 0 27 27 = 0 ∧ portUp (tNet []) = true ∧ announceDue (tNet []) = true ∧
    announceDue { tNet [] with net := { (tNet []).net with annAt := some 0 } } = false ∧
    8 * 2 ^ 20 ≤ (PfcIn.mk 0 (9 * 2 ^ 20)).depth ∧ (PfcIn.mk 0 (9 * 2 ^ 20)).depth ≤ 12 * 2 ^ 20 ∧
    (∀ n ∈ [6, 7], findConn (tNet [{ tConn none [] with retries := some n }]) 5 = some { tConn none [] with retries := some n }) ∧
    (∀ n ∈ [6, 7], portUp (wfld (tNet [{ tConn none [] with retries := some n }]) .netStat 0 31 31 0) = false) := by
  decide +kernel

/-- A KEEPALIVE message, and one of type t and length n with further fields. -/
def tMsg (t n : Nat) (fs : List (Nat × List Byte)) : List Byte :=
  tBytes n ([(0, toLe 2 0x4C48), (2, [1]), (3, toLe 1 t), (4, toLe 2 n), (8, toLe 4 77)] ++ fs)

theorem witness_PortFramesAndRates_between : (∀ x : Bool, tPfc x = betweenPackets (tPfc x)) ∧ tAddr = betweenPackets tAddr :=
  ⟨fun x => (betweenPackets_idle _ (by cases x <;> decide +kernel) (by cases x <;> decide +kernel)).symm,
    (betweenPackets_idle _ (by decide +kernel) (by decide +kernel)).symm⟩

theorem witness_ConnectionsComeAndGo_full : portUp (tNet (List.replicate 1024 (tConn none []))) = true ∧
    findConn (tNet (List.replicate 1024 (tConn none []))) 6 = none ∧
    1024 ≤ (tNet (List.replicate 1024 (tConn none []))).net.conns.length := by
  refine ⟨portUp_tNet _, ?_, by decide +kernel⟩
  have h : (tNet (List.replicate 1024 (tConn none []))).net.conns = List.replicate 1024 (tConn none []) := rfl
  unfold findConn
  rw [h]
  simp [tConn]

theorem witness_ConnectionsComeAndGo : portUp (tNet []) = true ∧ findConn (tNet []) 5 = none ∧ (tNet []).net.conns.length < 1024 ∧
    findConn (tNet [tConn none []]) 5 = some (tConn none []) ∧ (tConn none []).role = none ∧
    (tConn none []).since + 500000000 ≤ ({ tNet [tConn none []] with cyc := 500000000 }).cyc ∧
    (tNet [tConn none []]).cyc < (tConn none []).since + 500000000 ∧
    ownerConn (tNet [tConn (some .owner) []]) = some (tConn (some .owner) []) ∧
    findConn (tNet [tConn (some .owner) []]) (tConn (some .owner) []).qp = some (tConn (some .owner) []) ∧
    (tConn (some .owner) []).heard + 100000 * rfld (tNet [tConn (some .owner) []]) .latCfg 0 31 16 ≤
      ({ tNet [tConn (some .owner) []] with cyc := 100000 * 65536 }).cyc ∧
    (wfld (tNet [tConn (some .owner) []]) .latCfg 0 31 16 10).cyc <
      (tConn (some .owner) []).heard + 100000 * rfld (wfld (tNet [tConn (some .owner) []]) .latCfg 0 31 16 10) .latCfg 0 31 16 ∧
    (upConn (tNet [tConn (some .owner) []]) 5 = some (tConn (some .owner) []) ∧ (tMsg 6 16 []).length ≤ 16384 ∧
      msgBad (tMsg 6 16 []) = false ∧ mayMsg (some .owner) (msgType (tMsg 6 16 [])) = true) ∧
    (upConn (tNet [tConn (some .owner) (List.replicate 8 [])]) 5 = some (tConn (some .owner) (List.replicate 8 [])) ∧
      8 ≤ (tConn (some .owner) (List.replicate 8 [])).slots.length) ∧
    (upConn (tNet [tConn none []]) 5 = some (tConn none []) ∧ mayMsg none (msgType (tMsg 6 16 [])) = false) ∧
    (msgBad (tMsg 7 16 []) = false ∧ mayMsg (some .owner) (msgType (tMsg 7 16 [])) = false) := by decide +kernel

theorem atMsg (c : Conn) (cs : List Conn) (typ : Nat) (m : List Byte) (rest : List (List Byte))
    (h : c.up = true ∧ c.slots = m :: rest ∧ msgType m = typ ∧ mayMsg c.role typ = true) :
    AtMessage (tNet (c :: cs)) c.qp typ c m rest :=
  ⟨upConn_tNet c cs h.1, h.2.1, h.2.2.1, h.2.2.2⟩

theorem witness_LatchMessagesAreAnswered_simple : ∀ p ∈ [(6, some Role.owner, 16), (8, some Role.owner, 16), (0x0C, some Role.reader, 16)],
    AtMessage (tNet [tConn p.2.1 [tMsg p.1 p.2.2 []]]) 5 p.1 (tConn p.2.1 [tMsg p.1 p.2.2 []]) (tMsg p.1 p.2.2 []) [] := by
  intro p hp
  simp only [List.mem_cons, List.not_mem_nil, or_false] at hp
  rcases hp with rfl | rfl | rfl <;> exact atMsg _ [] _ _ [] (by decide +kernel)

/-- A token for 4,096 bytes of window 1 until 1 ms, its code computed under the token key of the state; or its body with
the code 0. -/
def tokBody : List Byte := tBytes 40 [(0, [1]), (2, [1]), (3, [1]), (8, toLe 8 1000000), (24, toLe 8 4096)]

def tWin (cs : List Conn) : State := wreg (wreg (tNet cs) .latWin0 1 0x80000000) .latWin3 1 1

def tok : List Byte := tokBody ++ (sha3 (tokenKey (tWin []) ++ tokBody)).take 24

theorem leAt_append (xs ys : List Byte) (b n : Nat) (h : b + n ≤ xs.length) : leAt (xs ++ ys) b n = leAt xs b n := by
  unfold leAt
  rw [List.drop_append_of_le_length (by omega), List.take_append_of_le_length (by rw [List.length_drop]; omega)]

def tBind : Binding := { win := 1, epoch := 0, off := 0, len := 4096, expiry := 1000000 }

theorem tokenBind_tok : tokenBind (tWin []) tok = some tBind := by
  have hl : tokBody.length = 40 := by decide +kernel
  have ht : tok.take 40 = tokBody := by
    unfold tok; rw [List.take_append_of_le_length (by omega), List.take_of_length_le (by omega)]
  have hd : (tok.drop 40).take 24 = (sha3 (tokenKey (tWin []) ++ tokBody)).take 24 := by
    unfold tok; rw [← hl, List.drop_left]; simp
  have ha : ∀ b n, b + n ≤ 40 → leAt tok b n = leAt tokBody b n := fun b n h => leAt_append _ _ _ _ (by omega)
  unfold tokenBind
  rw [ht, hd, ha 3 1 (by omega), ha 16 8 (by omega), ha 24 8 (by omega), ha 4 4 (by omega), ha 8 8 (by omega),
    ha 0 2 (by omega), ha 2 1 (by omega)]
  dsimp only
  rw [if_pos ⟨by decide +kernel, by decide +kernel, rfl, by decide +kernel, by decide +kernel, by decide +kernel,
    by decide +kernel⟩]
  decide +kernel

/-- Messages that need no token. -/
theorem witness_LatchMessagesAreAnswered_roles :
    (AtMessage (tNet [tConn none [tMsg 1 88 [(16, [1])]]]) 5 0x01 (tConn none [tMsg 1 88 [(16, [1])]]) (tMsg 1 88 [(16, [1])]) [] ∧
      leAt (tMsg 1 88 [(16, [1])]) 16 1 = 1) ∧
    (AtMessage (tNet [{ tConn none [tMsg 3 4643 []] with chal := some (3, .owner) }]) 5 0x03
        { tConn none [tMsg 3 4643 []] with chal := some (3, .owner) } (tMsg 3 4643 []) [] ∧
      ownerConn (tNet [{ tConn none [tMsg 3 4643 []] with chal := some (3, .owner) }]) = none) ∧
    (AtMessage (tNet [tConn none [tMsg 3 4643 []]]) 5 0x03 (tConn none [tMsg 3 4643 []]) (tMsg 3 4643 []) [] ∧
      (tConn none [tMsg 3 4643 []]).chal = none) := by
  refine ⟨⟨atMsg _ [] _ _ [] (by decide +kernel), by decide +kernel⟩, ⟨atMsg _ [] _ _ [] ?_, by decide +kernel⟩,
    atMsg _ [] _ _ [] ?_, rfl⟩
  · exact ⟨rfl, rfl, by decide +kernel, by decide +kernel⟩
  · exact ⟨rfl, rfl, by decide +kernel, by decide +kernel⟩

/-- The standby with a PROMOTE, and an owner of queue pair 6 that has handed over, or not. -/
def tStandby : Conn := tConn (some .standby) [tMsg 7 16 []]
def tOwner (handed : Bool) : Conn := { tConn (some .owner) [] with qp := 6, handed := handed }
def tGone : Conn := { tOwner false with failed := true }

theorem witness_LatchMessagesAreAnswered_promote :
    (AtMessage { tNet [tStandby] with net := { (tNet [tStandby]).net with ownerFailed := true } } 5 0x07 tStandby (tMsg 7 16 []) [] ∧
      ownerConn { tNet [tStandby] with net := { (tNet [tStandby]).net with ownerFailed := true } } = none ∧
      ({ tNet [tStandby] with net := { (tNet [tStandby]).net with ownerFailed := true } }).net.ownerFailed = true) ∧
    (AtMessage { tNet [tStandby, tGone] with net := { (tNet [tStandby, tGone]).net with ownerFailed := true } } 5 0x07 tStandby
        (tMsg 7 16 []) [] ∧
      ownerConn { tNet [tStandby, tGone] with net := { (tNet [tStandby, tGone]).net with ownerFailed := true } } = none ∧
      findConn { tNet [tStandby, tGone] with net := { (tNet [tStandby, tGone]).net with ownerFailed := true } } tGone.qp =
        some tGone ∧ tGone.qp ≠ 5 ∧ tGone.role = some .owner) ∧
    (∀ h : Bool, AtMessage (tNet [tStandby, tOwner h]) 5 0x07 tStandby (tMsg 7 16 []) [] ∧
      ownerConn (tNet [tStandby, tOwner h]) = some (tOwner h) ∧
      findConn (tNet [tStandby, tOwner h]) (tOwner h).qp = some (tOwner h) ∧ (tOwner h).qp ≠ 5 ∧ (tOwner h).handed = h) := by
  unfold AtMessage; decide +kernel

/-- A reader's HELLO and TOKEN with a token, which is accepted, or has the code 0. -/
def mTok (t : Nat) (tk : List Byte) : List Byte :=
  tBytes 24 [(0, toLe 2 0x4C48), (2, [1]), (3, toLe 1 t), (4, toLe 2 88), (16, toLe 1 (if t = 1 then 3 else 0))] ++ tk

theorem tokenBind_tWin (cs : List Conn) (t : List Byte) : tokenBind (tWin cs) t = tokenBind (tWin []) t := rfl

theorem tok_drop (t : Nat) : ((mTok t tok).drop 24).take 64 = tok.take 64 := by
  have h : (tBytes 24 [(0, toLe 2 0x4C48), (2, [1]), (3, toLe 1 t), (4, toLe 2 88), (16, toLe 1 (if t = 1 then 3 else 0))]).length
    = 24 := by
    have : ∀ (a b c : List Byte), a.length = 2 → b.length = 1 → c.length = 1 →
        (tBytes 24 [(0, a), (2, [1]), (3, b), (4, toLe 2 88), (16, c)]).length = 24 := by
      intro a b c ha hb hc
      simp [tBytes, ha, hb, hc, toLe]
    apply this <;> simp [toLe]
  unfold mTok
  rw [List.drop_left' h]

theorem tok_take : tok.take 64 = tok := by
  have hl : tokBody.length = 40 := by decide +kernel
  unfold tok
  rw [List.take_append, List.take_of_length_le (by omega), hl, List.take_take]
  rfl

theorem portUp_tWin (cs : List Conn) : portUp (tWin cs) = true := by
  have h : portUp (tWin cs) = portUp (tWin []) := rfl
  rw [h]; decide +kernel

theorem between_tWin (cs : List Conn) : tWin cs = betweenPackets (tWin cs) := by
  have h (g : Group) : pendingG (tWin cs) g = pendingG (tWin []) g := rfl
  exact (betweenPackets_idle _ ((h _).trans (by decide +kernel)) ((h _).trans (by decide +kernel))).symm

theorem upConn_tWin (c : Conn) (cs : List Conn) (h : c.up = true) : upConn (tWin (c :: cs)) c.qp = some c := by
  have hc : findConn (tWin (c :: cs)) c.qp = some c := findConn_tNet c cs
  unfold upConn
  rw [portUp_tWin, hc]
  simp [h]

theorem tokenBind_mTok (t : Nat) (cs : List Conn) : tokenBind (tWin cs) (((mTok t tok).drop 24).take 64) = some tBind := by
  rw [tok_drop, tok_take, tokenBind_tWin, tokenBind_tok]

/-- A token of version 2. -/
def tokBad : List Byte := tBytes 64 [(0, [1]), (2, [2])]

theorem witness_LatchMessagesAreAnswered_token :
    (AtMessage (tWin [tConn none [mTok 1 tok]]) 5 0x01 (tConn none [mTok 1 tok]) (mTok 1 tok) [] ∧
      leAt (mTok 1 tok) 16 1 = 3 ∧ inLoader (tWin [tConn none [mTok 1 tok]]) = false ∧
      tokenBind (tWin [tConn none [mTok 1 tok]]) (((mTok 1 tok).drop 24).take 64) = some tBind) ∧
    (AtMessage (tWin [tConn none [mTok 1 tokBad]]) 5 0x01 (tConn none [mTok 1 tokBad]) (mTok 1 tokBad) [] ∧
      leAt (mTok 1 tokBad) 16 1 = 3 ∧ tokenBind (tWin [tConn none [mTok 1 tokBad]]) (((mTok 1 tokBad).drop 24).take 64) = none) ∧
    (AtMessage (tWin [tConn (some .reader) [mTok 0xB tok]]) 5 0x0B (tConn (some .reader) [mTok 0xB tok]) (mTok 0xB tok) [] ∧
      tokenBind (tWin [tConn (some .reader) [mTok 0xB tok]]) (((mTok 0xB tok).drop 24).take 64) = some tBind) ∧
    (AtMessage (tWin [tConn (some .reader) [mTok 0xB tokBad]]) 5 0x0B (tConn (some .reader) [mTok 0xB tokBad]) (mTok 0xB tokBad) [] ∧
      tokenBind (tWin [tConn (some .reader) [mTok 0xB tokBad]]) (((mTok 0xB tokBad).drop 24).take 64) = none) := by
  refine ⟨⟨⟨upConn_tWin _ [] rfl, rfl, by decide +kernel, by decide +kernel⟩, by decide +kernel, by decide +kernel,
      tokenBind_mTok 1 _⟩, ⟨⟨upConn_tWin _ [] rfl, rfl, by decide +kernel, by decide +kernel⟩, by decide +kernel, by decide +kernel⟩,
    ⟨⟨upConn_tWin _ [] rfl, rfl, by decide +kernel, by decide +kernel⟩, tokenBind_mTok 0xB _⟩,
    ⟨upConn_tWin _ [] rfl, rfl, by decide +kernel, by decide +kernel⟩, by decide +kernel⟩

/-- The owner's RING_OPEN of ring i, fresh or with RESUME, and its RING_CLOSE. -/
def mOpen (i resume : Nat) : List Byte :=
  tMsg 9 52 [(16, toLe 1 i), (17, toLe 1 resume), (20, toLe 4 64), (24, toLe 8 0x10000), (44, toLe 4 64)]

def mClose (i : Nat) : List Byte := tMsg 0xA 17 [(16, toLe 1 i)]

def tOwn (m : List Byte) : State := tNet [tConn (some .owner) [m]]

/-- The owner's device with a command outstanding on ring 0. -/
def tOwnBusy (m : List Byte) : State :=
  { tOwn m with rings := (tOwn m).rings.set 0 (some { tRing with outs := [OutCmd.mk 4 0 0] }) }

theorem witness_LatchMessagesAreAnswered_rings :
    (AtMessage (tOwn (mOpen 3 0)) 5 0x09 (tConn (some .owner) [mOpen 3 0]) (mOpen 3 0) [] ∧ leAt (mOpen 3 0) 16 1 = (3 : Fin 16).val ∧
      leAt (mOpen 3 0) 17 1 = 0 ∧ (tOwn (mOpen 3 0)).rings[3] = none ∧ ringOk (tOwn (mOpen 3 0)) (mOpen 3 0) = true) ∧
    (AtMessage (tOwn (mOpen 0 0)) 5 0x09 (tConn (some .owner) [mOpen 0 0]) (mOpen 0 0) [] ∧ leAt (mOpen 0 0) 16 1 = (0 : Fin 16).val ∧
      leAt (mOpen 0 0) 17 1 = 0 ∧ (tOwn (mOpen 0 0)).rings[0].isSome = true) ∧
    (AtMessage (tOwn (mOpen 0 1)) 5 0x09 (tConn (some .owner) [mOpen 0 1]) (mOpen 0 1) [] ∧ leAt (mOpen 0 1) 17 1 = 1 ∧
      (tOwn (mOpen 0 1)).rings[0] = some tRing ∧ ringSize (leAt (mOpen 0 1) 44 4) = true ∧
      (BitVec.ofNat 32 (leAt (mOpen 0 1) 48 4) - tRing.a).toNat ≤ (tRing.q - tRing.a).toNat) ∧
    (AtMessage (tOwn (mClose 0)) 5 0x0A (tConn (some .owner) [mClose 0]) (mClose 0) [] ∧ leAt (mClose 0) 16 1 = (0 : Fin 16).val ∧
      (tOwn (mClose 0)).rings[0] = some tRing ∧ tRing.outs = []) ∧
    (AtMessage (tOwnBusy (mClose 0)) 5 0x0A (tConn (some .owner) [mClose 0]) (mClose 0) [] ∧
      (tOwnBusy (mClose 0)).rings[0] = some { tRing with outs := [OutCmd.mk 4 0 0] }) := by
  unfold AtMessage; decide +kernel

/-- A connection that holds keys 1, 2 and, bound to window 1, 3. -/
def tKeys (b : Binding) : Conn := { tConn (some .owner) [] with mkey := some 1, dkey := some 2, rkey := some 3, bind := some b }
def tReader (b : Binding) : Conn := { tConn (some .reader) [] with rkey := some 3, bind := some b }

/-- The device with every stack held. -/
def tWinHeld : State := { tWin [tKeys tBind] with stk := Vector.replicate 24 kHeld }

theorem witness_RemoteAccessUnderKeys_write : upConn (tWin [tKeys tBind]) 5 = some (tKeys tBind) ∧ (tKeys tBind).role ≠ none ∧
    (tKeys tBind).waiting = [] ∧ (tKeys tBind).mkey = some 1 ∧ inLoader (tWin [tKeys tBind]) = false ∧
    devThere (tWin [tKeys tBind]) 0x3000 600 = true ∧ netPutWaits (tWin [tKeys tBind]) 0x3000 600 = false ∧
    netWriteBad (tWin [tKeys tBind]) 0x3000 600 = none ∧ writeReady (tWin [tKeys tBind]) .mgmt 0x3000 600 = true ∧
    inHalf1 (tWin [tKeys tBind]) 0x3000 600 = false ∧ hingeTakes (tWin [tKeys tBind]) 0 3 = true ∧
    ((tKeys tBind).mkey ≠ some 9 ∧ (tKeys tBind).dkey ≠ some 9) ∧
    upConn tWinHeld 5 = some (tKeys tBind) ∧ devThere tWinHeld 0x3000 600 = true ∧ inLoader tWinHeld = false ∧
    netPutWaits tWinHeld 0x3000 600 = true := by decide +kernel

theorem witness_RemoteAccessUnderKeys_between : tWinHeld = betweenPackets tWinHeld :=
  (betweenPackets_idle _ (by decide +kernel) (by decide +kernel)).symm

/-- Where the reader's binding lies, 96 bytes into it. -/
def tOff : Nat := 4096 * (rreg (tWin [tReader tBind]) .latWin2 1).toNat + tBind.off + 96

theorem witness_RemoteAccessUnderKeys_read :
    netBad (tWin [tKeys tBind]) 0x3000 600 = none ∧ netWaits (tWin [tKeys tBind]) 0x3000 600 = false ∧
    (upConn (tWin [tReader tBind]) 5 = some (tReader tBind) ∧ (tReader tBind).mkey = none ∧ (tReader tBind).rkey = some 3 ∧
      (tReader tBind).waiting = [] ∧ (tReader tBind).role ≠ none ∧
      (tReader tBind).bind = some tBind ∧ bindStands (tWin [tReader tBind]) tBind = true ∧ 96 + 4000 ≤ tBind.len ∧
      (tWin [tReader tBind]).dtc.toNat < tBind.expiry ∧ devThere (tWin [tReader tBind]) tOff 4000 = true ∧
      netWaits (tWin [tReader tBind]) tOff 4000 = false ∧ netBad (tWin [tReader tBind]) tOff 4000 = none ∧
      inHalf1 (tWin [tReader tBind]) tOff 4000 = false ∧
      tBind.expiry ≤ ({ tWin [tReader tBind] with dtc := 1000000 }).dtc.toNat) ∧
    ((tKeys tBind).dkey = some 2 ∧ (toLe 4 5 ++ toLe 4 0).length = 8 ∧ (64 : Nat) = 64 * (1 : Fin 16).val ∧
      (tWin [tKeys tBind]).rings[0] = some tRing ∧ notBehind 5 tRing.p = true ∧ ((5 : Word) - tRing.c).toNat ≤ tRing.entries ∧
      notBehind 0 tRing.a = true ∧ (0 : Word) = tRing.q) := by decide +kernel

/-- Ring 0 with a completion of CID 4 waiting; and the same with every place of the completion area taken. -/
def tComp : Completion := cmdDone 0 1 0 4 0 0 []

def tDone (q : Word) : State :=
  { tWin [tKeys tBind] with
    comps := [tComp], rings := (tWin [tKeys tBind]).rings.set 0 (some { tRing with q := q, sent := q }) }

theorem witness_RemoteAccessUnderKeys_completion : (∀ q ∈ [0, 64],
      (tDone (BitVec.ofNat 32 q)).rings[0] = some { tRing with q := BitVec.ofNat 32 q, sent := BitVec.ofNat 32 q } ∧
      tRing.bound = some 5 ∧ (upConn (tDone (BitVec.ofNat 32 q)) 5).isSome = true ∧ (tDone (BitVec.ofNat 32 q)).net.pause = 0 ∧
      (tDone (BitVec.ofNat 32 q)).comps.find? (fun c => c.ring = (0 : Fin 16).val) = some tComp) ∧
    ((0 : Word) - tRing.a).toNat < tRing.centries ∧ tRing.centries ≤ ((64 : Word) - tRing.a).toNat ∧
    findConn (tWin [tReader tBind]) 5 = some (tReader tBind) := by decide +kernel

/-- PTP in state n at cycle c, with a master or none. -/
def tPtp (n c good bad : Nat) (m : Option (List Nat)) : State :=
  wfld { tNet [] with
    cyc := c
    net := { (tNet []).net with
      ptp := { master := m, good := good, bad := bad, slew := 0, freq := 0, acc := 0, lastSync := 0, lastAnn := 0, interval := 100 } } }
    .netStat 0 30 28 n

theorem witness_TimeIsDisciplinedAndLatched_messages :
    (ptpOn (tPtp 0 0 0 0 none) = true ∧ ptpState (tPtp 0 0 0 0 none) = 0 ∧
      (tPtp 0 0 0 0 none).net.ptp.master = none) ∧
    inDomain (tPtp 0 0 0 0 none) 0 = true ∧ inDomain (tPtp 0 0 0 0 none) 1 = false ∧
    (∀ n ∈ [1, 2, 3], ptpOn (tPtp n 0 15 1 (some [7])) = true ∧ ptpState (tPtp n 0 15 1 (some [7])) = n ∧
      inDomain (tPtp n 0 15 1 (some [7])) 0 = true ∧ inDomain (tPtp n 0 15 1 (some [7])) 1 = false ∧
      (tPtp n 0 15 1 (some [7])).net.ptp.master = some [7] ∧ 15 ≤ (tPtp n 0 15 1 (some [7])).net.ptp.good ∧
      1 ≤ (tPtp n 0 15 1 (some [7])).net.ptp.bad) ∧
    rankBefore [6] [7] = true ∧ rankBefore [8] [7] = false ∧ [8] ≠ [7] ∧ (40 : Int).natAbs ≤ 40 ∧ 50 < (51 : Int).natAbs := by
  decide +kernel

theorem witness_TimeIsDisciplinedAndLatched_silence : (∀ c ∈ [399, 400], ptpState (tPtp 2 c 0 0 none) = 2 ∧
      ((tPtp 2 c 0 0 none).net.ptp.lastSync + 4 * (tPtp 2 c 0 0 none).net.ptp.interval ≤ (tPtp 2 c 0 0 none).cyc ↔ c = 400)) ∧
    (∀ n ∈ [1, 3], ∀ c ∈ [999999999, 1000000000], ptpState (tPtp n c 0 0 none) = n ∧
      ((tPtp n c 0 0 none).net.ptp.lastAnn + 1000000000 ≤ (tPtp n c 0 0 none).cyc ↔ c = 1000000000)) ∧
    (tPtp 2 0 0 0 none).dtc.toNat % 1000000000 < 10 ∧ counting tRun = true ∧ tRun.net.ppsAt = none ∧
    (({ tRun with net := { tRun.net with ppsAt := some 0 } }).net.ppsAt = some 0 ∧ tRun.cyc < 0 + 50000000) ∧
    tRun.power.phase = .ready ∧ State.reset.power.phase ≠ .ready := by decide +kernel

/-! ### The module -/

/-- The module with its power as given. -/
def tPow (f : Power → Power) : State := { tRun with power := f tRun.power }

theorem witness_IdleStepIsOneManagementCycle : (tPow (fun p => { p with phase := .off })).pending = [] ∧
    counting (tPow (fun p => { p with phase := .off })) = false ∧
    (counting tRun = true ∧ tRun.net.ptp.slew = 0 ∧ tRun.dtcPs < 1000 ∧ tRun.pending = []) ∧
    tRun.launches[0]? = some tL ∧ tL.st = .running ∧ ({ tRun with launches := [tWaiting] }).launches[0]? = some tWaiting := by
  decide +kernel

theorem witness_MemoryStaysCanonical : Memory.wf tLnc.mem = true ∧
    (match step { tLnc with pending := [.launch 0] } with | .next t => decide (t.launches.length = 2) | _ => false) = true := by
  decide +kernel

theorem witness_FusesNeverReturn :
    (match step { tRun with pending := [.refresh 0] } with | .next _ => true | _ => false) = true := by decide +kernel

/-- A module that may close its switch; one that tripped at cycle 0, at cycle c; one with a debug grant. -/
def tOff1 : State := tPow (fun p => { p with phase := .off, switch := false, pg := false })
def tTrip (c : Nat) : State := { tPow (fun p => { p with phase := .tripped, trip := some 0 }) with cyc := c }
def tDbg : State := { tRun with lkp := { tRun.lkp with debug := true } }
def tDbgHeld : State := { tDbg with stk := Vector.replicate 24 kHeld }

/-- I3C answers 5 ms after time 0. -/
def tI3c (s : State) : State := { s with cyc := 500000, i3c := { s.i3c with addr := some (regAddr .hltTemp 1) } }

theorem witness_PowerPinsAndSidePorts_pins : mayClose tOff1 = true ∧ mayClose tRun = false ∧
    tRun.power.pwrEn = true ∧ tRun.power.switch = true ∧ (tPow (fun p => { p with pwrEn := false })).power.pwrEn = false ∧
    37999 < 38000 ∧ tRun.power.pg = true ∧ tOff1.power.pg = false ∧
    (∀ c ∈ [49999999, 50000000], (tTrip c).power.trip = some 0 ∧ (tTrip c).power.pwrEn = true ∧ (tTrip c).power.switch = true ∧
      (0 + 50000000 ≤ (tTrip c).cyc ↔ c = 50000000)) := by decide +kernel

theorem witness_PowerPinsAndSidePorts_ports : tRun.power.pg = true ∧ tRun.lkp.debug = false ∧ tDbg.lkp.debug = true ∧
    tDbg.power.pg = true ∧ devThere tDbg 0x3000 1 = true ∧ inLoader tDbg = false ∧ netWaits tDbg 0x3000 1 = false ∧
    netBad tDbg 0x3000 1 = none ∧ writeReady tDbg .mgmt 0x3000 1 = true ∧
    tDbgHeld.lkp.debug = true ∧ tDbgHeld.power.pg = true ∧ devThere tDbgHeld 0x3000 1 = true ∧ inLoader tDbgHeld = false ∧
    netWaits tDbgHeld 0x3000 1 = true ∧
    i3cOn (tI3c tRun) = true ∧ (tI3c tRun).krg.regs = [] ∧ i3cOn (tI3c (tHeld [])) = true ∧ (tI3c (tHeld [])).krg.regs ≠ [] ∧
    (toLe 8 (regAddr .hltTemp 1)).length = 8 ∧
    (regAt (leAt (toLe 8 (regAddr .hltTemp 1)) 0 8)).any (fun x => i3cReads x.1) = true ∧
    (regAt (leAt (toLe 8 0) 0 8)).any (fun x => i3cReads x.1) = false ∧
    (tI3c tRun).i3c.addr = some (regAddr .hltTemp 1) ∧ regAt (regAddr .hltTemp 1) = some (.hltTemp, 1) := by decide +kernel

/-- The flash being programmed with a configuration block, or with a firmware image. -/
def tProg (op : FlashOp) : State := { tRun with krg := { tRun.krg with op := some op } }

theorem witness_PowerPinsAndSidePorts_cut : Settled tRun ∧
    ((tProg (.cfg [1])).power.pwrEn = true ∧ (tProg (.cfg [1])).power.switch = true ∧
      (tProg (.cfg [1])).krg.op = some (.cfg [1]) ∧ (tProg (.cfg [1])).krg.waits = false) ∧
    (∀ w, (tProg (.cfg [1])).power.phase ≠ .starting w) :=
  ⟨⟨by decide +kernel, by decide +kernel, by decide +kernel, fun w h => absurd h (by cases w <;> decide +kernel)⟩,
    by decide +kernel, fun w => by cases w <;> decide +kernel⟩

/-- A flash whose boot header gives an image length and nothing else that it must. -/
def tBad : Flash :=
  { hdr := tBytes 16 [(4, toLe 4 4096)], image := [], cfg := [], copyA := [], copyB := [], factory := [], cert := [0x30],
    recs := [], journal := Journal.delivered }

/-- A full Keyring queue, and region 0 held by no launch, with block 0 to be retired. -/
def tFullR : State := wreg { tFull with regions := tRdy.regions } .krgBlkmap 0 (blkmapWord 6 0 1)

/-- A device at cycle c of a cold start-up whose time 0 comes at cycle z. -/
def tStart (c z : Nat) (noRef : Bool) : State :=
  { State.reset with cyc := c, power := { State.reset.power with time0 := z, noRef := noRef } }

theorem witness_ResetsAndStartUp_resets : mgmtOn tRun = true ∧ resetHeld tRun = false ∧ resetHeld (tProg (.cfg [])) = true ∧
    mgmtOn (tProg (.cfg [])) = true ∧ softFull tRun 0 = false ∧ softFull tFull 1 = true ∧ mgmtOn tFull = true ∧
    shutdownFull tRun = false ∧ shutdownFull (tProg (.cfg [])) = false ∧ shutdownFull tFull = true ∧
    krgFull tRun 9 0 = false ∧ krgFull tFull 9 0 = true ∧
    bitsAt (55 : BitVec 32) 0 6 < 56 ∧ krgFull tRun 6 (bitsAt (55 : BitVec 32) 0 6 / 7) = false ∧
    (mgmtOn tGrant = true ∧ grantCovers tGrant (regAddr .krgUnretire 0) = true ∧
      krgFull tGrant 6 (bitsAt (55 : BitVec 32) 0 6 / 7) = false) ∧ grantCovers tRun (regAddr .krgUnretire 0) = false ∧
    tRun.power.phase = .ready ∧ tRun.regions[Fin.ofNat 8 (bitsAt (3 : BitVec 32) 0 6 / 7)].holder.isSome = true ∧
    tRdy.regions[Fin.ofNat 8 (bitsAt (3 : BitVec 32) 0 6 / 7)].holder = none ∧ tRdy.power.phase = .ready ∧
    blkrstFull tRdy (bitsAt (3 : BitVec 32) 0 6) = false ∧ tFullR.power.phase = .ready ∧
    blkrstFull tFullR (bitsAt (0 : BitVec 32) 0 6) = true := by decide +kernel

theorem witness_ResetsAndStartUp_records : tFull.krg.regs = [] ∧
    tFull.krg.queue = { seq := 0, index := 0, body := .hinge [[], []] false } ::
      List.replicate 62 { seq := 0, index := 0, body := .hinge [[], []] false } ∧
    (tFull.krg.queue.all (·.good)) = true ∧
    (∀ x ∈ [(0, 1), (0, 0), (199999999, 0), (200000000, 0)], ∀ n : Bool, (tStart x.1 x.2 n).power.phase = .starting false ∧
      (tStart x.1 x.2 n).power.noRef = n ∧ ((tStart x.1 x.2 n).cyc < (tStart x.1 x.2 n).power.time0 ↔ x.2 = 1) ∧
      ((tStart x.1 x.2 n).power.base + 200000000 ≤ (tStart x.1 x.2 n).cyc ↔ x.1 = 200000000)) := by decide +kernel

/-- A firmware image, and a header for it under a vendor key. -/
def fwImg : List Byte := List.replicate 4096 0
def fwHdr (vkey : List Byte) : List Byte :=
  tBytes 16 [(0, toLe 2 0x4648), (2, [1]), (4, toLe 4 4096)] ++ (sha3 fwImg ++ (vkey ++ List.replicate 62864 0))

/-- Where the vendor's key hashes to the digest in the fuses and signatures verify, the firmware passes every check. -/
theorem fwCheck_fwHdr (s : State) (vkey : List Byte) (hl : vkey.length = 2592)
    (hk : sha3 vkey = toLe 64 Config.fwKeyDig.toNat) (hv : ∀ k m g, Config.mlVerify k m g = true) (hs : s.fuses.svn = 0)
    (hc : imgCosign s.lkp.img = false) : fwCheck s (fwHdr vkey) fwImg = .good := by
  have h16 : (tBytes 16 [(0, toLe 2 0x4648), (2, [1]), (4, toLe 4 4096)]).length = 16 := by decide +kernel
  have ha : ∀ b n, b + n ≤ 16 → leAt (fwHdr vkey) b n = leAt (tBytes 16 [(0, toLe 2 0x4648), (2, [1]), (4, toLe 4 4096)]) b n :=
    fun b n h => leAt_append _ _ _ _ (by omega)
  have hd : (fwHdr vkey).drop 16 = sha3 fwImg ++ (vkey ++ List.replicate 62864 0) := List.drop_left' h16
  have hd' : (fwHdr vkey).drop 80 = vkey ++ List.replicate 62864 0 := by
    have : (fwHdr vkey).drop 80 = ((fwHdr vkey).drop 16).drop 64 := by rw [List.drop_drop]
    rw [this, hd, List.drop_left' (sha3_length _)]
  have hi : fwIlen (fwHdr vkey) = 4096 := by unfold fwIlen; rw [ha 4 4 (by omega)]; decide +kernel
  have hn : fwSvn (fwHdr vkey) = 0 := by unfold fwSvn; rw [ha 8 1 (by omega)]; decide +kernel
  have hx : fwVkey (fwHdr vkey) = vkey := by unfold fwVkey; rw [hd', List.take_left' hl]
  have hf : fwImg.take 4096 = fwImg := List.take_of_length_le (by rw [fwImg, List.length_replicate])
  unfold fwCheck
  rw [hi, hx, hn, hd, List.take_left' (sha3_length _), hf, ha 0 2 (by omega), ha 2 1 (by omega), hs, if_neg (by decide),
    if_pos ⟨by decide +kernel, by decide +kernel, hk, hv _ _ _, rfl, by simp [cosigned, hc]⟩]
  rfl

/-- A device that starts up with that firmware, and no Lockplate image in order. -/
def tGoodFw (vkey : List Byte) : State := { State.reset with flash := { tBad with hdr := fwHdr vkey, image := fwImg } }

theorem witness_ResetsAndStartUp_good (vkey : List Byte) (hl : vkey.length = 2592)
    (hk : sha3 vkey = toLe 64 Config.fwKeyDig.toNat) (hv : ∀ k m g, Config.mlVerify k m g = true) :
    (tGoodFw vkey).power.phase = .starting false ∧ BootGood tEnv false (tGoodFw vkey) := by
  refine ⟨rfl, Nat.le_refl _, Nat.zero_le _, .inl rfl, fwCheck_fwHdr _ vkey hl hk hv rfl rfl, rfl, rfl, rfl, fun h => ?_⟩
  · refine ⟨Fin.ofNat 24 (12 * h.val), ?_, by simp [tEnv], fun o n x => ?_⟩
    · revert h; decide
    · exact absurd x (by simp [krgBody, krgCur, tGoodFw, tBad])

theorem witness_ResetsAndStartUp_signature :
    fwCheck (bootRead { State.reset with flash := tBad } false) (bootRead { State.reset with flash := tBad } false).flash.hdr
      (bootRead { State.reset with flash := tBad } false).flash.image = .signature := by decide +kernel

/-- The Lockplate at work on a grant of kind k with result r. -/
def tLk (k r : Nat) (body : List Byte) : State := { tRun with lkp := { tRun.lkp with op := some (.grant k r false body) } }

/-- A configuration block with its CRC, and a well-formed request of KIND 7, in memory at 0. -/
def tCfg0 : List Byte := tBytes 56 [(0, toLe 2 0x4346), (2, [1])]

def tCfgBlk : List Byte := tCfg0 ++ toLe 8 (crc64 tCfg0).toNat

theorem cfgOk_tCfgBlk : cfgOk tCfgBlk = true := by
  have hl : tCfg0.length = 56 := by decide +kernel
  have ha : ∀ b n, b + n ≤ 56 → leAt tCfgBlk b n = leAt tCfg0 b n := fun b n h => by
    unfold tCfgBlk leAt
    rw [List.drop_append_of_le_length (by omega), List.take_append_of_le_length (by rw [List.length_drop]; omega)]
  have ht : tCfgBlk.take 56 = tCfg0 := by unfold tCfgBlk; rw [← hl, List.take_left]
  have hc : leAt tCfgBlk 56 8 = (crc64 tCfg0).toNat := by
    unfold leAt tCfgBlk
    rw [← hl, List.drop_left, List.take_of_length_le (by rw [toLe_length]), leNat_toLe]
    exact Nat.mod_eq_of_lt (crc64 tCfg0).isLt
  unfold cfgOk
  rw [ht, hc, ha 0 2 (by omega), ha 2 1 (by omega), ha 3 1 (by omega), ha 4 2 (by omega), ha 6 1 (by omega), ha 7 1 (by omega),
    ha 10 6 (by omega)]
  have h : (leAt tCfg0 0 2 = 0x4346 && leAt tCfg0 2 1 = 1 && decide (leAt tCfg0 3 1 < 8) && leAt tCfg0 4 2 / 4096 % 2 = 0 &&
    decide (leAt tCfg0 6 1 < 64) && decide (leAt tCfg0 7 1 < 8) && leAt tCfg0 10 6 = 0) = true := by decide +kernel
  rw [h]
  simp

def tReqB : List Byte := tBytes 9472 [(0, toLe 2 0x4C47), (2, [1]), (3, [7]), (8, toLe 4 64), (64, [5])]

theorem witness_FlashAndGrants_good : cfgOk tCfgBlk = true ∧
    (mgmtOn (memPut tRun 0 tCfgBlk) = true ∧ (memPut tRun 0 tCfgBlk).krg.op = none ∧
      devThere (memPut tRun 0 tCfgBlk) (krgSource (memPut tRun 0 tCfgBlk)) 64 = true ∧
      netBad (memPut tRun 0 tCfgBlk) (krgSource (memPut tRun 0 tCfgBlk)) 64 = none ∧
      devBytes (memPut tRun 0 tCfgBlk) (krgSource (memPut tRun 0 tCfgBlk)) 64 = tCfgBlk) ∧
    (readRequest (memPut tRun 0 tReqB)).isSome = true := by
  have hl : tCfgBlk.length = 64 := by
    unfold tCfgBlk; rw [List.length_append, toLe_length]; decide +kernel
  have hs : krgSource (memPut tRun 0 tCfgBlk) = 0 := by decide +kernel
  have hn : inLoader (memPut tRun 0 tCfgBlk) = false := by decide +kernel
  refine ⟨cfgOk_tCfgBlk, ⟨by decide +kernel, by decide +kernel, by decide +kernel, by decide +kernel, ?_⟩, by decide +kernel⟩
  unfold devBytes
  rw [hs, hn, ← hl]
  exact memBytes_memPut_same _ _ _

/-- The device with that firmware and header at 0 as the source of an installation, 17 times 4 KiB. -/
def tSrc (bs : List Byte) : State := memPut (wfld tRun .krgSrclen 0 14 0 17) 0 bs

theorem fwHdr_length (vkey : List Byte) (hl : vkey.length = 2592) : (fwHdr vkey).length = 65536 := by
  have h16 : (tBytes 16 [(0, toLe 2 0x4648), (2, [1]), (4, toLe 4 4096)]).length = 16 := by decide +kernel
  simp only [fwHdr, List.length_append, h16, sha3_length, hl, List.length_replicate]

/-- With no stack down and no burst damaged or poisoned no read is bad. -/
theorem netBad_none (s : State) (a n : Nat) (h : s.stk.toList.any stackOff = false) (hd : s.mem.damaged = []) (hp : s.mem.poison = []) :
    netBad s a n = none := by
  simp [netBad, firstBad, downBad, h, hd, hp, lowerBad]

theorem witness_FlashAndGrants_firmware (vkey : List Byte) (hl : vkey.length = 2592)
    (hk : sha3 vkey = toLe 64 Config.fwKeyDig.toNat) (hv : ∀ k m g, Config.mlVerify k m g = true) :
    let s := tSrc (fwHdr vkey ++ fwImg)
    mgmtOn s = true ∧ s.krg.op = none ∧ devThere s (krgSource s) (rfld s .krgSrclen 0 14 0 * 4096) = true ∧
    netBad s (krgSource s) (rfld s .krgSrclen 0 14 0 * 4096) = none ∧
    devBytes s (krgSource s) (rfld s .krgSrclen 0 14 0 * 4096) = fwHdr vkey ++ fwImg ∧ (fwHdr vkey).length = 65536 ∧
    ilenOk (fwIlen (fwHdr vkey)) = true ∧ fwIlen (fwHdr vkey) = fwImg.length ∧ fwCheck s (fwHdr vkey) fwImg = .good := by
  intro s
  have a : mgmtOn (tSrc []) = true ∧ (tSrc []).krg.op = none ∧ krgSource (tSrc []) = 0 ∧ rfld (tSrc []) .krgSrclen 0 14 0 = 17 ∧
      devThere (tSrc []) 0 (17 * 4096) = true ∧ (tSrc []).stk.toList.any stackOff = false ∧ inLoader (tSrc []) = false := by
    decide +kernel
  have k : krgSource s = 0 := a.2.2.1
  have r : rfld s .krgSrclen 0 14 0 = 17 := a.2.2.2.1
  have n : (fwHdr vkey ++ fwImg).length = 17 * 4096 := by
    rw [List.length_append, fwHdr_length vkey hl, fwImg, List.length_replicate]
  have i : fwIlen (fwHdr vkey) = 4096 := by
    unfold fwIlen
    rw [show leAt (fwHdr vkey) 4 4 = leAt (tBytes 16 [(0, toLe 2 0x4648), (2, [1]), (4, toLe 4 4096)]) 4 4 from
      leAt_append _ _ _ _ (by decide +kernel)]
    decide +kernel
  have d (x m : Nat) : devThere s x m = devThere (tSrc []) x m := rfl
  rw [k, r, i, d]
  refine ⟨a.1, a.2.1, a.2.2.2.2.1, netBad_none s _ _ a.2.2.2.2.2.1 rfl rfl, ?_, fwHdr_length vkey hl, by decide, ?_, fwCheck_fwHdr s vkey hl hk hv rfl rfl⟩
  · have g : inLoader s = false := a.2.2.2.2.2.2
    unfold devBytes
    rw [g, ← n]
    exact memBytes_memPut_same _ _ _
  · rw [fwImg, List.length_replicate]

/-- The Lockplate at work on a report that goes to 0x8000, on the certificate, with a memory that takes writes or is held. -/
def tReport (op : LkpOp) (held : Bool) : State :=
  { tRun with lkp := { tRun.lkp with op := some op }, stk := if held then Vector.replicate 24 kHeld else tRun.stk }

theorem witness_FlashAndGrants_programs : (mgmtOn (tProg (.cfg [])) = true ∧ (tProg (.cfg [])).krg.op.isSome = true) ∧
    (mgmtOn tRun = true ∧ tRun.krg.op = none ∧ devThere tRun (krgSource tRun) 64 = true ∧ netBad tRun (krgSource tRun) 64 = none ∧
      cfgOk (devBytes tRun (krgSource tRun) 64) = false) ∧
    ((tProg (.cfg [1])).krg.waits = false ∧ (tProg (.cfg [1])).krg.held = [] ∧ (tProg (.cfg [1])).krg.op = some (.cfg [1])) ∧
    ((tProg (.fw [1] [2])).krg.waits = false ∧ (tProg (.fw [1] [2])).krg.op = some (.fw [1] [2]) ∧
      (tProg (.fw [1] [2])).krg.held = [] ∧ inLoader (tProg (.fw [1] [2])) = false) := by decide +kernel

theorem witness_FlashAndGrants_grants :
    (tRun.power.phase = .ready ∧ tRun.lkp.op = none ∧ (tLk 7 0 []).power.phase = .ready ∧ (tLk 7 0 []).lkp.op.isSome = true ∧
      (readRequest tRun).isSome = false ∧ devThere tRun (lkpOut tRun) 32 = true ∧ netWaits tRun (lkpOut tRun) 32 = false ∧
      netBad tRun (lkpOut tRun) 32 = none) ∧
    (let s : State := { tRun with stk := Vector.replicate 24 kHeld }
     s.power.phase = .ready ∧ s.lkp.op = none ∧ netWaits s (lkpOut s) 32 = true) ∧
    (let s : State := { tRun with mem := { tRun.mem with poison := [0] } }
     s.power.phase = .ready ∧ s.lkp.op = none ∧ netWaits s (lkpOut s) 32 = false ∧ (netBad s (lkpOut s) 32).isSome = true) ∧
    ((tLk 7 0 [3]).lkp.op = some (.grant 7 0 false [3]) ∧ (tLk 7 0 [3]).krg.held = [] ∧ krgBusy (tLk 2 0 [3]) = false) ∧
    (tGrant.lkp.grant.isSome = true ∧ tGrant.cyc < 100 ∧ 100 ≤ ({ tGrant with cyc := 100 }).cyc) := by decide +kernel

theorem witness_FlashAndGrants_reports :
    MemTakes (tReport (.devcert 0x8000) false) ∧ MemTakes (tReport (.attest 0x8000 (some [1])) false) ∧
    (∀ op ∈ [LkpOp.devcert 0x8000, .attest 0x8000 (some [1]), .attest 0x8000 (some []), .attest 0x8000 none],
      (tReport op false).lkp.op = some op ∧ (tReport op false).krg.held = [] ∧ inLoader (tReport op false) = false ∧
      devThere (tReport op false) 0x8000 16384 = true ∧ devThere (tReport op false) 0x8000 12416 = true ∧
      outWaits (tReport op false) 0x8000 12416 = false ∧ outWaits (tReport op true) 0x8000 12416 = true ∧
      netWaits (tReport op true) 0x8000 32 = true) :=
  ⟨takes_of _ (by decide +kernel) rfl rfl (by decide +kernel), takes_of _ (by decide +kernel) rfl rfl (by decide +kernel),
    by decide +kernel⟩

/-- The power duty at 9 checks in succession below the cap. -/
def tHlt (op : Option HltOp) : State := { tRun with hlt := { tRun.hlt with op := op, below := 9, duty := 10 } }

/-- The device with every stack held; with a LIFE record in the flash. -/
def tHltHeld (op : HltOp) : State := { tHlt (some op) with stk := Vector.replicate 24 kHeld }

def tHltLife (held : Bool) : State :=
  { tHlt (some (.life 0x8000)) with
    stk := if held then Vector.replicate 24 kHeld else tRun.stk
    flash := { tBad with recs := [{ seq := 1, index := 24, body := .life (List.replicate 640 3) }] } }

theorem witness_HealthIsControlledAndRecorded_power : awake tRun = true ∧ awake tOff1 = false ∧
    (max (109 : Int) 50 < 110 ∧ (94 : Int) < 95 ∧ (110 : Int) ≤ max 50 110) ∧
    (effectiveCap tRun < 3000 ∧ tRun.hlt.fast = false ∧ 100 + 50 < effectiveCap (tHlt none) ∧ (tHlt none).hlt.fast = false ∧
      9 ≤ (tHlt none).hlt.below) ∧ bitsAt (0x8000 : BitVec 32) 15 1 = 1 := by decide +kernel

theorem witness_HealthIsControlledAndRecorded_services :
    (tRun.hlt.op = none ∧ (tHlt (some (.crc 0 4096))).hlt.op.isSome = true) ∧
    ((tHlt (some (.crc 0 4096))).hlt.op = some (.crc 0 4096) ∧ 0 + 4096 ≤ viewBase ∧
      installed (tHlt (some (.crc 0 4096))) 0 4096 = true ∧ readWaits (tHlt (some (.crc 0 4096))) 0 4096 0 = false ∧
      firstBad (tHlt (some (.crc 0 4096))) 0 4096 = none) ∧
    ((tHltHeld (.crc 0 4096)).hlt.op = some (.crc 0 4096) ∧ installed (tHltHeld (.crc 0 4096)) 0 4096 = true ∧
      readWaits (tHltHeld (.crc 0 4096)) 0 4096 0 = true) ∧
    (let s : State := { tMemS [0] with hlt := (tHlt (some (.crc 0 4096))).hlt }
     s.hlt.op = some (.crc 0 4096) ∧ readWaits s 0 4096 0 = false ∧ (firstBad s 0 4096).isSome = true) ∧
    (tRun.hlt.life.length = 25 ∧ tRun.hlt.life[24]? = some (List.replicate 640 0)) := by decide +kernel

theorem witness_HealthIsControlledAndRecorded_life : MemTakes (tHltLife false) ∧
    ∀ held : Bool, (tHltLife held).hlt.op = some (.life 0x8000) ∧ lifeCur (tHltLife held) = [(24, List.replicate 640 3)] ∧
      0x8000 + 4096 * 24 + 640 ≤ viewBase ∧ installed (tHltLife held) (0x8000 + 4096 * 24) 640 = true ∧
      writeEnds (tHltLife held) (0x8000 + 4096 * 24) 640 = !held :=
  ⟨takes_of _ (by decide +kernel) rfl rfl (by decide +kernel), by decide +kernel⟩

/-! ### Single steps with results worked out by hand -/

/-- The state that an outcome leads to. -/
def tOut1 (o : Host.Outcome State Fault Refusal) : State :=
  match o with
  | .next t => t
  | _ => State.reset

/-- LDT: two BF16 elements of row 0 reach the scratchpad, the row after it starts at the stride. -/
theorem test_ldt_copies_rows : (tOut1 (exec (.ldt 0 .none) (tPut (tBlk (wTile opLDT 0 2 16)) [(0x20000, [1, 0, 2, 0])]))).blocks[0].scratch =
    [(0, 1), (2, 2)] := by decide +kernel

/-- STT: a 32-byte row of 16 BF16 elements becomes one store at the tensor row's address. -/
theorem test_stt_issues_rows : ((tOut1 (exec (.stt 0 .none) (scratchPut (tBlk (wTile opSTT 0 1 16)) 0 0 [7]))).mem.stores.map
    (fun p => (p.addr, p.data.length, p.data.take 1))) = [(0x20000, 32, [(7, 0xFF)])] := by decide +kernel

/-- DRN: 1.5 in the slot's first element leaves as BF16 0x3FC0. -/
theorem test_drn_narrows : srange zeroFill (tOut1 (exec (.drn 0 .none)
    (modBlk (tBlk (wDrn 1 16)) 0 (fun k => accPut k 0 0 0 [0x3FC00000])))).blocks[0].scratch 4096 2 = [0xC0, 0x3F] := by
  decide +kernel

/-- A chunk of one index: 1.5 times 2 is 3. -/
theorem test_chunk_multiplies : ((tOut1 (exec (.chunkComplete 0) (tJobS { tJob 0 1 0 0 false with
      arith := .float, p := 2, pairs := [], geom := [{ r0 := 0, c0 := 0, nr := 1, nc := 1, a0 := 0, b0 := 0 }],
      a := [[val 0x3FC00000]], b := [[val 0x40000000]] }))).blocks[0].job.map
    (fun j => j.pairs.map (fun q => (q.1, q.2.map (·.elts))))) = some [(0, [[0x40400000]])] := by decide +kernel

/-- R177: a partial merged with one that has no valid key is as it was; one without a valid key normalises to +0 and −∞. -/
theorem test_rve_merge : rveMerge [([0x40400000], 0x3F800000, 0x40000000)] [([0], negInf, 0)] =
      [([0x40400000], 0x3F800000, 0x40000000)] ∧ rveNormalise [([0x40400000], negInf, 0)] = [([0], negInf)] := by decide +kernel

/-- A flag at 3 with an increment of 1 reads 4. -/
theorem test_flag_increments : flagVal (tOut1 (exec (.flagIncrement 0) { tFlag 3 0 with flagReqs := [tReq] })) 0 9 = 4 := by
  decide +kernel

/-- HLT_EVT is W1C: writing 1 to HOT clears it and leaves DEGR. -/
theorem test_w1c_clears : rreg (tOut1 (exec (.registerWrite .latch (BitVec.ofNat 64 (regAddr .hltEvt 0)) 1)
    (wreg tRun .hltEvt 0 0x9))) .hltEvt 0 = 0x8 := by decide +kernel

/-- The IDCODE of R649. -/
theorem test_idcode : (tOut1 (exec .jtagIdcode tRun)).jtag.dr = 0x14880B8D := by decide +kernel

/-- A read of the time counter's low word latches its high word. -/
theorem test_dtc_latches : (tOut1 (exec .dtcLatchRead { tRun with dtc := 0x500000007 })).lastRead = 7 ∧
    rreg (tOut1 (exec .dtcLatchRead { tRun with dtc := 0x500000007 })) .devDtc1 0 = 5 := by decide +kernel

/-- A store of the top byte of memory that exists: the last byte of half 0's 5 GiB. -/
theorem test_store_at_top : memByte (tOut1 (exec (.memoryWrite ⟨0, .none⟩) (modHalf { tRun with mem := { tRun.mem with
    stores := [{ tStore 1 with addr := 5 * 2 ^ 30 - 1 }] } } 0 (fun h => { h with msc := [MscLine.mk (5 * 2 ^ 21 - 1) 0 true] }))))
    (5 * 2 ^ 30 - 1) = 5 := by decide +kernel

/-- R350: partials that become ready in one fabric cycle are taken in ascending index, those of two management cycles in their
order. -/
theorem test_tadd_cycle : byCycles [2] [(5, 40), (1, 40), (3, 40)] = [1, 5, 3] ∧
    byCycles [2] [(5, 40), (1, 41), (3, 41)] = [5, 1, 3] := by decide

end Sys2Proof.Tests
end

section
/-! SUPPORT. The state after reset (R15, R35, R543). -/

namespace Sys2Proof.Machine

/-- A register that was never written holds its reset value (R15). -/
theorem rreg_of_regs_nil {s : State} (h : s.regs = []) (r : Reg) (i : Nat) : rreg s r i = regReset r := by
  rw [rreg, h]
  rfl

/-- A shadow copy that was never written holds the reset value of its register (R15, R35). -/
theorem rshadow_of_shadow_nil {s : State} (h : s.shadow = []) (r : Reg) (i : Nat) : rshadow s r i = regReset r := by
  rw [rshadow, h]
  rfl

theorem reset_rings (i : Fin 16) : State.reset.rings[i] = none := Vector.getElem_replicate i.isLt

theorem reset_blocks (b : Fin 48) : State.reset.blocks[b] = Block.reset := Vector.getElem_replicate b.isLt

theorem reset_regions (r : Fin 8) : State.reset.regions[r] = Region.reset := Vector.getElem_replicate r.isLt

theorem reset_halves (h : Fin 2) : State.reset.halves[h] = Half.reset := Vector.getElem_replicate h.isLt

/-- Settles O3: the state after reset lists no register, so each reads its reset value, and its units are copies of the reset
unit. -/
theorem resetHoldsResetValues : Obligations.ResetHoldsResetValues := by
  unfold Obligations.ResetHoldsResetValues
  refine ⟨fun r i => ⟨rreg_of_regs_nil rfl r i, rshadow_of_shadow_nil rfl r i⟩,
    rfl, rfl, rfl, rfl, rfl, rfl, rfl, rfl, rfl, rfl, rfl, reset_rings, fun b => ?block, fun r => ?region, fun h => ?half,
    rfl, rfl, rfl, reset_memory_wf⟩
  case block => rw [reset_blocks]; exact ⟨rfl, rfl, rfl⟩
  case region => rw [reset_regions]; exact ⟨rfl, rfl⟩
  case half => rw [reset_halves]; exact ⟨rfl, rfl⟩

end Sys2Proof.Machine
end

section
/-! SUPPORT. What a management cycle changes (log 4): the time counter, the port, the write queues, launches and turns. -/

namespace Sys2Proof.Machine

/-! ### Time -/

theorem tickTime_frame (s : State) : tickTime s =
    { s with
      dtc := (tickTime s).dtc, dtcPs := (tickTime s).dtcPs, net := { s.net with ptp := (tickTime s).net.ptp } } := by
  unfold tickTime
  split <;> rfl

theorem tickTime_stopped {s : State} (h : counting s = false) : tickTime s = s := by
  simp [tickTime, h]

/-- With no correction and nothing to slew, a management cycle is 10 ns (R527, R530). -/
theorem tickTime_uncorrected {s : State} (h : counting s = true) (hs : s.net.ptp.slew = 0) (hf : s.net.ptp.freq = 0)
    (ha : s.net.ptp.acc = 0) (hp : s.dtcPs < 1000) :
    (tickTime s).dtc = s.dtc + 10 ∧ (tickTime s).dtcPs = s.dtcPs := by
  have ps : ((s.dtcPs : Int) + 10000).toNat = s.dtcPs + 10000 := by omega
  have whole : (s.dtcPs + 10000) / 1000 = 10 := by omega
  have rest : (s.dtcPs + 10000) % 1000 = s.dtcPs := by omega
  simp [tickTime, h, modPtp, hs, hf, ha, ps, whole, rest]

/-! ### The port -/

theorem send_frame (s : State) (x : Tx) :
    send s x = { s with net := { s.net with txq := (send s x).net.txq, tx := (send s x).net.tx } } := by
  unfold send
  split
  · rfl
  · split <;> rfl

theorem sendWaiting_frame (s : State) :
    sendWaiting s = { s with net := { s.net with txq := (sendWaiting s).net.txq, tx := (sendWaiting s).net.tx } } := by
  unfold sendWaiting
  split <;> rfl

@[simp] theorem send_conns (s : State) (x : Tx) : (send s x).net.conns = s.net.conns := by rw [send_frame]

theorem flowControl_frame (s : State) (depth : Nat) : flowControl s depth = { s with net := (flowControl s depth).net } := by
  unfold flowControl
  dsimp only
  split
  · rfl
  · split
    · rw [send_frame]
    · split
      · rw [send_frame]
      · rfl

@[simp] theorem flowControl_conns (s : State) (depth : Nat) : (flowControl s depth).net.conns = s.net.conns := by
  unfold flowControl
  dsimp only
  split
  · rfl
  · split
    · simp
    · split <;> simp

/-- With no request waiting, none goes on. -/
theorem pumpNet_idle {s : State} (h : ∀ c ∈ s.net.conns, c.waiting = []) : pumpNet s = s := by
  unfold pumpNet
  generalize s.net.conns = l at h
  induction l with
  | nil => rfl
  | cons c l ih =>
    rw [List.foldl_cons, if_pos (h c List.mem_cons_self)]
    exact ih fun x hx => h x (List.mem_cons_of_mem c hx)

/-- With no request waiting, the port's cycle changes its own state only, and no connection. -/
theorem tickNet_idle {s : State} (h : ∀ c ∈ s.net.conns, c.waiting = []) :
    tickNet s = { s with net := (tickNet s).net } ∧ (tickNet s).net.conns = s.net.conns := by
  obtain ⟨u, hu⟩ : ∃ u, u = sendWaiting { s with net := { s.net with
      pause := BitVec.ofNat 16 (s.net.pause.toNat - 16), ppsOut := s.net.ppsOut.filter (fun t => s.cyc < t) } } := ⟨_, rfl⟩
  obtain ⟨v, hv⟩ : ∃ v, v = if s.net.depth = 0 then u else flowControl u (s.net.depth - 1000) := ⟨_, rfl⟩
  have frameU : u = { s with net := u.net } := by rw [hu, sendWaiting_frame]
  have connsU : u.net.conns = s.net.conns := by rw [hu, sendWaiting_frame]
  have depthU : u.net.depth = s.net.depth := by rw [hu, sendWaiting_frame]
  have frameV : v = { s with net := v.net } := by
    rw [hv]
    split
    · exact frameU
    · rw [flowControl_frame, frameU]
  have connsV : v.net.conns = s.net.conns := by
    rw [hv]
    split
    · exact connsU
    · rw [flowControl_conns, connsU]
  have tick : tickNet s = v := by
    unfold tickNet
    dsimp only
    rw [← hu, depthU, ← hv]
    exact pumpNet_idle (by rw [connsV]; exact h)
  rw [tick]
  exact ⟨frameV, connsV⟩

/-! ### Write queues -/

theorem goodFrames_frame (s : State) : goodFrames s = { s with stk := (goodFrames s).stk } := by
  unfold goodFrames
  split <;> rfl

theorem goodFrames_stk (s : State) (i : Fin 24) :
    (goodFrames s).stk[i] = { s.stk[i] with badFrames := ((goodFrames s).stk[i]).badFrames } := by
  unfold goodFrames
  split
  · rfl
  · simp only [Fin.getElem_fin, Vector.getElem_map]
    split <;> rfl

/-- What a cycle of the write queues leaves: bursts leave the queues, and rows of failed write frames end (R34, log 136). -/
theorem drainQueues_frame (s : State) : drainQueues s =
    { s with stk := (drainQueues s).stk, mem := { s.mem with wq := (drainQueues s).mem.wq } } := by
  unfold drainQueues
  split
  · rfl
  · dsimp only
    rw [goodFrames_frame]

theorem drainQueues_wq (s : State) : ∀ b ∈ (drainQueues s).mem.wq, b ∈ s.mem.wq := by
  unfold drainQueues
  split
  · exact fun _ hb => hb
  · dsimp only
    rw [goodFrames_frame]
    exact fun _ hb => List.mem_of_mem_filter hb

theorem drainQueues_stk (s : State) (i : Fin 24) :
    (drainQueues s).stk[i] = { s.stk[i] with badFrames := ((drainQueues s).stk[i]).badFrames } := by
  unfold drainQueues
  split
  · rfl
  · exact goodFrames_stk _ i

/-! ### The debug port and the hot-minute counters -/

theorem pumpJtag_idle {s : State} (h : s.jtag.wait = none) : pumpJtag s = s := by
  simp [pumpJtag, h]

theorem tickHot_frame (s : State) (i : Nat) : tickHot s i = { s with hlt := (tickHot s i).hlt } := by
  unfold tickHot
  split
  · rfl
  · dsimp only
    split <;> rfl

theorem tickHot_foldl_frame (l : List Nat) (s : State) : l.foldl tickHot s = { s with hlt := (l.foldl tickHot s).hlt } := by
  induction l generalizing s with
  | nil => rfl
  | cons i l ih =>
    rw [List.foldl_cons, ih, tickHot_frame]

/-! ### Launches -/

theorem tickLaunch_running {s : State} {l : Launch} (h : l.st = .running) :
    tickLaunch s l = { l with ran := l.ran + 21, sliceLeft := l.sliceLeft - 1 } := by
  simp [tickLaunch, h]

theorem tickLaunch_waiting {s : State} {l : Launch} (h : l.st = .waiting) : tickLaunch s l = l := by
  simp [tickLaunch, h]

/-! ### The whole cycle -/

/-- What of the device takes part in a cycle before launches and turns count it. -/
def tickUnits (s : State) : State := drainQueues (tickNet (tickTime s))

theorem tickUnits_idle {s : State} (h : ∀ c ∈ s.net.conns, c.waiting = []) :
    tickUnits s = { s with
      dtc := (tickTime s).dtc, dtcPs := (tickTime s).dtcPs, net := (tickUnits s).net, stk := (tickUnits s).stk,
      mem := { s.mem with wq := (tickUnits s).mem.wq } } := by
  have time := tickTime_frame s
  have port := (tickNet_idle (s := tickTime s) (by rw [time]; exact h)).1
  have queues := drainQueues_frame (tickNet (tickTime s))
  unfold tickUnits
  rw [queues, port, time]

theorem tickUnits_conns {s : State} (h : ∀ c ∈ s.net.conns, c.waiting = []) :
    (tickUnits s).net.conns = s.net.conns := by
  have time := tickTime_frame s
  have port := (tickNet_idle (s := tickTime s) (by rw [time]; exact h)).2
  rw [tickUnits, drainQueues_frame]
  exact port.trans (by rw [time])

theorem tickUnits_wq {s : State} (h : ∀ c ∈ s.net.conns, c.waiting = []) :
    ∀ b ∈ (tickUnits s).mem.wq, b ∈ s.mem.wq := by
  have time := tickTime_frame s
  have port := (tickNet_idle (s := tickTime s) (by rw [time]; exact h)).1
  intro b hb
  have hb' := drainQueues_wq _ b hb
  rw [port, time] at hb'
  exact hb'

theorem tickUnits_stk {s : State} (h : ∀ c ∈ s.net.conns, c.waiting = []) (i : Fin 24) :
    (tickUnits s).stk[i] = { s.stk[i] with badFrames := ((tickUnits s).stk[i]).badFrames } := by
  have time := tickTime_frame s
  have port := (tickNet_idle (s := tickTime s) (by rw [time]; exact h)).1
  have stk : (tickNet (tickTime s)).stk = s.stk := by rw [port, time]
  have queues := drainQueues_stk (tickNet (tickTime s)) i
  rwa [stk] at queues

/-- With no debug read waiting, a cycle is that of the units, then launches and turns count it, then the hot minutes. -/
theorem tick_eq {s : State} (h : ∀ c ∈ s.net.conns, c.waiting = []) (hj : s.jtag.wait = none) :
    tick s = { tickUnits s with
      launches := s.launches.map (tickLaunch (tickUnits s)), regions := s.regions.map (tickRegion (tickUnits s)),
      cyc := s.cyc + 1, hlt := (tick s).hlt } := by
  have units := tickUnits_idle h
  have debug : pumpJtag (tickUnits s) = tickUnits s := pumpJtag_idle (by rw [units]; exact hj)
  have launches : (tickUnits s).launches = s.launches := by rw [units]
  have regions : (tickUnits s).regions = s.regions := by rw [units]
  have cyc : (tickUnits s).cyc = s.cyc := by rw [units]
  have cycle : tick s = (List.range 25).foldl tickHot { tickUnits s with
      launches := s.launches.map (tickLaunch (tickUnits s)), regions := s.regions.map (tickRegion (tickUnits s)),
      cyc := s.cyc + 1 } := by
    unfold tick
    dsimp only
    rw [← tickUnits, debug, launches, regions, cyc]
  rw [cycle]
  exact tickHot_foldl_frame _ _

/-- Settles O2: an idle step is `tick`, whose parts each change only what is theirs. -/
theorem idleStepIsOneManagementCycle : Obligations.IdleStepIsOneManagementCycle := by
  unfold Obligations.IdleStepIsOneManagementCycle
  intro s hp hw hj
  have cycle := tick_eq hw hj
  have units := tickUnits_idle hw
  have dtc : (tick s).dtc = (tickTime s).dtc := by rw [cycle, units]
  have dtcPs : (tick s).dtcPs = (tickTime s).dtcPs := by rw [cycle, units]
  have launches : (tick s).launches = s.launches.map (tickLaunch (tickUnits s)) := by rw [cycle]
  have stk : (tick s).stk = (tickUnits s).stk := by rw [cycle]
  refine ⟨tick s, by simp [step, hp], by rw [cycle], fun h => ?stopped, fun h hs hf ha hps => ?counting, by simp [launches],
    fun i l hl hr => ?running, fun i l hl hr => ?waiting, ?wq, ?conns, fun i => ?stk, ?frame⟩
  case stopped => rw [dtc, dtcPs, tickTime_stopped h]; exact ⟨rfl, rfl⟩
  case counting => rw [dtc, dtcPs]; exact tickTime_uncorrected h hs hf ha hps
  case running => rw [launches, List.getElem?_map, hl, Option.map_some, tickLaunch_running hr]
  case waiting => rw [launches, List.getElem?_map, hl, Option.map_some, tickLaunch_waiting hr]
  case wq => rw [cycle]; exact tickUnits_wq hw
  case conns => rw [cycle]; exact tickUnits_conns hw
  case stk => rw [stk]; exact tickUnits_stk hw i
  case frame => rw [cycle, units]

end Sys2Proof.Machine
end

section
/-! SUPPORT. Reading an entry of a ring and completing it (R548, R550, R553). -/

namespace Sys2Proof.Machine

theorem getRing_modRing_same (s : State) (i : Nat) (f : Ring → Ring) : getRing (modRing s i f) i = (getRing s i).map f := by
  simp [getRing, modRing]

/-- What stands behind an entry that is read next: an open ring, and a device that serves commands. -/
theorem nextCmd_eq_some {s : State} {i : Nat} {r : Ring} {a : Nat} (h : nextCmd s i = some (r, a)) :
    getRing s i = some r ∧ (s.power.phase = .ready ∨ inLoader s = true) := by
  unfold nextCmd at h
  split at h
  · cases h
  · next q hq =>
    split at h
    · next on =>
      cases h
      exact ⟨hq, on.1⟩
    · cases h

section AtCommand

variable {s : State} {ring : Fin 16} {op : Nat} {e : List Byte} {cid : Word} (h : AtCommand s ring op e cid)
include h

theorem AtCommand.ring_isSome : (getRing s ring.val).isSome = true := by
  obtain ⟨⟨r, a, next, -⟩, -⟩ := h
  rw [(nextCmd_eq_some next).1]
  rfl

theorem AtCommand.mgmtOn : mgmtOn s = true := by
  obtain ⟨⟨r, a, next, -⟩, -⟩ := h
  simpa [Machine.mgmtOn] using (nextCmd_eq_some next).2

/-- Reading the entry leaves the device serving. -/
theorem AtCommand.mgmtOn_readCmd (cid' : Word) (op' : Nat) (lid : Word) :
    Machine.mgmtOn (readCmd s ring.val cid' op' lid) = true := by
  exact h.mgmtOn

theorem AtCommand.op_eq : leAt e 0 1 = op := by
  obtain ⟨-, hop, -⟩ := h
  exact hop

theorem readCmd_ring_isSome (cid' : Word) (op' : Nat) (lid : Word) :
    (getRing (readCmd s ring.val cid' op' lid) ring.val).isSome = true := by
  rw [readCmd, getRing_modRing_same, Option.isSome_map]
  exact h.ring_isSome

/-- A good entry is acted on by its command. -/
theorem onCmd_of_atCommand (act : State → List Byte → Word → State) : onCmd s ring.val op act = act s e cid := by
  obtain ⟨⟨r, a, next, bytes, good, ready⟩, hop, hgood, hloader, rfl⟩ := h
  have isOp' : isOp op (leAt e 0 1) = true := by simp [isOp, hop]
  have served : ¬ (cmdBad e = true ∨ inLoader s = true ∧ (!loaderOp op) = true) := by
    rw [hgood]
    simpa using hloader
  unfold onCmd
  rw [next]
  simp only [bytes]
  rw [if_neg (by simp [isOp', ready]), good]
  exact if_neg served

end AtCommand

/-- A command of an open ring is posted as it completes. -/
theorem finishBy_posted (drop : List OutCmd → List OutCmd) (s : State) (c : Completion) (h : (getRing s c.ring).isSome = true) :
    Posted c s (finishBy drop s c) := by
  obtain ⟨r, hr⟩ := Option.isSome_iff_exists.mp h
  refine ⟨_, finishBy_comps drop s c r hr, fun m hm => ?_⟩
  obtain ⟨o, -, rfl⟩ := List.mem_map.mp hm
  exact ⟨rfl, rfl, rfl, rfl⟩

/-- What is posted is a matter of the waiting completions alone. -/
theorem Posted.congr {c : Completion} {s s' t t' : State} (h : Posted c s t) (hs : s'.comps = s.comps) (ht : t'.comps = t.comps) :
    Posted c s' t' := by
  unfold Posted
  rw [hs, ht]
  exact h

end Sys2Proof.Machine
end

section
/-! SUPPORT. Reads of registers, and the register commands REGRD and REGWR (R11, R561, R562, R588, R728, R730). -/

namespace Sys2Proof.Machine

/-! ### Reads -/

theorem readPrepare_frame (s : State) (r : Reg) (i : Nat) : readPrepare s r i =
    { s with regs := (readPrepare s r i).regs, lkp := (readPrepare s r i).lkp, freeCtr := (readPrepare s r i).freeCtr } := by
  unfold readPrepare
  split
  · split <;> rfl
  all_goals rfl

theorem readFinish_frame (s : State) (r : Reg) (i : Nat) : readFinish s r i =
    { s with regs := (readFinish s r i).regs, freeCtr := (readFinish s r i).freeCtr } := by
  unfold readFinish
  dsimp only
  split <;> split <;> rfl

/-- A read clears RC fields, latches a high word, draws a nonce or a free value, and changes nothing else. -/
theorem readReg_frame (s : State) (r : Reg) (i : Nat) : (readReg s r i).2 =
    { s with regs := (readReg s r i).2.regs, lkp := (readReg s r i).2.lkp, freeCtr := (readReg s r i).2.freeCtr } := by
  unfold readReg
  dsimp only
  rw [readFinish_frame, readPrepare_frame]

theorem readAll_frame (l : List (Reg × Nat)) (s : State) : (readAll s l).2 =
    { s with regs := (readAll s l).2.regs, lkp := (readAll s l).2.lkp, freeCtr := (readAll s l).2.freeCtr } := by
  induction l generalizing s with
  | nil => rfl
  | cons x l ih =>
    unfold readAll
    dsimp only
    rw [ih, readReg_frame]

/-! ### Register commands -/

theorem finishReg_posted (s : State) (w : RegWait) (kind code aux2 : Nat) (data : List Byte)
    (h : (getRing s w.ring).isSome = true) :
    Posted (cmdDone w.ring kind code w.cid 0 aux2 data) s (finishReg s w kind code aux2 data) :=
  finishBy_posted _ _ _ h

theorem finishReg_frame (s : State) (w : RegWait) (kind code aux2 : Nat) (data : List Byte) :
    finishReg s w kind code aux2 data = { s with
      rings := (finishReg s w kind code aux2 data).rings, comps := (finishReg s w kind code aux2 data).comps } :=
  finishBy_frame _ _ _

/-- A register command as it is read: none of its words is written yet. -/
abbrev freshWait (ring : Fin 16) (e : List Byte) (cid : Word) : RegWait :=
  { ring := ring.val, cid := cid, entry := e, done := 0 }

theorem runRegs_read {s : State} {w : RegWait} (hm : mgmtOn s = true) (hop : leAt w.entry 0 1 = 5) :
    runRegs [w] s = setRegs (doRead s w) [] := by
  simp [runRegs, hm, hop]

theorem runRegs_written {s t : State} {w : RegWait} (hm : mgmtOn s = true) (hop : leAt w.entry 0 1 = 6)
    (h : doWrite s w = (t, none)) : runRegs [w] s = setRegs t [] := by
  simp [runRegs, hm, hop, h]

theorem runRegs_waits {s t : State} {w : RegWait} {k : Nat} (hm : mgmtOn s = true) (hop : leAt w.entry 0 1 = 6)
    (h : doWrite s w = (t, some k)) : runRegs [w] s = setRegs t [{ w with done := k }] := by
  simp [runRegs, hm, hop, h]

section RegCmd

variable {s : State} {ring : Fin 16} {op : Nat} {e : List Byte} {cid : Word}

/-- A register command that is read behind one that waits only joins it (R730, log 105). -/
theorem regCmd_joins (h : AtCommand s ring op e cid) (hk : s.krg.regs ≠ []) :
    regCmd ring.val op s = setRegs (readCmd s ring.val cid op) (s.krg.regs ++ [freshWait ring e cid]) := by
  unfold regCmd
  rw [onCmd_of_atCommand h]
  exact if_neg hk

/-- With none waiting it is executed at once. -/
theorem regCmd_runs (h : AtCommand s ring op e cid) (hk : s.krg.regs = []) :
    regCmd ring.val op s = runRegs [freshWait ring e cid] (readCmd s ring.val cid op) := by
  unfold regCmd
  rw [onCmd_of_atCommand h]
  exact if_pos hk

theorem regCmd_read (h : AtCommand s ring 5 e cid) (hk : s.krg.regs = []) :
    regCmd ring.val 5 s = setRegs (doRead (readCmd s ring.val cid 5) (freshWait ring e cid)) [] := by
  exact (regCmd_runs h hk).trans (runRegs_read (h.mgmtOn_readCmd cid 5 0) h.op_eq)

theorem regCmd_written {t : State} (h : AtCommand s ring 6 e cid) (hk : s.krg.regs = [])
    (hw : doWrite (readCmd s ring.val cid 6) (freshWait ring e cid) = (t, none)) : regCmd ring.val 6 s = setRegs t [] := by
  exact (regCmd_runs h hk).trans (runRegs_written (h.mgmtOn_readCmd cid 6 0) h.op_eq hw)

theorem regCmd_waits {t : State} {k : Nat} (h : AtCommand s ring 6 e cid) (hk : s.krg.regs = [])
    (hw : doWrite (readCmd s ring.val cid 6) (freshWait ring e cid) = (t, some k)) :
    regCmd ring.val 6 s = setRegs t [{ freshWait ring e cid with done := k }] := by
  exact (regCmd_runs h hk).trans (runRegs_waits (h.mgmtOn_readCmd cid 6 0) h.op_eq hw)

end RegCmd

section Served

variable {s : State} {w : RegWait} (hl : inLoader s = false)
include hl

theorem loaderBars_of_ready (e : List Byte) : loaderBars s e = false := by
  simp [loaderBars, hl]

/-- A REGRD whose addresses all name registers answers their words in order (R561, R728). -/
theorem doRead_named (h : ∀ a ∈ entryAddrs w.entry, (regAt a).isSome = true) : doRead s w =
    finishReg (readAll s ((entryAddrs w.entry).filterMap regAt)).2 w 1 0 0
      (wordBytes (readAll s ((entryAddrs w.entry).filterMap regAt)).1) := by
  have named : (entryAddrs w.entry).findIdx? (fun a => (regAt a).isNone) = none := by
    rw [List.findIdx?_eq_none_iff]
    intro a ha
    simpa using h a ha
  simp [doRead, loaderBars_of_ready hl, named]

/-- The first address that names no register refuses the whole REGRD (R727). -/
theorem doRead_unnamed {k : Nat} (h : (entryAddrs w.entry).findIdx? (fun a => (regAt a).isNone) = some k) :
    doRead s w = finishReg s w 2 cRegAddr k [] := by
  simp [doRead, loaderBars_of_ready hl, h]

theorem doWrite_ok {u : State} (h : writeAll s w.done ((entryWords w.entry).drop w.done) = .ok u) :
    doWrite s w = (finishReg u w 1 0 0 [], none) := by
  simp [doWrite, loaderBars_of_ready hl, h]

theorem doWrite_waits {u : State} {k : Nat} (h : writeAll s w.done ((entryWords w.entry).drop w.done) = .waits u k) :
    doWrite s w = (u, some k) := by
  simp [doWrite, loaderBars_of_ready hl, h]

end Served

end Sys2Proof.Machine
end

section
/-! SUPPORT. Register writes by the access codes (R11, R35, R41, R732). -/

namespace Sys2Proof.Machine

/-- The registers of which a write is only their access codes: no group and no effect of its own. -/
def plainRegs : List Reg := [.hltEvt, .blkWardlog, .blkTfault, .cnpFault, .lkpOut]

theorem windowOf_block {r : Reg} {b : Fin 48} (h : r ∈ [Reg.blkWardlog, .blkTfault, .blkTest]) : windowOf r b.val = some b := by
  have mem : r ∈ [Reg.blkCfg, .blkCommit, .blkTest] ++ blkShown := by
    revert r
    decide
  rw [windowOf, if_pos mem, Fin.ofNat_val_eq_self]

/-- A write that a hosted block's window takes, or that is to no block's window, takes effect now (R732). -/
theorem windowOf_filter_of_hosted {s : State} {r : Reg} {i : Nat} (h : ∀ b, windowOf r i = some b → hostedNow s b = true) :
    (windowOf r i).filter (fun b => !hostedNow s b) = none := by
  rw [Option.filter_eq_none_iff]
  intro b hb
  simp [h b hb]

theorem blkWrite_ok {r : Reg} (h : r ∈ [Reg.blkWardlog, .blkTfault, .blkTest]) (s : State) (b : Fin 48) (v : Word) :
    ∃ t, blkWrite s r b v = .ok t := by
  simp only [List.mem_cons, List.not_mem_nil, or_false] at h
  obtain rfl | rfl | rfl := h <;> exact ⟨_, rfl⟩

/-- A write to a block that no physical block hosts waits for its turn (R732). -/
theorem writeReg_unhosted {s : State} {r : Reg} {b : Fin 48} (hr : r ∈ [Reg.blkWardlog, .blkTfault, .blkTest])
    (hb : hostedNow s b = false) (p : RegPath) (v : Word) : writeReg p s r b.val v = .ok (putLate s r b v) := by
  obtain ⟨t, ht⟩ := blkWrite_ok hr s b v
  have late : (windowOf r b.val).filter (fun b => !hostedNow s b) = some b := by simp [windowOf_block hr, hb]
  simp [writeReg, late, ht]

section Hosted

variable {s : State} {r : Reg} {i : Nat} (h : ∀ b, windowOf r i = some b → hostedNow s b = true)
include h

theorem writeReg_plain (hr : r ∈ plainRegs) (p : RegPath) (v : Word) : writeReg p s r i v = .ok (writePlain s r i v) := by
  unfold writeReg
  rw [windowOf_filter_of_hosted h]
  simp only [plainRegs, List.mem_cons, List.not_mem_nil, or_false] at hr
  obtain rfl | rfl | rfl | rfl | rfl := hr <;> rfl

theorem writeReg_field {g : Group} (hc : commitGroup r i = none) (hf : fieldGroup r i = some g) (p : RegPath) (v : Word) :
    writeReg p s r i v = writeField s g r i v := by
  unfold writeReg
  rw [windowOf_filter_of_hosted h, hc, hf]

end Hosted

theorem plainRegs_writable : ∀ r ∈ plainRegs, ¬ (regMask r (· = .rw) = 0 ∧ regMask r (· = .w1c) = 0) := by decide

/-- RW bits take the written value and W1C bits written as 1 clear (R11). -/
theorem writePlain_of_plain {r : Reg} (hr : r ∈ plainRegs) (s : State) (i : Nat) (v : Word) : writePlain s r i v =
    wreg s r i (((rreg s r i &&& ~~~(regMask r (· = .rw))) ||| (v &&& regMask r (· = .rw))) &&&
      ~~~(v &&& regMask r (· = .w1c))) :=
  if_neg (plainRegs_writable r hr)

theorem wreg_regsBut (s : State) (r : Reg) (i : Nat) (v : Word) : RegsBut [regAddr r i] s (wreg s r i v) :=
  fun a ha d => sget_sset_other _ d _ _ _ a (fun e => ha (List.mem_singleton.mpr e))

theorem rshadow_wshadow_same (s : State) (r : Reg) (i : Nat) (v : Word) : rshadow (wshadow s r i v) r i = v := by
  simp [rshadow]

theorem writeField_of_pending {s : State} {g : Group} (h : pendingG s g = true) (r : Reg) (i : Nat) (v : Word) :
    writeField s g r i v = .refused cCfgPending :=
  if_pos h

/-- Without a pending commit a field's shadow copy takes the written value (R35). -/
theorem writeField_of_idle {s : State} {g : Group} (h : pendingG s g = false) (r : Reg) (i : Nat) (v : Word) :
    writeField s g r i v = .ok (wshadow s r i ((rshadow s r i &&& ~~~(regMask r (fun a => a = .rw || a = .wo))) |||
      (v &&& regMask r (fun a => a = .rw || a = .wo)))) :=
  if_neg (by simp [h])

section RegisterWrite

variable {s : State} {addr : BitVec 64} {r : Reg} {i : Nat} {v : BitVec 32} (hm : mgmtOn s = true) (hl : inLoader s = false)
  (hk : s.krg.regs = []) (hr : regAt addr.toNat = some (r, i))
include hm hl hk hr

/-- REGISTER_WRITE over Latch with no REGWR waiting is the register's own write. -/
theorem registerWrite_ok {t : State} (h : writeReg .latch s r i v = .ok t) : exec (.registerWrite .latch addr v) s = .next t := by
  simp [exec, execRegisterWrite, registerWrite, regsWait, hk, hm, hl, writeAddr, hr, h]

/-- A refused write changes nothing. -/
theorem registerWrite_refused {c : Nat} (h : writeReg .latch s r i v = .refused c) :
    exec (.registerWrite .latch addr v) s = .next s := by
  simp [exec, execRegisterWrite, registerWrite, regsWait, hk, hm, hl, writeAddr, hr, h]

end RegisterWrite

end Sys2Proof.Machine
end

section
/-! SUPPORT. Register commands and REGISTER_WRITE, as executed (R11, R35, R41, R561, R562, R588, R727, R730). -/

namespace Sys2Proof.Machine

theorem exec_regrd (ring : Fin 16) (s : State) : exec (.regrd ring) s = .next (regCmd ring.val 5 s) := rfl

theorem exec_regwr (ring : Fin 16) (s : State) : exec (.regwr ring) s = .next (regCmd ring.val 6 s) := rfl

section RegCommand

variable {s : State} {ring : Fin 16} {e : List Byte} {cid : Word} (hl : inLoader s = false) (hk : s.krg.regs = [])
include hl hk

theorem exec_regrd_answers (h : AtCommand s ring 5 e cid) (named : ∀ a ∈ entryAddrs e, (regAt a).isSome = true) :
    ∃ t, exec (.regrd ring) s = .next t ∧
      Posted (cmdDone ring.val 1 0 cid 0 0
        (wordBytes (readAll (readCmd s ring.val cid 5) ((entryAddrs e).filterMap regAt)).1)) s t ∧
      t.mem = s.mem ∧ t.launches = s.launches ∧ t.blocks = s.blocks ∧ t.shadow = s.shadow := by
  have reads := readAll_frame ((entryAddrs e).filterMap regAt) (readCmd s ring.val cid 5)
  have run := regCmd_read h hk
  rw [doRead_named (s := readCmd s ring.val cid 5) hl named] at run
  generalize readAll (readCmd s ring.val cid 5) ((entryAddrs e).filterMap regAt) = x at reads run ⊢
  have posted := finishReg_posted x.2 (freshWait ring e cid) 1 0 0 (wordBytes x.1)
    (by rw [reads]; exact readCmd_ring_isSome h cid 5 0)
  have frame := finishReg_frame x.2 (freshWait ring e cid) 1 0 0 (wordBytes x.1)
  refine ⟨_, (exec_regrd ring s).trans (congrArg _ run), posted.congr (by rw [reads]; rfl) rfl, ?_⟩
  rw [frame, reads]
  exact ⟨rfl, rfl, rfl, rfl⟩

theorem exec_regrd_refused {k : Nat} (h : AtCommand s ring 5 e cid)
    (unnamed : (entryAddrs e).findIdx? (fun a => (regAt a).isNone) = some k) :
    ∃ t, exec (.regrd ring) s = .next t ∧ Posted (cmdDone ring.val 2 0x2004 cid 0 k []) s t ∧
      t = { s with rings := t.rings, comps := t.comps } := by
  have run := regCmd_read h hk
  rw [doRead_unnamed (s := readCmd s ring.val cid 5) hl unnamed] at run
  have posted := finishReg_posted (readCmd s ring.val cid 5) (freshWait ring e cid) 2 cRegAddr k []
    (readCmd_ring_isSome h cid 5 0)
  have frame := finishReg_frame (readCmd s ring.val cid 5) (freshWait ring e cid) 2 cRegAddr k []
  refine ⟨_, (exec_regrd ring s).trans (congrArg _ run), posted.congr rfl rfl, ?_⟩
  rw [frame, ← hk]
  rfl

theorem exec_regwr_completes {u : State} (h : AtCommand s ring 6 e cid)
    (written : writeAll (readCmd s ring.val cid 6) 0 (entryWords e) = .ok u) (hr : (getRing u ring.val).isSome = true) :
    ∃ t, exec (.regwr ring) s = .next t ∧ Posted (cmdDone ring.val 1 0 cid 0 0 []) u t ∧
      t = { u with rings := t.rings, comps := t.comps, krg := { u.krg with regs := [] } } := by
  have run := regCmd_written h hk (doWrite_ok (s := readCmd s ring.val cid 6) (w := freshWait ring e cid) hl written)
  have posted := finishReg_posted u (freshWait ring e cid) 1 0 0 [] hr
  have frame := finishReg_frame u (freshWait ring e cid) 1 0 0 []
  refine ⟨_, (exec_regwr ring s).trans (congrArg _ run), posted.congr rfl rfl, ?_⟩
  rw [frame]
  rfl

theorem exec_regwr_waits {u : State} {k : Nat} (h : AtCommand s ring 6 e cid)
    (waits : writeAll (readCmd s ring.val cid 6) 0 (entryWords e) = .waits u k) :
    exec (.regwr ring) s =
      .next { u with krg := { u.krg with regs := [{ ring := ring.val, cid := cid, entry := e, done := k }] } } := by
  have run := regCmd_waits h hk (doWrite_waits (s := readCmd s ring.val cid 6) (w := freshWait ring e cid) hl waits)
  exact (exec_regwr ring s).trans (congrArg _ run)

end RegCommand

section RegisterWrite

variable {s : State} {addr : BitVec 64} {r : Reg} {i : Nat} {v : BitVec 32} (hm : mgmtOn s = true) (hl : inLoader s = false)
  (hk : s.krg.regs = []) (hw : ∀ b, windowOf r i = some b → hostedNow s b = true) (hr : regAt addr.toNat = some (r, i))
include hm hl hk hw hr

theorem exec_registerWrite_plain (hp : r ∈ plainRegs) :
    ∃ t, exec (.registerWrite .latch addr v) s = .next t ∧
      (let rw := regMask r (· = .rw)
       let w1 := regMask r (· = .w1c)
       rreg t r i = ((rreg s r i &&& ~~~rw) ||| (v &&& rw)) &&& ~~~(v &&& w1)) ∧
      RegsBut [regAddr r i] s t ∧ t = { s with regs := t.regs } := by
  have write := registerWrite_ok hm hl hk hr (writeReg_plain hw hp .latch v)
  rw [writePlain_of_plain hp] at write
  exact ⟨_, write, rreg_wreg_same s r i _, wreg_regsBut s r i _, rfl⟩

theorem exec_registerWrite_field {g : Group} (hc : commitGroup r i = none) (hf : fieldGroup r i = some g) :
    (pendingG s g = false → ∃ t, exec (.registerWrite .latch addr v) s = .next t ∧
      (let m := regMask r (fun a => a = .rw || a = .wo)
       rshadow t r i = (rshadow s r i &&& ~~~m) ||| (v &&& m)) ∧
      (∀ a, a ≠ regAddr r i → ∀ d, sget d t.shadow a = sget d s.shadow a) ∧ t = { s with shadow := t.shadow }) ∧
    (pendingG s g = true → exec (.registerWrite .latch addr v) s = .next s) := by
  have field := writeReg_field hw hc hf .latch v
  refine ⟨fun idle => ?idle, fun pending => ?pending⟩
  case idle =>
    have write := registerWrite_ok hm hl hk hr (field.trans (writeField_of_idle idle r i v))
    exact ⟨_, write, rshadow_wshadow_same s r i _, fun a ha d => sget_sset_other _ d _ _ _ a ha, rfl⟩
  case pending => exact registerWrite_refused hm hl hk hr (field.trans (writeField_of_pending pending r i v))

end RegisterWrite

/-- Settles O41: the outcomes of REGRD and REGWR from those of their reads and writes, the outcome of REGISTER_WRITE from the
kind of register it names. -/
theorem registersAreReadAndWritten : Obligations.RegistersAreReadAndWritten := by
  unfold Obligations.RegistersAreReadAndWritten
  refine ⟨fun ring s e cid h hl hk named => exec_regrd_answers hl hk h named,
    fun ring s e cid k h hl hk unnamed => exec_regrd_refused hl hk h unnamed,
    fun ring s u e cid h hl hk written hr => exec_regwr_completes hl hk h written hr,
    fun ring s u e cid k h hl hk waits => exec_regwr_waits hl hk h waits, fun ring s e cid op c h hk hc => ?joins,
    fun addr v s b r hm hl hk hr ha hb => registerWrite_ok hm hl hk ha (writeReg_unhosted hr hb .latch v),
    fun addr v s r i hm hl hk hw ha hr => exec_registerWrite_plain hm hl hk hw ha hr,
    fun addr v s r i g hm hl hk hw ha hc hf => exec_registerWrite_field hm hl hk hw ha hc hf⟩
  obtain ⟨rfl, rfl⟩ | ⟨rfl, rfl⟩ := hc
  · rw [exec_regrd, regCmd_joins h hk]
  · rw [exec_regwr, regCmd_joins h hk]

end Sys2Proof.Machine
end

section
/-! SUPPORT. Fields of a register word, and what writing one field leaves of the others (R11). -/

namespace Sys2Proof.Machine

theorem testBit_getF (x : Word) (hi lo k : Nat) :
    (getF x hi lo).testBit k = (decide (k < hi + 1 - lo) && x.getLsbD (lo + k)) := by
  simp [getF, bitsAt, Nat.testBit_mod_two_pow, Nat.testBit_div_two_pow, BitVec.getLsbD, Nat.add_comm]

/-- The mask of a field has the field's bits. -/
theorem getLsbD_fieldMask {hi lo k : Nat} (hk : k < 32) :
    (BitVec.ofNat 32 ((2 ^ (hi + 1 - lo) - 1) * 2 ^ lo)).getLsbD k = decide (lo ≤ k ∧ k ≤ hi) := by
  rw [BitVec.getLsbD_ofNat, Nat.testBit_mul_two_pow, Nat.testBit_two_pow_sub_one, decide_eq_true hk, Bool.true_and,
    ← Bool.decide_and, decide_eq_decide]
  omega

/-- A set field shows the new value in its own bits and the old word in all others. -/
theorem getLsbD_setF (x : Word) (hi lo v k : Nat) (hk : k < 32) : (setF x hi lo v).getLsbD k =
    if lo ≤ k ∧ k ≤ hi then v.testBit (k - lo) else x.getLsbD k := by
  have value : (BitVec.ofNat 32 (v * 2 ^ lo)).getLsbD k = (decide (lo ≤ k) && v.testBit (k - lo)) := by
    rw [BitVec.getLsbD_ofNat, Nat.testBit_mul_two_pow, decide_eq_true hk, Bool.true_and]
  unfold setF
  rw [BitVec.getLsbD_or, BitVec.getLsbD_and, BitVec.getLsbD_and, BitVec.getLsbD_not, getLsbD_fieldMask hk, value]
  split
  · next inside => simp [inside]
  · next outside => simp [outside, hk]

theorem getF_setF_same (x : Word) {hi lo : Nat} (v : Nat) (hhi : hi < 32) :
    getF (setF x hi lo v) hi lo = v % 2 ^ (hi + 1 - lo) := by
  apply Nat.eq_of_testBit_eq
  intro k
  rw [testBit_getF, Nat.testBit_mod_two_pow]
  by_cases h : k < hi + 1 - lo
  · rw [getLsbD_setF x hi lo v (lo + k) (by omega), if_pos (by omega), Nat.add_sub_cancel_left]
  · simp [h]

theorem getF_setF_other (x : Word) {hi lo hi' lo' : Nat} (v : Nat) (hhi : hi' < 32) (h : hi < lo' ∨ hi' < lo) :
    getF (setF x hi lo v) hi' lo' = getF x hi' lo' := by
  apply Nat.eq_of_testBit_eq
  intro k
  rw [testBit_getF, testBit_getF]
  by_cases hk : k < hi' + 1 - lo'
  · rw [getLsbD_setF x hi lo v (lo' + k) (by omega), if_neg (by omega)]
  · simp [hk]

theorem rfld_wfld_same (s : State) (r : Reg) (i : Nat) {hi lo : Nat} (v : Nat) (hhi : hi < 32) :
    rfld (wfld s r i hi lo v) r i hi lo = v % 2 ^ (hi + 1 - lo) := by
  rw [rfld, wfld, rreg_wreg_same, getF_setF_same _ v hhi]

/-- Another field of the same register keeps its value. -/
theorem rfld_wfld_field (s : State) (r : Reg) (i : Nat) {hi lo hi' lo' : Nat} (v : Nat) (hhi : hi' < 32)
    (h : hi < lo' ∨ hi' < lo) : rfld (wfld s r i hi lo v) r i hi' lo' = rfld s r i hi' lo' := by
  rw [rfld, wfld, rreg_wreg_same, getF_setF_other _ v hhi h]
  rfl

/-- Any field of another register keeps its value. -/
theorem rfld_wfld_reg (s : State) {r q : Reg} {i j : Nat} (hi lo hi' lo' v : Nat) (h : regAddr q j ≠ regAddr r i) :
    rfld (wfld s r i hi lo v) q j hi' lo' = rfld s q j hi' lo' :=
  rfld_wreg_other s r q i j hi' lo' _ h

/-! ### Which registers a command leaves -/

theorem RegsBut.refl (l : List Nat) (s : State) : RegsBut l s s := fun _ _ _ => rfl

theorem RegsBut.trans {l : List Nat} {s t u : State} (h : RegsBut l s t) (k : RegsBut l t u) : RegsBut l s u :=
  fun a ha d => (k a ha d).trans (h a ha d)

theorem RegsBut.mono {l l' : List Nat} {s t : State} (h : RegsBut l s t) (hl : ∀ a ∈ l, a ∈ l') : RegsBut l' s t :=
  fun a ha d => h a (fun m => ha (hl a m)) d

theorem RegsBut.congr {l : List Nat} {s s' t t' : State} (h : RegsBut l s t) (hs : s'.regs = s.regs) (ht : t'.regs = t.regs) :
    RegsBut l s' t' := by
  unfold RegsBut
  rw [hs, ht]
  exact h

theorem RegsBut.rreg {l : List Nat} {s t : State} (h : RegsBut l s t) {r : Reg} {i : Nat} (ha : regAddr r i ∉ l) :
    rreg t r i = rreg s r i :=
  h _ ha _

theorem RegsBut.rfld {l : List Nat} {s t : State} (h : RegsBut l s t) {r : Reg} {i : Nat} (ha : regAddr r i ∉ l)
    (hi lo : Nat) : rfld t r i hi lo = rfld s r i hi lo := by
  rw [Machine.rfld, h.rreg ha]
  rfl

theorem wfld_regsBut (s : State) (r : Reg) (i hi lo v : Nat) : RegsBut [regAddr r i] s (wfld s r i hi lo v) :=
  wreg_regsBut s r i _

end Sys2Proof.Machine
end

section
/-! SUPPORT. No two registers of the map have an address in common (R725, R726, R741, R742). -/

namespace Sys2Proof.Machine

/-- Where the first of a register's places lies, the distance to the next, and their number (R725). -/
def regFirst (r : Reg) : Nat := windowBase (regPlace r).1 + (regPlace r).2.1

def regStride (r : Reg) : Nat := (regPlace r).2.2.1

def regCount (r : Reg) : Nat := (regPlace r).2.2.2

theorem regAddr_eq (r : Reg) (i : Nat) : regAddr r i = regFirst r + regStride r * i := rfl

/-- Two registers whose places lie one behind the other, or interleave at one distance. -/
def regsApart (r q : Reg) : Bool :=
  decide (regFirst r + regStride r * (regCount r - 1) < regFirst q) ||
  decide (regFirst q + regStride q * (regCount q - 1) < regFirst r) ||
  decide (regStride r = regStride q) && decide (regFirst r % regStride r ≠ regFirst q % regStride r)

theorem mem_regAll (r : Reg) : r ∈ regAll := by
  cases r <;> decide

theorem regAll_apart : ∀ r ∈ regAll, ∀ q ∈ regAll, r = q ∨ regsApart r q = true := by
  decide +kernel

theorem regAll_single : ∀ r ∈ regAll, regStride r = 0 → regCount r = 1 := by
  decide +kernel

theorem regAddr_ne_of_apart {r q : Reg} (h : regsApart r q = true) {i j : Nat} (hi : i < regCount r) (hj : j < regCount q) :
    regAddr r i ≠ regAddr q j := by
  have last (r : Reg) {i : Nat} (hi : i < regCount r) : regStride r * i ≤ regStride r * (regCount r - 1) :=
    Nat.mul_le_mul_left _ (by omega)
  have lastR := last r hi
  have lastQ := last q hj
  simp only [regsApart, Bool.or_eq_true, Bool.and_eq_true, decide_eq_true_eq] at h
  rw [regAddr_eq, regAddr_eq]
  obtain (before | behind) | ⟨stride, residue⟩ := h
  · omega
  · omega
  · intro same
    have := congrArg (· % regStride r) same
    simp only [Nat.add_mul_mod_self_left] at this
    rw [stride, Nat.add_mul_mod_self_left, ← stride] at this
    exact residue this

/-- An address names one place of one register (R726). -/
theorem regAddr_inj {r q : Reg} {i j : Nat} (hi : i < regCount r) (hj : j < regCount q) (h : regAddr r i = regAddr q j) :
    r = q ∧ i = j := by
  obtain rfl | apart := regAll_apart r (mem_regAll r) q (mem_regAll q)
  · refine ⟨rfl, ?_⟩
    have offset : regStride r * i = regStride r * j := Nat.add_left_cancel h
    obtain zero | pos := Nat.eq_zero_or_pos (regStride r)
    · have := regAll_single r (mem_regAll r) zero
      omega
    · exact Nat.eq_of_mul_eq_mul_left pos offset
  · exact absurd h (regAddr_ne_of_apart apart hi hj)

end Sys2Proof.Machine
end

section
/-! SUPPORT. Configuration groups: where their registers lie, what a copy of them leaves, and what a commit does (R35-R45, R740,
R744). -/

namespace Sys2Proof.Machine

/-! ### The registers of a group -/

/-- A group lists registers that the map has (Table 17.6). -/
theorem groupRegs_lt (g : Group) : ∀ x ∈ groupRegs g, x.2 < regCount x.1 := by
  cases g <;> simp [groupRegs, regCount, regPlace, or_imp, forall_and, Fin.is_le]

theorem groupCommit_lt (g : Group) : (groupCommit g).2 < regCount (groupCommit g).1 := by
  cases g <;> simp [groupCommit, regCount, regPlace, Fin.is_le]

/-- A group's commit register is none of its fields. -/
theorem groupRegs_ne_commit (g : Group) : ∀ x ∈ groupRegs g, x.1 ≠ (groupCommit g).1 := by
  cases g <;> simp [groupRegs, groupCommit, or_imp, forall_and]

theorem groupRegs_addr_inj {g : Group} {x y : Reg × Nat} (hx : x ∈ groupRegs g) (hy : y ∈ groupRegs g)
    (h : regAddr x.1 x.2 = regAddr y.1 y.2) : x = y := by
  obtain ⟨reg, place⟩ := regAddr_inj (groupRegs_lt g x hx) (groupRegs_lt g y hy) h
  exact Prod.ext reg place

/-- The address of a group's commit register. -/
abbrev commitAddr (g : Group) : Nat := regAddr (groupCommit g).1 (groupCommit g).2

/-- The addresses of a group's fields. -/
abbrev fieldAddrs (g : Group) : List Nat := (groupRegs g).map (fun x => regAddr x.1 x.2)

theorem fieldAddr_ne_commitAddr {g : Group} {x : Reg × Nat} (hx : x ∈ groupRegs g) : regAddr x.1 x.2 ≠ commitAddr g :=
  fun same => groupRegs_ne_commit g x hx (regAddr_inj (groupRegs_lt g x hx) (groupCommit_lt g) same).1

theorem commitAddr_not_mem_fieldAddrs (g : Group) : commitAddr g ∉ fieldAddrs g := by
  intro h
  obtain ⟨x, hx, same⟩ := List.mem_map.mp h
  exact fieldAddr_ne_commitAddr hx same

/-! ### Copies -/

/-- A store of register words with the words of another over the registers of a list. -/
def copyRegs (src : Store 32) (l : List (Reg × Nat)) (dst : Store 32) : Store 32 :=
  l.foldl (fun m x => sset (fun _ => regReset x.1) m (regAddr x.1 x.2) (sget (fun _ => regReset x.1) src (regAddr x.1 x.2))) dst

theorem sget_copyRegs_other (src : Store 32) {l : List (Reg × Nat)} {a : Nat} (h : a ∉ l.map (fun x => regAddr x.1 x.2))
    (d : Nat → Word) (dst : Store 32) : sget d (copyRegs src l dst) a = sget d dst a := by
  induction l generalizing dst with
  | nil => rfl
  | cons y l ih =>
    rw [List.map_cons, List.mem_cons, not_or] at h
    exact (ih h.2 _).trans (sget_sset_other _ d _ _ _ a h.1)

/-- Every register of the list reads as it does in the source, where no two have one address. -/
theorem sget_copyRegs_same (src : Store 32) {l : List (Reg × Nat)}
    (inj : ∀ x ∈ l, ∀ y ∈ l, regAddr x.1 x.2 = regAddr y.1 y.2 → x = y) (dst : Store 32) {x : Reg × Nat} (hx : x ∈ l) :
    sget (fun _ => regReset x.1) (copyRegs src l dst) (regAddr x.1 x.2) = sget (fun _ => regReset x.1) src (regAddr x.1 x.2) := by
  induction l generalizing dst with
  | nil => cases hx
  | cons y l ih =>
    by_cases later : x ∈ l
    · exact ih (fun u hu v hv => inj u (List.mem_cons_of_mem y hu) v (List.mem_cons_of_mem y hv)) _ later
    · have first : x = y := (List.mem_cons.mp hx).resolve_right later
      have once : regAddr x.1 x.2 ∉ l.map (fun z => regAddr z.1 z.2) := by
        intro h
        obtain ⟨z, hz, same⟩ := List.mem_map.mp h
        exact later (inj z (List.mem_cons_of_mem y hz) x hx same ▸ hz)
      subst first
      exact (sget_copyRegs_other src once _ _).trans (sget_sset_same _ _ _ _)

theorem copyOver_eq (s : State) (g : Group) : copyOver s g = { s with regs := copyRegs s.shadow (groupRegs g) s.regs } := by
  unfold copyOver
  induction groupRegs g generalizing s with
  | nil => rfl
  | cons x l ih => exact ih _

theorem copyBack_eq (s : State) (g : Group) : copyBack s g = { s with shadow := copyRegs s.regs (groupRegs g) s.shadow } := by
  unfold copyBack
  induction groupRegs g generalizing s with
  | nil => rfl
  | cons x l ih => exact ih _

theorem rreg_copyOver {g : Group} {x : Reg × Nat} (hx : x ∈ groupRegs g) (s : State) :
    rreg (copyOver s g) x.1 x.2 = rshadow s x.1 x.2 := by
  rw [copyOver_eq]
  exact sget_copyRegs_same _ (fun _ hy _ hz => groupRegs_addr_inj hy hz) _ hx

theorem rshadow_copyBack {g : Group} {x : Reg × Nat} (hx : x ∈ groupRegs g) (s : State) :
    rshadow (copyBack s g) x.1 x.2 = rreg s x.1 x.2 := by
  rw [copyBack_eq]
  exact sget_copyRegs_same _ (fun _ hy _ hz => groupRegs_addr_inj hy hz) _ hx

theorem copyOver_regsBut (s : State) (g : Group) : RegsBut (fieldAddrs g) s (copyOver s g) := by
  rw [copyOver_eq]
  exact fun a ha d => sget_copyRegs_other _ ha d _

theorem copyBack_shadow_other {g : Group} {a : Nat} (ha : a ∉ fieldAddrs g) (d : Nat → Word) (s : State) :
    sget d (copyBack s g).shadow a = sget d s.shadow a := by
  rw [copyBack_eq]
  exact sget_copyRegs_other _ ha d _

/-! ### The commit register (Table 1.5) -/

theorem commitFld_setCommit_same (s : State) (g : Group) {hi lo v : Nat} (hhi : hi < 32) (hv : v < 2 ^ (hi + 1 - lo)) :
    commitFld (setCommit s g hi lo v) g hi lo = v :=
  (rfld_wfld_same s _ _ v hhi).trans (Nat.mod_eq_of_lt hv)

theorem commitFld_setCommit_other (s : State) (g : Group) {hi lo hi' lo' : Nat} (v : Nat) (hhi : hi' < 32)
    (h : hi < lo' ∨ hi' < lo) : commitFld (setCommit s g hi lo v) g hi' lo' = commitFld s g hi' lo' :=
  rfld_wfld_field s _ _ v hhi h

theorem setCommit_regsBut (s : State) (g : Group) (hi lo v : Nat) : RegsBut [commitAddr g] s (setCommit s g hi lo v) :=
  wfld_regsBut s _ _ hi lo v

theorem commitFld_congr {s t : State} (h : t.regs = s.regs) (g : Group) (hi lo : Nat) : commitFld t g hi lo = commitFld s g hi lo := by
  unfold commitFld rfld rreg
  rw [h]

theorem pendingG_congr {s t : State} (h : t.regs = s.regs) (g : Group) : pendingG t g = pendingG s g := by
  rw [pendingG, commitFld_congr h]
  rfl

/-- A group pends or not as PENDING was written last. -/
theorem pendingG_setCommit (s : State) (g : Group) {v : Nat} (hv : v < 2) : pendingG (setCommit s g 2 2 v) g = decide (v = 1) := by
  rw [pendingG, commitFld_setCommit_same s g (by decide) hv]

theorem commitFld_copyOver (s : State) (g : Group) (hi lo : Nat) : commitFld (copyOver s g) g hi lo = commitFld s g hi lo :=
  (copyOver_regsBut s g).rfld (commitAddr_not_mem_fieldAddrs g) hi lo

/-! ### COMMIT_REQUEST and DISCARD (R40, R41, R744) -/

theorem commitRequest_of_pending {s : State} {g : Group} (h : pendingG s g = true) : commitRequest g s = s := if_pos h

theorem commitRequest_of_idle {s : State} {g : Group} (h : pendingG s g = false) :
    commitRequest g s = setCommit (setCommit (setCommit s g 15 12 0) g 8 8 0) g 2 2 1 :=
  if_neg (by simp [h])

theorem discard_of_pending {s : State} {g : Group} (h : pendingG s g = true) : discard g s = s := if_pos h

theorem discard_of_idle {s : State} {g : Group} (h : pendingG s g = false) : discard g s = copyBack s g := if_neg (by simp [h])

theorem exec_commitRequest_idle {s : State} {g : Group} (h : pendingG s g = false) :
    ∃ t, exec (.commitRequest g) s = .next t ∧ pendingG t g = true ∧ commitFld t g 8 8 = 0 ∧ commitFld t g 15 12 = 0 ∧
      commitFld t g 31 16 = commitFld s g 31 16 ∧ RegsBut [commitAddr g] s t ∧ t = { s with regs := t.regs } := by
  refine ⟨commitRequest g s, rfl, ?_⟩
  rw [commitRequest_of_idle h]
  refine ⟨pendingG_setCommit _ g (by decide), ?rejected, ?reason, ?gen, ?frame, rfl⟩
  case rejected => rw [commitFld_setCommit_other _ _ _ (by decide) (by decide), commitFld_setCommit_same _ _ (by decide) (by decide)]
  case reason =>
    rw [commitFld_setCommit_other _ _ _ (by decide) (by decide), commitFld_setCommit_other _ _ _ (by decide) (by decide),
      commitFld_setCommit_same _ _ (by decide) (by decide)]
  case gen => iterate 3 rw [commitFld_setCommit_other _ _ _ (by decide) (by decide)]
  case frame => exact ((setCommit_regsBut s g _ _ _).trans (setCommit_regsBut _ g _ _ _)).trans (setCommit_regsBut _ g _ _ _)

theorem exec_discard_idle {s : State} {g : Group} (h : pendingG s g = false) :
    ∃ t, exec (.discard g) s = .next t ∧ (∀ x ∈ groupRegs g, rshadow t x.1 x.2 = rreg s x.1 x.2) ∧
      (∀ a, a ∉ fieldAddrs g → ∀ d, sget d t.shadow a = sget d s.shadow a) ∧ t = { s with shadow := t.shadow } := by
  refine ⟨discard g s, rfl, ?_⟩
  rw [discard_of_idle h]
  exact ⟨fun x hx => rshadow_copyBack hx s, fun a ha d => copyBack_shadow_other ha d s, by rw [copyBack_eq]⟩

/-! ### CONFIG_APPLY (R26, R42, R43, R45) -/

/-- Sending the Control beat takes a credit and touches nothing that a group's rules read. -/
theorem groupBad_hingeSend (s : State) (half cls : Nat) (g : Group) : groupBad (hingeSend s half cls) g = groupBad s g := by
  cases g <;> rfl

/-- The state at the group: of half 1 the Control beat has been sent (R26). -/
def reachGroup (s : State) (g : Group) : State := if groupInHalf1 g then hingeSend s 0 0 else s

theorem reachGroup_eq (s : State) (g : Group) : reachGroup s g =
    { s with hinge := if groupInHalf1 g then (hingeSend s 0 0).hinge else s.hinge } := by
  unfold reachGroup
  split <;> rfl

theorem groupBad_reachGroup (s : State) (g : Group) : groupBad (reachGroup s g) g = groupBad s g := by
  unfold reachGroup
  split
  · exact groupBad_hingeSend s 0 0 g
  · rfl

theorem configApply_of_due {s : State} {g : Group} (hp : pendingG s g = true) (ha : atApply s g = true)
    (hr : s.power.phase = .ready) (hc : groupInHalf1 g = true → hingeTakes s 0 0 = true) :
    configApply g s = match groupBad s g with
      | none => applyGroup (reachGroup s g) g
      | some why => rejectGroup (reachGroup s g) g why := by
  have due : applyDue s g = true ∧ ((!groupInHalf1 g) = true ∨ hingeTakes s 0 0 = true) := by
    refine ⟨by simp [applyDue, hp, ha, hr], ?_⟩
    cases half : groupInHalf1 g
    · exact .inl rfl
    · exact .inr (hc half)
  rw [← groupBad_reachGroup s g]
  exact if_pos due

theorem configApply_of_not_due {s : State} {g : Group} (h : ¬ (pendingG s g = true ∧ atApply s g = true ∧ s.power.phase = .ready ∧
    (groupInHalf1 g = true → hingeTakes s 0 0 = true))) : configApply g s = s := by
  refine if_neg fun due => h ?_
  obtain ⟨due, credit⟩ := due
  simp only [applyDue, Bool.and_eq_true, decide_eq_true_eq] at due
  obtain ⟨⟨pending, there⟩, ready⟩ := due
  exact ⟨pending, there, ready, fun half => credit.resolve_left (by simp [half])⟩

/-- The registers after a copy that is taken: the fields, then GEN, then PENDING (R37, R43). -/
theorem applyGroup_regs (s : State) (g : Group) : (applyGroup s g).regs =
    (setCommit (setCommit (copyOver s g) g 31 16 (commitFld s g 31 16 + 1)) g 2 2 0).regs := by
  unfold applyGroup
  dsimp only
  split <;> rfl

theorem applyGroup_frame (s : State) (g : Group) : applyGroup s g =
    { s with regs := (applyGroup s g).regs, net := { s.net with conns := (applyGroup s g).net.conns } } := by
  unfold applyGroup
  rw [copyOver_eq]
  dsimp only
  split <;> rfl

/-- Only the windows of the group LAT let bindings end (R571). -/
theorem applyGroup_net (s : State) {g : Group} (h : g ≠ .lat) : (applyGroup s g).net = s.net := by
  unfold applyGroup
  rw [copyOver_eq]
  dsimp only
  rw [if_neg h]
  rfl

theorem applyGroup_idle (s : State) (g : Group) : pendingG (applyGroup s g) g = false := by
  rw [pendingG_congr (applyGroup_regs s g)]
  exact pendingG_setCommit _ g (by decide)

theorem applyGroup_regsBut (s : State) (g : Group) : RegsBut (commitAddr g :: fieldAddrs g) s (applyGroup s g) := by
  have fields := (copyOver_regsBut s g).mono fun a ha => List.mem_cons_of_mem (commitAddr g) ha
  have commit (u : State) (hi lo v : Nat) : RegsBut (commitAddr g :: fieldAddrs g) u (setCommit u g hi lo v) :=
    (setCommit_regsBut u g hi lo v).mono (by simp)
  exact ((fields.trans (commit _ 31 16 _)).trans (commit _ 2 2 0)).congr rfl (applyGroup_regs s g)

/-- Every field reads as its shadow copy did, all of the group at once (R37). -/
theorem rreg_applyGroup {g : Group} {x : Reg × Nat} (hx : x ∈ groupRegs g) (s : State) :
    rreg (applyGroup s g) x.1 x.2 = rshadow s x.1 x.2 := by
  have outside : regAddr x.1 x.2 ∉ [commitAddr g] := by simpa using fieldAddr_ne_commitAddr hx
  have kept : RegsBut [commitAddr g] (copyOver s g) (applyGroup s g) :=
    ((setCommit_regsBut _ g 31 16 _).trans (setCommit_regsBut _ g 2 2 0)).congr rfl (applyGroup_regs s g)
  rw [kept.rreg outside, rreg_copyOver hx]

theorem applyGroup_gen (s : State) (g : Group) :
    commitFld (applyGroup s g) g 31 16 = (commitFld s g 31 16 + 1) % 65536 := by
  rw [commitFld_congr (applyGroup_regs s g), commitFld_setCommit_other _ _ _ (by decide) (by decide)]
  exact rfld_wfld_same _ _ _ _ (by decide)

/-- The fields of the commit register below GEN and above PENDING stay. -/
theorem commitFld_applyGroup (s : State) (g : Group) {hi lo : Nat} (hhi : hi < 16) (hlo : 2 < lo) :
    commitFld (applyGroup s g) g hi lo = commitFld s g hi lo := by
  rw [commitFld_congr (applyGroup_regs s g), commitFld_setCommit_other _ _ _ (by omega) (by omega),
    commitFld_setCommit_other _ _ _ (by omega) (by omega), commitFld_copyOver]

theorem reason_lt {range clash : Bool} {why : Nat} (h : reason range clash = some why) : why < 16 := by
  unfold reason at h
  split at h
  · cases h; decide
  · split at h
    · cases h; decide
    · cases h

/-- REASON fits its field (Table 1.5). -/
theorem groupBad_lt {s : State} {g : Group} {why : Nat} (h : groupBad s g = some why) : why < 16 := by
  cases g
  case tmb => cases h
  all_goals
    simp only [groupBad, devBad, rgnBad, cnpBad, rveBad, jobBad, frcBad, latBad] at h
    exact reason_lt h

theorem rejectGroup_idle (s : State) (g : Group) (why : Nat) : pendingG (rejectGroup s g why) g = false :=
  pendingG_setCommit _ g (by decide)

theorem rejectGroup_regsBut (s : State) (g : Group) (why : Nat) : RegsBut [commitAddr g] s (rejectGroup s g why) :=
  ((setCommit_regsBut s g _ _ _).trans (setCommit_regsBut _ g _ _ _)).trans (setCommit_regsBut _ g _ _ _)

theorem rejectGroup_rejected (s : State) (g : Group) (why : Nat) : commitFld (rejectGroup s g why) g 8 8 = 1 := by
  unfold rejectGroup
  rw [commitFld_setCommit_other _ _ _ (by decide) (by decide), commitFld_setCommit_same _ _ (by decide) (by decide)]

theorem rejectGroup_reason (s : State) (g : Group) {why : Nat} (h : why < 16) :
    commitFld (rejectGroup s g why) g 15 12 = why := by
  unfold rejectGroup
  rw [commitFld_setCommit_other _ _ _ (by decide) (by decide), commitFld_setCommit_other _ _ _ (by decide) (by decide),
    commitFld_setCommit_same _ _ (by decide) h]

theorem rejectGroup_gen (s : State) (g : Group) (why : Nat) :
    commitFld (rejectGroup s g why) g 31 16 = commitFld s g 31 16 := by
  unfold rejectGroup
  iterate 3 rw [commitFld_setCommit_other _ _ _ (by decide) (by decide)]

/-- Settles O48: the outcome of each command, from what the copies and the writes of the commit register leave. -/
theorem groupsCommitAndApplyWhole : Obligations.GroupsCommitAndApplyWhole := by
  unfold Obligations.GroupsCommitAndApplyWhole
  refine ⟨fun g s => ⟨fun pending => ?refused, fun idle => ⟨exec_commitRequest_idle idle, exec_discard_idle idle⟩⟩,
    fun g s => ⟨fun h => congrArg _ (configApply_of_not_due h), fun pending there ready credit => ?due⟩⟩
  case refused =>
    exact ⟨congrArg _ (commitRequest_of_pending pending), congrArg _ (discard_of_pending pending)⟩
  case due =>
    have reach := reachGroup_eq s g
    refine ⟨configApply g s, rfl, ?_⟩
    rw [configApply_of_due pending there ready credit]
    generalize reachGroup s g = u at reach
    subst reach
    obtain good | ⟨why, bad⟩ := Option.eq_none_or_eq_some (groupBad s g)
    · rw [good]
      exact ⟨applyGroup_idle _ g, by rw [applyGroup_frame], fun _ => ⟨fun x hx => rreg_applyGroup hx _, applyGroup_gen _ g,
        commitFld_applyGroup _ g (by decide) (by decide), commitFld_applyGroup _ g (by decide) (by decide),
        by rw [applyGroup_frame], fun h => applyGroup_net _ h⟩, nofun, applyGroup_regsBut _ g⟩
    · rw [bad]
      have commit := rejectGroup_regsBut { s with hinge := if groupInHalf1 g then (hingeSend s 0 0).hinge else s.hinge } g why
      refine ⟨rejectGroup_idle _ g why, rfl, nofun, fun why' same => ?_, commit.mono (by simp)⟩
      obtain rfl := Option.some.inj same
      exact ⟨fun x hx => commit.rreg (by simpa using fieldAddr_ne_commitAddr hx), rejectGroup_rejected _ g why,
        rejectGroup_reason _ g (groupBad_lt bad), rejectGroup_gen _ g why, rfl⟩

end Sys2Proof.Machine
end

section
/-! SUPPORT. A commit register in the window of a block that no physical block hosts (R397, R732). -/

namespace Sys2Proof.Machine

/-- A write to the block's commit register with no commit pending waits for the block's next turn (R732). -/
theorem writeReg_blkCommit_unhosted {s : State} {b : Fin 48} (hb : hostedNow s b = false) (hp : pendingG s (.blk b) = false)
    (p : RegPath) (v : Word) : writeReg p s .blkCommit b.val v = .ok (putLate s .blkCommit b v) := by
  have late : (windowOf .blkCommit b.val).filter (fun b => !hostedNow s b) = some b := by
    have window : windowOf .blkCommit b.val = some b := by rw [windowOf, if_pos (by decide), Fin.ofNat_val_eq_self]
    simp [window, hb]
  have taken : ∃ t, blkWrite s .blkCommit b v = .ok t := by
    refine ⟨_, if_neg ?_⟩
    simp [hp]
  obtain ⟨t, ht⟩ := taken
  simp [writeReg, late, ht]

/-- A ready device whose region 0 has five physical blocks in service, so that it runs in turn, with no turn begun, and with a value
of BLK0_CFG written but not committed. -/
def turnDevice : State :=
  wshadow (wfld { State.reset with power := { Power.reset with phase := .ready } } .krgBlkmap 0 21 16 31) .blkCfg 0 0x2A

/-- Refutes O49: in a region that runs in turn a write of COMMIT and DISCARD to BLK0_COMMIT is taken but waits for the block's next
turn (R732), so the shadow copy of BLK0_CFG still differs from the active copy. -/
theorem not_pendingGroupRefusesWrites : ¬ Obligations.PendingGroupRefusesWrites := by
  unfold Obligations.PendingGroupRefusesWrites
  rintro ⟨-, discards⟩
  have idle : pendingG turnDevice (.blk 0) = false := by decide +kernel
  have unhosted : hostedNow turnDevice 0 = false := by decide +kernel
  have dirty : rshadow turnDevice .blkCfg 0 ≠ rreg turnDevice .blkCfg 0 := by decide +kernel
  obtain ⟨t, written, -, clean⟩ := discards turnDevice .blkCommit 0 3 (.blk 0) rfl idle rfl
  have waits : writeReg .latch turnDevice .blkCommit 0 3 = .ok (putLate turnDevice .blkCommit 0 3) :=
    writeReg_blkCommit_unhosted (b := 0) unhosted idle .latch 3
  rw [waits] at written
  obtain rfl := WriteOut.ok.inj written
  exact dirty (clean (.blkCfg, 0) List.mem_cons_self)

end Sys2Proof.Machine
end

section
/-! SUPPORT. Halting a launch, and halting every launch (R31, R34, R565, R755, R758). -/

namespace Sys2Proof.Machine

/-- A launch as a halt leaves it. -/
def Launch.haltedBy (l : Launch) (code : Nat) : Launch := { l with st := .halted, fault := code, stop := none, resume := none }

/-- The states in which a halt takes hold of a launch. -/
def haltable : List LState := [.running, .stopping, .restoring, .waiting, .saved]

theorem haltable_of_running {st : LState} (h : st = .running) : st ∈ haltable := by
  rw [h]
  decide

/-- A launch stands halted with a fault. -/
def StandsHalted (t : State) (lid : BitVec 32) (code : Nat) : Prop :=
  ∃ m, findLaunch t lid = some m ∧ m.st = .halted ∧ m.fault = code

/-- A halt that takes hold: the launch is halted, commands of it complete, and the event follows. -/
theorem haltLaunch_haltable {s : State} {lid : BitVec 32} {l : Launch} (hl : findLaunch s lid = some l) (hs : l.st ∈ haltable)
    (code : Nat) (h : HaltAt) : ∃ a c, haltLaunch s lid code h = setEvt (postEvent
      { modLaunch s lid (Launch.haltedBy · code) with rings := a, comps := c } l.ring code lid 0 h.data) 4 := by
  have stop (u : State) (w : Option (StopCause × Bool × Nat)) : ∃ a c, (match w with
      | some (.command ring cid, _, _) => finishCmd 2 u (cmdDone ring 1 code cid lid 0 [])
      | _ => u) = { u with rings := a, comps := c } := by
    split
    · exact ⟨_, _, finishCmd_frame _ _ _⟩
    · exact ⟨_, _, rfl⟩
  have resume (u : State) (w : Option (Nat × Word)) : ∃ a c, (match w with
      | some (ring, cid) => finishCmd 4 u (cmdDone ring 1 code cid lid 0 [])
      | none => u) = { u with rings := a, comps := c } := by
    split
    · exact ⟨_, _, finishCmd_frame _ _ _⟩
    · exact ⟨_, _, rfl⟩
  obtain ⟨a, c, stopped⟩ := stop (modLaunch s lid (Launch.haltedBy · code)) l.stop
  obtain ⟨a', c', resumed⟩ := resume { modLaunch s lid (Launch.haltedBy · code) with rings := a, comps := c } l.resume
  refine ⟨a', c', ?_⟩
  rw [← resumed, ← stopped]
  unfold haltLaunch
  simp only [haltable, List.mem_cons, List.not_mem_nil, or_false] at hs
  rw [hl]
  obtain st | st | st | st | st := hs <;> simp only [st] <;> rfl

/-- All that halting a launch can do: nothing, or a change of that launch, commands that complete, and an event. -/
theorem haltLaunch_cases (s : State) (lid : BitVec 32) (code : Nat) (h : HaltAt) : haltLaunch s lid code h = s ∨
    ∃ f a c ring, (∀ l : Launch, (f l).lid = l.lid) ∧
      haltLaunch s lid code h = setEvt (postEvent { modLaunch s lid f with rings := a, comps := c } ring code lid 0 h.data) 4 := by
  obtain missing | ⟨l, hl⟩ := Option.eq_none_or_eq_some (findLaunch s lid)
  · simp [haltLaunch, missing]
  · by_cases hs : l.st ∈ haltable
    · obtain ⟨a, c, halts⟩ := haltLaunch_haltable hl hs code h
      exact .inr ⟨(Launch.haltedBy · code), a, c, l.ring, fun _ => rfl, halts⟩
    · unfold haltLaunch
      rw [hl]
      dsimp only
      split
      case h_6 =>
        split
        · exact .inl rfl
        · exact .inr ⟨fun l => { l with fault := code }, s.rings, s.comps, l.ring, fun _ => rfl, rfl⟩
      case h_7 => exact .inl rfl
      all_goals
        next st => exact absurd (by rw [st]; decide) hs

theorem postEvent_launches (s : State) (ring code : Nat) (lid : Word) (aux2 : Nat) (data : List Byte) :
    (postEvent s ring code lid aux2 data).launches = s.launches := by
  rw [postEvent_frame]

theorem findLaunch_congr {s t : State} (h : t.launches = s.launches) (lid : BitVec 32) : findLaunch t lid = findLaunch s lid := by
  unfold findLaunch
  rw [h]

theorem findLaunch_haltEvent (s : State) (ring code : Nat) (lid lid' : Word) (data : List Byte) :
    findLaunch (setEvt (postEvent s ring code lid 0 data) 4) lid' = findLaunch s lid' :=
  findLaunch_congr (postEvent_launches s ring code lid 0 data) lid'

theorem findLaunch_haltLaunch_other (s : State) {lid lid' : BitVec 32} (hne : lid' ≠ lid) (code : Nat) (h : HaltAt) :
    findLaunch (haltLaunch s lid code h) lid' = findLaunch s lid' := by
  obtain same | ⟨f, a, c, ring, keeps, halts⟩ := haltLaunch_cases s lid code h
  · rw [same]
  · rw [halts, findLaunch_haltEvent]
    exact findLaunch_modLaunch_other s lid lid' f hne keeps

theorem standsHalted_haltLaunch {s : State} {lid : BitVec 32} {l : Launch} (hl : findLaunch s lid = some l) (hs : l.st ∈ haltable)
    (code : Nat) (h : HaltAt) : StandsHalted (haltLaunch s lid code h) lid code := by
  obtain ⟨a, c, halts⟩ := haltLaunch_haltable hl hs code h
  refine ⟨l.haltedBy code, ?_, rfl, rfl⟩
  rw [halts, findLaunch_haltEvent]
  exact findLaunch_modLaunch_same s lid (Launch.haltedBy · code) l hl fun _ => rfl

/-- A launch that has halted is left alone (R565). -/
theorem haltLaunch_of_halted {s : State} {lid : BitVec 32} {l : Launch} (hl : findLaunch s lid = some l) (hs : l.st = .halted)
    (code : Nat) (h : HaltAt) : haltLaunch s lid code h = s := by
  simp [haltLaunch, hl, hs]

theorem StandsHalted.haltLaunch {s : State} {lid : BitVec 32} {code : Nat} (halted : StandsHalted s lid code) (lid' : BitVec 32)
    (h : HaltAt) : StandsHalted (haltLaunch s lid' code h) lid code := by
  obtain ⟨m, found, st, fault⟩ := halted
  by_cases same : lid = lid'
  · subst same
    rw [haltLaunch_of_halted found st]
    exact ⟨m, found, st, fault⟩
  · exact ⟨m, (findLaunch_haltLaunch_other s same code h).trans found, st, fault⟩

/-- Halting launches one after the other. -/
def haltEach (ls : List Launch) (code : Nat) (h : HaltAt) (s : State) : State :=
  ls.foldl (fun s l => haltLaunch s l.lid code h) s

theorem haltAll_eq (s : State) (code reg : Nat) : haltAll s code reg =
    haltEach s.launches code { blk := none32, place := none32, idx := none32, reg := reg } s := rfl

theorem StandsHalted.haltEach {lid : BitVec 32} {code : Nat} (h : HaltAt) (ls : List Launch) {s : State}
    (halted : StandsHalted s lid code) : StandsHalted (haltEach ls code h s) lid code := by
  induction ls generalizing s with
  | nil => exact halted
  | cons x ls ih => exact ih (halted.haltLaunch x.lid h)

theorem standsHalted_haltEach {s : State} {lid : BitVec 32} {l : Launch} (hl : findLaunch s lid = some l) (hs : l.st ∈ haltable)
    (code : Nat) (h : HaltAt) {ls : List Launch} (mem : ∃ x ∈ ls, x.lid = lid) : StandsHalted (haltEach ls code h s) lid code := by
  induction ls generalizing s with
  | nil => simp at mem
  | cons x ls ih =>
    by_cases same : x.lid = lid
    · have first := standsHalted_haltLaunch hl hs code h
      rw [← same] at first ⊢
      exact first.haltEach h ls
    · obtain ⟨y, hy, ylid⟩ := mem
      have later : y ∈ ls := (List.mem_cons.mp hy).resolve_left fun e => same (e ▸ ylid)
      exact ih ((findLaunch_haltLaunch_other s (Ne.symm same) code h).trans hl) ⟨y, later, ylid⟩

/-- Every launch that stands in a state to be halted halts, whatever else the list holds. -/
theorem standsHalted_haltAll {s : State} {lid : BitVec 32} {l : Launch} (hl : findLaunch s lid = some l)
    (hs : l.st = .running ∨ l.st = .waiting ∨ l.st = .saved) (code reg : Nat) : StandsHalted (haltAll s code reg) lid code := by
  have holds : l.st ∈ haltable := by
    obtain st | st | st := hs <;> rw [st] <;> decide
  exact standsHalted_haltEach hl holds code _ ⟨l, List.mem_of_find?_eq_some hl, by simpa using List.find?_some hl⟩

/-! ### What it leaves -/

theorem haltAll_told (s : State) (code reg : Nat) : Told s (haltAll s code reg) := by
  rw [haltAll_eq]
  generalize s.launches = ls
  induction ls generalizing s with
  | nil => exact rfl
  | cons x ls ih => exact (haltLaunch_told s x.lid code _).trans (ih _)

/-- The registers of the device's own events: HLT_EVT, and LAT_STAT, which counts events lost (R566). -/
def eventAddrs : List Nat := [regAddr .hltEvt 0, regAddr .latStat 0]

theorem setEvt_regsBut (s : State) (bit : Nat) : RegsBut eventAddrs s (setEvt s bit) :=
  (wfld_regsBut s .hltEvt 0 bit bit 1).mono (by simp [eventAddrs])

theorem postEvent_regsBut (s : State) (ring code : Nat) (lid : Word) (aux2 : Nat) (data : List Byte) :
    RegsBut eventAddrs s (postEvent s ring code lid aux2 data) := by
  unfold postEvent
  split
  · exact RegsBut.refl _ s
  · split
    · exact (wreg_regsBut s .latStat 0 _).mono (by simp [eventAddrs])
    · exact RegsBut.refl _ s

theorem haltLaunch_regsBut (s : State) (lid : BitVec 32) (code : Nat) (h : HaltAt) :
    RegsBut eventAddrs s (haltLaunch s lid code h) := by
  obtain same | ⟨f, a, c, ring, -, halts⟩ := haltLaunch_cases s lid code h
  · rw [same]
    exact RegsBut.refl _ s
  · rw [halts]
    exact (postEvent_regsBut { modLaunch s lid f with rings := a, comps := c } ring code lid 0 h.data).trans (setEvt_regsBut _ 4)

theorem haltAll_regsBut (s : State) (code reg : Nat) : RegsBut eventAddrs s (haltAll s code reg) := by
  rw [haltAll_eq]
  generalize s.launches = ls
  induction ls generalizing s with
  | nil => exact RegsBut.refl _ s
  | cons x ls ih => exact (haltLaunch_regsBut s x.lid code _).trans (ih _)

end Sys2Proof.Machine
end

section
/-! SUPPORT. Waits that are overdue and the halt of their launch (R53, R137, R230). -/

namespace Sys2Proof.Machine

/-! ### Barriers -/

/-- A barrier is late only while its launch runs (R53). -/
theorem running_of_barrierLate {s : State} {x : Nat × Barrier} (h : barrierLate s x ≠ []) :
    ∃ l, findLaunch s x.2.lid = some l ∧ l.st = .running := by
  unfold barrierLate at h
  split at h
  · exact absurd rfl h
  · next l hl =>
    obtain ⟨found, running⟩ := Option.filter_eq_some_iff.mp hl
    exact ⟨l, found, by simpa using running⟩

theorem barrierTimeout_told (i : Fin 32) (s : State) : Told s (barrierTimeout i s) := by
  unfold barrierTimeout
  split
  · rfl
  · exact haltLaunch_told _ _ _ _

theorem barrierTimeout_halts {i : Fin 32} {s : State} {x : Nat × Barrier}
    (h : s.barriers.find? (fun x => x.1 = i.val && barrierLate s x ≠ []) = some x) :
    StandsHalted (barrierTimeout i s) x.2.lid 0x3C05 := by
  have late : barrierLate s x ≠ [] := by
    have test := List.find?_some h
    simp only [Bool.and_eq_true, decide_eq_true_eq] at test
    exact test.2
  obtain ⟨l, found, running⟩ := running_of_barrierLate late
  unfold barrierTimeout
  rw [h]
  exact standsHalted_haltLaunch found (haltable_of_running running) _ _

theorem barrierTimeout_idle {i : Fin 32} {s : State} (h : ∀ x ∈ s.barriers, x.1 = i.val → barrierLate s x = []) :
    barrierTimeout i s = s := by
  have none : s.barriers.find? (fun x => x.1 = i.val && barrierLate s x ≠ []) = none := by
    rw [List.find?_eq_none]
    intro x hx
    simpa using h x hx
  unfold barrierTimeout
  rw [none]

/-! ### Broadcasts -/

theorem recordTfaults_frame (r : Fin 8) (js : List (Fin 6)) (s : State) :
    ∃ w, js.foldl (fun s j => recordTfault s (blkOf r j) 0x09 0 0 (rreg s .blkPc (blkOf r j).val).toNat) s =
      { s with regs := w } := by
  induction js generalizing s with
  | nil => exact ⟨_, rfl⟩
  | cons j js ih => exact ih _

/-- A region's first broadcast, overdue with a participant missing, halts its launch (R137). -/
theorem bcastTimeout_of_overdue {r : Fin 8} {s : State} {c : Bcast} {cs : List Bcast} {l : Launch}
    (hb : s.regions[r].bcasts = c :: cs) (hd : c.data = none) (hm : c.missing ≠ []) (hl : findLaunch s c.lid = some l)
    (hr : l.st = .running) (ht : c.since + timeout s (turnMode s r.val) ≤ l.ran) :
    ∃ w h, bcastTimeout r s = haltLaunch { s with regs := w } c.lid 0x3109 h := by
  obtain ⟨w, recorded⟩ := recordTfaults_frame r c.missing s
  refine ⟨w, ?_⟩
  unfold bcastTimeout
  dsimp only
  rw [hb, List.find?_cons_of_pos (by simp [hl, hd, hm, hr, ht])]
  dsimp only
  rw [recorded]
  exact ⟨_, rfl⟩

/-! ### Flag waits -/

theorem flagTimeout_of_overdue {b : Fin 48} {s : State} {r : Fin 8} {f : Fin 64} {n since : Nat} {lid : BitVec 32} {e : UEntry}
    {es : List UEntry} {l : Launch} (hw : s.blocks[b].wait = some (.flag r f n since)) (hb : s.blocks[b].lid = some lid)
    (hq : s.blocks[b].syncQ = e :: es) (hl : findLaunch s lid = some l) (hr : l.st = .running) (hv : flagVal s r f < n)
    (ht : since + timeout s (waitTurn s l) ≤ l.ran) :
    ∃ w h, flagTimeout (.blk b) s = haltLaunch (stopBlk { s with regs := w } b) lid 0x3302 h := by
  have wait : waitOf s (.blk b) = some ({ rgn := r, flag := f, target := n, since := since }, lid, e.idx) := by
    unfold waitOf
    dsimp only
    rw [hw, hb, hq]
  have halts (w : Store 32) (code idx reg : Nat) (more : List Byte) :
      ∃ h, blkHalt { s with regs := w } b code idx reg more = haltLaunch (stopBlk { s with regs := w } b) lid code h := by
    unfold blkHalt
    dsimp only
    rw [hb]
    exact ⟨_, rfl⟩
  unfold flagTimeout
  rw [wait]
  simp only [hl, Option.filter_some, hr, decide_true, if_true, hv, ht, and_self]
  exact ⟨_, halts _ _ _ _ _⟩

theorem stopBlk_stopped (s : State) (b : Fin 48) : (stopBlk s b).blocks[b].stopped = true := by
  simp [stopBlk]

theorem stopBlk_onlyBlock (s : State) (b : Fin 48) : OnlyBlock b s (stopBlk s b) := by
  intro c hc
  simp [stopBlk, Fin.val_ne_of_ne hc.symm]

/-- Settles O20: each command halts the launch of the wait it finds overdue, which touches registers, launches, rings and
completions only. -/
theorem waitsTimeOutAndHalt : Obligations.WaitsTimeOutAndHalt := by
  unfold Obligations.WaitsTimeOutAndHalt
  refine ⟨fun i s => ?barrier, fun r s c cs l hb hd hm hl hr ht => ?bcast,
    fun b s r f n since lid e es l hw hb hq hl hr hv ht => ?flag⟩
  case barrier =>
    have told := barrierTimeout_told i s
    refine ⟨_, rfl, fun x hx => barrierTimeout_halts hx, barrierTimeout_idle, ?_⟩
    rw [told]
    exact ⟨rfl, rfl, rfl⟩
  case bcast =>
    obtain ⟨w, h, halts⟩ := bcastTimeout_of_overdue hb hd hm hl hr ht
    have halted := standsHalted_haltLaunch (s := { s with regs := w }) hl (haltable_of_running hr) 0x3109 h
    refine ⟨_, congrArg Host.Outcome.next halts, halted, ?_⟩
    rw [haltLaunch_frame]
    exact ⟨rfl, rfl, rfl⟩
  case flag =>
    obtain ⟨w, h, halts⟩ := flagTimeout_of_overdue hw hb hq hl hr hv ht
    have halted := standsHalted_haltLaunch (s := stopBlk { s with regs := w } b) hl (haltable_of_running hr) 0x3302 h
    refine ⟨_, congrArg Host.Outcome.next halts, halted, ?_⟩
    rw [haltLaunch_frame]
    exact ⟨stopBlk_stopped _ b, stopBlk_onlyBlock { s with regs := w } b, rfl, rfl⟩

end Sys2Proof.Machine
end

section
/-! SUPPORT. Beats, flows and credits of the Hinge (R20, R23, R26-R28, R30, R34, Tables 1.2, 1.3). -/

namespace Sys2Proof.Machine

theorem getD_modAt_same {α : Type} {l : List α} {i : Nat} (h : i < l.length) (f : α → α) (d : α) :
    (modAt l i f).getD i d = f (l.getD i d) := by
  induction l generalizing i with
  | nil => cases h
  | cons x l ih =>
    cases i with
    | zero => rfl
    | succ i => simpa [modAt] using ih (by simpa using h)

theorem getD_modAt_other {α : Type} {i j : Nat} (h : j ≠ i) (l : List α) (f : α → α) (d : α) :
    (modAt l i f).getD j d = l.getD j d := by
  induction l generalizing i j with
  | nil => rfl
  | cons x l ih =>
    cases i with
    | zero =>
      obtain ⟨k, rfl⟩ := Nat.exists_eq_succ_of_ne_zero h
      rfl
    | succ i =>
      cases j with
      | zero => rfl
      | succ j => simpa [modAt] using ih (by omega)

/-- The ten places of Table 1.2, five classes in each of two directions. -/
theorem creditAt_lt (dir : Fin 2) (c : HingeClass) : creditAt dir c < 10 := by
  have := dir.isLt
  cases c <;> simp only [creditAt, HingeClass.index] <;> omega

theorem count_deliver_same (h : Hinge) (x : Nat × Nat × WaitUnit × WaitUnit) : (h.deliver x).count x = h.count x + 1 := by
  simp [Hinge.count, Hinge.deliver]

theorem count_deliver_other (h : Hinge) {x y : Nat × Nat × WaitUnit × WaitUnit} (hy : y ≠ x) :
    (h.deliver x).count y = h.count y := by
  have kept : (fun z : (Nat × Nat × WaitUnit × WaitUnit) × Nat => decide (decide (z.1 ≠ x) = true ∧ decide (z.1 = y) = true)) =
      fun z => decide (z.1 = y) := by
    funext z
    by_cases hz : z.1 = y <;> simp [hz, hy]
  simp only [Hinge.count, Hinge.deliver]
  rw [List.find?_cons_of_neg (by simpa using hy.symm), List.find?_filter, kept]

/-- What keeps a beat from coming. -/
theorem beatComes_eq_false {s : State} {dir : Fin 2} {c : HingeBeat}
    (h : s.hinge.credits.getD (creditAt dir c.cls) 0 < (if c.two then 2 else 1) ∨ s.hinge.mode = .retraining ∨
      s.hinge.mode = .down ∨ clocked s = false ∨ c.seq ≠ s.hinge.count (beatFlow dir c) ∨
      c.cls ≠ .control ∧ controlWaits s dir = true ∨
      c.cls = .control ∧ (∃ p ∈ s.mem.stores, p.src = c.src ∧ p.crosses = true)) : beatComes s dir c = false := by
  unfold beatComes
  obtain short | held | down | stopped | order | ⟨other, waits⟩ | ⟨control, store⟩ := h
  · simp [-List.getD_eq_getElem?_getD, Nat.not_le.mpr short]
  · simp [held]
  · simp [down]
  · simp [stopped]
  · simp [order]
  · simp [other, waits]
  · have before : s.mem.stores.any (fun p => p.src = c.src && p.crosses) = true := by simpa using store
    simp [control, before]

/-- What lets it come. -/
theorem beatComes_eq_true {s : State} {dir : Fin 2} {c : HingeBeat}
    (credits : (if c.two then 2 else 1) ≤ s.hinge.credits.getD (creditAt dir c.cls) 0)
    (serving : s.hinge.mode = .full ∨ s.hinge.mode = .half) (clock : clocked s = true)
    (order : c.seq = s.hinge.count (beatFlow dir c))
    (turn : c.cls = .control ∧ (∀ p ∈ s.mem.stores, p.src = c.src → p.crosses = false) ∨
      c.cls ≠ .control ∧ controlWaits s dir = false) : beatComes s dir c = true := by
  have link : (!decide (s.hinge.mode = .down) && !decide (s.hinge.mode = .retraining)) = true := by
    obtain full | half := serving
    · simp [full]
    · simp [half]
  have goes : (if c.cls = .control then !s.mem.stores.any (fun p => p.src = c.src && p.crosses) else !controlWaits s dir.val) =
      true := by
    obtain ⟨control, stores⟩ | ⟨other, waits⟩ := turn
    · simpa [control] using stores
    · simp [other, waits]
  unfold beatComes
  dsimp only
  rw [link, clock, decide_eq_true credits, decide_eq_true order, goes]
  rfl

theorem hingeBeatReceive_of_not_comes {s : State} {dir : Fin 2} {c : HingeBeat} (h : beatComes s dir c = false) (ok : Bool) :
    hingeBeatReceive dir c ok s = s := by
  simp [hingeBeatReceive, h]

section Beat

variable {s : State} {dir : Fin 2} {c : HingeBeat} (h : beatComes s dir c = true)
include h

/-- A good beat takes the credits of its slots and is the next of its flow to be delivered. -/
theorem hingeBeatReceive_good : hingeBeatReceive dir c true s = modHinge s (fun h => { h.deliver (beatFlow dir c) with
    credits := modAt h.credits (creditAt dir c.cls) (· - (if c.two then 2 else 1)),
    fails := modAt h.fails dir.val (fun _ => 0) }) := by
  simp [hingeBeatReceive, h]

/-- A bad one is replayed. -/
theorem hingeBeatReceive_replayed (few : s.hinge.fails.getD dir.val 0 < 3) : hingeBeatReceive dir c false s =
    modHinge s (fun h => { h with fails := modAt h.fails dir.val (· + 1), replays := h.replays + 1 }) := by
  simp only [hingeBeatReceive, h, few, Bool.not_true, Bool.false_eq_true, if_false, if_true]

/-- After three failed replays the link is held. -/
theorem hingeBeatReceive_held (many : 3 ≤ s.hinge.fails.getD dir.val 0) : hingeBeatReceive dir c false s =
    modHinge s (fun h => { h with fails := [0, 0], mode := .retraining }) := by
  simp only [hingeBeatReceive, h, Nat.not_lt.mpr many, Bool.not_true, Bool.false_eq_true, if_false]

end Beat

theorem hingeCreditReturn_serving {s : State} (hm : s.hinge.mode ≠ .down) (hc : clocked s = true) (dir : Fin 2) (c : HingeClass) :
    hingeCreditReturn dir c s = modHinge s (fun h => { h with
      credits := modAt h.credits (creditAt dir c) (fun n => min (n + 1) (hingeMax.getD (HingeClass.index c) 0)) }) := by
  simp [hingeCreditReturn, hm, hc]

end Sys2Proof.Machine
end

section
/-! SUPPORT. Retraining of the Hinge, and the loss of the PLL lock (R30, R31, R34, R739, Table 1.3). -/

namespace Sys2Proof.Machine

/-! ### Retraining -/

theorem trainGives_full {o : HingeTrain} {was : List (List Nat)} (h : ∀ ws ∈ addFaulty was o.faulty, ws.length ≤ 64) :
    trainGives o was = some (.full, addFaulty was o.faulty) :=
  if_pos (List.all_eq_true.mpr fun ws hws => decide_eq_true (h ws hws))

theorem trainGives_short {o : HingeTrain} {was : List (List Nat)} (h : ∃ ws ∈ addFaulty was o.faulty, 64 < ws.length) :
    trainGives o was = if o.half then some (.half, was) else none := by
  obtain ⟨ws, hws, long⟩ := h
  refine if_neg fun spared => ?_
  have short : ws.length ≤ 64 := of_decide_eq_true (List.all_eq_true.mp spared ws hws)
  omega

theorem hingeRetrainDone_of_idle {s : State} (h : s.hinge.mode ≠ .retraining ∨ clocked s = false) (o : HingeTrain) :
    hingeRetrainDone o s = s := by
  refine if_pos ?_
  simpa using h

/-- The Hinge goes on in a mode with these wires replaced, and its record is asked for. -/
def hingeResumes (s : State) (m : LinkMode) (w : List (List Nat)) : State :=
  krgReq (modHinge (lifeAdd s 24 36 4 1) (fun h => { h with mode := m, spares := w })) 0 (.hinge w (decide (m = LinkMode.half)))

theorem hingeResumes_frame (s : State) (m : LinkMode) (w : List (List Nat)) : hingeResumes s m w =
    { s with hinge := { s.hinge with mode := m, spares := w }, hlt := (lifeAdd s 24 36 4 1).hlt, krg := (hingeResumes s m w).krg } :=
  krgReq_frame _ _ _

section Held

variable {s : State} (hm : s.hinge.mode = .retraining) (hc : clocked s = true)
include hm hc

theorem hingeRetrainDone_of_held (o : HingeTrain) : hingeRetrainDone o s = match trainGives o s.hinge.spares with
    | some (m, w) => if m = LinkMode.half then degraded (hingeResumes s m w) 0x3E08 0 else hingeResumes s m w
    | none => hingeDown (lifeAdd s 24 36 4 1) := by
  refine if_neg ?_
  simp [hm, hc]

theorem hingeRetrainDone_full {o : HingeTrain} (h : ∀ ws ∈ addFaulty s.hinge.spares o.faulty, ws.length ≤ 64) :
    hingeRetrainDone o s = hingeResumes s .full (addFaulty s.hinge.spares o.faulty) := by
  rw [hingeRetrainDone_of_held hm hc, trainGives_full h]
  rfl

theorem hingeRetrainDone_half {o : HingeTrain} (h : ∃ ws ∈ addFaulty s.hinge.spares o.faulty, 64 < ws.length)
    (half : o.half = true) : hingeRetrainDone o s = degraded (hingeResumes s .half s.hinge.spares) 0x3E08 0 := by
  rw [hingeRetrainDone_of_held hm hc, trainGives_short h, half]
  rfl

theorem hingeRetrainDone_down {o : HingeTrain} (h : ∃ ws ∈ addFaulty s.hinge.spares o.faulty, 64 < ws.length)
    (half : o.half = false) : hingeRetrainDone o s = hingeDown (lifeAdd s 24 36 4 1) := by
  rw [hingeRetrainDone_of_held hm hc, trainGives_short h, half]
  rfl

end Held

/-- `t` is `s` but for what the end of a training can change. -/
def TrainChange (s t : State) : Prop :=
  t = { s with
    hinge := { s.hinge with mode := t.hinge.mode, spares := t.hinge.spares }, hlt := t.hlt, krg := t.krg, regs := t.regs,
    launches := t.launches, rings := t.rings, comps := t.comps }

theorem reportUnhalted_told {s t : State} (h : Told s t) (code : Nat) : Told s (reportUnhalted s code t) := by
  unfold reportUnhalted
  split
  · refine h.trans ?_
    unfold Told
    rw [reportEvent_frame]
  · exact h

theorem reportUnhalted_launches (s : State) (code : Nat) (t : State) : (reportUnhalted s code t).launches = t.launches := by
  unfold reportUnhalted
  split
  · rw [reportEvent_frame]
  · rfl

theorem hingeDown_told (s : State) : Told (modHinge s (fun h => { h with mode := .down })) (hingeDown s) :=
  reportUnhalted_told (haltAll_told _ _ _) _

theorem hingeDown_mode (s : State) : (hingeDown s).hinge.mode = .down := by
  rw [hingeDown_told s]
  rfl

theorem hingeDown_halts {s : State} {lid : BitVec 32} {l : Launch} (hl : findLaunch s lid = some l)
    (hs : l.st = .running ∨ l.st = .waiting ∨ l.st = .saved) : StandsHalted (hingeDown s) lid 0x3D01 := by
  obtain ⟨m, found, halted⟩ := standsHalted_haltAll (s := modHinge s (fun h => { h with mode := .down })) hl hs 0x3D01 0
  exact ⟨m, (findLaunch_congr (reportUnhalted_launches _ _ _) lid).trans found, halted⟩

theorem hingeRetrainDone_change (o : HingeTrain) (s : State) : TrainChange s (hingeRetrainDone o s) := by
  unfold TrainChange
  by_cases idle : s.hinge.mode ≠ .retraining ∨ clocked s = false
  · rw [hingeRetrainDone_of_idle idle]
  · rw [not_or, not_not, Bool.not_eq_false] at idle
    rw [hingeRetrainDone_of_held idle.1 idle.2]
    split
    · split
      · rw [degraded_frame, hingeResumes_frame]
      · rw [hingeResumes_frame]
    · rw [hingeDown_told]
      rfl

/-! ### The PLL lock -/

/-- CLK_STAT as a loss of lock leaves it: the lock bit clear, the oscillator bit set, a free count (R34, R739, log 28). -/
def loseLock (s : State) : State :=
  wfld (wfld (wfld (drawWord s).2 .clkStat 0 31 31 0) .clkStat 0 30 30 1) .clkStat 0 15 0 ((drawWord s).1.toNat % 65536)

/-- The launches halted, and HLT_EVT.CLK. -/
def lockHalt (s : State) : State := setEvt (haltAll s 0x3E03 (rreg s .clkStat 0).toNat) 5

theorem pllLockLoss_unlocked {s : State} (h : rfld s .clkStat 0 31 31 = 0) : pllLockLoss s = s := if_pos h

theorem pllLockLoss_locked {s : State} (h : rfld s .clkStat 0 31 31 = 1) : pllLockLoss s =
    { wfld (lockHalt (loseLock s)) .netStat 0 31 31 0 with
      power := { (lockHalt (loseLock s)).power with phase := .clockLost } } := by
  refine if_neg ?_
  rw [h]
  decide

theorem loseLock_lock (s : State) : rfld (loseLock s) .clkStat 0 31 31 = 0 := by
  unfold loseLock
  rw [rfld_wfld_field _ _ _ _ (by decide) (by decide), rfld_wfld_field _ _ _ _ (by decide) (by decide),
    rfld_wfld_same _ _ _ _ (by decide)]
  rfl

theorem loseLock_oscillator (s : State) : rfld (loseLock s) .clkStat 0 30 30 = 1 := by
  unfold loseLock
  rw [rfld_wfld_field _ _ _ _ (by decide) (by decide), rfld_wfld_same _ _ _ _ (by decide)]
  rfl

theorem lockHalt_regsBut (s : State) : RegsBut eventAddrs s (lockHalt s) :=
  (haltAll_regsBut s _ _).trans (setEvt_regsBut _ 5)

theorem lockHalt_event (s : State) : rfld (lockHalt s) .hltEvt 0 5 5 = 1 :=
  rfld_wfld_same _ _ _ _ (by decide)

theorem lockHalt_told (s : State) : Told s (lockHalt s) :=
  (haltAll_told s _ _).trans rfl

theorem lockHalt_halts {s : State} {lid : BitVec 32} {l : Launch} (hl : findLaunch s lid = some l)
    (hs : l.st = .running ∨ l.st = .waiting ∨ l.st = .saved) : StandsHalted (lockHalt s) lid 0x3E03 :=
  standsHalted_haltAll hl hs _ _

/-- The last register of a loss of lock to be written is NET_STAT: CLK_STAT and HLT_EVT stay. -/
theorem rfld_pllLockLoss {s : State} (h : rfld s .clkStat 0 31 31 = 1) {r : Reg} (hr : regAddr r 0 ≠ regAddr .netStat 0)
    (hi lo : Nat) : rfld (pllLockLoss s) r 0 hi lo = rfld (lockHalt (loseLock s)) r 0 hi lo := by
  rw [pllLockLoss_locked h]
  exact rfld_wfld_reg _ 31 31 hi lo 0 hr

theorem pllLockLoss_clkStat {s : State} (h : rfld s .clkStat 0 31 31 = 1) (hi lo : Nat) :
    rfld (pllLockLoss s) .clkStat 0 hi lo = rfld (loseLock s) .clkStat 0 hi lo :=
  (rfld_pllLockLoss h (by decide) hi lo).trans ((lockHalt_regsBut _).rfld (by decide) hi lo)

theorem pllLockLoss_portStops {s : State} (h : rfld s .clkStat 0 31 31 = 1) : rfld (pllLockLoss s) .netStat 0 31 31 = 0 := by
  rw [pllLockLoss_locked h]
  exact rfld_wfld_same _ _ _ _ (by decide)

/-! ### The obligation -/

/-- Settles O47: beats by whether one comes, the end of a training by what it gives, a loss of lock by the writes it makes. -/
theorem hingeAndLockLoss : Obligations.HingeAndLockLoss := by
  unfold Obligations.HingeAndLockLoss
  refine ⟨fun dir c ok s n hn => ⟨fun bar => ?noBeat, fun credits serving clock order turn => ?beat⟩,
    fun dir c s hm hc len => ?credit,
    fun o s => ⟨fun idle => congrArg Host.Outcome.next (hingeRetrainDone_of_idle idle o), fun hm hc => ?trained⟩,
    fun s => ⟨fun unlocked => congrArg Host.Outcome.next (pllLockLoss_unlocked unlocked), fun locked => ?lockLost⟩⟩
  case noBeat =>
    subst hn
    exact congrArg Host.Outcome.next (hingeBeatReceive_of_not_comes (beatComes_eq_false bar) ok)
  case beat =>
    subst hn
    have comes := beatComes_eq_true credits serving clock order turn
    refine ⟨?good, ?replayed, ?held⟩
    case good =>
      rintro rfl
      refine ⟨_, congrArg Host.Outcome.next (hingeBeatReceive_good comes), rfl, rfl, ?_, fun x hx => ?_, rfl⟩
      · rw [order]
        exact count_deliver_same s.hinge _
      · exact count_deliver_other s.hinge hx
    case replayed =>
      rintro rfl few
      exact congrArg Host.Outcome.next (hingeBeatReceive_replayed comes few)
    case held =>
      rintro rfl many
      exact ⟨_, congrArg Host.Outcome.next (hingeBeatReceive_held comes many), rfl, rfl, rfl⟩
  case credit =>
    have place : creditAt dir c < s.hinge.credits.length := len ▸ creditAt_lt dir c
    exact ⟨_, congrArg Host.Outcome.next (hingeCreditReturn_serving hm hc dir c), getD_modAt_same place _ _,
      fun j hj => getD_modAt_other hj _ _ _, rfl⟩
  case trained =>
    have change := hingeRetrainDone_change o s
    refine ⟨hingeRetrainDone o s, rfl, by rw [change], by rw [change], by rw [change], fun spared => ?full,
      fun faulty => ⟨fun half => ?half, fun none => ?down⟩⟩
    case full =>
      rw [hingeRetrainDone_full hm hc spared, hingeResumes_frame]
      exact ⟨rfl, rfl, rfl, rfl, rfl⟩
    case half =>
      rw [hingeRetrainDone_half hm hc faulty half, degraded_frame, hingeResumes_frame]
      exact ⟨rfl, rfl⟩
    case down =>
      rw [hingeRetrainDone_down hm hc faulty none]
      exact ⟨hingeDown_mode _, fun lid l hl hs => hingeDown_halts (s := lifeAdd s 24 36 4 1) hl hs⟩
  case lockLost =>
    have told := lockHalt_told (loseLock s)
    refine ⟨pllLockLoss s, rfl, ?lock, ?oscillator, ?event, pllLockLoss_portStops locked, ?rest⟩
    case lock => rw [pllLockLoss_clkStat locked, loseLock_lock]
    case oscillator => rw [pllLockLoss_clkStat locked, loseLock_oscillator]
    case event => rw [rfld_pllLockLoss locked (by decide), lockHalt_event]
    case rest =>
      rw [pllLockLoss_locked locked]
      refine ⟨rfl, ?_, ?_, fun lid l hl hs => lockHalt_halts (s := loseLock s) hl hs⟩
      · exact (congrArg State.mem told).trans rfl
      · exact (congrArg State.blocks told).trans rfl

end Sys2Proof.Machine
end

section
/-! SUPPORT. The checks of an integer partial are exact: a line of outputs passes where it sums to its ward value modulo 2^32 (R62,
R81, R84). -/

namespace Sys2Proof.Machine

theorem modAt_eq_modify {α : Type} (f : α → α) : ∀ (l : List α) (i : Nat), modAt l i f = l.modify i f
  | [], _ => by rw [modAt, List.modify_nil]
  | _ :: _, 0 => rfl
  | x :: l, i + 1 => by rw [modAt, modAt_eq_modify f l i, List.modify_succ_cons]

theorem getD_modAt {α : Type} (l : List α) (e : Nat) (f : α → α) (d : α) {p : Nat} (hp : p < l.length) :
    (modAt l e f).getD p d = if e = p then f (l.getD p d) else l.getD p d := by
  rw [modAt_eq_modify, List.getD_eq_getElem _ _ (by simpa using hp), List.getD_eq_getElem _ _ hp, List.getElem_modify]

/-! ### Lines of a part -/

/-- The `n` elements at the places `pos 0`, `pos 1`, … of a part: a row, or a column. -/
def lineAt (elts : List Word) (pos : Nat → Nat) (n : Nat) : List Word := (List.range n).map (fun k => elts.getD (pos k) 0)

theorem lineAt_length (elts : List Word) (pos : Nat → Nat) (n : Nat) : (lineAt elts pos n).length = n := by simp [lineAt]

theorem row_eq_lineAt {elts : List Word} {i nr nc : Nat} (hi : i < nr) (hl : elts.length = nr * nc) :
    (elts.drop (i * nc)).take nc = lineAt elts (fun k => i * nc + k) nc := by
  have fits : (i + 1) * nc ≤ nr * nc := Nat.mul_le_mul_right nc hi
  rw [Nat.succ_mul] at fits
  apply List.ext_getElem
  · simp only [List.length_take, List.length_drop, lineAt_length]
    omega
  · intro k hk _
    have inside : i * nc + k < elts.length := by
      simp only [List.length_take, List.length_drop] at hk
      omega
    simp [lineAt, List.getElem?_eq_getElem inside]

/-- A line without the changed place stays. -/
theorem lineAt_modAt_other {elts : List Word} {pos : Nat → Nat} {n : Nat} (hp : ∀ k < n, pos k < elts.length) {e : Nat}
    (he : ∀ k < n, e ≠ pos k) (f : Word → Word) : lineAt (modAt elts e f) pos n = lineAt elts pos n := by
  apply List.map_congr_left
  intro k hk
  have hk := List.mem_range.mp hk
  rw [getD_modAt elts e f 0 (hp k hk), if_neg (he k hk)]

/-- A line with the changed place, once, differs there only. -/
theorem lineAt_modAt_same {elts : List Word} {pos : Nat → Nat} {n : Nat} (hp : ∀ k < n, pos k < elts.length) {k : Nat}
    (once : ∀ i < n, pos k = pos i → k = i) (f : Word → Word) :
    lineAt (modAt elts (pos k) f) pos n = (lineAt elts pos n).set k (f (elts.getD (pos k) 0)) := by
  apply List.ext_getElem
  · simp [lineAt]
  · intro i hi _
    have hi : i < n := by simpa [lineAt] using hi
    rw [List.getElem_set]
    simp only [lineAt, List.getElem_map, List.getElem_range]
    rw [getD_modAt elts (pos k) f 0 (hp i hi)]
    by_cases h : k = i
    · rw [if_pos h, if_pos (congrArg pos h), h]
    · rw [if_neg h, if_neg fun same => h (once i hi same)]

/-- One changed summand changes a sum modulo 2^32. -/
theorem sum_set_ne {l : List Word} {k : Nat} (hk : k < l.length) {v : Word} (hv : v ≠ l[k]) : (l.set k v).sum ≠ l.sum := by
  rw [List.sum_set', dif_pos hk]
  intro same
  exact hv (neg_add_eq_zero.mp (add_eq_left.mp same)).symm

theorem sum_lineAt_upset {elts : List Word} {pos : Nat → Nat} {n k : Nat} (hp : ∀ k < n, pos k < elts.length) (hk : k < n)
    (once : ∀ i < n, pos k = pos i → k = i) {mask : Word} (hm : mask ≠ 0) :
    (lineAt (modAt elts (pos k) (· ^^^ mask)) pos n).sum ≠ (lineAt elts pos n).sum := by
  rw [lineAt_modAt_same hp once]
  refine sum_set_ne ((lineAt_length _ _ _).symm ▸ hk) fun same => hm ?_
  simpa [lineAt] using same

/-- The place of row `i` and column `k` lies in the part. -/
theorem place_lt {i k nr nc : Nat} (hi : i < nr) (hk : k < nc) : i * nc + k < nr * nc :=
  calc i * nc + k < (i + 1) * nc := by rw [Nat.succ_mul]; omega
    _ ≤ nr * nc := Nat.mul_le_mul_right _ hi

/-- A place names its row and its column. -/
theorem place_inj {i k i' k' nc : Nat} (hk : k < nc) (hk' : k' < nc) (h : i * nc + k = i' * nc + k') : i = i' ∧ k = k' := by
  have row {i k : Nat} (hk : k < nc) : (i * nc + k) / nc = i := by
    rw [Nat.mul_comm, Nat.mul_add_div (by omega), Nat.div_eq_of_lt hk, Nat.add_zero]
  have same : i = i' := by rw [← row (i := i) hk, h, row hk']
  subst same
  exact ⟨rfl, by omega⟩

/-! ### The checks -/

theorem wrap32_sum (l : List Word) : wrap32 (l.map sint).sum = l.sum := by
  induction l with
  | nil => rfl
  | cons x l ih =>
    rw [List.map_cons, List.sum_cons, List.sum_cons, ← ih]
    simp [wrap32, sint, BitVec.ofInt_add]

theorem lineTest_int (ftol : Nat) (w m : Word) (l : List Word) : lineTest .int ftol w m l = some (decide (w = l.sum)) := by
  rw [lineTest, wrap32_sum]

theorem lineTest_int_fails {ftol : Nat} {w m : Word} {l : List Word} : lineTest .int ftol w m l = some false ↔ w ≠ l.sum := by
  simp [lineTest_int]

/-- The lowest of `n` lines to fail. -/
theorem findIdx_fails {n i : Nat} {t : Nat → Option Bool} (hi : i < n) (fails : t i = some false)
    (passes : ∀ j < i, t j ≠ some false) : ((List.range n).map t).findIdx? (· == some false) = some i := by
  rw [List.findIdx?_eq_some_iff_getElem]
  exact ⟨by simpa using hi, by simp [fails], fun j hj => by simpa using passes j hj⟩

theorem passes_of_findIdx_none {n : Nat} {t : Nat → Option Bool}
    (h : ((List.range n).map t).findIdx? (· == some false) = none) {i : Nat} (hi : i < n) : t i ≠ some false := by
  rw [List.findIdx?_eq_none_iff] at h
  simpa using h (t i) (List.mem_map_of_mem (List.mem_range.mpr hi))

/-- The row that a part's checks name. -/
theorem partTest_row (ar : JobArith) (ftol : Nat) (g : PartGeom) (p : PartVal) : (partTest ar ftol g p).row =
    (((List.range g.nr).map (fun i => lineTest ar ftol (p.wc.getD i 0) (p.mc.getD i 0)
      ((p.elts.drop (i * g.nc)).take g.nc))).findIdx? (· == some false)).map (· + g.r0) := rfl

/-- The column that a part's checks name. -/
theorem partTest_col (ar : JobArith) (ftol : Nat) (g : PartGeom) (p : PartVal) : (partTest ar ftol g p).col =
    (((List.range g.nc).map (fun j => lineTest ar ftol (p.wr.getD j 0) (p.mr.getD j 0)
      (lineAt p.elts (fun i => i * g.nc + j) g.nr))).findIdx? (· == some false)).map (· + g.c0) := rfl

theorem failed_false_iff (w : WardResult) : w.failed = false ↔ w.row = none ∧ w.col = none ∧ w.corner = false := by
  simp [WardResult.failed, and_assoc]

section Integer

variable {ftol : Nat} {g : PartGeom} {p : PartVal} (hl : p.elts.length = g.nr * g.nc)
  (good : (partTest .int ftol g p).failed = false)
include hl good

/-- Each row of a part that passes sums to its ward value. -/
theorem row_sum_of_passes {i : Nat} (hi : i < g.nr) : p.wc.getD i 0 = (lineAt p.elts (fun k => i * g.nc + k) g.nc).sum := by
  obtain ⟨none, -, -⟩ := (failed_false_iff _).mp good
  rw [partTest_row, Option.map_eq_none_iff] at none
  have passes := passes_of_findIdx_none none hi
  rw [ne_eq, lineTest_int_fails, not_not, row_eq_lineAt hi hl] at passes
  exact passes

omit hl in
/-- Each column of a part that passes sums to its ward value. -/
theorem col_sum_of_passes {j : Nat} (hj : j < g.nc) : p.wr.getD j 0 = (lineAt p.elts (fun i => i * g.nc + j) g.nr).sum := by
  obtain ⟨-, none, -⟩ := (failed_false_iff _).mp good
  rw [partTest_col, Option.map_eq_none_iff] at none
  have passes := passes_of_findIdx_none none hj
  rwa [ne_eq, lineTest_int_fails, not_not] at passes

variable {r c : Nat} (hr : r < g.nr) (hc : c < g.nc) {mask : Word} (hm : mask ≠ 0)
include hr hc hm

/-- A changed element's row is the lowest that fails. -/
theorem partTest_upset_row :
    (partTest .int ftol g { p with elts := modAt p.elts (r * g.nc + c) (· ^^^ mask) }).row = some (g.r0 + r) := by
  have inside {i : Nat} (hi : i < g.nr) : ∀ k < g.nc, i * g.nc + k < p.elts.length := fun k hk => hl ▸ place_lt hi hk
  have long : (modAt p.elts (r * g.nc + c) (· ^^^ mask)).length = g.nr * g.nc := by simpa [modAt_eq_modify] using hl
  rw [partTest_row, findIdx_fails hr ?fails ?passes, Option.map_some, Nat.add_comm]
  case fails =>
    rw [lineTest_int_fails, row_eq_lineAt hr long, row_sum_of_passes hl good hr]
    exact (sum_lineAt_upset (pos := fun k => r * g.nc + k) (inside hr) hc (fun k hk same => (place_inj hc hk same).2) hm).symm
  case passes =>
    intro i hi
    have hi' : i < g.nr := by omega
    rw [ne_eq, lineTest_int_fails, not_not, row_eq_lineAt hi' long, row_sum_of_passes hl good hi',
      lineAt_modAt_other (inside hi') fun k hk same => hi.ne' (place_inj hc hk same).1]

/-- A changed element's column is the lowest that fails. -/
theorem partTest_upset_col :
    (partTest .int ftol g { p with elts := modAt p.elts (r * g.nc + c) (· ^^^ mask) }).col = some (g.c0 + c) := by
  have inside {j : Nat} (hj : j < g.nc) : ∀ i < g.nr, i * g.nc + j < p.elts.length := fun i hi => hl ▸ place_lt hi hj
  rw [partTest_col, findIdx_fails hc ?fails ?passes, Option.map_some, Nat.add_comm]
  case fails =>
    rw [lineTest_int_fails, col_sum_of_passes good hc]
    exact (sum_lineAt_upset (pos := fun i => i * g.nc + c) (inside hc) hr (fun i _ same => (place_inj hc hc same).1) hm).symm
  case passes =>
    intro j hj
    have hj' : j < g.nc := by omega
    rw [ne_eq, lineTest_int_fails, not_not, col_sum_of_passes good hj',
      lineAt_modAt_other (inside hj') fun i _ same => hj.ne' (place_inj hc hj' same).2]

end Integer

/-- Settles O18: the line sums modulo 2^32 of the element's row and column change, and no other line does. -/
theorem integerUpsetIsDetected : Obligations.IntegerUpsetIsDetected := by
  unfold Obligations.IntegerUpsetIsDetected
  intro ftol g p e mask hl he hm good
  have cols : 0 < g.nc := Nat.pos_of_mul_pos_left (Nat.zero_lt_of_lt he)
  have hr : e / g.nc < g.nr := Nat.div_lt_of_lt_mul (by rwa [Nat.mul_comm])
  have hc : e % g.nc < g.nc := Nat.mod_lt e cols
  have place : e / g.nc * g.nc + e % g.nc = e := Nat.div_add_mod' e g.nc
  have row := partTest_upset_row hl good hr hc hm
  have col := partTest_upset_col hl good hr hc hm
  rw [place] at row col
  exact ⟨by simp [WardResult.failed, row], row, col⟩

end Sys2Proof.Machine
end

section
/-! SUPPORT. A change of one block, the instruction at the front of a unit's queue, and the sync instructions (R96, R98, R225, R226,
R748). -/

namespace Sys2Proof.Machine

/-! ### A change of one block -/

theorem modBlk_same (s : State) (b : Fin 48) (f : Block → Block) : (modBlk s b f).blocks[b] = f s.blocks[b] := by simp

theorem modBlk_onlyBlock (s : State) (b : Fin 48) (f : Block → Block) : OnlyBlock b s (modBlk s b f) := by
  intro c hc
  simp [Fin.val_ne_of_ne hc.symm]

theorem OnlyBlock.trans {b : Fin 48} {s t u : State} (h : OnlyBlock b s t) (k : OnlyBlock b t u) : OnlyBlock b s u :=
  fun c hc => (k c hc).trans (h c hc)

theorem OnlyBlock.congr {b : Fin 48} {s s' t t' : State} (h : OnlyBlock b s t) (hs : s'.blocks = s.blocks)
    (ht : t'.blocks = t.blocks) : OnlyBlock b s' t' := by
  unfold OnlyBlock
  rw [hs, ht]
  exact h

theorem modBlk_congr {s : State} {b : Fin 48} {f g : Block → Block} (h : f s.blocks[b] = g s.blocks[b]) :
    modBlk s b f = modBlk s b g := by
  unfold modBlk
  rw [h]

theorem modBlk_modBlk (s : State) (b : Fin 48) (f g : Block → Block) :
    modBlk (modBlk s b f) b g = modBlk s b (fun k => g (f k)) := by
  simp [modBlk]

theorem retire_onlyBlock (s : State) (b : Fin 48) (u : BUnit) : OnlyBlock b s (retire s b u) := modBlk_onlyBlock s b _

/-- A command that only changes one block: what it makes of the block, and its frame. -/
theorem next_modBlk {o : Host.Outcome State Fault Refusal} {s : State} {b : Fin 48} {f : Block → Block} {k : Block}
    (h : o = .next (modBlk s b f)) (hk : f s.blocks[b] = k) :
    ∃ t, o = .next t ∧ t.blocks[b] = k ∧ OnlyBlock b s t ∧ t = { s with blocks := t.blocks } :=
  ⟨_, h, (modBlk_same s b f).trans hk, modBlk_onlyBlock s b f, rfl⟩

/-! ### The launch of a block -/

/-- The launch that a block works for, by its LID. -/
theorem launch_of_bind {s : State} {b : Fin 48} {l : Launch} (h : s.blocks[b].lid.bind (findLaunch s) = some l) :
    s.blocks[b].lid = some l.lid ∧ findLaunch s l.lid = some l := by
  obtain ⟨lid, hb, found⟩ := Option.bind_eq_some_iff.mp h
  have named : l.lid = lid := by simpa using List.find?_some found
  rw [named]
  exact ⟨hb, found⟩

/-! ### The front of a unit's queue -/

section Front

variable {s : State} {b : Fin 48} {op : Nat} {e : UEntry} {l : Launch} (h : front s b op = some (e, l))
include h

/-- What `front` found: the oldest entry of the unit's queue, of this opcode and not begun. -/
theorem front_some : ∃ u q, unitOf op = some u ∧ s.blocks[b].lid.bind (findLaunch s) = some l ∧
    s.blocks[b].queue u = e :: q ∧ opOf e.word = op := by
  unfold front at h
  dsimp only at h
  split at h
  · next u l' hu hl =>
    split at h
    · next e' q hq =>
      split at h
      · next may =>
        obtain ⟨rfl, rfl⟩ := Prod.mk.inj (Option.some.inj h)
        exact ⟨u, q, hu, hl, hq, may.1⟩
      · cases h
    · cases h
  · cases h

theorem front_launch : s.blocks[b].lid.bind (findLaunch s) = some l := by
  obtain ⟨_, _, _, found, _⟩ := front_some h
  exact found

theorem front_op : opOf e.word = op := by
  obtain ⟨_, _, _, _, _, same⟩ := front_some h
  exact same

theorem front_queue {u : BUnit} (hu : unitOf op = some u) : ∃ q, s.blocks[b].queue u = e :: q := by
  obtain ⟨u', q, hu', _, oldest, _⟩ := front_some h
  obtain rfl := Option.some.inj (hu.symm.trans hu')
  exact ⟨q, oldest⟩

/-- The oldest entry is marked as begun. -/
theorem begin_of_front {u : BUnit} (hu : unitOf op = some u) : begin_ s b u =
    modBlk s b (fun k => k.setQueue u ({ e with begun := true } :: (k.queue u).drop 1)) := by
  obtain ⟨q, oldest⟩ := front_queue h hu
  exact modBlk_congr (by rw [oldest]; rfl)

end Front

/-! ### The sync unit -/

section Sync

variable {s : State} {b : Fin 48} {e : UEntry} {l : Launch}

theorem exec_syn (h : front s b opSYN = some (e, l)) : exec (.syn b) s = .next (modBlk s b (fun k => { k with
    syncQ := { e with begun := true } :: k.syncQ.drop 1, wait := some (.barrier (Config.synBarrier e.word) false) })) := by
  simp only [exec, execSyn, h]
  rw [begin_of_front h rfl, modBlk_modBlk]
  rfl

theorem exec_sfl (h : front s b opSFL = some (e, l)) : exec (.sfl b) s = .next (retire (askFlag s (.blk b) l.lid e.idx
    (Fin.ofNat 8 (fld e.word 2 1)) (Fin.ofNat 64 (fld e.word 3 1)) (fld e.word 4 4)) b .sync) := by
  simp only [exec, execSfl, h]

/-- A WFL whose flag has reached its target retires. -/
theorem exec_wfl_reached (h : front s b opWFL = some (e, l))
    (ht : fld e.word 4 4 ≤ flagVal s (rgnOf b) (Fin.ofNat 64 (fld e.word 3 1))) :
    exec (.wfl b) s = .next (retire s b .sync) := by
  simp only [exec, execWfl, h]
  rw [if_pos ht]

theorem exec_wfl_waits (h : front s b opWFL = some (e, l))
    (ht : ¬ fld e.word 4 4 ≤ flagVal s (rgnOf b) (Fin.ofNat 64 (fld e.word 3 1))) :
    exec (.wfl b) s = .next (modBlk s b (fun k => { k with
      syncQ := { e with begun := true } :: k.syncQ.drop 1
      wait := some (.flag (rgnOf b) (Fin.ofNat 64 (fld e.word 3 1)) (fld e.word 4 4) e.since) })) := by
  simp only [exec, execWfl, h]
  rw [if_neg ht, begin_of_front h rfl, modBlk_modBlk]
  rfl

theorem exec_fin (h : front s b opFIN = some (e, l)) : exec (.fin b) s = .next (modBlk s b (fun k => { k with
    syncQ := k.syncQ.drop 1, finished := true, iq := [] })) := by
  simp only [exec, execFin, h]
  rw [retire, modBlk_modBlk]
  rfl

end Sync

/-- Settles O11: each sync instruction is one change of its block. -/
theorem syncInstructionsBegin : Obligations.SyncInstructionsBegin := by
  unfold Obligations.SyncInstructionsBegin
  refine ⟨fun b s e l h => next_modBlk (exec_syn h) rfl, fun b s e l h => ?sfl, fun b s e l h => ?wfl,
    fun b s e l h => next_modBlk (exec_fin h) rfl⟩
  case sfl =>
    refine ⟨_, exec_sfl h, rfl, modBlk_same _ b _, ?_, rfl⟩
    exact (retire_onlyBlock (askFlag s _ _ _ _ _ _) b .sync).congr rfl rfl
  case wfl =>
    split
    · next reached => exact next_modBlk (exec_wfl_reached h reached) rfl
    · next below => exact next_modBlk (exec_wfl_waits h below) rfl

end Sys2Proof.Machine
end

section
/-! SUPPORT. How an array instruction starts, and what its tree slots hold from then on (R58, R66, R69, R78-R80, R111, R213,
R220). -/

namespace Sys2Proof.Machine

/-! ### Tree slots -/

/-- What an unlisted key reads as matters at the key only. -/
theorem sget_default_congr {w : Nat} {d d' : Nat → BitVec w} {k : Nat} (h : d k = d' k) (m : Store w) :
    sget d m k = sget d' m k := by
  unfold sget
  rw [h]

/-- A block with the words of one slot free, the first of number `n` (log 122). -/
def freeSlot (k : Block) (slot n : Nat) : Block := { dropSlot k slot with slotJunk := (slot, n) :: (dropSlot k slot).slotJunk }

theorem junkSlot_eq (s : State) (b : Fin 48) (slot : Nat) : junkSlot s b slot =
    { modBlk s b (fun k => freeSlot k slot s.freeCtr) with freeCtr := s.freeCtr + 16384 } := rfl

/-- The other slots read as before. -/
theorem accAt_freeSlot_other (k : Block) {slot key : Nat} (h : slotOfKey key ≠ slot) (n : Nat) :
    (freeSlot k slot n).accAt key = k.accAt key := by
  have words : (freeSlot k slot n).accD key = k.accD key := by
    have found : (k.slotJunk.filter (fun x => x.1 ≠ slot)).find? (fun x => x.1 = slotOfKey key) =
        k.slotJunk.find? (fun x => x.1 = slotOfKey key) := by
      rw [List.find?_filter]
      congr 1
      funext x
      by_cases hx : x.1 = slotOfKey key <;> simp [hx, h]
    unfold Block.accD
    dsimp only [freeSlot, dropSlot]
    rw [List.find?_cons_of_neg (by simpa using h.symm), found]
  exact (sget_default_congr words _).trans (sget_filter _ key (fun a => decide (slotOfKey a ≠ slot)) (by simpa using h) k.acc)

/-- A change of a block's accumulator memory in some slots only, drawing free words. -/
def SlotChange (b : Fin 48) (slots : List Nat) (s t : State) : Prop :=
  t = { s with blocks := t.blocks, freeCtr := t.freeCtr } ∧ OnlyBlock b s t ∧
  t.blocks[b] = { s.blocks[b] with acc := t.blocks[b].acc, slotJunk := t.blocks[b].slotJunk } ∧
  ∀ k, slotOfKey k ∉ slots → t.blocks[b].accAt k = s.blocks[b].accAt k

theorem SlotChange.refl (b : Fin 48) (s : State) : SlotChange b [] s s := ⟨rfl, fun _ _ => rfl, rfl, fun _ _ => rfl⟩

theorem SlotChange.cons {b : Fin 48} {x : Nat} {xs : List Nat} {s t u : State} (h : SlotChange b [x] s t)
    (k : SlotChange b xs t u) : SlotChange b (x :: xs) s u := by
  obtain ⟨frame, only, block, kept⟩ := h
  obtain ⟨frame', only', block', kept'⟩ := k
  refine ⟨by rw [frame', frame], only.trans only', by rw [block', block], fun key out => ?_⟩
  rw [List.mem_cons, not_or] at out
  exact (kept' key out.2).trans (kept key (by simpa using out.1))

theorem junkSlot_change (s : State) (b : Fin 48) (slot : Nat) : SlotChange b [slot] s (junkSlot s b slot) := by
  have block := modBlk_same s b (fun k => freeSlot k slot s.freeCtr)
  have only := modBlk_onlyBlock s b (fun k => freeSlot k slot s.freeCtr)
  rw [junkSlot_eq]
  refine ⟨rfl, only.congr rfl rfl, ?_, fun key out => ?_⟩
  · dsimp only
    rw [block]
    rfl
  · dsimp only
    rw [block]
    exact accAt_freeSlot_other _ (by simpa using out) _

theorem junkTree_change (s : State) (b : Fin 48) (d : BitVec 512) : SlotChange b (treeSlots d) s (junkTree s b d) := by
  unfold junkTree
  induction treeSlots d generalizing s with
  | nil => exact SlotChange.refl b s
  | cons x xs ih => exact (junkSlot_change s b x).cons (ih _)

/-! ### The start -/

/-- The matrix and convolution forms: opcode and command (R58, R78-R80, R214, R220). -/
def arrayForms : List (Nat × (Fin 48 → Upset → Instr)) :=
  [(opMMF, Instr.mmf), (opMMH, Instr.mmh), (opMMQ, Instr.mmq), (opMMV, Instr.mmv), (opCVI, Instr.cvi), (opCVD, Instr.cvd)]

theorem arrayForms_unit : ∀ p ∈ arrayForms, unitOf p.1 = some .array ∧ isAttnOp p.1 = false ∧ isArrayOp p.1 = true := by
  simp [arrayForms, unitOf, isAttnOp, isArrayOp, opMMF, opMMH, opMMQ, opMMV, opCVI, opCVD, opLDT, opATS, opATV]

theorem exec_arrayForm {p : Nat × (Fin 48 → Upset → Instr)} (hp : p ∈ arrayForms) (b : Fin 48) (u : Upset) (s : State) :
    exec (p.2 b u) s = .next (startArray p.1 b u s) := by
  simp only [arrayForms, List.mem_cons, List.not_mem_nil, or_false] at hp
  obtain rfl | rfl | rfl | rfl | rfl | rfl := hp <;> rfl

section Start

variable {op : Nat} {b : Fin 48} {s : State} {e : UEntry} {l : Launch} (h : front s b op = some (e, l))
  (free : s.blocks[b].job = none) (idle : pendingG s (.blk b) = false)
  (reads : readsWait s b l (fedTouches s b l e.word) = false)
include h free idle reads

/-- The array takes the instruction up, with operands that are not empty and no bad burst. -/
theorem startArray_takes (hm : (extents s b l e.word).1 ≠ 0) (hn : (extents s b l e.word).2.1 ≠ 0)
    (hk : (extents s b l e.word).2.2 ≠ 0) (good : badRead s l (fedTouches s b l e.word) = none) :
    startArray op b .none s = modBlk (junkTree (begin_ s b .array) b e.word) b
      (fun k => { k with job := some (mkJob s b l e), inject := false }) := by
  unfold startArray
  rw [h]
  dsimp only
  rw [if_neg (by rw [free, reads]; simp), configApply_idle _ _ idle]
  dsimp only [withUpset]
  rw [if_neg (by simp [hm, hn, hk]), good]

end Start

theorem mkJob_fin {s : State} {b : Fin 48} {l : Launch} {e : UEntry} (h : isAttnOp (opOf e.word) = false) :
    (mkJob s b l e).fin = .slot := by
  simp only [isAttnOp, Bool.or_eq_false_iff, decide_eq_false_iff_not] at h
  obtain ⟨ats, atv⟩ := h
  unfold mkJob
  dsimp only
  rw [if_neg ats, if_neg atv]

/-- What a start leaves of the block and of everything else. -/
theorem startArray_block {s : State} {b : Fin 48} {e : UEntry} {l : Launch} {op : Nat} (h : front s b op = some (e, l))
    (hu : unitOf op = some .array) (j : ArrayJob) {t : State}
    (ht : t = modBlk (junkTree (begin_ s b .array) b e.word) b (fun k => { k with job := some j, inject := false })) :
    t.blocks[b] = { s.blocks[b] with
        arrayQ := { e with begun := true } :: s.blocks[b].arrayQ.drop 1, job := some j, inject := false,
        acc := t.blocks[b].acc, slotJunk := t.blocks[b].slotJunk } ∧
      (∀ k, slotOfKey k ∉ treeSlots e.word → t.blocks[b].accAt k = s.blocks[b].accAt k) ∧
      OnlyBlock b s t ∧ t = { s with blocks := t.blocks, freeCtr := t.freeCtr } := by
  have begun : (begin_ s b .array).blocks[b] =
      { s.blocks[b] with arrayQ := { e with begun := true } :: s.blocks[b].arrayQ.drop 1 } := by
    rw [begin_of_front h hu]
    exact modBlk_same s b _
  obtain ⟨frame, only, block, kept⟩ := junkTree_change (begin_ s b .array) b e.word
  subst ht
  generalize junkTree (begin_ s b .array) b e.word = u at *
  have new := modBlk_same u b (fun k => { k with job := some j, inject := false })
  refine ⟨?block, fun k out => ?acc, ?only, ?frame⟩
  case block =>
    rw [new, block, begun]
  case acc =>
    rw [new]
    refine (kept k out).trans ?_
    rw [begun]
    rfl
  case only => exact ((modBlk_onlyBlock s b _).trans only).trans (modBlk_onlyBlock u b _)
  case frame =>
    rw [show modBlk u b _ = { u with blocks := (modBlk u b _).blocks } from rfl, frame]
    rfl

/-- Settles O4: the job is `mkJob`'s, and starting it touches the block and the count of free values only. -/
theorem arrayFormsStart : Obligations.ArrayFormsStart := by
  unfold Obligations.ArrayFormsStart
  intro p hp b s e l h free idle hm hn hk reads good
  obtain ⟨hu, attn, -⟩ := arrayForms_unit p hp
  have op := front_op h
  obtain ⟨block, kept, only, frame⟩ := startArray_block h hu (mkJob s b l e) rfl
  refine ⟨_, mkJob s b l e, ?_, by rw [block], rfl, rfl, rfl, congrArg geomOf op, rfl, mkJob_fin (op ▸ attn),
    rfl, rfl, rfl, rfl, rfl, rfl, rfl, rfl, rfl, rfl, block, kept, only, frame⟩
  rw [exec_arrayForm hp, startArray_takes h free idle reads hm hn hk good]

end Sys2Proof.Machine
end

section
/-! SUPPORT. Chunks, pair partials and the replay of a failed pair (R66-R68, R88), and the injected failure (R102). -/

namespace Sys2Proof.Machine

/-- The job once its next chunk has completed with partial `x` (R67, R68). -/
def ArrayJob.fed (j : ArrayJob) (x : List PartVal) : ArrayJob :=
  match j.held with
  | some h => { j with
      held := none, chunk := j.chunk + 1, tail := false, pairs := j.pairs ++ [(j.chunk / 2, pairVals j.arith h x)] }
  | none =>
    if j.chunk + 1 = j.chunks then { j with chunk := j.chunk + 1, tail := false, pairs := j.pairs ++ [(j.chunk / 2, x)] }
    else { j with chunk := j.chunk + 1, tail := false, held := some x }

theorem ArrayJob.fed_tail (j : ArrayJob) (x : List PartVal) : (j.fed x).tail = false := by
  unfold ArrayJob.fed
  split
  · rfl
  · split <;> rfl

section Chunk

variable {b : Fin 48} {s : State} {j : ArrayJob} (hj : s.blocks[b].job = some j)
include hj

theorem chunkComplete_feeds (going : stalled s = false) (free : j.held88 = false) (run : j.running = true) : chunkComplete b s =
    modBlk s b (fun k => { k with job := some (j.fed (partialOf s.blocks[b] j j.chunk)) }) := by
  unfold chunkComplete
  dsimp only
  rw [hj]
  dsimp only
  rw [if_neg (by simp [going, free, run])]
  unfold ArrayJob.fed
  cases j.held with
  | some h => rfl
  | none =>
    by_cases last : j.chunk + 1 = j.chunks
    · simp only [last, if_true]
    · simp only [last, if_false]

theorem chunkComplete_holds (stop : j.held88 = true ∨ j.running = false) : chunkComplete b s = s := by
  unfold chunkComplete
  dsimp only
  rw [hj]
  dsimp only
  rw [if_pos ?_]
  obtain held | idle := stop
  · exact .inl held
  · exact .inr (.inl (by simp [idle]))

/-- With no chunk in progress the failed pair is computed again. -/
theorem wardReplay_computes {q : Nat} {v : List PartVal} {rest : List (Nat × List PartVal)} (rep : j.replay = true)
    (going : stalled s = false) (hp : j.pairs = (q, v) :: rest) (done : j.tail = false) : wardReplay b s =
    modBlk s b (fun k => { k with job := some { j with replay := false, pairs := (q, pairOf s.blocks[b] j q) :: rest } }) := by
  unfold wardReplay
  dsimp only
  rw [if_neg (by rw [hj]; simp [done]), hj]
  dsimp only
  rw [rep, going, hp]
  rfl

end Chunk

/-- A replay with the chunk in progress not complete is that chunk's completion and then the replay. -/
theorem wardReplay_of_tail {b : Fin 48} {s : State} {j : ArrayJob} (hj : s.blocks[b].job = some j) (rep : j.replay = true)
    (going : stalled s = false) (open_ : j.tail = true) : wardReplay b s = wardReplay b (chunkComplete b s) := by
  have free : j.held88 = false := by simp [ArrayJob.held88, open_]
  cases run : j.running
  · rw [chunkComplete_holds hj (.inr run)]
  · have fed := chunkComplete_feeds hj going free run
    have after : (chunkComplete b s).blocks[b].job = some (j.fed (partialOf s.blocks[b] j j.chunk)) := by
      rw [fed, modBlk_same]
    unfold wardReplay
    dsimp only
    rw [if_pos (by rw [hj]; simp [rep, open_]), if_neg (by rw [after]; simp [ArrayJob.fed_tail])]

/-- Settles O14: `ArrayJob.fed` says what a completed chunk makes of the job, by the three cases of R67 and R68. -/
theorem chunksPairUpThenDrain : Obligations.ChunksPairUpThenDrain := by
  unfold Obligations.ChunksPairUpThenDrain
  refine ⟨fun b s j hj going free run => ?feed, fun b s j hj held => congrArg _ (chunkComplete_holds hj (.inl held)),
    fun b s j q v rest hj rep going hp => ⟨fun done => ?again, fun open_ u hu => ?tail⟩⟩
  case feed =>
    have fed := chunkComplete_feeds hj going free run
    obtain ⟨t, ht, block, only, frame⟩ := next_modBlk (congrArg Host.Outcome.next fed) rfl
    have job : t.blocks[b].job = some (j.fed (partialOf s.blocks[b] j j.chunk)) := by rw [block]
    refine ⟨t, ht, fun x hx => ?_, fun none last => ?_, fun none more => ?_, by rw [block], only, frame⟩
    · rw [job, ArrayJob.fed, hx]
    · rw [job, ArrayJob.fed, none]
      simp only [last, if_true]
    · rw [job, ArrayJob.fed, none]
      simp only [more, if_false]
  case again => exact next_modBlk (congrArg Host.Outcome.next (wardReplay_computes hj rep going hp done)) rfl
  case tail =>
    obtain rfl := Host.Outcome.next.inj hu
    exact congrArg Host.Outcome.next (wardReplay_of_tail hj rep going open_)

end Sys2Proof.Machine
end

section
/-! SUPPORT. A block that stops for a fault (R99, R125, R758). -/

namespace Sys2Proof.Machine

/-- Two registers of the map have no address in common. -/
theorem regAddr_ne {r q : Reg} (h : r ≠ q) {i j : Nat} (hi : i < regCount r) (hj : j < regCount q) : regAddr r i ≠ regAddr q j :=
  fun same => h (regAddr_inj hi hj same).1

/-- A register of the map that no event touches. -/
theorem regAddr_not_mem_eventAddrs {r : Reg} {i : Nat} (hi : i < regCount r) (hlt : r ≠ .hltEvt) (lat : r ≠ .latStat) :
    regAddr r i ∉ eventAddrs := by
  intro h
  simp only [eventAddrs, List.mem_cons, List.not_mem_nil, or_false] at h
  obtain same | same := h
  · exact regAddr_ne hlt hi (by decide) same
  · exact regAddr_ne lat hi (by decide) same

theorem stopBlk_block (s : State) (b : Fin 48) : (stopBlk s b).blocks[b] = { s.blocks[b] with
    stopped := true, iq := [], loadQ := s.blocks[b].loadQ.filter (·.begun), arrayQ := s.blocks[b].arrayQ.filter (·.begun),
    drainQ := s.blocks[b].drainQ.filter (·.begun), syncQ := s.blocks[b].syncQ.filter (·.begun) } :=
  modBlk_same s b _

section BlkHalt

variable (s : State) (b : Fin 48) (code idx r : Nat) (more : List Byte)

/-- A fault of a block stops its sequencer and halts its launch; beyond that it tells. -/
theorem blkHalt_told : Told (stopBlk s b) (blkHalt s b code idx r more) := by
  unfold blkHalt
  split
  · exact rfl
  · exact haltLaunch_told _ _ _ _

theorem blkHalt_blocks : (blkHalt s b code idx r more).blocks = (stopBlk s b).blocks := by rw [blkHalt_told]

theorem blkHalt_block : (blkHalt s b code idx r more).blocks[b] = { s.blocks[b] with
    stopped := true, iq := [], loadQ := s.blocks[b].loadQ.filter (·.begun), arrayQ := s.blocks[b].arrayQ.filter (·.begun),
    drainQ := s.blocks[b].drainQ.filter (·.begun), syncQ := s.blocks[b].syncQ.filter (·.begun) } := by
  rw [blkHalt_told]
  exact stopBlk_block s b

theorem blkHalt_onlyBlock : OnlyBlock b s (blkHalt s b code idx r more) :=
  (stopBlk_onlyBlock s b).congr rfl (blkHalt_blocks s b code idx r more)

theorem blkHalt_regions : (blkHalt s b code idx r more).regions = s.regions := by rw [blkHalt_told]; rfl

theorem blkHalt_regsBut : RegsBut eventAddrs s (blkHalt s b code idx r more) := by
  unfold blkHalt
  split
  · exact (RegsBut.refl eventAddrs s).congr rfl rfl
  · exact (haltLaunch_regsBut (stopBlk s b) _ _ _).congr rfl rfl

variable {s b}

/-- A running launch halts with the fault of its block. -/
theorem standsHalted_blkHalt {l : Launch} (hl : s.blocks[b].lid.bind (findLaunch s) = some l) (hr : l.st = .running) :
    StandsHalted (blkHalt s b code idx r more) l.lid code := by
  obtain ⟨hb, found⟩ := launch_of_bind hl
  unfold blkHalt
  rw [hb]
  exact standsHalted_haltLaunch (s := stopBlk s b) found (haltable_of_running hr) code _

end BlkHalt

end Sys2Proof.Machine
end

section
/-! SUPPORT. LINE_FETCH and INSTRUCTION_DISPATCH (R94, R95, R97, R99, R125, R746). -/

namespace Sys2Proof.Machine

theorem blkRunning_some {s : State} {b : Fin 48} {l : Launch} (h : blkRunning s b = some l) :
    s.blocks[b].lid.bind (findLaunch s) = some l ∧ l.st = .running := by
  unfold blkRunning at h
  dsimp only at h
  split at h
  · cases h
  · obtain ⟨found, running⟩ := Option.filter_eq_some_iff.mp h
    exact ⟨found, by simpa using running⟩

/-! ### Fetch -/

theorem upsetSpoils_none (e : IqEntry) : upsetSpoils .none e = e := rfl

section Fetch

variable {s : State} {b : Fin 48} {l : Launch}

theorem exec_lineFetch (run : blkRunning s b = some l) (room : s.blocks[b].iq.length ≤ 16)
    (clear : fetchWaits s b l s.blocks[b].nextFetch = false) : exec (.lineFetch b .none) s =
    .next (modBlk (fetchLog s b l s.blocks[b].nextFetch) b (fun k => { k with
      iq := k.iq ++ fetchLine s b l s.blocks[b].nextFetch
      nextFetch := s.blocks[b].nextFetch + (16 - s.blocks[b].nextFetch % 16) })) := by
  have same : (fetchLine s b l s.blocks[b].nextFetch).map (upsetSpoils .none) = fetchLine s b l s.blocks[b].nextFetch :=
    List.map_id'' upsetSpoils_none _
  unfold exec execLineFetch
  simp only [run]
  rw [if_neg (by rw [clear]; simp only [Bool.false_eq_true, or_false]; omega)]
  dsimp only [withUpset, upsetCounted]
  rw [same]

/-- A bad burst is counted and logged; no launch halts. -/
theorem fetchLog_frame (s : State) (b : Fin 48) (l : Launch) (i : Nat) :
    ∃ r x, fetchLog s b l i = { s with regs := r, hlt := x } := by
  unfold fetchLog
  dsimp only
  split
  · exact logMem_frame s _ _
  · exact ⟨s.regs, s.hlt, rfl⟩

theorem fetchLog_good {i : Nat}
    (h : (progRef l b).sp ≠ .mem ∨ firstBad s ((progRef l b).addr + 1024 * (i / 16)) 1024 l.job = none) :
    fetchLog s b l i = s := by
  unfold fetchLog
  dsimp only
  obtain other | good := h
  · rw [if_neg other]
  · rw [good, ite_self]

end Fetch

/-! ### Dispatch -/

theorem queue_setQueue_same (k : Block) (u : BUnit) (q : List UEntry) : (k.setQueue u q).queue u = q := by cases u <;> rfl

theorem queue_setQueue_other (k : Block) {u v : BUnit} (h : v ≠ u) (q : List UEntry) :
    (k.setQueue u q).queue v = k.queue v := by
  revert h
  cases u <;> cases v <;> simp [Block.setQueue, Block.queue]

/-- A queue that is set leaves the rest of the block. -/
theorem setQueue_frame (k : Block) (u : BUnit) (q : List UEntry) : k.setQueue u q = { k with
    loadQ := (k.setQueue u q).loadQ, arrayQ := (k.setQueue u q).arrayQ, drainQ := (k.setQueue u q).drainQ,
    syncQ := (k.setQueue u q).syncQ } := by
  cases u <;> rfl

section Dispatch

variable {b : Fin 48} {s0 s : State} {l : Launch} {e : IqEntry} {es : List IqEntry} (hs : s = configApply (.blk b) s0)
  (run : blkRunning s b = some l) (hq : s.blocks[b].iq = e :: es) (good : e.err = .ok) (free : stallOf s b l = none)
include hs run hq good free

theorem dispatch_enqueues {u : BUnit} (pass : issueCheck s b l e.word = .ok ∨ issueCheck s b l e.word = .noop)
    (hu : unitOf (opOf e.word) = some u) : dispatch b s0 = enqueue s b l e u := by
  unfold dispatch
  rw [← hs]
  simp only [run, hq, good, free]
  obtain pass | pass := pass <;> simp only [pass, hu] <;> rfl

theorem dispatch_faults {c off aux : Nat} (fail : issueCheck s b l e.word = .fault c off aux) :
    dispatch b s0 = tileFault s b c off aux e.idx := by
  unfold dispatch
  rw [← hs]
  simp only [run, hq, good, free, fail]
  rfl

end Dispatch

/-- A block with its oldest instruction in its unit's queue. -/
def moveOldest (l : Launch) (e : IqEntry) (u : BUnit) (k : Block) : Block :=
  ({ k with iq := k.iq.drop 1 } : Block).setQueue u (k.queue u ++ [UEntry.mk e.idx e.word false l.ran])

theorem enqueue_eq (s : State) (b : Fin 48) (l : Launch) (e : IqEntry) (u : BUnit) :
    enqueue s b l e u = wreg (modBlk s b (moveOldest l e u)) .blkPc b.val (BitVec.ofNat 32 (e.idx + 1)) := rfl

theorem moveOldest_facts (l : Launch) (e : IqEntry) (u : BUnit) (k : Block) :
    (moveOldest l e u k).iq = k.iq.drop 1 ∧
    (moveOldest l e u k).queue u = k.queue u ++ [UEntry.mk e.idx e.word false l.ran] ∧
    (∀ v, v ≠ u → (moveOldest l e u k).queue v = k.queue v) ∧
    (moveOldest l e u k).acc = k.acc ∧ (moveOldest l e u k).scratch = k.scratch ∧ (moveOldest l e u k).job = k.job := by
  unfold moveOldest
  refine ⟨?_, queue_setQueue_same _ u _, fun v hv => (queue_setQueue_other _ hv _).trans ?_, ?_, ?_, ?_⟩
  case refine_2 => cases v <;> rfl
  all_goals rw [setQueue_frame]

/-! ### A fault at issue -/

theorem rreg_recordTfault_tfpc (s : State) (b : Fin 48) (code off aux idx : Nat) :
    rreg (recordTfault s b code off aux idx) .blkTfpc b.val = BitVec.ofNat 32 idx :=
  rreg_wreg_same _ _ _ _

/-- BLKn_TFAULT reads VALID, CODE, OFFSET and AUX (Table 3.12). -/
theorem rreg_recordTfault_tfault (s : State) (b : Fin 48) (code off aux idx : Nat) :
    getF (rreg (recordTfault s b code off aux idx) .blkTfault b.val) 31 31 = 1 ∧
    getF (rreg (recordTfault s b code off aux idx) .blkTfault b.val) 23 16 = code % 256 ∧
    getF (rreg (recordTfault s b code off aux idx) .blkTfault b.val) 15 8 = off % 256 ∧
    getF (rreg (recordTfault s b code off aux idx) .blkTfault b.val) 7 0 = aux % 256 := by
  have apart : regAddr .blkTfault b.val ≠ regAddr .blkTfpc b.val :=
    regAddr_ne (r := .blkTfault) (q := .blkTfpc) nofun b.isLt b.isLt
  unfold recordTfault
  dsimp only
  rw [rreg_wreg_other _ _ _ _ _ _ apart, rreg_wreg_same]
  refine ⟨?_, ?_, ?_, getF_setF_same _ aux (by decide)⟩
  · rw [getF_setF_other _ _ (by decide) (by decide), getF_setF_other _ _ (by decide) (by decide),
      getF_setF_other _ _ (by decide) (by decide)]
    exact getF_setF_same _ 1 (by decide)
  · rw [getF_setF_other _ _ (by decide) (by decide), getF_setF_other _ _ (by decide) (by decide)]
    exact getF_setF_same _ code (by decide)
  · rw [getF_setF_other _ _ (by decide) (by decide)]
    exact getF_setF_same _ off (by decide)

/-- Settles O13: the fault is recorded, and then the block halts its launch, which leaves the record alone. -/
theorem issueFaultStopsAndHalts : Obligations.IssueFaultStopsAndHalts := by
  unfold Obligations.IssueFaultStopsAndHalts
  intro b s0 s l e es c off aux hs run hq good free fail
  obtain ⟨hl, running⟩ := blkRunning_some run
  have fault := dispatch_faults hs run hq good free fail
  obtain ⟨valid, code, offset, more⟩ := rreg_recordTfault_tfault s b c off aux e.idx
  have pc := rreg_recordTfault_tfpc s b c off aux e.idx
  have bound : (recordTfault s b c off aux e.idx).blocks[b].lid.bind (findLaunch (recordTfault s b c off aux e.idx)) =
      some l := hl
  have only : OnlyBlock b s (recordTfault s b c off aux e.idx) := fun _ _ => rfl
  have block : (recordTfault s b c off aux e.idx).blocks[b] = s.blocks[b] := rfl
  have mem : (recordTfault s b c off aux e.idx).mem = s.mem := rfl
  refine ⟨_, congrArg Host.Outcome.next fault, ?_⟩
  unfold tileFault
  generalize recordTfault s b c off aux e.idx = u at *
  dsimp only
  have told := blkHalt_regsBut u b (0x3100 + c) e.idx (rreg u .blkTfault b.val).toNat []
  have tfault := told.rreg (regAddr_not_mem_eventAddrs (r := .blkTfault) (i := b.val) b.isLt nofun nofun)
  have tfpc := told.rreg (regAddr_not_mem_eventAddrs (r := .blkTfpc) (i := b.val) b.isLt nofun nofun)
  rw [tfault, tfpc, blkHalt_block, block, blkHalt_mem]
  exact ⟨standsHalted_blkHalt _ _ _ _ bound running, valid, code, offset, more, pc, rfl, rfl, rfl, rfl, rfl, rfl,
    only.trans (blkHalt_onlyBlock u b _ _ _ _), mem⟩

/-- Settles O12: a fetched line joins the instruction queue; a dispatched instruction moves to its unit's queue. -/
theorem fetchAndDispatch : Obligations.FetchAndDispatch := by
  unfold Obligations.FetchAndDispatch
  refine ⟨fun b s l run room clear => ?fetch, fun b s0 s l e es u hs run hq good free pass hu => ?dispatch⟩
  case fetch =>
    obtain ⟨r, x, logged⟩ := fetchLog_frame s b l s.blocks[b].nextFetch
    have fetched := exec_lineFetch run room clear
    have quiet := fetchLog_good (s := s) (b := b) (l := l) (i := s.blocks[b].nextFetch)
    rw [logged] at fetched quiet
    have block := modBlk_same { s with regs := r, hlt := x } b (fun k => { k with
      iq := k.iq ++ fetchLine s b l s.blocks[b].nextFetch
      nextFetch := s.blocks[b].nextFetch + (16 - s.blocks[b].nextFetch % 16) })
    refine ⟨_, fetched, by rw [block]; rfl, ?_, ?_, ?_, by rw [block], ?_, rfl, fun h => ?_⟩
    · rw [block]; dsimp only; omega
    · rw [block]; dsimp only; omega
    · rw [block]; dsimp only; omega
    · exact (modBlk_onlyBlock { s with regs := r, hlt := x } b _).congr rfl rfl
    · rw [quiet h]
      rfl
  case dispatch =>
    have moved := dispatch_enqueues hs run hq good free pass hu
    rw [enqueue_eq] at moved
    have block := modBlk_same s b (moveOldest l e u)
    obtain ⟨rest, joined, others, acc, scratch, job⟩ := moveOldest_facts l e u s.blocks[b]
    rw [← block] at rest joined others acc scratch job
    exact ⟨_, congrArg Host.Outcome.next moved, rest.trans (congrArg (List.drop 1) hq), joined, others, rreg_wreg_same _ _ _ _,
      (wreg_regsBut (modBlk s b (moveOldest l e u)) .blkPc b.val _).congr rfl rfl, acc, scratch, job,
      (modBlk_onlyBlock s b (moveOldest l e u)).congr rfl rfl, rfl⟩

end Sys2Proof.Machine
end

section
/-! SUPPORT. What of a state a unit's front, its waits and the reads of memory depend on: registers that count errors are none of it
(R27, R93, R403, R425, R428). -/

namespace Sys2Proof.Machine

/-- Two states that differ in registers only, and of those of the map in the register `x`. -/
def OnlyReg (x : Reg) (s t : State) : Prop :=
  t = { s with regs := t.regs } ∧ ∀ q i, q ≠ x → i < regCount q → rreg t q i = rreg s q i

theorem OnlyReg.trans {x : Reg} {s t u : State} (h : OnlyReg x s t) (k : OnlyReg x t u) : OnlyReg x s u := by
  obtain ⟨frame, same⟩ := h
  obtain ⟨frame', same'⟩ := k
  exact ⟨by rw [frame', frame], fun q i hq hi => (same' q i hq hi).trans (same q i hq hi)⟩

theorem wreg_onlyReg (s : State) {r : Reg} {i : Nat} (hi : i < regCount r) (v : Word) : OnlyReg r s (wreg s r i v) :=
  ⟨rfl, fun q j hq hj => rreg_wreg_other s r q i j v (regAddr_ne hq hj hi)⟩

/-- A corrected error is counted and named in BLKn_ECC (Table 2.15). -/
theorem countEcc_onlyReg (s : State) (b : Fin 48) (store : Nat) : OnlyReg .blkEcc s (countEcc s b store) :=
  have listed : b.val < regCount .blkEcc := b.isLt
  (wreg_onlyReg s listed _).trans (wreg_onlyReg _ listed _)

/-- The registers that say which blocks are hosted, where an address lies, and which lines a job slot searches. -/
def placeRegs : List Reg :=
  [.krgBlkmap, .memFrcwin0, .memFrcwin1, .memFrcwin2, .stkChmap, .memMscwaysLo, .memMscwaysHi]

section Congr

variable {x : Reg} {s t : State} (h : OnlyReg x s t)
include h

theorem OnlyReg.pendingG {g : Group} (hx : x ≠ (groupCommit g).1) : pendingG t g = pendingG s g := by
  have commit : commitFld t g 2 2 = commitFld s g 2 2 := by
    unfold commitFld Machine.rfld
    dsimp only
    rw [h.2 _ _ hx.symm (groupCommit_lt g)]
  unfold Machine.pendingG
  rw [commit]

variable (hx : x ∉ placeRegs)
include hx

theorem OnlyReg.placeReg {q : Reg} (hq : q ∈ placeRegs) {i : Nat} (hi : i < regCount q) : rreg t q i = rreg s q i :=
  h.2 q i (fun same => hx (same ▸ hq)) hi

/-! ### Blocks and launches -/

theorem OnlyReg.hostedNow (b : Fin 48) : hostedNow t b = hostedNow s b := by
  have regions : t.regions = s.regions := by rw [h.1]
  have region : b.val / 6 < regCount .krgBlkmap := show b.val / 6 < 8 by omega
  unfold Machine.hostedNow turnMode inService
  rw [h.placeReg hx (by decide) region, regions]

theorem OnlyReg.front (b : Fin 48) (op : Nat) : front t b op = front s b op := by
  unfold Machine.front
  rw [h.hostedNow hx b, h.1]
  rfl

/-! ### Where an address lies -/

theorem OnlyReg.frcWin {w : Nat} (hw : w < 16) : frcWin t w = frcWin s w := by
  unfold Machine.frcWin
  rw [h.placeReg hx (q := .memFrcwin0) (by decide) hw, h.placeReg hx (q := .memFrcwin1) (by decide) hw,
    h.placeReg hx (q := .memFrcwin2) (by decide) hw]

theorem OnlyReg.winAt (a : Nat) : winAt t a = winAt s a :=
  List.find?_congr fun w hw => by
    dsimp only
    rw [h.frcWin hx (List.mem_range.mp hw)]

theorem OnlyReg.physRange (a n : Nat) : physRange t a n = physRange s a n := by
  unfold Machine.physRange
  rw [h.winAt hx]
  split
  · rfl
  · cases found : Machine.winAt s a with
    | none => rfl
    | some w =>
      have listed : w < 16 := List.mem_range.mp (List.mem_of_find?_eq_some found)
      dsimp only
      rw [h.frcWin hx listed]

theorem OnlyReg.channelList {half : Nat} (hh : half < 2) : channelList t half = channelList s half :=
  List.filterMap_congr fun i _ => by
    have stack : 12 * half + i % 12 < regCount .stkChmap := show 12 * half + i % 12 < 24 by omega
    dsimp only
    rw [h.placeReg hx (by decide) stack]

theorem OnlyReg.dpaStack (a : Nat) : dpaStack t a = dpaStack s a := by
  have half : dpaHalf a < 2 := by
    unfold dpaHalf
    split <;> decide
  unfold Machine.dpaStack dpaChan
  rw [h.channelList hx half]

theorem OnlyReg.stackOfDpa (a : Nat) : stackOfDpa t a = stackOfDpa s a := by
  have stk : t.stk = s.stk := by rw [h.1]
  unfold Machine.stackOfDpa
  simp only [h.dpaStack hx, stk]

theorem OnlyReg.mscLine (a job : Nat) : mscLine t a job = mscLine s a job := by
  have halves : t.halves = s.halves := by rw [h.1]
  have ways : mscWays t (homeHalf a).val job = mscWays s (homeHalf a).val job := by
    unfold mscWays
    split
    · rw [h.placeReg hx (q := .memMscwaysLo) (by decide) (homeHalf a).isLt]
    · rw [h.placeReg hx (q := .memMscwaysHi) (by decide) (homeHalf a).isLt]
  unfold Machine.mscLine
  rw [halves, ways]

/-! ### Reads that wait -/

theorem OnlyReg.readWaits (a n job : Nat) : readWaits t a n job = readWaits s a n job := by
  have stk : t.stk = s.stk := by rw [h.1]
  have mem : t.mem = s.mem := by rw [h.1]
  unfold Machine.readWaits queued
  rw [h.physRange hx, stk, mem]
  simp only [h.stackOfDpa hx, h.mscLine hx]

theorem OnlyReg.readBehind (q : WaitUnit) (a n : Nat) : readBehind t q a n = readBehind s q a n := by
  have mem : t.mem = s.mem := by rw [h.1]
  unfold Machine.readBehind
  rw [h.physRange hx, mem]
  simp only [h.dpaStack hx]

theorem OnlyReg.readsWait (b : Fin 48) (l : Launch) (ts : List Touch) : readsWait t b l ts = readsWait s b l ts := by
  have stk : t.stk = s.stk := by rw [h.1]
  unfold Machine.readsWait touchWaits
  rw [stk]
  simp only [h.readWaits hx, h.readBehind hx]

end Congr

end Sys2Proof.Machine
end

section
/-! SUPPORT. A unit's access to a store that meets an error (R93, R99, R565, R755, R758, Table 2.15). -/

namespace Sys2Proof.Machine

/-- The block instructions that read or write a store: opcode and command. -/
def storeForms : List (Nat × (Fin 48 → Upset → Instr)) :=
  [(opLDT, Instr.ldt), (opSTT, Instr.stt)] ++ arrayForms ++ [(opDRN, Instr.drn), (opRSC, Instr.rsc)]

/-- An instruction at the front of its unit that may begin: the array is free, no commit of the block's group pends, and no read
of an array instruction or of an LDT waits. -/
def Able (op : Nat) (b : Fin 48) (e : UEntry) (l : Launch) (s : State) : Prop :=
  front s b op = some (e, l) ∧
  (isArrayOp op = true → s.blocks[b].job = none ∧ pendingG s (.blk b) = false ∧
    readsWait s b l (fedTouches s b l e.word) = false) ∧
  (op = opLDT → bankHeld s b e.word = false ∧ readsWait s b l (touches s b l e.word) = false)

/-- It stays able when an error is counted. -/
theorem Able.countEcc {op : Nat} {b : Fin 48} {e : UEntry} {l : Launch} {s : State} (h : Able op b e l s) (store : Nat) :
    Able op b e l (countEcc s b store) := by
  obtain ⟨at_, array, load⟩ := h
  have reg := countEcc_onlyReg s b store
  have place : Reg.blkEcc ∉ placeRegs := by decide
  refine ⟨(reg.front place b op).trans at_, fun hop => ?_, fun hop => ?_⟩
  · obtain ⟨free, idle, reads⟩ := array hop
    have commit : Reg.blkEcc ≠ (groupCommit (.blk b)).1 := show Reg.blkEcc ≠ .blkCommit from nofun
    exact ⟨free, (reg.pendingG commit).trans idle, (reg.readsWait place b l _).trans reads⟩
  · obtain ⟨free, reads⟩ := load hop
    exact ⟨free, (reg.readsWait place b l _).trans reads⟩

/-- An instruction that is able to begin runs one and the same body on the state in which its accesses leave the device. -/
theorem exec_able {p : Nat × (Fin 48 → Upset → Instr)} (hp : p ∈ storeForms) (b : Fin 48) (e : UEntry) (l : Launch) :
    ∃ body : State → State, ∀ s u, Able p.1 b e l s → exec (p.2 b u) s = .next (withUpset s b e.idx u body) := by
  simp only [storeForms, List.mem_append, List.mem_cons, List.not_mem_nil, or_false] at hp
  obtain ((rfl | rfl) | array) | rfl | rfl := hp
  · apply Exists.intro
    rintro s u ⟨at_, -, load⟩
    obtain ⟨free, reads⟩ := load rfl
    simp only [exec, execLdt, at_]
    rw [if_neg (by simp [free, reads])]
  · apply Exists.intro
    rintro s u ⟨at_, -, -⟩
    simp only [exec, execStt, at_]
    rfl
  · obtain ⟨-, -, isArray⟩ := arrayForms_unit p array
    apply Exists.intro
    rintro s u ⟨at_, may, -⟩
    obtain ⟨free, idle, reads⟩ := may isArray
    rw [exec_arrayForm array]
    unfold startArray
    rw [at_]
    dsimp only
    rw [if_neg (by rw [free, reads]; simp), configApply_idle _ _ idle]
  · apply Exists.intro
    rintro s u ⟨at_, -, -⟩
    simp only [exec, execDrn, at_]
    rfl
  · apply Exists.intro
    rintro s u ⟨at_, -, -⟩
    simp only [exec, execRsc, at_]
    rfl

/-- Settles O10: the body that an instruction runs does not depend on the error; an uncorrectable one halts the launch instead. -/
theorem upsetsAreCountedOrHalt : Obligations.UpsetsAreCountedOrHalt := by
  unfold Obligations.UpsetsAreCountedOrHalt
  intro p hp b s e l st at_ array load
  have able : Able p.1 b e l s := ⟨at_, array, load⟩
  obtain ⟨body, runs⟩ := exec_able (p := p) hp b e l
  refine ⟨?corrected, fun running => ?halts⟩
  case corrected => exact (runs s _ able).trans (runs _ .none (able.countEcc st.val)).symm
  case halts =>
    exact ⟨_, runs s _ able, standsHalted_blkHalt _ _ _ _ (front_launch at_) running, blkHalt_block s b _ _ _ _,
      blkHalt_onlyBlock s b _ _ _ _, blkHalt_mem s b _ _ _ _, blkHalt_regions s b _ _ _ _⟩

end Sys2Proof.Machine
end

section
/-! SUPPORT. What ends an array instruction: its queue entry leaves, the banks it streamed are undefined (R91, R109), and what logging
and counting a mismatch leave (R87, R92). -/

namespace Sys2Proof.Machine

/-! ### Streamed banks -/

/-- A change of one block's banks, drawing free bytes. -/
def BankChange (b : Fin 48) (s t : State) : Prop :=
  t = { s with blocks := t.blocks, freeCtr := t.freeCtr } ∧ OnlyBlock b s t ∧
  t.blocks[b] = { s.blocks[b] with
    bankA0 := t.blocks[b].bankA0, bankA1 := t.blocks[b].bankA1, bankB := t.blocks[b].bankB,
    junk0 := t.blocks[b].junk0, junk1 := t.blocks[b].junk1, junk2 := t.blocks[b].junk2 }

theorem BankChange.trans {b : Fin 48} {s t u : State} (h : BankChange b s t) (k : BankChange b t u) : BankChange b s u := by
  obtain ⟨frame, only, block⟩ := h
  obtain ⟨frame', only', block'⟩ := k
  exact ⟨by rw [frame', frame], only.trans only', by rw [block', block]⟩

/-- A bank whose bytes are free from number `n` on. -/
def freeBank (k : Block) (i n : Nat) : Block :=
  match i with
  | 0 => { k.setBank 0 [] with junk0 := some n }
  | 1 => { k.setBank 1 [] with junk1 := some n }
  | i + 2 => { k.setBank (i + 2) [] with junk2 := some n }

theorem junkBank_eq (s : State) (b : Fin 48) (i : Nat) : junkBank s b i =
    { modBlk s b (fun k => freeBank k i s.freeCtr) with freeCtr := s.freeCtr + 2 ^ 21 } := by
  rcases i with _ | _ | i <;> rfl

theorem junkBank_change (s : State) (b : Fin 48) (i : Nat) : BankChange b s (junkBank s b i) := by
  rw [junkBank_eq]
  refine ⟨rfl, (modBlk_onlyBlock s b (fun k => freeBank k i s.freeCtr)).congr rfl rfl, ?_⟩
  dsimp only
  rw [modBlk_same]
  rcases i with _ | _ | i <;> rfl

theorem junkStreamed_change (s : State) (b : Fin 48) (d : BitVec 512) : BankChange b s (junkStreamed s b d) := by
  unfold junkStreamed
  induction streamed d generalizing s with
  | nil => exact ⟨rfl, fun _ _ => rfl, rfl⟩
  | cons i is ih => exact (junkBank_change s b i).trans (ih _)

/-! ### The end of an array instruction -/

/-- The instruction leaves the array's queue, and the banks it streamed are undefined. -/
theorem retire_junkStreamed (s : State) (b : Fin 48) (d : BitVec 512) :
    let t := retire (junkStreamed s b d) b .array
    t = { s with blocks := t.blocks, freeCtr := t.freeCtr } ∧ OnlyBlock b s t ∧
    t.blocks[b] = { s.blocks[b] with
      arrayQ := s.blocks[b].arrayQ.drop 1
      bankA0 := t.blocks[b].bankA0, bankA1 := t.blocks[b].bankA1, bankB := t.blocks[b].bankB,
      junk0 := t.blocks[b].junk0, junk1 := t.blocks[b].junk1, junk2 := t.blocks[b].junk2 } := by
  obtain ⟨frame, only, block⟩ := junkStreamed_change s b d
  generalize junkStreamed s b d = u at *
  have after : (retire u b .array).blocks[b] = { u.blocks[b] with arrayQ := u.blocks[b].arrayQ.drop 1 } := modBlk_same u b _
  refine ⟨?_, only.trans (retire_onlyBlock u b .array), ?_⟩
  · rw [show retire u b .array = { u with blocks := (retire u b .array).blocks } from rfl, frame]
  · rw [after, block]

/-- WARD_PERSIST ends the instruction, and then halts its block's launch (R91). -/
theorem wardPersist_eq (s : State) (b : Fin 48) (j : ArrayJob) :
    ∃ u, wardPersist s b j = blkHalt u b 0x3C01 j.idx (rreg u .blkWardlog b.val).toNat ∧
      u = { s with blocks := u.blocks, freeCtr := u.freeCtr, hlt := u.hlt } ∧ OnlyBlock b s u ∧
      u.blocks[b] = { s.blocks[b] with
        job := none, arrayQ := s.blocks[b].arrayQ.drop 1
        bankA0 := u.blocks[b].bankA0, bankA1 := u.blocks[b].bankA1, bankB := u.blocks[b].bankB,
        junk0 := u.blocks[b].junk0, junk1 := u.blocks[b].junk1, junk2 := u.blocks[b].junk2 } := by
  obtain ⟨frame, only, block⟩ := retire_junkStreamed (modBlk s b (fun k => { k with job := none })) b j.word
  refine ⟨_, rfl, ?_, ((modBlk_onlyBlock s b (fun k => { k with job := none })).trans only).congr rfl rfl, ?_⟩
  · dsimp only [lifeAdd, lifeSet]
    rw [frame]
    rfl
  · rw [modBlk_same] at block
    exact block

section Persist

variable {s : State} {b : Fin 48} (j : ArrayJob)

theorem standsHalted_wardPersist {l : Launch} (hl : s.blocks[b].lid.bind (findLaunch s) = some l) (hr : l.st = .running) :
    StandsHalted (wardPersist s b j) l.lid 0x3C01 := by
  obtain ⟨u, ends, frame, -, block⟩ := wardPersist_eq s b j
  rw [ends]
  refine standsHalted_blkHalt _ _ _ _ ?_ hr
  rw [block]
  exact (congrArg (s.blocks[b].lid.bind ·) (funext fun lid => findLaunch_congr (by rw [frame]) lid)).trans hl

variable (s b)

theorem wardPersist_block :
    (wardPersist s b j).blocks[b].job = none ∧ (wardPersist s b j).blocks[b].stopped = true ∧
    (wardPersist s b j).blocks[b].arrayQ = (s.blocks[b].arrayQ.drop 1).filter (·.begun) ∧
    (wardPersist s b j).blocks[b].acc = s.blocks[b].acc := by
  obtain ⟨u, ends, -, -, block⟩ := wardPersist_eq s b j
  rw [ends, blkHalt_block, block]
  exact ⟨rfl, rfl, rfl, rfl⟩

theorem wardPersist_onlyBlock : OnlyBlock b s (wardPersist s b j) := by
  obtain ⟨u, ends, -, only, -⟩ := wardPersist_eq s b j
  rw [ends]
  exact only.trans (blkHalt_onlyBlock u b _ _ _ _)

theorem wardPersist_mem : (wardPersist s b j).mem = s.mem := by
  obtain ⟨u, ends, frame, -, -⟩ := wardPersist_eq s b j
  rw [ends, blkHalt_mem, frame]

theorem wardPersist_regsBut : RegsBut eventAddrs s (wardPersist s b j) := by
  obtain ⟨u, ends, frame, -, -⟩ := wardPersist_eq s b j
  rw [ends]
  exact (blkHalt_regsBut u b _ _ _ _).congr (by rw [frame]) rfl

end Persist

/-! ### A mismatch -/

/-- The checks a partial skipped are counted, and its mismatch is logged with the attempt (R86, R87). -/
def noteMismatch (s : State) (b : Fin 48) (j : ArrayJob) (pair : Nat) (w : WardResult) : State :=
  logMismatch (cfld s .blkWardcnt b.val 31 16 w.skips) b j pair w (j.attempts + 1)

theorem rreg_noteMismatch_wardpc (s : State) (b : Fin 48) (j : ArrayJob) (pair : Nat) (w : WardResult) :
    rreg (noteMismatch s b j pair w) .blkWardpc b.val = BitVec.ofNat 32 j.idx :=
  rreg_wreg_same _ _ _ _

/-- BLKn_WARDLOG reads VALID, ATTEMPT, ROW, COL and PAIR (Table 2.14). -/
theorem rreg_noteMismatch_wardlog (s : State) (b : Fin 48) (j : ArrayJob) (pair : Nat) (w : WardResult) :
    let log := rreg (noteMismatch s b j pair w) .blkWardlog b.val
    getF log 31 31 = 1 ∧ getF log 30 28 = (j.attempts + 1) % 8 ∧ getF log 27 20 = w.row.getD 0x80 % 256 ∧
    getF log 19 12 = w.col.getD 0x80 % 256 ∧ getF log 11 0 = pair % 4096 := by
  have apart : regAddr .blkWardlog b.val ≠ regAddr .blkWardpc b.val :=
    regAddr_ne (r := .blkWardlog) (q := .blkWardpc) nofun b.isLt b.isLt
  unfold noteMismatch logMismatch
  dsimp only
  rw [rreg_wreg_other _ _ _ _ _ _ apart, rreg_wreg_same]
  refine ⟨?valid, ?attempt, ?row, ?col, getF_setF_same _ pair (by decide)⟩
  case valid =>
    iterate 4 rw [getF_setF_other _ _ (by decide) (by decide)]
    exact getF_setF_same _ 1 (by decide)
  case attempt =>
    iterate 3 rw [getF_setF_other _ _ (by decide) (by decide)]
    exact getF_setF_same _ _ (by decide)
  case row =>
    iterate 2 rw [getF_setF_other _ _ (by decide) (by decide)]
    exact getF_setF_same _ _ (by decide)
  case col =>
    rw [getF_setF_other _ _ (by decide) (by decide)]
    exact getF_setF_same _ _ (by decide)

/-- The count of a replay, in BLKn_WARDCNT, the LIFE body and the block's rate window, before any event (R92). -/
def replayCounted (s : State) (b : Fin 48) (win cnt : Nat) (sent : Bool) : State :=
  modBlk (lifeAdd (cfld s .blkWardcnt b.val 15 0 1) 24 (64 + 8 * physOf s b) 4 1) b
    (fun k => { k with rateWin := win, rateCnt := cnt, rateSent := sent })

theorem countReplay_eq (s : State) (b : Fin 48) : ∃ win cnt sent, countReplay s b = replayCounted s b win cnt sent ∨
    ∃ lid x, countReplay s b = reportEvent (replayCounted s b win cnt sent) 0x3C02 lid x := by
  obtain ⟨win, cnt, sent, fire, lid, x, counts⟩ : ∃ win cnt sent, ∃ fire : Bool, ∃ lid x, countReplay s b =
      if fire then reportEvent (replayCounted s b win cnt sent) 0x3C02 lid x else replayCounted s b win cnt sent :=
    ⟨_, _, _, _, _, _, rfl⟩
  refine ⟨win, cnt, sent, ?_⟩
  cases fire
  · exact .inl counts
  · exact .inr ⟨lid, x, counts⟩

/-- What counting a replay can change. -/
theorem countReplay_change (s : State) (b : Fin 48) :
    let t := countReplay s b
    t = { s with regs := t.regs, blocks := t.blocks, hlt := t.hlt, comps := t.comps } ∧ OnlyBlock b s t ∧
    t.blocks[b] = { s.blocks[b] with
      rateWin := t.blocks[b].rateWin, rateCnt := t.blocks[b].rateCnt, rateSent := t.blocks[b].rateSent } ∧
    RegsBut (regAddr .blkWardcnt b.val :: eventAddrs) s t := by
  obtain ⟨win, cnt, sent, counts⟩ := countReplay_eq s b
  have only : OnlyBlock b s (replayCounted s b win cnt sent) :=
    (modBlk_onlyBlock s b (fun k => { k with rateWin := win, rateCnt := cnt, rateSent := sent })).congr rfl rfl
  have block : (replayCounted s b win cnt sent).blocks[b] =
      { s.blocks[b] with rateWin := win, rateCnt := cnt, rateSent := sent } :=
    modBlk_same s b (fun k => { k with rateWin := win, rateCnt := cnt, rateSent := sent })
  have regs : RegsBut (regAddr .blkWardcnt b.val :: eventAddrs) s (replayCounted s b win cnt sent) :=
    ((wreg_regsBut s .blkWardcnt b.val _).mono (by simp)).congr rfl rfl
  have frame : replayCounted s b win cnt sent = { s with
      regs := (replayCounted s b win cnt sent).regs, blocks := (replayCounted s b win cnt sent).blocks
      hlt := (replayCounted s b win cnt sent).hlt } := rfl
  generalize replayCounted s b win cnt sent = u at *
  obtain same | ⟨lid, x, told⟩ := counts
  · dsimp only
    rw [same]
    exact ⟨by rw [frame], only, by rw [block], regs⟩
  · have event : RegsBut (regAddr .blkWardcnt b.val :: eventAddrs) u (reportEvent u 0x3C02 lid x) :=
      (postEvent_regsBut u 0 0x3C02 lid x []).mono fun a ha => List.mem_cons_of_mem _ ha
    dsimp only
    rw [told, reportEvent_frame] at *
    exact ⟨by rw [frame], only, by rw [block], regs.trans event⟩

end Sys2Proof.Machine
end

section
/-! SUPPORT. What PAIR_PARTIAL_DRAIN does with the oldest pair partial of a job (R69, R70, R72, R84-R93, R102). -/

namespace Sys2Proof.Machine

/-- The partial that drains: with the upset element, if any, flipped. -/
def drainedPart (u : DrainUpset) (v : List PartVal) : List PartVal :=
  match u with
  | .flip p e m => flipElt v p e m
  | _ => v

/-- Whether the injected failure is due: at the first attempt of pair 0 (R102). -/
def ArrayJob.injectDue (j : ArrayJob) (q : Nat) : Bool := j.inject && q = 0 && j.attempts = 0

theorem injectDue_iff (j : ArrayJob) (q : Nat) : j.injectDue q = true ↔ j.inject = true ∧ q = 0 ∧ j.attempts = 0 := by
  simp [ArrayJob.injectDue, and_assoc]

/-- What the checks of pair `q` find: an injected failure shows neither row nor column (R102). -/
def drainTest (j : ArrayJob) (q : Nat) (ps : List PartVal) : WardResult :=
  let w := wardTest j.arith (getF j.cfg 3 0) j.geom ps
  if j.injectDue q then { w with row := none, col := none, corner := true } else w

theorem drainTest_of_due {j : ArrayJob} {q : Nat} (h : j.injectDue q = true) (ps : List PartVal) :
    (drainTest j q ps).failed = true ∧ (drainTest j q ps).row = none ∧ (drainTest j q ps).col = none := by
  unfold drainTest
  rw [if_pos h]
  exact ⟨by simp [WardResult.failed], rfl, rfl⟩

theorem drainTest_of_not_due {j : ArrayJob} {q : Nat} (h : ¬ (j.inject = true ∧ q = 0 ∧ j.attempts = 0)) (ps : List PartVal) :
    drainTest j q ps = wardTest j.arith (getF j.cfg 3 0) j.geom ps :=
  if_neg fun due => h ((injectDue_iff j q).mp due)

theorem drainTest_failed {j : ArrayJob} {q : Nat} {ps : List PartVal}
    (h : (wardTest j.arith (getF j.cfg 3 0) j.geom ps).failed = true) : (drainTest j q ps).failed = true := by
  by_cases due : j.injectDue q = true
  · exact (drainTest_of_due due ps).1
  · rw [drainTest_of_not_due (fun k => due ((injectDue_iff j q).mpr k))]
    exact h

/-- The job after a failed attempt (R87, R88). -/
def ArrayJob.toReplay (j : ArrayJob) : ArrayJob :=
  { j with attempts := j.attempts + 1, replay := true, tail := decide (j.attempts = 0) && j.running }

/-- The tree with the partial's elements taken in, and whether an integer saturated (R69). -/
def ArrayJob.joined (j : ArrayJob) (ps : List PartVal) : List (Nat × List (List Word)) × Bool :=
  pushNode j.arith j.compat 32 j.tree (1, ps.map (·.elts))

/-- The job once its oldest pair has passed (R69, R72). -/
def ArrayJob.passedOn (j : ArrayJob) (rest : List (Nat × List PartVal)) (ps : List PartVal) : ArrayJob :=
  { j with pairs := rest, drained := j.drained + 1, attempts := 0, tree := (j.joined ps).1 }

/-- The state once the oldest pair has passed: its skips are counted, and its elements are in the tree. -/
def passOn (s : State) (b : Fin 48) (j : ArrayJob) (rest : List (Nat × List PartVal)) (ps : List PartVal) (w : WardResult) :
    State :=
  modBlk (cfld s .blkWardcnt b.val 31 16 w.skips) b
    (fun k => { k with intSat := k.intSat || (j.joined ps).2, job := some (j.passedOn rest ps) })

section PassOn

variable (s : State) (b : Fin 48) (j : ArrayJob) (rest : List (Nat × List PartVal)) (ps : List PartVal) (w : WardResult)

theorem passOn_block : (passOn s b j rest ps w).blocks[b] =
    { s.blocks[b] with intSat := s.blocks[b].intSat || (j.joined ps).2, job := some (j.passedOn rest ps) } :=
  modBlk_same (cfld s .blkWardcnt b.val 31 16 w.skips) b _

theorem passOn_onlyBlock : OnlyBlock b s (passOn s b j rest ps w) :=
  (modBlk_onlyBlock (cfld s .blkWardcnt b.val 31 16 w.skips) b
    (fun k => { k with intSat := k.intSat || (j.joined ps).2, job := some (j.passedOn rest ps) })).congr rfl rfl

theorem passOn_frame : passOn s b j rest ps w =
    { s with regs := (passOn s b j rest ps w).regs, blocks := (passOn s b j rest ps w).blocks } := rfl

end PassOn

/-- The state once an uncorrectable word of a block store has ended the job (R93, R109). -/
def bufferEnds (s : State) (b : Fin 48) (j : ArrayJob) (store : Nat) : State :=
  junkStreamed (modBlk (bufUncorr s b j.idx store) b (fun k => { k with job := none, arrayQ := k.arrayQ.drop 1 })) b j.word

section Drain

variable {b : Fin 48} {s : State} {j : ArrayJob} {l : Launch} {q : Nat} {v : List PartVal} {rest : List (Nat × List PartVal)}
  (hj : s.blocks[b].job = some j) (hl : s.blocks[b].lid.bind (findLaunch s) = some l) (hp : j.pairs = (q, v) :: rest)
  (hr : j.replay = false) (hs : stalled s = false)
include hj hl hp hr hs

/-- An uncorrectable word of a block store ends the job and halts its launch (R93). -/
theorem pairDrain_buffer (st : Fin 6) : pairDrain b (.buffer st) s = bufferEnds s b j st.val := by
  unfold pairDrain
  simp only [hj, hl, hp]
  rw [if_neg (by simp [hr, hs])]
  rfl

/-- All that draining a pair can do: replay or escalation of a mismatch, escalation of an adder, or the next node of the tree. -/
theorem pairDrain_checks {u : DrainUpset} (hu : ∀ st, u ≠ .buffer st) : pairDrain b u s =
    if (drainTest j q (drainedPart u v)).failed then
      if getF j.cfg 5 4 < j.attempts + 1 then wardPersist (noteMismatch s b j q (drainTest j q (drainedPart u v))) b j
      else modBlk (countReplay (noteMismatch s b j q (drainTest j q (drainedPart u v))) b) b
        (fun k => { k with job := some j.toReplay })
    else if u = .adder true ∧ combines j (drainedPart u v) then
      wardPersist (noteMismatch s b j q (drainTest j q (drainedPart u v))) b j
    else if j.drained + 1 = j.nPairs then
      finishJob (passOn s b j rest (drainedPart u v) (drainTest j q (drainedPart u v))) b l (j.passedOn rest (drainedPart u v))
    else passOn s b j rest (drainedPart u v) (drainTest j q (drainedPart u v)) := by
  have same : j.toReplay = { j with
      pairs := (q, v) :: rest, attempts := j.attempts + 1, replay := true, tail := decide (j.attempts = 0) && j.running } := by
    rw [← hp]
    rfl
  rw [same]
  unfold pairDrain
  simp only [hj, hl, hp]
  rw [if_neg (by simp [hr, hs])]
  cases u with
  | buffer st => exact absurd rfl (hu st)
  | none => rfl
  | flip p e m => rfl
  | adder twice => rfl

end Drain

end Sys2Proof.Machine
end

section
/-! SUPPORT. A pair partial that fails is replayed or halts the launch; one that passes joins the tree (R69, R70, R72, R87-R93). -/

namespace Sys2Proof.Machine

/-- A register of a block's own that neither the count of wards nor an event touches. -/
theorem blkReg_not_mem {r : Reg} {b : Fin 48} (hr : b.val < regCount r) (cnt : r ≠ .blkWardcnt) (hlt : r ≠ .hltEvt)
    (lat : r ≠ .latStat) : regAddr r b.val ∉ regAddr .blkWardcnt b.val :: eventAddrs := by
  rw [List.mem_cons, not_or]
  exact ⟨regAddr_ne cnt hr b.isLt, regAddr_not_mem_eventAddrs hr hlt lat⟩

/-- The state with a mismatch noted and its replay to come (R87, R88, R92). -/
def replayDue (s : State) (b : Fin 48) (j : ArrayJob) (q : Nat) (w : WardResult) : State :=
  modBlk (countReplay (noteMismatch s b j q w) b) b (fun k => { k with job := some j.toReplay })

/-- It differs in the job and the rate window of the block, in registers, LIFE bodies and completions. -/
theorem replayDue_block (s : State) (b : Fin 48) (j : ArrayJob) (q : Nat) (w : WardResult) :
    let t := replayDue s b j q w
    t.blocks[b] = { s.blocks[b] with
      job := some j.toReplay
      rateWin := t.blocks[b].rateWin, rateCnt := t.blocks[b].rateCnt, rateSent := t.blocks[b].rateSent } ∧
    OnlyBlock b s t ∧ t.launches = s.launches ∧ t.mem = s.mem := by
  obtain ⟨frame, only, block, -⟩ := countReplay_change (noteMismatch s b j q w) b
  have noted : (noteMismatch s b j q w).blocks[b] = s.blocks[b] := rfl
  have others : OnlyBlock b s (noteMismatch s b j q w) := fun _ _ => rfl
  have launches : (noteMismatch s b j q w).launches = s.launches := rfl
  have mem : (noteMismatch s b j q w).mem = s.mem := rfl
  dsimp only [replayDue]
  generalize noteMismatch s b j q w = n at *
  generalize countReplay n b = c at *
  refine ⟨?_, (others.trans only).trans (modBlk_onlyBlock c b _), ?_, ?_⟩
  · rw [modBlk_same, block, noted]
  · rw [modBlk_launches, frame, launches]
  · rw [modBlk_mem, frame, mem]

/-- The log shows the mismatch still. -/
theorem rreg_replayDue (s : State) (b : Fin 48) (j : ArrayJob) (q : Nat) (w : WardResult) {r : Reg} (hr : b.val < regCount r)
    (cnt : r ≠ .blkWardcnt) (hlt : r ≠ .hltEvt) (lat : r ≠ .latStat) :
    rreg (replayDue s b j q w) r b.val = rreg (noteMismatch s b j q w) r b.val := by
  obtain ⟨-, -, -, regs⟩ := countReplay_change (noteMismatch s b j q w) b
  exact regs.rreg (blkReg_not_mem hr cnt hlt lat)

/-- Settles O15: a mismatch with an attempt left is logged, counted and replayed, whatever showed it. -/
theorem mismatchIsDiscardedAndReplayed : Obligations.MismatchIsDiscardedAndReplayed := by
  unfold Obligations.MismatchIsDiscardedAndReplayed
  intro b u s j l q v rest hj hl hp hr hs left notBuffer ps inj w bad
  have part : ps = drainedPart u v := by cases u <;> rfl
  have failed : (drainTest j q (drainedPart u v)).failed = true := by
    obtain due | bad := bad
    · exact (drainTest_of_due ((injectDue_iff j q).mpr due) _).1
    · exact drainTest_failed (part ▸ bad)
  have drains : pairDrain b u s = replayDue s b j q (drainTest j q (drainedPart u v)) := by
    rw [pairDrain_checks hj hl hp hr hs notBuffer, if_pos failed, if_neg (by omega)]
    rfl
  obtain ⟨valid, attempt, row, col, pair⟩ := rreg_noteMismatch_wardlog s b j q (drainTest j q (drainedPart u v))
  obtain ⟨block, only, launches, mem⟩ := replayDue_block s b j q (drainTest j q (drainedPart u v))
  refine ⟨_, congrArg Host.Outcome.next drains, by rw [block]; rfl, ?_⟩
  rw [rreg_replayDue _ _ _ _ _ (r := .blkWardlog) b.isLt nofun nofun nofun,
    rreg_replayDue _ _ _ _ _ (r := .blkWardpc) b.isLt nofun nofun nofun, block]
  refine ⟨valid, attempt, fun notDue => ?checked, fun due => ?injected, pair, rreg_noteMismatch_wardpc _ _ _ _ _, rfl, rfl, only,
    launches, mem⟩
  case checked =>
    have test : drainTest j q (drainedPart u v) = w := by rw [drainTest_of_not_due notDue, ← part]
    exact ⟨row.trans (by rw [test]), col.trans (by rw [test])⟩
  case injected =>
    obtain ⟨-, noRow, noCol⟩ := drainTest_of_due ((injectDue_iff j q).mpr due) (drainedPart u v)
    rw [noRow] at row
    rw [noCol] at col
    exact ⟨row, col⟩

/-! ### Escalation -/

section Drain

variable {b : Fin 48} {s : State} {j : ArrayJob} {l : Launch} {q : Nat} {v : List PartVal} {rest : List (Nat × List PartVal)}
  (hj : s.blocks[b].job = some j) (hl : s.blocks[b].lid.bind (findLaunch s) = some l) (hp : j.pairs = (q, v) :: rest)
  (hr : j.replay = false) (hs : stalled s = false)
include hj hl hp hr hs

/-- The last permitted attempt fails (R91). -/
theorem pairDrain_persists (bad : (wardTest j.arith (getF j.cfg 3 0) j.geom v).failed = true)
    (last : getF j.cfg 5 4 < j.attempts + 1) : pairDrain b .none s = wardPersist (noteMismatch s b j q (drainTest j q v)) b j := by
  have failed : (drainTest j q (drainedPart .none v)).failed = true := drainTest_failed bad
  rw [pairDrain_checks hj hl hp hr hs (u := .none) (fun _ => nofun), if_pos failed, if_pos last]
  rfl

/-- An adder disagrees twice where the drain combines (R70). -/
theorem pairDrain_adder_persists (good : (wardTest j.arith (getF j.cfg 3 0) j.geom v).failed = false)
    (notDue : ¬ (j.inject = true ∧ q = 0 ∧ j.attempts = 0)) (joins : combines j v = true) :
    pairDrain b (.adder true) s = wardPersist (noteMismatch s b j q (drainTest j q v)) b j := by
  have passed : ¬ (drainTest j q (drainedPart (.adder true) v)).failed = true := by
    rw [drainTest_of_not_due notDue, Bool.not_eq_true]
    exact good
  rw [pairDrain_checks hj hl hp hr hs (u := .adder true) (fun _ => nofun), if_neg passed, if_pos ⟨rfl, joins⟩]
  rfl

/-- With nothing to combine, or where the second sum agrees, an adder upset shows nowhere (log 125). -/
theorem pairDrain_adder_hidden {twice : Bool} (hidden : twice = true → combines j v = false) :
    pairDrain b (.adder twice) s = pairDrain b .none s := by
  have shows : ¬ (DrainUpset.adder twice = .adder true ∧ combines j (drainedPart (.adder twice) v) = true) := by
    rintro ⟨same, joins⟩
    have off : combines j v = false := hidden (DrainUpset.adder.inj same)
    exact absurd joins (by rw [show drainedPart (.adder twice) v = v from rfl, off]; decide)
  rw [pairDrain_checks hj hl hp hr hs (u := .adder twice) (fun _ => nofun),
    pairDrain_checks hj hl hp hr hs (u := .none) (fun _ => nofun), if_neg shows,
    if_neg (c := DrainUpset.none = .adder true ∧ _) (fun none => nomatch none.1)]
  rfl

/-- A pair that passes joins the tree; the last one ends the job (R69, R72). -/
theorem pairDrain_passes (good : (wardTest j.arith (getF j.cfg 3 0) j.geom v).failed = false)
    (notDue : ¬ (j.inject = true ∧ q = 0 ∧ j.attempts = 0)) : pairDrain b .none s =
    if j.drained + 1 = j.nPairs then
      finishJob (passOn s b j rest v (wardTest j.arith (getF j.cfg 3 0) j.geom v)) b l (j.passedOn rest v)
    else passOn s b j rest v (wardTest j.arith (getF j.cfg 3 0) j.geom v) := by
  have test : drainTest j q (drainedPart .none v) = wardTest j.arith (getF j.cfg 3 0) j.geom v := drainTest_of_not_due notDue v
  rw [pairDrain_checks hj hl hp hr hs (u := .none) (fun _ => nofun), test, if_neg (by simp [good]),
    if_neg (fun none => nomatch none.1)]
  rfl

end Drain

/-- A mismatch noted and then escalated: the log keeps it, the launch halts, and the job is over. -/
theorem persists_facts {s : State} {b : Fin 48} {l : Launch} (hl : s.blocks[b].lid.bind (findLaunch s) = some l)
    (running : l.st = .running) (j : ArrayJob) (q : Nat) (w : WardResult) :
    let t := wardPersist (noteMismatch s b j q w) b j
    StandsHalted t l.lid 0x3C01 ∧ t.blocks[b].job = none ∧ t.blocks[b].stopped = true ∧
    t.blocks[b].arrayQ = (s.blocks[b].arrayQ.drop 1).filter (·.begun) ∧ t.blocks[b].acc = s.blocks[b].acc ∧ OnlyBlock b s t ∧
    t.mem = s.mem ∧ rreg t .blkWardlog b.val = rreg (noteMismatch s b j q w) .blkWardlog b.val := by
  obtain ⟨ended, stopped, queue, acc⟩ := wardPersist_block (noteMismatch s b j q w) b j
  have others : OnlyBlock b s (noteMismatch s b j q w) := fun _ _ => rfl
  exact ⟨standsHalted_wardPersist j (s := noteMismatch s b j q w) hl running, ended, stopped, queue, acc,
    others.trans (wardPersist_onlyBlock _ b j), wardPersist_mem _ b j,
    (wardPersist_regsBut _ b j).rreg (regAddr_not_mem_eventAddrs (r := .blkWardlog) b.isLt nofun nofun)⟩

/-- What an uncorrectable word of a block store leaves (R93). -/
theorem bufferEnds_facts {s : State} {b : Fin 48} {l : Launch} (hl : s.blocks[b].lid.bind (findLaunch s) = some l)
    (running : l.st = .running) (j : ArrayJob) (store : Nat) :
    let t := bufferEnds s b j store
    StandsHalted t l.lid 0x3C03 ∧ t.blocks[b].job = none ∧ t.blocks[b].acc = s.blocks[b].acc ∧
      OnlyBlock b s t ∧ t.mem = s.mem := by
  have halted : StandsHalted (bufUncorr s b j.idx store) l.lid 0x3C03 := standsHalted_blkHalt _ _ _ _ hl running
  have acc : (bufUncorr s b j.idx store).blocks[b].acc = s.blocks[b].acc := by
    rw [bufUncorr, blkHalt_block]
  have others : OnlyBlock b s (bufUncorr s b j.idx store) := blkHalt_onlyBlock s b _ _ _ _
  have mem : (bufUncorr s b j.idx store).mem = s.mem := blkHalt_mem s b _ _ _ _
  unfold bufferEnds
  generalize bufUncorr s b j.idx store = u at *
  have block := modBlk_same u b (fun k => { k with job := none, arrayQ := k.arrayQ.drop 1 })
  have only := modBlk_onlyBlock u b (fun k => { k with job := none, arrayQ := k.arrayQ.drop 1 })
  have ended : (modBlk u b (fun k => { k with job := none, arrayQ := k.arrayQ.drop 1 })).launches = u.launches := rfl
  have kept : (modBlk u b (fun k => { k with job := none, arrayQ := k.arrayQ.drop 1 })).mem = u.mem := rfl
  generalize modBlk u b (fun k => { k with job := none, arrayQ := k.arrayQ.drop 1 }) = x at *
  obtain ⟨frame, only', block'⟩ := junkStreamed_change x b j.word
  dsimp only
  generalize junkStreamed x b j.word = t at *
  refine ⟨?halted, by rw [block', block], by rw [block', block, acc], (others.trans only).trans only', by rw [frame, kept, mem]⟩
  obtain ⟨m, found, st, fault⟩ := halted
  exact ⟨m, (findLaunch_congr (by rw [frame, ended]) l.lid).trans found, st, fault⟩

/-- Settles O17: each outcome of a drain, by the checks and what upset it. -/
theorem checkedPairPassesOnOrHalts : Obligations.CheckedPairPassesOnOrHalts := by
  unfold Obligations.CheckedPairPassesOnOrHalts
  refine ⟨fun b s j l q v rest hj hl hp hs hr notDue good more => ?passes, fun b s j l q v rest hj hl running hp hs hr =>
    ⟨fun bad last => ?persists, fun good notDue joins => ?adder, fun twice hidden => ?hidden, fun st => ?buffer⟩⟩
  case passes =>
    have drains := pairDrain_passes hj hl hp hr hs good notDue
    rw [if_neg more] at drains
    generalize wardTest j.arith (getF j.cfg 3 0) j.geom v = w at *
    have block := passOn_block s b j rest v w
    exact ⟨_, congrArg Host.Outcome.next drains, by rw [block]; rfl, rreg_wreg_same _ _ _ _,
      wreg_regsBut s .blkWardcnt b.val _, by rw [block], passOn_onlyBlock s b j rest v w, passOn_frame s b j rest v w⟩
  case persists =>
    obtain ⟨halted, ended, stopped, queue, acc, only, mem, log⟩ := persists_facts hl running j q (drainTest j q v)
    obtain ⟨-, attempt, -, -, -⟩ := rreg_noteMismatch_wardlog s b j q (drainTest j q v)
    exact ⟨_, congrArg Host.Outcome.next (pairDrain_persists hj hl hp hr hs bad last), halted, ended, stopped, queue,
      by rw [log]; exact attempt, acc, only, mem⟩
  case adder =>
    obtain ⟨halted, ended, -, -, acc, only, mem, log⟩ := persists_facts hl running j q (drainTest j q v)
    obtain ⟨valid, -, -, -, pair⟩ := rreg_noteMismatch_wardlog s b j q (drainTest j q v)
    exact ⟨_, congrArg Host.Outcome.next (pairDrain_adder_persists hj hl hp hr hs good notDue joins), halted, ended,
      by rw [log]; exact valid, by rw [log]; exact pair, acc, only, mem⟩
  case hidden => exact congrArg Host.Outcome.next (pairDrain_adder_hidden hj hl hp hr hs hidden)
  case buffer =>
    exact ⟨_, congrArg Host.Outcome.next (pairDrain_buffer hj hl hp hr hs st), bufferEnds_facts hl running j st.val⟩

end Sys2Proof.Machine
end

section
/-! SUPPORT. The value of an array instruction goes to its slot (R68, R69, R109, R111). -/

namespace Sys2Proof.Machine

/-! ### Rows of accumulator memory -/

theorem accAt_accPut_out (k : Block) {slot row col key : Nat} {vs : List Word}
    (h : key < accKey slot row col ∨ accKey slot row col + vs.length ≤ key) :
    (accPut k slot row col vs).accAt key = k.accAt key :=
  sget_sput_out _ _ _ _ _ _ h

theorem accRow_accPut_same (k : Block) (slot row col : Nat) (vs : List Word) :
    accRow (accPut k slot row col vs) slot row col vs.length = vs :=
  srange_sput_same _ _ _ _

theorem accRow_eq_accAt (k : Block) (slot row col n : Nat) :
    accRow k slot row col n = (List.range n).map (fun i => k.accAt (accKey slot row col + i)) :=
  srange_eq_map _ _ _ _

/-- A row outside what is written reads as before. -/
theorem accRow_accPut_out (k : Block) {slot row col row' col' n : Nat} {vs : List Word}
    (h : accKey slot row' col' + n ≤ accKey slot row col) :
    accRow (accPut k slot row col vs) slot row' col' n = accRow k slot row' col' n := by
  rw [accRow_eq_accAt, accRow_eq_accAt]
  apply List.map_congr_left
  intro i hi
  have hi := List.mem_range.mp hi
  exact accAt_accPut_out k (.inl (by omega))

/-- A block with the first `n` rows of 128 words of a value written to a slot. -/
def putValue (k : Block) (slot : Nat) (v : List Word) (n : Nat) : Block :=
  (List.range n).foldl (fun k i => accPut k slot i 0 ((v.drop (i * 128)).take 128)) k

theorem putValue_succ (k : Block) (slot : Nat) (v : List Word) (n : Nat) :
    putValue k slot v (n + 1) = accPut (putValue k slot v n) slot n 0 ((v.drop (n * 128)).take 128) := by
  unfold putValue
  rw [List.range_succ, List.foldl_append]
  rfl

theorem putValue_frame (k : Block) (slot : Nat) (v : List Word) (n : Nat) :
    putValue k slot v n = { k with acc := (putValue k slot v n).acc } := by
  induction n with
  | zero => rfl
  | succ n ih =>
    rw [putValue_succ]
    unfold accPut
    rw [ih]

theorem putValue_out (k : Block) {slot n key : Nat} (v : List Word) (h : key < accKey slot 0 0 ∨ accKey slot n 0 ≤ key) :
    (putValue k slot v n).accAt key = k.accAt key := by
  induction n with
  | zero => rfl
  | succ n ih =>
    have short : ((v.drop (n * 128)).take 128).length ≤ 128 := List.length_take_le 128 _
    have next : accKey slot (n + 1) 0 = accKey slot n 0 + 128 := by unfold accKey; omega
    have first : accKey slot 0 0 ≤ accKey slot n 0 := by unfold accKey; omega
    rw [putValue_succ, accAt_accPut_out _ (h.imp first.trans_lt' (by omega))]
    exact ih (h.imp_right (by omega))

theorem putValue_row (k : Block) {slot n i : Nat} {v : List Word} (hv : n * 128 ≤ v.length) (hi : i < n) :
    accRow (putValue k slot v n) slot i 0 128 = (v.drop (i * 128)).take 128 := by
  induction n with
  | zero => omega
  | succ n ih =>
    rw [putValue_succ]
    obtain before | rfl := Nat.lt_succ_iff_lt_or_eq.mp hi
    · rw [accRow_accPut_out _ (by unfold accKey; omega)]
      exact ih (by omega) before
    · have full : ((v.drop (i * 128)).take 128).length = 128 := by
        rw [List.length_take, List.length_drop]
        omega
      have row := accRow_accPut_same (putValue k slot v i) slot i 0 ((v.drop (i * 128)).take 128)
      rwa [full] at row

/-- A value of one part that overwrites its slot is written row by row (R111). -/
theorem writeSlot_whole (k : Block) {j : ArrayJob} {g : PartGeom} {v : List Word} (hg : j.geom = [g]) (ho : j.ovw = true)
    (hr : g.r0 = 0) (hc : g.c0 = 0) (hn : g.nc = 128) : writeSlot k j [v] = putValue k j.acc v g.nr := by
  simp [writeSlot, putValue, hg, ho, hr, hc, hn]

/-! ### The end of the job -/

/-- The block with the job over and its value in the slot. -/
def slotWritten (j : ArrayJob) (k : Block) : Block :=
  writeSlot { k with intSat := k.intSat || (rootNode j.arith j.compat j.tree).2, job := none } j
    (rootNode j.arith j.compat j.tree).1

theorem finishJob_slot (s : State) (b : Fin 48) (l : Launch) {j : ArrayJob} (hf : j.fin = .slot) : finishJob s b l j =
    retire (junkStreamed (modBlk s b (slotWritten j)) b j.word) b .array := by
  unfold finishJob
  simp only [hf, modBlk_modBlk]
  rfl

section Slot

variable {j : ArrayJob} {g : PartGeom} {v : List Word} (hg : j.geom = [g]) (ho : j.ovw = true) (hr : g.r0 = 0) (hc : g.c0 = 0)
  (hn : g.nc = 128) (root : (rootNode j.arith j.compat j.tree).1 = [v]) (k : Block)
include hg ho hr hc hn root

theorem slotWritten_whole : slotWritten j k =
    putValue { k with intSat := k.intSat || (rootNode j.arith j.compat j.tree).2, job := none } j.acc v g.nr := by
  unfold slotWritten
  rw [root]
  exact writeSlot_whole _ hg ho hr hc hn

/-- The value's rows are in the slot, the job is over, and the rest of accumulator memory reads as before. -/
theorem slotWritten_facts (long : v.length = g.nr * 128) :
    (slotWritten j k).job = none ∧ (slotWritten j k).arrayQ = k.arrayQ ∧ (slotWritten j k).scratch = k.scratch ∧
    (∀ i < g.nr, accRow (slotWritten j k) j.acc i 0 128 = (v.drop (i * 128)).take 128) ∧
    ∀ key, (key < accKey j.acc 0 0 ∨ accKey j.acc g.nr 0 ≤ key) → (slotWritten j k).accAt key = k.accAt key := by
  rw [slotWritten_whole hg ho hr hc hn root k]
  refine ⟨?_, ?_, ?_, fun i hi => putValue_row _ long.ge hi, fun key out => (putValue_out _ v out).trans rfl⟩ <;>
    rw [putValue_frame]

end Slot

/-- Settles O16: the root of the tree is written over the slot, and the end of the instruction leaves the slot alone. -/
theorem finalValueGoesToItsSlot : Obligations.FinalValueGoesToItsSlot := by
  unfold Obligations.FinalValueGoesToItsSlot
  intro b s j l q v g value hj hl hp hs hr notDue good last hf ho hg hr0 hc0 hnc _ root long
  have drains := pairDrain_passes hj hl hp hr hs good notDue
  rw [if_pos last, finishJob_slot _ b l (j := j.passedOn [] v) hf] at drains
  generalize wardTest j.arith (getF j.cfg 3 0) j.geom v = w at *
  have before := passOn_block s b j [] v w
  have others := passOn_onlyBlock s b j [] v w
  have passed := passOn_frame s b j [] v w
  generalize passOn s b j [] v w = u at *
  have written := modBlk_same u b (slotWritten (j.passedOn [] v))
  obtain ⟨none, queue, scratch, rows, rest⟩ :=
    slotWritten_facts (j := j.passedOn [] v) hg ho hr0 hc0 hnc root u.blocks[b] long
  have only := modBlk_onlyBlock u b (slotWritten (j.passedOn [] v))
  have frame : modBlk u b (slotWritten (j.passedOn [] v)) =
      { u with blocks := (modBlk u b (slotWritten (j.passedOn [] v))).blocks } := rfl
  generalize modBlk u b (slotWritten (j.passedOn [] v)) = x at *
  obtain ⟨frame', only', block⟩ := retire_junkStreamed x b (j.passedOn [] v).word
  refine ⟨_, congrArg Host.Outcome.next drains, ?_⟩
  generalize retire (junkStreamed x b (j.passedOn [] v).word) b .array = t at *
  rw [written] at block
  refine ⟨by rw [block]; exact none, ?queue, fun i hi => ?row, fun key out => ?out, ?scratch,
    (others.trans only).trans only', ?frame⟩
  case queue =>
    rw [block, queue, before]
  case row =>
    rw [block]
    exact rows i hi
  case out =>
    rw [block]
    refine (rest key out).trans ?_
    rw [before]
    rfl
  case scratch =>
    rw [block, scratch, before]
  case frame => rw [frame', frame, passed]

end Sys2Proof.Machine
end

section
/-! SUPPORT. Channels mapped out and back, and the record that says so (R429, R588, R641, R743); the injected failure (R102). -/

namespace Sys2Proof.Machine

/-- A requested record is in the Keyring's queue (R588). -/
theorem mem_krgReq (s : State) (idx : Nat) (body : KBody) :
    ∃ r ∈ (krgReq s idx body).krg.queue, r.index = idx ∧ r.body = body := by
  unfold krgReq
  dsimp only
  split
  · next full =>
    obtain ⟨r, queued, same⟩ := List.any_eq_true.mp full.2
    have index : r.index = idx := by
      simp only [Bool.and_eq_true, decide_eq_true_eq] at same
      exact same.2
    refine ⟨{ r with body := body }, List.mem_map.mpr ⟨r, queued, ?_⟩, index, rfl⟩
    rw [if_pos same]
  · exact ⟨_, List.mem_append_right _ List.mem_cons_self, rfl, rfl⟩

theorem setNext_regs (s : State) (i : Fin 24) (n : Nat) : (setNext s i n).regs = (wfld s .stkChmap i.val 31 16 n).regs := by
  unfold setNext
  dsimp only
  rw [krgReq_frame]

/-- NEXT takes its new value, OUT stays, and a CHMAP record with both is requested. -/
theorem setNext_facts (s : State) (i : Fin 24) {n : Nat} (hn : n < 65536) :
    rfld (setNext s i n) .stkChmap i.val 31 16 = n ∧
    rfld (setNext s i n) .stkChmap i.val 15 0 = rfld s .stkChmap i.val 15 0 ∧
    (∃ r ∈ (setNext s i n).krg.queue, r.index = i.val ∧
      r.body = .chmap (rfld s .stkChmap i.val 15 0) (rfld (setNext s i n) .stkChmap i.val 31 16)) ∧
    RegsBut [regAddr .stkChmap i.val] s (setNext s i n) ∧
    setNext s i n = { s with regs := (setNext s i n).regs, krg := (setNext s i n).krg } := by
  have read (hi lo : Nat) : rfld (setNext s i n) .stkChmap i.val hi lo =
      rfld (wfld s .stkChmap i.val 31 16 n) .stkChmap i.val hi lo := by
    unfold rfld rreg
    rw [setNext_regs]
  have next : rfld (setNext s i n) .stkChmap i.val 31 16 = n := by
    rw [read, rfld_wfld_same _ _ _ _ (by decide)]
    exact Nat.mod_eq_of_lt hn
  have out : rfld (wfld s .stkChmap i.val 31 16 n) .stkChmap i.val 15 0 = rfld s .stkChmap i.val 15 0 :=
    rfld_wfld_field _ _ _ _ (by decide) (by decide)
  refine ⟨next, (read 15 0).trans out, ?_, (wfld_regsBut s .stkChmap i.val 31 16 n).congr rfl (setNext_regs s i n), ?_⟩
  · rw [next, ← out]
    exact mem_krgReq _ _ _
  · unfold setNext
    dsimp only
    rw [krgReq_frame]
    rfl

theorem rfld_lt (s : State) (r : Reg) (i hi lo : Nat) : rfld s r i hi lo < 2 ^ (hi + 1 - lo) :=
  Nat.mod_lt _ (Nat.two_pow_pos _)

theorem bitsAt_lt {w : Nat} (x : BitVec w) (lo len : Nat) : bitsAt x lo len < 2 ^ len := Nat.mod_lt _ (Nat.two_pow_pos _)

/-- Settles O46: both requests are a `setNext`, the second behind the write of the LK field that the grant covers. -/
theorem channelsAreMappedOutAndBack : Obligations.ChannelsAreMappedOutAndBack := by
  unfold Obligations.ChannelsAreMappedOutAndBack
  refine ⟨fun i v s => ⟨fun full => ?full, fun place bits => ?out⟩,
    fun i v s => ⟨fun closed => ?closed, fun covered place bits => ?back⟩,
    fun b s => next_modBlk (f := fun k => { k with inject := true }) rfl rfl⟩
  case full => exact congrArg Host.Outcome.next (if_pos (.inl full))
  case out =>
    have mapped : memMapreq i v s = setNext s i (rfld s .stkChmap i.val 31 16 ||| bitsAt v 0 16) :=
      if_neg (by simp [place, bits])
    have fits := Nat.or_lt_two_pow (rfld_lt s .stkChmap i.val 31 16) (bitsAt_lt v 0 16)
    exact ⟨_, congrArg Host.Outcome.next mapped, setNext_facts s i fits⟩
  case closed => exact congrArg Host.Outcome.next (if_pos (by simp [closed]))
  case back =>
    have apart : regAddr .stkChmap i.val ≠ regAddr .stkUnmap i.val :=
      regAddr_ne (r := .stkChmap) (q := .stkUnmap) nofun i.isLt i.isLt
    have unmapped : memUnmap i v s = setNext (wfld s .stkUnmap i.val 15 0 (bitsAt v 0 16)) i
        (rfld s .stkChmap i.val 31 16 &&& (0xFFFF - bitsAt v 0 16)) := by
      unfold memUnmap
      rw [if_neg (by simp [covered]), if_neg bits, if_neg (by simp [place])]
    have fits : rfld s .stkChmap i.val 31 16 &&& (0xFFFF - bitsAt v 0 16) < 65536 := Nat.and_lt_two_pow _ (n := 16) (by omega)
    obtain ⟨next, kept, queued, regs, frame⟩ := setNext_facts (wfld s .stkUnmap i.val 15 0 (bitsAt v 0 16)) i fits
    rw [rfld_wfld_reg s 15 0 15 0 _ apart] at kept queued
    refine ⟨_, congrArg Host.Outcome.next unmapped, next, kept, queued, ?_, ?_⟩
    · exact ((wfld_regsBut s .stkUnmap i.val 15 0 _).mono (by simp)).trans (regs.mono (by simp))
    · rw [frame]
      rfl

end Sys2Proof.Machine
end

section
/-! SUPPORT. Stores that the memory controllers accept or refuse (R26, R134, R410, R411, R418-R420, R426, R445, R658). -/

namespace Sys2Proof.Machine

/-! ### A burst read for a store -/

/-- What a burst read for a store leaves, while no lane fails: the condition of its cells, the stack's history of lanes, registers and
LIFE bodies (R418, R422). -/
def BurstNoted (s u : State) : Prop :=
  u = { s with mem := { s.mem with damaged := u.mem.damaged }, regs := u.regs, hlt := u.hlt, stk := u.stk }

theorem BurstNoted.refl (s : State) : BurstNoted s s := rfl

/-- Where no lane reaches its count of errors, noting the lanes changes the stack's history alone (R422). -/
theorem noteLanes_of_lanesHold {s : State} {i : Fin 24} {e : BurstErr} (h : LanesHold s.stk[i] e) :
    noteLanes s i e = { s with stk := (noteLanes s i e).stk } := by
  have none_fails : (badLanes s.stk[i] e).filter (fun p => decide (16 ≤ ((nextHist s.stk[i] e).filter (·.any (· = p))).length)) = [] :=
    List.filter_eq_nil_iff.mpr fun p hp => by simpa using h p hp
  unfold noteLanes
  dsimp only
  rw [none_fails, List.foldl_nil]
  split <;> rfl

theorem countCorr_noted {s : State} {a : Nat} {e : BurstErr} (h : LanesHold (stackOfDpa s a) e) :
    BurstNoted s (countCorr s a e) := by
  unfold BurstNoted countCorr
  dsimp only
  rw [noteLanes_of_lanesHold (by exact h)]
  rfl

theorem damage_noted (s : State) (a : Nat) : BurstNoted s (damage s a) := by
  unfold BurstNoted damage
  split <;> rfl

/-! ### A store that is accepted -/

/-- `t` is `s` once a store's bytes have taken effect under their masks: the store waits no longer, and its beat has left its half
if it crosses (R26, R410). -/
def StoreAccepted (k : Nat) (p : PendStore) (s t : State) : Prop :=
  t.mem.bytes = sput zeroFill s.mem.bytes p.addr (mergeMask (memBytes s p.addr p.data.length) p.data) ∧
  t.mem.stores = s.mem.stores.eraseIdx k ∧ t.mem.rereads = s.mem.rereads ∧
  t.hinge = (if p.crosses then (hingeSend s p.src.half 1).hinge else s.hinge) ∧
  t = { s with mem := t.mem, flagReqs := t.flagReqs, halves := t.halves, regs := t.regs, hlt := t.hlt, stk := t.stk, hinge := t.hinge }

theorem mergeMask_length {old : List Byte} {bs : List (Byte × Byte)} (h : old.length = bs.length) :
    (mergeMask old bs).length = bs.length := by
  simp [mergeMask, h]

section StoreAccepted

variable {k : Nat} {p : PendStore} {s t : State} (h : StoreAccepted k p s t)
include h

/-- The bytes are there. -/
theorem StoreAccepted.memBytes :
    memBytes t p.addr p.data.length = mergeMask (memBytes s p.addr p.data.length) p.data := by
  obtain ⟨bytes, -⟩ := h
  have length : (mergeMask (Machine.memBytes s p.addr p.data.length) p.data).length = p.data.length :=
    mergeMask_length (srange_length _ _ _ _)
  have read := srange_sput_same zeroFill s.mem.bytes p.addr (mergeMask (Machine.memBytes s p.addr p.data.length) p.data)
  rw [length, ← bytes] at read
  exact read

/-- Every other byte is as it was. -/
theorem StoreAccepted.memByte {a : Nat} (out : a < p.addr ∨ p.addr + p.data.length ≤ a) : memByte t a = memByte s a := by
  obtain ⟨bytes, -⟩ := h
  have length : (mergeMask (Machine.memBytes s p.addr p.data.length) p.data).length = p.data.length :=
    mergeMask_length (srange_length _ _ _ _)
  unfold Machine.memByte
  rw [bytes]
  exact sget_sput_out _ _ _ _ _ _ (by rw [length]; exact out)

end StoreAccepted

theorem dropStore_stores (s : State) (k : Nat) (p : PendStore) (ok : Bool) :
    (dropStore s k p ok).mem = { s.mem with stores := s.mem.stores.eraseIdx k } := by
  unfold dropStore
  dsimp only
  split <;> rfl

/-- What accepting a store changes, the Hinge's credits among it if it crosses. -/
theorem acceptStore_eq (s : State) (k : Nat) (p : PendStore) : ∃ poison damaged flagReqs, acceptStore s k p =
    { s with
      mem := { s.mem with
        bytes := sput zeroFill s.mem.bytes p.addr (mergeMask (memBytes s p.addr p.data.length) p.data)
        poison := poison, damaged := damaged, stores := s.mem.stores.eraseIdx k }
      flagReqs := flagReqs, hinge := if p.crosses then (hingeSend s p.src.half 1).hinge else s.hinge } := by
  refine ⟨(acceptStore s k p).mem.poison, (acceptStore s k p).mem.damaged, (acceptStore s k p).flagReqs, ?_⟩
  cases crosses : p.crosses <;> simp only [acceptStore, crosses] <;> rfl

/-- A store that joins its line (Table 10.9). -/
theorem accepted_writeLine (s : State) (k : Nat) (p : PendStore) (c : MscLine) :
    StoreAccepted k p s (writeLine s k p c) ∧
    (writeLine s k p c).regs = s.regs ∧ (writeLine s k p c).hlt = s.hlt ∧ (writeLine s k p c).stk = s.stk := by
  obtain ⟨x, y, z, accepts⟩ := acceptStore_eq s k p
  unfold StoreAccepted writeLine
  rw [accepts]
  exact ⟨⟨rfl, rfl, rfl, rfl, rfl⟩, rfl, rfl, rfl⟩

/-- A store that enters its write queue, behind the read of its burst where it needs one (R134, R410, R413). -/
theorem accepted_writeQueue {s u : State} (h : BurstNoted s u) (k : Nat) (p : PendStore) :
    StoreAccepted k p s (writeQueue u k p) ∧
    (writeQueue u k p).regs = u.regs ∧ (writeQueue u k p).hlt = u.hlt ∧ (writeQueue u k p).stk = u.stk := by
  obtain ⟨x, y, z, accepts⟩ := acceptStore_eq u k p
  unfold StoreAccepted writeQueue
  rw [accepts, h]
  exact ⟨⟨rfl, rfl, rfl, rfl, rfl⟩, rfl, rfl, rfl⟩

/-- The burst then stands in its channel's write queue, for the store's launch too (R426). -/
theorem mem_writeQueue (u : State) (k : Nat) (p : PendStore) :
    ∃ x ∈ (writeQueue u k p).mem.wq, x.burst = burstOf p.addr ∧ p.lid ∈ x.lids :=
  ⟨_, List.mem_append_right _ List.mem_cons_self, rfl, List.mem_append_right _ List.mem_cons_self⟩

/-! ### A store that is refused -/

theorem halted_haltLaunch {s : State} {lid : BitVec 32} {l : Launch} (hl : findLaunch s lid = some l) (hr : l.st = .running)
    (code : Nat) (h : HaltAt) : Halted (haltLaunch s lid code h) l code := by
  have named : l.lid = lid := by simpa using List.find?_some hl
  subst named
  exact haltLaunch_running s l.lid code h l hl hr

/-- A request of a unit that fails halts its launch (R419, R426). -/
theorem askHalt_halts {s : State} {q : Asker} {l : Launch} (unit : q.unit.own = false) (hl : findLaunch s q.lid = some l)
    (hr : l.st = .running) (code stack reg : Nat) : Halted (askHalt s q code stack reg) l code := by
  unfold askHalt
  split
  · next own => rw [own] at unit; cases unit
  · next own => rw [own] at unit; cases unit
  · exact halted_haltLaunch hl hr _ _
  · exact halted_haltLaunch hl hr _ _

/-- A refused store leaves those waiting, changes no byte, and halts its launch (R419, R426). -/
theorem refuseStore_halts {s u : State} {p : PendStore} {l : Launch} (h : BurstNoted s u) (unit : p.src.own = false)
    (hl : findLaunch s p.lid = some l) (hr : l.st = .running) (k code : Nat) :
    let t := refuseStore u k p code
    Halted t l (0x3A00 + code) ∧ t.mem.bytes = s.mem.bytes ∧ t.mem.stores = s.mem.stores.eraseIdx k ∧ t.blocks = s.blocks ∧
      t.halves = s.halves := by
  obtain ⟨r, x, log⟩ := logMem_frame (dropStore u k p false) (512 * burstOf p.addr) code
  have found : findLaunch (logMem (dropStore u k p false) (512 * burstOf p.addr) code) p.asker.lid = some l :=
    (findLaunch_congr (by rw [log, h]; rfl) p.lid).trans hl
  refine ⟨askHalt_halts unit found hr _ _ _, ?_⟩
  unfold refuseStore memFault burstFault
  dsimp only [List.foldl_cons, List.foldl_nil]
  rw [askHalt_told, log, h]
  exact ⟨rfl, rfl, rfl, rfl⟩

/-- A change of a region that is none of its buffer's. -/
theorem modRgn_rbufs (s : State) (r : Fin 8) {f : Region → Region} (h : ∀ g, (f g).rbuf = g.rbuf) :
    (modRgn s r f).regions.map (·.rbuf) = s.regions.map (·.rbuf) := by
  rw [modRgn_regions, Vector.map_set, h]
  exact Vector.ext fun i hi => by rw [Vector.getElem_set]; split <;> simp_all

theorem modRun_rbufs (s : State) (u : WaitUnit) (f : ListRun → ListRun) :
    (modRun s u f).regions.map (·.rbuf) = s.regions.map (·.rbuf) := by
  cases u
  case sce r => exact modRgn_rbufs s r fun _ => rfl
  case rve r => exact modRgn_rbufs s r fun _ => rfl
  all_goals rfl

/-- A unit stopped by a fault of its own halts its launch and leaves every region buffer (R565, R658). -/
theorem unitHalt_halts {s : State} {q : WaitUnit} {lid : BitVec 32} {l : Launch} (unit : q.own = false)
    (mine : ∀ b, q = .blk b → s.blocks[b].lid = some lid) (hl : findLaunch s lid = some l) (hr : l.st = .running)
    (code idx reg : Nat) : Halted (unitHalt s q lid code idx reg) l code ∧
      (unitHalt s q lid code idx reg).regions.map (·.rbuf) = s.regions.map (·.rbuf) := by
  unfold unitHalt
  split
  · next b =>
    refine ⟨?_, by rw [blkHalt_regions]⟩
    unfold blkHalt
    rw [mine b rfl]
    exact halted_haltLaunch (s := stopBlk s b) hl hr _ _
  · have found : findLaunch (modRun s q (fun u => { u with stopped := true })) lid = some l :=
      (findLaunch_congr (by cases q <;> rfl) lid).trans hl
    refine ⟨halted_haltLaunch found hr _ _, ?_⟩
    rw [haltLaunch_frame]
    exact modRun_rbufs s q _

/-! ### The commands -/

section Commands

variable {k : Nat} {s : State} {p : PendStore} (next : storeNext (memApply s) k = some p)
include next

/-- A store whose burst is in a line of its launch's ways joins it. -/
theorem memoryWrite_line {c : MscLine} (hit : mscLine (memApply s) p.addr (p.asker.job (memApply s)) = some c) :
    memoryWrite k s = writeLine (memApply s) k p c := by
  unfold memoryWrite
  simp only [next, hit]

variable (miss : mscLine (memApply s) p.addr (p.asker.job (memApply s)) = none)
include miss

theorem memoryWrite_queue (up : readLink (memApply s) p.addr ≠ some false) (whole : p.whole = true)
    (room : queueFull (memApply s) p.addr = false) : memoryWrite k s = writeQueue (memApply s) k p := by
  unfold memoryWrite
  simp only [next, miss]
  exact if_pos ⟨whole, by simp [room]⟩

theorem memoryWrite_part (up : readLink (memApply s) p.addr ≠ some false) (part : p.whole = false) :
    memoryWrite k s = memApply s := by
  unfold memoryWrite
  simp only [next, miss]
  exact if_neg (by simp [part])

theorem memoryWrite_down (down : readLink (memApply s) p.addr = some false) :
    memoryWrite k s = refuseStore (memApply s) k p 1 := by
  unfold memoryWrite
  simp only [next, miss, down]

section Part

variable (part : p.whole = false) (room : queueFull (memApply s) (512 * burstOf p.addr) = false) (e : BurstErr)
include part room

/-- A part of a burst that stands in its write queue is merged there. -/
theorem readModifyWrite_queued (up : readLink (memApply s) (512 * burstOf p.addr) ≠ some false)
    (stands : queued (memApply s) (512 * burstOf p.addr) = true) :
    readModifyWrite k e s = writeQueue (memApply s) k p := by
  unfold readModifyWrite
  simp only [next, miss, part, room, stands]
  simp

variable (up : readLink (memApply s) (512 * burstOf p.addr) = some true)
  (apart : queued (memApply s) (512 * burstOf p.addr) = false)
include up apart

theorem readModifyWrite_undecoded (bad : readsOk (memApply s) (512 * burstOf p.addr) e = false) :
    readModifyWrite k e s = refuseStore (damage (memApply s) (512 * burstOf p.addr)) k p 1 := by
  unfold readModifyWrite
  simp [next, miss, part, room, up, apart, bad]

variable (good : readsOk (memApply s) (512 * burstOf p.addr) e = true)
include good

theorem readModifyWrite_poisoned (bad : poisoned (memApply s) (512 * burstOf p.addr) = true) :
    readModifyWrite k e s = refuseStore (countCorr (memApply s) (512 * burstOf p.addr) e) k p 2 := by
  unfold readModifyWrite
  simp [next, miss, part, room, up, apart, good, bad]

theorem readModifyWrite_decoded (clean : poisoned (memApply s) (512 * burstOf p.addr) = false) :
    readModifyWrite k e s = writeQueue (countCorr (memApply s) (512 * burstOf p.addr) e) k p := by
  unfold readModifyWrite
  simp [next, miss, part, room, up, apart, good, clean]

end Part

end Commands

/-- A store that meets no error on its way is written as its command says. -/
theorem exec_memoryWrite (k : Nat) (s : State) : exec (.memoryWrite ⟨k, .none⟩) s = .next (memoryWrite k s) := rfl

theorem exec_readModifyWrite (k : Nat) (e : BurstErr) (s : State) :
    exec (.readModifyWrite ⟨k, .none⟩ e) s = .next (readModifyWrite k e s) := rfl

/-- One whose fabric word fails its check leaves those waiting, and halts its launch (R658). -/
theorem storeUpset_fabric {s : State} {k : Nat} {p : PendStore} (next : storeNext s k = some p) (unit : p.src.own = false)
    (go : State → State) :
    storeUpset s ⟨k, .fabric true⟩ go = unitHalt (dropStore s k p false) p.src p.lid 0x3E01 p.idx 0 := by
  unfold storeUpset
  simp [next, unit]

/-- A state that an accepted store leaves: where no line took it, its burst stands in its channel's write queue (R410, R445). -/
def StoreDone (k : Nat) (p : PendStore) (s t : State) : Prop :=
  StoreAccepted k p s t ∧
  (mscLine s p.addr (p.asker.job s) = none → ∃ x ∈ t.mem.wq, x.burst = burstOf p.addr ∧ p.lid ∈ x.lids)

section Accepted

variable {k : Nat} {s : State} {p : PendStore} (next : storeNext (memApply s) k = some p)
include next

theorem memoryWrite_done (takes : (mscLine (memApply s) p.addr (p.asker.job (memApply s))).isSome = true ∨
      readLink (memApply s) p.addr ≠ some false ∧ p.whole = true ∧ queueFull (memApply s) p.addr = false) :
    StoreDone k p (memApply s) (memoryWrite k s) ∧ (memoryWrite k s).regs = (memApply s).regs ∧
    (memoryWrite k s).hlt = (memApply s).hlt ∧ (memoryWrite k s).stk = (memApply s).stk := by
  cases line : mscLine (memApply s) p.addr (p.asker.job (memApply s)) with
  | some c =>
    rw [memoryWrite_line next line]
    obtain ⟨accepted, kept⟩ := accepted_writeLine (memApply s) k p c
    exact ⟨⟨accepted, fun miss => by rw [line] at miss; cases miss⟩, kept⟩
  | none =>
    obtain ⟨up, whole, room⟩ := takes.resolve_left (by simp [line])
    rw [memoryWrite_queue next line up whole room]
    obtain ⟨accepted, kept⟩ := accepted_writeQueue (BurstNoted.refl (memApply s)) k p
    exact ⟨⟨accepted, fun _ => mem_writeQueue _ k p⟩, kept⟩

theorem readModifyWrite_done (e : BurstErr) (part : p.whole = false)
    (miss : mscLine (memApply s) p.addr (p.asker.job (memApply s)) = none)
    (room : queueFull (memApply s) (512 * burstOf p.addr) = false)
    (takes : readLink (memApply s) (512 * burstOf p.addr) ≠ some false ∧ queued (memApply s) (512 * burstOf p.addr) = true ∨
      readLink (memApply s) (512 * burstOf p.addr) = some true ∧ readsOk (memApply s) (512 * burstOf p.addr) e = true ∧
        LanesHold (stackOfDpa (memApply s) (512 * burstOf p.addr)) e ∧
        poisoned (memApply s) (512 * burstOf p.addr) = false) :
    StoreDone k p (memApply s) (readModifyWrite k e s) := by
  have queues {u : State} (h : BurstNoted (memApply s) u) : StoreDone k p (memApply s) (writeQueue u k p) :=
    ⟨(accepted_writeQueue h k p).1, fun _ => mem_writeQueue u k p⟩
  cases stands : queued (memApply s) (512 * burstOf p.addr) with
  | true =>
    have up : readLink (memApply s) (512 * burstOf p.addr) ≠ some false := by
      obtain ⟨up, -⟩ | ⟨up, -⟩ := takes
      · exact up
      · simp [up]
    rw [readModifyWrite_queued next miss part room e up stands]
    exact queues (BurstNoted.refl _)
  | false =>
    obtain ⟨up, good, hold, clean⟩ := takes.resolve_left (by simp [stands])
    rw [readModifyWrite_decoded next miss part room e up stands good clean]
    exact queues (countCorr_noted hold)

end Accepted

/-- Settles O43: an accepted store takes effect in its line or its write queue; a refused one halts its launch. -/
theorem storesTakeEffect : Obligations.StoresTakeEffect := by
  unfold Obligations.StoresTakeEffect
  refine ⟨?accepted, ?unread, ?others, ?fabric⟩
  case accepted =>
    rintro i k e s0 s p rfl next (⟨rfl, takes⟩ | ⟨rfl, part, miss, room, takes⟩)
    · obtain ⟨⟨accepted, stands⟩, kept⟩ := memoryWrite_done next takes
      have bytes := accepted.memBytes
      have rest := fun a => accepted.memByte (a := a)
      obtain ⟨-, stores, rereads, hinge, frame⟩ := accepted
      exact ⟨_, exec_memoryWrite k s0, bytes, rest, stores, rereads, stands, hinge, frame, fun _ => kept⟩
    · obtain ⟨accepted, stands⟩ := readModifyWrite_done next e part miss room takes
      have bytes := accepted.memBytes
      have rest := fun a => accepted.memByte (a := a)
      obtain ⟨-, stores, rereads, hinge, frame⟩ := accepted
      exact ⟨_, exec_readModifyWrite k e s0, bytes, rest, stores, rereads, stands, hinge, frame, nofun⟩
  case unread =>
    rintro k e s0 s p l rfl next part unit miss room apart up hl hr
    refine ⟨fun bad => ⟨_, exec_readModifyWrite k e s0, ?undecoded⟩,
      fun good hold bad => ⟨_, exec_readModifyWrite k e s0, ?poisoned⟩⟩
    case undecoded =>
      rw [readModifyWrite_undecoded next miss part room e up apart bad]
      exact refuseStore_halts (damage_noted _ _) unit hl hr k 1
    case poisoned =>
      rw [readModifyWrite_poisoned next miss part room e up apart good bad]
      exact refuseStore_halts (countCorr_noted hold) unit hl hr k 2
  case others =>
    rintro k s0 s p rfl next miss
    refine ⟨fun part up => ?part, fun down unit l hl hr => ⟨_, exec_memoryWrite k s0, ?down⟩⟩
    case part => rw [exec_memoryWrite, memoryWrite_part next miss up part]
    case down =>
      rw [memoryWrite_down next miss down]
      exact refuseStore_halts (BurstNoted.refl _) unit hl hr k 1
  case fabric =>
    intro i k e s p l hi next unit mine hl hr
    have runs : ∃ go, exec (i ⟨k, .fabric true⟩) s = .next (storeUpset s ⟨k, .fabric true⟩ go) := by
      obtain rfl | rfl := hi <;> exact ⟨_, rfl⟩
    obtain ⟨go, runs⟩ := runs
    rw [storeUpset_fabric next unit go] at runs
    obtain ⟨halted, rbufs⟩ := unitHalt_halts (s := dropStore s k p false) unit mine hl hr 0x3E01 p.idx 0
    exact ⟨_, runs, halted, by rw [unitHalt_mem, dropStore_stores], rbufs⟩

end Sys2Proof.Machine
end

section
/-! SUPPORT. Instructions with a zero extent (R126-R128). -/

namespace Sys2Proof.Machine

/-! ### The counts of no-ops -/

theorem modBlk_id (s : State) (b : Fin 48) : modBlk s b (fun k => k) = s := by
  simp [modBlk]

section Counted

variable (s : State) (b : Fin 48) (hi lo : Nat) (u : BUnit)

/-- A counted instruction that changes its block and retires: else one count of BLKn_NOOPCNT. -/
theorem retire_counted_change (f : Block → Block) :
    let t := retire (modBlk (cfld s .blkNoopcnt b.val hi lo 1) b f) b u
    rreg t .blkNoopcnt b.val = satF (rreg s .blkNoopcnt b.val) hi lo 1 ∧ RegsBut [regAddr .blkNoopcnt b.val] s t ∧
    t.blocks[b] = (f s.blocks[b]).setQueue u (((f s.blocks[b]).queue u).drop 1) ∧ OnlyBlock b s t ∧
    t = { s with regs := t.regs, blocks := t.blocks } := by
  refine ⟨rreg_wreg_same s _ _ _, wreg_regsBut s _ _ _, ?_, ?_, rfl⟩
  · rw [retire, modBlk_modBlk]
    exact modBlk_same _ b _
  · exact ((modBlk_onlyBlock (cfld s .blkNoopcnt b.val hi lo 1) b f).trans (retire_onlyBlock _ b u)).congr rfl rfl

theorem retire_counted :
    let t := retire (cfld s .blkNoopcnt b.val hi lo 1) b u
    rreg t .blkNoopcnt b.val = satF (rreg s .blkNoopcnt b.val) hi lo 1 ∧ RegsBut [regAddr .blkNoopcnt b.val] s t ∧
    t.blocks[b] = s.blocks[b].setQueue u ((s.blocks[b].queue u).drop 1) ∧ OnlyBlock b s t ∧
    t = { s with regs := t.regs, blocks := t.blocks } := by
  have counted := retire_counted_change s b hi lo u fun k => k
  rwa [modBlk_id] at counted

end Counted

/-! ### A slot of zeros -/

/-- The rows of a slot that a form writes (R80). -/
def formRows (op : Nat) : Nat := if op = opMMV then 16 else 128

/-- What an instruction with VK of 0 makes of its slot: zeros in every element that its form writes, where OVW is set (R128). -/
def kzeroSlot (d : BitVec 512) (k : Block) : Block :=
  if dOvw d then accPut k (dAcc d) 0 0 (List.replicate (formRows (opOf d) * 128) 0) else k

theorem kzeroSlot_eq (s : State) (b : Fin 48) (d : BitVec 512) :
    (if dOvw d then zeroSlot s b d else s) = modBlk s b (kzeroSlot d) := by
  unfold kzeroSlot
  split
  · rfl
  · exact (modBlk_id s b).symm

theorem kzeroSlot_frame (d : BitVec 512) (k : Block) : kzeroSlot d k = { k with acc := (kzeroSlot d k).acc } := by
  unfold kzeroSlot
  split <;> rfl

theorem kzeroSlot_kept {d : BitVec 512} (h : dOvw d = false) (k : Block) : kzeroSlot d k = k := by
  simp [kzeroSlot, h]

theorem accKey_add_rows (slot n : Nat) : accKey slot 0 0 + n * 128 = accKey slot n 0 := by
  unfold accKey
  omega

theorem accAt_kzeroSlot {d : BitVec 512} (h : dOvw d = true) (k : Block) {key : Nat} (lo : accKey (dAcc d) 0 0 ≤ key)
    (hi : key < accKey (dAcc d) (formRows (opOf d)) 0) : (kzeroSlot d k).accAt key = 0 := by
  obtain ⟨i, rfl⟩ := Nat.exists_eq_add_of_le lo
  rw [← accKey_add_rows (dAcc d) (formRows (opOf d)), Nat.add_lt_add_iff_left] at hi
  unfold kzeroSlot
  rw [if_pos h]
  exact (sget_sput_in k.accD k.acc _ _ i (by rwa [List.length_replicate])).trans (List.getElem_replicate _)

theorem accAt_kzeroSlot_out (d : BitVec 512) (k : Block) {key : Nat}
    (out : key < accKey (dAcc d) 0 0 ∨ accKey (dAcc d) (formRows (opOf d)) 0 ≤ key) :
    (kzeroSlot d k).accAt key = k.accAt key := by
  unfold kzeroSlot
  split
  · refine accAt_accPut_out k ?_
    rw [List.length_replicate, accKey_add_rows]
    exact out
  · rfl

/-! ### Array instructions -/

section ArrayZero

variable {op : Nat} {b : Fin 48} {s : State} {e : UEntry} {l : Launch} (h : front s b op = some (e, l))
  (free : s.blocks[b].job = none) (idle : pendingG s (.blk b) = false)
  (reads : readsWait s b l (fedTouches s b l e.word) = false)
include h free idle reads

theorem startArray_zero
    (zero : (extents s b l e.word).1 = 0 ∨ (extents s b l e.word).2.1 = 0 ∨ (extents s b l e.word).2.2 = 0) :
    startArray op b .none s = arrayZero s b e.word (extents s b l e.word) := by
  unfold startArray
  rw [h]
  dsimp only
  rw [if_neg (by rw [free, reads]; simp), configApply_idle _ _ idle]
  exact if_pos zero

/-- VM or VN of 0 (R126). -/
theorem startArray_noop (zero : (extents s b l e.word).1 = 0 ∨ (extents s b l e.word).2.1 = 0) :
    startArray op b .none s = retire (countNoop s b) b .array := by
  rw [startArray_zero h free idle reads (by tauto)]
  exact if_pos (by tauto)

/-- VK of 0 (R128). -/
theorem startArray_kzero (hm : (extents s b l e.word).1 ≠ 0) (hn : (extents s b l e.word).2.1 ≠ 0)
    (zero : (extents s b l e.word).2.2 = 0) (form : opOf e.word ≠ opATS) :
    startArray op b .none s = retire (modBlk (cfld s .blkNoopcnt b.val 31 16 1) b (kzeroSlot e.word)) b .array := by
  rw [startArray_zero h free idle reads (.inr (.inr zero)), ← kzeroSlot_eq]
  exact if_neg (by tauto)

end ArrayZero

/-- An attention instruction with a zero extent resolves no page. -/
theorem startAttention_zero {op : Nat} {b : Fin 48} {s : State} {e : UEntry} {l : Launch} (h : front s b op = some (e, l))
    (zero : (extents s b l e.word).1 = 0 ∨ (extents s b l e.word).2.1 = 0) (u : Upset) :
    startAttention op b u s = startArray op b u s := by
  unfold startAttention
  rw [h]
  exact if_pos (by tauto)

/-- The array instructions: opcode and command. -/
def arrayOps : List (Nat × (Fin 48 → Upset → Instr)) := arrayForms ++ [(opATS, Instr.ats), (opATV, Instr.atv)]

theorem exec_arrayOp_noop {p : Nat × (Fin 48 → Upset → Instr)} (hp : p ∈ arrayOps) {b : Fin 48} {s : State} {e : UEntry}
    {l : Launch} (h : front s b p.1 = some (e, l)) (free : s.blocks[b].job = none) (idle : pendingG s (.blk b) = false)
    (reads : readsWait s b l (fedTouches s b l e.word) = false)
    (zero : (extents s b l e.word).1 = 0 ∨ (extents s b l e.word).2.1 = 0) :
    exec (p.2 b .none) s = .next (retire (countNoop s b) b .array) := by
  rw [← startArray_noop h free idle reads zero]
  simp only [arrayOps, List.mem_append, List.mem_cons, List.not_mem_nil, or_false] at hp
  obtain form | rfl | rfl := hp
  · exact exec_arrayForm form b .none s
  · exact congrArg _ (startAttention_zero h zero .none)
  · exact congrArg _ (startAttention_zero h zero .none)

/-! ### Drains, loads and stores -/

section Unit

variable {b : Fin 48} {s : State} {e : UEntry} {l : Launch}

theorem exec_drn_noop (h : front s b opDRN = some (e, l))
    (zero : (extents s b l e.word).1 = 0 ∨ (extents s b l e.word).2.1 = 0) :
    exec (.drn b .none) s = .next (retire (countNoop s b) b .drain) := by
  simp only [exec, execDrn, h]
  exact congrArg _ (if_pos zero)

theorem exec_stt_noop (h : front s b opSTT = some (e, l)) (zero : (tileExtents l e.word).1 = 0 ∨ (tileExtents l e.word).2 = 0) :
    exec (.stt b .none) s = .next (retire (countNoop s b) b .drain) := by
  simp only [exec, execStt, h]
  exact congrArg _ (if_pos zero)

theorem exec_ldt_noop (h : front s b opLDT = some (e, l)) (free : bankHeld s b e.word = false)
    (reads : readsWait s b l (touches s b l e.word) = false)
    (zero : (tileExtents l e.word).1 = 0 ∨ (tileExtents l e.word).2 = 0) :
    exec (.ldt b .none) s = .next (retire (countNoop s b) b .load) := by
  simp only [exec, execLdt, h]
  rw [if_neg (by simp [free, reads])]
  exact congrArg _ (if_pos zero)

end Unit

theorem arrayOps_not_drain : ∀ p ∈ arrayOps, p.1 ≠ opDRN := by
  simp [arrayOps, arrayForms, opMMF, opMMH, opMMQ, opMMV, opCVI, opCVD, opATS, opATV, opDRN]

/-- Settles O5: every form that finds a zero extent is a count and a retirement; one with OVW set lays its zeros first. -/
theorem zeroExtentIsCountedNoop : Obligations.ZeroExtentIsCountedNoop := by
  unfold Obligations.ZeroExtentIsCountedNoop
  refine ⟨?array, ?tiles, ?kzero⟩
  case array =>
    intro p hp b s e l h may zero
    have split : p ∈ arrayOps ∨ p = (opDRN, Instr.drn) := by simpa [arrayOps, arrayForms, or_assoc] using hp
    obtain hp | rfl := split
    · have notDrain := arrayOps_not_drain p hp
      obtain ⟨free, idle, reads⟩ := may.resolve_left notDrain
      rw [if_neg notDrain]
      exact ⟨_, exec_arrayOp_noop hp h free idle reads zero, retire_counted s b 15 0 .array⟩
    · exact ⟨_, exec_drn_noop h zero, retire_counted s b 15 0 .drain⟩
  case tiles =>
    intro p hp b s e l h may zero
    simp only [List.mem_cons, List.not_mem_nil, or_false] at hp
    obtain rfl | rfl := hp
    · obtain ⟨free, reads⟩ := may.resolve_left (by decide)
      exact ⟨_, exec_ldt_noop h free reads zero, retire_counted s b 15 0 .load⟩
    · exact ⟨_, exec_stt_noop h zero, retire_counted s b 15 0 .drain⟩
  case kzero =>
    intro p hp b s e l h free idle reads hm hn zero
    have notScore : opOf e.word ≠ opATS := by
      obtain ⟨-, attn, -⟩ := arrayForms_unit p hp
      rw [front_op h]
      rintro same
      simp [isAttnOp, same] at attn
    have runs := startArray_kzero h free idle reads hm hn zero notScore
    refine ⟨_, (exec_arrayForm hp b .none s).trans (congrArg _ runs), ?_⟩
    obtain ⟨count, regs, block, only, frame⟩ := retire_counted_change s b 31 16 .array (kzeroSlot e.word)
    have rows : (if p.1 = opMMV then 16 else 128) = formRows (opOf e.word) := by rw [front_op h]; rfl
    rw [rows]
    refine ⟨count, regs, fun kept => ?kept, fun ovw key lo hi => ?zeros, fun key out => ?out, ?block, only, frame⟩
    case kept =>
      rw [block, kzeroSlot_kept kept]
      rfl
    case zeros =>
      rw [block]
      exact accAt_kzeroSlot ovw _ lo hi
    case out =>
      rw [block]
      exact accAt_kzeroSlot_out e.word _ out
    case block =>
      rw [block, kzeroSlot_frame]
      rfl

end Sys2Proof.Machine
end

section
/-! SUPPORT. Writing the rows of a tile to a space of a block (R129, R132, R133, Table 3.3). -/

namespace Sys2Proof.Machine

/-! ### Masked writes -/

/-- A row of masked bytes merged into a store. -/
def mergeRowAt (d : Nat → Byte) (m : Store 8) (x : Nat × List (Byte × Byte)) : Store 8 :=
  sput d m x.1 (mergeMask (srange d m x.1 x.2.length) x.2)

theorem setBank_bank (k : Block) (i : Nat) (m : Store 8) : (k.setBank i m).bank i = m := by
  rcases i with _ | _ | i <;> rfl

theorem setBank_bankD (k : Block) (i : Nat) (m : Store 8) : (k.setBank i m).bankD i = k.bankD i := by
  rcases i with _ | _ | i <;> rfl

theorem setBank_setBank (k : Block) (i : Nat) (m n : Store 8) : (k.setBank i m).setBank i n = k.setBank i n := by
  rcases i with _ | _ | i <;> rfl

theorem setBank_self (k : Block) (i : Nat) : k.setBank i (k.bank i) = k := by
  rcases i with _ | _ | i <;> rfl

/-- A row written to one of a block's own stores. -/
def rowPut (sp : Space) (k : Block) (x : Nat × List (Byte × Byte)) : Block :=
  match sp with
  | .bank i => k.setBank i (mergeRowAt (k.bankD i) (k.bank i) x)
  | .scratch => { k with scratch := mergeRowAt zeroFill k.scratch x }
  | _ => k

/-- The rows of a tile written to one of a block's own stores. -/
def tilePut (sp : Space) (rows : List (Nat × List (Byte × Byte))) (k : Block) : Block := rows.foldl (rowPut sp) k

theorem tilePut_scratch (rows : List (Nat × List (Byte × Byte))) (k : Block) :
    tilePut .scratch rows k = { k with scratch := rows.foldl (mergeRowAt zeroFill) k.scratch } := by
  unfold tilePut
  induction rows generalizing k with
  | nil => rfl
  | cons x xs ih => exact ih _

theorem tilePut_bank (i : Nat) (rows : List (Nat × List (Byte × Byte))) (k : Block) :
    tilePut (.bank i) rows k = k.setBank i (rows.foldl (mergeRowAt (k.bankD i)) (k.bank i)) := by
  unfold tilePut
  induction rows generalizing k with
  | nil => exact (setBank_self k i).symm
  | cons x xs ih =>
    rw [List.foldl_cons, ih]
    unfold rowPut
    dsimp only
    rw [setBank_bank, setBank_bankD, setBank_setBank]
    rfl

theorem rowPut_frame (sp : Space) (k : Block) (x : Nat × List (Byte × Byte)) : rowPut sp k x = { k with
    bankA0 := (rowPut sp k x).bankA0, bankA1 := (rowPut sp k x).bankA1, bankB := (rowPut sp k x).bankB
    scratch := (rowPut sp k x).scratch } := by
  rcases sp with (_ | _ | i) | _ | _ | _ <;> rfl

/-- Writing a tile changes nothing of a block but its byte stores. -/
theorem tilePut_frame (sp : Space) (rows : List (Nat × List (Byte × Byte))) (k : Block) : tilePut sp rows k = { k with
    bankA0 := (tilePut sp rows k).bankA0, bankA1 := (tilePut sp rows k).bankA1, bankB := (tilePut sp rows k).bankB
    scratch := (tilePut sp rows k).scratch } := by
  unfold tilePut
  induction rows generalizing k with
  | nil => rfl
  | cons x xs ih =>
    rw [List.foldl_cons, ih, rowPut_frame]

/-! ### A change of one region -/

theorem modRgn_same (s : State) (r : Fin 8) (f : Region → Region) : (modRgn s r f).regions[r] = f s.regions[r] := by simp

theorem modRgn_onlyRegion (s : State) (r : Fin 8) (f : Region → Region) : OnlyRegion r s (modRgn s r f) := by
  intro c hc
  simp [Fin.val_ne_of_ne hc.symm]

theorem modRgn_modRgn (s : State) (r : Fin 8) (f g : Region → Region) :
    modRgn (modRgn s r f) r g = modRgn s r (fun k => g (f k)) := by
  simp [modRgn]

theorem OnlyRegion.trans {r : Fin 8} {s t u : State} (h : OnlyRegion r s t) (k : OnlyRegion r t u) : OnlyRegion r s u :=
  fun c hc => (k c hc).trans (h c hc)

theorem OnlyRegion.congr {r : Fin 8} {s s' t t' : State} (h : OnlyRegion r s t) (hs : s'.regions = s.regions)
    (ht : t'.regions = t.regions) : OnlyRegion r s' t' := by
  unfold OnlyRegion
  rw [hs, ht]
  exact h

/-! ### Rows written to a space -/

theorem spPut_eq {sp : Space} (h : sp ≠ .rbuf) (s : State) (b : Fin 48) (a : Nat) (bs : List (Byte × Byte)) :
    spPut s b sp a bs = modBlk s b (fun k => rowPut sp k (a, bs)) := by
  cases sp with
  | bank i => rfl
  | scratch => rfl
  | rbuf => contradiction
  | mem => exact (modBlk_id s b).symm

/-- Rows written anywhere but to the region buffer are a change of the block. -/
theorem putRows_eq {sp : Space} (h : sp ≠ .rbuf) (s : State) (b : Fin 48) (rows : List (Nat × List (Byte × Byte))) :
    putRows s b sp rows = modBlk s b (tilePut sp rows) := by
  unfold putRows tilePut
  induction rows generalizing s with
  | nil => exact (modBlk_id s b).symm
  | cons x xs ih => rw [List.foldl_cons, ih, spPut_eq h, modBlk_modBlk]; rfl

/-- Rows written to the region buffer are a change of its region's buffer. -/
theorem putRows_rbuf (s : State) (b : Fin 48) (rows : List (Nat × List (Byte × Byte))) :
    ∃ f : Region → Region, putRows s b .rbuf rows = modRgn s (rgnOf b) f := by
  unfold putRows
  induction rows generalizing s with
  | nil => exact ⟨fun r => r, by simp [modRgn]⟩
  | cons x xs ih =>
    obtain ⟨f, later⟩ := ih (spPut s b .rbuf x.1 x.2)
    exact ⟨_, later.trans (modRgn_modRgn s (rgnOf b) _ f)⟩

/-- What writing a tile to a space of a block can change: the block's byte stores, and its region's buffer where the space is
that. -/
def TileChange (b : Fin 48) (sp : Space) (s t : State) : Prop :=
  t.blocks[b] = { s.blocks[b] with
    bankA0 := t.blocks[b].bankA0, bankA1 := t.blocks[b].bankA1, bankB := t.blocks[b].bankB, scratch := t.blocks[b].scratch } ∧
  OnlyBlock b s t ∧ OnlyRegion (rgnOf b) s t ∧ t = { s with blocks := t.blocks, regions := t.regions } ∧
  (sp ≠ .rbuf → t = { s with blocks := t.blocks })

theorem TileChange.trans {b : Fin 48} {sp sp' : Space} {s t u : State} (h : TileChange b sp s t) (k : TileChange b sp' t u)
    (hsp : sp = sp' ∨ sp ≠ .rbuf) : TileChange b sp' s u := by
  obtain ⟨block, only, region, frame, own⟩ := h
  obtain ⟨block', only', region', frame', own'⟩ := k
  refine ⟨by rw [block', block], only.trans only', region.trans region', by rw [frame', frame], fun apart => ?_⟩
  have before : sp ≠ .rbuf := by
    obtain rfl | before := hsp
    · exact apart
    · exact before
  rw [own' apart, own before]

theorem tileChange_modBlk (s : State) (b : Fin 48) (sp : Space) {f : Block → Block}
    (h : ∀ k, f k = { k with bankA0 := (f k).bankA0, bankA1 := (f k).bankA1, bankB := (f k).bankB, scratch := (f k).scratch }) :
    TileChange b sp s (modBlk s b f) := by
  refine ⟨?_, modBlk_onlyBlock s b f, fun _ _ => rfl, rfl, fun _ => rfl⟩
  rw [modBlk_same]
  exact h _

theorem TileChange.refl (b : Fin 48) (sp : Space) (s : State) : TileChange b sp s s :=
  ⟨rfl, fun _ _ => rfl, fun _ _ => rfl, rfl, fun _ => rfl⟩

theorem putRows_change (s : State) (b : Fin 48) (sp : Space) (rows : List (Nat × List (Byte × Byte))) :
    TileChange b sp s (putRows s b sp rows) := by
  by_cases hsp : sp = .rbuf
  · subst hsp
    obtain ⟨f, puts⟩ := putRows_rbuf s b rows
    rw [puts]
    exact ⟨rfl, fun _ _ => rfl, modRgn_onlyRegion s _ f, rfl, fun apart => absurd rfl apart⟩
  · rw [putRows_eq hsp]
    exact tileChange_modBlk s b sp (tilePut_frame sp rows)

/-- The instruction that wrote a tile retires. -/
theorem TileChange.retire {b : Fin 48} {sp : Space} {s u : State} (h : TileChange b sp s u) (q : BUnit) :
    let t := retire u b q
    t.blocks[b].acc = s.blocks[b].acc ∧ t.blocks[b].queue q = (s.blocks[b].queue q).drop 1 ∧
    OnlyBlock b s t ∧ OnlyRegion (rgnOf b) s t ∧ t = { s with blocks := t.blocks, regions := t.regions } ∧
    (sp ≠ .rbuf → t = { s with blocks := t.blocks }) := by
  obtain ⟨block, only, region, frame, own⟩ := h
  have retired : (Machine.retire u b q).blocks[b] = u.blocks[b].setQueue q ((u.blocks[b].queue q).drop 1) := modBlk_same u b _
  refine ⟨?acc, ?queue, only.trans (retire_onlyBlock u b q), region, ?frame, fun apart => ?own⟩
  case acc =>
    rw [retired, setQueue_frame, block]
  case queue =>
    rw [retired, queue_setQueue_same, block]
    cases q <;> rfl
  case frame =>
    unfold Machine.retire
    rw [frame]
    rfl
  case own =>
    unfold Machine.retire
    rw [own apart]
    rfl

end Sys2Proof.Machine
end

section
/-! SUPPORT. LDT, and what it leaves in a bank or the scratchpad (R114, R129, R136). -/

namespace Sys2Proof.Machine

theorem mem_insertNat (x : Nat) (l : List Nat) : x ∈ insertNat x l := by
  induction l with
  | nil => exact List.mem_cons_self
  | cons y ys ih =>
    unfold insertNat
    split
    · exact List.mem_cons_self
    · split
      · next same => exact same ▸ List.mem_cons_self
      · exact List.mem_cons_of_mem y ih

/-- A block that issues its LDT of a broadcast is among those that have issued (R136). -/
theorem joinBcast_issued (s : State) (b : Fin 48) (l : Launch) (d : BitVec 512) :
    ∃ c ∈ (joinBcast s b l d).regions[rgnOf b].bcasts, c.word = d ∧ b.val % 6 ∈ c.issued := by
  unfold joinBcast
  dsimp only
  rw [modRgn_same]
  split
  · next joins =>
    obtain ⟨c, waiting, same⟩ := List.any_eq_true.mp joins
    have same : c.word = d ∧ c.data.isNone := by simpa using same
    refine ⟨_, List.mem_map.mpr ⟨c, waiting, rfl⟩, ?_⟩
    rw [if_pos same]
    exact ⟨same.1, mem_insertNat _ _⟩
  · exact ⟨_, List.mem_append_right _ List.mem_cons_self, rfl, List.mem_cons_self⟩

/-- The oldest entry of a unit's queue is marked as begun. -/
theorem begin_of_oldest {s : State} {b : Fin 48} {u : BUnit} {e : UEntry} {q : List UEntry} (h : s.blocks[b].queue u = e :: q) :
    begin_ s b u = modBlk s b (fun k => k.setQueue u ({ e with begun := true } :: (k.queue u).drop 1)) :=
  modBlk_congr (by rw [h]; rfl)

section Load

variable {b : Fin 48} {s : State} {e : UEntry} {l : Launch} (h : front s b opLDT = some (e, l))
  (free : bankHeld s b e.word = false) (reads : readsWait s b l (touches s b l e.word) = false)
  (hm : (tileExtents l e.word).1 ≠ 0) (hn : (tileExtents l e.word).2 ≠ 0)
include h free reads hm hn

theorem exec_ldt_loads (own : lBcast e.word = false) (good : badRead s l (touches s b l e.word) = none) :
    exec (.ldt b .none) s = .next (retire (putRows s b (lDst e.word).sp (ldtRows s b l e.word)) b .load) := by
  simp only [exec, execLdt, h]
  rw [if_neg (by simp [free, reads])]
  dsimp only [withUpset]
  rw [if_neg (by simp [hm, hn]), if_neg (by simp [own]), good]

theorem exec_ldt_joins (bcast : lBcast e.word = true) :
    exec (.ldt b .none) s = .next (begin_ (joinBcast s b l e.word) b .load) := by
  simp only [exec, execLdt, h]
  rw [if_neg (by simp [free, reads])]
  dsimp only [withUpset]
  rw [if_neg (by simp [hm, hn]), if_pos bcast]

end Load

/-- Rows written anywhere but to the region buffer, and the load retires: one change of the block. -/
theorem retire_putRows {sp : Space} (h : sp ≠ .rbuf) (s : State) (b : Fin 48) (rows : List (Nat × List (Byte × Byte))) (u : BUnit) :
    (retire (putRows s b sp rows) b u).blocks[b] =
      (tilePut sp rows s.blocks[b]).setQueue u ((s.blocks[b].queue u).drop 1) := by
  rw [putRows_eq h, retire, modBlk_modBlk, modBlk_same]
  have queue : (tilePut sp rows s.blocks[b]).queue u = s.blocks[b].queue u := by
    rw [tilePut_frame]
    cases u <;> rfl
  rw [queue]

/-- Settles O7: a load is the rows of its tile written to its destination, or the block's issue of a broadcast. -/
theorem loadWritesItsTile : Obligations.LoadWritesItsTile := by
  unfold Obligations.LoadWritesItsTile
  intro b s e l h free reads hm hn
  refine ⟨fun own good => ?load, fun bcast => ?join⟩
  case load =>
    obtain ⟨acc, queue, only, region, frame, blocks⟩ :=
      (putRows_change s b (lDst e.word).sp (ldtRows s b l e.word)).retire .load
    refine ⟨_, exec_ldt_loads h free reads hm hn own good, acc, queue, fun scratch => ?scratch, fun k bank => ?bank, only, region,
      frame, blocks⟩
    case scratch =>
      rw [scratch, retire_putRows (sp := .scratch) nofun, tilePut_scratch]
      rfl
    case bank =>
      rw [bank, retire_putRows (sp := .bank k) nofun, tilePut_bank]
      rcases k with _ | _ | k <;> exact ⟨rfl, rfl⟩
  case join =>
    obtain ⟨q, oldest⟩ := front_queue h rfl
    have begun := begin_of_oldest (s := joinBcast s b l e.word) oldest
    have region : OnlyRegion (rgnOf b) s (joinBcast s b l e.word) := modRgn_onlyRegion s (rgnOf b) _
    refine ⟨_, exec_ldt_joins h free reads hm hn bcast, joinBcast_issued s b l e.word, ?_, ?_, region.congr rfl rfl, rfl⟩
    · rw [begun]
      exact modBlk_same _ b _
    · exact (modBlk_onlyBlock (joinBcast s b l e.word) b _).congr rfl rfl

end Sys2Proof.Machine
end

section
/-! SUPPORT. A broadcast that is sent to its participants (R136, R138). -/

namespace Sys2Proof.Machine

theorem rgnOf_blkOf (r : Fin 8) (j : Fin 6) : rgnOf (blkOf r j) = r := by
  apply Fin.ext
  simp only [rgnOf, blkOf]
  omega

theorem blkOf_injective (r : Fin 8) : Function.Injective (blkOf r) := by
  intro i j same
  have := congrArg Fin.val same
  simp only [blkOf] at this
  omega

/-- The same change of several blocks. -/
theorem foldl_modBlk (f : Block → Block) {bs : List (Fin 48)} (nodup : bs.Nodup) (s : State) :
    let t := bs.foldl (fun s b => modBlk s b f) s
    (∀ b ∈ bs, t.blocks[b] = f s.blocks[b]) ∧ (∀ b ∉ bs, t.blocks[b] = s.blocks[b]) ∧ t = { s with blocks := t.blocks } := by
  induction bs generalizing s with
  | nil => exact ⟨nofun, fun _ _ => rfl, rfl⟩
  | cons x xs ih =>
    obtain ⟨fresh, nodup⟩ := List.nodup_cons.mp nodup
    obtain ⟨changed, kept, frame⟩ := ih nodup (modBlk s x f)
    have others := modBlk_onlyBlock s x f
    refine ⟨fun b hb => ?changed, fun b hb => ?kept, by rw [List.foldl_cons, frame]; rfl⟩
    case changed =>
      rw [List.foldl_cons]
      obtain rfl | hb := List.mem_cons.mp hb
      · exact (kept b fresh).trans (modBlk_same s b f)
      · rw [changed b hb, others b fun same => fresh (same ▸ hb)]
    case kept =>
      obtain ⟨apart, out⟩ := not_or.mp (List.mem_cons.not.mp hb)
      rw [List.foldl_cons]
      exact (kept b out).trans (others b apart)

/-! ### Who takes part -/

theorem participants_nodup (r : Fin 8) (d : BitVec 512) : ((participants d).map (blkOf r)).Nodup :=
  ((List.nodup_finRange 6).filter _).map (blkOf_injective r)

/-- Which blocks are hosted is no matter of a region's broadcasts (R397). -/
theorem hostedNow_modRgn (s : State) (r : Fin 8) {f : Region → Region} (h : ∀ g, (f g).hosted = g.hosted) (b : Fin 48) :
    hostedNow (modRgn s r f) b = hostedNow s b := by
  have hosted : (modRgn s r f).regions[rgnOf b].hosted = s.regions[rgnOf b].hosted := by
    by_cases same : rgnOf b = r
    · subst same
      rw [modRgn_same, h]
    · rw [modRgn_onlyRegion s r f _ same]
  unfold hostedNow
  rw [hosted]
  rfl

/-! ### The delivery -/

/-- A block to which a broadcast tile was delivered. -/
def delivered (d : BitVec 512) (rows : List (Nat × List (Byte × Byte))) (k : Block) : Block :=
  { tilePut (lDst d).sp rows k with loadQ := k.loadQ.drop 1 }

theorem deliver_eq {d : BitVec 512} (h : (lDst d).sp ≠ .rbuf) (s : State) (r : Fin 8) (rows : List (Nat × List (Byte × Byte)))
    (j : Fin 6) : deliver s r d rows j = modBlk s (blkOf r j) (delivered d rows) := by
  unfold deliver retire
  rw [putRows_eq h, modBlk_modBlk]
  apply modBlk_congr
  unfold delivered
  rw [tilePut_frame]
  rfl

/-- A broadcast with its tile on the way to every participant. -/
def Bcast.sentTo (c : Bcast) (rows : List (Nat × List (Byte × Byte))) : Bcast :=
  { c with data := some rows, left := (participants c.word).map (·.val) }

section Delivery

variable {s : State} {r : Fin 8} {c : Bcast} (space : (lDst c.word).sp ≠ .rbuf)
  (takes : ∀ j ∈ participants c.word, hostedNow s (blkOf r j) = true ∧ bankHeld s (blkOf r j) c.word = false)
  (rows : List (Nat × List (Byte × Byte)))
include space takes

/-- Every participant that is on a physical block with its destination free gets the tile, and none is left. -/
theorem deliverHosted_all : deliverHosted s r (c.sentTo rows) rows =
    (((participants c.word).map (blkOf r)).foldl (fun s b => modBlk s b (delivered c.word rows)) s, []) := by
  have all : (participants (c.sentTo rows).word).filter (fun j => j.val ∈ (c.sentTo rows).left && hostedNow s (blkOf r j) &&
      !bankHeld s (blkOf r j) (c.sentTo rows).word) = participants c.word :=
    List.filter_eq_self.mpr fun j hj => by
      obtain ⟨hosted, free⟩ := takes j hj
      have left : j.val ∈ (c.sentTo rows).left := List.mem_map.mpr ⟨j, hj, rfl⟩
      simp [left, hosted, show bankHeld s (blkOf r j) (c.sentTo rows).word = false from free]
  have none_left : (c.sentTo rows).left.filter (fun j => !((participants c.word).any (fun i => i.val = j))) = [] :=
    List.filter_eq_nil_iff.mpr fun j hj => by
      obtain ⟨i, hi, rfl⟩ := List.mem_map.mp hj
      simpa using ⟨i, hi, rfl⟩
  unfold deliverHosted
  dsimp only
  rw [all, none_left, List.foldl_map]
  congr 2
  funext s j
  exact deliver_eq space s r rows j

/-- A region's only broadcast, once sent, is delivered and over. -/
theorem deliverAll_only (only : s.regions[r].bcasts = [c.sentTo rows]) : deliverAll s r =
    modRgn (((participants c.word).map (blkOf r)).foldl (fun s b => modBlk s b (delivered c.word rows)) s) r
      (fun g => { g with bcasts := [] }) := by
  unfold deliverAll
  dsimp only
  rw [only]
  dsimp only [List.foldl_cons, List.foldl_nil, Bcast.sentTo]
  rw [← Bcast.sentTo, deliverHosted_all space takes rows]
  rfl

end Delivery

/-- BCAST_SEND sends the region's only broadcast, its source read once (R136). -/
theorem bcastSend_sends {s : State} {r : Fin 8} {c : Bcast} {l : Launch} (only : s.regions[r].bcasts = [c]) (ready : c.ready = true)
    (hl : bcastLaunch s c = some l)
    (reads : readsWait s (blkOf r ((participants c.word).headD 0)) l
      (touches s (blkOf r ((participants c.word).headD 0)) l c.word) = false)
    (good : badRead s l (touches s (blkOf r ((participants c.word).headD 0)) l c.word) = none) :
    bcastSend r .none s = deliverAll (modRgn s r (fun g => { g with
      bcasts := g.bcasts.map (fun x => if x = c then
        c.sentTo (ldtRows s (blkOf r ((participants c.word).headD 0)) l c.word) else x) })) r := by
  have found : s.regions[r].bcasts.find? (fun c => c.ready && (bcastLaunch s c).isSome) = some c := by
    rw [only]
    simp [ready, hl]
  unfold bcastSend
  rw [found]
  dsimp only
  rw [hl]
  dsimp only
  rw [if_neg (by rw [reads]; nofun)]
  dsimp only [withUpset]
  rw [good]
  rfl

/-- Settles O21: the tile goes to every participant by the same change of its block, and the broadcast leaves the region. -/
theorem broadcastReachesItsParticipants : Obligations.BroadcastReachesItsParticipants := by
  unfold Obligations.BroadcastReachesItsParticipants
  intro r s c l only ready hl space takes
  dsimp only
  intro reads good
  have sends := bcastSend_sends only ready hl reads good
  generalize ldtRows s (blkOf r ((participants c.word).headD 0)) l c.word = rows at *
  obtain ⟨u, hu⟩ : ∃ u, u = modRgn s r (fun g => { g with bcasts := g.bcasts.map (fun x => if x = c then c.sentTo rows else x) }) :=
    ⟨_, rfl⟩
  have region : u.regions[r] = { s.regions[r] with bcasts := [c.sentTo rows] } := by
    rw [hu, modRgn_same, only]
    simp
  have others : OnlyRegion r s u := hu ▸ modRgn_onlyRegion s r _
  have blocks : u.blocks = s.blocks := by rw [hu]; rfl
  have frame : u = { s with regions := u.regions } := by rw [hu]; rfl
  have takes' : ∀ j ∈ participants c.word, hostedNow u (blkOf r j) = true ∧ bankHeld u (blkOf r j) c.word = false := by
    intro j hj
    obtain ⟨hosted, free⟩ := takes j hj
    rw [hu, hostedNow_modRgn _ _ (by exact fun _ => rfl)]
    exact ⟨hosted, free⟩
  rw [← hu, deliverAll_only space takes' rows (by rw [region])] at sends
  obtain ⟨changed, kept, delivery⟩ := foldl_modBlk (delivered c.word rows) (participants_nodup r c.word) u
  generalize ((participants c.word).map (blkOf r)).foldl (fun s b => modBlk s b (delivered c.word rows)) u = v at *
  have regions : v.regions = u.regions := by rw [delivery]
  refine ⟨_, congrArg Host.Outcome.next sends, ?region, fun j hj => ?taken, fun b out => ?out, ?others, ?frame⟩
  case region =>
    rw [modRgn_same, regions, region]
  case taken =>
    have block : v.blocks[blkOf r j] = delivered c.word rows s.blocks[blkOf r j] := by
      rw [changed _ (List.mem_map_of_mem hj), blocks]
    dsimp only [modRgn_blocks]
    rw [block]
    refine ⟨rfl, ?_, fun scratch => ?_⟩
    · unfold delivered
      rw [tilePut_frame]
    · unfold delivered
      rw [scratch, tilePut_scratch]
      rfl
  case out =>
    have apart : b ∉ (participants c.word).map (blkOf r) := by
      intro hb
      obtain ⟨j, -, rfl⟩ := List.mem_map.mp hb
      exact out (rgnOf_blkOf r j)
    exact (kept b apart).trans (by rw [blocks])
  case others => exact (others.congr rfl regions).trans (modRgn_onlyRegion v r _)
  case frame =>
    rw [show modRgn v r _ = { v with regions := (modRgn v r _).regions } from rfl, delivery, frame]

end Sys2Proof.Machine
end

section
/-! SUPPORT. STT, and the stores it issues (R132-R134, R250, R410). -/

namespace Sys2Proof.Machine

/-! ### Stores that join those waiting -/

/-- Stores behind those that wait already. -/
def pushStores (s : State) (ps : List PendStore) : State := { s with mem := { s.mem with stores := s.mem.stores ++ ps } }

/-- The stores of masked bytes by an instruction of a block, cut at burst boundaries (R134). -/
def blkStores (b : Fin 48) (lid : BitVec 32) (idx a : Nat) (bs : List (Byte × Byte)) : List PendStore :=
  (cutBursts a bs (bs.length / 512 + 2)).map (fun x => PendStore.mk (.blk b) lid idx x.1 x.2)

theorem issue_blk (s : State) (b : Fin 48) (lid : BitVec 32) (a : Nat) (bs : List (Byte × Byte)) (idx : Nat) :
    issue s (.blk b) lid a bs idx = pushStores s (blkStores b lid idx a bs) := rfl

theorem pushStores_nil (s : State) : pushStores s [] = s := by
  simp [pushStores]

theorem pushStores_pushStores (s : State) (ps qs : List PendStore) : pushStores (pushStores s ps) qs = pushStores s (ps ++ qs) := by
  simp [pushStores]

/-- Steps that each push stores, whatever stores wait already, push them all in order. -/
theorem foldl_pushStores {s : State} {step : State → Nat → State} {pushed : Nat → List PendStore} {is : List Nat}
    (h : ∀ ps, ∀ i ∈ is, step (pushStores s ps) i = pushStores s (ps ++ pushed i)) :
    is.foldl step s = pushStores s (is.flatMap pushed) := by
  have from_ (ps : List PendStore) : is.foldl step (pushStores s ps) = pushStores s (ps ++ is.flatMap pushed) := by
    induction is generalizing ps with
    | nil => simp
    | cons i is ih =>
      rw [List.foldl_cons, h ps i List.mem_cons_self, ih fun ps j hj => h ps j (List.mem_cons_of_mem i hj)]
      simp
  simpa [pushStores_nil] using from_ []

/-- What a tile is read from does not depend on the stores that wait. -/
theorem tensorCodes_pushStores (s : State) (ps : List PendStore) (b : Fin 48) (sp : Space) (f : Fmt) (a ec c0 cnt : Nat) :
    tensorCodes (pushStores s ps) b sp f a ec c0 cnt = tensorCodes s b sp f a ec c0 cnt := by
  cases sp <;> rfl

/-! ### What an STT to memory can do -/

/-- Stores of a block for its launch have joined those waiting, and MEM_FRC_STAT may have counted (R250, R410). -/
def StoresIssued (b : Fin 48) (lid : BitVec 32) (s t : State) : Prop :=
  (∃ ps, t.mem = { s.mem with stores := s.mem.stores ++ ps } ∧ ∀ q ∈ ps, q.src = .blk b ∧ q.lid = lid) ∧
  RegsBut [regAddr .memFrcStat 0] s t ∧ t = { s with mem := t.mem, regs := t.regs }

section StoresIssued

variable {b : Fin 48} {lid : BitVec 32}

theorem StoresIssued.refl (s : State) : StoresIssued b lid s s := ⟨⟨[], by simp, nofun⟩, RegsBut.refl _ s, rfl⟩

theorem StoresIssued.trans {s t u : State} (h : StoresIssued b lid s t) (k : StoresIssued b lid t u) : StoresIssued b lid s u := by
  obtain ⟨⟨ps, mem, mine⟩, regs, frame⟩ := h
  obtain ⟨⟨qs, mem', mine'⟩, regs', frame'⟩ := k
  refine ⟨⟨ps ++ qs, by rw [mem', mem]; simp, fun q hq => ?_⟩, regs.trans regs', by rw [frame', frame]⟩
  exact (List.mem_append.mp hq).elim (mine q) (mine' q)

theorem issued_issue (s : State) (a : Nat) (bs : List (Byte × Byte)) (idx : Nat) :
    StoresIssued b lid s (issue s (.blk b) lid a bs idx) := by
  refine ⟨⟨blkStores b lid idx a bs, rfl, fun q hq => ?_⟩, RegsBut.refl _ s, rfl⟩
  obtain ⟨x, -, rfl⟩ := List.mem_map.mp hq
  exact ⟨rfl, rfl⟩

theorem issued_count (s : State) : StoresIssued b lid s (cfld s .memFrcStat 0 15 0 1) :=
  ⟨⟨[], by simp, nofun⟩, wreg_regsBut s _ _ _, rfl⟩

theorem issued_storeRow (s : State) (idx : Nat) (f : Fmt) (a : Nat) (codes : List Nat) :
    StoresIssued b lid s (storeRow s b lid idx f a codes) := by
  unfold storeRow
  split
  · exact issued_issue s _ _ _
  · split
    · exact StoresIssued.refl s
    · refine List.foldlRecOn _ _ (StoresIssued.refl s) fun u hu c _ => (hu.trans ?_).trans (issued_issue _ _ _ _)
      split
      · exact issued_count u
      · exact StoresIssued.refl u

end StoresIssued

section Tile

variable (s : State) (b : Fin 48) (l : Launch) (idx : Nat) (d : BitVec 512)

/-- An STT to memory issues stores. -/
theorem storeTile_issues (h : (lDst d).sp = .mem) : StoresIssued b l.lid s (storeTile s b l idx d) := by
  unfold storeTile
  dsimp only
  refine List.foldlRecOn _ _ (StoresIssued.refl s) fun u hu i _ => hu.trans ?_
  rw [h]
  dsimp only
  split
  · exact (issued_storeRow u _ _ _ _).trans (issued_issue _ _ _ _)
  · exact issued_storeRow u _ _ _ _

/-- One to any other space writes its tile there. -/
theorem storeTile_puts (h : (lDst d).sp ≠ .mem) : TileChange b (lDst d).sp s (storeTile s b l idx d) := by
  have put (u : State) (a : Nat) (bs : List (Byte × Byte)) : TileChange b (lDst d).sp u (spPut u b (lDst d).sp a bs) :=
    putRows_change u b _ [(a, bs)]
  unfold storeTile
  dsimp only
  refine List.foldlRecOn _ _ (TileChange.refl b _ s) fun u hu i _ => hu.trans ?_ (.inl rfl)
  split
  · contradiction
  · split
    · exact (put u _ _).trans (put _ _ _) (.inl rfl)
    · exact put u _ _

/-- The stores of one row of an STT to memory below the compressed view: its packed elements, and the scale bytes of an MX row. -/
def rowStores (i : Nat) : List PendStore :=
  let f := (lFmt d).getD .bf16
  let a := tensorRow d (lDst d) (lRow0 d + i)
  let x := tensorCodes s b (lSrc d).sp f ((lSrc d).addr + i * (lSrc d).stride * 64) (lTC d) 0 (tileExtents l d).2
  blkStores b l.lid idx (a + lCol0 d * f.bits / 8) (packRow f x.1) ++
    (if f.isMx then blkStores b l.lid idx (a + scaleOff f (extAt l d 8) + lCol0 d / 32) (fullMask x.2) else [])

theorem storeTile_rows (h : (lDst d).sp = .mem)
    (below : ∀ i < (tileExtents l d).1,
      tensorRow d (lDst d) (lRow0 d + i) + lCol0 d * ((lFmt d).getD .bf16).bits / 8 < viewBase) :
    storeTile s b l idx d = pushStores s ((List.range (tileExtents l d).1).flatMap (rowStores s b l idx d)) := by
  unfold storeTile
  dsimp only
  refine foldl_pushStores fun ps i hi => ?_
  rw [h, tensorCodes_pushStores]
  dsimp only
  unfold storeRow
  rw [if_pos (below i (List.mem_range.mp hi)), issue_blk, issue_blk]
  unfold rowStores
  dsimp only
  split
  · rw [pushStores_pushStores, pushStores_pushStores]
  · rw [pushStores_pushStores, List.append_nil]

end Tile

/-- An STT with extents that are not zero issues its tile and retires. -/
theorem exec_stt_stores {b : Fin 48} {s : State} {e : UEntry} {l : Launch} (h : front s b opSTT = some (e, l))
    (hm : (tileExtents l e.word).1 ≠ 0) (hn : (tileExtents l e.word).2 ≠ 0) :
    exec (.stt b .none) s = .next (retire (storeTile s b l e.idx e.word) b .drain) := by
  simp only [exec, execStt, h]
  exact congrArg _ (if_neg (by simp [hm, hn]))

/-- Settles O8: an STT to memory pushes the stores of its rows; to any other space it writes its tile there. -/
theorem storeIssuesItsTile : Obligations.StoreIssuesItsTile := by
  unfold Obligations.StoreIssuesItsTile
  intro b s e l h hm hn
  have runs := exec_stt_stores h hm hn
  refine ⟨?every, fun space below => ?memory⟩
  case every =>
    refine ⟨_, runs, ?_⟩
    by_cases space : (lDst e.word).sp = .mem
    · obtain ⟨stores, regs, frame⟩ := storeTile_issues s b l e.idx e.word space
      generalize storeTile s b l e.idx e.word = u at *
      have block := modBlk_same u b (fun k => k.setQueue .drain ((k.queue .drain).drop 1))
      have blocks : u.blocks = s.blocks := by rw [frame]
      rw [blocks] at block
      refine ⟨?_, ?_, stores, regs.congr rfl rfl, (retire_onlyBlock u b .drain).congr blocks.symm rfl, ?_, ?_⟩
      · exact (congrArg Block.acc block).trans rfl
      · exact (congrArg Block.drainQ block).trans rfl
      · intro r _
        rw [frame]
        rfl
      · rw [frame]
        rfl
    · obtain ⟨acc, queue, only, region, frame, -⟩ := (storeTile_puts s b l e.idx e.word space).retire .drain
      exact ⟨acc, queue, ⟨[], by rw [frame]; simp, nofun⟩, (RegsBut.refl _ s).congr rfl (by rw [frame]), only,
        region, by rw [frame]⟩
  case memory =>
    rw [storeTile_rows s b l e.idx e.word space below] at runs
    exact ⟨_, _, runs, rfl, rfl, modBlk_same _ b _, (retire_onlyBlock _ b .drain).congr rfl rfl, rfl⟩

end Sys2Proof.Machine
end

section
/-! SUPPORT. DRN: what its stages and its conversion leave (R115-R117, R132, R147, R151). -/

namespace Sys2Proof.Machine

section Drain

variable (b : Fin 48) (sp : Space)

theorem scratchPut_change (s : State) (a : Nat) (bs : List Byte) : TileChange b sp s (scratchPut s b a bs) :=
  tileChange_modBlk s b sp fun _ => rfl

theorem softmaxStage_change (first : Bool) (area valid : Nat) (rows : List (List Word)) (s : State) (i : Nat) :
    TileChange b sp s (softmaxStage s b first area valid rows i).1 := by
  induction rows generalizing s i with
  | nil => exact TileChange.refl b sp s
  | cons r rs ih => exact (scratchPut_change b sp s _ _).trans (ih _ _) (.inl rfl)

/-- A stage writes the scratchpad at most (R139-R151). -/
theorem runStage_change (l : Launch) (d : BitVec 512) (vn : Nat) (s : State) (c : ChainSt) (t : Stage) :
    TileChange b sp s (runStage l b d vn s c t).1 := by
  have none := TileChange.refl b sp s
  unfold runStage
  dsimp only
  split
  case h_3 =>
    split
    · exact none
    · exact none
  case h_6 => exact softmaxStage_change b sp _ _ _ _ s 0
  case h_7 => exact scratchPut_change b sp s _ _
  case h_8 =>
    split
    · exact none
    · exact List.foldlRecOn _ _ none fun u hu r _ => hu.trans (scratchPut_change b sp u _ _) (.inl rfl)
  all_goals exact none

/-- A drain changes its block's byte stores, and the region buffer where that is its destination. -/
theorem drain_change (s : State) (l : Launch) (d : BitVec 512) : TileChange b (nDst d).sp s (drain s b l d) := by
  have put (u : State) (a : Nat) (bs : List (Byte × Byte)) : TileChange b (nDst d).sp u (spPut u b (nDst d).sp a bs) :=
    putRows_change u b _ [(a, bs)]
  unfold drain
  dsimp only
  have staged : TileChange b (nDst d).sp s ((stages d).foldl (fun a t => runStage l b d (extents s b l d).2.1 a.1 a.2 t)
      (s, { rows := drnRows s b d (extents s b l d).1, scales := [], sr := none })).1 :=
    List.foldlRecOn (motive := fun a : State × ChainSt => TileChange b (nDst d).sp s a.1) _ _ (TileChange.refl b _ s)
      fun a ha t _ => ha.trans (runStage_change b _ l d _ a.1 a.2 t) (.inl rfl)
  split
  · exact staged
  · refine List.foldlRecOn _ _ staged fun u hu row _ => hu.trans ?_ (.inl rfl)
    split
    · exact (put u _ _).trans (put _ _ _) (.inl rfl)
    · exact put u _ _

end Drain

section Plain

variable {s : State} {b : Fin 48} {l : Launch} {d : BitVec 512} (plain : stages d = [])
include plain

/-- With NOSTORE and no stage a drain does nothing. -/
theorem drain_idle (off : nNoStore d = true) : drain s b l d = s := by
  unfold drain
  simp only [plain, off]
  rfl

/-- With no stage, in a format that is not MX, a drain writes the converted valid elements of its slot row by row (R132, R147). -/
theorem drain_plain (on : nNoStore d = false) (single : ((nOfmt d).getD .bf16).isMx = false) :
    drain s b l d = putRows s b (nDst d).sp (((drnRows s b d (extents s b l d).1).zipIdx).map (fun row =>
      ((nDst d).addr + row.2 * (nDst d).stride * 64,
        packRow ((nOfmt d).getD .bf16) ((row.1.take (extents s b l d).2.1).map
          (finalElt (isCompat s) ((nOfmt d).getD .bf16) 0 none))))) := by
  have codes (xs : List Word) (f : Word → Nat) : xs.zipIdx.map (fun x => f x.1) = xs.map f := by
    rw [← Function.comp_def f Prod.fst, ← List.map_map, List.zipIdx_map_fst]
  unfold drain putRows
  simp [plain, on, single, List.foldl_map, codes]

end Plain

theorem exec_drn_drains {b : Fin 48} {s : State} {e : UEntry} {l : Launch} (h : front s b opDRN = some (e, l))
    (hm : (extents s b l e.word).1 ≠ 0) (hn : (extents s b l e.word).2.1 ≠ 0) :
    exec (.drn b .none) s = .next (retire (drain s b l e.word) b .drain) := by
  simp only [exec, execDrn, h]
  exact congrArg _ (if_neg (by simp [hm, hn]))

theorem drain_retires {b : Fin 48} {s : State} {e : UEntry} {l : Launch} (h : front s b opDRN = some (e, l))
    (hm : (extents s b l e.word).1 ≠ 0) (hn : (extents s b l e.word).2.1 ≠ 0) :
    ∃ t, exec (.drn b .none) s = .next t ∧ t.blocks[b].acc = s.blocks[b].acc ∧
      t.blocks[b].drainQ = s.blocks[b].drainQ.drop 1 ∧
      (nNoStore e.word = true → stages e.word = [] →
        t.blocks[b] = { s.blocks[b] with drainQ := s.blocks[b].drainQ.drop 1 }) ∧
      (nNoStore e.word = false → stages e.word = [] → (nDst e.word).sp = .scratch →
        ((nOfmt e.word).getD .bf16).isMx = false →
        t.blocks[b] = { s.blocks[b] with
          drainQ := s.blocks[b].drainQ.drop 1,
          scratch := ((drnRows s b e.word (extents s b l e.word).1).zipIdx).foldl (fun m row =>
            let bs := packRow ((nOfmt e.word).getD .bf16) ((row.1.take (extents s b l e.word).2.1).map
              (finalElt (isCompat s) ((nOfmt e.word).getD .bf16) 0 none))
            let a := (nDst e.word).addr + row.2 * (nDst e.word).stride * 64
            sput zeroFill m a (mergeMask (srange zeroFill m a bs.length) bs)) s.blocks[b].scratch }) ∧
      OnlyBlock b s t ∧ OnlyRegion (rgnOf b) s t ∧ t = { s with blocks := t.blocks, regions := t.regions } ∧
      ((nDst e.word).sp ≠ .rbuf → t = { s with blocks := t.blocks }) := by
  obtain ⟨acc, queue, only, region, frame, blocks⟩ := (drain_change b s l e.word).retire .drain
  refine ⟨_, exec_drn_drains h hm hn, acc, queue, fun off plain => ?idle, fun on plain scratch single => ?written,
    only, region, frame, blocks⟩
  case idle =>
    rw [drain_idle plain off]
    exact modBlk_same s b _
  case written =>
    rw [drain_plain plain on single, scratch, retire_putRows (sp := .scratch) nofun, tilePut_scratch, List.foldl_map]
    rfl

end Sys2Proof.Machine
end

section
/-! SUPPORT. RSC: rows of a slot rescaled, merged or normalised, each from its own row state (R171-R175). -/

namespace Sys2Proof.Machine

/-! ### Parts of what was written -/

/-- A part of a written range reads as that part of the values. -/
theorem srange_sput_part {w : Nat} (d : Nat → BitVec w) (m : Store w) (b : Nat) {vs : List (BitVec w)} {o n : Nat}
    (h : o + n ≤ vs.length) : srange d (sput d m b vs) (b + o) n = (vs.drop o).take n := by
  rw [srange_eq_map]
  apply List.ext_getElem
  · simp
    omega
  · intro i h1 h2
    simp only [List.length_map, List.length_range] at h1
    rw [List.getElem_map, List.getElem_range, Nat.add_assoc, sget_sput_in d m b vs (o + i) (by omega)]
    simp

/-- A range apart from a written one reads as before. -/
theorem srange_sput_apart {w : Nat} (d : Nat → BitVec w) (m : Store w) {b a n : Nat} {vs : List (BitVec w)}
    (h : a + n ≤ b ∨ b + vs.length ≤ a) : srange d (sput d m b vs) a n = srange d m a n := by
  rw [srange_eq_map, srange_eq_map]
  apply List.map_congr_left
  intro i hi
  have hi := List.mem_range.mp hi
  exact sget_sput_out _ _ _ _ _ _ (by omega)

theorem packBytes_toLe (x : Word) : packBytes 32 (toLe 4 x.toNat) = x := by
  unfold packBytes
  rw [leNat_toLe, Nat.mod_eq_of_lt (by exact x.isLt), BitVec.ofNat_toNat, BitVec.setWidth_eq]

/-! ### Words and row states of a block's scratchpad -/

def blkWord (k : Block) (a : Nat) : Word := packBytes 32 (srange zeroFill k.scratch a 4)

theorem scratchWord_eq (s : State) (b : Fin 48) (a : Nat) : scratchWord s b a = blkWord s.blocks[b] a := rfl

/-- m, l and α of the row whose state lies at a byte of the scratchpad (R172). -/
def rowStateAt (k : Block) (a : Nat) : Word × Word × Word := (blkWord k a, blkWord k (a + 4), blkWord k (a + 8))

theorem rowState_eq (s : State) (b : Fin 48) (a i : Nat) : rowState s b a i = rowStateAt s.blocks[b] (a + 16 * i) := rfl

def putBytes (k : Block) (a : Nat) (bs : List Byte) : Block := { k with scratch := sput zeroFill k.scratch a bs }

theorem blkWord_putBytes_apart (k : Block) {a c : Nat} {bs : List Byte} (h : a + 4 ≤ c ∨ c + bs.length ≤ a) :
    blkWord (putBytes k c bs) a = blkWord k a :=
  congrArg (packBytes 32) (srange_sput_apart zeroFill k.scratch h)

theorem blkWord_putBytes_word (k : Block) (a : Nat) (x : Word) : blkWord (putBytes k a (toLe 4 x.toNat)) a = x := by
  have read := srange_sput_same zeroFill k.scratch a (toLe 4 x.toNat)
  rw [toLe_length] at read
  exact (congrArg (packBytes 32) read).trans (packBytes_toLe x)

/-- The bytes of m, l and α. -/
def rowStateBytes (y : Word × Word × Word) : List Byte := toLe 4 y.1.toNat ++ toLe 4 y.2.1.toNat ++ toLe 4 y.2.2.toNat

theorem rowStateBytes_length (y : Word × Word × Word) : (rowStateBytes y).length = 12 := by
  simp [rowStateBytes, toLe_length]

theorem rowStateAt_putBytes_same (k : Block) (a : Nat) (y : Word × Word × Word) :
    rowStateAt (putBytes k a (rowStateBytes y)) a = y := by
  have part (o : Nat) (h : o + 4 ≤ 12) : blkWord (putBytes k a (rowStateBytes y)) (a + o) =
      packBytes 32 (((rowStateBytes y).drop o).take 4) :=
    congrArg (packBytes 32) (srange_sput_part zeroFill k.scratch a (by rw [rowStateBytes_length y]; exact h))
  have m := (part 0 (by decide)).trans (packBytes_toLe y.1)
  have l := (part 4 (by decide)).trans (packBytes_toLe y.2.1)
  have al := (part 8 (by decide)).trans (packBytes_toLe y.2.2)
  exact Prod.ext m (Prod.ext l al)

theorem rowStateAt_putBytes_apart (k : Block) {a c : Nat} {bs : List Byte} (h : a + 12 ≤ c ∨ c + bs.length ≤ a) :
    rowStateAt (putBytes k c bs) a = rowStateAt k a := by
  have word {x : Nat} (lo : a ≤ x) (hi : x ≤ a + 8) : blkWord (putBytes k c bs) x = blkWord k x :=
    blkWord_putBytes_apart k (by omega)
  unfold rowStateAt
  rw [word (by omega) (by omega), word (by omega) (by omega), word (by omega) (by omega)]

/-! ### Rows of accumulator memory apart from a written one -/

theorem accRow_accPut_apart (k : Block) {slot row slot' row' n : Nat} {vs : List Word}
    (h : accKey slot' row' 0 + n ≤ accKey slot row 0 ∨ accKey slot row 0 + vs.length ≤ accKey slot' row' 0) :
    accRow (accPut k slot row 0 vs) slot' row' 0 n = accRow k slot' row' 0 n :=
  srange_sput_apart k.accD k.acc h

theorem accKeys_apart_rows (slot : Nat) {i j n m : Nat} (h : i ≠ j) (hn : n ≤ 128) (hm : m ≤ 128) :
    accKey slot i 0 + n ≤ accKey slot j 0 ∨ accKey slot j 0 + m ≤ accKey slot i 0 := by
  unfold accKey
  omega

theorem accKeys_apart_slots {slot slot' i j n m : Nat} (h : slot' ≠ slot) (hi : i < 128) (hj : j < 128) (hn : n ≤ 128)
    (hm : m ≤ 128) : accKey slot' i 0 + n ≤ accKey slot j 0 ∨ accKey slot j 0 + m ≤ accKey slot' i 0 := by
  unfold accKey
  omega

/-! ### Records that do not meet -/

/-- Two records of one area. -/
theorem records_apart (a : Nat) {i j w x y : Nat} (h : i ≠ j) (hx : x ≤ w) (hy : y ≤ w) :
    a + w * i + x ≤ a + w * j ∨ a + w * j + y ≤ a + w * i := by
  obtain below | above := Nat.lt_or_gt_of_ne h
  · have : w * (i + 1) ≤ w * j := Nat.mul_le_mul_left w below
    exact .inl (by rw [Nat.mul_succ] at this; omega)
  · have : w * (j + 1) ≤ w * i := Nat.mul_le_mul_left w above
    exact .inr (by rw [Nat.mul_succ] at this; omega)

/-- Records of two areas that do not meet. -/
theorem areas_apart {a c w v n i j x y : Nat} (h : a + w * n ≤ c ∨ c + v * n ≤ a) (hi : i < n) (hj : j < n) (hx : x ≤ w)
    (hy : y ≤ v) : a + w * i + x ≤ c + v * j ∨ c + v * j + y ≤ a + w * i := by
  have one : w * (i + 1) ≤ w * n := Nat.mul_le_mul_left w hi
  have two : v * (j + 1) ≤ v * n := Nat.mul_le_mul_left v hj
  rw [Nat.mul_succ] at one two
  omega

/-! ### One row -/

/-- One row of an RSC, from what the block then holds. -/
def rescaleRow (d : BitVec 512) (i : Nat) (k : Block) : Block :=
  let slot := fld d 3 1 % 32
  let slot2 := fld d 4 1 % 32
  let tc := fld d 6 1
  let st := fld d 8 2 % 2 ^ 14 * 256
  let st2 := fld d 10 2 % 2 ^ 14 * 256
  let lse := fld d 12 2 % 2 ^ 14 * 256
  let o := accRow k slot i 0 tc
  let r := rowStateAt k (st + 16 * i)
  match fld d 1 1 % 4 with
  | 0 => accPut k slot i 0 (o.map (fun x => fmul x r.2.2))
  | 1 =>
    let r2 := rowStateAt k (st2 + 16 * i)
    let y := mergeRow r.1 r.2.1 r2.1 r2.2.1 o (accRow k slot2 i 0 tc)
    putBytes (accPut k slot i 0 y.1) (st + 16 * i) (rowStateBytes y.2)
  | _ =>
    let y := finalRow r.1 r.2.1 o
    putBytes (accPut k slot i 0 y.1) (lse + 4 * i) (toLe 4 y.2.toNat)

/-- All rows of an RSC, in turn. -/
def rescaleRows (d : BitVec 512) (k : Block) : Block := (List.range (fld d 5 1)).foldl (fun k i => rescaleRow d i k) k

/-- Steps that each change one block, from what it then holds, are one change of it. -/
theorem foldl_modBlk_one (b : Fin 48) {step : State → Nat → State} {change : Nat → Block → Block}
    (h : ∀ s i, step s i = modBlk s b (change i)) (is : List Nat) (s : State) :
    is.foldl step s = modBlk s b (fun k => is.foldl (fun k i => change i k) k) := by
  induction is generalizing s with
  | nil => exact (modBlk_id s b).symm
  | cons i is ih => rw [List.foldl_cons, ih, h, modBlk_modBlk]; rfl

theorem rescale_eq (s : State) (b : Fin 48) (d : BitVec 512) : rescale s b d = modBlk s b (rescaleRows d) := by
  unfold rescale
  refine foldl_modBlk_one b (fun s i => ?_) _ s
  unfold rescaleRow
  dsimp only
  generalize fld d 1 1 % 4 = mode
  rcases mode with _ | _ | mode
  · exact modBlk_congr rfl
  · rw [putRowState, scratchPut, modBlk_modBlk]
    exact modBlk_congr rfl
  · rw [scratchPut, modBlk_modBlk]
    exact modBlk_congr rfl

theorem rescaleRow_frame (d : BitVec 512) (i : Nat) (k : Block) :
    rescaleRow d i k = { k with acc := (rescaleRow d i k).acc, scratch := (rescaleRow d i k).scratch } := by
  unfold rescaleRow
  dsimp only
  split <;> rfl

theorem rescaleRows_frame (d : BitVec 512) (k : Block) :
    rescaleRows d k = { k with acc := (rescaleRows d k).acc, scratch := (rescaleRows d k).scratch } := by
  unfold rescaleRows
  generalize List.range (fld d 5 1) = is
  induction is generalizing k with
  | nil => rfl
  | cons i is ih => rw [List.foldl_cons, ih, rescaleRow_frame]

/-- Steps whose rows do not meet: where each step gives its row a result of what the row held, and leaves what every other row holds and
what it has got, the rows end with their results of what they held first. -/
theorem foldl_rows {α β : Type} {step : Nat → Block → Block} {held : Nat → Block → α} {got : Nat → Block → β}
    {result : α → β} {n : Nat}
    (own : ∀ i < n, ∀ k, got i (step i k) = result (held i k))
    (holds : ∀ i < n, ∀ j < n, i ≠ j → ∀ k, held i (step j k) = held i k)
    (keeps : ∀ i < n, ∀ j < n, i ≠ j → ∀ k, got i (step j k) = got i k) (k : Block) :
    ∀ i < n, got i ((List.range n).foldl (fun k i => step i k) k) = result (held i k) := by
  have upto (m : Nat) (hm : m ≤ n) : let t := (List.range m).foldl (fun k i => step i k) k
      (∀ i < m, got i t = result (held i k)) ∧ ∀ i < n, m ≤ i → held i t = held i k := by
    induction m with
    | zero => exact ⟨nofun, fun _ _ _ => rfl⟩
    | succ m ih =>
      obtain ⟨done, rest⟩ := ih (by omega)
      dsimp only
      rw [List.range_succ, List.foldl_append, List.foldl_cons, List.foldl_nil]
      refine ⟨fun i hi => ?_, fun i hi above => (holds i hi m (by omega) (by omega) _).trans (rest i hi (by omega))⟩
      obtain before | rfl := Nat.lt_succ_iff_lt_or_eq.mp hi
      · rw [keeps i (by omega) m (by omega) (by omega)]
        exact done i before
      · rw [own i (by omega), rest i (by omega) (Nat.le_refl i)]
  exact (upto n (Nat.le_refl n)).1

/-! ### The three modes -/

theorem accRow_length (k : Block) (slot row col n : Nat) : (accRow k slot row col n).length = n := srange_length _ _ _ _

theorem mergeRow_length (ma la mb lb : Word) {oa ob : List Word} (h : ob.length = oa.length) :
    (mergeRow ma la mb lb oa ob).1.length = oa.length := by
  unfold mergeRow
  dsimp only
  split
  · exact List.length_map _
  · split
    · exact List.length_map _
    · simp [h]

theorem finalRow_length (m l : Word) (o : List Word) : (finalRow m l o).1.length = o.length := by
  unfold finalRow
  split
  · exact List.length_map _
  · split <;> exact List.length_map _

/-- The row just written. -/
theorem accRow_accPut_whole (k : Block) (slot row n : Nat) {vs : List Word} (h : vs.length = n) :
    accRow (accPut k slot row 0 vs) slot row 0 n = vs := by
  rw [← h]
  exact accRow_accPut_same k slot row 0 vs

/-- A row of the slot and its state. -/
def ownRow (d : BitVec 512) (i : Nat) (k : Block) : List Word × Word × Word × Word :=
  (accRow k (fld d 3 1 % 32) i 0 (fld d 6 1), rowStateAt k (fld d 8 2 % 2 ^ 14 * 256 + 16 * i))

/-- A row of the second slot and its state. -/
def otherRow (d : BitVec 512) (i : Nat) (k : Block) : List Word × Word × Word × Word :=
  (accRow k (fld d 4 1 % 32) i 0 (fld d 6 1), rowStateAt k (fld d 10 2 % 2 ^ 14 * 256 + 16 * i))

/-- A row of the slot and its log-sum-exp. -/
def normed (d : BitVec 512) (i : Nat) (k : Block) : List Word × Word :=
  (accRow k (fld d 3 1 % 32) i 0 (fld d 6 1), blkWord k (fld d 12 2 % 2 ^ 14 * 256 + 4 * i))

/-- What the merge of two partials gives a row and its state (R174). -/
def mergedRow (x : (List Word × Word × Word × Word) × List Word × Word × Word × Word) : List Word × Word × Word × Word :=
  mergeRow x.1.2.1 x.1.2.2.1 x.2.2.1 x.2.2.2.1 x.1.1 x.2.1

/-- What the normalisation gives a row and its log-sum-exp (R175). -/
def normalRow (x : List Word × Word × Word × Word) : List Word × Word := finalRow x.2.1 x.2.2.1 x.1

section Modes

variable {d : BitVec 512} (short : fld d 6 1 ≤ 128)
include short

/-- Mode 0: every row is its old elements times its α (R173). -/
theorem rescaleRows_scale (mode : fld d 1 1 % 4 = 0) (k : Block) :
    (rescaleRows d k).scratch = k.scratch ∧ ∀ i < fld d 5 1, accRow (rescaleRows d k) (fld d 3 1 % 32) i 0 (fld d 6 1) =
      (accRow k (fld d 3 1 % 32) i 0 (fld d 6 1)).map
        (fun x => fmul x (rowStateAt k (fld d 8 2 % 2 ^ 14 * 256 + 16 * i)).2.2) := by
  have row (i : Nat) (k : Block) : rescaleRow d i k = accPut k (fld d 3 1 % 32) i 0
      ((accRow k (fld d 3 1 % 32) i 0 (fld d 6 1)).map
        (fun x => fmul x (rowStateAt k (fld d 8 2 % 2 ^ 14 * 256 + 16 * i)).2.2)) := by
    simp only [rescaleRow, mode]
  constructor
  · unfold rescaleRows
    generalize List.range (fld d 5 1) = is
    induction is generalizing k with
    | nil => rfl
    | cons i is ih => rw [List.foldl_cons, ih, row]; rfl
  · have rows {i j : Nat} (h : i ≠ j) (k : Block) : accRow (rescaleRow d j k) (fld d 3 1 % 32) i 0 (fld d 6 1) =
        accRow k (fld d 3 1 % 32) i 0 (fld d 6 1) := by
      rw [row]
      exact accRow_accPut_apart k (accKeys_apart_rows _ h short (by simpa [accRow_length] using short))
    refine foldl_rows (step := rescaleRow d) (got := fun i k => accRow k (fld d 3 1 % 32) i 0 (fld d 6 1))
      (held := ownRow d) (result := fun x => x.1.map (fun y => fmul y x.2.2.2))
      (fun i _ k => ?own) (fun i _ j _ h k => Prod.ext (rows h k) (by rw [row]; rfl)) (fun i _ j _ h k => rows h k) k
    rw [row]
    exact accRow_accPut_whole k _ i _ (by simp [accRow_length])

/-- Mode 1: every row and its state are those of the merge of the two partials (R174). -/
theorem rescaleRows_merge (mode : fld d 1 1 % 4 = 1) (few : fld d 5 1 ≤ 128) (slots : fld d 3 1 % 32 ≠ fld d 4 1 % 32)
    (apart : fld d 8 2 % 2 ^ 14 * 256 + 16 * fld d 5 1 ≤ fld d 10 2 % 2 ^ 14 * 256 ∨
      fld d 10 2 % 2 ^ 14 * 256 + 16 * fld d 5 1 ≤ fld d 8 2 % 2 ^ 14 * 256) (k : Block) :
    ∀ i < fld d 5 1, ownRow d i (rescaleRows d k) = mergedRow (ownRow d i k, otherRow d i k) := by
  have row (i : Nat) (k : Block) : rescaleRow d i k =
      putBytes (accPut k (fld d 3 1 % 32) i 0 (mergedRow (ownRow d i k, otherRow d i k)).1)
        (fld d 8 2 % 2 ^ 14 * 256 + 16 * i) (rowStateBytes (mergedRow (ownRow d i k, otherRow d i k)).2) := by
    simp only [rescaleRow, mode]
    rfl
  have wide (i : Nat) (k : Block) : (mergedRow (ownRow d i k, otherRow d i k)).1.length = fld d 6 1 :=
    (mergeRow_length _ _ _ _ (by simp [ownRow, otherRow, accRow_length])).trans (accRow_length _ _ _ _ _)
  have own (i : Nat) (k : Block) : ownRow d i (rescaleRow d i k) = mergedRow (ownRow d i k, otherRow d i k) := by
    rw [row]
    exact Prod.ext (accRow_accPut_whole k _ i _ (wide i k)) (rowStateAt_putBytes_same _ _ _)
  have ones {i j : Nat} (h : i ≠ j) (k : Block) : ownRow d i (rescaleRow d j k) = ownRow d i k := by
    rw [row]
    refine Prod.ext (accRow_accPut_apart k (accKeys_apart_rows _ h short ((wide j k).trans_le short))) ?_
    exact rowStateAt_putBytes_apart _ (by rw [rowStateBytes_length]; exact records_apart _ h (by decide) (by decide))
  have others {i j : Nat} (hi : i < fld d 5 1) (hj : j < fld d 5 1) (k : Block) :
      otherRow d i (rescaleRow d j k) = otherRow d i k := by
    rw [row]
    refine Prod.ext (accRow_accPut_apart k
      (accKeys_apart_slots slots.symm (hi.trans_le few) (hj.trans_le few) short ((wide j k).trans_le short))) ?_
    exact rowStateAt_putBytes_apart _ (by rw [rowStateBytes_length]; exact areas_apart apart.symm hi hj (by decide) (by decide))
  exact foldl_rows (held := fun i k => (ownRow d i k, otherRow d i k)) (fun i _ k => own i k)
    (fun i hi j hj h k => Prod.ext (ones h k) (others hi hj k)) (fun i _ j _ h k => ones h k) k

/-- Mode 2: every row and its log-sum-exp are those of the normalisation (R175). -/
theorem rescaleRows_final (mode : fld d 1 1 % 4 = 2)
    (apart : fld d 8 2 % 2 ^ 14 * 256 + 16 * fld d 5 1 ≤ fld d 12 2 % 2 ^ 14 * 256 ∨
      fld d 12 2 % 2 ^ 14 * 256 + 4 * fld d 5 1 ≤ fld d 8 2 % 2 ^ 14 * 256) (k : Block) :
    ∀ i < fld d 5 1, normed d i (rescaleRows d k) = normalRow (ownRow d i k) := by
  have row (i : Nat) (k : Block) : rescaleRow d i k =
      putBytes (accPut k (fld d 3 1 % 32) i 0 (normalRow (ownRow d i k)).1) (fld d 12 2 % 2 ^ 14 * 256 + 4 * i)
        (toLe 4 (normalRow (ownRow d i k)).2.toNat) := by
    simp only [rescaleRow, mode]
    rfl
  have wide (i : Nat) (k : Block) : (normalRow (ownRow d i k)).1.length = fld d 6 1 :=
    (finalRow_length _ _ _).trans (accRow_length _ _ _ _ _)
  have rows {i j : Nat} (h : i ≠ j) (k : Block) : accRow (rescaleRow d j k) (fld d 3 1 % 32) i 0 (fld d 6 1) =
      accRow k (fld d 3 1 % 32) i 0 (fld d 6 1) := by
    rw [row]
    exact accRow_accPut_apart k (accKeys_apart_rows _ h short ((wide j k).trans_le short))
  refine foldl_rows (fun i _ k => ?own) (fun i hi j hj h k => Prod.ext (rows h k) ?holds)
    (fun i _ j _ h k => Prod.ext (rows h k) ?keeps) k
  case own =>
    rw [row]
    exact Prod.ext (accRow_accPut_whole k _ i _ (wide i k)) (blkWord_putBytes_word _ _ _)
  case holds =>
    rw [row]
    exact rowStateAt_putBytes_apart _ (by rw [toLe_length]; exact areas_apart apart hi hj (by decide) (by decide))
  case keeps =>
    rw [row]
    exact blkWord_putBytes_apart _ (by rw [toLe_length]; exact records_apart _ h (by decide) (by decide))

end Modes

/-! ### The instruction -/

theorem exec_rsc {b : Fin 48} {s : State} {e : UEntry} {l : Launch} (h : front s b opRSC = some (e, l)) :
    exec (.rsc b .none) s = .next (modBlk s b (fun k => (rescaleRows e.word k).setQueue .drain
      (((rescaleRows e.word k).queue .drain).drop 1))) := by
  have retired : exec (.rsc b .none) s = .next (retire (rescale s b e.word) b .drain) := by
    simp only [exec, execRsc, h]
    rfl
  rw [retired, retire, rescale_eq, modBlk_modBlk]

/-- Settles O9: a drain by `drain_retires`; an RSC is one change of its block, whose rows do not meet (`foldl_rows`). -/
theorem drainAndRescaleRetire : Obligations.DrainAndRescaleRetire := by
  unfold Obligations.DrainAndRescaleRetire
  refine ⟨fun b s e l => drain_retires, fun b s e l h => ⟨_, exec_rsc h, ?_⟩⟩
  have blk := modBlk_same s b (fun k => (rescaleRows e.word k).setQueue .drain
    (((rescaleRows e.word k).queue .drain).drop 1))
  have frame := rescaleRows_frame e.word s.blocks[b]
  refine ⟨?queue, fun mode short => ?scale, fun mode short few slots apart i hi => ?merge,
    fun mode short apart i hi => ?final, modBlk_onlyBlock s b _, rfl⟩
  case queue =>
    rw [blk, frame]
    rfl
  case scale =>
    rw [blk]
    exact rescaleRows_scale short mode s.blocks[b]
  case merge =>
    dsimp only
    rw [rowState_eq (modBlk _ _ _), blk]
    exact Prod.mk.inj (rescaleRows_merge short mode few slots apart s.blocks[b] i hi)
  case final =>
    dsimp only
    rw [scratchWord_eq, blk]
    exact Prod.mk.inj (rescaleRows_final short mode apart s.blocks[b] i hi)

end Sys2Proof.Machine
end

section
/-! SUPPORT. BUCKET_SORT (R201, R202, R566). -/

namespace Sys2Proof.Machine

/-- The roster in bucket order, roster order within a bucket (R201). -/
def bucketOrder (l : Launch) : List (BitVec 512) := (List.range (l.fld 72 1)).flatMap (bucket l)

theorem mem_roster_of_bucketOrder {l : Launch} {x : BitVec 512} (h : x ∈ bucketOrder l) : x ∈ l.roster := by
  obtain ⟨_, _, mem⟩ := List.mem_flatMap.mp h
  exact List.mem_of_mem_filter mem

/-- The launch that holds a region, by its LID. -/
theorem launch_of_holder {s : State} {r : Fin 8} {l : Launch} (h : s.regions[r].holder.bind (findLaunch s) = some l) :
    findLaunch s l.lid = some l := by
  obtain ⟨lid, -, found⟩ := Option.bind_eq_some_iff.mp h
  have named : l.lid = lid := by simpa using List.find?_some found
  rw [named]
  exact found

/-- CNP_FAULT as a count that differs leaves it: VALID, code 6 and the bucket (Table 4.15). -/
def bucketFault (s : State) (r : Fin 8) (k : Nat) : Word :=
  setF (setF (setF (setF (rreg s .cnpFault r.val) 31 31 1) 30 28 6) 27 25 0) 18 0 k

theorem getF_bucketFault (s : State) (r : Fin 8) (k : Nat) :
    getF (bucketFault s r k) 31 31 = 1 ∧ getF (bucketFault s r k) 30 28 = 6 ∧ getF (bucketFault s r k) 18 0 = k % 2 ^ 19 := by
  refine ⟨?valid, ?code, getF_setF_same _ k (by decide)⟩
  case valid =>
    unfold bucketFault
    iterate 3 rw [getF_setF_other _ _ (by decide) (by decide)]
    exact getF_setF_same _ 1 (by decide)
  case code =>
    unfold bucketFault
    iterate 2 rw [getF_setF_other _ _ (by decide) (by decide)]
    exact getF_setF_same _ 6 (by decide)

/-- The events of a halt leave CNP_FAULT as it was written. -/
theorem cnpFault_haltLaunch (s : State) (r : Fin 8) (v : Word) (lid : BitVec 32) (code : Nat) (h : HaltAt) :
    rreg (haltLaunch (wreg s .cnpFault r.val v) lid code h) .cnpFault r.val = v := by
  have kept : regAddr .cnpFault r.val ∉ eventAddrs := regAddr_not_mem_eventAddrs r.isLt nofun nofun
  rw [(haltLaunch_regsBut _ lid code h).rreg kept, rreg_wreg_same]

section Buckets

variable {r : Fin 8} {s : State} {l : Launch} (holds : s.regions[r].holder.bind (findLaunch s) = some l)
  (running : l.st = .running) (buckets : l.fld 72 1 ≠ 0) (undone : s.regions[r].bucketsDone = false)
  (going : stalled s = false)
include holds running buckets undone going

/-- Counts that agree, and page lists that can be read: the granules are laid in bucket order. -/
theorem bucketSort_sorts (agree : bucketBad l = none)
    (good : ∀ x ∈ l.roster, readWaits s (roPlist x) (plistBytes x) l.job = false ∧
      firstBad s (roPlist x) (plistBytes x) l.job = none) :
    bucketSort r s = modRgn s r (fun g => { g with
      bucketsDone := true
      rbuf := sput zeroFill g.rbuf (Config.bucketBase l.hdr r).val
        (((bucketOrder l).flatMap (fun x => memBytes s (roPlist x) (plistBytes x))).take
          (Space.rbuf.size - (Config.bucketBase l.hdr r).val)) }) := by
  have waits : ((bucketOrder l).any fun x => readWaits s (roPlist x) (plistBytes x) l.job) = false :=
    List.any_eq_false.mpr fun x hx => by simp [(good x (mem_roster_of_bucketOrder hx)).1]
  have bad : ((bucketOrder l).findSome? fun x => firstBad s (roPlist x) (plistBytes x) l.job) = none :=
    List.findSome?_eq_none_iff.mpr fun x hx => (good x (mem_roster_of_bucketOrder hx)).2
  unfold bucketOrder at waits bad
  unfold bucketSort
  rw [holds]
  dsimp only
  rw [if_neg (by rw [running, undone, going]; simpa using buckets), agree]
  dsimp only
  rw [if_neg (by simp [waits]), bad]
  rfl

/-- A count that differs: CNP_FAULT names it, and the launch is halted (R202). -/
theorem bucketSort_halts {k : Nat} (differs : bucketBad l = some k) :
    bucketSort r s = haltLaunch (wreg s .cnpFault r.val (bucketFault s r k)) l.lid 0x3206
      { blk := none32, place := r.val, idx := none32, reg := (bucketFault s r k).toNat } := by
  unfold bucketSort
  rw [holds]
  dsimp only
  rw [if_neg (by rw [running, undone, going]; simpa using buckets), differs]
  rfl

end Buckets

/-- Settles O25: the sort is one change of the region, or a write of CNP_FAULT and the halt of the launch. -/
theorem bucketSortIsStable : Obligations.BucketSortIsStable := by
  unfold Obligations.BucketSortIsStable
  intro r s l holds running buckets undone going
  refine ⟨fun agree good => ?sorts, fun k differs small => ?halts⟩
  case sorts =>
    refine ⟨_, congrArg Host.Outcome.next (bucketSort_sorts holds running buckets undone going agree good), modRgn_same s r _,
      modRgn_onlyRegion s r _, rfl⟩
  case halts =>
    obtain ⟨valid, code, bucket⟩ := getF_bucketFault s r k
    have written : findLaunch (wreg s .cnpFault r.val (bucketFault s r k)) l.lid = some l := launch_of_holder holds
    refine ⟨_, congrArg Host.Outcome.next (bucketSort_halts holds running buckets undone going differs),
      standsHalted_haltLaunch written (haltable_of_running running) _ _, ?_, ?_, ?_, ?_, ?_⟩
    · rw [cnpFault_haltLaunch, valid]
    · rw [cnpFault_haltLaunch, code]
    · rw [cnpFault_haltLaunch, bucket]
      exact Nat.mod_eq_of_lt (by omega)
    · rw [haltLaunch_frame]
      rfl
    · rw [haltLaunch_mem]
      rfl

end Sys2Proof.Machine
end

section
/-! SUPPORT. Canopy cache fills and invalidations (R22, R26, R192, R199, R200). -/

namespace Sys2Proof.Machine

/-! ### A fill -/

/-- A read that crosses takes credits of the Hinge and nothing else (R26). -/
theorem crossSend_frame (s : State) (half a : Nat) : crossSend s half a = { s with hinge := (crossSend s half a).hinge } := by
  unfold crossSend
  split <;> rfl

/-- A block that waits for entry `n` of a table line has it; any other is left alone (R192). -/
def takeEntry (bytes : List Byte) (n : Nat) (k : Block) : Block :=
  if k.page = some (.waiting n) then { k with page := some (.got n (entryOf bytes (n % 16))) } else k

/-- Every waiting lookup of a miss is served from the line's bytes. -/
def serveLookups (bytes : List Byte) (ws : List (Fin 48 × Nat)) (s : State) : State :=
  ws.foldl (fun s w => modBlk s w.1 (takeEntry bytes w.2)) s

theorem serveLookups_frame (bytes : List Byte) (ws : List (Fin 48 × Nat)) (s : State) :
    serveLookups bytes ws s = { s with blocks := (serveLookups bytes ws s).blocks } := by
  unfold serveLookups
  induction ws generalizing s with
  | nil => rfl
  | cons w ws ih => rw [List.foldl_cons, ih]; rfl

/-- A block that waits for no entry any more keeps the one it has. -/
theorem page_serveLookups_got {bytes : List Byte} {b : Fin 48} {n : Nat} {x : BitVec 256} (ws : List (Fin 48 × Nat)) {s : State}
    (h : s.blocks[b].page = some (.got n x)) : (serveLookups bytes ws s).blocks[b].page = some (.got n x) := by
  unfold serveLookups
  induction ws generalizing s with
  | nil => exact h
  | cons w ws ih =>
    refine ih ?_
    by_cases same : b = w.1
    · subst same
      rw [modBlk_same, takeEntry, if_neg (by rw [h]; simp), h]
    · rw [modBlk_onlyBlock s w.1 _ b same, h]

/-- A block whose lookup is among those served, and that still waits for it, has its entry. -/
theorem page_serveLookups {bytes : List Byte} {b : Fin 48} {n : Nat} {ws : List (Fin 48 × Nat)} (mem : (b, n) ∈ ws) {s : State}
    (h : s.blocks[b].page = some (.waiting n)) :
    (serveLookups bytes ws s).blocks[b].page = some (.got n (entryOf bytes (n % 16))) := by
  induction ws generalizing s with
  | nil => simp at mem
  | cons w ws ih =>
    by_cases now : w = (b, n)
    · subst now
      refine page_serveLookups_got ws ?_
      rw [modBlk_same, takeEntry, if_pos h]
    · refine ih ((List.mem_cons.mp mem).resolve_left (Ne.symm now)) ?_
      by_cases same : b = w.1
      · subst same
        have other : n ≠ w.2 := fun e => now (by rw [e])
        rw [modBlk_same, takeEntry, if_neg (by rw [h]; simpa using other), h]
      · rw [modBlk_onlyBlock s w.1 _ b same, h]

theorem modRgn_id (s : State) (r : Fin 8) : modRgn s r (fun g => g) = s := by
  simp [modRgn]

/-- The oldest miss of a region is read, and waits no longer: a crossing read has taken its credits (R26, R192). -/
def readMiss (r : Fin 8) (s : State) (m : CnpMiss) (ms : List CnpMiss) : State :=
  modRgn (crossSend s (halfOf r).val (cnpTable s r + 512 * m.line)) r (fun g => { g with misses := ms })

theorem readMiss_eq (r : Fin 8) (s : State) (m : CnpMiss) (ms : List CnpMiss) : readMiss r s m ms =
    { modRgn s r (fun g => { g with misses := ms }) with
      hinge := (crossSend s (halfOf r).val (cnpTable s r + 512 * m.line)).hinge } := by
  unfold readMiss
  rw [crossSend_frame]
  rfl

/-- The bytes of the table line that a miss reads. -/
def missBytes (r : Fin 8) (s : State) (m : CnpMiss) : List Byte := memBytes s (cnpTable s r + 512 * m.line) 512

/-- A good line serves its miss; what the region does beyond that is to keep the line (R190-R192). -/
theorem cacheFill_serves {r : Fin 8} {s : State} {m : CnpMiss} {ms : List CnpMiss} (oldest : s.regions[r].misses = m :: ms)
    (going : stalled s = false) (reads : readWaits s (cnpTable s r + 512 * m.line) 512 m.job = false)
    (good : firstBad s (cnpTable s r + 512 * m.line) 512 m.job = none)
    (may : crossMay s (halfOf r).val (cnpTable s r + 512 * m.line) = true) :
    ∃ f : Region → Region, (∀ g, (f g).misses = g.misses) ∧
      cacheFill r .none s = modRgn (serveLookups (missBytes r s m) (missBlocks r m) (readMiss r s m ms)) r f := by
  have bad : firstBad (readMiss r s m ms) (cnpTable s r + 512 * m.line) 512 m.job = none := by
    rw [readMiss_eq]
    exact good
  have bytes : memBytes (readMiss r s m ms) (cnpTable s r + 512 * m.line) 512 = missBytes r s m := by
    rw [readMiss_eq]
    rfl
  unfold cacheFill
  rw [oldest]
  dsimp only
  rw [if_neg (by simp [going, reads, may]), ← readMiss, bad]
  dsimp only
  rw [bytes]
  split
  · refine ⟨_, ?_, rfl⟩
    exact fun _ => rfl
  · refine ⟨fun g => g, fun _ => rfl, ?_⟩
    rw [modRgn_id]
    rfl

/-! ### Invalidations -/

theorem region_addInv (s : State) (e : Option Nat) (r : Fin 8) :
    (addInv s e).regions[r] = { s.regions[r] with inv := s.regions[r].inv ++ [e] } := by simp [addInv]

theorem region_invAll (s : State) (r : Fin 8) : (invAll s).regions[r] = { s.regions[r] with inv := [none] } := by simp [invAll]

/-- What a region's pending invalidations make of its cache (R199). -/
def applyInvs (g : Region) : Region :=
  { g with inv := [], cache := g.inv.foldl (fun c i => match i with | none => [] | some e => c.map (dropEntry e)) g.cache }

theorem cnpInvApply_held {s : State} {r : Fin 8} (held : s.regions[r].holder.isSome = true) : cnpInvApply r s = s :=
  if_pos held

theorem cnpInvApply_free {s : State} {r : Fin 8} (free : s.regions[r].holder = none) :
    cnpInvApply r s = modRgn s r applyInvs := by
  unfold cnpInvApply
  rw [free]
  rfl

/-- Settles O24: a fill by `cacheFill_serves` and `page_serveLookups`; an invalidation is one change of every region, its
application one of its own region. -/
theorem canopyFillAndInvalidation : Obligations.CanopyFillAndInvalidation := by
  unfold Obligations.CanopyFillAndInvalidation
  refine ⟨fun r s m ms oldest going reads good may => ?fill, fun v s => ?entry, fun s => ?all, fun r s => ⟨fun held => ?held,
    fun free => ?free⟩⟩
  case fill =>
    obtain ⟨f, misses, fills⟩ := cacheFill_serves oldest going reads good may
    have served := serveLookups_frame (missBytes r s m) (missBlocks r m) (readMiss r s m ms)
    have region := modRgn_same s r fun g => { g with misses := ms }
    refine ⟨_, congrArg Host.Outcome.next fills, ?misses, ?hinge, fun b n mem waits => ?page, ?only, ?frame⟩
    case misses =>
      rw [modRgn_same, misses, served, readMiss_eq]
      exact congrArg Region.misses region
    case hinge =>
      rw [served]
      rfl
    case page =>
      refine page_serveLookups mem ?_
      rw [readMiss_eq]
      exact waits
    case only =>
      refine OnlyRegion.trans ?_ (modRgn_onlyRegion _ r f)
      rw [served, readMiss_eq]
      exact (modRgn_onlyRegion s r fun g => { g with misses := ms }).congr rfl rfl
    case frame =>
      rw [served, readMiss_eq]
      rfl
  case entry =>
    refine ⟨_, rfl, fun r => ?_, ?_⟩
    · split
      · exact region_invAll s r
      · exact region_addInv s _ r
    · split <;> rfl
  case all => exact ⟨_, rfl, region_invAll s, rfl⟩
  case held => exact congrArg Host.Outcome.next (cnpInvApply_held held)
  case free =>
    have applied := modRgn_same s r applyInvs
    refine ⟨_, congrArg Host.Outcome.next (cnpInvApply_free free), ?_, fun all => ?_, fun e one => ?_, ?_,
      modRgn_onlyRegion s r applyInvs, rfl⟩
    · rw [applied]
      rfl
    · rw [applied, applyInvs, all]
      rfl
    · rw [applied, applyInvs, one]
      rfl
    · rw [applied]
      rfl

end Sys2Proof.Machine
end

section
/-! SUPPORT. ATS and ATV: the start without a page, the fetch of a page into bank B, and the miss of a table entry (R162, R166, R183,
R187, R190, R192). -/

namespace Sys2Proof.Machine

/-! ### What an instruction's extents, touches and operands depend on -/

section Scratch

variable {b : Fin 48} {s t : State} (h : ∀ a, scratchWord t b a = scratchWord s b a)
include h

/-- Parameter words and the extents they shorten come from the scratchpad alone (R159, R186). -/
theorem apWord_congr (d : BitVec 512) (w : Nat) : apWord t b d w = apWord s b d w := h _

theorem extents_congr (l : Launch) (d : BitVec 512) : extents t b l d = extents s b l d := by
  unfold extents keyExtent
  simp only [apWord_congr h, h]

theorem touches_congr (l : Launch) (d : BitVec 512) : touches t b l d = touches s b l d := by
  unfold touches
  simp only [extents_congr h, apWord_congr h, h]

end Scratch

section Bytes

variable {b : Fin 48} {s t : State} (h : ∀ sp a n, spBytes t b sp a n = spBytes s b sp a n)
include h

theorem scratchWord_of_spBytes (a : Nat) : scratchWord t b a = scratchWord s b a := congrArg (packBytes 32) (h .scratch a 4)

theorem readRow_congr (sp : Space) (f : Fmt) (a n cnt : Nat) : readRow t b sp f a n cnt = readRow s b sp f a n cnt := by
  unfold readRow
  simp only [h]

/-- The operand matrices are read from the spaces (R108, R131). -/
theorem operandsOf_congr (compat : isCompat t = isCompat s) (l : Launch) (d : BitVec 512) :
    operandsOf t b l d = operandsOf s b l d := by
  unfold operandsOf readTile convRow weightRow groupRow areaRows
  simp only [extents_congr (scratchWord_of_spBytes h), readRow_congr h, h, compat]

end Bytes

/-! ### A page that is loaded -/

/-- Bytes merged into bank B. -/
theorem spPut_bankB (s : State) (b : Fin 48) (a : Nat) (bs : List (Byte × Byte)) : spPut s b (.bank 2) a bs =
    modBlk s b (fun k => { k with bankB := mergeRowAt (s.blocks[b].bankD 2) s.blocks[b].bankB (a, bs) }) :=
  (spPut_eq (sp := .bank 2) nofun s b a bs).trans (modBlk_congr rfl)

/-- Loading a page's area writes bank B (R183). -/
theorem loadArea_eq (s : State) (b : Fin 48) (l : Launch) (d : BitVec 512) (x : BitVec 256) :
    ∃ m, loadArea s b l d x = modBlk s b (fun k => { k with bankB := m }) := by
  unfold loadArea
  dsimp only
  split
  · rw [spPut_bankB _ b (_ + _), spPut_bankB s, modBlk_modBlk]
    exact ⟨_, rfl⟩
  · exact ⟨_, spPut_bankB s b _ _⟩

/-- The block's page has been loaded, as bank B's bytes `m`, and its entry is used up. -/
def pageLoaded (s : State) (b : Fin 48) (m : Store 8) : State := modBlk s b (fun k => { k with bankB := m, page := none })

section Loaded

variable (s : State) (b : Fin 48) (m : Store 8)

theorem pageLoaded_block : (pageLoaded s b m).blocks[b] = { s.blocks[b] with bankB := m, page := none } := modBlk_same s b _

theorem front_pageLoaded (op : Nat) : front (pageLoaded s b m) b op = front s b op := by
  unfold front
  rw [pageLoaded_block]
  rfl

theorem scratchWord_pageLoaded (a : Nat) : scratchWord (pageLoaded s b m) b a = scratchWord s b a := by
  rw [scratchWord_eq, pageLoaded_block]
  rfl

/-- No operand is read from the page's entry. -/
theorem spBytes_pageLoaded (sp : Space) (a n : Nat) :
    spBytes (pageLoaded s b m) b sp a n = spBytes (modBlk s b (fun k => { k with bankB := m })) b sp a n := by
  cases sp with
  | bank k =>
    unfold spBytes
    rw [pageLoaded_block, modBlk_same]
    rfl
  | scratch =>
    unfold spBytes
    rw [pageLoaded_block, modBlk_same]
  | rbuf => rfl
  | mem => rfl

end Loaded

/-! ### The forms -/

/-- The attention forms: opcode, command and what becomes of the value (R162, R166). -/
def attnForms : List (Nat × (Fin 48 → Upset → Instr) × JobEnd) :=
  [(opATS, Instr.ats, JobEnd.score), (opATV, Instr.atv, JobEnd.fold)]

theorem exec_attnForm {p : Nat × (Fin 48 → Upset → Instr) × JobEnd} (hp : p ∈ attnForms) (b : Fin 48) (u : Upset) (s : State) :
    exec (p.2.1 b u) s = .next (startAttention p.1 b u s) := by
  simp only [attnForms, List.mem_cons, List.not_mem_nil, or_false] at hp
  obtain rfl | rfl := hp <;> rfl

/-- An attention form runs on the array, reads what it touches, has no tree slots, and ends as its form does. -/
theorem attnForm_facts {p : Nat × (Fin 48 → Upset → Instr) × JobEnd} (hp : p ∈ attnForms) {s : State} {b : Fin 48} {l : Launch}
    {e : UEntry} (hop : opOf e.word = p.1) : unitOf p.1 = some .array ∧ fedTouches s b l e.word = touches s b l e.word ∧
      treeSlots e.word = [] ∧ (mkJob s b l e).fin = p.2.2 := by
  unfold fedTouches treeSlots mkJob
  dsimp only
  rw [hop]
  simp only [attnForms, List.mem_cons, List.not_mem_nil, or_false] at hp
  obtain rfl | rfl := hp <;> exact ⟨rfl, rfl, rfl, rfl⟩

/-- The block of an attention instruction that the array has taken up as the job `j`. -/
def attnTaken (e : UEntry) (j : ArrayJob) (k : Block) : Block :=
  { k with arrayQ := { e with begun := true } :: k.arrayQ.drop 1, job := some j, inject := false }

section Start

variable {p : Nat × (Fin 48 → Upset → Instr) × JobEnd} (hp : p ∈ attnForms) {b : Fin 48} {s : State} {e : UEntry} {l : Launch}
  (h : front s b p.1 = some (e, l)) (free : s.blocks[b].job = none)
  (hm : (extents s b l e.word).1 ≠ 0) (hn : (extents s b l e.word).2.1 ≠ 0) (hk : (extents s b l e.word).2.2 ≠ 0)

section Takes

variable (idle : pendingG s (.blk b) = false)
  (reads : readsWait s b l (touches s b l e.word) = false) (good : badRead s l (touches s b l e.word) = none)
include hp h free hm hn hk idle reads good

theorem startArray_attn : startArray p.1 b .none s = modBlk s b (attnTaken e (mkJob s b l e)) := by
  obtain ⟨hu, fed, tree, -⟩ := attnForm_facts hp (s := s) (b := b) (l := l) (front_op h)
  rw [startArray_takes h free idle (by rwa [fed]) hm hn hk (by rwa [fed]), junkTree, tree, List.foldl_nil, begin_of_front h hu,
    modBlk_modBlk]
  rfl

/-- The start does not depend on the page's entry, nor on what bank B holds, but for the operands. -/
theorem startArray_pageLoaded (m : Store 8) : startArray p.1 b .none (pageLoaded s b m) =
    modBlk (pageLoaded s b m) b (attnTaken e (mkJob (pageLoaded s b m) b l e)) := by
  have scratch := scratchWord_pageLoaded s b m
  have ext := extents_congr scratch l e.word
  have touch := touches_congr scratch l e.word
  exact startArray_attn hp ((front_pageLoaded s b m p.1).trans h) (by rw [pageLoaded_block, free]) (by rwa [ext]) (by rwa [ext])
    (by rwa [ext]) idle (by rw [touch]; exact reads) (by rw [touch]; exact good)

end Takes

include h

/-- Without FETCH the array takes its operands from where the descriptor names them. -/
theorem startAttention_plain (plain : aFetch e.word = false) (u : Upset) : startAttention p.1 b u s = startArray p.1 b u s := by
  unfold startAttention
  rw [h]
  exact if_pos (by simp [plain])

include free hm hn hk

/-- With FETCH the page comes first, once the launch's roster is sorted (R187, R202). -/
theorem startAttention_fetches (fetch : aFetch e.word = true) (sorted : l.fld 72 1 = 0 ∨ s.regions[rgnOf b].bucketsDone = true)
    (u : Upset) : startAttention p.1 b u s = resolvePage p.1 b u s l e := by
  unfold startAttention
  rw [h]
  dsimp only
  rw [if_neg (by rw [free]; simp [hm, hn, hk, fetch]), if_neg]
  rintro ⟨roster, unsorted⟩
  rw [sorted.resolve_left roster] at unsorted
  contradiction

end Start

/-! ### The page in hand -/

/-- An entry that passes its checks, of a page that can be read: bank B is loaded and the array starts (R183, R187). -/
theorem withEntry_loads {op : Nat} {b : Fin 48} {s : State} {l : Launch} {e : UEntry} {x : BitVec 256}
    (passes : cnpCheck s b l e.word x = none)
    (good : ∀ r ∈ fetchRanges (kvFmt e.word) (headDim l e.word) (pageFill s b l e.word) (eBase x) (op = opATV),
      readWaits s r.1 r.2 l.job = false ∧ readBehind s (.blk b) r.1 r.2 = false ∧ firstBad s r.1 r.2 l.job = none) (u : Upset) :
    withEntry op b u s l e x = startArray op b u (modBlk (loadArea s b l e.word x) b (fun k => { k with page := none })) := by
  unfold withEntry
  dsimp only
  rw [passes]
  dsimp only
  rw [if_neg, List.findSome?_eq_none_iff.mpr fun r hr => (good r hr).2.2]
  simp only [Bool.not_eq_true, List.any_eq_false]
  intro r hr
  obtain ⟨waits, behind, -⟩ := good r hr
  simp [waits, behind]

theorem resolvePage_got {op : Nat} {b : Fin 48} {s : State} {l : Launch} {e : UEntry} {n : Nat} {x : BitVec 256}
    (got : s.blocks[b].page = some (.got n x)) (u : Upset) : resolvePage op b u s l e = withEntry op b u s l e x := by
  unfold resolvePage
  rw [got]

/-! ### A miss -/

/-- A region's misses once a block of it waits for entry `n` (R192). -/
def noteMiss (b : Fin 48) (l : Launch) (n : Nat) (g : Region) : Region :=
  if g.misses.any (fun m => m.line = n / 16) then
    { g with misses := g.misses.map (fun m =>
        if m.line = n / 16 then { m with waiters := m.waiters ++ [(b.val % 6, n)] } else m) }
  else { g with misses := g.misses ++ [{ line := n / 16, job := l.job, lid := l.lid, waiters := [(b.val % 6, n)] }] }

theorem noteMiss_cache (b : Fin 48) (l : Launch) (n : Nat) (g : Region) : (noteMiss b l n g).cache = g.cache := by
  unfold noteMiss
  split <;> rfl

theorem noteMiss_line (b : Fin 48) (l : Launch) (n : Nat) (g : Region) : ∃ m ∈ (noteMiss b l n g).misses, m.line = n / 16 := by
  unfold noteMiss
  split
  · next joins =>
    obtain ⟨m, old, same⟩ := List.any_eq_true.mp joins
    have same : m.line = n / 16 := by simpa using same
    refine ⟨_, List.mem_map.mpr ⟨m, old, rfl⟩, ?_⟩
    rw [if_pos same]
    exact same
  · exact ⟨_, List.mem_append_right _ List.mem_cons_self, rfl⟩

/-- What a miss changes: a count, the block's wait and the region's misses. -/
theorem pageMiss_change (s : State) (b : Fin 48) (l : Launch) (n : Nat) :
    let t := pageMiss s b l n
    rreg t .cnpMiss (rgnOf b).val = satF (rreg s .cnpMiss (rgnOf b).val) 31 0 1 ∧
    RegsBut [regAddr .cnpMiss (rgnOf b).val] s t ∧ t.blocks[b] = { s.blocks[b] with page := some (.waiting n) } ∧
    (∃ m ∈ t.regions[rgnOf b].misses, m.line = n / 16) ∧ t.regions[rgnOf b].cache = s.regions[rgnOf b].cache ∧
    OnlyBlock b s t ∧ OnlyRegion (rgnOf b) s t ∧ t = { s with regs := t.regs, blocks := t.blocks, regions := t.regions } := by
  have region : (pageMiss s b l n).regions[rgnOf b] = noteMiss b l n s.regions[rgnOf b] := modRgn_same _ (rgnOf b) _
  refine ⟨rreg_wreg_same s .cnpMiss _ _, wreg_regsBut s .cnpMiss _ _, modBlk_same s b fun k => { k with page := some (.waiting n) },
    ?line, ?cache, modBlk_onlyBlock s b fun k => { k with page := some (.waiting n) },
    modRgn_onlyRegion s (rgnOf b) (noteMiss b l n), rfl⟩
  case line =>
    rw [region]
    exact noteMiss_line b l n _
  case cache => rw [region, noteMiss_cache]

theorem resolvePage_misses {op : Nat} {b : Fin 48} {s : State} {l : Launch} {e : UEntry} (fresh : s.blocks[b].page = none)
    (range : cnpRange s b e.word = false)
    (misses : cnpHit s.regions[rgnOf b] (cnpWays s (rgnOf b) l.job) (pageIndex s b e.word) = none) (u : Upset) :
    resolvePage op b u s l e = pageMiss s b l (pageIndex s b e.word) := by
  unfold resolvePage
  rw [fresh]
  dsimp only
  rw [range, misses]
  rfl

/-- Settles O6: a start is one change of the block (`startArray_attn`), with FETCH on the state in which the page is loaded; a
miss is a count, the block's wait and the region's note. -/
theorem attentionStartsFromItsPage : Obligations.AttentionStartsFromItsPage := by
  unfold Obligations.AttentionStartsFromItsPage
  intro p hp b s e l h free idle hm hn hk
  refine ⟨fun plain reads good => ?plain, fun n x fetch sorted got passes page reads good => ?got,
    fun fetch roster fresh range misses => ?miss⟩
  case plain =>
    obtain ⟨-, -, -, fin⟩ := attnForm_facts hp (s := s) (b := b) (l := l) (front_op h)
    have runs := (startAttention_plain h plain .none).trans (startArray_attn hp h free hm hn hk idle reads good)
    have block := modBlk_same s b (attnTaken e (mkJob s b l e))
    refine ⟨_, mkJob s b l e, (exec_attnForm hp b .none s).trans (congrArg _ runs), ?_, rfl, fin, rfl, rfl, rfl, rfl, rfl, rfl,
      block, modBlk_onlyBlock s b _, rfl⟩
    rw [block]
    rfl
  case got =>
    obtain ⟨m, loads⟩ := loadArea_eq s b l e.word x
    have ext := extents_congr (scratchWord_pageLoaded s b m) l e.word
    obtain ⟨-, -, -, fin⟩ := attnForm_facts hp (s := pageLoaded s b m) (b := b) (l := l) (front_op h)
    have loaded : modBlk (loadArea s b l e.word x) b (fun k => { k with page := none }) = pageLoaded s b m := by
      rw [loads, modBlk_modBlk]
      rfl
    have runs := (startAttention_fetches h free hm hn hk fetch sorted .none).trans
      ((resolvePage_got got .none).trans (withEntry_loads passes page .none))
    rw [loaded, startArray_pageLoaded hp h free hm hn hk idle reads good m] at runs
    have only := (modBlk_onlyBlock s b fun k => { k with bankB := m, page := none }).trans
      (modBlk_onlyBlock (pageLoaded s b m) b (attnTaken e (mkJob (pageLoaded s b m) b l e)))
    have block := modBlk_same (pageLoaded s b m) b (attnTaken e (mkJob (pageLoaded s b m) b l e))
    refine ⟨_, mkJob (pageLoaded s b m) b l e, (exec_attnForm hp b .none s).trans (congrArg _ runs), ?job, rfl, fin, ext, ?ops, rfl,
      rfl, ?block, only, rfl⟩
    case job =>
      rw [block]
      rfl
    case ops =>
      rw [loads]
      exact operandsOf_congr (spBytes_pageLoaded s b m) rfl l e.word
    case block =>
      rw [block, pageLoaded_block, loads, modBlk_same]
      rfl
  case miss =>
    have runs := (startAttention_fetches h free hm hn hk fetch (.inl roster) .none).trans (resolvePage_misses fresh range misses .none)
    exact ⟨_, (exec_attnForm hp b .none s).trans (congrArg _ runs), pageMiss_change s b l (pageIndex s b e.word)⟩

end Sys2Proof.Machine
end

section
/-! SUPPORT. A unit that stops for a fault of its own, flag increments and waits on flags (R225, R226, R229, R244, R350, R565,
R752). -/

namespace Sys2Proof.Machine

/-! ### A unit that stops -/

/-- A unit as its own fault stops it: a block's sequencer, or the run of a list engine. -/
def unitStopped (s : State) (q : WaitUnit) : State :=
  match q with
  | .blk b => stopBlk s b
  | q => modRun s q (fun u => { u with stopped := true })

theorem unitStopped_regs (s : State) (q : WaitUnit) : (unitStopped s q).regs = s.regs := by
  cases q <;> rfl

theorem unitStopped_launches (s : State) (q : WaitUnit) : (unitStopped s q).launches = s.launches := by
  cases q <;> rfl

/-- A change of one region keeps what it keeps of that region in every region. -/
theorem modRgn_keeps {α : Type} (part : Region → α) (s : State) (r : Fin 8) {f : Region → Region}
    (h : part (f s.regions[r]) = part s.regions[r]) (c : Fin 8) : part (modRgn s r f).regions[c] = part s.regions[c] := by
  by_cases same : c = r
  · subst same
    rw [modRgn_same, h]
  · rw [modRgn_onlyRegion s r f c same]

theorem unitStopped_flags (s : State) (q : WaitUnit) (r : Fin 8) : (unitStopped s q).regions[r].flags = s.regions[r].flags := by
  cases q
  case sce c => exact modRgn_keeps Region.flags s c rfl r
  case rve c => exact modRgn_keeps Region.flags s c rfl r
  all_goals rfl

/-- A unit's fault stops the unit and halts its launch. -/
theorem unitHalt_eq {s : State} {q : WaitUnit} {lid : BitVec 32} (mine : ∀ b, q = .blk b → s.blocks[b].lid = some lid)
    (code idx reg : Nat) (more : List Byte) :
    ∃ h, unitHalt s q lid code idx reg more = haltLaunch (unitStopped s q) lid code h := by
  cases q
  case blk b =>
    simp only [unitHalt, blkHalt, mine b rfl]
    exact ⟨_, rfl⟩
  all_goals exact ⟨_, rfl⟩

/-! ### Flags -/

theorem flagVal_congr {s t : State} {r : Fin 8} (h : t.regions[r].flags = s.regions[r].flags) (f : Fin 64) :
    flagVal t r f = flagVal s r f := by
  unfold flagVal
  rw [h]

/-- RGNn_FLAGFAULT as a fault of a flag leaves it (R752, Table 5.13). -/
def flagFaultWord (s : State) (q : WaitUnit) (code : Nat) (rgn : Fin 8) (f : Fin 64) : Word :=
  setF (setF (setF (setF (setF (setF (rreg s .rgnFlagfault (flagSrc q rgn).1.val) 31 31 1) 30 29 code) 28 26
    (flagSrc q rgn).2.1) 15 12 (flagSrc q rgn).2.2) 11 9 rgn.val) 5 0 f.val

theorem getF_flagFaultWord (s : State) (q : WaitUnit) (code : Nat) (rgn : Fin 8) (f : Fin 64) :
    getF (flagFaultWord s q code rgn f) 31 31 = 1 ∧ getF (flagFaultWord s q code rgn f) 30 29 = code % 4 := by
  unfold flagFaultWord
  refine ⟨?valid, ?code⟩
  case valid =>
    iterate 5 rw [getF_setF_other _ _ (by decide) (by decide)]
    exact getF_setF_same _ 1 (by decide)
  case code =>
    iterate 4 rw [getF_setF_other _ _ (by decide) (by decide)]
    exact getF_setF_same _ code (by decide)

/-- The state in which RGNn_FLAGFAULT has recorded a fault of a flag. -/
def flagFaultNoted (s : State) (q : WaitUnit) (code : Nat) (rgn : Fin 8) (f : Fin 64) : State :=
  wreg s .rgnFlagfault (flagSrc q rgn).1.val (flagFaultWord s q code rgn f)

/-- A fault of a flag is recorded, the flags keep their values, and the launch is halted (R229, R752). -/
theorem flagFault_halts {s : State} {q : WaitUnit} {lid : BitVec 32} {l : Launch}
    (mine : ∀ b, q = .blk b → s.blocks[b].lid = some lid) (found : findLaunch s lid = some l) (running : l.st = .running)
    (idx code : Nat) (rgn : Fin 8) (f : Fin 64) (more : List Byte) :
    let t := flagFault s q lid idx code rgn f more
    (∀ r f, flagVal t r f = flagVal s r f) ∧
      rreg t .rgnFlagfault (flagSrc q rgn).1.val = flagFaultWord s q code rgn f ∧ StandsHalted t lid (0x3300 + code) := by
  obtain ⟨h, halts⟩ : ∃ h, flagFault s q lid idx code rgn f more =
      haltLaunch (unitStopped (flagFaultNoted s q code rgn f) q) lid (0x3300 + code) h :=
    unitHalt_eq (s := flagFaultNoted s q code rgn f) mine (0x3300 + code) idx (flagFaultWord s q code rgn f).toNat more
  dsimp only
  rw [halts]
  refine ⟨fun r f => ?flags, ?word, ?halted⟩
  case flags =>
    refine flagVal_congr ?_ f
    rw [haltLaunch_frame]
    exact unitStopped_flags _ q r
  case word =>
    have kept : regAddr .rgnFlagfault (flagSrc q rgn).1.val ∉ eventAddrs :=
      regAddr_not_mem_eventAddrs (flagSrc q rgn).1.isLt nofun nofun
    rw [(haltLaunch_regsBut _ lid _ h).rreg kept, rreg, unitStopped_regs]
    exact rreg_wreg_same s _ _ _
  case halted =>
    have there : findLaunch (unitStopped (flagFaultNoted s q code rgn f) q) lid = some l :=
      (findLaunch_congr (unitStopped_launches _ q) lid).trans found
    exact standsHalted_haltLaunch there (haltable_of_running running) _ h

/-- A partial that became ready is a note of the RVE of its region (R350). -/
theorem noteReady_eq (s : State) (r : Fin 8) : ∃ ready : Region → List (Nat × Nat),
    noteReady s r = modRgn s r (fun g => { g with rve := { g.rve with ready := ready g } }) := by
  unfold noteReady
  dsimp only
  split
  · exact ⟨fun g => g.rve.ready, (modRgn_id s r).symm⟩
  · dsimp only [modRun]
    exact ⟨_, rfl⟩

/-- A region whose flag `f` has taken a value, with what its RVE then notes as ready. -/
def flagSet (f : Fin 64) (v : Nat) (ready : Region → List (Nat × Nat)) (g : Region) : Region :=
  { g with flags := sset zeroFill g.flags f.val (BitVec.ofNat 32 v), rve := { g.rve with ready := ready g } }

theorem flagVal_flagSet_same (s : State) (r : Fin 8) (f : Fin 64) {v : Nat} (fits : v < 2 ^ 32)
    (ready : Region → List (Nat × Nat)) : flagVal (modRgn s r (flagSet f v ready)) r f = v := by
  unfold flagVal
  rw [modRgn_same, flagSet]
  dsimp only
  rw [sget_sset_same, BitVec.toNat_ofNat]
  exact Nat.mod_eq_of_lt fits

theorem flagVal_flagSet_other (s : State) {r c : Fin 8} {f e : Fin 64} (other : (c, e) ≠ (r, f)) (v : Nat)
    (ready : Region → List (Nat × Nat)) : flagVal (modRgn s r (flagSet f v ready)) c e = flagVal s c e := by
  by_cases same : c = r
  · subst same
    have apart : e ≠ f := fun h => other (by rw [h])
    unfold flagVal
    rw [modRgn_same, flagSet]
    dsimp only
    rw [sget_sset_other _ _ _ _ _ _ (Fin.val_ne_of_ne apart)]
  · exact flagVal_congr (congrArg Region.flags (modRgn_onlyRegion s r _ c same)) e

/-- An increment that fits is a change of its region (R225). -/
theorem flagAdd_fits {s : State} {q : FlagReq} (fits : flagVal s q.rgn q.flag + q.inc < 2 ^ 32) :
    ∃ ready, flagAdd s q = modRgn s q.rgn (flagSet q.flag (flagVal s q.rgn q.flag + q.inc) ready) := by
  obtain ⟨ready, noted⟩ := noteReady_eq (modRgn s q.rgn (fun g => { g with
    flags := sset zeroFill g.flags q.flag.val (BitVec.ofNat 32 (flagVal s q.rgn q.flag + q.inc)) })) q.rgn
  rw [modRgn_modRgn] at noted
  exact ⟨_, (if_pos fits).trans noted⟩

theorem flagAdd_overflows {s : State} {q : FlagReq} (carries : 2 ^ 32 ≤ flagVal s q.rgn q.flag + q.inc) :
    flagAdd s q = flagFault s q.src q.lid q.idx 1 q.rgn q.flag :=
  if_neg (Nat.not_lt.mpr carries)

/-- A launch that goes on while launches do not stand still. -/
theorem filter_goesOn {s : State} {o : Option Launch} {l : Launch} (found : o = some l) (may : l.st.mayBegin = true)
    (going : stalled s = false) : o.filter (fun l => l.st.mayBegin && !stalled s) = some l := by
  simp [found, may, going]

/-- The request leaves those waiting as its increment is made. -/
theorem flagIncrement_adds {k : Nat} {s : State} {q : FlagReq} {l : Launch} (asked : s.flagReqs[k]? = some q)
    (found : findLaunch s q.lid = some l) (running : l.st = .running) (going : stalled s = false) (first : q.before = 0) :
    flagIncrement k s = flagAdd { s with flagReqs := s.flagReqs.eraseIdx k } q := by
  have may : l.st.mayBegin = true := by rw [running]; rfl
  unfold flagIncrement
  rw [asked]
  dsimp only
  rw [filter_goesOn found may going]
  exact if_neg (not_not.mpr first)

/-- Settles O22: a sum that fits is one change of the region, one that does not is `flagFault`. -/
theorem flagsCountAndOverflow : Obligations.FlagsCountAndOverflow := by
  unfold Obligations.FlagsCountAndOverflow
  intro k s q l asked found running going first
  have adds := flagIncrement_adds asked found running going first
  refine ⟨fun fits => ?fits, fun carries mine => ?carries⟩
  case fits =>
    obtain ⟨ready, change⟩ := flagAdd_fits (s := { s with flagReqs := s.flagReqs.eraseIdx k }) fits
    refine ⟨_, congrArg Host.Outcome.next (adds.trans change), flagVal_flagSet_same _ _ _ fits ready,
      fun r f other => flagVal_flagSet_other _ other _ ready, rfl, ?_, modRgn_onlyRegion _ q.rgn _, rfl⟩
    rw [modRgn_same]
    rfl
  case carries =>
    obtain ⟨flags, word, halted⟩ := flagFault_halts (s := { s with flagReqs := s.flagReqs.eraseIdx k }) mine found running q.idx 1
      q.rgn q.flag []
    obtain ⟨valid, code⟩ := getF_flagFaultWord { s with flagReqs := s.flagReqs.eraseIdx k } q.src 1 q.rgn q.flag
    refine ⟨_, congrArg Host.Outcome.next (adds.trans (flagAdd_overflows carries)), flags, ?_, ?_, halted⟩
    · rw [word, valid]
    · rw [word, code]

/-! ### Waits -/

/-- WFL_COMPLETE with the flag at its target: the WFL retires, and its block waits no longer. -/
theorem exec_wflComplete_reached {b : Fin 48} {s : State} {r : Fin 8} {f : Fin 64} {n since : Nat} {l : Launch}
    (waits : s.blocks[b].wait = some (.flag r f n since)) (found : s.blocks[b].lid.bind (findLaunch s) = some l)
    (may : l.st.mayBegin = true) (going : stalled s = false) (reached : n ≤ flagVal s r f) :
    exec (.wflComplete b) s = .next (modBlk s b (fun k => { k with syncQ := k.syncQ.drop 1, wait := none })) := by
  simp only [exec, execWflComplete, waits, filter_goesOn found may going]
  rw [if_pos reached, retire, modBlk_modBlk]
  rfl

theorem exec_wflComplete_below {b : Fin 48} {s : State} {r : Fin 8} {f : Fin 64} {n since : Nat} {l : Launch}
    (waits : s.blocks[b].wait = some (.flag r f n since)) (found : s.blocks[b].lid.bind (findLaunch s) = some l)
    (may : l.st.mayBegin = true) (going : stalled s = false) (below : flagVal s r f < n) :
    exec (.wflComplete b) s = .next s := by
  simp only [exec, execWflComplete, waits, filter_goesOn found may going]
  rw [if_neg (Nat.not_le.mpr below)]

/-- The wait of a list engine ends with the flag at its target (R226, R244). -/
theorem endWait_reached {s : State} {q : WaitUnit} {w : FlagWait} {l : Launch} (waits : (getRun s q).waiting = some w)
    (found : (getRun s q).lid.bind (findLaunch s) = some l) (running : l.st = .running) (going : stalled s = false)
    (reached : w.target ≤ flagVal s w.rgn w.flag) : endWait s q = modRun s q (fun u => { u with waiting := none }) := by
  have goes : ((getRun s q).lid.bind (findLaunch s)).filter (fun l => decide (l.st = .running) && !stalled s) = some l := by
    simp [found, running, going]
  unfold endWait
  dsimp only
  rw [waits, goes]
  exact if_pos reached

/-- Settles O23: a wait that ends is one change of its block or of its region. -/
theorem flagWaitsEnd : Obligations.FlagWaitsEnd := by
  unfold Obligations.FlagWaitsEnd
  refine ⟨fun b s r f n since l waits found may going => ⟨fun reached => ?block, fun below => ?below⟩,
    fun r s w l waits found running going reached => ?engine⟩
  case block => exact next_modBlk (exec_wflComplete_reached waits found may going reached) rfl
  case below => exact exec_wflComplete_below waits found may going below
  case engine =>
    have ends := endWait_reached (q := .sce r) waits found running going reached
    exact ⟨_, congrArg Host.Outcome.next ends, modRgn_same s r _, modRgn_onlyRegion s r _, rfl⟩

end Sys2Proof.Machine
end

section
/-! SUPPORT. Writes of a list engine, and the SCE's lane rounds and END (R233, R241-R247, R410, Table 9.4). -/

namespace Sys2Proof.Machine

/-! ### Writes of a unit of a region -/

/-- What writes of a unit of region `r` can change: the bytes of the region's buffer, and the stores that wait. -/
def SpWritten (r : Fin 8) (s t : State) : Prop :=
  t.regions[r] = { s.regions[r] with rbuf := t.regions[r].rbuf } ∧ OnlyRegion r s t ∧
  t = { s with regions := t.regions, mem := { s.mem with stores := t.mem.stores } }

theorem SpWritten.refl (r : Fin 8) (s : State) : SpWritten r s s := ⟨rfl, fun _ _ => rfl, rfl⟩

theorem SpWritten.trans {r : Fin 8} {s t u : State} (h : SpWritten r s t) (k : SpWritten r t u) : SpWritten r s u := by
  obtain ⟨region, only, frame⟩ := h
  obtain ⟨region', only', frame'⟩ := k
  refine ⟨by rw [region', region], only.trans only', ?_⟩
  rw [frame', frame]

theorem spWritten_writeSp (s : State) (q : WaitUnit) (lid : BitVec 32) (r : Fin 8) (sp : Space) (a : Nat)
    (bs : List (Byte × Byte)) : SpWritten r s (writeSp s q lid r sp a bs) := by
  have buffer (f : Region → Store 8) : SpWritten r s (modRgn s r (fun g => { g with rbuf := f g })) :=
    ⟨by rw [modRgn_same], modRgn_onlyRegion s r _, rfl⟩
  cases sp
  case mem => exact ⟨rfl, fun _ _ => rfl, rfl⟩
  all_goals exact buffer _

theorem spWritten_sceRound (s : State) (r : Fin 8) (lid : BitVec 32) (c : SceDesc) (i : Nat) :
    SpWritten r s (sceRound s r lid c i) :=
  List.foldlRecOn _ _ (SpWritten.refl r s) fun _ written _ _ => written.trans (spWritten_writeSp _ _ _ _ _ _ _)

/-! ### The run of an entry -/

/-- A command of a list engine whose accesses meet no error. -/
theorem unitUpset_none (s : State) (q : WaitUnit) (mine : Nat → Bool) (k : State → State) : unitUpset s q mine .none k = k s := by
  unfold unitUpset
  split <;> rfl

/-- The run that stands at an entry is the engine's own. -/
theorem run_of_active {s : State} {q : WaitUnit} {u : ListRun} {l : Launch} (h : active s q = some (u, l)) : getRun s q = u := by
  unfold active at h
  dsimp only at h
  split at h
  · cases h
  · obtain ⟨_, -, same⟩ := Option.map_eq_some_iff.mp h
    exact congrArg Prod.fst same

section Conv

variable {r : Fin 8} {s : State} {u : ListRun} {l : Launch} {d : BitVec 512}

/-- At an entry that passes its checks, with its wait satisfied and its reads good, a lane round runs. -/
theorem sceConv_steps (there : AtEntry s (.sce r) 0x01 u l d) (desc : sceDescBad d = none)
    (bound : sceBound s l (sceOf d) = none) (frc : sceFrc s (sceOf d) = none)
    (reached : u.part = 0 → fld d 52 1 / 128 = 1 → fld d 56 4 ≤ flagVal s r (Fin.ofNat 64 (fld d 52 1)))
    (reads : rangeWaits s (.sce r) l ((sceOf d).reads ++ (sceOf d).params) = false)
    (good : rangeBad s l ((sceOf d).reads ++ (sceOf d).params) = none) :
    sceConv r s = sceStep s r l.lid (sceOf d) u d := by
  obtain ⟨runs, entry, clean, rfl, op⟩ := there
  unfold sceConv
  rw [runs]
  dsimp only
  rw [if_neg (by simp [entry]), clean]
  dsimp only
  rw [if_neg (by rw [op]; decide), desc]
  dsimp only
  rw [bound, frc]
  dsimp only
  rw [if_neg (fun waits => Nat.not_lt.mpr (reached waits.1 waits.2.1) waits.2.2), if_neg (by simp [reads]), good]

end Conv

/-- The engine's state after writes, its run moved on, registers written and increments asked for. -/
def sceMoved (z : State) (r : Fin 8) (f : ListRun → ListRun) (regs : Store 32) (reqs : List FlagReq) : State :=
  { modRgn z r (fun g => { g with sce := f g.sce }) with regs := regs, flagReqs := reqs }

theorem SpWritten.moved {r : Fin 8} {s z : State} (h : SpWritten r s z) (f : ListRun → ListRun) (regs : Store 32)
    (reqs : List FlagReq) :
    let t := sceMoved z r f regs reqs
    (t.mem = z.mem ∧ t.regions[r].rbuf = z.regions[r].rbuf ∧ t.regions[r].flags = s.regions[r].flags) ∧
    t.regions[r].sce = f s.regions[r].sce ∧ OnlyRegion r s t ∧
    t = { s with regs := t.regs, regions := t.regions, mem := t.mem, flagReqs := t.flagReqs } := by
  obtain ⟨region, only, frame⟩ := h
  have moved : (sceMoved z r f regs reqs).regions = (modRgn z r (fun g => { g with sce := f g.sce })).regions := rfl
  dsimp only
  rw [moved, modRgn_same, region]
  refine ⟨⟨rfl, rfl, rfl⟩, rfl, (only.trans (modRgn_onlyRegion z r _)).congr rfl moved, ?_⟩
  rw [frame]
  rfl

/-- A lane round with others behind it: the next is current. -/
theorem sceStep_more (s : State) (r : Fin 8) (lid : BitVec 32) {c : SceDesc} {u : ListRun} (more : u.part + 1 < c.rounds)
    (d : BitVec 512) : sceStep s r lid c u d = nextPart (sceRound s r lid c u.part) (.sce r) :=
  if_pos more

theorem nextPart_moved {r : Fin 8} {s z : State} (h : SpWritten r s z) :
    nextPart z (.sce r) = sceMoved z r (fun u => { u with part := u.part + 1 }) s.regs s.flagReqs := by
  obtain ⟨-, -, frame⟩ := h
  rw [frame]
  rfl

/-- The last lane round: the descriptor is done. -/
theorem sceStep_last (s : State) (r : Fin 8) (lid : BitVec 32) {c : SceDesc} {u : ListRun} (last : c.rounds ≤ u.part + 1)
    (d : BitVec 512) : sceStep s r lid c u d = sceDone (sceRound s r lid c u.part) r lid u.idx d :=
  if_neg (Nat.not_lt.mpr last)

/-- The increments that a descriptor asks for when it is done: one of the flag of its SIG, if it names one (R245). -/
def sceAsks (z : State) (r : Fin 8) (lid : BitVec 32) (idx : Nat) (d : BitVec 512) : List FlagReq :=
  if fld d 53 1 / 128 = 1 then [⟨.sce r, idx, lid, r, Fin.ofNat 64 (fld d 53 1), 1, storesOf z (.sce r)⟩] else []

/-- A descriptor that is done asks for its increment, is counted, and gives way (R245, R247). -/
theorem sceDone_moved {r : Fin 8} {s z : State} (h : SpWritten r s z) (lid : BitVec 32) (idx : Nat) (d : BitVec 512) :
    sceDone z r lid idx d = sceMoved z r (fun u => { u with idx := u.idx + 1, waiting := none, ready := [], part := 0 })
      (cfld s .sceDone r.val 31 0 1).regs (s.flagReqs ++ sceAsks z r lid idx d) := by
  obtain ⟨-, -, frame⟩ := h
  have regs : (cfld z .sceDone r.val 31 0 1).regs = (cfld s .sceDone r.val 31 0 1).regs := by rw [frame]; rfl
  have reqs : z.flagReqs = s.flagReqs := by rw [frame]
  unfold sceDone sceAsks
  rw [← regs, ← reqs]
  dsimp only
  split
  · rfl
  · rw [List.append_nil]
    rfl

/-- Settles O26: a lane round writes what `SpWritten` allows, and the engine moves on to the next round or the next entry; END is
one change of the region. -/
theorem sceConvolvesAndEnds : Obligations.SceConvolvesAndEnds := by
  unfold Obligations.SceConvolvesAndEnds
  refine ⟨fun r s u l d there desc bound frc reached reads good => ?conv, fun r s u l d there => ?ends⟩
  case conv =>
    have runs := (unitUpset_none s (.sce r) (· ≠ 0x3F) (sceConv r)).trans
      (sceConv_steps there desc bound frc reached reads good)
    have run : s.regions[r].sce = u := run_of_active there.1
    have written := spWritten_sceRound s r l.lid (sceOf d) u.part
    obtain more | last := Nat.lt_or_ge (u.part + 1) (sceOf d).rounds
    · rw [sceStep_more s r l.lid more, nextPart_moved written] at runs
      obtain ⟨bytes, sce, only, frame⟩ := written.moved (fun u => { u with part := u.part + 1 }) s.regs s.flagReqs
      refine ⟨_, congrArg Host.Outcome.next runs, bytes, fun _ => ⟨?_, rfl, rfl⟩,
        fun last => absurd more (Nat.not_lt.mpr last), only, frame⟩
      rw [sce, run]
    · rw [sceStep_last s r l.lid last, sceDone_moved written] at runs
      obtain ⟨bytes, sce, only, frame⟩ := written.moved
        (fun u => { u with idx := u.idx + 1, waiting := none, ready := [], part := 0 }) (cfld s .sceDone r.val 31 0 1).regs
        (s.flagReqs ++ sceAsks (sceRound s r l.lid (sceOf d) u.part) r l.lid u.idx d)
      refine ⟨_, congrArg Host.Outcome.next runs, bytes, fun more => absurd more (Nat.not_lt.mpr last), fun _ =>
        ⟨?_, rreg_wreg_same s _ _ _, wreg_regsBut s _ _ _, fun silent => ?_, fun signals => ?_⟩, only, frame⟩
      · rw [sce, run]
      · exact (congrArg (s.flagReqs ++ ·) (if_neg (by simp [silent]))).trans (List.append_nil _)
      · exact ⟨_, congrArg (s.flagReqs ++ ·) (if_pos signals), rfl, rfl, rfl, rfl⟩
  case ends =>
    obtain ⟨runs, entry, -, rfl, op⟩ := there
    have ends : exec (.sceEnd r) s = .next (modRun s (.sce r) (fun u => { u with finished := true })) := by
      simp only [exec, execSceEnd, runs]
      rw [if_pos ⟨entry, op⟩]
    exact ⟨_, ends, modRgn_same s r _, modRgn_onlyRegion s r _, rfl⟩

end Sys2Proof.Machine
end

section
/-! SUPPORT. LAUNCH_DISPATCH (R26, R45, R199, R223, R334-R336, R373, R376-R379). -/

namespace Sys2Proof.Machine

/-! ### What taking its units can change -/

/-- What `t` has of `s` while a launch takes its regions, blocks and list engines: the units of others, the bytes of its own, every
Hinge credit but the Control credits of half 0, and all that is no register and no unit. -/
structure Dispatching (l : Launch) (s t : State) : Prop where
  otherRegions : ∀ r : Fin 8, r ∉ l.rgns → t.regions[r] = s.regions[r]
  buffers : ∀ r : Fin 8, t.regions[r].rbuf = s.regions[r].rbuf
  late : ∀ r : Fin 8, t.regions[r].late = s.regions[r].late
  otherBlocks : ∀ b : Fin 48, b ∉ l.blks → t.blocks[b] = s.blocks[b]
  stores : ∀ b : Fin 48, t.blocks[b].acc = s.blocks[b].acc ∧ t.blocks[b].scratch = s.blocks[b].scratch
  credits : ∀ i d, i ≠ 0 → t.hinge.credits.getD i d = s.hinge.credits.getD i d
  frame : t = { s with
    regs := t.regs, regions := t.regions, blocks := t.blocks, halves := t.halves
    hinge := { s.hinge with credits := t.hinge.credits } }

theorem Dispatching.refl (l : Launch) (s : State) : Dispatching l s s where
  otherRegions _ _ := rfl
  buffers _ := rfl
  late _ := rfl
  otherBlocks _ _ := rfl
  stores _ := ⟨rfl, rfl⟩
  credits _ _ _ := rfl
  frame := rfl

theorem Dispatching.trans {l : Launch} {s t u : State} (h : Dispatching l s t) (k : Dispatching l t u) : Dispatching l s u where
  otherRegions r hr := (k.otherRegions r hr).trans (h.otherRegions r hr)
  buffers r := (k.buffers r).trans (h.buffers r)
  late r := (k.late r).trans (h.late r)
  otherBlocks b hb := (k.otherBlocks b hb).trans (h.otherBlocks b hb)
  stores b := ⟨(k.stores b).1.trans (h.stores b).1, (k.stores b).2.trans (h.stores b).2⟩
  credits i d hi := (k.credits i d hi).trans (h.credits i d hi)
  frame := by rw [k.frame, h.frame]

theorem Dispatching.foldl {α : Type} {l : Launch} {step : State → α → State} {as : List α}
    (h : ∀ u, ∀ a ∈ as, Dispatching l u (step u a)) (s : State) : Dispatching l s (as.foldl step s) :=
  List.foldlRecOn _ _ (Dispatching.refl l s) fun u taken a ha => taken.trans (h u a ha)

theorem dispatching_regs (l : Launch) (s : State) (regs : Store 32) {credits : List Nat}
    (kept : ∀ i d, i ≠ 0 → credits.getD i d = s.hinge.credits.getD i d) :
    Dispatching l s { s with regs := regs, hinge := { s.hinge with credits := credits } } :=
  { Dispatching.refl l s with credits := kept, frame := rfl }

theorem dispatching_modRgn {l : Launch} (s : State) {r : Fin 8} (own : r ∈ l.rgns) {f : Region → Region}
    (rbuf : ∀ g, (f g).rbuf = g.rbuf) (late : ∀ g, (f g).late = g.late) : Dispatching l s (modRgn s r f) :=
  { Dispatching.refl l s with
    otherRegions := fun c hc => modRgn_onlyRegion s r f c fun same => hc (same ▸ own)
    buffers := modRgn_keeps Region.rbuf s r (rbuf _)
    late := modRgn_keeps Region.late s r (late _)
    frame := rfl }

theorem dispatching_modHalf (l : Launch) (s : State) (h : Fin 2) (f : Half → Half) : Dispatching l s (modHalf s h f) :=
  { Dispatching.refl l s with frame := rfl }

/-! ### Regions and blocks taken -/

/-- A region is the launch's, from fresh flags (R223). -/
def RegionTaken (l : Launch) (r : Fin 8) (s : State) : Prop :=
  s.regions[r].holder = some l.lid ∧ s.regions[r].flags = []

/-- A block is the launch's, at the start of its program (R373). -/
def BlockTaken (l : Launch) (b : Fin 48) (s : State) : Prop :=
  s.blocks[b].lid = some l.lid ∧ s.blocks[b].iq = [] ∧ s.blocks[b].nextFetch = 0 ∧ s.blocks[b].finished = false ∧
    rreg s .blkPc b.val = 0

/-- What a step achieves for its own element and every step keeps, a fold achieves for each element of the list. -/
theorem foldl_achieves {σ α : Type} {step : σ → α → σ} {P : α → σ → Prop} (own : ∀ s a, P a (step s a))
    (keeps : ∀ s a b, P a s → P a (step s b)) {as : List α} {a : α} (mem : a ∈ as) (s : σ) : P a (as.foldl step s) := by
  induction as generalizing s with
  | nil => cases mem
  | cons b as ih =>
    by_cases later : a ∈ as
    · exact ih later _
    · obtain rfl := (List.mem_cons.mp mem).resolve_right later
      exact List.foldlRecOn as step (own s a) fun u held b _ => keeps u a b held

theorem regionTaken_takeRegion (l : Launch) (s : State) (r : Fin 8) : RegionTaken l r (takeRegion l s r) := by
  unfold RegionTaken takeRegion
  rw [modRgn_same]
  exact ⟨rfl, rfl⟩

theorem regionTaken_takeRegion_other (l : Launch) (s : State) (r c : Fin 8) (h : RegionTaken l r s) :
    RegionTaken l r (takeRegion l s c) := by
  by_cases same : r = c
  · exact same ▸ regionTaken_takeRegion l s r
  · unfold RegionTaken takeRegion
    rw [modRgn_onlyRegion s c _ r same]
    exact h

theorem blockTaken_takeBlock (l : Launch) (s : State) (b : Fin 48) : BlockTaken l b (takeBlock l s b) := by
  unfold BlockTaken takeBlock
  rw [rreg_wreg_same, wreg_blocks, modBlk_same]
  exact ⟨rfl, rfl, rfl, rfl, rfl⟩

theorem blockTaken_takeBlock_other (l : Launch) (s : State) (b c : Fin 48) (h : BlockTaken l b s) :
    BlockTaken l b (takeBlock l s c) := by
  by_cases same : b = c
  · exact same ▸ blockTaken_takeBlock l s b
  · have apart : regAddr .blkPc b.val ≠ regAddr .blkPc c.val :=
      fun e => same (Fin.ext (regAddr_inj b.isLt c.isLt e).2)
    unfold BlockTaken takeBlock
    rw [rreg_wreg_other _ _ _ _ _ _ apart, wreg_blocks, modBlk_onlyBlock s c _ b same]
    exact h

/-! ### The steps of a start -/

theorem getD_hingeSend_control (s : State) (i d : Nat) (h : i ≠ 0) :
    (hingeSend s 0 0).hinge.credits.getD i d = s.hinge.credits.getD i d :=
  getD_modAt_other h _ _ d

/-- A commit of a group whose windows bind no connection writes registers, and takes a Control credit where it crosses (R26). -/
theorem dispatching_configApply (l : Launch) (s : State) {g : Group} (notLat : g ≠ .lat) :
    Dispatching l s (configApply g s) := by
  have reach : Dispatching l s (reachGroup s g) := by
    unfold reachGroup
    split
    · exact dispatching_regs l s s.regs (getD_hingeSend_control s)
    · exact Dispatching.refl l s
  have regsOnly (u : State) (regs : Store 32) : Dispatching l u { u with regs := regs } :=
    dispatching_regs l u regs fun _ _ _ => rfl
  by_cases due : pendingG s g = true ∧ atApply s g = true ∧ s.power.phase = .ready ∧
      (groupInHalf1 g = true → hingeTakes s 0 0 = true)
  · obtain ⟨pending, there, ready, credit⟩ := due
    rw [configApply_of_due pending there ready credit]
    split
    · refine reach.trans ?_
      rw [applyGroup_frame, applyGroup_net _ notLat]
      exact regsOnly _ _
    · exact reach.trans (regsOnly _ _)
  · rw [configApply_of_not_due due]
    exact Dispatching.refl l s

theorem dispatching_betweenLaunches {l : Launch} (s : State) {r : Fin 8} (own : r ∈ l.rgns) :
    Dispatching l s (betweenLaunches s r) := by
  have invs (u : State) : Dispatching l u (cnpInvApply r u) := by
    by_cases held : u.regions[r].holder.isSome = true
    · rw [cnpInvApply_held held]
      exact Dispatching.refl l u
    · rw [cnpInvApply_free (Option.not_isSome_iff_eq_none.mp held)]
      exact dispatching_modRgn u own (fun _ => rfl) fun _ => rfl
  have group (u : State) {g : Group} (notLat : g ≠ .lat) : Dispatching l u (configApply g u) :=
    dispatching_configApply l u notLat
  exact (((group s (g := .rgn r) nofun).trans (group _ (g := .cnp r) nofun)).trans (group _ (g := .rve r) nofun)).trans (invs _)

theorem dispatching_takeRegion {l : Launch} (s : State) {r : Fin 8} (own : r ∈ l.rgns) : Dispatching l s (takeRegion l s r) := by
  unfold takeRegion
  exact dispatching_modRgn s own (fun _ => rfl) fun _ => rfl

theorem dispatching_takeBlock {l : Launch} (s : State) {b : Fin 48} (own : b ∈ l.blks) : Dispatching l s (takeBlock l s b) :=
  { Dispatching.refl l s with
    otherBlocks := fun c hc => by
      rw [takeBlock, wreg_blocks, modBlk_onlyBlock s b _ c fun same => hc (same ▸ own)]
    stores := fun c => by
      rw [takeBlock, wreg_blocks]
      by_cases same : c = b
      · subst same
        rw [modBlk_same]
        exact ⟨rfl, rfl⟩
      · rw [modBlk_onlyBlock s b _ c same]
        exact ⟨rfl, rfl⟩
    frame := rfl }

theorem modRgn_fixed {s : State} {r : Fin 8} {f : Region → Region} (h : f s.regions[r] = s.regions[r]) : modRgn s r f = s := by
  rw [modRgn, h]
  simp

/-- A turn of a block for which no register write waits begins with nothing. -/
theorem lateWrites_of_none {s : State} {b : Fin 48} (none : s.regions[rgnOf b].late = []) : lateWrites s b = s := by
  unfold lateWrites
  dsimp only
  rw [none]
  exact modRgn_fixed (by rw [none, List.filter_nil, ← none])

theorem foldl_takeBlock_regions (l : Launch) (bs : List (Fin 48)) (s : State) :
    (bs.foldl (takeBlock l) s).regions = s.regions :=
  List.foldlRecOn (motive := fun t : State => t.regions = s.regions) bs (takeBlock l) rfl fun _ kept _ _ => kept

theorem foldl_takeUnits_frame (l : Launch) (hs : List (Fin 2)) (s : State) :
    hs.foldl (takeUnits l) s = { s with halves := (hs.foldl (takeUnits l) s).halves } :=
  List.foldlRecOn (motive := fun t : State => t = { s with halves := t.halves }) hs (takeUnits l) rfl fun t kept h _ => by
    rw [kept]
    rfl

theorem rgnOf_mem_rgns {l : Launch} {b : Fin 48} (h : b ∈ l.blks) : rgnOf b ∈ l.rgns := by
  have has : l.hasBlk b = true := (List.mem_filter.mp h).2
  exact List.mem_filter.mpr ⟨List.mem_finRange _, has⟩

/-- The regions of a launch, between two launches and then taken, and its blocks. -/
def unitsTaken (s : State) (l : Launch) : State :=
  l.blks.foldl (takeBlock l) (l.rgns.foldl (takeRegion l) (l.rgns.foldl betweenLaunches s))

theorem dispatching_unitsTaken (s : State) (l : Launch) : Dispatching l s (unitsTaken s l) :=
  ((Dispatching.foldl (fun u _ hr => dispatching_betweenLaunches u hr) s).trans
    (Dispatching.foldl (fun u _ hr => dispatching_takeRegion u hr) _)).trans
      (Dispatching.foldl (fun u _ hb => dispatching_takeBlock u hb) _)

theorem regionTaken_unitsTaken (s : State) {l : Launch} {r : Fin 8} (own : r ∈ l.rgns) : RegionTaken l r (unitsTaken s l) := by
  unfold RegionTaken unitsTaken
  rw [foldl_takeBlock_regions]
  exact foldl_achieves (P := RegionTaken l) (regionTaken_takeRegion l) (regionTaken_takeRegion_other l) own _

theorem blockTaken_unitsTaken (s : State) {l : Launch} {b : Fin 48} (own : b ∈ l.blks) : BlockTaken l b (unitsTaken s l) :=
  foldl_achieves (P := BlockTaken l) (blockTaken_takeBlock l) (blockTaken_takeBlock_other l) own _

/-- A launch as its start leaves it, where it is not to be restored. -/
def Launch.started (l : Launch) : Launch := { l with st := .running, begun := true }

/-- A start takes the launch's regions, blocks and list engines, and the launch runs (R223, R373, R379). -/
theorem startLaunch_eq {s : State} {l : Launch} (waiting : l.st = .waiting) (fresh : l.flag 4 = false)
    (late : ∀ r ∈ l.rgns, s.regions[r].late = []) :
    startLaunch s l = modLaunch ((List.finRange 2).foldl (takeUnits l) (unitsTaken s l)) l.lid Launch.started := by
  have noLate : (l.blks.filter (hostedNow (unitsTaken s l))).foldl lateWrites (unitsTaken s l) = unitsTaken s l :=
    List.foldlRecOn (motive := (· = unitsTaken s l)) _ _ rfl fun u same b hb => by
      have own : rgnOf b ∈ l.rgns := rgnOf_mem_rgns (List.mem_of_mem_filter hb)
      rw [same]
      exact lateWrites_of_none (((dispatching_unitsTaken s l).late _).trans (late _ own))
  unfold startLaunch
  dsimp only
  rw [← unitsTaken, noLate, if_neg (by simp [waiting, fresh])]
  rfl

theorem startLaunch_takes {s : State} {l : Launch} (waiting : l.st = .waiting) (fresh : l.flag 4 = false)
    (late : ∀ r ∈ l.rgns, s.regions[r].late = []) :
    ∃ t, startLaunch s l = modLaunch t l.lid Launch.started ∧ Dispatching l s t ∧ (∀ r ∈ l.rgns, RegionTaken l r t) ∧
      ∀ b ∈ l.blks, BlockTaken l b t := by
  refine ⟨_, startLaunch_eq waiting fresh late, (dispatching_unitsTaken s l).trans ?engines, fun r hr => ?region,
    fun b hb => ?block⟩
  case engines => exact Dispatching.foldl (fun u h _ => dispatching_modHalf l u h _) (unitsTaken s l)
  case region =>
    rw [foldl_takeUnits_frame]
    exact regionTaken_unitsTaken s hr
  case block =>
    rw [foldl_takeUnits_frame]
    exact blockTaken_unitsTaken s hb

/-! ### The command -/

/-- The Control beat of a launch with units in half 1 (Table 1.2). -/
def dispatchSent (s : State) (l : Launch) : State := if l.inHalf1 then hingeSend s 0 0 else s

theorem dispatching_dispatchSent (s : State) (l : Launch) : Dispatching l s (dispatchSent s l) := by
  unfold dispatchSent
  split
  · exact dispatching_regs l s s.regs (getD_hingeSend_control s)
  · exact Dispatching.refl l s

theorem launchDispatch_none {s : State} (idle : nextLaunch s = none) (kats : List (BitVec 8)) : launchDispatch kats s = s := by
  unfold launchDispatch
  rw [idle]

/-- The state once the launch has its units: it runs, and the Tumbler units tested are counted (R334). -/
def dispatched (s u : State) (l : Launch) : State :=
  cfld (modLaunch u l.lid Launch.started) .tmbStat 0 15 0 (tumblersOf s l).length

section Next

variable {s : State} {l : Launch} (next : nextLaunch s = some l) (found : findLaunch s l.lid = some l)
  (waiting : l.st = .waiting) (fresh : l.flag 4 = false) (late : ∀ r ∈ l.rgns, s.regions[r].late = [])
include next found waiting fresh late

/-- The next launch starts: its units are taken, it runs, and it meets the faults of its own units. -/
theorem launchDispatch_starts : ∃ u, Dispatching l s u ∧ (∀ r ∈ l.rgns, RegionTaken l r u) ∧ (∀ b ∈ l.blks, BlockTaken l b u) ∧
    (∀ kats, launchDispatch kats s = ((kats.map (·.toNat)).filter (fun k => k ∈ tumblersOf s l)).foldl
      (fun t k => katFault t l k) (dispatched s u l)) ∧
    findLaunch (dispatched s u l) l.lid = some l.started := by
  have sent := dispatching_dispatchSent s l
  obtain ⟨u, starts, taken, regions, blocks⟩ := startLaunch_takes waiting fresh fun r hr => (sent.late r).trans (late r hr)
  refine ⟨u, sent.trans taken, regions, blocks, fun kats => ?_, ?_⟩
  · unfold launchDispatch
    rw [next]
    dsimp only
    rw [← dispatchSent, starts]
    rfl
  · have launches : u.launches = s.launches := by rw [(sent.trans taken).frame]
    exact findLaunch_modLaunch_same u l.lid Launch.started l ((findLaunch_congr launches l.lid).trans found) fun _ => rfl

end Next

/-- A Tumbler unit that fails its self-test halts the launch and leaves memory (R335). -/
theorem katFault_halts {s : State} {l m : Launch} (found : findLaunch s l.lid = some m) (running : m.st = .running) (k : Nat) :
    StandsHalted (katFault s l k) l.lid 0x3C06 ∧ (katFault s l k).mem = s.mem := by
  have halts (t : State) (launches : t.launches = s.launches) (mem : t.mem = s.mem) (h : HaltAt) :
      StandsHalted (haltLaunch t l.lid 0x3C06 h) l.lid 0x3C06 ∧ (haltLaunch t l.lid 0x3C06 h).mem = s.mem :=
    ⟨standsHalted_haltLaunch ((findLaunch_congr launches l.lid).trans found) (haltable_of_running running) _ h,
      (haltLaunch_mem t l.lid _ h).trans mem⟩
  unfold katFault
  dsimp only
  split
  · exact halts (stopBlk (wreg s .tmbStat 0 _) _) rfl rfl _
  · split
    · exact halts (modRgn (wreg s .tmbStat 0 _) _ _) rfl rfl _
    · exact halts (modHalf (wreg s .tmbStat 0 _) _ _) rfl rfl _

/-- Settles O36: a start takes what `Dispatching` allows and makes the launch's units its own; a failing unit then halts it. -/
theorem dispatchStartsALaunch : Obligations.DispatchStartsALaunch := by
  unfold Obligations.DispatchStartsALaunch
  refine ⟨fun k s idle => congrArg Host.Outcome.next (launchDispatch_none idle k), fun s l next found waiting fresh late => ?_⟩
  obtain ⟨u, taken, regions, blocks, starts, running⟩ := launchDispatch_starts next found waiting fresh late
  refine ⟨⟨_, congrArg Host.Outcome.next (starts []), running, fun r hr => ?region, taken.otherRegions, fun b hb => ?block,
    taken.otherBlocks, taken.credits, ?frame⟩, fun k tested => ?kat⟩
  case region =>
    obtain ⟨holder, flags⟩ := regions r hr
    exact ⟨holder, flags, taken.buffers r⟩
  case block =>
    obtain ⟨lid, iq, fetch, finished, pc⟩ := blocks b hb
    obtain ⟨acc, scratch⟩ := taken.stores b
    have apart : regAddr .blkPc b.val ≠ regAddr .tmbStat 0 := regAddr_ne (by decide) b.isLt (by decide)
    exact ⟨lid, iq, fetch, finished, (rreg_wreg_other _ .tmbStat .blkPc 0 b.val _ apart).trans pc, acc, scratch⟩
  case frame =>
    rw [taken.frame]
    rfl
  case kat =>
    have one : ([k].map (·.toNat)).filter (fun k => k ∈ tumblersOf s l) = [k.toNat] := by simp [tested]
    have run := starts [k]
    rw [one] at run
    obtain ⟨halted, mem⟩ := katFault_halts running rfl k.toNat
    have kept : u.mem = s.mem := by rw [taken.frame]
    exact ⟨_, congrArg Host.Outcome.next run, halted, mem.trans kept⟩

end Sys2Proof.Machine
end

section
/-! SUPPORT. Entries of an RVE's list, and the training entries UWR, LREXP and AMXP (R290-R293, R410, R753, Tables 6.6, 6.7). -/

namespace Sys2Proof.Machine

/-! ### An entry of an RVE that passes its checks -/

section Entry

variable {r : Fin 8} {s : State} {u : ListRun} {l : Launch} {d : BitVec 512}

/-- At an entry of its opcode, an RVE's operation has the entry's run, launch and descriptor (R753). -/
theorem rveEntry_at {op : Nat} (there : AtEntry s (.rve r) op u l d) (known : op ∈ rveOps)
    (k : ListRun → Launch → BitVec 512 → State) : rveEntry s r op k = k u l d := by
  obtain ⟨runs, entry, clean, rfl, rfl⟩ := there
  unfold rveEntry
  rw [runs]
  dsimp only
  rw [if_neg (by simp [entry]), clean]
  dsimp only
  rw [if_neg (by simp [known]), if_pos rfl]

/-- Reads that meet no held stack and no bad burst go on (R419, R420, R425). -/
theorem readsThen_good {xs : List Range} (reads : rangeWaits s (.rve r) l xs = false) (good : rangeBad s l xs = none)
    (k : State) : readsThen s r u l xs k = k := by
  unfold readsThen
  rw [if_neg (by simp [reads]), good]

/-- A training descriptor that passes its checks, with good reads, does what it is for (Table 6.11). -/
theorem trnRun_passes {i : Nat} {bad : Option Nat} {rec : Bool} {xs : List Range} (desc : bad = none) (record : rec = false)
    (within : xs.all (fun x => x.ok s l) = true) (reads : rangeWaits s (.rve r) l xs = false)
    (good : rangeBad s l xs = none) (k : State) : trnRun s r u l i bad rec xs k = k := by
  have inside : xs.any (fun x => !x.ok s l) = false := by rw [List.any_eq_not_all_not]; simp [within]
  subst desc record
  unfold trnRun
  dsimp only
  rw [if_neg (by decide), if_neg (by simp [inside]), readsThen_good reads good]

/-- The operation of a training entry that passes its checks, with accesses that meet no error, does what the entry is for. -/
theorem unitUpset_trnRun {op : Nat} {bad : BitVec 512 → Option Nat} {rec : State → BitVec 512 → Bool}
    {xs : State → BitVec 512 → List Range} (there : AtEntry s (.rve r) op u l d) (known : op ∈ rveOps)
    (desc : bad d = none) (record : rec s d = false) (within : (xs s d).all (fun x => x.ok s l) = true)
    (reads : rangeWaits s (.rve r) l (xs s d) = false) (good : rangeBad s l (xs s d) = none) (mine : Nat → Bool)
    (k : State → Launch → BitVec 512 → State) :
    unitUpset s (.rve r) mine .none (fun s => rveEntry s r op (fun u l d =>
      trnRun s r u l (tIndex d) (bad d) (rec s d) (xs s d) (k s l d))) = k s l d :=
  (unitUpset_none s (.rve r) mine _).trans
    ((rveEntry_at there known _).trans (trnRun_passes desc record within reads good _))

end Entry

/-- After its writes an entry gives way to the next: beyond the writes, only the engine's run has moved. -/
theorem SpWritten.nextEntry {r : Fin 8} {s z : State} {u : ListRun} (h : SpWritten r s z) (run : s.regions[r].rve = u) :
    let t := Machine.nextEntry z (.rve r)
    t.regions[r] = { z.regions[r] with rve := { s.regions[r].rve with idx := u.idx + 1, waiting := none, ready := [], part := 0 } } ∧
    OnlyRegion r s t ∧ t = { s with regions := t.regions, mem := { s.mem with stores := t.mem.stores } } := by
  obtain ⟨region, only, frame⟩ := h
  have moved : (Machine.nextEntry z (.rve r)).regions[r] = _ := modRgn_same z r _
  refine ⟨?_, only.trans (modRgn_onlyRegion z r _), ?_⟩
  · rw [moved, region, run]
  · rw [frame]
    rfl

theorem spWritten_storeMem (s : State) (r : Fin 8) (lid : BitVec 32) (a : Nat) (bs : List Byte) :
    SpWritten r s (storeMem s r lid a bs) :=
  spWritten_writeSp s (.rve r) lid r .mem a (fullMask bs)

/-! ### UWR: the ratio and the flags of a layer record (R291) -/

theorem uwrNf_iff (s : State) (r : Fin 8) (d : BitVec 512) :
    uwrNf s r d = true ↔ statAt s r (tSrcA d) 2 ≠ 0 ∨ statAt s r (tSrcB d) 2 ≠ 0 := by
  simp [uwrNf]

theorem uwrRho_nonfinite {s : State} {r : Fin 8} {d : BitVec 512}
    (counts : statAt s r (tSrcA d) 2 ≠ 0 ∨ statAt s r (tSrcB d) 2 ≠ 0) : uwrRho s r d = 0x7FC00000 :=
  if_pos ((uwrNf_iff s r d).mpr counts)

theorem uwrRho_finite {s : State} {r : Fin 8} {d : BitVec 512} (update : statAt s r (tSrcA d) 2 = 0)
    (weight : statAt s r (tSrcB d) 2 = 0) : uwrRho s r d =
      if (val (statAt s r (tSrcB d) 1)).isZero then (if (val (statAt s r (tSrcA d) 1)).isZero then 0 else 0x7F800000)
      else fmul (statAt s r (tSrcA d) 1) (recip (statAt s r (tSrcB d) 1)) :=
  if_neg (by simp [uwrNf_iff, update, weight])

/-- NF is bit 1 of the FLAGS byte (Table 6.7). -/
theorem uwrFlags_nf (s : State) (r : Fin 8) (d : BitVec 512) : uwrFlags s r d / 2 % 2 = (uwrNf s r d).toNat := by
  have second (hi nf zw : Bool) : (hi.toNat + 2 * nf.toNat + 4 * zw.toNat) / 2 % 2 = nf.toNat := by
    have := hi.toNat_lt
    have := nf.toNat_lt
    omega
  exact second _ _ _

theorem spWritten_uwrStore (r : Fin 8) (l : Launch) (d : BitVec 512) (s : State) : SpWritten r s (uwrStore r l d s) :=
  ((spWritten_storeMem _ _ _ _ _).trans (spWritten_storeMem _ _ _ _ _)).trans (spWritten_storeMem _ _ _ _ _)

/-! ### LREXP: the largest exponent (R292) -/

/-- An exponent is one of its range, where the range holds 0. -/
theorem scaleExp_mem {lo hi : Int} (low : lo ≤ 0) (high : 0 ≤ hi) (x : Word) (bound : Num) :
    lo ≤ scaleExp x bound lo hi ∧ scaleExp x bound lo hi ≤ hi := by
  unfold scaleExp
  dsimp only
  split
  case isTrue => exact ⟨low, high⟩
  split
  case isTrue => omega
  split
  case h_1 k found =>
    have inside : k < (hi - lo + 1).toNat := List.mem_range.mp (List.mem_of_find?_eq_some found)
    omega
  case h_2 => omega

theorem spWritten_lrexpStore (r : Fin 8) (l : Launch) (d : BitVec 512) (s : State) : SpWritten r s (lrexpStore r l d s) :=
  (spWritten_storeMem _ _ _ _ _).trans (spWritten_writeSp _ _ _ _ _ _ _)

/-! ### AMXP: the pushed STATE word (R293, Table 6.7) -/

section Pushed

variable (s : State) (r : Fin 8) (d : BitVec 512)

/-- The fields below NF of a pushed STATE word are those that HEAD and VALID leave. -/
theorem getF_amPushed_below {hi : Nat} (lo : Nat) (below : hi < 10) : getF (amPushed s r d) hi lo =
    getF (setF (setF (amState s r d) 3 0 ((amHead (amState s r d) + 1) % 16)) 8 4 (min (amValid (amState s r d) + 1) 16)) hi lo := by
  unfold amPushed
  dsimp only
  split
  · exact getF_setF_other _ 1 (by omega) (.inr below)
  · rfl

theorem amPushed_head : getF (amPushed s r d) 3 0 = (getF (amState s r d) 3 0 + 1) % 16 := by
  rw [getF_amPushed_below s r d 0 (by decide), getF_setF_other _ _ (by decide) (.inr (by decide)),
    getF_setF_same _ _ (by decide)]
  exact Nat.mod_mod _ _

theorem amPushed_valid : getF (amPushed s r d) 8 4 = min (getF (amState s r d) 8 4 + 1) 16 := by
  rw [getF_amPushed_below s r d 4 (by decide), getF_setF_same _ _ (by decide)]
  exact Nat.mod_eq_of_lt ((Nat.min_le_right _ 16).trans_lt (by decide))

end Pushed

theorem amPushed_nf {s : State} {r : Fin 8} {d : BitVec 512} (counts : statAt s r (tSrcA d) 2 ≠ 0) :
    getF (amPushed s r d) 10 10 = 1 := by
  unfold amPushed
  dsimp only
  rw [if_pos counts]
  exact getF_setF_same _ 1 (by decide)

/-- A record that counted no element pushes nothing (R293). -/
theorem amxpStore_empty {s : State} {r : Fin 8} {d : BitVec 512} (empty : statAt s r (tSrcA d) 3 = 0) (l : Launch) :
    amxpStore r l d s = s :=
  if_pos empty

theorem amxpStore_counted {s : State} {r : Fin 8} {d : BitVec 512} (counted : statAt s r (tSrcA d) 3 ≠ 0) (l : Launch) :
    amxpStore r l d s = storeMem (storeMem s r l.lid (amaxAt s r (tIndex d) + 4 * getF (amState s r d) 3 0)
      (toLe 4 (statAt s r (tSrcA d) 0).toNat)) r l.lid (amaxAt s r (tIndex d) + 64) (toLe 4 (amPushed s r d).toNat) :=
  if_neg counted

theorem spWritten_amxpStore (r : Fin 8) (l : Launch) (d : BitVec 512) (s : State) :
    SpWritten r s (amxpStore r l d s) ∧ (amxpStore r l d s).regions = s.regions := by
  by_cases empty : statAt s r (tSrcA d) 3 = 0
  · rw [amxpStore_empty empty]
    exact ⟨SpWritten.refl r s, rfl⟩
  · rw [amxpStore_counted empty]
    exact ⟨(spWritten_storeMem _ _ _ _ _).trans (spWritten_storeMem _ _ _ _ _), rfl⟩

/-- Settles O27: each entry that passes its checks is its stores, which `SpWritten` allows, and a move to the next entry. -/
theorem trainingRecordsAreWritten : Obligations.TrainingRecordsAreWritten := by
  unfold Obligations.TrainingRecordsAreWritten
  refine ⟨fun r s u l d there desc record within reads good => ?uwr, fun r s u l d there desc record within reads good => ?lrexp,
    fun r s u l d there desc record within reads good => ?amxp⟩
  case uwr =>
    have runs : unitUpset s (.rve r) (· = 0x40) .none (uwr r) = nextEntry (uwrStore r l d s) (.rve r) :=
      unitUpset_trnRun there (by decide) desc (decide_eq_false (Nat.not_le.mpr record)) within reads good _ _
    obtain ⟨region, only, frame⟩ := (spWritten_uwrStore r l d s).nextEntry (run_of_active there.1)
    refine ⟨_, uwrRho s r d, congrArg Host.Outcome.next runs, uwrRho_nonfinite, fun update weight => ?_,
      ⟨uwrFlags s r d, rfl, ?_⟩, region, only, frame⟩
    · rw [uwrRho_finite update weight]
      exact ⟨fun zero => if_pos zero, fun nonzero => if_neg (by simp [nonzero])⟩
    · simp only [uwrFlags_nf, ← uwrNf_iff]
      cases uwrNf s r d <;> rfl
  case lrexp =>
    have runs : unitUpset s (.rve r) (· = 0x41) .none (lrexp r) = nextEntry (lrexpStore r l d s) (.rve r) :=
      unitUpset_trnRun there (by decide) desc (decide_eq_false (Nat.not_le.mpr record)) within reads good _ _
    obtain ⟨region, only, frame⟩ := (spWritten_lrexpStore r l d s).nextEntry (run_of_active there.1)
    have buffer := congrArg Region.rbuf region
    exact ⟨_, congrArg Host.Outcome.next runs, ⟨rfl, buffer, scaleExp_mem (by decide) (by decide) _ _⟩,
      congrArg Region.rve region, only, frame⟩
  case amxp =>
    have runs : unitUpset s (.rve r) (· = 0x42) .none (amxp r) = nextEntry (amxpStore r l d s) (.rve r) :=
      unitUpset_trnRun there (by decide) desc record within reads good _ _
    obtain ⟨written, regions⟩ := spWritten_amxpStore r l d s
    obtain ⟨region, only, frame⟩ := written.nextEntry (run_of_active there.1)
    rw [regions] at region
    have mem : (nextEntry (amxpStore r l d s) (.rve r)).mem = (amxpStore r l d s).mem := modRun_mem _ _ _
    refine ⟨_, congrArg Host.Outcome.next runs, fun empty => ?_, fun counted => ?_, region, only, frame⟩
    · exact mem.trans (congrArg State.mem (amxpStore_empty empty l))
    · exact ⟨amPushed s r d, amPushed_head s r d, amPushed_valid s r d, amPushed_nf,
        mem.trans (congrArg State.mem (amxpStore_counted counted l))⟩

end Sys2Proof.Machine
end

section
/-! SUPPORT. The element groups of a descriptor of an RVE's list, and the variates: BERN, UNIF, GAUS and NOISE (R319, R320, R322-R324,
R336, Table 9.4). -/

namespace Sys2Proof.Machine

/-! ### The launch of an entry -/

/-- At an entry of any opcode but SADD's, which alone no stop cuts, the launch of an engine runs. -/
theorem AtEntry.running {s : State} {q : WaitUnit} {op : Nat} {u : ListRun} {l : Launch} {d : BitVec 512}
    (there : AtEntry s q op u l d) (cuts : op ≠ 0x4D) : findLaunch s l.lid = some l ∧ l.st = .running := by
  obtain ⟨runs, -, -, rfl, rfl⟩ := there
  unfold active at runs
  dsimp only at runs
  split at runs
  · cases runs
  · obtain ⟨m, kept, same⟩ := Option.map_eq_some_iff.mp runs
    obtain ⟨rfl, rfl⟩ := Prod.mk.inj same
    obtain ⟨held, may⟩ := Option.filter_eq_some_iff.mp kept
    obtain ⟨lid, -, found⟩ := Option.bind_eq_some_iff.mp held
    have named : m.lid = lid := by simpa using List.find?_some found
    have apart : midArrive s (getRun s q) = false := by simp [midArrive, cuts]
    simp only [apart, Bool.or_false, Bool.and_eq_true, decide_eq_true_eq] at may
    exact ⟨by rw [named, found], may.1.1⟩

/-! ### One element group -/

section Group

variable {r : Fin 8} {s : State} {u : ListRun} {l : Launch}

/-- A descriptor whose writes all lie in one group writes all of them at once. -/
theorem cutWrites_whole {hi : Nat} (ws : List (Nat × List Byte)) (filled : ∀ w ∈ ws, w.2 ≠ []) (p : Nat)
    (fits : p + (ws.map (fun w => w.2.length)).sum ≤ hi) : cutWrites 0 hi p ws = ws := by
  induction ws generalizing p with
  | nil => rfl
  | cons w ws ih =>
    obtain ⟨a, bs⟩ := w
    obtain ⟨full, rest⟩ := List.forall_mem_cons.mp filled
    rw [List.map_cons, List.sum_cons, ← Nat.add_assoc] at fits
    have inside : bs.take (hi - p) = bs := List.take_of_length_le (by dsimp only at fits; omega)
    rw [cutWrites, ih rest _ fits, inside]
    simp [full]

/-- Writes of an RVE, one after the other. -/
def rveWrites (s : State) (r : Fin 8) (lid : BitVec 32) (sp : Space) (ws : List (Nat × List Byte)) : State :=
  ws.foldl (fun z w => writeSp z (.rve r) lid r sp w.1 (fullMask w.2)) s

theorem spWritten_rveWrites (s : State) (r : Fin 8) (lid : BitVec 32) (sp : Space) (ws : List (Nat × List Byte)) :
    SpWritten r s (rveWrites s r lid sp ws) :=
  List.foldlRecOn _ _ (SpWritten.refl r s) fun _ written _ _ => written.trans (spWritten_writeSp _ _ _ _ _ _ _)

/-- A run after a group of its entry: the next group is current where more follow, or else the next entry (Table 9.4). -/
def ListRun.passGroup (more : Prop) [Decidable more] (u : ListRun) : ListRun :=
  if more then { u with part := u.part + 1 } else { u with idx := u.idx + 1, waiting := none, ready := [], part := 0 }

/-- A group of a descriptor that asks for no signal is its writes and one change of the engine's run. -/
theorem rveGroup_eq (s : State) (r : Fin 8) (u : ListRun) (l : Launch) (sp : Space) (e : Nat) (ws : List (Nat × List Byte)) :
    rveGroup s r u l sp e ws id =
      modRgn (rveWrites s r l.lid sp (cutWrites (8192 * e * u.part) (8192 * e * (u.part + 1)) 0 ws)) r (fun k =>
        { k with rve := k.rve.passGroup (8192 * e * (u.part + 1) < (ws.map (fun w => w.2.length)).sum) }) := by
  unfold rveGroup ListRun.passGroup
  dsimp only
  split <;> rfl

/-- A group leaves what Table 9.4 says, and asks for no increment of a flag. -/
theorem groupLeft_rveGroup (run : s.regions[r].rve = u) (sp : Space) (e : Nat) (ws : List (Nat × List Byte)) :
    (rveGroup s r u l sp e ws id).flagReqs = s.flagReqs ∧ GroupLeft r u l sp e ws s (rveGroup s r u l sp e ws id) := by
  obtain ⟨region, only, frame⟩ :=
    spWritten_rveWrites s r l.lid sp (cutWrites (8192 * e * u.part) (8192 * e * (u.part + 1)) 0 ws)
  rw [rveGroup_eq]
  refine ⟨by rw [frame]; rfl, ⟨rfl, by rw [modRgn_same]; rfl⟩, fun first fits filled => ?whole, ?region,
    only.trans (modRgn_onlyRegion _ r _), by rw [frame]; rfl⟩
  case whole =>
    have all : cutWrites (8192 * e * u.part) (8192 * e * (u.part + 1)) 0 ws = ws := by
      rw [first]
      exact cutWrites_whole ws filled 0 (by omega)
    rw [all, modRgn_same]
    exact ⟨rfl, rfl⟩
  case region =>
    rw [modRgn_same, region, run]
    rfl

end Group

/-! ### Draws -/

section Draw

variable {r : Fin 8} {s : State} {u : ListRun} {l : Launch} {d : BitVec 512}

/-- With the Tumbler array in use, a random entry leaves its next group. -/
theorem draw_inUse (use : s.regions[r].rveOut = false) (run : s.regions[r].rve = u) (e : Nat) (ws : List (Nat × List Byte)) :
    (draw s r u l d e ws).flagReqs = s.flagReqs ∧ GroupLeft r u l (vDst d).sp e ws s (draw s r u l d e ws) := by
  have draws : draw s r u l d e ws = rveGroup s r u l (vDst d).sp e ws id := if_neg (Bool.eq_false_iff.mp use)
  rw [draws]
  exact groupLeft_rveGroup run _ e ws

/-- With the array out of use it halts the launch with TMB_KAT and writes nothing (R336). -/
theorem draw_outOfUse (out : s.regions[r].rveOut = true) (found : findLaunch s l.lid = some l) (running : l.st = .running)
    (e : Nat) (ws : List (Nat × List Byte)) :
    let t := draw s r u l d e ws
    Halted t l 0x3C06 ∧ t.mem = s.mem ∧ t.regions[r].rbuf = s.regions[r].rbuf := by
  have draws : draw s r u l d e ws = tmbKat s (.rve r) l.lid (0xC0 + r.val) u.idx := if_pos out
  rw [draws]
  obtain ⟨halted, buffers⟩ := unitHalt_halts
    (s := wreg s .tmbStat 0 (setF (setF (rreg s .tmbStat 0) 31 31 1) 23 16 (0xC0 + r.val))) (q := .rve r) rfl nofun
    found running 0x3C06 u.idx (setF (setF (rreg s .tmbStat 0) 31 31 1) 23 16 (0xC0 + r.val)).toNat
  refine ⟨halted, unitHalt_mem _ _ _ _ _ _, ?_⟩
  simpa [tmbKat] using congrArg (fun v => v[r]) buffers

/-- BERN at an entry that passes its checks draws its mask areas. -/
theorem bern_draws (there : AtEntry s (.rve r) 0x48 u l d) (desc : bernBad d = none)
    (within : (wrR (vDst d) (2048 * vCount d)).ok s l = true) : bern r s = draw s r u l d 1 (bernOut s l d) := by
  unfold bern
  rw [rveEntry_at there (by decide), desc]
  exact if_neg (by simp [within])

/-- UNIF or GAUS at an entry that passes its checks draws its elements. -/
theorem variates_draws {op : Nat} (there : AtEntry s (.rve r) op u l d) (known : op ∈ rveOps) (desc : vecBad d = none)
    (within : (wrR (vDst d) (vElt d * vCount d)).ok s l = true) (f : BitVec 512 → Launch → Nat → Word) :
    variates r s op f = draw s r u l d (8 * vElt d) (vecOut l d f) := by
  unfold variates
  rw [rveEntry_at there known, desc]
  exact if_neg (by simp [within])

/-- NOISE at an entry that passes its checks draws the noise of every request of its slot. -/
theorem noise_draws {n : Nat} (there : AtEntry s (.rve r) 0x4B u l d) (desc : noiseBad d = none) (slot : noiseSlot l d = some n)
    (within : (List.range n).all (fun q => (Range.mk (vDst d).sp true (noiseAt d q) (vElt d * vCount d)).ok s l) = true) :
    noise r s = draw s r u l d (8 * vElt d) (noiseOut l d n) := by
  have inside : (List.range n).any (fun q => !(Range.mk (vDst d).sp true (noiseAt d q) (vElt d * vCount d)).ok s l) = false := by
    rw [List.any_eq_not_all_not]
    simp only [Bool.not_not, within, Bool.not_true]
  unfold noise
  rw [rveEntry_at there (by decide), desc, slot]
  exact if_neg (by simp only [inside]; exact Bool.false_ne_true)

end Draw

/-- Settles O29: an entry that passes its checks is a draw of its writes, which leaves a group or, with the array out of use,
halts the launch. -/
theorem variatesAreWritten : Obligations.VariatesAreWritten := by
  unfold Obligations.VariatesAreWritten
  refine ⟨fun r s u l d there desc within => ?bern, fun p listed r s u l d there desc within use => ?vector,
    fun r s u l d n there desc slot within use => ?noise⟩
  case bern =>
    have runs : exec (.bern r) s = .next (draw s r u l d 1 (bernOut s l d)) :=
      congrArg Host.Outcome.next (bern_draws there desc within)
    refine ⟨fun use => ⟨_, runs, draw_inUse use (run_of_active there.1) 1 _⟩, fun out => ?_⟩
    obtain ⟨found, running⟩ := there.running (by decide)
    obtain ⟨halted, mem, buffer⟩ := draw_outOfUse (u := u) (d := d) out found running 1 (bernOut s l d)
    exact ⟨_, runs, ⟨_, halted, rfl, rfl⟩, mem, buffer⟩
  case vector =>
    simp only [List.mem_cons, List.not_mem_nil, or_false] at listed
    obtain rfl | rfl := listed
    all_goals exact ⟨_, congrArg Host.Outcome.next (variates_draws there (by decide) desc within _),
      draw_inUse use (run_of_active there.1) _ _⟩
  case noise =>
    exact ⟨_, congrArg Host.Outcome.next (noise_draws there desc slot within), draw_inUse use (run_of_active there.1) _ _⟩

end Sys2Proof.Machine
end

section
/-! SUPPORT. The token sampler: starting a SAMPLE, its rows, and END (R326-R328, R331, R332). -/

namespace Sys2Proof.Machine

/-! ### A change of one half -/

theorem modHalf_same (s : State) (h : Fin 2) (f : Half → Half) : (modHalf s h f).halves[h] = f s.halves[h] := by simp

theorem modHalf_onlyHalf (s : State) (h : Fin 2) (f : Half → Half) : OnlyHalf h s (modHalf s h f) := by
  intro c hc
  simp [Fin.val_ne_of_ne hc.symm]

theorem modHalf_modHalf (s : State) (h : Fin 2) (f g : Half → Half) :
    modHalf (modHalf s h f) h g = modHalf s h (fun k => g (f k)) := by
  simp [modHalf]

/-! ### An entry of a sampler -/

/-- A list engine that may begin does not wait on a flag. -/
theorem waiting_of_active {s : State} {q : WaitUnit} {u : ListRun} {l : Launch} (h : active s q = some (u, l)) :
    (getRun s q).waiting = none := by
  unfold active at h
  dsimp only at h
  split at h
  case isTrue => cases h
  case isFalse free => simpa using (not_or.mp (not_or.mp free).2).2

/-- No wait ends of an engine that has none. -/
theorem endWait_idle {s : State} {q : WaitUnit} (idle : (getRun s q).waiting = none) : endWait s q = s := by
  unfold endWait
  dsimp only
  rw [idle]

section Entry

variable {h : Fin 2} {s : State} {u : ListRun} {l : Launch} {d : BitVec 512}

/-- At an entry, a sampler's operation has the entry's run, launch and descriptor (R326). -/
theorem smpEntry_at {op : Nat} (there : AtEntry s (.smp h) op u l d) (k : ListRun → Launch → BitVec 512 → State) :
    smpEntry s h k = k u l d := by
  obtain ⟨runs, entry, clean, rfl, -⟩ := there
  unfold smpEntry
  rw [runs]
  dsimp only
  rw [if_neg (by simp [entry]), clean]

/-- SAMPLE at a descriptor with no row in progress that passes its checks, and whose flag is there, stands at row 0 (R331). -/
theorem sampleStart_starts (there : AtEntry s (.smp h) 0x50 u l d) (idle : s.halves[h].smpRow = none) (desc : smpBad l d = none)
    (within : (smpRanges l d).all (fun x => x.ok s l) = true)
    (reached : fld d 2 1 / 128 = 1 → fld d 12 4 ≤ flagVal s (Fin.ofNat 8 (fld d 2 1)) (Fin.ofNat 64 (fld d 3 1))) :
    sampleStart h s = modHalf s h (fun g => { g with smpRow := some 0 }) := by
  have op : fld d 0 1 = 0x50 := there.2.2.2.2
  have inside : (smpRanges l d).findIdx? (fun x => !x.ok s l) = none :=
    List.findIdx?_eq_none_iff.mpr fun x listed => by simp [List.all_eq_true.mp within x listed]
  have free : ¬ (fld d 0 1 = 0x3F ∨ s.halves[h].smpRow.isSome = true) := by
    rw [op, idle]
    decide
  unfold sampleStart
  rw [smpEntry_at there, if_neg free, desc]
  dsimp only
  rw [inside]
  exact if_neg fun waits => Nat.not_lt.mpr (reached waits.1) waits.2

end Entry

/-! ### One row -/

/-- The record of row `i` of a SAMPLE: of no token where a parameter is refused, or else of what the row selects (R327, R328). -/
def rowResult (s : State) (h : Fin 2) (l : Launch) (d : BitVec 512) (i : Nat) : RowOut :=
  let prm := readSp s (sRgn d 24 h) (sPrm d).sp ((sPrm d).addr + 16 * i) 16
  let tm : Word := BitVec.ofNat 32 (leAt prm 0 4)
  let p : Word := BitVec.ofNat 32 (leAt prm 8 4)
  let req := l.roster.getD (leAt prm 12 2) 0
  if rowParamBad l tm (leAt prm 4 4) p (leAt prm 12 2) then rowNone 0x20
  else sampleRow (rowLogits s h d i) tm (leAt prm 4 4) p (fld d 44 1)
    (uniform (tumbler (roSeed req) (tmbCounter (sStream d) (roStep req) (leAt prm 14 2) 0 5)) false)

/-- SMP_STAT counts a row whose candidates were truncated (R329). -/
def rowCounted (s : State) (h : Fin 2) (o : RowOut) : State :=
  if o.flags / 8 % 2 = 1 then cfld s .smpStat h.val 15 0 1 else s

/-- The record of row `i` written at its place. -/
def recordPut (s : State) (h : Fin 2) (l : Launch) (d : BitVec 512) (i : Nat) (o : RowOut) : State :=
  writeSp s (.smp h) l.lid (sRgn d 32 h) (sRes d).sp ((sRes d).addr + 16 * i) (fullMask (rowBytes7 o))

theorem rowCounted_eq (s : State) (h : Fin 2) (o : RowOut) : rowCounted s h o = { s with regs := (rowCounted s h o).regs } := by
  unfold rowCounted
  split <;> rfl

theorem rowCounted_regsBut (s : State) (h : Fin 2) (o : RowOut) : RegsBut [regAddr .smpStat h.val] s (rowCounted s h o) := by
  unfold rowCounted
  split
  · exact wreg_regsBut s _ _ _
  · exact RegsBut.refl _ s

/-- A row's record is written, and the row is counted. -/
def rowWritten (s : State) (h : Fin 2) (l : Launch) (d : BitVec 512) (i : Nat) : State :=
  recordPut (rowCounted s h (rowResult s h l d i)) h l d i (rowResult s h l d i)

/-- Counting a row changes nothing of its record. -/
theorem rowWritten_eq (s : State) (h : Fin 2) (l : Launch) (d : BitVec 512) (i : Nat) : rowWritten s h l d i =
    { recordPut s h l d i (rowResult s h l d i) with regs := (rowCounted s h (rowResult s h l d i)).regs } := by
  unfold rowWritten
  rw [rowCounted_eq]
  unfold recordPut writeSp
  split <;> rfl

theorem rowWritten_frame (s : State) (h : Fin 2) (l : Launch) (d : BitVec 512) (i : Nat) : rowWritten s h l d i =
    { s with regs := (rowWritten s h l d i).regs, regions := (rowWritten s h l d i).regions, mem := (rowWritten s h l d i).mem } := by
  obtain ⟨-, -, frame⟩ : SpWritten (sRgn d 32 h) s (recordPut s h l d i (rowResult s h l d i)) := spWritten_writeSp _ _ _ _ _ _ _
  rw [rowWritten_eq, frame]

/-- The state that a row leaves: its record is written, the half is as `f` leaves it, and increments are asked for. -/
def rowLeft (s : State) (h : Fin 2) (l : Launch) (d : BitVec 512) (i : Nat) (f : Half → Half) (reqs : List FlagReq) : State :=
  { modHalf (rowWritten s h l d i) h f with flagReqs := s.flagReqs ++ reqs }

theorem rowLeft_changes (s : State) (h : Fin 2) (l : Launch) (d : BitVec 512) (i : Nat) (f : Half → Half) (reqs : List FlagReq) :
    let t := rowLeft s h l d i f reqs
    let z := recordPut s h l d i (rowResult s h l d i)
    (t.mem = z.mem ∧ t.regions = z.regions) ∧ t.halves[h] = f s.halves[h] ∧ OnlyHalf h s t ∧
    RegsBut [regAddr .smpStat h.val] s t ∧
    t = { s with regs := t.regs, regions := t.regions, halves := t.halves, mem := t.mem, flagReqs := t.flagReqs } := by
  have mem : (rowWritten s h l d i).mem = (recordPut s h l d i (rowResult s h l d i)).mem := by rw [rowWritten_eq]
  have regions : (rowWritten s h l d i).regions = (recordPut s h l d i (rowResult s h l d i)).regions := by rw [rowWritten_eq]
  have regs : (rowWritten s h l d i).regs = (rowCounted s h (rowResult s h l d i)).regs := by rw [rowWritten_eq]
  have frame := rowWritten_frame s h l d i
  have halves : (rowLeft s h l d i f reqs).halves = (modHalf s h f).halves := by
    unfold rowLeft modHalf
    rw [frame]
  refine ⟨⟨mem, regions⟩, ?half, ?only, ?regs, ?frame⟩
  case half =>
    rw [halves]
    exact modHalf_same s h f
  case only =>
    unfold OnlyHalf
    rw [halves]
    exact modHalf_onlyHalf s h f
  case regs => exact (rowCounted_regsBut s h _).congr rfl regs
  case frame =>
    unfold rowLeft
    rw [frame]
    rfl

/-- A row that asks for no increment: another one follows. -/
theorem rowLeft_next (s : State) (h : Fin 2) (l : Launch) (d : BitVec 512) (i : Nat) (f : Half → Half) :
    modHalf (rowWritten s h l d i) h f = rowLeft s h l d i f [] := by
  unfold rowLeft
  rw [List.append_nil, rowWritten_frame]
  rfl

/-- The half after the last row of a descriptor: no row is in progress, and the next entry is current. -/
def Half.rowsDone (g : Half) : Half :=
  { g with smpRow := none, smp := { g.smp with idx := g.smp.idx + 1, waiting := none, ready := [], part := 0 } }

/-- The increments that a SAMPLE asks for when it is done: one of the flag of its SIG, if it names one (R331). -/
def smpAsks (z : State) (h : Fin 2) (lid : BitVec 32) (idx : Nat) (d : BitVec 512) : List FlagReq :=
  if fld d 42 1 / 128 = 1 then
    [⟨.smp h, idx, lid, Fin.ofNat 8 (fld d 42 1), Fin.ofNat 64 (fld d 43 1), 1, storesOf z (.smp h)⟩] else []

/-- The last row of a descriptor. -/
theorem smpDone_rowWritten (s : State) (h : Fin 2) (l : Launch) (d : BitVec 512) (i idx : Nat) :
    smpDone (rowWritten s h l d i) h l idx d =
      rowLeft s h l d i Half.rowsDone (smpAsks (rowWritten s h l d i) h l.lid idx d) := by
  have reqs : (rowWritten s h l d i).flagReqs = s.flagReqs := by rw [rowWritten_frame]
  unfold smpDone smpAsks rowLeft
  rw [← reqs]
  dsimp only [nextEntry, modRun]
  rw [modHalf_modHalf]
  split
  · rfl
  · rw [List.append_nil]
    rfl

section Row

variable {h : Fin 2} {s : State} {u : ListRun} {l : Launch} {d : BitVec 512} {i : Nat}

/-- A row with parameters, logits and draw in reach writes its record, and the next row or the end of the descriptor follows (R330). -/
theorem samplerRow_writes (there : AtEntry s (.smp h) 0x50 u l d) (row : s.halves[h].smpRow = some i) (inside : i < sRows l d)
    (use : s.halves[h].smpOut = false) (accepted : storesWait s (.smp h) = false)
    (reads : rangeWaits s (.smp h) l [Range.mk (sPrm d).sp false ((sPrm d).addr + 16 * i) 16,
      Range.mk (sSrc d).sp false (sRowAt d i) (sElt d * sV d)] = false)
    (good : rangeBad s l [Range.mk (sPrm d).sp false ((sPrm d).addr + 16 * i) 16,
      Range.mk (sSrc d).sp false (sRowAt d i) (sElt d * sV d)] = none) :
    samplerRow h s = if i + 1 = sRows l d then smpDone (rowWritten s h l d i) h l u.idx d
      else modHalf (rowWritten s h l d i) h (fun g => { g with smpRow := some (i + 1) }) := by
  unfold samplerRow
  rw [smpEntry_at there, row]
  dsimp only
  rw [if_neg (Nat.not_le.mpr inside), if_neg (Bool.eq_false_iff.mp accepted), if_neg (Bool.eq_false_iff.mp reads), good]
  dsimp only
  rw [use, Bool.and_false, if_neg Bool.false_ne_true]
  rfl

end Row

/-- Settles O31: a SAMPLE that starts and an END are one change of the half; a row is its record and a move to the next row or
entry. -/
theorem samplerSelectsTokens : Obligations.SamplerSelectsTokens := by
  unfold Obligations.SamplerSelectsTokens
  refine ⟨fun h s u l d there idle desc within reached => ?start, fun h s u l d i there row inside use accepted reads good => ?row,
    fun h s u l d there => ?ends⟩
  case start =>
    have runs : exec (.sample h) s = .next (modHalf s h (fun g => { g with smpRow := some 0 })) := by
      simp only [exec, execSample]
      rw [endWait_idle (waiting_of_active there.1), sampleStart_starts there idle desc within reached]
    exact ⟨_, runs, modHalf_same s h _, modHalf_onlyHalf s h _, rfl⟩
  case row =>
    have runs := (unitUpset_none s (.smp h) (fun _ => s.halves[h].smpRow.isSome) (samplerRow h)).trans
      (samplerRow_writes there row inside use accepted reads good)
    have run : s.halves[h].smp = u := run_of_active there.1
    by_cases last : i + 1 = sRows l d
    · rw [if_pos last, smpDone_rowWritten] at runs
      obtain ⟨bytes, half, only, regs, frame⟩ := rowLeft_changes s h l d i Half.rowsDone
        (smpAsks (rowWritten s h l d i) h l.lid u.idx d)
      refine ⟨_, rowResult s h l d i, congrArg Host.Outcome.next runs, ⟨fun refused => if_pos refused, fun fine =>
        if_neg (Bool.eq_false_iff.mp fine)⟩, bytes, fun more => absurd last (Nat.ne_of_lt more), fun _ =>
        ⟨?_, fun silent => ?_, fun signals => ?_⟩, only, regs, frame⟩
      · rw [half, ← run]
        rfl
      · exact (congrArg (s.flagReqs ++ ·) (if_neg (by simp [silent]))).trans (List.append_nil _)
      · exact ⟨_, congrArg (s.flagReqs ++ ·) (if_pos signals), rfl, rfl, rfl, rfl⟩
    · rw [if_neg last, rowLeft_next] at runs
      obtain ⟨bytes, half, only, regs, frame⟩ := rowLeft_changes s h l d i (fun g => { g with smpRow := some (i + 1) }) []
      exact ⟨_, rowResult s h l d i, congrArg Host.Outcome.next runs, ⟨fun refused => if_pos refused, fun fine =>
        if_neg (Bool.eq_false_iff.mp fine)⟩, bytes, fun _ => ⟨half, List.append_nil _⟩, fun done => absurd done last, only, regs,
        frame⟩
  case ends =>
    have op : fld d 0 1 = 0x3F := there.2.2.2.2
    have ends : exec (.smpEnd h) s = .next (modRun s (.smp h) (fun u => { u with finished := true })) := by
      simp only [exec, execSmpEnd]
      rw [smpEntry_at there, if_pos op]
    exact ⟨_, ends, modHalf_same s h _, modHalf_onlyHalf s h _, rfl⟩

end Sys2Proof.Machine
end

section
/-! SUPPORT. Reductions of an RVE, TADD and SADD, and the END of its list (R348-R352, R354, R410, R753, Table 9.4; logs 141, 147). -/

namespace Sys2Proof.Machine

/-! ### How an entry of a reduction is left -/

/-- What an entry of an RVE can have changed before its run moves on: its region's buffer, and memory with the lines that cache it. -/
def RveWritten (r : Fin 8) (s z : State) : Prop :=
  z.regions[r] = { s.regions[r] with rbuf := z.regions[r].rbuf } ∧ OnlyRegion r s z ∧
  z = { s with regions := z.regions, mem := z.mem, halves := z.halves }

theorem SpWritten.rveWritten {r : Fin 8} {s z : State} (h : SpWritten r s z) : RveWritten r s z := by
  obtain ⟨region, only, frame⟩ := h
  exact ⟨region, only, by rw [frame]⟩

/-- What a reduction does about its signal: it is asked for when the entry gives way and SIG is set, and no flag changes (R354). -/
def RedSignals (r : Fin 8) (u : ListRun) (d : BitVec 512) (s t : State) : Prop :=
  (rSig d = false → t.flagReqs = s.flagReqs) ∧
  (rSig d = true → t.regions[r].rve.idx = u.idx + 1 →
    ∃ q, t.flagReqs = s.flagReqs ++ [q] ∧ q.src = .rve r ∧ q.rgn = r ∧ q.inc = 1) ∧
  t.regions[r].flags = s.regions[r].flags ∧ OnlyRegion r s t

/-- The increments that a reduction's entry asks for as it gives way to the next: one of its region's flag, if SIG is set (R354). -/
def redAsks (z : State) (r : Fin 8) (u : ListRun) (l : Launch) (d : BitVec 512) : List FlagReq :=
  if rSig d then [⟨.rve r, u.idx, l.lid, r, Fin.ofNat 64 (fld d 3 1), 1, storesOf z (.rve r)⟩] else []

theorem redSig_eq (z : State) (r : Fin 8) (u : ListRun) (l : Launch) (d : BitVec 512) :
    redSig z r u l d = { z with flagReqs := z.flagReqs ++ redAsks z r u l d } := by
  unfold redSig redAsks
  split
  · rfl
  · rw [List.append_nil]

/-- A reduction after the writes `z`: with more of its entry to come the next part is current, or else it asks for its signal and the
next entry is. -/
def redLeft (z : State) (r : Fin 8) (u : ListRun) (l : Launch) (d : BitVec 512) (more : Prop) [Decidable more] : State :=
  if more then nextPart z (.rve r) else nextEntry (redSig z r u l d) (.rve r)

theorem redLeft_eq (z : State) (r : Fin 8) (u : ListRun) (l : Launch) (d : BitVec 512) (more : Prop) [Decidable more] :
    redLeft z r u l d more = { modRgn z r (fun g => { g with rve := g.rve.passGroup more }) with
      flagReqs := z.flagReqs ++ if more then [] else redAsks z r u l d } := by
  unfold redLeft ListRun.passGroup
  split
  · rw [List.append_nil]
    rfl
  · rw [redSig_eq]
    rfl

/-- Only the engine's run moves on after the writes, and an increment of a flag may be asked for. -/
theorem RveWritten.redLeft {r : Fin 8} {s z : State} {u : ListRun} (h : RveWritten r s z) (run : s.regions[r].rve = u)
    (l : Launch) (d : BitVec 512) (more : Prop) [Decidable more] :
    let t := Machine.redLeft z r u l d more
    (t.mem = z.mem ∧ t.regions[r].rbuf = z.regions[r].rbuf) ∧ t.regions[r].rve = s.regions[r].rve.passGroup more ∧
    t = { z with regions := t.regions, flagReqs := t.flagReqs } ∧ RedSignals r u d s t := by
  obtain ⟨region, only, frame⟩ := h
  have reqs : z.flagReqs = s.flagReqs := by rw [frame]
  have moved : (modRgn z r (fun g => { g with rve := g.rve.passGroup more })).regions[r] =
      { s.regions[r] with rbuf := z.regions[r].rbuf, rve := s.regions[r].rve.passGroup more } := by
    rw [modRgn_same, region]
  rw [redLeft_eq, reqs]
  refine ⟨⟨rfl, by rw [moved]⟩, by rw [moved], rfl, fun silent => ?silent, fun signals ends => ?signals,
    by rw [moved], only.trans (modRgn_onlyRegion z r (fun g => { g with rve := g.rve.passGroup more }))⟩
  case silent =>
    have none : redAsks z r u l d = [] := if_neg (Bool.eq_false_iff.mp silent)
    rw [none, ite_self]
    exact List.append_nil _
  case signals =>
    rw [moved] at ends
    have last : ¬ more := fun more => by
      rw [ListRun.passGroup, if_pos more, run] at ends
      exact absurd ends (Nat.ne_of_lt (Nat.lt_succ_self _))
    rw [if_neg last]
    exact ⟨_, congrArg (s.flagReqs ++ ·) (if_pos signals), rfl, rfl, rfl⟩

/-- What Table 9.4 says of a group says nothing of the increments that wait. -/
theorem GroupLeft.withReqs {r : Fin 8} {u : ListRun} {l : Launch} {sp : Space} {e : Nat} {ws : List (Nat × List Byte)}
    {s t : State} (h : GroupLeft r u l sp e ws s t) (reqs : List FlagReq) : GroupLeft r u l sp e ws s { t with flagReqs := reqs } := by
  obtain ⟨bytes, whole, region, only, frame⟩ := h
  have kept : ({ t with flagReqs := reqs } : State) = _ := congrArg (fun x : State => { x with flagReqs := reqs }) frame
  exact ⟨bytes, whole, region, only, kept⟩

/-- A group changes no byte of memory before its stores are accepted. -/
theorem GroupLeft.bytes {r : Fin 8} {u : ListRun} {l : Launch} {sp : Space} {e : Nat} {ws : List (Nat × List Byte)} {s t : State}
    (h : GroupLeft r u l sp e ws s t) : t.mem.bytes = s.mem.bytes := by
  obtain ⟨-, -, -, -, frame⟩ := h
  rw [frame]

/-- An element group of a reduction leaves what Table 9.4 says, and asks for its signal after the last. -/
theorem groupLeft_redSig {r : Fin 8} {s : State} {u : ListRun} (run : s.regions[r].rve = u) (l : Launch) (d : BitVec 512)
    (sp : Space) (e : Nat) (ws : List (Nat × List Byte)) :
    let t := rveGroup s r u l sp e ws (fun z => redSig z r u l d)
    GroupLeft r u l sp e ws s t ∧ RedSignals r u d s t := by
  have written := spWritten_rveWrites s r l.lid sp (cutWrites (8192 * e * u.part) (8192 * e * (u.part + 1)) 0 ws)
  have left : rveGroup s r u l sp e ws (fun z => redSig z r u l d) =
      redLeft (rveWrites s r l.lid sp (cutWrites (8192 * e * u.part) (8192 * e * (u.part + 1)) 0 ws)) r u l d
        (8192 * e * (u.part + 1) < (ws.map (fun w => w.2.length)).sum) := rfl
  obtain ⟨-, group⟩ := groupLeft_rveGroup (l := l) run sp e ws
  rw [rveGroup_eq] at group
  obtain ⟨-, -, -, signals⟩ := written.rveWritten.redLeft run l d (8192 * e * (u.part + 1) < (ws.map (fun w => w.2.length)).sum)
  refine ⟨?_, left ▸ signals⟩
  rw [left, redLeft_eq]
  exact group.withReqs _

/-- Accesses that all lie in range leave none outside (R353). -/
theorem any_not_ok_eq_false {s : State} {l : Launch} {xs : List Range} (within : xs.all (fun x => x.ok s l) = true) :
    xs.any (fun x => !x.ok s l) = false := by
  rw [List.any_eq_not_all_not]
  simp [within]

/-! ### TADD (R348-R350) -/

section Entry

variable {r : Fin 8} {s : State} {u : ListRun} {l : Launch} {d : BitVec 512}

/-- TADD at an entry that passes its checks, with its partials ready and its reads good, writes words of its sum. -/
theorem exec_tadd (there : AtEntry s (.rve r) 0x4C u l d) (desc : taddBad l d = none)
    (within : (taddRanges d).all (fun x => x.ok s l) = true) (ready : u.part = 0 → notReady s r d = none)
    (reads : rangeWaits s (.rve r) l (taddRanges d) = false) (good : rangeBad s l (taddRanges d) = none) (cycles : List Nat) :
    exec (.tadd ⟨r, .none⟩ cycles) s = .next (taddRun cycles s r u l d) := by
  have begun : (notReady s r d).filter (fun _ => u.part = 0) = none :=
    Option.filter_eq_none_iff.mpr fun f unready => by
      simpa using fun first => absurd (ready first) (by simp [unready])
  have runs : tadd r cycles s = taddRun cycles s r u l d := by
    unfold tadd
    rw [rveEntry_at there (by decide), desc]
    dsimp only
    rw [if_neg (Bool.eq_false_iff.mp (any_not_ok_eq_false within)), begun]
    exact readsThen_good reads good _
  simp only [exec, execTadd]
  rw [endWait_idle (waiting_of_active there.1), unitUpset_none, runs]

/-- Without ARRIVE a TADD writes a group of the canonical sum (R348). -/
theorem taddRun_tree (fixed : rArrive d = false) (cycles : List Nat) : taddRun cycles s r u l d =
    rveGroup s r u l (rDst d).sp 32 [((rDst d).addr, wordBytes (treeSum s ((List.range (taN d)).map (taPart s r d))))]
      (fun z => redSig z r u l d) := by
  unfold taddRun taSum
  dsimp only
  rw [if_neg (Bool.eq_false_iff.mp fixed), if_neg (Bool.eq_false_iff.mp fixed)]

/-- With ARRIVE it writes the whole sum in the order of arrival, and the next entry follows (R350). -/
theorem taddRun_arrive (arrive : rArrive d = true) (cycles : List Nat) : taddRun cycles s r u l d =
    redLeft (writeSp s (.rve r) l.lid r (rDst d).sp (rDst d).addr
      (fullMask (wordBytes (orderSum (isCompat s) ((taOrder u cycles (taN d)).map (taPart s r d)))))) r u l d False := by
  unfold taddRun taSum redLeft
  dsimp only
  rw [if_pos arrive, if_pos arrive, if_neg not_false]

/-! ### SADD (R351, R352) -/

/-- SADD at an entry that passes its checks, with its reads good, makes its additions. -/
theorem exec_sadd (there : AtEntry s (.rve r) 0x4D u l d) (desc : saddBad l d = none)
    (within : (saddRanges d).all (fun x => x.ok s l) = true) (reads : rangeWaits s (.rve r) l (saddNow s r u d) = false)
    (good : rangeBad s l (saddNow s r u d) = none) : exec (.sadd ⟨r, .none⟩) s = .next (saddRun s r u l d) := by
  have runs : sadd r s = saddRun s r u l d := by
    unfold sadd
    rw [rveEntry_at there (by decide), desc]
    dsimp only
    rw [if_neg (Bool.eq_false_iff.mp (any_not_ok_eq_false within))]
    exact readsThen_good reads good _
  simp only [exec, execSadd]
  rw [unitUpset_none, runs]

/-- Without ARRIVE a SADD writes a group of its destination rows (R351). -/
theorem saddRun_fixed (fixed : rArrive d = false) :
    saddRun s r u l d = rveGroup s r u l (rDst d).sp 32 (saddOut s r d) (fun z => redSig z r u l d) :=
  if_neg (Bool.eq_false_iff.mp fixed)

/-- With ARRIVE it adds one source row, once the row's home takes it (R352). -/
theorem saddRun_arrive (arrive : rArrive d = true) (takes : saddWaits s r l d u.part = false) :
    saddRun s r u l d = redLeft (saddRow s r l d u.part) r u l d (u.part + 1 < saN d) := by
  unfold saddRun
  rw [if_pos arrive, if_neg (Bool.eq_false_iff.mp takes)]
  rfl

end Entry

theorem readWords_length (s : State) (r : Fin 8) (sp : Space) (a n : Nat) : (readWords s r sp a n).length = n := by
  simp [readWords]

theorem wordBytes_length (ws : List Word) : (wordBytes ws).length = 4 * ws.length := by
  simp [wordBytes, List.length_flatMap, toLe_length, Nat.mul_comm]

theorem saVal_length (s : State) (r : Fin 8) (d : BitVec 512) (rows : List Nat) (k : Nat) :
    (saVal s r d rows k).length = saW d := by
  unfold saVal
  exact List.foldlRecOn (motive := fun a : List Word => a.length = saW d) _ _ (readWords_length s r _ _ _) fun a kept i _ => by
    rw [List.length_zipWith, kept, readWords_length, Nat.min_self]

/-- The destination row that the index of source row `i` gives, in range or not. -/
def saIndex (s : State) (r : Fin 8) (d : BitVec 512) (i : Nat) : Nat :=
  ((readWords s r (saIx d).sp (saIx d).addr (saN d)).getD i 0).toNat

/-- What the addition of source row `i` makes of memory and of the region's buffer: the destination row that it names in range has
the sum, in memory at once (R352, log 141). -/
def rowAdded (s : State) (r : Fin 8) (l : Launch) (d : BitVec 512) (i : Nat) : State :=
  let k := saIndex s r d i
  let v := saVal s r d [i] k
  if k < saD0 d ∨ saD0 d + saDn d ≤ k then s
  else if (rDst d).sp = .mem then memPut s (saDrow d k) (wordBytes v)
  else writeSp s (.rve r) l.lid r (rDst d).sp (saDrow d k) (fullMask (wordBytes v))

/-- An accepted write of a unit's row to memory has its bytes there at once. -/
theorem rveWritten_acceptMem (r : Fin 8) (s : State) (a : Nat) (bs : List Byte) (job : Nat) :
    RveWritten r s (acceptMem s a bs job) := by
  have frame := acceptMem_frame s a bs job
  refine ⟨by rw [frame], fun _ _ => by rw [frame], by rw [frame]⟩

/-- Where the home of its destination row takes it, the addition of a source row is made. -/
theorem saddRow_adds {s : State} {r : Fin 8} {l : Launch} {d : BitVec 512} {i : Nat} (takes : saddWaits s r l d i = false) :
    let t := saddRow s r l d i
    let z := rowAdded s r l d i
    RveWritten r s t ∧ t.mem.bytes = z.mem.bytes ∧ t.mem.stores = z.mem.stores ∧ t.regions[r].rbuf = z.regions[r].rbuf := by
  intro t z
  by_cases out : saIndex s r d i < saD0 d ∨ saD0 d + saDn d ≤ saIndex s r d i
  · have dest : saDest s r d i = none := if_pos out
    have kept : t = s := by simp only [t, saddRow, dest]
    have same : z = s := if_pos out
    rw [kept, same]
    exact ⟨(SpWritten.refl r s).rveWritten, rfl, rfl, rfl⟩
  have dest : saDest s r d i = some (saIndex s r d i) := if_neg out
  by_cases mem : (rDst d).sp = .mem
  · have ready : writeReady s (.rve r) (saDrow d (saIndex s r d i)) (4 * saW d) l.job = true := by
      simpa [saddWaits, dest, mem] using takes
    have added : t = acceptMem s (saDrow d (saIndex s r d i)) (wordBytes (saVal s r d [i] (saIndex s r d i))) l.job := by
      simp only [t, saddRow, dest]
      rw [if_pos mem]
      exact if_pos (by rw [wordBytes_length, saVal_length]; exact ready)
    have same : z = memPut s _ _ := (if_neg out).trans (if_pos mem)
    rw [added, same]
    refine ⟨rveWritten_acceptMem _ _ _ _ _, ?_⟩
    rw [acceptMem_frame]
    exact ⟨rfl, rfl, rfl⟩
  · have added : t = z := by
      simp only [t, z, saddRow, rowAdded, dest]
      rw [if_neg mem, if_neg out, if_neg mem]
    have same : z = writeSp s (.rve r) l.lid r (rDst d).sp _ _ := (if_neg out).trans (if_neg mem)
    rw [added, same]
    exact ⟨(spWritten_writeSp _ _ _ _ _ _ _).rveWritten, rfl, rfl, rfl⟩

/-- Settles O30: a sum or the rows of a SADD leave a group, ARRIVE leaves one write; each asks for its signal as its entry gives
way. -/
theorem reductionsCompleteAndEnd : Obligations.ReductionsCompleteAndEnd := by
  unfold Obligations.ReductionsCompleteAndEnd
  refine ⟨fun r cycles s u l d there desc within ready reads good => ?tadd,
    fun r s u l d there desc within reads good takes => ?sadd, fun r s u l d there zeros => ?ends⟩
  case tadd =>
    have runs := exec_tadd there desc within ready reads good cycles
    have run : s.regions[r].rve = u := run_of_active there.1
    cases arrive : rArrive d
    case false =>
      rw [taddRun_tree arrive] at runs
      obtain ⟨group, signals⟩ := groupLeft_redSig run l d _ _ _
      exact ⟨_, runs, fun _ => group, nofun, signals⟩
    case true =>
      rw [taddRun_arrive arrive] at runs
      have written := spWritten_writeSp s (.rve r) l.lid r (rDst d).sp (rDst d).addr
        (fullMask (wordBytes (orderSum (isCompat s) ((taOrder u cycles (taN d)).map (taPart s r d)))))
      obtain ⟨⟨mem, buffer⟩, rve, frame, signals⟩ := written.rveWritten.redLeft run l d False
      refine ⟨_, runs, nofun, fun _ => ⟨⟨mem, buffer⟩, ?_, ?_⟩, signals⟩
      · rw [rve, run]
        rfl
      · obtain ⟨-, -, kept⟩ := written
        rw [mem]
        refine frame.trans ?_
        rw [kept]
  case sadd =>
    have runs := exec_sadd there desc within reads good
    have run : s.regions[r].rve = u := run_of_active there.1
    cases arrive : rArrive d
    case false =>
      rw [saddRun_fixed arrive] at runs
      obtain ⟨group, signals⟩ := groupLeft_redSig run l d _ _ _
      exact ⟨_, runs, fun _ => group, nofun, fun _ => GroupLeft.bytes group, signals⟩
    case true =>
      rw [saddRun_arrive arrive (takes arrive)] at runs
      obtain ⟨written, bytes, stores, buffer⟩ := saddRow_adds (takes arrive)
      obtain ⟨⟨mem, rbuf⟩, rve, frame, signals⟩ := written.redLeft run l d (u.part + 1 < saN d)
      refine ⟨_, runs, nofun, fun _ _ => ⟨⟨?_, ?_, rbuf.trans buffer⟩, ?_, ?_⟩, nofun, signals⟩
      · rw [mem]
        exact bytes
      · rw [mem]
        exact stores
      · rw [rve, run]
        rfl
      · obtain ⟨-, -, kept⟩ := written
        rw [mem, congrArg State.halves frame]
        refine frame.trans ?_
        rw [kept]
  case ends =>
    have op : fld d 0 1 = 0x3F := there.2.2.2.2
    have none : (List.range 63).find? (fun i => fld d (1 + i) 1 ≠ 0) = none :=
      List.find?_eq_none.mpr fun i small => by simp [zeros i (List.mem_range.mp small)]
    have ends : exec (.rveEnd r) s = .next (modRun s (.rve r) (fun u => { u with finished := true })) := by
      simp only [exec, execRveEnd]
      rw [rveEntry_at there (by decide), none]
    exact ⟨_, ends, modRgn_same s r _, modRgn_onlyRegion s r _, rfl⟩

end Sys2Proof.Machine
end

section
/-! SUPPORT. The release of a timed launch, and the end of one whose units have finished (R364, R379, R564, R756). -/

namespace Sys2Proof.Machine

theorem length_modFirst {α : Type} (p : α → Bool) (f : α → α) (xs : List α) : (modFirst p f xs).length = xs.length := by
  induction xs with
  | nil => rfl
  | cons x xs ih =>
    unfold modFirst
    split
    · rfl
    · rw [List.length_cons, ih, List.length_cons]

/-! ### What ends with a launch (R373) -/

theorem region_release (s : State) (lid : BitVec 32) (r : Fin 8) :
    (release s lid).regions[r] = if s.regions[r].holder = some lid then s.regions[r].free else s.regions[r] :=
  Vector.getElem_map _ _

theorem block_release (s : State) (lid : BitVec 32) (b : Fin 48) :
    (release s lid).blocks[b] = if s.blocks[b].lid = some lid then s.blocks[b].free else s.blocks[b] :=
  Vector.getElem_map _ _

theorem lid_ne_of_mem_barriers_release {s : State} {lid : BitVec 32} : ∀ x ∈ (release s lid).barriers, x.2.lid ≠ lid :=
  fun _ kept => by simpa using (List.mem_filter.mp kept).2

theorem lid_ne_of_mem_flagReqs_release {s : State} {lid : BitVec 32} : ∀ q ∈ (release s lid).flagReqs, q.lid ≠ lid :=
  fun _ kept => by simpa using (List.mem_filter.mp kept).2

/-- With no STOP, ABORT or RESUME in progress, the launch's own LAUNCH alone completes as it ends (R564). -/
theorem endLaunch_of_launch {s : State} {l : Launch} (stop : l.stop = none) (resume : l.resume = none) (kind code : Nat) :
    endLaunch s l kind code = finishCmd 1 { release s l.lid with launches := s.launches.erase l }
      (cmdDone l.ring kind code l.cid l.lid 0 []) := by
  unfold endLaunch
  rw [stop, resume]
  rfl

section Running

variable {s : State} {lid : BitVec 32} {l : Launch}

theorem lid_of_findLaunch (found : findLaunch s lid = some l) : l.lid = lid := by
  simpa using List.find?_some found

/-! ### TIMED_LAUNCH_RELEASE (R364) -/

theorem timedRelease_reached (found : findLaunch s lid = some l) (waiting : l.st = .waiting) (timed : l.flag 0 = true)
    (reached : l.fld 24 8 ≤ s.dtc.toNat) : timedRelease lid s = modLaunch s lid (fun l => { l with released := true }) := by
  unfold timedRelease
  rw [found]
  exact if_pos ⟨waiting, timed, reached⟩

theorem timedRelease_early (found : findLaunch s lid = some l) (early : s.dtc.toNat < l.fld 24 8) : timedRelease lid s = s := by
  unfold timedRelease
  rw [found]
  exact if_neg fun ⟨_, _, reached⟩ => Nat.not_le.mpr early reached

/-! ### LAUNCH_COMPLETE (R379) -/

theorem launchComplete_running (found : findLaunch s lid = some l) (running : l.st = .running) :
    launchComplete lid s = if allFinished s l ∧ !trafficOf s lid then endLaunch s l 1 0 else s := by
  unfold launchComplete
  simp only [found, running]

end Running

/-- Settles O37: a release is one change of the launch; a launch that completes is released, and its LAUNCH completes. -/
theorem launchIsReleasedAndCompletes : Obligations.LaunchIsReleasedAndCompletes := by
  unfold Obligations.LaunchIsReleasedAndCompletes
  refine ⟨fun lid s l found waiting timed => ⟨fun reached => ?released, fun early => ?early⟩,
    fun lid s l found running => ⟨fun unfinished => ?unfinished, fun finished quiet stop resume opened => ?complete⟩⟩
  case released =>
    exact ⟨_, congrArg Host.Outcome.next (timedRelease_reached found waiting timed reached),
      findLaunch_modLaunch_same s lid _ l found (fun _ => rfl), length_modFirst _ _ _, rfl⟩
  case early => exact congrArg Host.Outcome.next (timedRelease_early found early)
  case unfinished =>
    have stays := launchComplete_running found running
    rw [if_neg (by simp [unfinished])] at stays
    exact congrArg Host.Outcome.next stays
  case complete =>
    have ends := launchComplete_running found running
    rw [if_pos ⟨finished, by simp [quiet]⟩, endLaunch_of_launch stop resume, lid_of_findLaunch found] at ends
    have posted := finishBy_posted (dropCmd (fun o => o.op = 1 && o.cid = l.cid && o.lid = lid))
      { release s lid with launches := s.launches.erase l } (cmdDone l.ring 1 0 l.cid lid 0 []) opened
    have frame := finishCmd_frame 1 { release s lid with launches := s.launches.erase l } (cmdDone l.ring 1 0 l.cid lid 0 [])
    refine ⟨_, congrArg Host.Outcome.next ends, finishCmd_launches _ _ _, posted, fun r => ?_, fun b => ?_, ?_, ?_, ?_⟩
    all_goals rw [frame]
    · exact region_release s lid r
    · exact block_release s lid b
    · exact lid_ne_of_mem_barriers_release
    · exact lid_ne_of_mem_flagReqs_release
    · rfl

end Sys2Proof.Machine
end

section
/-! SUPPORT. PTP and the device time counter: changes of PTP state, masters, Syncs and their absence, PPS, and the reads that latch
(R366, R527, R528, R530-R532, R635, R696, R729, Table 17.5; logs 16, 28, 111). -/

namespace Sys2Proof.Machine

/-! ### Timed launches without a lock (R366) -/

/-- What the ends of launches can change: what launches hold, the launches, and the rings with their completions. -/
def LaunchesEnd (s t : State) : Prop :=
  t = { s with
    blocks := t.blocks, regions := t.regions, halves := t.halves, barriers := t.barriers, flagReqs := t.flagReqs
    launches := t.launches, rings := t.rings, comps := t.comps }

theorem LaunchesEnd.trans {s t u : State} (h : LaunchesEnd s t) (k : LaunchesEnd t u) : LaunchesEnd s u := by
  unfold LaunchesEnd at *
  rw [k, h]

theorem launchesEnd_endLaunch (s : State) (l : Launch) (kind code : Nat) : LaunchesEnd s (endLaunch s l kind code) := by
  obtain ⟨_, _, _, _, _, _, _, _, ends⟩ := endLaunch_frame s l kind code
  unfold LaunchesEnd
  rw [ends]

theorem launchesEnd_refuseTimed (s : State) : LaunchesEnd s (refuseTimed s) :=
  List.foldlRecOn (motive := LaunchesEnd s) _ _ rfl fun _ ends l _ => ends.trans (launchesEnd_endLaunch _ l _ _)

/-- No element that a filter takes is left when all that it takes have been removed. -/
theorem not_mem_diff_filter {α : Type} [DecidableEq α] (p : α → Bool) (xs : List α) {x : α} (taken : p x = true) :
    x ∉ xs.diff (xs.filter p) :=
  List.count_eq_zero.mp (by rw [List.count_diff, List.count_filter taken, Nat.sub_self])

theorem refuseTimed_launches (s : State) : (refuseTimed s).launches =
    s.launches.diff (s.launches.filter (fun l => l.flag 0 && l.st = .waiting && !l.begun)) := by
  rw [List.diff_eq_foldl]
  exact (List.foldl_hom State.launches fun t l => (endLaunch_launches t l 2 0x1012).symm).symm

/-- Without a lock no timed launch waits. -/
theorem no_timed_of_refuseTimed (s : State) :
    ∀ l ∈ (refuseTimed s).launches, ¬ (l.flag 0 = true ∧ l.st = .waiting ∧ l.begun = false) := by
  rw [refuseTimed_launches]
  rintro l left ⟨timed, waiting, fresh⟩
  exact not_mem_diff_filter _ _ (by simp [timed, waiting, fresh]) left

/-! ### A change of PTP state -/

/-- The registers that a change of PTP state writes: NET_STAT, CLK_REF and CLK_STAT, and those of the device's own events. -/
def ptpAddrs : List Nat := [regAddr .netStat 0, regAddr .clkRef 0, regAddr .clkStat 0] ++ eventAddrs

/-- The fields that a change of PTP state writes: the state and CLK_REF.VALID, and as a lock is lost what was shown of REFCLK. -/
def ptpShown (s : State) (st : Nat) : State :=
  let t := wfld (wfld s .netStat 0 30 28 st) .clkRef 0 31 31 (if st = 2 then 1 else 0)
  if ptpState s = 2 then wfld (wfld t .clkRef 0 15 0 0) .clkStat 0 29 29 (rfld t .clkStat 0 31 31) else t

/-- The servo after a change of PTP state: its counts begin again, and a slew ends with the lock. -/
def Ptp.restarted (p : Ptp) (lost : Prop) [Decidable lost] : Ptp :=
  { p with good := 0, bad := 0, slew := if lost then 0 else p.slew }

/-- A change of PTP state as it is shown and told (R528, Table 12.8). -/
def ptpTold (s : State) (st : Nat) : State :=
  postEvent (modPtp (ptpShown s st) (fun p => p.restarted (ptpState s = 2))) 0 0x5003 0 st []

theorem setPtp_of_unlocked {s : State} (unlocked : ptpState s ≠ 2) (st : Nat) : setPtp s st = ptpTold s st := by
  unfold setPtp ptpTold ptpShown
  simp only [unlocked, decide_false, Bool.false_eq_true, if_false]
  rfl

theorem setPtp_of_locked {s : State} (locked : ptpState s = 2) (st : Nat) :
    setPtp s st = refuseTimed { ptpTold s st with net := { (ptpTold s st).net with ppsOut := none } } := by
  unfold setPtp ptpTold ptpShown
  simp only [locked, decide_true, if_true]
  rfl

theorem ptpShown_frame (s : State) (st : Nat) : ptpShown s st = { s with regs := (ptpShown s st).regs } := by
  unfold ptpShown
  dsimp only
  split <;> rfl

theorem ptpTold_frame (s : State) (st : Nat) : ptpTold s st = { s with
    regs := (ptpTold s st).regs, comps := (ptpTold s st).comps
    net := { s.net with ptp := s.net.ptp.restarted (ptpState s = 2) } } := by
  unfold ptpTold
  rw [postEvent_frame, ptpShown_frame]
  rfl

theorem ptpShown_regsBut (s : State) (st : Nat) : RegsBut ptpAddrs s (ptpShown s st) := by
  have write (u : State) {r : Reg} (hi lo v : Nat) (named : regAddr r 0 ∈ ptpAddrs) : RegsBut ptpAddrs u (wfld u r 0 hi lo v) :=
    (wfld_regsBut u r 0 hi lo v).mono (by simpa using named)
  have state := (write s 30 28 st (r := .netStat) (by decide)).trans
    (write _ 31 31 (if st = 2 then 1 else 0) (r := .clkRef) (by decide))
  unfold ptpShown
  dsimp only
  split
  · exact (state.trans (write _ 15 0 0 (r := .clkRef) (by decide))).trans (write _ 29 29 _ (r := .clkStat) (by decide))
  · exact state

theorem ptpState_ptpShown (s : State) {st : Nat} (small : st < 8) : ptpState (ptpShown s st) = st := by
  have state : rfld (wfld (wfld s .netStat 0 30 28 st) .clkRef 0 31 31 (if st = 2 then 1 else 0)) .netStat 0 30 28 = st := by
    rw [rfld_wfld_reg _ _ _ _ _ _ (by decide), rfld_wfld_same _ _ _ _ (by decide)]
    exact Nat.mod_eq_of_lt small
  unfold ptpShown
  dsimp only
  split
  · rw [ptpState, rfld_wfld_reg _ _ _ _ _ _ (by decide), rfld_wfld_reg _ _ _ _ _ _ (by decide)]
    exact state
  · exact state

/-- CLK_REF.VALID says whether the counter is locked (Table 17.5). -/
theorem clkValid_ptpShown (s : State) (st : Nat) : rfld (ptpShown s st) .clkRef 0 31 31 = if st = 2 then 1 else 0 := by
  have valid (u : State) : rfld (wfld u .clkRef 0 31 31 (if st = 2 then 1 else 0)) .clkRef 0 31 31 = if st = 2 then 1 else 0 := by
    rw [rfld_wfld_same _ _ _ _ (by decide)]
    split <;> rfl
  unfold ptpShown
  dsimp only
  split
  · rw [rfld_wfld_reg _ _ _ _ _ _ (by decide), rfld_wfld_field _ _ _ _ (by decide) (by decide)]
    exact valid _
  · exact valid _

theorem ptpTold_regsBut (s : State) (st : Nat) : RegsBut eventAddrs (ptpShown s st) (ptpTold s st) :=
  (postEvent_regsBut (modPtp (ptpShown s st) (fun p => p.restarted (ptpState s = 2))) 0 0x5003 0 st []).congr rfl rfl

/-- A change of PTP state, as a lock is lost or not: the servo begins again, a lost lock ends PPS_OUT, and launches may end. -/
theorem setPtp_change (s : State) (st : Nat) :
    let t := setPtp s st
    RegsBut eventAddrs (ptpShown s st) t ∧ t.dtc = s.dtc ∧ t.mem = s.mem ∧ t.net = { s.net with
      ptp := s.net.ptp.restarted (ptpState s = 2), ppsOut := if ptpState s = 2 then none else s.net.ppsOut } := by
  by_cases locked : ptpState s = 2
  · have ends := launchesEnd_refuseTimed { ptpTold s st with net := { (ptpTold s st).net with ppsOut := none } }
    rw [← setPtp_of_locked locked] at ends
    refine ⟨(ptpTold_regsBut s st).congr rfl (by rw [ends]), ?_, ?_, ?_⟩
    all_goals rw [ends, ptpTold_frame]
    rw [if_pos locked]
  · rw [setPtp_of_unlocked locked]
    refine ⟨ptpTold_regsBut s st, ?_, ?_, ?_⟩
    all_goals rw [ptpTold_frame]
    rw [if_neg locked]

theorem setPtp_regsBut (s : State) (st : Nat) : RegsBut ptpAddrs s (setPtp s st) := by
  obtain ⟨shown, -⟩ := setPtp_change s st
  exact (ptpShown_regsBut s st).trans (shown.mono fun _ named => List.mem_append_right _ named)

theorem ptpState_setPtp (s : State) {st : Nat} (small : st < 8) : ptpState (setPtp s st) = st := by
  obtain ⟨shown, -⟩ := setPtp_change s st
  exact (shown.rfld (by decide) 30 28).trans (ptpState_ptpShown s small)

theorem clkValid_setPtp (s : State) (st : Nat) : rfld (setPtp s st) .clkRef 0 31 31 = if st = 2 then 1 else 0 := by
  obtain ⟨shown, -⟩ := setPtp_change s st
  exact (shown.rfld (by decide) 31 31).trans (clkValid_ptpShown s st)

/-- A change of state that loses no lock ends no launch. -/
theorem setPtp_launches {s : State} (unlocked : ptpState s ≠ 2) (st : Nat) : (setPtp s st).launches = s.launches := by
  rw [setPtp_of_unlocked unlocked, ptpTold_frame]

/-- Once the lock is lost no timed launch waits (R366). -/
theorem no_timed_of_setPtp {s : State} (locked : ptpState s = 2) (st : Nat) :
    ∀ l ∈ (setPtp s st).launches, ¬ (l.flag 0 = true ∧ l.st = .waiting ∧ l.begun = false) := by
  rw [setPtp_of_locked locked]
  exact no_timed_of_refuseTimed _

/-! ### Announces (R527) -/

section Announce

variable {m : PtpAnn} {s : State}

theorem ptpAnnounce_foreign (foreign : inDomain s m.domain = false) : ptpAnnounce m s = s := by
  unfold ptpAnnounce
  exact if_pos (.inr (by simp [foreign]))

/-- The first master heard takes FREE to ACQUIRING (R528). -/
theorem ptpAnnounce_first (on : ptpOn s = true) (own : inDomain s m.domain = true) (none : s.net.ptp.master = none)
    (free : ptpState s = 0) :
    ptpAnnounce m s = setPtp (modPtp s (fun p => { p with master := some m.rank, lastAnn := s.cyc })) 1 := by
  unfold ptpAnnounce
  rw [if_neg (by simp [on, own]), none]
  exact if_pos free

/-- With a master selected, the message of one that ranks before it, or of itself, is the latest of the selected one; any other
changes nothing. -/
theorem ptpAnnounce_heard {x : List Nat} (on : ptpOn s = true) (own : inDomain s m.domain = true)
    (selected : s.net.ptp.master = some x) : ptpAnnounce m s =
      if rankBefore m.rank x = true ∨ x = m.rank then
        modPtp s (fun p => { p with master := some m.rank, lastAnn := s.cyc }) else s := by
  unfold ptpAnnounce
  rw [if_neg (by simp [on, own]), selected]
  dsimp only
  by_cases better : rankBefore m.rank x = true
  · rw [if_pos better, if_pos (.inl better)]
  rw [if_neg better]
  by_cases same : x = m.rank
  · rw [if_pos same, if_pos (.inr same), modPtp, modPtp, ← same, ← selected]
  · rw [if_neg same, if_neg (not_or.mpr ⟨better, same⟩)]

end Announce

/-! ### Syncs (R528, R530) -/

/-- What every Sync outside FREE leaves: the clamped offset shown, the counter stepped or left, the servo's correction, and the
device's Delay_Req sent. -/
def Synced (m : PtpMeas) (s t : State) : Prop :=
  rreg t .netPtpofs 0 = BitVec.ofInt 32 (clampOfs m.off) ∧
  t.dtc = (if 10000 < m.off.natAbs then s.dtc - BitVec.ofInt 64 m.off else s.dtc) ∧ t.mem = s.mem ∧
  Sends [.delayReq] s t ∧ t.net.ptp.freq = clampFreq m.freq ∧ t.net.ptp.lastSync = s.cyc

/-- The state in which a Sync has been measured, before it changes the state of PTP. -/
def measured (m : PtpMeas) (s : State) : State :=
  let t := send (discipline (wreg s .netPtpofs 0 (BitVec.ofInt 32 (clampOfs m.off))) m.off) .delayReq
  modPtp t (fun p => { p with
    good := if m.off.natAbs ≤ 40 then p.good + 1 else 0, bad := if 50 < m.off.natAbs then p.bad + 1 else 0,
    lastSync := t.cyc, interval := m.interval, freq := clampFreq m.freq })

theorem discipline_frame (s : State) (off : Int) : discipline s off = { s with
    dtc := if 10000 < off.natAbs then s.dtc - BitVec.ofInt 64 off else s.dtc
    net := { s.net with ptp := { s.net.ptp with slew := (discipline s off).net.ptp.slew } } } := by
  unfold discipline
  split <;> rfl

/-- What is handed to the line is sent, or waits behind what a pause holds, or is lost with the link (R512, R714). -/
theorem sends_send (s : State) {x : Tx} (pauses : x.pauses = true) : Sends [x] s (send s x) := by
  unfold Sends send
  by_cases down : rfld s .netStat 0 31 31 = 0
  · rw [if_pos down, if_pos down]
    exact ⟨rfl, rfl⟩
  · rw [if_neg down, if_neg down]
    by_cases going : s.net.pause = 0
    · rw [if_pos going, if_neg fun held => held.1 going]
      exact ⟨rfl, rfl⟩
    · rw [if_neg going, if_pos ⟨going, pauses⟩]
      simp [pauses]

/-- What a command sends is a matter of the link, the pause and the configuration before it, and of the line. -/
theorem Sends.congr {xs : List Tx} {s s' t t' : State} (h : Sends xs s t)
    (link : rfld s' .netStat 0 31 31 = rfld s .netStat 0 31 31)
    (port : s'.net.pause = s.net.pause ∧ s'.net.cfg = s.net.cfg ∧ s'.net.tx = s.net.tx ∧ s'.net.txq = s.net.txq)
    (line : t'.net.tx = t.net.tx ∧ t'.net.txq = t.net.txq) : Sends xs s' t' := by
  obtain ⟨pause, cfg, tx, txq⟩ := port
  obtain ⟨tx', txq'⟩ := line
  unfold Sends
  rw [link, pause, cfg, tx, txq, tx', txq']
  exact h

/-- The port and the servo alone change as a Sync is measured, beside the counter and NET_PTPOFS. -/
theorem measured_frame (m : PtpMeas) (s : State) : measured m s = { s with
    regs := (wreg s .netPtpofs 0 (BitVec.ofInt 32 (clampOfs m.off))).regs
    dtc := if 10000 < m.off.natAbs then s.dtc - BitVec.ofInt 64 m.off else s.dtc
    net := { s.net with
      tx := (measured m s).net.tx, txq := (measured m s).net.txq
      ptp := { s.net.ptp with
        slew := (measured m s).net.ptp.slew
        good := if m.off.natAbs ≤ 40 then s.net.ptp.good + 1 else 0
        bad := if 50 < m.off.natAbs then s.net.ptp.bad + 1 else 0
        lastSync := s.cyc, interval := m.interval, freq := clampFreq m.freq } } } := by
  unfold measured modPtp
  rw [send_frame, discipline_frame]
  rfl

theorem measured_regsBut (m : PtpMeas) (s : State) : RegsBut [regAddr .netPtpofs 0] s (measured m s) :=
  (wreg_regsBut s .netPtpofs 0 _).congr rfl (by rw [measured_frame])

theorem ptpState_measured (m : PtpMeas) (s : State) : ptpState (measured m s) = ptpState s :=
  (measured_regsBut m s).rfld (by decide) 30 28

theorem synced_measured (m : PtpMeas) (s : State) : Synced m s (measured m s) := by
  refine ⟨?ofs, ?_, ?_, ?sent, ?_, ?_⟩
  case sent =>
    have sent := sends_send (discipline (wreg s .netPtpofs 0 (BitVec.ofInt 32 (clampOfs m.off))) m.off) (x := .delayReq) rfl
    rw [discipline_frame] at sent
    refine sent.congr ?_ ⟨rfl, rfl, rfl, rfl⟩ ?_
    · exact (rfld_wreg_other s .netPtpofs .netStat 0 0 31 31 _ (by decide)).symm
    · unfold measured
      rw [discipline_frame]
      exact ⟨rfl, rfl⟩
  case ofs =>
    have regs : (measured m s).regs = (wreg s .netPtpofs 0 (BitVec.ofInt 32 (clampOfs m.off))).regs := by rw [measured_frame]
    unfold rreg
    rw [regs]
    exact rreg_wreg_same s .netPtpofs 0 _
  all_goals rw [measured_frame]

/-- What a Sync leaves stays while PTP's registers are written and launches end. -/
theorem Synced.congr {m : PtpMeas} {s t t' : State} (h : Synced m s t) (regs : RegsBut ptpAddrs t t') (dtc : t'.dtc = t.dtc)
    (mem : t'.mem = t.mem) (line : t'.net.tx = t.net.tx ∧ t'.net.txq = t.net.txq)
    (servo : t'.net.ptp.freq = t.net.ptp.freq ∧ t'.net.ptp.lastSync = t.net.ptp.lastSync) : Synced m s t' := by
  obtain ⟨ofs, counter, bytes, sent, freq, last⟩ := h
  obtain ⟨freq', last'⟩ := servo
  exact ⟨(regs.rreg (by decide)).trans ofs, dtc.trans counter, mem.trans bytes, sent.congr rfl ⟨rfl, rfl, rfl, rfl⟩ line,
    freq'.trans freq, last'.trans last⟩

theorem Synced.setPtp {m : PtpMeas} {s t : State} (h : Synced m s t) (st : Nat) : Synced m s (Machine.setPtp t st) := by
  obtain ⟨-, dtc, mem, net⟩ := setPtp_change t st
  refine h.congr (setPtp_regsBut t st) dtc mem ?_ ?_
  all_goals
    rw [net]
    exact ⟨rfl, rfl⟩

/-! ### What is shown of REFCLK (Table 17.5) -/

theorem showRef_of_unlocked {s : State} (unlocked : ptpState s ≠ 2) (x : Int) : showRef s x = s := if_neg unlocked

theorem showRef_frame (s : State) (x : Int) : showRef s x = { s with regs := (showRef s x).regs } := by
  unfold showRef
  split <;> rfl

theorem showRef_regsBut (s : State) (x : Int) : RegsBut ptpAddrs s (showRef s x) := by
  unfold showRef
  split
  · exact ((wfld_regsBut s .clkRef 0 15 0 _).mono (by simp [ptpAddrs])).trans
      ((wfld_regsBut _ .clkStat 0 29 29 _).mono (by simp [ptpAddrs]))
  · exact RegsBut.refl _ s

theorem Synced.showRef {m : PtpMeas} {s t : State} (h : Synced m s t) (x : Int) : Synced m s (Machine.showRef t x) := by
  have frame := showRef_frame t x
  refine h.congr (showRef_regsBut t x) (by rw [frame]) (by rw [frame]) ?_ ?_
  all_goals
    rw [frame]
    exact ⟨rfl, rfl⟩

section Locked

variable {s : State} (locked : ptpState s = 2) (x : Int)
include locked

theorem ptpState_showRef : ptpState (showRef s x) = 2 := by
  unfold showRef
  rw [if_pos locked, ptpState, rfld_wfld_reg _ _ _ _ _ _ (by decide), rfld_wfld_reg _ _ _ _ _ _ (by decide)]
  exact locked

theorem clkValid_showRef : rfld (showRef s x) .clkRef 0 31 31 = rfld s .clkRef 0 31 31 := by
  unfold showRef
  rw [if_pos locked, rfld_wfld_reg _ _ _ _ _ _ (by decide), rfld_wfld_field _ _ _ _ (by decide) (by decide)]

theorem refOk_showRef : rfld (showRef s x) .clkStat 0 29 29 = if x.natAbs ≤ 20000 then 1 else 0 := by
  unfold showRef
  rw [if_pos locked, rfld_wfld_same _ _ _ _ (by decide)]
  split <;> rfl

end Locked

/-! ### What a Sync does to the state of PTP (R528) -/

/-- The second Sync in succession beyond 50 ns ends a lock, the 16th within 40 ns makes one. -/
def lockMoved (s : State) : State :=
  if ptpState s = 2 then (if 2 ≤ s.net.ptp.bad then setPtp s 3 else s) else if 16 ≤ s.net.ptp.good then setPtp s 2 else s

theorem Synced.lockMoved {m : PtpMeas} {s t : State} (h : Synced m s t) : Synced m s (Machine.lockMoved t) := by
  unfold Machine.lockMoved
  split <;> split
  · exact h.setPtp 3
  · exact h
  · exact h.setPtp 2
  · exact h

section Sync

variable {m : PtpMeas} {s : State}

theorem ptpSync_foreign (foreign : inDomain s m.domain = false) : ptpSync m s = s := by
  unfold ptpSync
  exact if_pos (.inr (.inr (by simp [foreign])))

theorem ptpSync_measures (on : ptpOn s = true) (heard : ptpState s ≠ 0) (own : inDomain s m.domain = true) :
    ptpSync m s = showRef (lockMoved (measured m s)) m.ref := by
  unfold ptpSync
  rw [if_neg (by simp [on, heard, own])]
  rfl

theorem lockMoved_lost (locked : ptpState s = 2) (off : 50 < m.off.natAbs) (again : 1 ≤ s.net.ptp.bad) :
    lockMoved (measured m s) = setPtp (measured m s) 3 := by
  have bad : (measured m s).net.ptp.bad = s.net.ptp.bad + 1 := by
    rw [measured_frame]
    exact if_pos off
  unfold lockMoved
  rw [if_pos ((ptpState_measured m s).trans locked), bad]
  exact if_pos (Nat.succ_le_succ again)

theorem lockMoved_kept (locked : ptpState s = 2) (near : m.off.natAbs ≤ 50) : lockMoved (measured m s) = measured m s := by
  have bad : (measured m s).net.ptp.bad = 0 := by
    rw [measured_frame]
    exact if_neg (Nat.not_lt.mpr near)
  unfold lockMoved
  rw [if_pos ((ptpState_measured m s).trans locked), bad]
  exact if_neg (by decide)

theorem lockMoved_made (unlocked : ptpState s ≠ 2) (near : m.off.natAbs ≤ 40) (often : 15 ≤ s.net.ptp.good) :
    lockMoved (measured m s) = setPtp (measured m s) 2 := by
  have good : (measured m s).net.ptp.good = s.net.ptp.good + 1 := by
    rw [measured_frame]
    exact if_pos near
  unfold lockMoved
  rw [if_neg fun locked => unlocked ((ptpState_measured m s).symm.trans locked), good]
  exact if_pos (Nat.succ_le_succ often)

end Sync

/-! ### Silence (R528) -/

section Silence

variable {s : State}

theorem ptpTimeout_locked (locked : ptpState s = 2) : ptpTimeout s =
    if s.net.ptp.lastSync + 4 * s.net.ptp.interval ≤ s.cyc then setPtp s 3 else s := by
  unfold ptpTimeout
  simp only [locked]

theorem ptpTimeout_unlocked (waits : ptpState s = 1 ∨ ptpState s = 3) : ptpTimeout s =
    if s.net.ptp.lastAnn + 1000000000 ≤ s.cyc then setPtp (modPtp s (fun p => { p with master := none })) 0 else s := by
  unfold ptpTimeout tenSeconds
  obtain state | state := waits
  all_goals simp only [state]

theorem ptpTimeout_free (free : ptpState s = 0) : ptpTimeout s = s := by
  unfold ptpTimeout
  simp only [free]

end Silence

/-! ### PPS (R531, R532, R696) -/

section Pps

variable {s : State}

theorem ppsIn_taken (runs : counting s = true) (apart : ∀ x, s.net.ppsAt = some x → x + 50000000 ≤ s.cyc) :
    ppsIn s = { s with net := { s.net with ppsTime := s.dtc, ppsAt := some s.cyc } } := by
  cases last : s.net.ppsAt with
  | none => exact if_neg (by simp [last, runs])
  | some x => exact if_neg (by simpa [last, runs] using apart x last)

theorem ppsIn_soon {x : Nat} (last : s.net.ppsAt = some x) (soon : s.cyc < x + 50000000) : ppsIn s = s := by
  unfold ppsIn
  rw [last]
  exact if_pos (.inl (decide_eq_true soon))

end Pps

/-! ### Reads that latch (R729) -/

/-- A read of DEV_DTC0 returns the low word of the counter, and DEV_DTC1 holds its high word. -/
theorem readReg_devDtc0 (s : State) : readReg s .devDtc0 0 =
    (BitVec.ofNat 32 s.dtc.toNat, wreg s .devDtc1 0 (BitVec.ofNat 32 (s.dtc.toNat / 2 ^ 32))) := by
  have shows : regMask .devDtc0 (· = .wo) = 0 := by decide
  have clears : regMask .devDtc0 (· = .rc) = 0 := by decide
  simp only [readReg, readPrepare, shownWord, readFinish, shows, clears, BitVec.ofNat_eq_ofNat, BitVec.not_zero,
    BitVec.and_allOnes]
  rfl

/-- A read of NET_PPSTS0 returns the low word of the edge's time, and NET_PPSTS1 holds its high word. -/
theorem readReg_netPpsts0 (s : State) : readReg s .netPpsts0 0 =
    (BitVec.ofNat 32 s.net.ppsTime.toNat, wreg s .netPpsts1 0 (BitVec.ofNat 32 (s.net.ppsTime.toNat / 2 ^ 32))) := by
  have shows : regMask .netPpsts0 (· = .wo) = 0 := by decide
  have clears : regMask .netPpsts0 (· = .rc) = 0 := by decide
  simp only [readReg, readPrepare, shownWord, readFinish, shows, clears, BitVec.ofNat_eq_ofNat, BitVec.not_zero,
    BitVec.and_allOnes]
  rfl

/-- A high word that a read latches, beside the low word that it returns. -/
theorem latches (s : State) (r : Reg) (low high : Word) :
    let t := { wreg s r 0 high with lastRead := low }
    t.lastRead = low ∧ rreg t r 0 = high ∧ RegsBut [regAddr r 0] s t ∧ t = { s with regs := t.regs, lastRead := t.lastRead } :=
  ⟨rfl, rreg_wreg_same s r 0 high, (wreg_regsBut s r 0 high).congr rfl rfl, rfl⟩

/-- Settles O54: announces and silence are changes of PTP state by `setPtp_change`; a Sync is `measured`, whose results stay as
the state changes; PPS and the latching reads are one change each. -/
theorem timeIsDisciplinedAndLatched : Obligations.TimeIsDisciplinedAndLatched := by
  unfold Obligations.TimeIsDisciplinedAndLatched
  refine ⟨fun m s on => ⟨fun foreign => ?foreign, fun own none free => ?first, fun x own selected => ?heard⟩,
    fun m s on heard => ⟨fun foreign => ?other, fun own => ?sync⟩,
    fun s => ⟨fun locked => ⟨fun silent => ?lost, fun soon => ?kept⟩, fun waits => ⟨fun silent => ?freed, fun soon => ?stays⟩,
      fun free => congrArg Host.Outcome.next (ptpTimeout_free free)⟩,
    fun s => ⟨fun locked second => congrArg Host.Outcome.next (if_pos ⟨locked, second⟩),
      fun unlocked => congrArg Host.Outcome.next (if_neg fun rises => unlocked rises.1),
      fun runs apart => congrArg Host.Outcome.next (ppsIn_taken runs apart),
      fun x last soon => congrArg Host.Outcome.next (ppsIn_soon last soon)⟩,
    fun s => ⟨?dtc, ?pps⟩,
    fun fresh s => ⟨fun ready => congrArg Host.Outcome.next (if_pos ready),
      fun unready => congrArg Host.Outcome.next (if_neg unready)⟩⟩
  case foreign => exact congrArg Host.Outcome.next (ptpAnnounce_foreign foreign)
  case first =>
    have unlocked : ptpState (modPtp s (fun p => { p with master := some m.rank, lastAnn := s.cyc })) ≠ 2 :=
      fun locked => absurd (free.symm.trans locked) (by decide)
    obtain ⟨-, dtc, mem, net⟩ := setPtp_change (modPtp s (fun p => { p with master := some m.rank, lastAnn := s.cyc })) 1
    refine ⟨_, congrArg Host.Outcome.next (ptpAnnounce_first on own none free), ptpState_setPtp _ (by decide), ?_, ?_, dtc,
      setPtp_launches unlocked 1, mem⟩
    all_goals
      rw [net]
      rfl
  case heard =>
    have hears := ptpAnnounce_heard on own selected
    refine ⟨fun better => ?_, fun worse other => ?_⟩
    · rw [if_pos better] at hears
      exact congrArg Host.Outcome.next hears
    · rw [if_neg (by simp [worse, other])] at hears
      exact congrArg Host.Outcome.next hears
  case other => exact congrArg Host.Outcome.next (ptpSync_foreign foreign)
  case sync =>
    have runs : exec (.ptpSync m) s = _ := congrArg Host.Outcome.next (ptpSync_measures on heard own)
    obtain ⟨ofs, dtc, mem, sent, freq, last⟩ := ((synced_measured m s).lockMoved).showRef m.ref
    refine ⟨_, runs, ofs, dtc, mem, sent, freq, last, fun locked off again => ?unlocks, fun locked near => ?shows,
      fun searching near often => ?locks⟩
    case unlocks =>
      have state : ptpState (setPtp (measured m s) 3) = 3 := ptpState_setPtp _ (by decide)
      rw [lockMoved_lost locked off again, showRef_of_unlocked (by simp [state])]
      exact ⟨state, clkValid_setPtp _ 3⟩
    case shows =>
      have stays := (ptpState_measured m s).trans locked
      rw [lockMoved_kept locked near]
      refine ⟨ptpState_showRef stays _, ?_, refOk_showRef stays _⟩
      rw [showRef_frame, measured_frame]
    case locks =>
      have unlocked : ptpState s ≠ 2 := by omega
      have state : ptpState (setPtp (measured m s) 2) = 2 := ptpState_setPtp _ (by decide)
      rw [lockMoved_made unlocked near often]
      exact ⟨ptpState_showRef state _, (clkValid_showRef state _).trans (clkValid_setPtp _ 2)⟩
  case lost =>
    have runs := ptpTimeout_locked locked
    rw [if_pos silent] at runs
    obtain ⟨-, dtc, -, net⟩ := setPtp_change s 3
    refine ⟨_, congrArg Host.Outcome.next runs, ptpState_setPtp s (by decide), clkValid_setPtp s 3, ?_, dtc,
      no_timed_of_setPtp locked 3⟩
    rw [net]
    exact if_pos locked
  case kept =>
    have runs := ptpTimeout_locked locked
    rw [if_neg (Nat.not_le.mpr soon)] at runs
    exact congrArg Host.Outcome.next runs
  case freed =>
    have runs := ptpTimeout_unlocked waits
    rw [if_pos silent] at runs
    have unlocked : ptpState (modPtp s (fun p => { p with master := none })) ≠ 2 := fun locked => by
      have same : ptpState s = 2 := locked
      omega
    obtain ⟨-, dtc, -, net⟩ := setPtp_change (modPtp s (fun p => { p with master := none })) 0
    refine ⟨_, congrArg Host.Outcome.next runs, ptpState_setPtp _ (by decide), ?_, dtc, setPtp_launches unlocked 0⟩
    rw [net]
    rfl
  case stays =>
    have runs := ptpTimeout_unlocked waits
    rw [if_neg (Nat.not_le.mpr soon)] at runs
    exact congrArg Host.Outcome.next runs
  case dtc =>
    simp only [exec, execDtcLatchRead, readReg_devDtc0]
    exact ⟨_, rfl, latches s .devDtc1 _ _⟩
  case pps =>
    simp only [exec, execPpstsLatchRead, readReg_netPpsts0]
    exact ⟨_, rfl, latches s .netPpsts1 _ _⟩

end Sys2Proof.Machine
end

section
/-! SUPPORT. Commands that are read and answered at once, and the launch that a command names (R548, R551, R553-R555). -/

namespace Sys2Proof.Machine

theorem OnlyRing.trans {r : Fin 16} {s t u : State} (h : OnlyRing r s t) (k : OnlyRing r t u) : OnlyRing r s u :=
  fun c hc => (k c hc).trans (h c hc)

theorem modRing_onlyRing (s : State) (ring : Fin 16) (f : Ring → Ring) : OnlyRing ring s (modRing s ring.val f) := by
  intro c hc
  simp [modRing, Fin.val_ne_of_ne hc.symm]

theorem finishBy_onlyRing (drop : List OutCmd → List OutCmd) (s : State) {c : Completion} {ring : Fin 16} (own : c.ring = ring.val) :
    OnlyRing ring s (finishBy drop s c) := by
  unfold finishBy
  split
  · exact fun _ _ => rfl
  · simp only [marks_frame]
    rw [own]
    exact fun d hd => modRing_onlyRing s ring _ d hd

theorem modRing_ring_isSome (s : State) (i j : Nat) (f : Ring → Ring) :
    (getRing (modRing s i f) j).isSome = (getRing s j).isSome := by
  by_cases same : i % 16 = j % 16
  · simp [getRing, modRing, same]
  · simp [getRing, modRing, same]

/-- A completion opens and closes no ring. -/
theorem finishBy_ring_isSome (drop : List OutCmd → List OutCmd) (s : State) (c : Completion) (i : Nat) :
    (getRing (finishBy drop s c) i).isSome = (getRing s i).isSome := by
  unfold finishBy
  split
  · rfl
  · simp only [marks_frame]
    exact modRing_ring_isSome s _ i _

/-- A command of a ring is answered at once: its completion is posted, and nothing changes but its ring. -/
def Answered (ring : Fin 16) (c : Completion) (s t : State) : Prop :=
  Posted c s t ∧ OnlyRing ring s t ∧ t = { s with rings := t.rings, comps := t.comps }

/-- A command that has been read and is refused is answered by the refusal. -/
theorem AtCommand.refuse_answers {s : State} {ring : Fin 16} {op : Nat} {e : List Byte} {cid : Word} (h : AtCommand s ring op e cid)
    (op' : Nat) (lid' : Word) (code : Nat) (lid : Word) (aux2 : Nat) :
    Answered ring (cmdDone ring.val 2 code cid lid aux2 []) s
      (refuse (readCmd s ring.val cid op' lid') ring.val cid code lid aux2) := by
  have frame := finishBy_frame List.dropLast (readCmd s ring.val cid op' lid') (cmdDone ring.val 2 code cid lid aux2 [])
  have posted := finishBy_posted List.dropLast (readCmd s ring.val cid op' lid') (cmdDone ring.val 2 code cid lid aux2 [])
    (readCmd_ring_isSome h cid op' lid')
  refine ⟨posted, (modRing_onlyRing s ring _).trans (finishBy_onlyRing _ _ rfl), ?_⟩
  unfold refuse finishNow
  rw [frame]
  rfl

/-- The launch that an entry names, and the state once the entry has been read (R555). -/
abbrev namedLid (e : List Byte) : Word := BitVec.ofNat 32 (leAt e 8 4)

def readNaming (s : State) (ring : Fin 16) (e : List Byte) (cid : Word) : State :=
  readCmd s ring.val cid (leAt e 0 1) (namedLid e)

theorem onLaunch_unknown {s : State} {ring : Fin 16} {e : List Byte} {cid : Word} (missing : findLaunch s (namedLid e) = none)
    (act : State → Launch → State) :
    onLaunch s ring.val e cid act = refuse (readNaming s ring e cid) ring.val cid cLidUnknown (namedLid e) 0 := by
  unfold onLaunch
  dsimp only
  rw [← readNaming, show findLaunch (readNaming s ring e cid) (namedLid e) = none from missing]

theorem onLaunch_found {s : State} {ring : Fin 16} {e : List Byte} {cid : Word} {l : Launch}
    (found : findLaunch s (namedLid e) = some l) (act : State → Launch → State) :
    onLaunch s ring.val e cid act = act (readNaming s ring e cid) l := by
  unfold onLaunch
  dsimp only
  rw [← readNaming, show findLaunch (readNaming s ring e cid) (namedLid e) = some l from found]

end Sys2Proof.Machine
end

section
/-! SUPPORT. LAUNCH: the record of a launch is accepted or refused (R31, R361, R363, R370, R371, R375, R376, R554; log 68). -/

namespace Sys2Proof.Machine

section Record

variable {s : State} {ring : Fin 16} {e : List Byte} {cid : Word}

/-- The reads of a LAUNCH's record are done: the record is judged. -/
theorem exec_launch (h : AtCommand s ring 1 e cid) (ready : recordWaits s (leAt e 8 8) = false) :
    exec (.launch ring) s = .next (acceptRecord (readCmd s ring.val cid 1) ring.val cid (leAt e 8 8)) := by
  have runs : exec (.launch ring) s = execLaunch ring s := rfl
  rw [runs, execLaunch, onCmd_of_atCommand h, if_neg (by simp [ready])]

theorem acceptRecord_full (full : launchFull s = true) (i rec : Nat) : acceptRecord s i cid rec = refuse s i cid 0x1001 0 0 :=
  if_pos full

/-- A record that is there and passes every check is accepted (R375). -/
theorem acceptRecord_good {i rec : Nat} {l : Launch} (room : launchFull s = false) (aligned : rec % 64 = 0)
    (there : recordThere s rec 2048 = true)
    (roster : 0 < min 512 (leAt (memBytes s rec 2048) 10 2) →
      recordThere s (rec + 2048) (64 * min 512 (leAt (memBytes s rec 2048) 10 2)) = true)
    (described : l = launchOf i cid (memBytes s rec 2048) (rosterOf s rec (min 512 (leAt (memBytes s rec 2048) 10 2))))
    (good : recordBad s l = none) : acceptRecord s i cid rec = accept s l := by
  have rosterThere : ¬ (0 < min 512 (leAt (memBytes s rec 2048) 10 2) ∧
      (!recordThere s (rec + 2048) (64 * min 512 (leAt (memBytes s rec 2048) 10 2))) = true) := by
    rintro ⟨some, missing⟩
    simp [roster some] at missing
  unfold acceptRecord
  rw [if_neg (by simp [room]), if_neg (by simp [aligned, there])]
  dsimp only
  rw [if_neg rosterThere, ← described, good]

/-- A launch that does not take joins the launches, and its command waits with it. -/
theorem accept_waits {l : Launch} (leaves : l.flag 3 = false) : accept s l =
    { modRing s l.ring (fun r => { r with outs := r.outs.dropLast ++ [OutCmd.mk l.cid 1 l.lid] }) with
      launches := s.launches ++ [l] } := by
  unfold accept
  rw [leaves]
  rfl

end Record

theorem launchOf_hdr (i : Nat) (cid : Word) (hdr : List Byte) (roster : List (BitVec 512)) :
    (launchOf i cid hdr roster).hdr = hdr := rfl

/-- Settles O35: a full device answers with the refusal; a good record is one more launch and a change of its ring. -/
theorem launchIsAcceptedOrRefused : Obligations.LaunchIsAcceptedOrRefused := by
  unfold Obligations.LaunchIsAcceptedOrRefused
  refine fun ring s e cid h ready => ⟨fun full => ?full, fun l room aligned there roster described good leaves => ?accepted⟩
  case full =>
    have runs := exec_launch h ready
    rw [acceptRecord_full (s := readCmd s ring.val cid 1) full] at runs
    obtain ⟨posted, only, frame⟩ := h.refuse_answers 1 0 0x1001 0 0
    exact ⟨_, runs, posted, by rw [frame], only, frame⟩
  case accepted =>
    have runs := exec_launch h ready
    have bytes (a n : Nat) : memBytes (readCmd s ring.val cid 1) a n = memBytes s a n := rfl
    have accepted := acceptRecord_good (s := readCmd s ring.val cid 1) (cid := cid) (i := ring.val) (l := l) room aligned there
    simp only [bytes] at accepted
    rw [accepted roster described good, accept_waits leaves] at runs
    have same : l.ring = ring.val := congrArg Launch.ring described
    rw [same] at runs
    have hdr := (congrArg Launch.hdr described).trans (launchOf_hdr _ _ _ _)
    exact ⟨_, runs, rfl, congrArg Launch.st described, hdr, same, congrArg Launch.cid described, rfl,
      (modRing_onlyRing s ring _).trans (modRing_onlyRing _ ring _), rfl⟩

end Sys2Proof.Machine
end

section
/-! SUPPORT. STOP, ABORT and RESUME (R380, R395, R396, R555, R557-R560, R564). -/

namespace Sys2Proof.Machine

theorem Posted.mem {c : Completion} {s t : State} (h : Posted c s t) : c ∈ t.comps := by
  obtain ⟨ms, comps, -⟩ := h
  rw [comps]
  simp

theorem Posted.keeps {c d : Completion} {s t : State} (h : Posted c s t) (waits : d ∈ s.comps) : d ∈ t.comps := by
  obtain ⟨ms, comps, -⟩ := h
  rw [comps]
  exact List.mem_append_left _ waits

/-- A bad burst that is counted and logged changes registers and LIFE bodies. -/
theorem logBad_frame (s : State) (a n : Nat) : ∃ r x, logBad s a n = { s with regs := r, hlt := x } := by
  unfold logBad
  split
  · exact logMem_frame s _ _
  · exact ⟨_, _, rfl⟩

section Commands

variable {s : State} {ring : Fin 16} {e : List Byte} {cid : Word}

/-- The three commands about a launch, each refused where it names none (R555). -/
theorem exec_unknown {p : Nat × (Fin 16 → Instr)} (hp : p ∈ [(2, Instr.stop), (3, Instr.abort), (4, Instr.resume)])
    (h : AtCommand s ring p.1 e cid) (missing : findLaunch s (namedLid e) = none) :
    exec (p.2 ring) s = .next (refuse (readNaming s ring e cid) ring.val cid cLidUnknown (namedLid e) 0) := by
  have ready : headerWaits s (namedLid e) = false := by simp [headerWaits, missing]
  simp only [List.mem_cons, List.not_mem_nil, or_false] at hp
  obtain rfl | rfl | rfl := hp
  · have runs : exec (.stop ring) s = execStop ring s := rfl
    rw [runs, execStop, onCmd_of_atCommand h, onLaunch_unknown missing]
  · have runs : exec (.abort ring) s = execAbort ring s := rfl
    rw [runs, execAbort, onCmd_of_atCommand h, onLaunch_unknown missing]
  · have runs : exec (.resume ring) s = execResume ring s := rfl
    rw [runs, execResume, onCmd_of_atCommand h, if_neg (by simp [ready]), onLaunch_unknown missing]

section Named

variable {l : Launch} (found : findLaunch s (namedLid e) = some l)
include found

theorem exec_stop (h : AtCommand s ring 2 e cid) : exec (.stop ring) s = .next
    (if l.st ≠ .running ∨ allFinished s l then refuse (readNaming s ring e cid) ring.val cid cConflict l.lid 0
     else if l.save0 = 0 then refuse (readNaming s ring e cid) ring.val cid 0x2003 l.lid 0
     else beginStop (readNaming s ring e cid) l.lid (.command ring.val cid) (decide (leAt e 12 1 = 2))) := by
  have runs : exec (.stop ring) s = execStop ring s := rfl
  rw [runs, execStop, onCmd_of_atCommand h, onLaunch_found found]
  rfl

/-- An ABORT of a launch with no unit at work ends it at once (R560). -/
theorem exec_abort_waiting (h : AtCommand s ring 3 e cid) (waiting : l.st = .waiting) : exec (.abort ring) s =
    .next (succeed (endLaunch (readNaming s ring e cid) l 1 (abortCode l)) ring.val cid l.lid []) := by
  have runs : exec (.abort ring) s = execAbort ring s := rfl
  rw [runs, execAbort, onCmd_of_atCommand h, onLaunch_found found, waiting]

theorem exec_abort_running (h : AtCommand s ring 3 e cid) (running : l.st = .running) : exec (.abort ring) s =
    .next (launchComplete l.lid (beginAbort (readNaming s ring e cid) l ring.val cid)) := by
  have runs : exec (.abort ring) s = execAbort ring s := rfl
  rw [runs, execAbort, onCmd_of_atCommand h, onLaunch_found found, running]

theorem exec_resume (h : AtCommand s ring 4 e cid) (ready : headerWaits s (namedLid e) = false) : exec (.resume ring) s = .next
    (if l.st ≠ .saved ∨ l.resume.isSome then refuse (readNaming s ring e cid) ring.val cid cConflict l.lid 0
     else if regionOut s l then refuse (readNaming s ring e cid) ring.val cid 0x1009 l.lid 0
     else if !headerOk s l then
       refuse (logBad (readNaming s ring e cid) l.save0 (64 * kib)) ring.val cid cImage l.lid 0
     else modLaunch (readNaming s ring e cid) l.lid (fun l => { l with resume := some (ring.val, cid) })) := by
  have runs : exec (.resume ring) s = execResume ring s := rfl
  rw [runs, execResume, onCmd_of_atCommand h, if_neg (by simp [ready]), onLaunch_found found]
  rfl

theorem headerWaits_of_unsaved (unsaved : l.st ≠ .saved) : headerWaits s (namedLid e) = false := by
  simp [headerWaits, found, unsaved]

end Named

/-- A launch as an ABORT that has to wait for its units leaves it (R395). -/
def Launch.abortedBy (s : State) (ring : Nat) (cid : Word) (l : Launch) : Launch :=
  { l with st := .aborting, stop := some (.abort ring cid, false, s.cyc) }

theorem beginAbort_running {l : Launch} (running : l.st = .running) (ring : Nat) (cid : Word) :
    beginAbort s l ring cid = modLaunch s l.lid (Launch.abortedBy s ring cid) := by
  unfold beginAbort
  rw [running]
  rfl

/-- A launch that is being aborted stays so until its units have stopped. -/
theorem launchComplete_aborting {lid : BitVec 32} {l : Launch} (found : findLaunch s lid = some l) (aborting : l.st = .aborting)
    (busy : allStopped s l = false) : launchComplete lid s = s := by
  unfold launchComplete
  simp only [found, aborting, busy]
  rfl

/-- An ABORT of a running launch with a unit at work begins the abort. -/
theorem exec_abort_begins {l : Launch} (h : AtCommand s ring 3 e cid) (found : findLaunch s (namedLid e) = some l)
    (running : l.st = .running) (busy : allStopped s l = false) :
    findLaunch (modLaunch (readNaming s ring e cid) l.lid (Launch.abortedBy s ring.val cid)) l.lid =
      some (l.abortedBy s ring.val cid) ∧
    exec (.abort ring) s = .next (modLaunch (readNaming s ring e cid) l.lid (Launch.abortedBy s ring.val cid)) := by
  have named : l.lid = namedLid e := lid_of_findLaunch found
  have foundRead : findLaunch (readNaming s ring e cid) l.lid = some l := named ▸ found
  have aborting := findLaunch_modLaunch_same (readNaming s ring e cid) l.lid (Launch.abortedBy s ring.val cid) l foundRead
    fun _ => rfl
  refine ⟨aborting, (exec_abort_running found h running).trans ?_⟩
  rw [beginAbort_running running]
  exact congrArg _ (launchComplete_aborting aborting rfl busy)

/-- An ABORT of a waiting launch completes its LAUNCH as aborted, and then itself (R560, R564). -/
theorem exec_abort_ends {l : Launch} (h : AtCommand s ring 3 e cid) (found : findLaunch s (namedLid e) = some l)
    (waiting : l.st = .waiting) (sound : l.fault = 0) (stop : l.stop = none) (resume : l.resume = none)
    (opened : (getRing s l.ring).isSome = true) :
    ∃ t, exec (.abort ring) s = .next t ∧ t.launches = s.launches.erase l ∧
      cmdDone l.ring 1 0x2007 l.cid l.lid 0 [] ∈ t.comps ∧ cmdDone ring.val 1 0 cid l.lid 0 [] ∈ t.comps ∧ t.mem = s.mem := by
  have code : abortCode l = 0x2007 := if_pos sound
  have ends := endLaunch_of_launch (s := readNaming s ring e cid) stop resume 1 0x2007
  have runs := exec_abort_waiting found h waiting
  rw [code, ends] at runs
  obtain ⟨u, hu⟩ : ∃ u, u =
      { release (readNaming s ring e cid) l.lid with launches := (readNaming s ring e cid).launches.erase l } := ⟨_, rfl⟩
  have stillOpen (i : Nat) : (getRing u i).isSome = (getRing s i).isSome := by
    rw [hu]
    exact modRing_ring_isSome s ring.val i _
  have ended := finishBy_posted (dropCmd (fun o => o.op = 1 && o.cid = l.cid && o.lid = l.lid)) u
    (cmdDone l.ring 1 0x2007 l.cid l.lid 0 []) ((stillOpen _).trans opened)
  rw [← hu] at runs
  have done := finishBy_posted List.dropLast (finishCmd 1 u (cmdDone l.ring 1 0x2007 l.cid l.lid 0 []))
    (cmdDone ring.val 1 0 cid l.lid 0 []) ((finishBy_ring_isSome _ u _ _).trans ((stillOpen _).trans h.ring_isSome))
  refine ⟨_, runs, ?launches, done.keeps ended.mem, done.mem, ?mem⟩
  all_goals
    unfold succeed finishNow
    rw [finishBy_frame, finishCmd_frame, hu]
    rfl

/-- A RESUME of a launch whose image header is bad is refused, and the bad bursts are counted and logged. -/
theorem refuse_logBad (h : AtCommand s ring 4 e cid) (a n code : Nat) (lid : Word) :
    let t := refuse (logBad (readNaming s ring e cid) a n) ring.val cid code lid 0
    Posted (cmdDone ring.val 2 code cid lid 0 []) s t ∧ t.launches = s.launches ∧ t.mem.bytes = s.mem.bytes := by
  obtain ⟨r, x, logged⟩ := logBad_frame (readNaming s ring e cid) a n
  dsimp only
  rw [logged]
  have posted := finishBy_posted List.dropLast { readNaming s ring e cid with regs := r, hlt := x }
    (cmdDone ring.val 2 code cid lid 0 []) (readCmd_ring_isSome h cid _ _)
  refine ⟨posted, ?_, ?_⟩
  all_goals
    unfold refuse finishNow
    rw [finishBy_frame]
    rfl

end Commands

/-- Settles O38: each command by what it finds of the launch it names; a refusal is an answer, and what a command begins is
one change of the launch. -/
theorem stopAbortResume : Obligations.StopAbortResume := by
  unfold Obligations.StopAbortResume
  refine ⟨fun p hp ring s e cid h missing => ?unknown,
    fun ring s e cid l h found => ⟨fun running unfinished area => ?stops, fun running unfinished noArea => ?noArea,
      fun notRunning => ?notRunning⟩,
    fun ring s e cid l h found => ⟨exec_abort_ends h found, fun running busy => ?aborts⟩,
    fun ring s e cid l h found => ⟨fun unsaved => ?unsaved, fun saved resume ready regions => ?resumes⟩⟩
  case unknown =>
    obtain ⟨posted, -, frame⟩ := h.refuse_answers (leAt e 0 1) (namedLid e) cLidUnknown (namedLid e) 0
    exact ⟨_, exec_unknown hp h missing, posted, frame⟩
  case stops =>
    have named : l.lid = namedLid e := lid_of_findLaunch found
    have runs := exec_stop found h
    rw [if_neg (by simp [running, unfinished]), if_neg area] at runs
    exact ⟨_, runs, findLaunch_modLaunch_same (readNaming s ring e cid) l.lid _ l (named ▸ found) fun _ => rfl, rfl⟩
  case noArea =>
    have runs := exec_stop found h
    rw [if_neg (by simp [running, unfinished]), if_pos noArea] at runs
    obtain ⟨posted, -, frame⟩ := h.refuse_answers (leAt e 0 1) (namedLid e) 0x2003 l.lid 0
    exact ⟨_, runs, posted, frame⟩
  case notRunning =>
    have runs := exec_stop found h
    rw [if_pos (.inl notRunning)] at runs
    obtain ⟨posted, -, frame⟩ := h.refuse_answers (leAt e 0 1) (namedLid e) cConflict l.lid 0
    exact ⟨_, runs, posted, frame⟩
  case aborts =>
    obtain ⟨aborting, runs⟩ := exec_abort_begins h found running busy
    exact ⟨_, runs, aborting, rfl⟩
  case unsaved =>
    have runs := exec_resume found h (headerWaits_of_unsaved found unsaved)
    rw [if_pos (.inl unsaved)] at runs
    obtain ⟨posted, -, frame⟩ := h.refuse_answers (leAt e 0 1) (namedLid e) cConflict l.lid 0
    exact ⟨_, runs, posted, frame⟩
  case resumes =>
    have named : l.lid = namedLid e := lid_of_findLaunch found
    have runs := exec_resume found h (named ▸ ready)
    rw [if_neg (by simp [saved, resume]), if_neg (by simp [regions])] at runs
    by_cases good : headerOk s l = true
    · rw [if_neg (by simp [good])] at runs
      have resumed := findLaunch_modLaunch_same (readNaming s ring e cid) l.lid
        (fun l => { l with resume := some (ring.val, cid) }) l (named ▸ found) fun _ => rfl
      exact ⟨_, runs, fun _ => ⟨resumed, rfl⟩, fun bad => absurd good (by simp [bad])⟩
    · rw [if_pos (by simpa using good)] at runs
      exact ⟨_, runs, fun holds => absurd holds good, fun _ => refuse_logBad h l.save0 (64 * kib) cImage l.lid⟩

end Sys2Proof.Machine
end

section
/-! SUPPORT. What the device's own writes to memory can change, and what counting a bad burst does (R134, R410, R419, R420, R426,
Tables 10.15, 10.16). -/

namespace Sys2Proof.Machine

theorem rreg_congr {s t : State} (h : t.regs = s.regs) (r : Reg) (i : Nat) : rreg t r i = rreg s r i := by
  unfold rreg
  rw [h]

theorem rreg_cfld_same (s : State) (r : Reg) (i hi lo n : Nat) : rreg (cfld s r i hi lo n) r i = satF (rreg s r i) hi lo n :=
  rreg_wreg_same s r i _

/-! ### Memory faults that are counted and logged -/

/-- The registers in which a stack's memory faults are counted and logged. -/
def memLogRegs : List Reg := [.stkUnc, .stkElog, .stkEaddr]

/-- Every DPA lies in one of the 24 stacks (R428). -/
theorem dpaChan_stack_lt (s : State) (a : Nat) : (dpaChan s a).1 < 24 := by
  have half : dpaHalf a < 2 := by
    unfold dpaHalf
    split <;> decide
  have listed : ∀ c ∈ channelList s (dpaHalf a), c.1 < 24 := by
    intro c hc
    obtain ⟨i, -, found⟩ := List.mem_filterMap.mp hc
    dsimp only at found
    split at found
    · cases found
    · obtain rfl := Option.some.inj found
      dsimp only
      omega
  unfold dpaChan
  dsimp only
  rw [List.getD_eq_getElem?_getD]
  cases there : (channelList s (dpaHalf a))[dpaLocal a / 2048 % (channelList s (dpaHalf a)).length]? with
  | none =>
    dsimp only [Option.getD_none]
    omega
  | some c => exact listed c (List.mem_of_getElem? there)

/-- The three places of a memory fault's stack. -/
theorem logMem_regsBut (s : State) (a code : Nat) :
    RegsBut (memLogRegs.map (regAddr · (dpaChan s a).1)) s (logMem s a code) := by
  have own {u v : State} {r : Reg} (hr : r ∈ memLogRegs) (h : RegsBut [regAddr r (dpaChan s a).1] u v) :
      RegsBut (memLogRegs.map (regAddr · (dpaChan s a).1)) u v :=
    h.mono fun x hx => List.mem_map.mpr ⟨r, hr, (List.mem_singleton.mp hx).symm⟩
  have counted (u : State) (hi lo : Nat) : RegsBut (memLogRegs.map (regAddr · (dpaChan s a).1)) u
      (cfld u .stkUnc (dpaChan s a).1 hi lo 1) := own (r := .stkUnc) (by decide) (wreg_regsBut u _ _ _)
  have logged (u : State) (v w : Word) : RegsBut (memLogRegs.map (regAddr · (dpaChan s a).1)) u
      (wreg (wreg u .stkElog (dpaChan s a).1 v) .stkEaddr (dpaChan s a).1 w) :=
    (own (r := .stkElog) (by decide) (wreg_regsBut u _ _ _)).trans (own (r := .stkEaddr) (by decide) (wreg_regsBut _ _ _ _))
  unfold logMem
  dsimp only
  refine RegsBut.trans (RegsBut.trans (t := lifeAdd s (dpaChan s a).1 16 4 1) (fun _ _ _ => rfl) ?_) (logged _ _ _)
  split
  · exact counted _ _ _
  · exact counted _ _ _

/-! ### Writes of the device itself -/

/-- `t` is `s` but for memory, its lines and queues, what is known of the state sections written there, and counts and logs of
memory faults. -/
def DeviceWrote (s t : State) : Prop :=
  t = { s with mem := t.mem, halves := t.halves, regs := t.regs, hlt := t.hlt, ctxs := t.ctxs } ∧
  ∀ q i, q ∉ memLogRegs → i < regCount q → rreg t q i = rreg s q i

theorem DeviceWrote.refl (s : State) : DeviceWrote s s := ⟨rfl, fun _ _ _ _ => rfl⟩

theorem DeviceWrote.trans {s t u : State} (h : DeviceWrote s t) (k : DeviceWrote t u) : DeviceWrote s u := by
  obtain ⟨frame, same⟩ := h
  obtain ⟨frame', same'⟩ := k
  exact ⟨by rw [frame', frame], fun q i hq hi => (same' q i hq hi).trans (same q i hq hi)⟩

theorem DeviceWrote.foldl {α : Type} {step : State → α → State} (h : ∀ u a, DeviceWrote u (step u a)) (as : List α)
    (s : State) : DeviceWrote s (as.foldl step s) :=
  List.foldlRecOn _ _ (DeviceWrote.refl s) fun u wrote a _ => wrote.trans (h u a)

/-- A change of memory, its lines and the state sections known writes no register. -/
theorem deviceWrote_of_frame {s t : State} (h : t = { s with mem := t.mem, halves := t.halves, ctxs := t.ctxs }) : DeviceWrote s t := by
  have regs : t.regs = s.regs := by rw [h]
  exact ⟨by rw [h], fun q i _ _ => rreg_congr regs q i⟩

theorem logMem_wrote (s : State) (a code : Nat) : DeviceWrote s (logMem s a code) := by
  refine ⟨?frame, fun q i hq hi => (logMem_regsBut s a code).rreg fun own => ?apart⟩
  case frame =>
    obtain ⟨r, x, logged⟩ := logMem_frame s a code
    rw [logged]
  case apart =>
    obtain ⟨r, hr, same⟩ := List.mem_map.mp own
    have places : ∀ r ∈ memLogRegs, regCount r = 24 := by decide
    have stack : (dpaChan s a).1 < regCount r := places r hr ▸ dpaChan_stack_lt s a
    exact hq ((regAddr_inj stack hi same).1 ▸ hr)

theorem logBad_wrote (s : State) (a n : Nat) : DeviceWrote s (logBad s a n) := by
  unfold logBad
  split
  · exact logMem_wrote s _ _
  · exact DeviceWrote.refl s

theorem acceptMem_wrote (s : State) (a : Nat) (bs : List Byte) (job : Nat) : DeviceWrote s (acceptMem s a bs job) :=
  deviceWrote_of_frame (by rw [acceptMem_frame])

theorem putBurst_wrote (q : WaitUnit) (lid : BitVec 32) (s : State) (c : Nat × List (Byte × Byte)) :
    DeviceWrote s (putBurst q lid s c) := by
  unfold putBurst
  split
  · exact logMem_wrote s _ _
  · split
    · exact acceptMem_wrote s _ _ _
    · exact deviceWrote_of_frame rfl

theorem putMem_wrote (s : State) (a : Nat) (bs : List Byte) (q : WaitUnit) (lid : BitVec 32) (job : Nat) :
    DeviceWrote s (putMem s a bs q lid job) := by
  unfold putMem
  split
  · exact acceptMem_wrote s a bs job
  · exact DeviceWrote.foldl (putBurst_wrote q lid) _ s

/-- The dirty lines of a job slot go to their stacks (R388). -/
theorem writeBackJob_wrote (s : State) (job : Nat) : DeviceWrote s (writeBackJob s job) := by
  have line (u : State) (c : MscLine) : DeviceWrote u (writeBack u c) := deviceWrote_of_frame (by rw [writeBack_frame])
  unfold writeBackJob
  exact DeviceWrote.foldl (fun u h => (DeviceWrote.foldl line _ u).trans (deviceWrote_of_frame rfl)) _ s

end Sys2Proof.Machine
end

section
/-! SUPPORT. A save's image and its end, a restore, and the end of a slice (R383, R387, R388, R391, R392, R396, R754, R759). -/

namespace Sys2Proof.Machine

/-- A command of a launch completes with a change of that launch, whatever else `u` has that is no launch, ring or completion. -/
theorem finishCmd_modLaunch {s u : State} {lid : BitVec 32} {l : Launch} {f : Launch → Launch} {c : Completion}
    (found : findLaunch s lid = some l) (opened : (getRing s c.ring).isSome = true) (launches : u.launches = s.launches)
    (rings : u.rings = s.rings) (comps : u.comps = s.comps) (keeps : ∀ x, (f x).lid = x.lid) (op : Nat) :
    findLaunch (finishCmd op (modLaunch u lid f) c) lid = some (f l) ∧ Posted c s (finishCmd op (modLaunch u lid f) c) := by
  have changed := findLaunch_modLaunch_same u lid f l ((findLaunch_congr launches lid).trans found) keeps
  have stillOpen : (getRing (modLaunch u lid f) c.ring).isSome = true :=
    (congrArg (fun rings => (rings[Fin.ofNat 16 c.ring]).isSome) rings).trans opened
  exact ⟨(findLaunch_congr (finishCmd_launches _ _ _) lid).trans changed, (finishBy_posted _ _ c stillOpen).congr comps.symm rfl⟩

/-! ### SAVE_COMPLETE (R383, R388, R394) -/

theorem saveSend_frame (s : State) (hs : List Nat) : saveSend s hs = { s with hinge := (saveSend s hs).hinge } :=
  List.foldlRecOn (motive := fun t : State => t = { s with hinge := t.hinge }) hs _ rfl fun t sent h _ => by
    rw [sent]
    rfl

/-- The image of a stopped launch is written to memory alone. -/
theorem saveImage_wrote (s : State) (l : Launch) (part : Bool) : DeviceWrote s (saveImage s l part) := by
  have map : DeviceWrote s (if part = true ∧ l.livemap ≠ 0 then logBad s l.livemap l.livemapLen else s) := by
    split
    · exact logBad_wrote s _ _
    · exact DeviceWrote.refl s
  unfold saveImage
  dsimp only
  refine DeviceWrote.trans ?_ (putMem_wrote _ _ _ _ _ _)
  refine DeviceWrote.trans ?_ (deviceWrote_of_frame rfl)
  exact (map.trans (writeBackJob_wrote _ _)).trans (DeviceWrote.foldl (fun u p => putMem_wrote u _ _ _ _ _) _ _)

/-- The image of a launch is written, with the Save beats of its halves. -/
def imageSaved (s : State) (l : Launch) (part : Bool) : State := saveImage (saveSend s (saveFrom l)) l part

theorem imageSaved_wrote (s : State) (l : Launch) (part : Bool) : DeviceWrote (saveSend s (saveFrom l)) (imageSaved s l part) :=
  saveImage_wrote (saveSend s (saveFrom l)) l part

/-- What the device writes after some Save beats have left. -/
theorem DeviceWrote.frame_of_saveSend {s t : State} {hs : List Nat} (h : DeviceWrote (saveSend s hs) t) : t = { s with
    mem := t.mem, halves := t.halves, regs := t.regs, hlt := t.hlt, ctxs := t.ctxs, hinge := t.hinge } := by
  obtain ⟨wrote, -⟩ := h
  rw [wrote, saveSend_frame]

theorem rreg_devPrestat_imageSaved (s : State) (l : Launch) (part : Bool) :
    rreg (imageSaved s l part) .devPrestat 0 = rreg s .devPrestat 0 := by
  have sent : (saveSend s (saveFrom l)).regs = s.regs := by rw [saveSend_frame]
  exact ((imageSaved_wrote s l part).2 .devPrestat 0 (by decide) (by decide)).trans (rreg_congr sent _ _)

/-- A launch as its save leaves it. -/
def Launch.nowSaved (l : Launch) : Launch := { l with st := .saved, stop := none, overrun := 0 }

/-- What follows the image of a launch in a save that a STOP began: the launch's units are free, the save is counted, the launch is
saved, and the STOP completes. -/
def saveEnded (u : State) (l : Launch) (ring : Nat) (cid : Word) : State :=
  finishCmd 2 (modLaunch (cfld (release u l.lid) .devPrestat 0 15 8 1) l.lid Launch.nowSaved)
    (cmdDone ring 1 0 cid l.lid (l.overrun / 100) [])

theorem saveComplete_saves {s : State} {l : Launch} {ring at_ : Nat} {cid : Word} {part : Bool} (found : findLaunch s l.lid = some l)
    (stopping : l.st = .stopping) (stop : l.stop = some (.command ring cid, part, at_)) (stopped : allStopped s l = true)
    (unfinished : allFinished s l = false) (ready : saveWaits s l part = false) :
    saveComplete l.lid s = saveEnded (imageSaved s l part) l ring cid := by
  unfold saveComplete
  simp only [found, stopping, stop]
  rw [if_neg (by simp [stopped, unfinished, ready])]
  rfl

section SaveEnded

variable (u : State) (l : Launch) (ring : Nat) (cid : Word)

/-- The launch is saved, and its STOP has completed. -/
theorem saveEnded_answers {s : State} (found : findLaunch s l.lid = some l) (opened : (getRing s ring).isSome = true)
    (launches : u.launches = s.launches) (rings : u.rings = s.rings) (comps : u.comps = s.comps) :
    findLaunch (saveEnded u l ring cid) l.lid = some l.nowSaved ∧
      Posted (cmdDone ring 1 0 cid l.lid (l.overrun / 100) []) s (saveEnded u l ring cid) :=
  finishCmd_modLaunch (u := cfld (release u l.lid) .devPrestat 0 15 8 1) (f := Launch.nowSaved)
    (c := cmdDone ring 1 0 cid l.lid (l.overrun / 100) []) found opened launches rings comps (fun _ => rfl) 2

theorem rreg_devPrestat_saveEnded : rreg (saveEnded u l ring cid) .devPrestat 0 = satF (rreg u .devPrestat 0) 15 8 1 := by
  have regs : (saveEnded u l ring cid).regs = (cfld (release u l.lid) .devPrestat 0 15 8 1).regs := by
    unfold saveEnded
    rw [finishCmd_frame]
    rfl
  have freed : rreg (release u l.lid) .devPrestat 0 = rreg u .devPrestat 0 := rreg_congr rfl .devPrestat 0
  rw [rreg_congr regs, rreg_cfld_same, freed]

theorem region_saveEnded (r : Fin 8) : (saveEnded u l ring cid).regions[r] = (release u l.lid).regions[r] := by
  unfold saveEnded
  rw [finishCmd_frame]
  rfl

theorem block_saveEnded (b : Fin 48) : (saveEnded u l ring cid).blocks[b].lid ≠ some l.lid := by
  have block : (saveEnded u l ring cid).blocks[b] = (release u l.lid).blocks[b] := by
    unfold saveEnded
    rw [finishCmd_frame]
    rfl
  rw [block, block_release]
  split
  · nofun
  · assumption

end SaveEnded

/-! ### RESTORE_COMPLETE (R396, R754, R759) -/

/-- What taking up the pieces of an image can change: the units, their registers, and barriers. -/
def UnitsRestored (s t : State) : Prop :=
  t = { s with regs := t.regs, blocks := t.blocks, regions := t.regions, halves := t.halves, barriers := t.barriers }

theorem UnitsRestored.trans {s t u : State} (h : UnitsRestored s t) (k : UnitsRestored t u) : UnitsRestored s u := by
  unfold UnitsRestored at *
  rw [k, h]

theorem UnitsRestored.foldl {α : Type} {step : State → α → State} (h : ∀ u a, UnitsRestored u (step u a)) (as : List α)
    (s : State) : UnitsRestored s (as.foldl step s) :=
  List.foldlRecOn (motive := UnitsRestored s) _ _ rfl fun u taken a _ => taken.trans (h u a)

theorem takeHalf_restored (s : State) (l : Launch) (h : Fin 2) (a b : Ctx) : UnitsRestored s (takeHalf s l h a b) := by
  have sampler : UnitsRestored s (match a with
      | .smp u row _ => if l.hasSmp h then modHalf s h (fun x => { x with smp := u.taken l.lid, smpRow := row }) else s
      | _ => s) := by
    split
    · split <;> rfl
    · rfl
  have stream (u : State) : UnitsRestored u (match b with
      | .vse v job _ => if l.hasVse h then modHalf u h (fun x => { x with vse := v.taken l.lid, vseJob := job }) else u
      | _ => u) := by
    split
    · split <;> rfl
    · rfl
  unfold takeHalf
  exact sampler.trans (stream _)

theorem takeBlk_restored (s : State) (l : Launch) (b : Fin 48) (c : Ctx) : UnitsRestored s (takeBlk s l b c) := by
  cases c <;> rfl

theorem takeRgn_restored (s : State) (l : Launch) (r : Fin 8) (c : Ctx) : UnitsRestored s (takeRgn s l r c) := by
  cases c <;> rfl

theorem takePiece_restored (l : Launch) (m : Option (List Byte)) (s : State) (p : Nat × Piece) :
    UnitsRestored s (takePiece l m s p) := by
  obtain ⟨a, piece⟩ := p
  cases piece with
  | half h => exact takeHalf_restored s l h _ _
  | rgn r => exact takeRgn_restored s l r _
  | blk b => exact takeBlk_restored s l b _
  | rbuf r i => exact rfl
  | bank b k => exact rfl
  | slot b k => exact rfl
  | scratch b i => exact rfl

theorem takeBarriers_restored (s : State) (l : Launch) (firsts : List (Fin 48 × Nat)) :
    UnitsRestored s (takeBarriers s l firsts) := by
  refine UnitsRestored.foldl (fun u i => ?_) _ s
  dsimp only
  split <;> rfl

/-- A launch whose image is taken up runs again, with no RESUME waiting (R396, R754). -/
theorem findLaunch_takeImage {s : State} {l : Launch} (found : findLaunch s l.lid = some l) (m : Option (List Byte))
    (ps : List (Nat × Piece)) :
    ∃ l', findLaunch (takeImage s l m ps) l.lid = some l' ∧ l'.st = .running ∧ l'.resume = none ∧ l'.hdr = l.hdr := by
  have units (firsts : List (Fin 48 × Nat)) : (takeBarriers (ps.foldl (takePiece l m) s) l firsts).launches = s.launches := by
    rw [(UnitsRestored.foldl (takePiece_restored l m) ps s).trans (takeBarriers_restored _ l firsts)]
  have runs (firsts : List (Fin 48 × Nat)) (f : Launch → Launch) (keeps : ∀ x, (f x).lid = x.lid) :
      findLaunch (modLaunch (cfld (takeBarriers (ps.foldl (takePiece l m) s) l firsts) .devPrestat 0 7 0 1) l.lid f) l.lid =
        some (f l) :=
    findLaunch_modLaunch_same _ l.lid f l ((findLaunch_congr (units firsts) l.lid).trans found) keeps
  unfold takeImage
  dsimp only
  split
  · exact ⟨_, (findLaunch_congr (finishCmd_launches _ _ _) l.lid).trans (runs _ _ fun _ => rfl), rfl, rfl, rfl⟩
  · exact ⟨_, runs _ _ fun _ => rfl, rfl, rfl, rfl⟩

/-- A launch as a RESUME that fails leaves it (R759). -/
def Launch.resumeFailed (l : Launch) : Launch := { l with st := .saved, resume := none }

theorem restoreFail_resumed {s : State} {l : Launch} {ring : Nat} {cid : Word} (resume : l.resume = some (ring, cid)) :
    restoreFail s l = finishCmd 4 (modLaunch (release s l.lid) l.lid Launch.resumeFailed) (cmdDone ring 2 cImage cid l.lid 0 []) := by
  unfold restoreFail
  rw [resume]
  rfl

/-- Counting and logging bad bursts of several ranges changes registers and LIFE bodies. -/
theorem foldl_logBad_frame {α : Type} (place len : α → Nat) (as : List α) (s : State) :
    let t := as.foldl (fun s x => logBad s (place x) (len x)) s
    t = { s with regs := t.regs, hlt := t.hlt } :=
  List.foldlRecOn (motive := fun t : State => t = { s with regs := t.regs, hlt := t.hlt }) as _ rfl fun u logged x _ => by
    obtain ⟨r, y, next⟩ := logBad_frame u (place x) (len x)
    rw [next, logged]

/-- A RESUME whose image is bad leaves the launch saved, and is refused (R759). -/
theorem restoreFail_refuses {s u : State} {l : Launch} {ring : Nat} {cid : Word} (found : findLaunch s l.lid = some l)
    (logged : u = { s with regs := u.regs, hlt := u.hlt }) (resume : l.resume = some (ring, cid))
    (opened : (getRing s ring).isSome = true) :
    findLaunch (restoreFail u l) l.lid = some l.resumeFailed ∧ Posted (cmdDone ring 2 cImage cid l.lid 0 []) s (restoreFail u l) ∧
      (restoreFail u l).mem.bytes = s.mem.bytes := by
  rw [restoreFail_resumed resume]
  obtain ⟨failed, posted⟩ := finishCmd_modLaunch (u := release u l.lid) (f := Launch.resumeFailed)
    (c := cmdDone ring 2 cImage cid l.lid 0 []) found opened (congrArg State.launches logged :) (congrArg State.rings logged :)
    (congrArg State.comps logged :) (fun _ => rfl) 4
  refine ⟨failed, posted, ?_⟩
  rw [finishCmd_frame, logged]
  rfl

section Restore

variable {s : State} {lid : BitVec 32} {l : Launch}

/-- The live map that a restore goes by, and the pieces of the image under it. -/
abbrev restoreMap (s : State) (l : Launch) : Option (List Byte) := liveMapOf s l (memLe s (l.save0 + 6) 1 = 2)

theorem restoreComplete_restoring (found : findLaunch s lid = some l) (restoring : l.st = .restoring)
    (ready : restoreWaits s l (pieces l (restoreMap s l)) = false) : restoreComplete lid s =
      if headerOk s l = true ∧ sectionsOk s l (pieces l (restoreMap s l)) = true then
        takeImage (saveSend s ((saveFrom l).map (1 - ·))) l (restoreMap s l) (pieces l (restoreMap s l))
      else restoreFail ((pieces l (restoreMap s l)).foldl (fun s p => logBad s p.1 p.2.len) (logBad s l.save0 (64 * kib))) l := by
  unfold restoreComplete
  rw [found, Option.filter_some, if_pos (by simp [restoring])]
  dsimp only
  rw [if_neg (by simp [ready])]

/-- What a restore does: by its checks the launch runs again, or its RESUME fails. -/
theorem restoreComplete_ends (found : findLaunch s lid = some l) (restoring : l.st = .restoring)
    (ready : restoreWaits s l (pieces l (restoreMap s l)) = false) :
    ∃ t, exec (.restoreComplete lid) s = .next t ∧
      (headerOk s l = true → sectionsOk s l (pieces l (restoreMap s l)) = true →
        ∃ l', findLaunch t lid = some l' ∧ l'.st = .running ∧ l'.resume = none ∧ l'.hdr = l.hdr) ∧
      (¬ (headerOk s l = true ∧ sectionsOk s l (pieces l (restoreMap s l)) = true) → ∀ ring cid, l.resume = some (ring, cid) →
        (getRing s ring).isSome = true → findLaunch t lid = some l.resumeFailed ∧
        Posted (cmdDone ring 2 cImage cid lid 0 []) s t ∧ t.mem.bytes = s.mem.bytes) := by
  have runs := restoreComplete_restoring found restoring ready
  obtain rfl := lid_of_findLaunch found
  by_cases good : headerOk s l = true ∧ sectionsOk s l (pieces l (restoreMap s l)) = true
  · rw [if_pos good] at runs
    have sent : (saveSend s ((saveFrom l).map (1 - ·))).launches = s.launches := by rw [saveSend_frame]
    exact ⟨_, congrArg Host.Outcome.next runs,
      fun _ _ => findLaunch_takeImage ((findLaunch_congr sent l.lid).trans found) (restoreMap s l) _, fun bad => absurd good bad⟩
  · rw [if_neg good] at runs
    have logged := foldl_logBad_frame (fun p : Nat × Piece => p.1) (fun p => p.2.len)
      ((l.save0, .half 0) :: pieces l (restoreMap s l)) s
    exact ⟨_, congrArg Host.Outcome.next runs, fun header sections => absurd ⟨header, sections⟩ good,
      fun _ ring cid resume opened => restoreFail_refuses found logged resume opened⟩

end Restore

/-! ### SLICE_END (R391, R392) -/

theorem postEvent_latStat (s : State) (ring code : Nat) (lid : Word) (aux2 : Nat) (data : List Byte) :
    RegsBut [regAddr .latStat 0] s (postEvent s ring code lid aux2 data) := by
  unfold postEvent
  split
  · exact RegsBut.refl _ s
  · split
    · exact wreg_regsBut s .latStat 0 _
    · exact RegsBut.refl _ s

theorem postEvent_comps {s : State} {ring : Nat} (opened : (getRing s ring).isSome = true) (code : Nat) (lid : Word) (aux2 : Nat)
    (data : List Byte) : (postEvent s ring code lid aux2 data).comps = s.comps ++ [Completion.mk 3 ring code 0 lid aux2 data] := by
  unfold postEvent
  rw [if_pos opened]
  rfl

/-- A launch at the start of a slice: SLICE µs are 100 cycles each. -/
def Launch.newSlice (l : Launch) : Launch := { l with sliceLeft := 100 * l.fld 32 4 }

section Slice

variable {s : State} {lid : BitVec 32} {l : Launch} (found : findLaunch s lid = some l)
include found

theorem sliceEnd_renews (running : l.st = .running) (sliced : l.fld 32 4 ≠ 0) (stays : l.flag 2 = false) (expired : l.sliceLeft = 0) :
    sliceEnd lid s = modLaunch (postEvent s l.ring 0x5001 lid 0 []) lid Launch.newSlice := by
  unfold sliceEnd
  rw [found]
  dsimp only
  rw [if_neg (by simp [running, sliced, expired]), if_neg (by simp [stays])]
  rfl

theorem sliceEnd_early (early : l.sliceLeft ≠ 0) : sliceEnd lid s = s := by
  unfold sliceEnd
  rw [found]
  exact if_pos (.inr (.inr early))

end Slice

/-- Settles O39: a save writes memory and then releases; a restore that is good takes up its image, one that is not logs and
releases; a slice that ends is an event and a new slice. -/
theorem savesRestoresAndSlices : Obligations.SavesRestoresAndSlices := by
  unfold Obligations.SavesRestoresAndSlices
  refine ⟨fun lid s l ring cid part at_ found stopping stop stopped unfinished ready opened => ?saves,
    fun lid s l found restoring ready => ?restores,
    fun lid s l found running sliced stays => ⟨fun expired => ?slice, fun early => ?early⟩⟩
  case saves =>
    obtain rfl := lid_of_findLaunch found
    have frame := (imageSaved_wrote s l part).frame_of_saveSend
    have kept : (imageSaved s l part).regions = s.regions := (congrArg State.regions frame :)
    obtain ⟨saved, posted⟩ := saveEnded_answers (imageSaved s l part) l ring cid found opened (congrArg State.launches frame :)
      (congrArg State.rings frame :) (congrArg State.comps frame :)
    refine ⟨_, congrArg Host.Outcome.next (saveComplete_saves found stopping stop stopped unfinished ready), saved, posted, ?counts,
      fun r held => ?region, block_saveEnded _ l ring cid⟩
    case counts => rw [rreg_devPrestat_saveEnded, rreg_devPrestat_imageSaved]
    case region =>
      rw [region_saveEnded, region_release, kept, if_pos held]
      rfl
  case restores => exact restoreComplete_ends found restoring ready
  case slice =>
    refine ⟨_, congrArg Host.Outcome.next (sliceEnd_renews found running sliced stays expired),
      findLaunch_modLaunch_same _ lid Launch.newSlice l ((findLaunch_congr (postEvent_launches _ _ _ _ _ _) lid).trans found)
        (fun _ => rfl), fun opened => postEvent_comps opened _ _ _ _, (postEvent_latStat s _ _ _ _ _).congr rfl rfl, ?_⟩
    rw [postEvent_frame]
    rfl
  case early => exact congrArg Host.Outcome.next (sliceEnd_early found early)

end Sys2Proof.Machine
end

section
/-! SUPPORT. TURN_END: the section of the outgoing block is written (R385, R397-R399, R732; logs 80, 81). -/

namespace Sys2Proof.Machine

/-! ### The areas outside the live map -/

/-- What leaving a block's areas free can change: the block, and the count of free values. -/
def AreasFreed (b : Fin 48) (s t : State) : Prop :=
  OnlyBlock b s t ∧ t = { s with blocks := t.blocks, freeCtr := t.freeCtr }

theorem AreasFreed.refl (b : Fin 48) (s : State) : AreasFreed b s s := ⟨fun _ _ => rfl, rfl⟩

theorem AreasFreed.trans {b : Fin 48} {s t u : State} (h : AreasFreed b s t) (k : AreasFreed b t u) : AreasFreed b s u := by
  obtain ⟨only, frame⟩ := h
  obtain ⟨only', frame'⟩ := k
  exact ⟨only.trans only', by rw [frame', frame]⟩

theorem AreasFreed.foldl {b : Fin 48} {α : Type} {step : State → α → State} (h : ∀ u a, AreasFreed b u (step u a))
    (as : List α) (s : State) : AreasFreed b s (as.foldl step s) :=
  List.foldlRecOn _ _ (AreasFreed.refl b s) fun u freed a _ => freed.trans (h u a)

theorem areasFreed_modBlk (s : State) (b : Fin 48) (f : Block → Block) : AreasFreed b s (modBlk s b f) :=
  ⟨modBlk_onlyBlock s b f, rfl⟩

theorem areasFreed_freeCtr (s : State) (b : Fin 48) (n : Nat) : AreasFreed b s { s with freeCtr := n } := ⟨fun _ _ => rfl, rfl⟩

theorem junkBank_freed (s : State) (b : Fin 48) (i : Nat) : AreasFreed b s (junkBank s b i) :=
  (areasFreed_modBlk s b _).trans (areasFreed_freeCtr _ b _)

theorem junkSlot_freed (s : State) (b : Fin 48) (i : Nat) : AreasFreed b s (junkSlot s b i) :=
  (areasFreed_modBlk s b _).trans (areasFreed_freeCtr _ b _)

theorem freeAreas_freed (s : State) (l : Launch) (m : Option (List Byte)) (b : Fin 48) : AreasFreed b s (freeAreas s l m b) := by
  unfold freeAreas
  split
  · exact AreasFreed.refl b s
  · have banks := AreasFreed.foldl (fun u k => junkBank_freed u b k) ((List.range 3).filter (fun k => !liveBank l m b k)) s
    generalize ((List.range 3).filter (fun k => !liveBank l m b k)).foldl (fun s k => junkBank s b k) s = u at banks ⊢
    dsimp only
    refine AreasFreed.trans ?_ (AreasFreed.foldl (fun u k => junkSlot_freed u b k) _ _)
    exact (banks.trans (areasFreed_freeCtr u b _)).trans (areasFreed_modBlk _ b _)

/-! ### The section -/

/-- What writing a block's section can change: memory, the block's areas, and that its region notes the section as written. -/
def SectionWritten (b : Fin 48) (r : Fin 8) (s t : State) : Prop :=
  OnlyBlock b s t ∧ OnlyRegion r s t ∧ t.regions[r] = { s.regions[r] with written := t.regions[r].written } ∧
  t = { s with
    mem := t.mem, halves := t.halves, regs := t.regs, hlt := t.hlt, ctxs := t.ctxs, blocks := t.blocks, freeCtr := t.freeCtr
    regions := t.regions }

theorem writeSection_written (s : State) (l : Launch) {b : Fin 48} {r : Fin 8} (own : rgnOf b = r) :
    SectionWritten b r s (writeSection s l b) := by
  subst own
  unfold writeSection
  split
  · exact ⟨fun _ _ => rfl, fun _ _ => rfl, rfl, rfl⟩
  · next a _ =>
    generalize liveMapOf s l true = m
    have put : DeviceWrote s ((blkPieces l m a b).foldl (fun t x => putMem t x.1 (pieceBytes s l x.2)) s) :=
      DeviceWrote.foldl (fun u x => putMem_wrote u _ _ _ _ _) _ s
    unfold putSection
    generalize (blkPieces l m a b).foldl (fun t x => putMem t x.1 (pieceBytes s l x.2)) s = u at put ⊢
    have wrote : DeviceWrote s (addCtx u (ctxOfBlk s l b)) := put.trans (deviceWrote_of_frame rfl)
    obtain ⟨wrote, -⟩ := wrote
    generalize addCtx u (ctxOfBlk s l b) = u at wrote ⊢
    obtain ⟨only, freed⟩ := freeAreas_freed u l m b
    generalize freeAreas u l m b = v at only freed ⊢
    have blocks : u.blocks = s.blocks := by rw [wrote]
    have regions : v.regions = s.regions := by rw [freed, wrote]
    refine ⟨only.congr blocks.symm rfl, (modRgn_onlyRegion v (rgnOf b) _).congr regions.symm rfl, ?region, ?frame⟩
    case region =>
      rw [modRgn_same, regions]
    case frame =>
      rw [show ∀ f, modRgn v (rgnOf b) f = { v with regions := (modRgn v (rgnOf b) f).regions } from fun _ => rfl, freed, wrote]

/-! ### The turn -/

theorem turnOf_congr {s t : State} {p : Fin 56} (h : t.regions[pRgn p].turns = s.regions[pRgn p].turns) : turnOf t p = turnOf s p := by
  unfold turnOf
  rw [h]

theorem turnOf_modTurn {s : State} {p : Fin 56} {x : Turn} (turn : turnOf s p = some x) {f : Turn → Turn}
    (keeps : ∀ t, (f t).phys = t.phys) : turnOf (modTurn s p f) p = some (f x) := by
  have phys : x.phys = p.val % 7 := by simpa using List.find?_some turn
  have tested : (fun t : Turn => decide (t.phys = p.val % 7)) ∘ (fun t => if t.phys = p.val % 7 then f t else t) =
      fun t => decide (t.phys = p.val % 7) := by
    funext t
    dsimp only [Function.comp]
    split
    · rw [keeps]
    · rfl
  unfold turnOf modTurn at *
  rw [modRgn_same]
  dsimp only
  rw [List.find?_map, tested, turn, Option.map_some, if_pos phys]

/-- A turn that ends after the block's section has been written. -/
def turnEnded (p : Fin 56) (j : Nat) (window : List Word) (s : State) : State :=
  modRgn (modTurn s p (fun t => { t with last := some j })) (pRgn p)
    (fun g => { g with hosted := g.hosted.filter (fun x => x.2 ≠ p.val % 7),
                       windows := (j, window) :: g.windows.filter (fun x => x.1 ≠ j) })

theorem turnEnded_region (p : Fin 56) (j : Nat) (window : List Word) (s : State) :
    (turnEnded p j window s).regions[pRgn p] = { s.regions[pRgn p] with
      hosted := s.regions[pRgn p].hosted.filter (fun x => x.2 ≠ p.val % 7)
      turns := (modTurn s p (fun t => { t with last := some j })).regions[pRgn p].turns
      windows := (j, window) :: s.regions[pRgn p].windows.filter (fun x => x.1 ≠ j) } := by
  unfold turnEnded modTurn
  rw [modRgn_same, modRgn_same]

theorem turnOf_turnEnded {s : State} {p : Fin 56} {x : Turn} (turn : turnOf s p = some x) (j : Nat) (window : List Word) :
    turnOf (turnEnded p j window s) p = some { x with last := some j } := by
  refine (turnOf_congr ?_).trans (turnOf_modTurn (f := fun t => { t with last := some j }) turn fun _ => rfl)
  rw [turnEnded_region]

section TurnEnd

variable {s : State} {p : Fin 56} {l : Launch} {x : Turn} {h : Nat × Nat}

theorem turnEnd_ends (launch : turnLaunch s p = some l) (turn : turnOf s p = some x)
    (hosts : s.regions[pRgn p].hosted.find? (fun h => h.2 = p.val % 7) = some h)
    (past : turnOver s p s.blocks[blkOf (pRgn p) (Fin.ofNat 6 h.1)] x = true)
    (point : s.blocks[blkOf (pRgn p) (Fin.ofNat 6 h.1)].atPoint = true)
    (ready : sectionWaits s l (blkOf (pRgn p) (Fin.ofNat 6 h.1)) = false) : turnEnd p s =
      turnEnded p h.1 (blkWindow s (blkOf (pRgn p) (Fin.ofNat 6 h.1)))
        (writeSection s l (blkOf (pRgn p) (Fin.ofNat 6 h.1))) := by
  unfold turnEnd
  dsimp only
  rw [launch, turn, hosts]
  dsimp only
  rw [if_pos ⟨past, point, by rw [ready]; rfl⟩]
  rfl

end TurnEnd

end Sys2Proof.Machine
end

section
/-! SUPPORT. TURN_SWITCH: the next block's section is taken up, and it has its turn (R136, R138, R397, R399, R732; log 80). -/

namespace Sys2Proof.Machine

/-- What a block that is taken up, and tiles that are delivered, leave of what a turn goes by: which blocks the regions host, their
turns and the writes that wait for them; of the registers only the block's next index can change. -/
structure TurnTaken (b : Fin 48) (s t : State) : Prop where
  hosted : ∀ r : Fin 8, t.regions[r].hosted = s.regions[r].hosted
  turns : ∀ r : Fin 8, t.regions[r].turns = s.regions[r].turns
  late : ∀ r : Fin 8, t.regions[r].late = s.regions[r].late
  regs : RegsBut [regAddr .blkPc b.val] s t
  frame : t = { s with regs := t.regs, blocks := t.blocks, regions := t.regions }

theorem TurnTaken.refl (b : Fin 48) (s : State) : TurnTaken b s s where
  hosted _ := rfl
  turns _ := rfl
  late _ := rfl
  regs := RegsBut.refl _ s
  frame := rfl

theorem TurnTaken.trans {b : Fin 48} {s t u : State} (h : TurnTaken b s t) (k : TurnTaken b t u) : TurnTaken b s u where
  hosted r := (k.hosted r).trans (h.hosted r)
  turns r := (k.turns r).trans (h.turns r)
  late r := (k.late r).trans (h.late r)
  regs := h.regs.trans k.regs
  frame := by rw [k.frame, h.frame]

theorem TurnTaken.turnOf {b : Fin 48} {s t : State} (h : TurnTaken b s t) (p : Fin 56) : turnOf t p = turnOf s p :=
  turnOf_congr (h.turns _)

theorem turnTaken_modBlk (b : Fin 48) (s : State) (c : Fin 48) (f : Block → Block) : TurnTaken b s (modBlk s c f) :=
  { TurnTaken.refl b s with frame := rfl }

theorem turnTaken_modRgn (b : Fin 48) (s : State) (r : Fin 8) {f : Region → Region} (hosted : ∀ g, (f g).hosted = g.hosted)
    (turns : ∀ g, (f g).turns = g.turns) (late : ∀ g, (f g).late = g.late) : TurnTaken b s (modRgn s r f) where
  hosted := modRgn_keeps Region.hosted s r (hosted _)
  turns := modRgn_keeps Region.turns s r (turns _)
  late := modRgn_keeps Region.late s r (late _)
  regs := RegsBut.refl _ s
  frame := rfl

/-! ### The section of the incoming block -/

/-- A piece of a block's section: its state, a bank, a slot or a burst of its scratchpad. -/
def Piece.ofBlk (b : Fin 48) : Piece → Prop
  | .blk c | .bank c _ | .slot c _ | .scratch c _ => c = b
  | _ => False

theorem ofBlk_of_mem_sectionPieces {s : State} {l : Launch} {b : Fin 48} : ∀ q ∈ sectionPieces s l b, q.2.ofBlk b := by
  have own (m : Option (List Byte)) (a : Nat) : ∀ q ∈ blkPieces l m a b, q.2.ofBlk b := by
    intro q hq
    simp only [blkPieces, List.mem_append, List.mem_singleton, List.mem_map] at hq
    obtain ((rfl | ⟨k, -, rfl⟩) | ⟨k, -, rfl⟩) | ⟨i, -, rfl⟩ := hq <;> rfl
  intro q hq
  unfold sectionPieces sectionAll at hq
  split at hq
  · split at hq
    · cases hq
    · exact own _ _ q hq
  · cases hq

theorem takeTurn_taken (l : Launch) (m : Option (List Byte)) {b : Fin 48} (s : State) {q : Nat × Piece} (own : q.2.ofBlk b) :
    TurnTaken b s (takeTurn l m s q) := by
  obtain ⟨a, piece⟩ := q
  unfold takeTurn takePiece
  cases piece with
  | half h => cases own
  | rgn r => cases own
  | rbuf r i => cases own
  | blk c =>
    obtain rfl : c = b := own
    have block (u : State) (x : Ctx) : TurnTaken c u (takeBlk u l c x) := by
      cases x with
      | blk k ran first =>
        exact (turnTaken_modBlk c u c _).trans { TurnTaken.refl c _ with regs := wreg_regsBut _ .blkPc c.val _, frame := rfl }
      | rgn g ran => exact TurnTaken.refl c u
      | smp v row ran => exact TurnTaken.refl c u
      | vse v job ran => exact TurnTaken.refl c u
    exact (block s _).trans (turnTaken_modBlk c _ c _)
  | bank c k => exact turnTaken_modBlk b s c _
  | slot c k => exact turnTaken_modBlk b s c _
  | scratch c i => exact turnTaken_modBlk b s c _

/-- A section without a bad burst is taken up piece by piece. -/
theorem readSection_taken {s : State} {l : Launch} {b : Fin 48}
    (good : ∀ q ∈ sectionPieces s l b, firstBad s q.1 q.2.len l.job = none) : TurnTaken b s (readSection s l b) := by
  have read : (sectionPieces s l b).findSome? (fun p => firstBad s p.1 p.2.len l.job) = none := List.findSome?_eq_none_iff.mpr good
  unfold readSection
  dsimp only
  rw [read]
  exact List.foldlRecOn _ _ (TurnTaken.refl b s) fun u taken q hq =>
    taken.trans (takeTurn_taken l _ u (ofBlk_of_mem_sectionPieces q hq))

/-! ### Broadcasts delivered -/

theorem spPut_taken (b : Fin 48) (s : State) (c : Fin 48) (sp : Space) (a : Nat) (bs : List (Byte × Byte)) :
    TurnTaken b s (spPut s c sp a bs) := by
  unfold spPut
  cases sp with
  | bank i => exact turnTaken_modBlk b s c _
  | scratch => exact turnTaken_modBlk b s c _
  | rbuf => exact turnTaken_modRgn b s _ (fun _ => rfl) (fun _ => rfl) fun _ => rfl
  | mem => exact TurnTaken.refl b s

theorem deliver_taken (b : Fin 48) (s : State) (r : Fin 8) (d : BitVec 512) (rows : List (Nat × List (Byte × Byte))) (j : Fin 6) :
    TurnTaken b s (deliver s r d rows j) := by
  have put : TurnTaken b s (putRows s (blkOf r j) (lDst d).sp rows) :=
    List.foldlRecOn _ _ (TurnTaken.refl b s) fun u taken row _ => taken.trans (spPut_taken b u _ _ _ _)
  unfold deliver retire
  exact put.trans (turnTaken_modBlk b _ _ _)

/-- Delivering the broadcasts of a region changes blocks and the region's buffer and broadcasts. -/
theorem deliverAll_taken (b : Fin 48) (s : State) (r : Fin 8) : TurnTaken b s (deliverAll s r) := by
  unfold deliverAll
  dsimp only
  refine TurnTaken.trans ?_ (turnTaken_modRgn b _ r (fun _ => rfl) (fun _ => rfl) fun _ => rfl)
  refine List.foldlRecOn (motive := fun a : State × List Bcast => TurnTaken b s a.1) _ _ (TurnTaken.refl b s)
    fun a taken c _ => ?_
  split
  · exact taken
  · exact taken.trans (List.foldlRecOn _ _ (TurnTaken.refl b a.1) fun u held j _ => held.trans (deliver_taken b u r _ _ j))

/-! ### The switch -/

theorem blkOf_number (r : Fin 8) (n : Nat) : (blkOf r (Fin.ofNat 6 n)).val % 6 = n % 6 := by
  simp only [blkOf, Fin.val_ofNat]
  omega

/-- A turn of a block begins with nothing when no register write waits for that block. -/
theorem lateWrites_of_none_own {s : State} {b : Fin 48} {r : Fin 8} (own : rgnOf b = r)
    (none : ∀ x ∈ s.regions[r].late, x.1 ≠ b.val % 6) : lateWrites s b = s := by
  subst own
  have mine : s.regions[rgnOf b].late.filter (fun x => decide (x.1 = b.val % 6)) = [] :=
    List.filter_eq_nil_iff.mpr fun x hx => by simpa using none x hx
  have others : s.regions[rgnOf b].late.filter (fun x => !decide (x.1 = b.val % 6)) = s.regions[rgnOf b].late :=
    List.filter_eq_self.mpr fun x hx => by simpa using none x hx
  unfold lateWrites
  dsimp only
  rw [mine]
  exact modRgn_fixed (by rw [others])

/-- The turn of a block begins: it is hosted, from 0 cycles, and the switch is counted. -/
def turnBegun (p : Fin 56) (n : Nat) (s : State) : State :=
  cfld (modRgn (modTurn s p (fun t => { t with used := 0, last := none })) (pRgn p)
    (fun g => { g with hosted := g.hosted ++ [(n, p.val % 7)] })) .rgnTurnstat (pRgn p).val 15 0 1

section TurnSwitch

variable {s : State} {p : Fin 56} {l : Launch} {x : Turn} {j : Nat} (launch : turnLaunch s p = some l) (turn : turnOf s p = some x)
  (last : x.last = some j)
include launch turn last

theorem turnSwitch_none (none : (turnOrder s p j).find? (fun x => canGoOn s (blkOf (pRgn p) (Fin.ofNat 6 x))) = none) :
    turnSwitch p s = s := by
  unfold turnSwitch
  dsimp only
  rw [launch, turn]
  dsimp only
  rw [last]
  dsimp only
  rw [none]

theorem turnSwitch_next {n : Nat}
    (next : (turnOrder s p j).find? (fun x => canGoOn s (blkOf (pRgn p) (Fin.ofNat 6 x))) = some n)
    (ready : ∀ q ∈ sectionPieces s l (blkOf (pRgn p) (Fin.ofNat 6 n)), heldAt s q.1 q.2.len = false) :
    turnSwitch p s = lateWrites (deliverAll (turnBegun p n (readSection s l (blkOf (pRgn p) (Fin.ofNat 6 n)))) (pRgn p))
      (blkOf (pRgn p) (Fin.ofNat 6 n)) := by
  unfold turnSwitch
  dsimp only
  rw [launch, turn]
  dsimp only
  rw [last]
  dsimp only
  rw [next]
  dsimp only
  rw [if_neg (by simpa using ready)]
  rfl

end TurnSwitch

theorem turnBegun_region (p : Fin 56) (n : Nat) (s : State) : (turnBegun p n s).regions[pRgn p] = { s.regions[pRgn p] with
    hosted := s.regions[pRgn p].hosted ++ [(n, p.val % 7)]
    turns := (modTurn s p (fun t => { t with used := 0, last := none })).regions[pRgn p].turns } := by
  unfold turnBegun cfld modTurn
  rw [wreg_regions, modRgn_same, modRgn_same]

theorem turnOf_turnBegun {s : State} {p : Fin 56} {x : Turn} (turn : turnOf s p = some x) (n : Nat) :
    turnOf (turnBegun p n s) p = some { x with used := 0, last := none } := by
  refine (turnOf_congr ?_).trans (turnOf_modTurn (f := fun t => { t with used := 0, last := none }) turn fun _ => rfl)
  rw [turnBegun_region]

/-- Settles O40: a turn ends with the section written and one change of the region; the next begins with a section taken up, and
what is delivered then leaves turns and hosts. -/
theorem turnsEndAndSwitch : Obligations.TurnsEndAndSwitch := by
  unfold Obligations.TurnsEndAndSwitch
  refine ⟨fun p s l x h launch turn hosts past point ready => ?ends,
    fun p s l x j launch turn last => ⟨fun none => ?none, fun n next late there => ?switches⟩⟩
  case ends =>
    have runs := turnEnd_ends launch turn hosts past point ready
    have own := rgnOf_blkOf (pRgn p) (Fin.ofNat 6 h.1)
    clear past point
    generalize blkOf (pRgn p) (Fin.ofNat 6 h.1) = b at *
    obtain ⟨only, others, region, frame⟩ := writeSection_written s l own
    generalize writeSection s l b = w at *
    have ended := turnEnded_region p h.1 (blkWindow s b) w
    have kept : turnOf w p = some x := (turnOf_congr (by rw [region])).trans turn
    refine ⟨_, congrArg Host.Outcome.next runs, fun y hy => ?left, ⟨_, turnOf_turnEnded kept h.1 (blkWindow s b), rfl⟩,
      ⟨blkWindow s b, ?window, List.length_map _⟩, rfl, ?region,
      others.trans ((modRgn_onlyRegion w (pRgn p) _).trans (modRgn_onlyRegion _ (pRgn p) _)), only.congr rfl rfl,
      (congrArg State.launches frame :), (congrArg State.flagReqs frame :), (congrArg State.barriers frame :),
      (congrArg State.rings frame :), (congrArg State.comps frame :)⟩
    case left =>
      rw [ended] at hy
      simpa using (List.mem_filter.mp hy).2
    case window =>
      rw [ended]
      exact List.find?_cons_of_pos (by simp)
    case region => rw [ended, region]
  case none => exact congrArg Host.Outcome.next (turnSwitch_none launch turn last none)
  case switches =>
    have runs := turnSwitch_next launch turn last next fun q hq => (there q hq).1
    have taken := readSection_taken (s := s) (l := l) fun q hq => (there q hq).2
    have own := rgnOf_blkOf (pRgn p) (Fin.ofNat 6 n)
    rw [← blkOf_number (pRgn p) n] at late
    generalize blkOf (pRgn p) (Fin.ofNat 6 n) = b at *
    generalize readSection s l b = v at runs taken
    have begun := turnBegun_region p n v
    have delivered := deliverAll_taken b (turnBegun p n v) (pRgn p)
    have noLate : (deliverAll (turnBegun p n v) (pRgn p)).regions[pRgn p].late = s.regions[pRgn p].late := by
      rw [delivered.late, begun, taken.late]
    rw [lateWrites_of_none_own own (noLate ▸ late)] at runs
    have apart : regAddr .rgnTurnstat (pRgn p).val ∉ [regAddr .blkPc b.val] := by
      rw [List.mem_singleton]
      exact regAddr_ne (by decide) (pRgn p).isLt b.isLt
    have counts : RegsBut [regAddr .rgnTurnstat (pRgn p).val] v (turnBegun p n v) := wreg_regsBut v .rgnTurnstat _ _
    refine ⟨_, congrArg Host.Outcome.next runs, ?hosted,
      ⟨_, (delivered.turnOf p).trans (turnOf_turnBegun ((taken.turnOf p).trans turn) n), rfl, rfl⟩, ?counted,
      ((taken.regs.mono (by simp)).trans (counts.mono (by simp))).trans (delivered.regs.mono (by simp)),
      (congrArg State.launches delivered.frame :).trans (congrArg State.launches taken.frame :),
      (congrArg State.flagReqs delivered.frame :).trans (congrArg State.flagReqs taken.frame :)⟩
    case hosted => rw [delivered.hosted, begun, taken.hosted]
    case counted =>
      rw [delivered.regs.rreg apart, ← taken.regs.rreg apart]
      exact rreg_cfld_same v .rgnTurnstat _ _ _ _

end Sys2Proof.Machine
end

section
/-! SUPPORT. A stack and its links: what a change of one leaves of the others, and that a failed lane stays failed (R422-R426). -/

namespace Sys2Proof.Machine

/-! ### A change of one stack or link -/

theorem modStk_same (s : State) (i : Fin 24) (f : Stack → Stack) : (modStk s i f).stk[i] = f s.stk[i] := by simp

theorem modStk_onlyStack (s : State) (i : Fin 24) (f : Stack → Stack) : OnlyStack i s (modStk s i f) := by
  intro c hc
  simp [Fin.val_ne_of_ne hc.symm]

/-- A change that leaves the stack as it is leaves the state. -/
theorem modStk_self {s : State} {i : Fin 24} {f : Stack → Stack} (h : f s.stk[i] = s.stk[i]) : modStk s i f = s := by
  unfold modStk
  rw [h]
  simp

theorem onlyStack_of_stk {s t : State} (h : t.stk = s.stk) (i : Fin 24) : OnlyStack i s t := fun c _ => by rw [h]

theorem OnlyStack.trans {i : Fin 24} {s t u : State} (h : OnlyStack i s t) (k : OnlyStack i t u) : OnlyStack i s u :=
  fun c hc => (k c hc).trans (h c hc)

theorem OnlyStack.congr {i : Fin 24} {s s' t t' : State} (h : OnlyStack i s t) (hs : s'.stk = s.stk) (ht : t'.stk = t.stk) :
    OnlyStack i s' t' := by
  unfold OnlyStack
  rw [hs, ht]
  exact h

theorem modLink_onlyStack (s : State) (i : Fin 24) (d : LinkDir) (f : Link → Link) : OnlyStack i s (modLink s i d f) :=
  modStk_onlyStack s i _

theorem link_modLink_same (s : State) (i : Fin 24) (d : LinkDir) (f : Link → Link) :
    (modLink s i d f).stk[i].link d = f (s.stk[i].link d) := by
  unfold modLink
  rw [modStk_same]
  cases d <;> rfl

theorem link_modLink_other (s : State) (i : Fin 24) {d d' : LinkDir} (h : d' ≠ d) (f : Link → Link) :
    (modLink s i d f).stk[i].link d' = s.stk[i].link d' := by
  unfold modLink
  rw [modStk_same]
  cases d <;> cases d'
  case read.read => exact absurd rfl h
  case write.write => exact absurd rfl h
  all_goals rfl

theorem modLink_modLink (s : State) (i : Fin 24) (d : LinkDir) (f g : Link → Link) :
    modLink (modLink s i d f) i d g = modLink s i d (fun k => g (f k)) := by
  cases d <;> simp [modLink, modStk]

/-! ### What follows of a lane's failure touches no stack -/

theorem Told.stk {s t : State} (h : Told s t) : t.stk = s.stk := by rw [show t = _ from h]

theorem laneEvent_stk (s : State) (i : Fin 24) : (laneEvent s i).stk = s.stk := by
  unfold laneEvent
  rw [krgReq_frame]
  rfl

theorem degraded_stk (s : State) (code x : Nat) : (degraded s code x).stk = s.stk := by rw [degraded_frame]

theorem told_haltFold (s : State) (code : Nat) (h : HaltAt) (lids : List (BitVec 32)) :
    Told s (lids.foldl (fun s lid => haltLaunch s lid code h) s) :=
  List.foldlRecOn (motive := Told s) _ _ rfl fun u told lid _ => told.trans (haltLaunch_told u lid code h)

theorem reportUnhalted_stk (s : State) (code : Nat) (t : State) : (reportUnhalted s code t).stk = t.stk := by
  unfold reportUnhalted
  split
  · rw [reportEvent_frame]
  · rfl

/-! ### Lanes that have failed -/

/-- Every link has the failed lanes that it had. -/
def FailedKept (s t : State) : Prop := ∀ (i : Fin 24) (d : LinkDir), (t.stk[i].link d).failed = (s.stk[i].link d).failed

theorem FailedKept.trans {s t u : State} (h : FailedKept s t) (k : FailedKept t u) : FailedKept s u :=
  fun i d => (k i d).trans (h i d)

theorem failedKept_of_stk {s t : State} (h : t.stk = s.stk) : FailedKept s t := fun i d => by rw [h]

/-- A change of one link that leaves its failed lanes, and whatever touches no stack. -/
theorem failedKept_of_modLink {s t : State} {i : Fin 24} {d : LinkDir} {f : Link → Link} (h : t.stk = (modLink s i d f).stk)
    (keeps : ∀ k, (f k).failed = k.failed) : FailedKept s t := by
  intro c e
  rw [h]
  by_cases stack : c = i
  · subst stack
    by_cases link : e = d
    · subst link
      rw [link_modLink_same, keeps]
    · rw [link_modLink_other s c link]
  · rw [modLink_onlyStack s i d f c stack]

theorem stackDown_failedKept (s : State) (i : Fin 24) (d : LinkDir) : FailedKept s (stackDown s i d) := by
  refine failedKept_of_modLink (i := i) (d := d) (f := fun k => { k with mode := .down, training := none, erased := none }) ?_
    fun _ => rfl
  unfold stackDown
  dsimp only
  rw [krgReq_frame]
  exact (reportUnhalted_stk _ _ _).trans (told_haltFold _ _ _ _).stk

theorem narrowLink_failedKept (s : State) (i : Fin 24) (d : LinkDir) : FailedKept s (narrowLink s i d) := by
  unfold narrowLink
  dsimp only
  split
  · exact stackDown_failedKept s i d
  · exact failedKept_of_modLink (degraded_stk _ _ _) fun _ => rfl

theorem loseLane_failedKept (s : State) (i : Fin 24) (d : LinkDir) (l : Nat) (x : Bool) : FailedKept s (loseLane s i d l x) := by
  unfold loseLane
  dsimp only
  split
  · split
    · exact narrowLink_failedKept s i _
    · split
      · exact failedKept_of_modLink rfl fun _ => rfl
      · exact failedKept_of_modLink (degraded_stk _ _ _) fun _ => rfl
  · split
    · exact failedKept_of_modLink rfl fun _ => rfl
    · exact narrowLink_failedKept s i _

/-- A lane that fails is counted in its stack's LIFE body (Tables 15.6, 15.8). -/
def laneLife (s : State) (i : Fin 24) (d : LinkDir) (p : Nat) : State :=
  lifeSet (lifeAdd s i.val 24 2 1) i.val (laneByte i.val ((match d with | .read => 0 | .write => 65) + p) + 14) 1 2

/-- A link with one more failed lane. -/
def Link.withFailed (p : Nat) (k : Link) : Link := { k with failed := insertNat p k.failed }

/-- A lane that fails is counted, and joins its link's failed lanes (R422). -/
def laneCounted (s : State) (i : Fin 24) (d : LinkDir) (p : Nat) : State := modLink (laneLife s i d p) i d (Link.withFailed p)

/-- A lane of a link that is up, and that has not failed yet, can fail. -/
theorem lane_mayFail {d : LinkDir} {k : Link} {p : Nat} (listed : p ≤ laneCount d) (healthy : p ∉ k.failed) (up : k.mode ≠ .down) :
    ¬ (laneCount d < p ∨ (k.failed.any (· = p)) = true ∨ k.mode = .down) := by
  simp [Nat.not_lt.mpr listed, healthy, up]

section Fails

variable {s : State} {i : Fin 24} {d : LinkDir} {p : Nat} (listed : p ≤ laneCount d) (healthy : p ∉ (s.stk[i].link d).failed)
include listed healthy

/-- A lane that fails is one of its link's failed lanes, whatever follows of its failure. -/
theorem mem_failed_laneFail (up : (s.stk[i].link d).mode ≠ .down) : p ∈ ((laneFail s i d p).stk[i].link d).failed := by
  have counted : p ∈ ((laneCounted s i d p).stk[i].link d).failed := by
    unfold laneCounted
    rw [link_modLink_same]
    exact mem_insertNat _ _
  have kept : FailedKept (laneCounted s i d p) (laneFail s i d p) := by
    unfold laneFail
    rw [if_neg (lane_mayFail listed healthy up)]
    refine FailedKept.trans ?_ (failedKept_of_stk (laneEvent_stk _ _))
    split
    · split
      · exact loseLane_failedKept _ _ _ _ _
      · exact failedKept_of_stk rfl
    · split
      · exact narrowLink_failedKept _ _ _
      · exact failedKept_of_stk rfl
    · exact narrowLink_failedKept _ _ _
  rw [kept i d]
  exact counted

/-- In a link of full width the logical lane that it carries is lost (Table 10.5). -/
theorem laneFail_full {l : Nat} (full : (s.stk[i].link d).mode = .full) (carried : (s.stk[i].link d).carries d p = some l) :
    laneFail s i d p = laneEvent (loseLane (laneCounted s i d p) i d l (decide (p = laneCount d))) i := by
  unfold laneFail
  rw [if_neg (lane_mayFail listed healthy (by simp only [full]; decide))]
  simp only [full, carried]
  rfl

end Fails

end Sys2Proof.Machine
end

section
/-! SUPPORT. Reads of bursts and second reads: bursts corrected, lines filled, launches that a bad burst halts (R403, R411, R417-R420,
R422, R425, R445, R447). -/

namespace Sys2Proof.Machine

/-! ### Which errors are within reach (R417) -/

theorem readsOk_iff (s : State) (a : Nat) (e : BurstErr) : readsOk s a e = true ↔
    e.addrBad = false ∧ 2 * (liveErrs (stackOfDpa s a) e).length + erasedSyms (stackOfDpa s a) ≤ 30 := by
  simp [readsOk, decodes]

theorem readsOk_eq_false_iff (s : State) (a : Nat) (e : BurstErr) : readsOk s a e = false ↔
    30 < 2 * (liveErrs (stackOfDpa s a) e).length + erasedSyms (stackOfDpa s a) ∨ e.addrBad = true := by
  rw [← Bool.not_eq_true, readsOk_iff, not_and_or, Nat.not_le, Bool.not_eq_false, or_comm]

/-! ### A burst that is corrected (R422) -/

/-- A stack whose history has one more burst (log 135). -/
def Stack.noting (e : BurstErr) (k : Stack) : Stack := { k with hist := nextHist k e }

/-- The lanes that reach their count of errors with a burst. -/
def failingLanes (k : Stack) (e : BurstErr) : List Nat :=
  (badLanes k e).filter (fun p => decide (16 ≤ ((nextHist k e).filter (·.any (· = p))).length))

theorem noteLanes_eq (s : State) (i : Fin 24) (e : BurstErr) : noteLanes s i e =
    (failingLanes s.stk[i] e).foldl (fun s p => laneFail s i .read p) (modStk s i (Stack.noting e)) := by
  unfold noteLanes
  dsimp only
  split
  · next same => rw [modStk_self (by rw [Stack.noting, same])]; rfl
  · rfl

/-- The symbols corrected are counted, erasures included (Table 10.15). -/
def symsCounted (s : State) (a : Nat) (e : BurstErr) : State :=
  corrected { s with mem := { s.mem with damaged := s.mem.damaged.filter (· ≠ burstOf a) } } (Fin.ofNat 24 (dpaStack s a)).val
    ((liveErrs (stackOfDpa s a) e).length + erasedSyms (stackOfDpa s a))

theorem countCorr_eq (s : State) (a : Nat) (e : BurstErr) : countCorr s a e =
    (failingLanes (stackOfDpa s a) e).foldl (fun t p => laneFail t (Fin.ofNat 24 (dpaStack s a)) .read p)
      (modStk (symsCounted s a e) (Fin.ofNat 24 (dpaStack s a)) (Stack.noting e)) :=
  noteLanes_eq (symsCounted s a e) (Fin.ofNat 24 (dpaStack s a)) e

theorem countCorr_of_lanesHold {s : State} {a : Nat} {e : BurstErr} (hold : LanesHold (stackOfDpa s a) e) :
    countCorr s a e = modStk (symsCounted s a e) (Fin.ofNat 24 (dpaStack s a)) (Stack.noting e) := by
  have none_fails : failingLanes (stackOfDpa s a) e = [] := List.filter_eq_nil_iff.mpr fun p hp => by simpa using hold p hp
  rw [countCorr_eq, none_fails, List.foldl_nil]

/-- A lane that alone reaches its count of errors fails. -/
theorem mem_failed_countCorr {s : State} {a : Nat} {e : BurstErr} {p : Nat} (alone : failingLanes (stackOfDpa s a) e = [p])
    (listed : p ≤ 64) (healthy : p ∉ (stackOfDpa s a).rd.failed) (up : (stackOfDpa s a).rd.mode ≠ .down) :
    p ∈ ((countCorr s a e).stk[Fin.ofNat 24 (dpaStack s a)]).rd.failed := by
  have noted := modStk_same (symsCounted s a e) (Fin.ofNat 24 (dpaStack s a)) (Stack.noting e)
  rw [countCorr_eq, alone, List.foldl_cons, List.foldl_nil]
  exact mem_failed_laneFail (d := .read) listed (by rw [noted]; exact healthy) (by rw [noted]; exact up)

theorem poisoned_countCorr (s : State) (a : Nat) (e : BurstErr) (b : Nat) : poisoned (countCorr s a e) b = poisoned s b := by
  unfold poisoned
  rw [(countCorr_change s a e).mem]

/-! ### Lines of the memory-side cache -/

/-- `t` is `s` but for cache lines, and for bursts that were written back from them. -/
def LinesMoved (s t : State) : Prop :=
  t = { s with
    mem := { s.mem with poison := t.mem.poison, damaged := t.mem.damaged, wq := t.mem.wq }
    halves := t.halves }

theorem LinesMoved.refl (s : State) : LinesMoved s s := rfl

theorem LinesMoved.trans {s t u : State} (h : LinesMoved s t) (k : LinesMoved t u) : LinesMoved s u := by
  unfold LinesMoved at *
  rw [k, h]

theorem writeBack_linesMoved (s : State) (c : MscLine) : LinesMoved s (writeBack s c) := by
  unfold LinesMoved writeBack
  split <;> rfl

theorem mscFill_linesMoved (s : State) (a job : Nat) : LinesMoved s (mscFill s a job) := by
  unfold mscFill
  split
  · exact rfl
  · split
    · exact rfl
    · split
      · exact rfl
      · exact (writeBack_linesMoved s _).trans rfl
      · exact rfl

/-- A lookup finds a line of the burst's half. -/
theorem mem_of_mscLine {s : State} {a job : Nat} {c : MscLine} (line : mscLine s a job = some c) :
    c ∈ s.halves[homeHalf a].msc := by
  unfold mscLine at line
  dsimp only at line
  split at line
  · cases line
  · exact List.mem_of_find?_eq_some line

/-- A line that is used becomes the first of its half. -/
theorem mem_mscTouch {s : State} {a : Nat} {c x : MscLine} (listed : c ∈ s.halves[homeHalf a].msc)
    (mem : x ∈ (mscTouch s a c).halves[homeHalf a].msc) : x ∈ s.halves[homeHalf a].msc := by
  unfold mscTouch modMsc at mem
  rw [modHalf_same] at mem
  obtain rfl | kept := List.mem_cons.mp mem
  · exact listed
  · exact List.mem_of_mem_filter kept

/-- A line that is dropped is in its half no more. -/
theorem not_mem_mscDrop {s : State} {a : Nat} {c x : MscLine} (mem : x ∈ (mscDrop s a c).halves[homeHalf a].msc) :
    ¬ (x.burst = c.burst ∧ x.way = c.way) := by
  unfold mscDrop modMsc at mem
  rw [modHalf_same] at mem
  rintro ⟨burst, way⟩
  have kept := (List.mem_filter.mp mem).2
  simp [burst, way] at kept

theorem lineUncorr_clean {s : State} {a : Nat} {c : MscLine} (clean : c.dirty = false) : lineUncorr s a c = mscDrop s a c :=
  if_neg (by simp [clean])

/-- An uncorrectable line goes, whether dirty or not (R447). -/
theorem lineUncorr_facts (s : State) (a : Nat) (c : MscLine) :
    (lineUncorr s a c).halves = (mscDrop s a c).halves ∧ (lineUncorr s a c).launches = s.launches ∧
    (c.dirty = true → c.burst ∈ (lineUncorr s a c).mem.poison) := by
  obtain ⟨r, x, log⟩ := logMem_frame (mscDrop (writeBack s c) a c) a 4
  cases dirty : c.dirty with
  | false =>
    rw [lineUncorr_clean dirty]
    exact ⟨rfl, rfl, nofun⟩
  | true =>
    have halves : (mscDrop (writeBack s c) a c).halves = (mscDrop s a c).halves := by
      rw [writeBack_frame]
      rfl
    have launches : (writeBack s c).launches = s.launches := by rw [writeBack_frame]
    unfold lineUncorr
    rw [if_pos dirty, log]
    exact ⟨halves, launches, fun _ => mem_insertNat _ _⟩

/-! ### Bursts that halt who asked for them (R419, R420) -/

theorem LaneChange.blocks {s t : State} (h : LaneChange s t) : t.blocks = s.blocks := by rw [show t = _ from h]

theorem findLaunch_logMem (s : State) (a code : Nat) (lid : BitVec 32) : findLaunch (logMem s a code) lid = findLaunch s lid := by
  obtain ⟨r, x, log⟩ := logMem_frame s a code
  exact findLaunch_congr (by rw [log]) lid

theorem memFault_halts {s : State} {q : Asker} {l : Launch} (unit : q.unit.own = false) (found : findLaunch s q.lid = some l)
    (running : l.st = .running) (a code : Nat) : Halted (memFault s a code q) l (0x3A00 + code) :=
  askHalt_halts unit ((findLaunch_logMem s a code q.lid).trans found) running _ _ _

/-- A request halts the launch of its unit alone; one of the device itself halts none. -/
theorem findLaunch_askHalt_other (s : State) {q : Asker} {lid : BitVec 32} (other : q.unit.own = true ∨ q.lid ≠ lid)
    (code stack reg : Nat) : findLaunch (askHalt s q code stack reg) lid = findLaunch s lid := by
  unfold askHalt
  split
  · rfl
  · rfl
  all_goals
    next unit => exact findLaunch_haltLaunch_other s (Ne.symm (other.resolve_left (by simp [WaitUnit.own, *]))) code _

theorem StandsHalted.askHalt {s : State} {lid : BitVec 32} {code : Nat} (halted : StandsHalted s lid code) (q : Asker)
    (stack reg : Nat) : StandsHalted (askHalt s q code stack reg) lid code := by
  unfold Machine.askHalt
  split
  · exact halted
  · exact halted
  all_goals exact halted.haltLaunch _ _

/-- Every request is answered by the halt of its launch, in whatever order they asked. -/
theorem standsHalted_askEach {x : Asker} {l : Launch} (unit : x.unit.own = false) (running : l.st = .running) (code stack reg : Nat)
    {asks : List Asker} (mem : x ∈ asks) {s : State} (found : findLaunch s x.lid = some l) :
    StandsHalted (asks.foldl (fun s q => askHalt s q code stack reg) s) x.lid code := by
  have stays (rest : List Asker) (u : State) (halted : StandsHalted u x.lid code) :
      StandsHalted (rest.foldl (fun s q => askHalt s q code stack reg) u) x.lid code :=
    List.foldlRecOn (motive := (StandsHalted · x.lid code)) _ _ halted fun _ stands q _ => stands.askHalt q stack reg
  induction asks generalizing s with
  | nil => simp at mem
  | cons q asks ih =>
    by_cases same : q.unit.own = false ∧ q.lid = x.lid
    · obtain ⟨own, lid⟩ := same
      have named : l.lid = x.lid := lid_of_findLaunch found
      have halts := askHalt_halts own (lid ▸ found) running code stack reg
      unfold Halted at halts
      rw [named] at halts
      exact stays asks _ ⟨_, halts, rfl, rfl⟩
    · have other : q.unit.own = true ∨ q.lid ≠ x.lid := by
        rw [not_and_or, Bool.not_eq_false] at same
        exact same
      have later : x ∈ asks := (List.mem_cons.mp mem).resolve_left fun e => same (e ▸ ⟨unit, rfl⟩)
      exact ih later ((findLaunch_askHalt_other s other code stack reg).trans found)

theorem standsHalted_burstFault {s : State} {x : Asker} {l : Launch} (unit : x.unit.own = false)
    (found : findLaunch s x.lid = some l) (running : l.st = .running) (a code : Nat) {asks : List Asker} (mem : x ∈ asks) :
    StandsHalted (burstFault s a code asks) x.lid (0x3A00 + code) :=
  standsHalted_askEach unit running _ _ _ mem ((findLaunch_logMem s a code x.lid).trans found)

/-! ### A read -/

/-- `t` is `s` once a burst was corrected and served: the symbols are counted, the stack notes its lanes, and lines may have moved. -/
def BurstServed (a : Nat) (e : BurstErr) (s t : State) : Prop :=
  rreg t .stkCorr (Fin.ofNat 24 (dpaStack s a)).val = satF (rreg s .stkCorr (Fin.ofNat 24 (dpaStack s a)).val) 31 0
    ((liveErrs (stackOfDpa s a) e).length + erasedSyms (stackOfDpa s a)) ∧
  RegsBut [regAddr .stkCorr (Fin.ofNat 24 (dpaStack s a)).val] s t ∧
  t.mem.bytes = s.mem.bytes ∧ t.mem.stores = s.mem.stores ∧ t.mem.rereads = s.mem.rereads ∧
  t.stk[Fin.ofNat 24 (dpaStack s a)] = { stackOfDpa s a with hist := nextHist (stackOfDpa s a) e } ∧
  OnlyStack (Fin.ofNat 24 (dpaStack s a)) s t ∧
  t = { s with regs := t.regs, mem := t.mem, halves := t.halves, hlt := t.hlt, stk := t.stk }

theorem burstServed_countCorr {s t : State} {a : Nat} {e : BurstErr} (hold : LanesHold (stackOfDpa s a) e)
    (moved : LinesMoved (countCorr s a e) t) : BurstServed a e s t := by
  have counts : rreg (symsCounted s a e) .stkCorr (Fin.ofNat 24 (dpaStack s a)).val = _ := rreg_cfld_same _ _ _ 31 0 _
  have regs : RegsBut [regAddr .stkCorr (Fin.ofNat 24 (dpaStack s a)).val] s (symsCounted s a e) := wreg_regsBut _ _ _ _
  have noted := modStk_same (symsCounted s a e) (Fin.ofNat 24 (dpaStack s a)) (Stack.noting e)
  have only := modStk_onlyStack (symsCounted s a e) (Fin.ofNat 24 (dpaStack s a)) (Stack.noting e)
  rw [countCorr_of_lanesHold hold] at moved
  rw [show t = _ from moved]
  exact ⟨counts, regs, rfl, rfl, rfl, noted, only, rfl⟩

section Read

variable {s : State} {a : Nat} {q : Asker} {e : BurstErr}

theorem readBurst_line {c : MscLine} (line : mscLine s a (q.job s) = some c) :
    readBurst s a q e = if e.syms.length ≤ 1 then mscTouch s a c else lineUncorr s a c := by
  unfold readBurst
  rw [line]

theorem serveBurst_clean (clean : poisoned s a = false) : serveBurst s a q = mscFill s a (q.job s) :=
  if_neg (by simp [clean])

theorem serveBurst_poisoned (bad : poisoned s a = true) : serveBurst s a q = memFault s a 2 q := if_pos bad

theorem serveBurst_stk : (serveBurst s a q).stk = s.stk := by
  cases bad : poisoned s a with
  | true =>
    obtain ⟨_, _, _, _, _, fault⟩ := memFault_frame s a 2 q
    rw [serveBurst_poisoned bad, fault]
  | false => rw [serveBurst_clean bad, mscFill_linesMoved s a _]

section Miss

variable (miss : mscLine s a (q.job s) = none)
include miss

theorem readBurst_queued (stands : queued s a = true) : readBurst s a q e = serveBurst s a q := by
  unfold readBurst
  rw [miss]
  exact if_pos stands

variable (apart : queued s a = false)
include apart

theorem readBurst_stack : readBurst s a q e = readStack s a q e := by
  unfold readBurst
  rw [miss]
  exact if_neg (by simp [apart])

theorem readBurst_held (held : readLink s a = none) :
    readBurst s a q e = { s with mem := { s.mem with held := s.mem.held ++ [{ dpa := a, ask := q }] } } := by
  rw [readBurst_stack miss apart]
  unfold readStack
  rw [held]

variable (up : readLink s a = some true)
include up

theorem readBurst_decoded (good : readsOk s a e = true) : readBurst s a q e = serveBurst (countCorr s a e) a q := by
  rw [readBurst_stack miss apart]
  unfold readStack
  rw [up]
  exact if_pos good

theorem readBurst_undecoded (bad : readsOk s a e = false) :
    readBurst s a q e = { s with mem := { s.mem with rereads := s.mem.rereads ++ [{ dpa := a, ask := q }] } } := by
  rw [readBurst_stack miss apart]
  unfold readStack
  rw [up]
  exact if_neg (by simp [bad])

end Miss

end Read

/-- A read link that serves is not down. -/
theorem rdMode_of_readLink {s : State} {a : Nat} (up : readLink s a = some true) : (stackOfDpa s a).rd.mode ≠ .down := by
  intro down
  simp [readLink, down] at up

theorem exec_memoryRead (dpa : Nat) (q : Asker) (e : BurstErr) (s : State) :
    exec (.memoryRead dpa q e) s = .next (memoryRead dpa q e s) := rfl

theorem memoryRead_waits {dpa : Nat} {q : Asker} {s : State} (waits : readMay (memApply s) (512 * burstOf dpa) q = false)
    (e : BurstErr) : memoryRead dpa q e s = memApply s := by
  unfold memoryRead
  dsimp only
  rw [if_neg (by simp [waits])]

theorem memoryRead_goes {dpa : Nat} {q : Asker} {s : State} (may : readMay (memApply s) (512 * burstOf dpa) q = true)
    (e : BurstErr) : memoryRead dpa q e s =
      readBurst (crossSend (memApply s) q.unit.half (512 * burstOf dpa)) (512 * burstOf dpa) q e := by
  unfold memoryRead
  dsimp only
  rw [if_pos may]

/-! ### A second read -/

/-- Who asked for a burst whose second read is outstanding. -/
def rereadAsks (s : State) (a : Nat) : List Asker := (s.mem.rereads.filter (fun x => x.dpa = a)).map (·.ask)

theorem mem_rereadAsks {s : State} {x : Reread} (mem : x ∈ s.mem.rereads) : x.ask ∈ rereadAsks s x.dpa :=
  List.mem_map_of_mem (List.mem_filter.mpr ⟨mem, by simp⟩)

theorem mem_dropRereads (s : State) (a : Nat) (x : Reread) :
    x ∈ (dropRereads s a).mem.rereads ↔ x ∈ s.mem.rereads ∧ x.dpa ≠ a := by
  simp [dropRereads]

section Reread

variable {k : Nat} {s : State} {r : Reread} (listed : s.mem.rereads[k]? = some r) (up : readLink s r.dpa = some true)
  (clocks : clocked s = true) (e : BurstErr)
include listed up clocks

theorem memoryReread_decoded (good : readsOk s r.dpa e = true) : memoryReread k e s =
    if poisoned s r.dpa then burstFault (countCorr (dropRereads s r.dpa) r.dpa e) r.dpa 2 (rereadAsks s r.dpa)
    else mscFill (countCorr (dropRereads s r.dpa) r.dpa e) r.dpa (r.ask.job (countCorr (dropRereads s r.dpa) r.dpa e)) := by
  have good' : readsOk (dropRereads s r.dpa) r.dpa e = true := good
  have same : poisoned (countCorr (dropRereads s r.dpa) r.dpa e) r.dpa = poisoned s r.dpa := poisoned_countCorr _ _ _ _
  unfold memoryReread
  simp only [listed, up, clocks, good', same]
  rfl

theorem memoryReread_undecoded (bad : readsOk s r.dpa e = false) : memoryReread k e s =
    burstFault (damage (dropRereads s r.dpa) r.dpa) r.dpa 1 (rereadAsks s r.dpa) := by
  have bad' : readsOk (dropRereads s r.dpa) r.dpa e = false := bad
  unfold memoryReread
  simp only [listed, up, clocks, bad']
  rfl

end Reread

/-- The second read of a bad burst: everyone who asked is halted, no read of it is outstanding, and nothing is stored or served. -/
theorem rereadFault_facts {s u : State} {a : Nat} (noted : BurstNoted (dropRereads s a) u) (code : Nat) :
    let t := burstFault u a code (rereadAsks s a)
    (∀ x ∈ s.mem.rereads, x.dpa = a → x.ask.unit.own = false → ∀ l, findLaunch s x.ask.lid = some l → l.st = .running →
      StandsHalted t x.ask.lid (0x3A00 + code)) ∧
    (∀ x, x ∈ t.mem.rereads ↔ x ∈ s.mem.rereads ∧ x.dpa ≠ a) ∧ t.mem.bytes = s.mem.bytes ∧ t.halves = s.halves ∧
    t.blocks = s.blocks ∧ t.mem.stores = s.mem.stores := by
  have fault := burstFault_change u a code (rereadAsks s a)
  have launches : u.launches = s.launches := by rw [noted]; rfl
  refine ⟨fun x mem same unit l found running => ?_, fun x => ?_, ?_, ?_, ?_, ?_⟩
  · exact standsHalted_burstFault unit ((findLaunch_congr launches _).trans found) running a code (same ▸ mem_rereadAsks mem)
  · rw [fault.mem, noted]
    exact mem_dropRereads s a x
  · rw [fault.mem, noted]
    rfl
  · rw [fault.halves, noted]
    rfl
  · rw [fault.blocks, noted]
    rfl
  · rw [fault.mem, noted]
    rfl

/-- Settles O42: a read is `readBurst` on the state in which its beats have left; a second read is `mscFill` or `burstFault`. -/
theorem memoryReadsDecodeOrHalt : Obligations.MemoryReadsDecodeOrHalt := by
  unfold Obligations.MemoryReadsDecodeOrHalt
  refine ⟨fun dpa q e s waits => by rw [exec_memoryRead, memoryRead_waits waits], ?read, ?reread⟩
  case read =>
    rintro dpa q e s u a i rfl may hu rfl
    have reads := (exec_memoryRead dpa q e s).trans (congrArg Host.Outcome.next (memoryRead_goes may e))
    rw [← hu] at reads
    generalize 512 * burstOf dpa = a at *
    rw [reads]
    refine ⟨fun c line => ?line, fun miss => ⟨fun stands clean => ?queued, fun apart => ⟨fun held => ?held,
      fun up reach good => ?decoded, fun up bad => ?undecoded⟩⟩⟩
    case line =>
      rw [readBurst_line line]
      refine ⟨fun few => ?touched, fun many => ?dropped⟩
      case touched =>
        rw [if_pos few]
        exact ⟨_, rfl, fun x mem => mem_mscTouch (mem_of_mscLine line) mem, modHalf_onlyHalf _ _ _, rfl⟩
      case dropped =>
        rw [if_neg (by omega)]
        obtain ⟨halves, launches, poison⟩ := lineUncorr_facts u a c
        have only : OnlyHalf (homeHalf a) u (mscDrop u a c) := modHalf_onlyHalf _ _ _
        refine ⟨_, rfl, fun x mem => not_mem_mscDrop (halves ▸ mem), ?_, lineUncorr_bytes u a c, launches, poison, fun clean => ?_⟩
        · unfold OnlyHalf
          rw [halves]
          exact only
        · rw [lineUncorr_clean clean]
          rfl
    case queued =>
      rw [readBurst_queued miss stands, serveBurst_clean clean]
      have moved := mscFill_linesMoved u a (q.job u)
      refine ⟨_, rfl, mscFill_bytes u a _, ?_, ?_, ?_⟩
      all_goals rw [moved]
    case held => rw [readBurst_held miss apart held]
    case undecoded =>
      rw [readBurst_undecoded miss apart up ((readsOk_eq_false_iff u a e).mpr bad)]
    case decoded =>
      rw [readBurst_decoded miss apart up ((readsOk_iff u a e).mpr ⟨good, reach⟩)]
      refine ⟨fun hold clean => ?clean, fun hold bad unit l found running => ?poisoned, fun p alone listed healthy => ?fails⟩
      case clean =>
        rw [serveBurst_clean ((poisoned_countCorr u a e a).trans clean)]
        exact ⟨_, rfl, burstServed_countCorr hold (mscFill_linesMoved _ _ _)⟩
      case poisoned =>
        rw [serveBurst_poisoned ((poisoned_countCorr u a e a).trans bad)]
        have noted := countCorr_noted hold
        have fault := burstFault_change (countCorr u a e) a 2 [q]
        have there : findLaunch (countCorr u a e) q.lid = some l := (findLaunch_congr (by rw [noted]) _).trans found
        refine ⟨_, rfl, memFault_halts unit there running a 2, ?_, ?_, ?_⟩
        · rw [memFault_mem, countCorr_bytes]
        · exact fault.halves.trans (by rw [noted])
        · exact fault.blocks.trans (by rw [noted])
      case fails =>
        refine ⟨_, rfl, ?_, by rw [serveBurst_bytes, countCorr_bytes]⟩
        rw [serveBurst_stk]
        exact mem_failed_countCorr alone listed healthy (rdMode_of_readLink up)
  case reread =>
    rintro k e s r i listed rfl up clocks
    refine ⟨fun good hold => ⟨fun clean => ?clean, fun bad => ?poisoned⟩, fun bad => ?undecoded⟩
    case clean =>
      have rereads := memoryReread_decoded listed up clocks e good
      rw [clean, if_neg (by decide)] at rereads
      obtain ⟨counts, -, bytes, -, same, -, -, frame⟩ := burstServed_countCorr (s := dropRereads s r.dpa) (a := r.dpa) hold
        (mscFill_linesMoved _ r.dpa (r.ask.job (countCorr (dropRereads s r.dpa) r.dpa e)))
      exact ⟨_, congrArg Host.Outcome.next rereads, fun x => same ▸ mem_dropRereads s r.dpa x, bytes, counts, frame⟩
    case poisoned =>
      have rereads := memoryReread_decoded listed up clocks e good
      rw [bad, if_pos rfl] at rereads
      obtain ⟨halts, gone, bytes, halves, blocks, -⟩ :=
        rereadFault_facts (countCorr_noted (s := dropRereads s r.dpa) (a := r.dpa) hold) 2
      exact ⟨_, congrArg Host.Outcome.next rereads, halts, gone, bytes, halves, blocks⟩
    case undecoded =>
      have rereads := memoryReread_undecoded listed up clocks e bad
      exact ⟨_, congrArg Host.Outcome.next rereads, rereadFault_facts (damage_noted (dropRereads s r.dpa) r.dpa) 1⟩

end Sys2Proof.Machine
end

section
/-! SUPPORT. Scrub, the temperature of a stack, and the flush of a half's lines (R421, R437-R442, R448, Tables 10.7, 10.13). -/

namespace Sys2Proof.Machine

/-! ### PATROL_SCRUB (R421) -/

theorem ofNat_dpaStack (s : State) (a : Nat) : (Fin.ofNat 24 (dpaStack s a)).val = dpaStack s a :=
  Nat.mod_eq_of_lt (dpaChan_stack_lt s a)

theorem burstOf_addr (n : Nat) : burstOf (512 * n) = n := Nat.mul_div_cancel_left n (by decide)

theorem damage_frame (s : State) (a : Nat) : damage s a = { s with mem := (damage s a).mem } := by
  unfold damage
  split <;> rfl

theorem dpaStack_damage (s : State) (a b : Nat) : dpaStack (damage s a) b = dpaStack s b := by
  rw [damage_frame]
  rfl

theorem mem_damaged_damage {s : State} {a : Nat} (apart : queued s a = false) : burstOf a ∈ (damage s a).mem.damaged := by
  unfold damage
  rw [if_neg (by simpa [queued] using apart)]
  exact mem_insertNat _ _

/-- The burst of a memory fault is named in MEMs_EADDR (Table 10.16). -/
theorem rreg_logMem_eaddr (s : State) (a code : Nat) :
    rreg (logMem s a code) .stkEaddr (dpaStack s a) = BitVec.ofNat 32 (dpaLocal a / 512) :=
  rreg_wreg_same _ _ _ _

theorem patrolScrub_stays {dpa : Nat} {s : State} (e : BurstErr)
    (stays : 0 < rfld s .stkStat (dpaStack s (512 * burstOf dpa)) 15 14 ∨ queued s (512 * burstOf dpa) = true) :
    patrolScrub dpa e s = s := by
  unfold patrolScrub
  dsimp only
  rw [if_pos (.inr (.inr (stays.imp id .inr)))]

theorem patrolScrub_goes {dpa : Nat} {s : State} (e : BurstErr) (there : burstThere s (512 * burstOf dpa) = true)
    (up : readLink s (512 * burstOf dpa) = some true) (clocks : clocked s = true)
    (cool : rfld s .stkStat (dpaStack s (512 * burstOf dpa)) 15 14 = 0) (apart : queued s (512 * burstOf dpa) = false) :
    patrolScrub dpa e s = if readsOk s (512 * burstOf dpa) e then countCorr s (512 * burstOf dpa) e
      else logMem (damage s (512 * burstOf dpa)) (512 * burstOf dpa) 3 := by
  unfold patrolScrub
  dsimp only
  rw [if_neg (by simp [there, up, clocks, cool, apart])]

/-! ### Levels (R440, Table 10.7) -/

theorem levelKept_le (x tt : Int) (cur : Nat) : levelKept x tt cur ≤ cur := by
  induction cur with
  | zero => exact Nat.le_refl 0
  | succ l ih =>
    unfold levelKept
    split
    · exact Nat.le_succ_of_le ih
    · exact Nat.le_refl _

theorem levelOf_le (x tt : Int) : levelOf x tt ≤ 3 := by
  unfold levelOf
  split_ifs <;> decide

theorem levelNext_le {cur : Nat} (h : cur ≤ 3) (x tt : Int) : levelNext x tt cur ≤ 3 :=
  max_le (levelOf_le x tt) ((levelKept_le x tt cur).trans h)

/-- From 5 degrees above the threshold on, the level is 3. -/
theorem levelNext_hot {x tt : Int} (hot : tt + 5 ≤ x) {cur : Nat} (h : cur ≤ 3) : levelNext x tt cur = 3 := by
  have entered : levelOf x tt = 3 := by
    unfold levelOf
    rw [if_neg (by omega), if_neg (by omega), if_neg (by omega)]
  exact Nat.le_antisymm (levelNext_le h x tt) (entered ▸ Nat.le_max_left _ _)

theorem tempByte_lt (x : Int) : tempByte x < 256 := by
  unfold tempByte
  omega

theorem refreshOf_lt (x : Int) : refreshOf x < 4 := by
  unfold refreshOf
  split_ifs <;> decide

/-! ### What MEMs_STAT shows -/

/-- MEMs_STAT with TEMP, LEVEL, SENSFAIL and REFX as given (Table 10.13). -/
def statWord (old : Word) (temp level fail refx : Nat) : Word :=
  setF (setF (setF (setF old 31 24 temp) 15 14 level) 13 13 fail) 12 11 refx

theorem statWord_fields (old : Word) {temp level fail refx : Nat} (ht : temp < 256) (hl : level < 4) (hf : fail < 2) (hr : refx < 4) :
    getF (statWord old temp level fail refx) 31 24 = temp ∧ getF (statWord old temp level fail refx) 15 14 = level ∧
    getF (statWord old temp level fail refx) 13 13 = fail ∧ getF (statWord old temp level fail refx) 12 11 = refx ∧
    getF (statWord old temp level fail refx) 7 0 = getF old 7 0 := by
  simp [statWord, getF_setF_same, getF_setF_other, Nat.mod_eq_of_lt, ht, hl, hf, hr]

/-! ### STACK_HOT (R441, R442) -/

theorem degraded_regsBut (s : State) (code x : Nat) : RegsBut eventAddrs s (degraded s code x) :=
  (postEvent_regsBut s 0 code 0 x []).trans (setEvt_regsBut _ 3)

theorem stackHot_regsBut (s : State) (i : Fin 24) : RegsBut eventAddrs s (stackHot s i) :=
  (degraded_regsBut s 0x3D03 i.val).trans (setEvt_regsBut _ 0)

theorem stackHot_frame (s : State) (i : Fin 24) :
    stackHot s i = { s with regs := (stackHot s i).regs, comps := (stackHot s i).comps } := by
  unfold stackHot
  rw [degraded_frame]
  rfl

theorem stackHot_hot (s : State) (i : Fin 24) : rfld (stackHot s i) .hltEvt 0 0 0 = 1 :=
  rfld_wfld_same _ _ _ _ (by decide)

theorem stkStat_not_mem_eventAddrs (i : Fin 24) : regAddr .stkStat i.val ∉ eventAddrs :=
  regAddr_not_mem_eventAddrs (r := .stkStat) i.isLt nofun nofun

/-! ### STACK_TEMP_SAMPLE (R437-R441) -/

/-- MEMs_STAT after a sample. -/
def sampleWord (old : Word) (x : Int) (level : Nat) : Word :=
  setF (statWord old (tempByte x) level 0 (refreshOf x)) 7 0 (max (getF old 7 0) (tempByte x))

/-- A sample before it is told that the stack is hot: what is shown, and the thermal cycles of the LIFE body. -/
def sampled (i : Fin 24) (x : Int) (s : State) : State :=
  let c := thermCycle (s.stk[i]).low x
  lifeAdd (modStk (wreg s .stkStat i.val
    (sampleWord (rreg s .stkStat i.val) x (levelNext x (stkThr s i) (rfld s .stkStat i.val 15 14)))) i
    (fun k => { k with low := c.1 })) i.val 4 4 c.2

theorem stackTempSample_eq (i : Fin 24) (x : Int) (s : State) : stackTempSample i x s =
    if levelNext x (stkThr s i) (rfld s .stkStat i.val 15 14) = 3 ∧ rfld s .stkStat i.val 15 14 < 3
    then stackHot (sampled i x s) i else sampled i x s := rfl

theorem rreg_sampled (i : Fin 24) (x : Int) (s : State) : rreg (sampled i x s) .stkStat i.val =
    sampleWord (rreg s .stkStat i.val) x (levelNext x (stkThr s i) (rfld s .stkStat i.val 15 14)) :=
  rreg_wreg_same _ _ _ _

theorem sampled_regsBut (i : Fin 24) (x : Int) (s : State) : RegsBut [regAddr .stkStat i.val] s (sampled i x s) :=
  wreg_regsBut _ _ _ _

/-- What the sample shows stays where HOT is told. -/
theorem rreg_stackTempSample (i : Fin 24) (x : Int) (s : State) : rreg (stackTempSample i x s) .stkStat i.val =
    sampleWord (rreg s .stkStat i.val) x (levelNext x (stkThr s i) (rfld s .stkStat i.val 15 14)) := by
  rw [stackTempSample_eq]
  split
  · exact ((stackHot_regsBut _ i).rreg (stkStat_not_mem_eventAddrs i)).trans (rreg_sampled i x s)
  · exact rreg_sampled i x s

theorem stackTempSample_regsBut (i : Fin 24) (x : Int) (s : State) :
    RegsBut [regAddr .stkStat i.val, regAddr .hltEvt 0, regAddr .latStat 0] s (stackTempSample i x s) := by
  have shown := (sampled_regsBut i x s).mono (l' := regAddr .stkStat i.val :: eventAddrs) (by simp)
  rw [stackTempSample_eq]
  split
  · exact shown.trans ((stackHot_regsBut _ i).mono fun _ => List.mem_cons_of_mem _)
  · exact shown

theorem stackTempSample_frame (i : Fin 24) (x : Int) (s : State) : OnlyStack i s (stackTempSample i x s) ∧
    stackTempSample i x s = { s with
      regs := (stackTempSample i x s).regs, stk := (stackTempSample i x s).stk, hlt := (stackTempSample i x s).hlt,
      comps := (stackTempSample i x s).comps } := by
  have only : OnlyStack i s (sampled i x s) :=
    (modStk_onlyStack s i (fun k => { k with low := (thermCycle (s.stk[i]).low x).1 })).congr rfl rfl
  rw [stackTempSample_eq]
  split
  · rw [stackHot_frame]
    exact ⟨only, rfl⟩
  · exact ⟨only, rfl⟩

/-! ### STACK_SENSOR_FAIL (R442) -/

theorem stackSensorFail_eq {i : Fin 24} {s : State} (good : rfld s .stkStat i.val 13 13 = 0) : stackSensorFail i s =
    stackHot (wreg s .stkStat i.val (statWord (rreg s .stkStat i.val) 0xFF 3 1 2)) i :=
  if_neg (by rw [show getF (rreg s .stkStat i.val) 13 13 = 0 from good]; decide)

/-! ### Flushes (R448) -/

/-- MSC_FLUSH for one half. -/
def flushAsked (v : BitVec 32) (s : State) (h : Fin 2) : State :=
  if bitsAt v h.val 1 = 1 then modHalf s h (fun g => { g with flushing := true }) else s

theorem mscFlush_eq (v : BitVec 32) (s : State) : mscFlush v s = flushAsked v (flushAsked v s 0) 1 := rfl

theorem flushAsked_frame (v : BitVec 32) (s : State) (h : Fin 2) :
    flushAsked v s h = { s with halves := (flushAsked v s h).halves } := by
  unfold flushAsked
  split <;> rfl

theorem flushAsked_half (v : BitVec 32) (s : State) (h : Fin 2) : (flushAsked v s h).halves[h] =
    if bitsAt v h.val 1 = 1 then { s.halves[h] with flushing := true } else s.halves[h] := by
  unfold flushAsked
  split
  · exact modHalf_same s h _
  · rfl

theorem flushAsked_onlyHalf (v : BitVec 32) (s : State) (h : Fin 2) : OnlyHalf h s (flushAsked v s h) := by
  unfold flushAsked
  split
  · exact modHalf_onlyHalf s h _
  · exact fun _ _ => rfl

theorem mscFlush_half (v : BitVec 32) (s : State) (h : Fin 2) : (mscFlush v s).halves[h] =
    if bitsAt v h.val 1 = 1 then { s.halves[h] with flushing := true } else s.halves[h] := by
  rw [mscFlush_eq]
  match h with
  | 0 => exact (flushAsked_onlyHalf v _ 1 0 (by decide)).trans (flushAsked_half v s 0)
  | 1 =>
    rw [flushAsked_half v (flushAsked v s 0) 1, flushAsked_onlyHalf v s 0 1 (by decide)]

/-- A burst's stored code carries no POISON, and its cells are good. -/
def BurstGood (s : State) (b : Nat) : Prop := b ∉ s.mem.poison ∧ b ∉ s.mem.damaged

/-- A dirty line's burst is stored anew, with a good code, unless its stack is down (R420, R426). -/
theorem writeBack_good {s : State} {c : MscLine} (dirty : c.dirty = true) (up : stackOff (stackOfDpa s (512 * c.burst)) = false) :
    BurstGood (writeBack s c) c.burst := by
  unfold BurstGood writeBack
  rw [if_pos ⟨dirty, by simp [up]⟩]
  simp [enterQueue]

/-- A line that is written back makes no burst bad. -/
theorem BurstGood.writeBack {s : State} {b : Nat} (good : BurstGood s b) (c : MscLine) : BurstGood (writeBack s c) b := by
  obtain ⟨poison, damaged⟩ := good
  unfold Machine.writeBack
  split
  · exact ⟨fun mem => poison (List.mem_of_mem_filter mem), fun mem => damaged (List.mem_of_mem_filter mem)⟩
  · exact ⟨poison, damaged⟩

/-- Every dirty line of a list is written back. -/
theorem writeBacks_good {c : MscLine} (dirty : c.dirty = true) {cs : List MscLine} (mem : c ∈ cs) {s : State}
    (up : stackOff (stackOfDpa s (512 * c.burst)) = false) : BurstGood (cs.foldl writeBack s) c.burst := by
  induction cs generalizing s with
  | nil => simp at mem
  | cons x xs ih =>
    obtain rfl | later := List.mem_cons.mp mem
    · rw [List.foldl_cons]
      exact List.foldlRecOn (motive := (BurstGood · c.burst)) _ _ (writeBack_good dirty up) fun _ good y _ => good.writeBack y
    · refine ih later ?_
      rw [writeBack_frame]
      exact up

theorem writeBacks_frame (s : State) (cs : List MscLine) : cs.foldl writeBack s = { s with mem := (cs.foldl writeBack s).mem } :=
  List.foldlRecOn (motive := fun t : State => t = { s with mem := t.mem }) cs _ rfl fun t same c _ => by rw [writeBack_frame, same]

theorem flushHalf_eq (s : State) (h : Fin 2) : flushHalf s h =
    modHalf { s with mem := (s.halves[h].msc.foldl writeBack s).mem } h (fun g => { g with msc := [], flushing := false }) := by
  unfold flushHalf
  dsimp only
  rw [writeBacks_frame]

/-- Settles O44: a scrub is `countCorr` or `logMem`; a sample shows `sampleWord`; a flush is the write-back of its lines. -/
theorem stacksAreWatched : Obligations.StacksAreWatched := by
  unfold Obligations.StacksAreWatched
  refine ⟨fun dpa e s there up clocks => ⟨fun stands => ?queued, fun cool apart => ?scrub, fun warm => ?suspended⟩,
    fun _ _ => rfl, fun i x s => ?sample, fun i s good => ?sensor, fun v s => ?flush,
    fun h s => ⟨fun runs clocks places => ?flushed, fun idle => ?idle⟩⟩
  case queued => exact congrArg Host.Outcome.next (patrolScrub_stays e (.inr stands))
  case suspended => exact congrArg Host.Outcome.next (patrolScrub_stays e (.inl warm))
  case scrub =>
    have goes := patrolScrub_goes e there up clocks cool apart
    refine ⟨_, rfl, fun good hold => ?corrected, fun bad => ?logged, patrolScrub_bytes dpa e s, ?stores⟩
    case corrected =>
      rw [goes, if_pos good]
      obtain ⟨counts, -⟩ := burstServed_countCorr hold (LinesMoved.refl _)
      rw [ofNat_dpaStack] at counts
      exact ⟨counts, by rw [countCorr_noted hold]⟩
    case logged =>
      rw [goes, if_neg (by simp [bad])]
      have named := rreg_logMem_eaddr (damage s (512 * burstOf dpa)) (512 * burstOf dpa) 3
      rw [dpaStack_damage] at named
      have damaged := mem_damaged_damage apart
      rw [burstOf_addr] at damaged
      obtain ⟨r, y, log⟩ := logMem_frame (damage s (512 * burstOf dpa)) (512 * burstOf dpa) 3
      refine ⟨named, by rw [log]; exact damaged, ?_⟩
      rw [log, damage_frame]
    case stores =>
      show (patrolScrub dpa e s).mem.stores = s.mem.stores
      rw [goes]
      split
      · rw [(countCorr_change s _ e).mem]
      · rw [logMem_mem, damage_noted]
  case sample =>
    have cur : rfld s .stkStat i.val 15 14 ≤ 3 := Nat.le_of_lt_succ (rfld_lt s .stkStat i.val 15 14)
    have fields := statWord_fields (rreg s .stkStat i.val) (fail := 0) (tempByte_lt x)
      (Nat.lt_succ_of_le (levelNext_le cur x (stkThr s i))) (by decide) (refreshOf_lt x)
    obtain ⟨temp, level, fail, refx, -⟩ := fields
    have shows (hi lo : Nat) : rfld (stackTempSample i x s) .stkStat i.val hi lo = getF (sampleWord (rreg s .stkStat i.val) x
        (levelNext x (stkThr s i) (rfld s .stkStat i.val 15 14))) hi lo := congrArg (getF · hi lo) (rreg_stackTempSample i x s)
    have above {hi lo : Nat} (hhi : hi < 32) (hlo : 7 < lo) := (shows hi lo).trans (getF_setF_other _ _ hhi (.inl hlo))
    have leveled := (above (hi := 15) (lo := 14) (by decide) (by decide)).trans level
    obtain ⟨only, frame⟩ := stackTempSample_frame i x s
    refine ⟨_, rfl, (above (by decide) (by decide)).trans temp, leveled, (above (by decide) (by decide)).trans fail,
      (above (by decide) (by decide)).trans refx, ?highest, fun hot => ?hot, stackTempSample_regsBut i x s, only, frame⟩
    case highest =>
      refine (shows 7 0).trans ((getF_setF_same _ _ (by decide)).trans (Nat.mod_eq_of_lt ?_))
      exact max_lt (rfld_lt s .stkStat i.val 7 0) (tempByte_lt x)
    case hot =>
      have three := levelNext_hot hot cur
      refine ⟨leveled.trans three, fun rises => ?_⟩
      rw [stackTempSample_eq, if_pos ⟨three, rises⟩]
      exact stackHot_hot _ i
  case sensor =>
    have fails := stackSensorFail_eq good
    obtain ⟨temp, level, fail, refx, highest⟩ := statWord_fields (rreg s .stkStat i.val) (temp := 0xFF) (level := 3) (fail := 1)
      (refx := 2) (by decide) (by decide) (by decide) (by decide)
    have shows (hi lo : Nat) : rfld (stackSensorFail i s) .stkStat i.val hi lo =
        getF (statWord (rreg s .stkStat i.val) 0xFF 3 1 2) hi lo := by
      rw [fails, (stackHot_regsBut _ i).rfld (stkStat_not_mem_eventAddrs i)]
      exact congrArg (getF · hi lo) (rreg_wreg_same _ _ _ _)
    have regs : RegsBut (regAddr .stkStat i.val :: eventAddrs) s (stackSensorFail i s) := by
      rw [fails]
      exact ((wreg_regsBut s .stkStat i.val _).mono (by simp)).trans ((stackHot_regsBut _ i).mono fun _ => List.mem_cons_of_mem _)
    refine ⟨_, rfl, (shows 31 24).trans temp, (shows 15 14).trans level, (shows 13 13).trans fail, (shows 12 11).trans refx,
      (shows 7 0).trans highest, ?_, regs, ?_⟩
    · rw [fails]
      exact stackHot_hot _ i
    · rw [fails, stackHot_frame]
      rfl
  case flush =>
    refine ⟨_, rfl, mscFlush_half v s, ?_⟩
    rw [mscFlush_eq, flushAsked_frame, flushAsked_frame v s 0]
  case flushed =>
    have done : exec (.mscFlushDone h) s = .next (flushHalf s h) :=
      congrArg Host.Outcome.next (if_pos ⟨runs, clocks, by simp [places]⟩)
    refine ⟨_, done, ?_, ?_, flushHalf_bytes s h, fun c mem dirty up => writeBacks_good dirty mem up, ?_⟩
    all_goals rw [flushHalf_eq]
    · exact modHalf_same _ h _
    · exact modHalf_onlyHalf { s with mem := (s.halves[h].msc.foldl writeBack s).mem } h _
    · rfl
  case idle => exact congrArg Host.Outcome.next (if_neg fun ⟨runs, _⟩ => by rw [idle] at runs; cases runs)

end Sys2Proof.Machine
end

section
/-! SUPPORT. Lanes that fail, their spares, and links that are narrowed (R422-R426, R566, R588, Tables 10.5, 10.17). -/

namespace Sys2Proof.Machine

/-! ### Lists of failed lanes -/

theorem mem_of_mem_insertNat {x y : Nat} {l : List Nat} (mem : y ∈ insertNat x l) : y = x ∨ y ∈ l := by
  induction l with
  | nil => exact .inl (List.mem_singleton.mp mem)
  | cons z zs ih =>
    unfold insertNat at mem
    split at mem
    · exact List.mem_cons.mp mem
    · split at mem
      · exact .inr mem
      · obtain rfl | later := List.mem_cons.mp mem
        · exact .inr List.mem_cons_self
        · exact (ih later).imp id (List.mem_cons_of_mem _)

theorem length_insertNat_le (x : Nat) (l : List Nat) : (insertNat x l).length ≤ l.length + 1 := by
  induction l with
  | nil => exact Nat.le_refl _
  | cons z zs ih =>
    unfold insertNat
    split
    · exact Nat.le_refl _
    · split
      · exact Nat.le_succ _
      · exact Nat.succ_le_succ ih

/-! ### OPTs_LANE and the OPTCAL record of a lane event (Table 10.17) -/

theorem laneEvent_regs (s : State) (i : Fin 24) : (laneEvent s i).regs = (showLanes s i).regs := by
  unfold laneEvent
  rw [krgReq_frame]

theorem laneEvent_frame (s : State) (i : Fin 24) :
    laneEvent s i = { s with regs := (laneEvent s i).regs, krg := (laneEvent s i).krg } := by
  unfold laneEvent
  rw [krgReq_frame]
  rfl

theorem laneEvent_regsBut (s : State) (i : Fin 24) : RegsBut [regAddr .optLane i.val] s (laneEvent s i) :=
  (wreg_regsBut s .optLane i.val _).congr rfl (laneEvent_regs s i)

/-- A link that has erased a lane for which its spare trains is in RSTATE 6. -/
theorem rstate_trains {k : Link} (full : k.mode = .full) (erased : k.erased.isSome = true) (trains : k.training.isSome = true) :
    k.rstate = 6 := by
  simp [Link.rstate, full, erased, trains]

/-- A read link that has erased a lane for which its spare trains is shown with that lane. -/
theorem laneEvent_shows {s : State} {i : Fin 24} {l : Nat} (full : s.stk[i].rd.mode = .full) (erased : s.stk[i].rd.erased = some l)
    (trains : s.stk[i].rd.training = some l) (fits : l < 64) :
    rfld (laneEvent s i) .optLane i.val 31 28 = 6 ∧ rfld (laneEvent s i) .optLane i.val 21 16 = l := by
  have rstate := rstate_trains full (by rw [erased]; rfl) (by rw [trains]; rfl)
  have shown : rreg (laneEvent s i) .optLane i.val = rreg (showLanes s i) .optLane i.val := rreg_congr (laneEvent_regs s i) _ _
  unfold rfld
  rw [shown]
  unfold showLanes
  dsimp only
  rw [rreg_wreg_same, rstate, erased]
  simp [getF_setF_same, getF_setF_other, Nat.mod_eq_of_lt fits]

/-! ### What the loss of a lane does (Table 10.5) -/

theorem modLink_read (s : State) (i : Fin 24) (f : Link → Link) :
    (modLink s i .read f).stk[i] = { s.stk[i] with rd := f s.stk[i].rd } := modStk_same s i _

theorem modLink_write (s : State) (i : Fin 24) (f : Link → Link) :
    (modLink s i .write f).stk[i] = { s.stk[i] with wr := f s.stk[i].wr } := modStk_same s i _

/-- A read link that has erased a lane, and whose spare trains for it. -/
def Link.erasing (l : Nat) (k : Link) : Link := { k with erased := some l, training := some l }

/-- A write link whose spare trains for a lane. -/
def Link.trainingFor (l : Nat) (k : Link) : Link := { k with training := some l }

/-- A link as it is while it is retrained at half width. -/
def Link.retrained (k : Link) : Link := { k with mode := .retraining, spare := none, training := none, erased := none }

/-- The spare of a link is there for a lane: it carries none, trains for none, and has not failed. -/
def SpareFree (d : LinkDir) (k : Link) : Prop := k.spare = none ∧ k.training = none ∧ laneCount d ∉ k.failed

theorem SpareFree.test {d : LinkDir} {k : Link} (free : SpareFree d k) :
    (!false && k.spare.isNone && k.training.isNone && !k.failed.any (· = laneCount d)) = true := by
  obtain ⟨spare, trains, good⟩ := free
  simpa [spare, trains] using fun x mem (same : x = laneCount d) => good (same ▸ mem)

theorem spare_not_free {d : LinkDir} {k : Link} (spare : k.spare.isSome = true) :
    (!false && k.spare.isNone && k.training.isNone && !k.failed.any (· = laneCount d)) ≠ true := by
  simp [Option.isSome_iff_ne_none.mp spare]

section LoseLane

variable {s : State} {i : Fin 24} (l : Nat)

/-- A read lane lost with the spare free is erased, and the spare trains for it. -/
theorem loseLane_read_free (erased : s.stk[i].rd.erased = none) (free : SpareFree .read s.stk[i].rd) :
    loseLane s i .read l false = modLink s i .read (Link.erasing l) := by
  unfold loseLane
  dsimp only [Stack.link]
  rw [if_neg (by rw [erased]; simp), if_pos free.test]
  rfl

/-- One lost with another erased narrows the link. -/
theorem loseLane_read_erased (erased : s.stk[i].rd.erased.isSome = true) : loseLane s i .read l false = narrowLink s i .read := by
  unfold loseLane
  dsimp only [Stack.link]
  rw [if_pos (by rw [erased]; rfl)]

/-- For a write lane lost the spare trains, if it is free. -/
theorem loseLane_write_free (free : SpareFree .write s.stk[i].wr) :
    loseLane s i .write l false = modLink s i .write (Link.trainingFor l) := by
  unfold loseLane
  dsimp only [Stack.link]
  rw [if_pos free.test]
  rfl

/-- One lost with the spare in use narrows the link. -/
theorem loseLane_write_spared (spare : s.stk[i].wr.spare.isSome = true) : loseLane s i .write l false = narrowLink s i .write := by
  unfold loseLane
  dsimp only [Stack.link]
  rw [if_neg (spare_not_free spare)]

end LoseLane

/-- LINK_NARROW in the events of ring 0 (R566, Table 15.3). -/
theorem degraded_comps {s : State} (opened : (getRing s 0).isSome = true) (code x : Nat) :
    Completion.mk 3 0 code 0 0 x [] ∈ (degraded s code x).comps := by
  unfold degraded reportEvent postEvent
  rw [if_pos opened]
  exact List.mem_append_right _ List.mem_cons_self

/-- What LINK_NARROW names beside the stack. -/
def narrowAux : LinkDir → Nat
  | .read => 0
  | .write => 256

/-- A link is retrained at half width while enough of its lanes are healthy. -/
theorem narrowLink_retrains {s : State} {i : Fin 24} {d : LinkDir}
    (enough : (s.stk[i].link d).failed.length + laneCount d / 2 ≤ laneCount d + 1) :
    narrowLink s i d = degraded (modLink s i d Link.retrained) 0x3E07 (i.val + narrowAux d) := by
  unfold narrowLink
  dsimp only
  rw [if_neg (Nat.not_lt.mpr enough)]
  cases d <;> rfl

/-! ### A lane that fails (R422, R423) -/

theorem link_laneCounted (s : State) (i : Fin 24) (d : LinkDir) (p : Nat) :
    (laneCounted s i d p).stk[i].link d = (s.stk[i].link d).withFailed p :=
  link_modLink_same _ i d _

/-- A lane other than the spare that fails leaves the spare free. -/
theorem SpareFree.counted {s : State} {i : Fin 24} {d : LinkDir} (free : SpareFree d (s.stk[i].link d)) {p : Nat}
    (lane : p < laneCount d) : SpareFree d ((laneCounted s i d p).stk[i].link d) := by
  obtain ⟨spare, trains, good⟩ := free
  rw [link_laneCounted]
  refine ⟨spare, trains, fun mem => ?_⟩
  obtain same | before := mem_of_mem_insertNat mem
  · omega
  · exact good before

section LaneFails

variable {s : State} {i : Fin 24} {p l : Nat}

/-- A read lane that fails with the spare free. -/
theorem laneFail_read_free (lane : p < 64) (healthy : p ∉ s.stk[i].rd.failed) (full : s.stk[i].rd.mode = .full)
    (carried : s.stk[i].rd.carries .read p = some l) (erased : s.stk[i].rd.erased = none) (free : SpareFree .read s.stk[i].rd) :
    laneFail s i .read p =
      laneEvent (modLink (laneLife s i .read p) i .read (fun k => (k.withFailed p).erasing l)) i := by
  have counted := link_laneCounted s i .read p
  rw [laneFail_full (d := .read) lane.le healthy full carried, decide_eq_false (show p ≠ laneCount .read from lane.ne),
    loseLane_read_free l ((congrArg Link.erased counted).trans erased) (SpareFree.counted (d := .read) free lane), laneCounted,
    modLink_modLink]

/-- A write lane that fails with the spare free. -/
theorem laneFail_write_free (lane : p < 32) (healthy : p ∉ s.stk[i].wr.failed) (full : s.stk[i].wr.mode = .full)
    (carried : s.stk[i].wr.carries .write p = some l) (free : SpareFree .write s.stk[i].wr) :
    laneFail s i .write p =
      laneEvent (modLink (laneLife s i .write p) i .write (fun k => (k.withFailed p).trainingFor l)) i := by
  rw [laneFail_full (d := .write) lane.le healthy full carried, decide_eq_false (show p ≠ laneCount .write from lane.ne),
    loseLane_write_free l (SpareFree.counted (d := .write) free lane), laneCounted, modLink_modLink]

/-- One that narrows its link, which has healthy lanes enough. -/
theorem laneFail_narrows {d : LinkDir} (lane : p < laneCount d) (healthy : p ∉ (s.stk[i].link d).failed)
    (full : (s.stk[i].link d).mode = .full) (carried : (s.stk[i].link d).carries d p = some l)
    (narrows : loseLane (laneCounted s i d p) i d l false = narrowLink (laneCounted s i d p) i d)
    (enough : (s.stk[i].link d).failed.length ≤ laneCount d / 2) : laneFail s i d p =
      laneEvent (degraded (modLink (laneLife s i d p) i d (fun k => (k.withFailed p).retrained)) 0x3E07 (i.val + narrowAux d)) i := by
  have length : ((laneCounted s i d p).stk[i].link d).failed.length + laneCount d / 2 ≤ laneCount d + 1 := by
    have longer := length_insertNat_le p (s.stk[i].link d).failed
    rw [link_laneCounted]
    dsimp only [Link.withFailed]
    omega
  rw [laneFail_full lane.le healthy full carried, decide_eq_false lane.ne, narrows, narrowLink_retrains length,
    laneCounted, modLink_modLink]

end LaneFails

end Sys2Proof.Machine
end

section
/-! SUPPORT. Reads that waited for a stack whose links work again: what serving them leaves (R411, R425, R426). -/

namespace Sys2Proof.Machine

theorem stackHeld_eq_false_iff (k : Stack) : stackHeld k = false ↔ ∀ d, (k.link d).mode ≠ .retraining := by
  simp only [stackHeld, Bool.or_eq_false_iff, decide_eq_false_iff_not]
  exact ⟨fun ⟨rd, wr⟩ d => by cases d <;> assumption, fun h => ⟨h .read, h .write⟩⟩

/-- Where an address lies depends on what MEMs_CHMAP shows and on nothing else (R428). -/
theorem dpaStack_congr {s t : State} (same : ∀ j, j < 24 → rreg t .stkChmap j = rreg s .stkChmap j) (a : Nat) :
    dpaStack t a = dpaStack s a := by
  have half : dpaHalf a < 2 := by
    unfold dpaHalf
    split <;> decide
  have list : channelList t (dpaHalf a) = channelList s (dpaHalf a) := List.filterMap_congr fun i _ => by
    dsimp only
    rw [same _ (by omega)]
  unfold dpaStack dpaChan
  rw [list]

/-- `t` is `s` but for what a read of a burst of stack `i`, without error, can change: the links, the reads that wait and where
addresses lie stay. -/
def ReadServed (i : Fin 24) (s t : State) : Prop :=
  (∀ d, t.stk[i].link d = s.stk[i].link d) ∧ OnlyStack i s t ∧ t.mem.held = s.mem.held ∧ ∀ a, dpaStack t a = dpaStack s a

theorem ReadServed.trans {i : Fin 24} {s t u : State} (h : ReadServed i s t) (k : ReadServed i t u) : ReadServed i s u := by
  obtain ⟨links, only, held, place⟩ := h
  obtain ⟨links', only', held', place'⟩ := k
  exact ⟨fun d => (links' d).trans (links d), only.trans only', held'.trans held, fun a => (place' a).trans (place a)⟩

theorem readServed_of_stk {s t : State} (stk : t.stk = s.stk) (held : t.mem.held = s.mem.held)
    (place : ∀ a, dpaStack t a = dpaStack s a) (i : Fin 24) : ReadServed i s t :=
  ⟨fun d => by rw [stk], onlyStack_of_stk stk i, held, place⟩

theorem askHalt_regsBut (s : State) (q : Asker) (code stack reg : Nat) : RegsBut eventAddrs s (askHalt s q code stack reg) := by
  unfold askHalt
  split
  · exact RegsBut.refl _ s
  · exact RegsBut.refl _ s
  all_goals exact haltLaunch_regsBut _ _ _ _

theorem memFault_readServed (s : State) (a code : Nat) (q : Asker) (i : Fin 24) : ReadServed i s (memFault s a code q) := by
  obtain ⟨_, _, _, _, _, fault⟩ := memFault_frame s a code q
  refine readServed_of_stk (by rw [fault]) (by rw [fault]) (dpaStack_congr fun j hj => ?_) i
  obtain ⟨-, logged⟩ := logMem_wrote s a code
  have halted := askHalt_regsBut (logMem s a code) q (0x3A00 + code) (dpaStack s a)
    (rreg (logMem s a code) .stkElog (dpaStack s a)).toNat
  exact (halted.rreg (regAddr_not_mem_eventAddrs (r := .stkChmap) hj nofun nofun)).trans (logged .stkChmap j (by decide) hj)

theorem serveBurst_readServed (s : State) (a : Nat) (q : Asker) (i : Fin 24) : ReadServed i s (serveBurst s a q) := by
  unfold serveBurst
  split
  · exact memFault_readServed s a 2 q i
  · have moved := mscFill_linesMoved s a (q.job s)
    generalize mscFill s a (q.job s) = t at moved ⊢
    rw [show t = _ from moved]
    exact readServed_of_stk rfl rfl (fun _ => rfl) i

/-- What a read whose command has told of no error meets (log 137). -/
def noErrs : BurstErr := { syms := [], addrBad := false }

theorem lanesHold_noErrs (k : Stack) : LanesHold k noErrs := by
  have none_bad : badLanes k noErrs = [] := rfl
  intro p mem
  rw [none_bad] at mem
  cases mem

/-- The stack of an address, as an index. -/
theorem eq_ofNat_of_dpaStack {s : State} {a : Nat} {i : Fin 24} (there : dpaStack s a = i.val) : i = Fin.ofNat 24 (dpaStack s a) :=
  Fin.ext (there.symm.trans (ofNat_dpaStack s a).symm)

theorem countCorr_readServed {s : State} {a : Nat} {i : Fin 24} (there : dpaStack s a = i.val) :
    ReadServed i s (countCorr s a noErrs) := by
  obtain rfl := eq_ofNat_of_dpaStack there
  obtain ⟨-, regs, -, -, -, noted, only, -⟩ := burstServed_countCorr (lanesHold_noErrs (stackOfDpa s a)) (LinesMoved.refl _)
  have held : (countCorr s a noErrs).mem.held = s.mem.held := by rw [(countCorr_change s a noErrs).mem]
  refine ⟨fun d => ?_, only, held, dpaStack_congr fun j hj => regs.rreg ?_⟩
  · rw [noted]
    cases d <;> rfl
  · simpa using regAddr_ne (r := .stkChmap) (q := .stkCorr) nofun hj (Fin.ofNat 24 (dpaStack s a)).isLt

/-- A stack that is not held is read, or refuses. -/
theorem readLink_ne_none {s : State} {a : Nat} {i : Fin 24} (there : dpaStack s a = i.val) (free : stackHeld s.stk[i] = false) :
    readLink s a ≠ none := by
  obtain rfl := eq_ofNat_of_dpaStack there
  unfold readLink stackOfDpa
  dsimp only
  rw [free]
  split <;> simp

/-- A read of a burst of a stack that is not held does not wait, and its links stay (R425, R426). -/
theorem readBurst_readServed {s : State} {a : Nat} {i : Fin 24} (there : dpaStack s a = i.val) (free : stackHeld s.stk[i] = false)
    (q : Asker) : ReadServed i s (readBurst s a q noErrs) := by
  cases line : mscLine s a (q.job s) with
  | some c =>
    rw [readBurst_line line, if_pos (by decide)]
    exact readServed_of_stk rfl rfl (fun _ => rfl) i
  | none =>
    cases stands : queued s a with
    | true =>
      rw [readBurst_queued line stands]
      exact serveBurst_readServed s a q i
    | false =>
      cases up : readLink s a with
      | none => exact absurd up (readLink_ne_none there free)
      | some works =>
        cases works with
        | false =>
          rw [readBurst_stack line stands]
          unfold readStack
          rw [up]
          exact memFault_readServed s a 1 q i
        | true =>
          cases good : readsOk s a noErrs with
          | true =>
            rw [readBurst_decoded line stands up good]
            exact (countCorr_readServed there).trans (serveBurst_readServed _ a q i)
          | false =>
            rw [readBurst_undecoded line stands up good]
            exact readServed_of_stk rfl rfl (fun _ => rfl) i

/-- The reads that wait for other stacks. -/
def otherHeld (s : State) (i : Fin 24) : State :=
  { s with mem := { s.mem with held := s.mem.held.filter (fun r => !decide (dpaStack s r.dpa = i.val)) } }

/-- A stack that is not held serves the reads that waited for it, in their order. -/
theorem serveHeld_free {s : State} {i : Fin 24} (free : stackHeld s.stk[i] = false) : serveHeld s i =
    (s.mem.held.filter (fun r => dpaStack s r.dpa = i.val)).foldl (fun s r => readBurst s r.dpa r.ask noErrs) (otherHeld s i) :=
  if_neg (by rw [free]; decide)

theorem serveHeld_held {s : State} {i : Fin 24} (held : stackHeld s.stk[i] = true) : serveHeld s i = s := if_pos held

theorem serveHeld_readServed {s : State} {i : Fin 24} (free : stackHeld s.stk[i] = false) :
    ReadServed i (otherHeld s i) (serveHeld s i) := by
  rw [serveHeld_free free]
  refine List.foldlRecOn (motive := ReadServed i (otherHeld s i)) _ _ (readServed_of_stk rfl rfl (fun _ => rfl) i)
    fun t served r mem => served.trans ?_
  obtain ⟨links, -, -, place⟩ := served
  have mine : dpaStack s r.dpa = i.val := by simpa using (List.mem_filter.mp mem).2
  refine readBurst_readServed ((place r.dpa).trans mine) ((stackHeld_eq_false_iff _).mpr fun d => ?_) r.ask
  rw [links d]
  exact (stackHeld_eq_false_iff _).mp free d

/-- Serving the held reads of a stack leaves its links and every other stack. -/
theorem serveHeld_links (s : State) (i : Fin 24) :
    (∀ d, (serveHeld s i).stk[i].link d = s.stk[i].link d) ∧ OnlyStack i s (serveHeld s i) := by
  cases held : stackHeld s.stk[i] with
  | true =>
    rw [serveHeld_held held]
    exact ⟨fun _ => rfl, fun _ _ => rfl⟩
  | false =>
    obtain ⟨links, only, -, -⟩ := serveHeld_readServed held
    exact ⟨links, only⟩

/-- Then none of its reads waits any more. -/
theorem serveHeld_none_waits {s : State} {i : Fin 24} (free : stackHeld s.stk[i] = false) {r : Reread}
    (mem : r ∈ (serveHeld s i).mem.held) : dpaStack s r.dpa ≠ i.val := by
  obtain ⟨-, -, held, -⟩ := serveHeld_readServed free
  rw [held] at mem
  simpa using (List.mem_filter.mp mem).2

/-- Where no read waits for the stack, there is nothing to serve. -/
theorem serveHeld_idle {s : State} {i : Fin 24} (none_waits : ∀ r ∈ s.mem.held, dpaStack s r.dpa ≠ i.val) : serveHeld s i = s := by
  cases held : stackHeld s.stk[i] with
  | true => exact serveHeld_held held
  | false =>
    have mine : s.mem.held.filter (fun r => dpaStack s r.dpa = i.val) = [] :=
      List.filter_eq_nil_iff.mpr fun r mem => by simpa using none_waits r mem
    have others : s.mem.held.filter (fun r => !decide (dpaStack s r.dpa = i.val)) = s.mem.held :=
      List.filter_eq_self.mpr fun r mem => by simpa using none_waits r mem
    rw [serveHeld_free held, mine, List.foldl_nil, otherHeld, others]

end Sys2Proof.Machine
end

section
/-! SUPPORT. The failures of lanes as commands, the spare that takes over, OPT_SPARE and the end of a retraining (R422-R427, R588). -/

namespace Sys2Proof.Machine

/-! ### A lane event behind a change of one link -/

/-- What a lane event that follows a change of a link leaves. -/
theorem laneEvent_modLink (s : State) (i : Fin 24) (d : LinkDir) (f : Link → Link) :
    let t := laneEvent (modLink s i d f) i
    t.stk[i].link d = f (s.stk[i].link d) ∧ (∀ d', d' ≠ d → t.stk[i].link d' = s.stk[i].link d') ∧ OnlyStack i s t ∧
    RegsBut [regAddr .optLane i.val] s t ∧ t = { s with stk := t.stk, regs := t.regs, krg := t.krg } := by
  refine ⟨?_, fun d' other => ?_, ?_, laneEvent_regsBut (modLink s i d f) i, ?_⟩
  · simp only [laneEvent_stk]
    exact link_modLink_same s i d f
  · simp only [laneEvent_stk]
    exact link_modLink_other s i other f
  · exact (modLink_onlyStack s i d f).congr rfl (laneEvent_stk _ i)
  · rw [laneEvent_frame]
    rfl

theorem laneEvent_modLink_read (s : State) (i : Fin 24) (f : Link → Link) :
    (laneEvent (modLink s i .read f) i).stk[i] = { s.stk[i] with rd := f s.stk[i].rd } := by
  simp only [laneEvent_stk]
  exact modLink_read s i f

theorem laneEvent_modLink_write (s : State) (i : Fin 24) (f : Link → Link) :
    (laneEvent (modLink s i .write f) i).stk[i] = { s.stk[i] with wr := f s.stk[i].wr } := by
  simp only [laneEvent_stk]
  exact modLink_write s i f

/-- What LINK_NARROW and the lane event leave of a link that is narrowed. -/
theorem laneEvent_narrowed (s : State) (i : Fin 24) (d : LinkDir) (f : Link → Link) (x : Nat) :
    let t := laneEvent (degraded (modLink s i d f) 0x3E07 x) i
    (∀ c : Fin 24, t.stk[c] = (modLink s i d f).stk[c]) ∧
    ((getRing s 0).isSome = true → Completion.mk 3 0 0x3E07 0 0 x [] ∈ t.comps) ∧
    t = { s with stk := t.stk, regs := t.regs, krg := t.krg, comps := t.comps } := by
  refine ⟨fun c => by simp only [laneEvent_stk, degraded_stk], fun opened => ?_, ?_⟩
  · rw [laneEvent_frame]
    exact degraded_comps (s := modLink s i d f) opened _ _
  · rw [laneEvent_frame, degraded_frame]
    rfl

/-! ### SPARE_SWITCH_IN (R424) -/

/-- The spare is in use in the LIFE body too (Table 15.8). -/
def spareLife (s : State) (i : Fin 24) (d : LinkDir) : State :=
  lifeSet s i.val (laneByte i.val (match d with | .read => 64 | .write => 97) + 14) 1 0

theorem spareSwitchIn_trained {s : State} {i : Fin 24} {d : LinkDir} {l : Nat} (trains : (s.stk[i].link d).training = some l) :
    spareSwitchIn i d s = laneEvent (modLink (spareLife s i d) i d
      (fun k => { k with spare := some l, training := none, erased := none })) i := by
  unfold spareSwitchIn
  rw [trains]
  rfl

/-! ### OPT_SPARE (R427) -/

theorem SpareFree.spareFree {d : LinkDir} {k : Link} (free : SpareFree d k) (full : k.mode = .full) (erased : k.erased = none) :
    spareFree d k = true := by
  obtain ⟨spare, trains, good⟩ := free
  simpa [Machine.spareFree, full, spare, trains, erased] using fun x mem (same : x = laneCount d) => good (same ▸ mem)

theorem spareFree_of_spare {d : LinkDir} {k : Link} (spare : k.spare.isSome = true) : spareFree d k = false := by
  simp [spareFree, Option.isSome_iff_ne_none.mp spare]

section OptSpare

variable {v : BitVec 32} (read : bitsAt v 31 1 = 0) (s : State) (i : Fin 24)
include read

theorem spareDir_read : spareDir v = .read := if_neg (by rw [read]; decide)

theorem spareWaits_read : spareWaits s i v = (spareFree .read s.stk[i].rd && krgFull s 3 i.val) := by
  have fits : bitsAt v 0 6 < laneCount .read := bitsAt_lt v 0 6
  unfold spareWaits
  rw [spareDir_read read, decide_eq_true fits, Bool.true_and]
  rfl

theorem optSpare_read : optSpare i v s = if spareFree .read s.stk[i].rd && krgFull s 3 i.val then s
    else if spareFree .read s.stk[i].rd then laneEvent (loseLane s i .read (bitsAt v 0 6) false) i
    else wfld s .optLane i.val 6 6 1 := by
  have fits : ¬ laneCount .read ≤ bitsAt v 0 6 := Nat.not_le.mpr (bitsAt_lt v 0 6)
  unfold optSpare
  dsimp only
  rw [spareDir_read read, spareWaits_read read]
  simp only [fits, false_or]
  rfl

end OptSpare

/-! ### LINK_RETRAIN_DONE (R425) -/

section Retrained

variable {s : State} {i : Fin 24} {d : LinkDir}

theorem linkRetrainDone_retrained (trained : (s.stk[i].link d).mode = .retraining) :
    linkRetrainDone i d s = laneEvent (modLink s i d (fun k => { k with mode := .half })) i := if_pos trained

theorem linkRetrainDone_none (other : (s.stk[i].link d).mode ≠ .retraining) : linkRetrainDone i d s = s := if_neg other

/-- With the data clocks running, what waited goes on with the link. -/
theorem exec_linkRetrainDone (clocks : clocked s = true) :
    exec (.linkRetrainDone i d) s = .next (serveHeld (linkRetrainDone i d s) i) :=
  congrArg Host.Outcome.next (if_pos clocks)

/-- A lane event moves no address. -/
theorem dpaStack_laneEvent_modLink (f : Link → Link) (a : Nat) : dpaStack (laneEvent (modLink s i d f) i) a = dpaStack s a := by
  obtain ⟨-, -, -, regs, -⟩ := laneEvent_modLink s i d f
  refine dpaStack_congr (fun j hj => regs.rreg ?_) a
  simpa using regAddr_ne (r := .stkChmap) (q := .optLane) nofun hj i.isLt

end Retrained

/-- Settles O45: a lane's failure, a spare that takes over and a link that goes on are each a change of one link and a lane event. -/
theorem lanesAreSparedOrNarrowed : Obligations.LanesAreSparedOrNarrowed := by
  unfold Obligations.LanesAreSparedOrNarrowed
  refine ⟨fun i lane s fits full carried healthy => ⟨fun erased spare trains good => ?readFree, fun erased enough => ?readNarrow⟩,
    fun i found s => ⟨fun few => ?frame, fun third nothing => ?frames⟩,
    fun i lane s fits full carried healthy => ⟨fun spare trains good => ?writeFree, fun spare enough => ?writeNarrow⟩,
    fun i d s l trains => ?switch,
    fun i d s clocks => ⟨fun trained => ?goesOn, fun other none_waits => ?stays⟩,
    fun i v s read full => ⟨fun spare trains erased good => ?spares, fun spare => ?refused⟩⟩
  case readFree =>
    have fails := laneFail_read_free fits healthy full carried erased ⟨spare, trains, good⟩
    obtain ⟨-, -, only, regs, frame⟩ := laneEvent_modLink (laneLife s i .read lane.val) i .read
      (fun k => (k.withFailed lane.val).erasing lane.val)
    have linked := modLink_read (laneLife s i .read lane.val) i (fun k => (k.withFailed lane.val).erasing lane.val)
    obtain ⟨state, shown⟩ := laneEvent_shows (by rw [linked]; exact full) (by rw [linked]; rfl) (by rw [linked]; rfl) fits
    refine ⟨_, congrArg Host.Outcome.next fails, ⟨_, laneEvent_modLink_read _ i _, full, rfl, rfl, spare, mem_insertNat _ _⟩,
      state, shown, only, regs, ?_⟩
    rw [frame]
    rfl
  case readNarrow =>
    have narrows : loseLane (laneCounted s i .read lane.val) i .read lane.val false =
        narrowLink (laneCounted s i .read lane.val) i .read :=
      loseLane_read_erased lane.val ((congrArg (·.erased.isSome) (link_laneCounted s i .read lane.val)).trans erased)
    have fails := laneFail_narrows (d := .read) fits healthy full carried narrows enough
    obtain ⟨stk, told, frame⟩ := laneEvent_narrowed (laneLife s i .read lane.val) i .read
      (fun k => (k.withFailed lane.val).retrained) (i.val + narrowAux .read)
    refine ⟨_, congrArg Host.Outcome.next fails, ⟨_, (stk i).trans (modLink_read _ i _), rfl, mem_insertNat _ _⟩,
      fun c other => (stk c).trans (modLink_onlyStack _ i _ _ c other), told, ?_⟩
    rw [frame]
    rfl
  case frame =>
    exact ⟨_, congrArg Host.Outcome.next (if_pos few), modStk_same s i _, modStk_onlyStack s i _, rfl⟩
  case frames =>
    have passes : writeLaneFail i (.frame found) s = modStk s i (fun k => { k with badFrames := 0 }) := by
      unfold writeLaneFail
      dsimp only
      rw [if_neg (Nat.not_lt.mpr third), nothing]
    exact ⟨_, congrArg Host.Outcome.next passes, modStk_same s i _, modStk_onlyStack s i _, rfl⟩
  case writeFree =>
    have fails := laneFail_write_free fits healthy full carried ⟨spare, trains, good⟩
    obtain ⟨-, -, only, -, frame⟩ := laneEvent_modLink (laneLife s i .write lane.val) i .write
      (fun k => (k.withFailed lane.val).trainingFor lane.val)
    refine ⟨_, congrArg Host.Outcome.next fails, ⟨_, laneEvent_modLink_write _ i _, full, rfl, spare⟩, only, ?_⟩
    rw [frame]
    rfl
  case writeNarrow =>
    have narrows : loseLane (laneCounted s i .write lane.val) i .write lane.val false =
        narrowLink (laneCounted s i .write lane.val) i .write :=
      loseLane_write_spared lane.val ((congrArg (·.spare.isSome) (link_laneCounted s i .write lane.val)).trans spare)
    have fails := laneFail_narrows (d := .write) fits healthy full carried narrows enough
    obtain ⟨stk, told, frame⟩ := laneEvent_narrowed (laneLife s i .write lane.val) i .write
      (fun k => (k.withFailed lane.val).retrained) (i.val + narrowAux .write)
    refine ⟨_, congrArg Host.Outcome.next fails, ⟨_, (stk i).trans (modLink_write _ i _), rfl⟩,
      fun c other => (stk c).trans (modLink_onlyStack _ i _ _ c other), told, ?_⟩
    rw [frame]
    rfl
  case switch =>
    have switched := spareSwitchIn_trained trains
    obtain ⟨link, others, only, -, frame⟩ := laneEvent_modLink (spareLife s i d) i d
      (fun k => { k with spare := some l, training := none, erased := none })
    refine ⟨_, congrArg Host.Outcome.next switched, link, others, only, ?_⟩
    rw [frame]
    rfl
  case goesOn =>
    have done := exec_linkRetrainDone (i := i) (d := d) clocks
    rw [linkRetrainDone_retrained trained] at done
    obtain ⟨link, others, only, -, frame⟩ := laneEvent_modLink s i d (fun k => { k with mode := .half })
    have place := dpaStack_laneEvent_modLink (s := s) (i := i) (d := d) (fun k => { k with mode := .half })
    generalize laneEvent (modLink s i d (fun k => { k with mode := .half })) i = u at *
    have mem : u.mem = s.mem := by rw [frame]
    obtain ⟨links, only'⟩ := serveHeld_links u i
    refine ⟨_, done, (links d).trans link, fun d' other => (links d').trans (others d' other), only.trans only',
      (serveHeld_bytes u i).trans (by rw [mem]), fun ready r waits => ?_, fun none_waits => ?_⟩
    · have free : stackHeld u.stk[i] = false := (stackHeld_eq_false_iff _).mpr fun e => by
        by_cases same : e = d
        · rw [same, link]
          nofun
        · rw [others e same]
          exact ready e same
      rw [← place]
      exact serveHeld_none_waits free waits
    · rw [serveHeld_idle fun r waits => by rw [place]; exact none_waits r (mem ▸ waits)]
      exact frame
  case stays =>
    rw [exec_linkRetrainDone clocks, linkRetrainDone_none other, serveHeld_idle none_waits]
  case spares =>
    have there : SpareFree .read s.stk[i].rd := ⟨spare, trains, good⟩
    have moves := optSpare_read read s i
    rw [there.spareFree full erased, Bool.true_and] at moves
    refine ⟨fun noPlace => ?_, fun place => ?_⟩
    · exact congrArg Host.Outcome.next (moves.trans (if_pos noPlace))
    · rw [place, if_neg (by decide), if_pos rfl, loseLane_read_free _ erased there] at moves
      obtain ⟨link, others, only, -, frame⟩ := laneEvent_modLink s i .read (Link.erasing (bitsAt v 0 6))
      exact ⟨_, congrArg Host.Outcome.next moves, link, others .write nofun, only, frame⟩
  case refused =>
    have refuses := optSpare_read read s i
    rw [spareFree_of_spare spare, Bool.false_and, if_neg (by decide), if_neg (by decide)] at refuses
    exact ⟨_, congrArg Host.Outcome.next refuses, rfld_wfld_same s .optLane i.val 1 (by decide),
      wfld_regsBut s .optLane i.val 6 6 1, rfl⟩

end Sys2Proof.Machine
end

section
/-! SUPPORT. What the two invariants of every step speak of, the bytes of device memory and the fuses, and what leaves both alone. -/

namespace Sys2Proof.Machine

/-- The part of the state that the invariants of every step speak of. -/
def State.kept (s : State) : Store 8 × Fuses := (s.mem.bytes, s.fuses)

theorem kept_eq {s t : State} (mem : t.mem.bytes = s.mem.bytes) (fuses : t.fuses = s.fuses) : t.kept = s.kept := by
  rw [State.kept, State.kept, mem, fuses]

theorem fuses_of_kept {s t : State} (h : t.kept = s.kept) : t.fuses = s.fuses := congrArg Prod.snd h

/-- A change of other fields leaves it alone. -/
@[simp] theorem kept_mk (s : State) (regs shadow cyc dtc blocks regions halves stk hinge launches barriers flagReqs comps rings net
    flash krg lkp hlt power i3c jtag dtcPs ctxs sessions freeCtr lastRead pending) :
    (State.mk regs shadow cyc dtc blocks regions halves s.mem stk hinge launches barriers flagReqs comps rings net flash s.fuses krg
      lkp hlt power i3c jtag dtcPs ctxs sessions freeCtr lastRead pending).kept = s.kept := rfl

/-- So does a change of what memory holds beside its bytes. -/
@[simp] theorem kept_mk_mem (s : State) (regs shadow cyc dtc blocks regions halves stk hinge launches barriers flagReqs comps rings
    net flash krg lkp hlt power i3c jtag dtcPs ctxs sessions freeCtr lastRead pending poison damaged stores rereads held wq) :
    (State.mk regs shadow cyc dtc blocks regions halves ⟨s.mem.bytes, poison, damaged, stores, rereads, held, wq⟩ stk hinge launches
      barriers flagReqs comps rings net flash s.fuses krg lkp hlt power i3c jtag dtcPs ctxs sessions freeCtr lastRead pending).kept =
      s.kept := rfl

theorem kept_ite (c : Prop) [Decidable c] (s t : State) : (if c then s else t).kept = if c then s.kept else t.kept := apply_ite _ _ _ _

/-- Steps over a list that each leave it alone. -/
@[simp] theorem kept_foldl {α : Type} (f : State → α → State) (l : List α) (s : State) (h : ∀ s x, (f s x).kept = s.kept) :
    (l.foldl f s).kept = s.kept := by
  induction l generalizing s with
  | nil => rfl
  | cons x l ih => rw [List.foldl_cons, ih, h]

/-- The canonical form stays, and no fuse returns. -/
def Grows (x y : Store 8 × Fuses) : Prop :=
  (swf zeroFill x.1 = true → swf zeroFill y.1 = true) ∧ x.2.svn ≤ y.2.svn ∧ x.2.epoch ≤ y.2.epoch

theorem Grows.refl (x : Store 8 × Fuses) : Grows x x := ⟨id, le_rfl, le_rfl⟩

theorem Grows.trans {x y z : Store 8 × Fuses} (h : Grows x y) (k : Grows y z) : Grows x z := by
  obtain ⟨wf, svn, epoch⟩ := h
  obtain ⟨wf', svn', epoch'⟩ := k
  exact ⟨wf' ∘ wf, svn.trans svn', epoch.trans epoch'⟩

theorem Grows.of_fuses {s t : State} (wf : Memory.wf s.mem = true → Memory.wf t.mem = true) (fuses : t.fuses = s.fuses) :
    Grows s.kept t.kept :=
  ⟨wf, (congrArg Fuses.svn fuses).ge, (congrArg Fuses.epoch fuses).ge⟩

theorem Grows.of_mem {s t : State} (bytes : t.mem.bytes = s.mem.bytes) (fuses : fusesKept s t) : Grows s.kept t.kept :=
  ⟨fun wf => (congrArg (swf zeroFill) bytes).trans wf, fuses⟩

theorem grows_foldl {α : Type} {x : Store 8 × Fuses} (f : State → α → State) (l : List α) {s : State}
    (step : ∀ t a, Grows x t.kept → Grows x (f t a).kept) (h : Grows x s.kept) : Grows x (l.foldl f s).kept := by
  induction l generalizing s with
  | nil => exact h
  | cons a l ih => exact ih (step s a h)

end Sys2Proof.Machine
end

section
/-! SUPPORT. The array, its spaces and the sequencers leave the bytes of memory and the fuses alone. -/

namespace Sys2Proof.Machine

/-! ### Blocks, registers, launches and events -/

@[simp] theorem modBlk_kept (s : State) (b : Fin 48) (f : Block → Block) : (modBlk s b f).kept = s.kept := kept_eq rfl rfl

@[simp] theorem modRgn_kept (s : State) (r : Fin 8) (f : Region → Region) : (modRgn s r f).kept = s.kept := kept_eq rfl rfl

@[simp] theorem modHalf_kept (s : State) (h : Fin 2) (f : Half → Half) : (modHalf s h f).kept = s.kept := kept_eq rfl rfl

@[simp] theorem wreg_kept (s : State) (r : Reg) (i : Nat) (v : Word) : (wreg s r i v).kept = s.kept := kept_eq rfl rfl

@[simp] theorem wshadow_kept (s : State) (r : Reg) (i : Nat) (v : Word) : (wshadow s r i v).kept = s.kept := kept_eq rfl rfl

@[simp] theorem wfld_kept (s : State) (r : Reg) (i hi lo v : Nat) : (wfld s r i hi lo v).kept = s.kept := kept_eq rfl rfl

@[simp] theorem cfld_kept (s : State) (r : Reg) (i hi lo n : Nat) : (cfld s r i hi lo n).kept = s.kept := kept_eq rfl rfl

theorem memPut_grows {x : Store 8 × Fuses} {s : State} (a : Nat) (bs : List Byte) (h : Grows x s.kept) :
    Grows x (memPut s a bs).kept :=
  h.trans (.of_fuses (memPut_wf s a bs) rfl)

@[simp] theorem damage_kept (s : State) (a : Nat) : (damage s a).kept = s.kept := by
  unfold damage
  split <;> simp

@[simp] theorem issue_kept (s : State) (src : WaitUnit) (lid : BitVec 32) (a : Nat) (bs : List (Byte × Byte)) (idx : Nat) :
    (issue s src lid a bs idx).kept = s.kept := kept_eq rfl rfl

@[simp] theorem hingeSend_kept (s : State) (half cls : Nat) : (hingeSend s half cls).kept = s.kept := kept_eq rfl rfl

@[simp] theorem modLaunch_kept (s : State) (lid : BitVec 32) (f : Launch → Launch) : (modLaunch s lid f).kept = s.kept :=
  kept_eq rfl rfl

@[simp] theorem post_kept (s : State) (c : Completion) : (post s c).kept = s.kept := kept_eq rfl rfl

@[simp] theorem modRing_kept (s : State) (i : Nat) (f : Ring → Ring) : (modRing s i f).kept = s.kept := kept_eq rfl rfl

@[simp] theorem postEvent_kept (s : State) (ring code : Nat) (lid : Word) (aux2 : Nat) (data : List Byte) :
    (postEvent s ring code lid aux2 data).kept = s.kept := by
  unfold postEvent
  (repeat' split) <;> simp

@[simp] theorem reportEvent_kept (s : State) (code : Nat) (lid : Word) (aux2 : Nat) :
    (reportEvent s code lid aux2).kept = s.kept := by simp [reportEvent]

@[simp] theorem finishBy_kept (drop : List OutCmd → List OutCmd) (s : State) (c : Completion) :
    (finishBy drop s c).kept = s.kept := by rw [finishBy_frame]; simp

@[simp] theorem finishCmd_kept (op : Nat) (s : State) (c : Completion) : (finishCmd op s c).kept = s.kept := by simp [finishCmd]

@[simp] theorem finishNow_kept (s : State) (c : Completion) : (finishNow s c).kept = s.kept := by simp [finishNow]

@[simp] theorem setEvt_kept (s : State) (bit : Nat) : (setEvt s bit).kept = s.kept := kept_eq rfl rfl

@[simp] theorem haltLaunch_kept (s : State) (lid : BitVec 32) (code : Nat) (h : HaltAt) :
    (haltLaunch s lid code h).kept = s.kept := by
  unfold haltLaunch
  (repeat' split) <;> simp

@[simp] theorem degraded_kept (s : State) (code aux2 : Nat) : (degraded s code aux2).kept = s.kept := by simp [degraded]

@[simp] theorem krgReq_kept (s : State) (idx : Nat) (body : KBody) : (krgReq s idx body).kept = s.kept := by
  unfold krgReq
  dsimp only
  split <;> simp

@[simp] theorem stopBlk_kept (s : State) (b : Fin 48) : (stopBlk s b).kept = s.kept := kept_eq rfl rfl

@[simp] theorem askHalt_kept (s : State) (q : Asker) (code stack reg : Nat) : (askHalt s q code stack reg).kept = s.kept := by
  unfold askHalt
  split <;> simp

@[simp] theorem blkHalt_kept (s : State) (b : Fin 48) (code idx r : Nat) (more : List Byte) :
    (blkHalt s b code idx r more).kept = s.kept := by
  unfold blkHalt
  split <;> simp

@[simp] theorem drawBytes_kept (s : State) (n : Nat) : (drawBytes s n).2.kept = s.kept := kept_eq rfl rfl

theorem LaneChange.kept {s t : State} (h : LaneChange s t) : t.kept = s.kept :=
  kept_eq (by rw [h.mem]) (by rw [show t = _ from h])

theorem Told.kept {s t : State} (h : Told s t) : t.kept = s.kept := h.lane.kept

@[simp] theorem drawWord_kept (s : State) : (drawWord s).2.kept = s.kept := kept_eq rfl rfl

@[simp] theorem junkBank_kept (s : State) (b : Fin 48) (i : Nat) : (junkBank s b i).kept = s.kept := kept_eq rfl rfl

@[simp] theorem scratchPut_kept (s : State) (b : Fin 48) (a : Nat) (bs : List Byte) : (scratchPut s b a bs).kept = s.kept :=
  kept_eq rfl rfl

@[simp] theorem junkSlot_kept (s : State) (b : Fin 48) (slot : Nat) : (junkSlot s b slot).kept = s.kept := kept_eq rfl rfl

/-! ### Compressed views -/

@[simp] theorem frcRecord_kept (s : State) (src why win : Nat) : (frcRecord s src why win).kept = s.kept := kept_eq rfl rfl

/-! ### LIFE bodies -/

@[simp] theorem lifeSet_kept (s : State) (i b n v : Nat) : (lifeSet s i b n v).kept = s.kept := kept_eq rfl rfl

@[simp] theorem lifeAdd_kept (s : State) (i b n k : Nat) : (lifeAdd s i b n k).kept = s.kept := kept_eq rfl rfl

@[simp] theorem corrected_kept (s : State) (st n : Nat) : (corrected s st n).kept = s.kept := kept_eq rfl rfl

/-! ### Storage spaces and rows -/

@[simp] theorem logMem_kept (s : State) (a code : Nat) : (logMem s a code).kept = s.kept := by
  unfold logMem
  split <;> simp

@[simp] theorem dirtyLines_kept (s : State) (a n : Nat) : (dirtyLines s a n).kept = s.kept := by
  unfold dirtyLines
  split <;> simp

@[simp] theorem enterQueue_kept (s : State) (a : Nat) (lids : List (BitVec 32)) : (enterQueue s a lids).kept = s.kept :=
  kept_eq rfl rfl

theorem acceptMem_fuses (s : State) (a : Nat) (bs : List Byte) (job : Nat) : (acceptMem s a bs job).fuses = s.fuses := by
  rw [acceptMem_frame]

theorem putBurst_fuses (q : WaitUnit) (lid : BitVec 32) (s : State) (c : Nat × List (Byte × Byte)) :
    (putBurst q lid s c).fuses = s.fuses := by
  unfold putBurst
  split
  · exact fuses_of_kept (logMem_kept _ _ _)
  · split
    · exact acceptMem_fuses _ _ _ _
    · exact fuses_of_kept (issue_kept _ _ _ _ _ _)

theorem putMem_fuses (s : State) (a : Nat) (bs : List Byte) (q : WaitUnit) (lid : BitVec 32) (job : Nat) :
    (putMem s a bs q lid job).fuses = s.fuses := by
  have bursts (l : List (Nat × List (Byte × Byte))) (u : State) : (l.foldl (putBurst q lid) u).fuses = u.fuses := by
    induction l generalizing u with
    | nil => rfl
    | cons c l ih => rw [List.foldl_cons, ih, putBurst_fuses]
  unfold putMem
  split
  · exact acceptMem_fuses _ _ _ _
  · exact bursts _ _

theorem putMem_grows {x : Store 8 × Fuses} {s : State} (a : Nat) (bs : List Byte) (q : WaitUnit) (lid : BitVec 32) (job : Nat)
    (h : Grows x s.kept) : Grows x (putMem s a bs q lid job).kept :=
  h.trans (.of_fuses (putMem_wf s a bs q lid job) (putMem_fuses s a bs q lid job))

@[simp] theorem crossSend_kept (s : State) (half a : Nat) : (crossSend s half a).kept = s.kept := by
  unfold crossSend
  split <;> simp

@[simp] theorem blkMemStop_kept (s : State) (b : Fin 48) (idx : Nat) (bad : Nat × Bool) :
    (blkMemStop s b idx bad).kept = s.kept := by
  unfold blkMemStop
  split <;> simp

@[simp] theorem blkMemHalt_kept (s : State) (b : Fin 48) (idx : Nat) (bad : Nat × Bool) :
    (blkMemHalt s b idx bad).kept = s.kept := by simp [blkMemHalt]

/-! ### Drains and rescales -/

@[simp] theorem retire_kept (s : State) (b : Fin 48) (u : BUnit) : (retire s b u).kept = s.kept := kept_eq rfl rfl

@[simp] theorem begin_kept (s : State) (b : Fin 48) (u : BUnit) : (begin_ s b u).kept = s.kept := kept_eq rfl rfl

@[simp] theorem countNoop_kept (s : State) (b : Fin 48) : (countNoop s b).kept = s.kept := kept_eq rfl rfl

@[simp] theorem countEcc_kept (s : State) (b : Fin 48) (store : Nat) : (countEcc s b store).kept = s.kept := kept_eq rfl rfl

@[simp] theorem bufUncorr_kept (s : State) (b : Fin 48) (idx store : Nat) : (bufUncorr s b idx store).kept = s.kept := by
  simp [bufUncorr]

@[simp] theorem withUpset_kept (s : State) (b : Fin 48) (idx : Nat) (u : Upset) (k : State → State) (h : ∀ t, (k t).kept = t.kept) :
    (withUpset s b idx u k).kept = s.kept := by
  unfold withUpset
  (repeat' split) <;> simp [h]

@[simp] theorem putRowState_kept (s : State) (b : Fin 48) (a i : Nat) (m l al : Word) :
    (putRowState s b a i m l al).kept = s.kept := kept_eq rfl rfl

@[simp] theorem softmaxStage_kept (b : Fin 48) (first : Bool) (area valid : Nat) (rs : List (List Word)) (s : State) (i : Nat) :
    (softmaxStage s b first area valid rs i).1.kept = s.kept := by
  induction rs generalizing s i with
  | nil => rfl
  | cons r rs ih => exact (ih _ _).trans (putRowState_kept _ _ _ _ _ _ _)

@[simp] theorem putStats_kept (s : State) (b : Fin 48) (merge : Bool) (a : Nat) (r : Word × Word × Nat × Nat) :
    (putStats s b merge a r).kept = s.kept := kept_eq rfl rfl

@[simp] theorem runStage_kept (l : Launch) (b : Fin 48) (d : BitVec 512) (vn : Nat) (s : State) (c : ChainSt) (t : Stage) :
    (runStage l b d vn s c t).1.kept = s.kept := by
  unfold runStage
  dsimp only
  (repeat' split) <;> simp

@[simp] theorem spPut_kept (s : State) (b : Fin 48) (sp : Space) (a : Nat) (bs : List (Byte × Byte)) :
    (spPut s b sp a bs).kept = s.kept := by
  unfold spPut
  split <;> simp

@[simp] theorem drain_kept (s : State) (b : Fin 48) (l : Launch) (d : BitVec 512) : (drain s b l d).kept = s.kept := by
  have stages (ts : List Stage) (n : Nat) (a : State × ChainSt) :
      (ts.foldl (fun a t => runStage l b d n a.1 a.2 t) a).1.kept = a.1.kept := by
    induction ts generalizing a with
    | nil => rfl
    | cons t ts ih => rw [List.foldl_cons, ih, runStage_kept]
  unfold drain
  dsimp only
  split
  · exact stages _ _ _
  · refine (kept_foldl _ _ _ fun s x => ?_).trans (stages _ _ _)
    split <;> simp

@[simp] theorem rescale_kept (s : State) (b : Fin 48) (d : BitVec 512) : (rescale s b d).kept = s.kept := by
  unfold rescale
  refine kept_foldl _ _ _ fun s i => ?_
  dsimp only
  split <;> simp

/-! ### Configuration groups -/

@[simp] theorem setCommit_kept (s : State) (g : Group) (hi lo v : Nat) : (setCommit s g hi lo v).kept = s.kept := kept_eq rfl rfl

@[simp] theorem copyBack_kept (s : State) (g : Group) : (copyBack s g).kept = s.kept := by simp [copyBack]

@[simp] theorem copyOver_kept (s : State) (g : Group) : (copyOver s g).kept = s.kept := by rw [copyOver_frame]; simp

@[simp] theorem commitRequest_kept (g : Group) (s : State) : (commitRequest g s).kept = s.kept := by
  unfold commitRequest
  split <;> simp

@[simp] theorem discard_kept (g : Group) (s : State) : (discard g s).kept = s.kept := by
  unfold discard
  split <;> simp

@[simp] theorem endBindings_kept (s : State) : (endBindings s).kept = s.kept := kept_eq rfl rfl

@[simp] theorem applyGroup_kept (s : State) (g : Group) : (applyGroup s g).kept = s.kept := by
  unfold applyGroup
  split <;> simp

@[simp] theorem rejectGroup_kept (s : State) (g : Group) (why : Nat) : (rejectGroup s g why).kept = s.kept := kept_eq rfl rfl

@[simp] theorem configApply_kept (g : Group) (s : State) : (configApply g s).kept = s.kept := by
  unfold configApply
  dsimp only
  (repeat' split) <;> simp

@[simp] theorem resetGroups_kept (s : State) (gs : List Group) : (resetGroups s gs).kept = s.kept := by simp [resetGroups]

@[simp] theorem scrubGroup_kept (s : State) (g : Group) : (scrubGroup s g).kept = s.kept := by simp [scrubGroup]

/-! ### Array instructions -/

@[simp] theorem junkTree_kept (s : State) (b : Fin 48) (d : BitVec 512) : (junkTree s b d).kept = s.kept := by simp [junkTree]

@[simp] theorem junkStreamed_kept (s : State) (b : Fin 48) (d : BitVec 512) : (junkStreamed s b d).kept = s.kept := by simp [junkStreamed]

@[simp] theorem zeroSlot_kept (s : State) (b : Fin 48) (d : BitVec 512) : (zeroSlot s b d).kept = s.kept := kept_eq rfl rfl

@[simp] theorem arrayZero_kept (s : State) (b : Fin 48) (d : BitVec 512) (x : Nat × Nat × Nat) :
    (arrayZero s b d x).kept = s.kept := by
  unfold arrayZero
  (repeat' split) <;> simp

@[simp] theorem startArray_kept (op : Nat) (b : Fin 48) (u : Upset) (s : State) : (startArray op b u s).kept = s.kept := by
  unfold startArray
  split
  · rfl
  · split
    · rfl
    · refine (withUpset_kept _ _ _ _ _ fun t => ?_).trans (configApply_kept _ _)
      dsimp only
      split
      · simp
      · split <;> simp

@[simp] theorem chunkComplete_kept (b : Fin 48) (s : State) : (chunkComplete b s).kept = s.kept := by
  unfold chunkComplete
  dsimp only
  (repeat' split) <;> simp

@[simp] theorem finishScore_kept (s : State) (b : Fin 48) (l : Launch) (j : ArrayJob) (elts : List Word) :
    (finishScore s b l j elts).kept = s.kept :=
  (kept_foldl _ _ _ fun _ _ => by simp).trans (softmaxStage_kept _ _ _ _ _ _ _)

@[simp] theorem finishFold_kept (s : State) (b : Fin 48) (j : ArrayJob) (elts : List Word) :
    (finishFold s b j elts).kept = s.kept := kept_eq rfl rfl

@[simp] theorem finishJob_kept (s : State) (b : Fin 48) (l : Launch) (j : ArrayJob) : (finishJob s b l j).kept = s.kept := by
  unfold finishJob
  dsimp only
  split <;> simp

@[simp] theorem logMismatch_kept (s : State) (b : Fin 48) (j : ArrayJob) (pair : Nat) (w : WardResult) (attempts : Nat) :
    (logMismatch s b j pair w attempts).kept = s.kept := kept_eq rfl rfl

@[simp] theorem countReplay_kept (s : State) (b : Fin 48) : (countReplay s b).kept = s.kept := by
  unfold countReplay
  dsimp only
  (repeat' split) <;> simp

@[simp] theorem wardPersist_kept (s : State) (b : Fin 48) (j : ArrayJob) : (wardPersist s b j).kept = s.kept := by simp [wardPersist]

@[simp] theorem pairDrain_kept (b : Fin 48) (u : DrainUpset) (s : State) : (pairDrain b u s).kept = s.kept := by
  unfold pairDrain
  dsimp only
  (repeat' split) <;> simp

@[simp] theorem wardReplay_kept (b : Fin 48) (s : State) : (wardReplay b s).kept = s.kept := by
  unfold wardReplay
  dsimp only
  (repeat' split) <;> simp

/-! ### Pages and the region caches -/

@[simp] theorem cnpFault_kept (s : State) (b : Fin 48) (code entry idx : Nat) : (cnpFault s b code entry idx).kept = s.kept := by
  simp [cnpFault]

@[simp] theorem loadArea_kept (s : State) (b : Fin 48) (l : Launch) (d : BitVec 512) (e : BitVec 256) :
    (loadArea s b l d e).kept = s.kept := by
  unfold loadArea
  dsimp only
  split <;> simp

@[simp] theorem withEntry_kept (op : Nat) (b : Fin 48) (u : Upset) (s : State) (l : Launch) (e : UEntry) (ent : BitVec 256) :
    (withEntry op b u s l e ent).kept = s.kept := by
  unfold withEntry
  dsimp only
  (repeat' split) <;> simp

@[simp] theorem pageMiss_kept (s : State) (b : Fin 48) (l : Launch) (n : Nat) : (pageMiss s b l n).kept = s.kept :=
  kept_eq rfl rfl

@[simp] theorem resolvePage_kept (op : Nat) (b : Fin 48) (u : Upset) (s : State) (l : Launch) (e : UEntry) :
    (resolvePage op b u s l e).kept = s.kept := by
  unfold resolvePage
  dsimp only
  (repeat' split) <;> simp

@[simp] theorem startAttention_kept (op : Nat) (b : Fin 48) (u : Upset) (s : State) : (startAttention op b u s).kept = s.kept := by
  unfold startAttention
  dsimp only
  (repeat' split) <;> simp

@[simp] theorem cacheFill_kept (r : Fin 8) (u : Upset) (s : State) : (cacheFill r u s).kept = s.kept := by
  unfold cacheFill
  dsimp only
  (repeat' split) <;> simp

@[simp] theorem addInv_kept (s : State) (e : Option Nat) : (addInv s e).kept = s.kept := kept_eq rfl rfl

@[simp] theorem invAll_kept (s : State) : (invAll s).kept = s.kept := kept_eq rfl rfl

@[simp] theorem cnpInvApply_kept (r : Fin 8) (s : State) : (cnpInvApply r s).kept = s.kept := by
  unfold cnpInvApply
  split <;> simp

@[simp] theorem bucketSort_kept (r : Fin 8) (s : State) : (bucketSort r s).kept = s.kept := by
  unfold bucketSort
  dsimp only
  (repeat' split) <;> simp

/-! ### List engines -/

@[simp] theorem modRun_kept (s : State) (q : WaitUnit) (f : ListRun → ListRun) : (modRun s q f).kept = s.kept := by
  unfold modRun
  split <;> simp

@[simp] theorem nextEntry_kept (s : State) (q : WaitUnit) : (nextEntry s q).kept = s.kept := by simp [nextEntry]

@[simp] theorem nextPart_kept (s : State) (q : WaitUnit) : (nextPart s q).kept = s.kept := by simp [nextPart]

@[simp] theorem unitHalt_kept (s : State) (q : WaitUnit) (lid : BitVec 32) (code idx reg : Nat) (more : List Byte) :
    (unitHalt s q lid code idx reg more).kept = s.kept := by
  unfold unitHalt
  split <;> simp

@[simp] theorem unitMemHalt_kept (s : State) (q : WaitUnit) (lid : BitVec 32) (idx : Nat) (bad : Nat × Bool) :
    (unitMemHalt s q lid idx bad).kept = s.kept := by simp [unitMemHalt]

theorem unitUpset_ind {P : State → Prop} (s : State) (q : WaitUnit) (mine : Nat → Bool) (u : Upset) (k : State → State)
    (stays : ∀ t, t.kept = s.kept → P t) (runs : ∀ t, t.kept = s.kept → P (k t)) : P (unitUpset s q mine u k) := by
  unfold unitUpset
  split
  · exact runs _ rfl
  · split
    · exact stays _ (unitHalt_kept _ _ _ _ _ _ _)
    · exact stays _ (unitHalt_kept _ _ _ _ _ _ _)
    · exact runs _ (cfld_kept _ _ _ _ _ _)
    · exact runs _ (cfld_kept _ _ _ _ _ _)
    · exact runs _ (damage_kept _ _)
    · exact runs _ rfl

@[simp] theorem unitUpset_kept (s : State) (q : WaitUnit) (mine : Nat → Bool) (u : Upset) (k : State → State) (h : ∀ t, (k t).kept = t.kept) :
    (unitUpset s q mine u k).kept = s.kept :=
  unitUpset_ind s q mine u k (fun _ stays => stays) fun t same => (h t).trans same

@[simp] theorem writeSp_kept (s : State) (q : WaitUnit) (lid : BitVec 32) (r : Fin 8) (sp : Space) (a : Nat) (bs : List (Byte × Byte)) :
    (writeSp s q lid r sp a bs).kept = s.kept := by
  unfold writeSp
  split <;> simp

@[simp] theorem flagFault_kept (s : State) (q : WaitUnit) (lid : BitVec 32) (idx code : Nat) (rgn : Fin 8) (f : Fin 64) (more : List Byte) :
    (flagFault s q lid idx code rgn f more).kept = s.kept := by simp [flagFault]

@[simp] theorem askFlag_kept (s : State) (q : WaitUnit) (lid : BitVec 32) (idx : Nat) (rgn : Fin 8) (f : Fin 64) (n : Nat) :
    (askFlag s q lid idx rgn f n).kept = s.kept := kept_eq rfl rfl

@[simp] theorem noteReady_kept (s : State) (r : Fin 8) : (noteReady s r).kept = s.kept := by
  unfold noteReady
  dsimp only
  split <;> simp

@[simp] theorem beginWait_kept (s : State) (q : WaitUnit) (l : Launch) (rgn : Fin 8) (f : Fin 64) (target : Nat) :
    (beginWait s q l rgn f target).kept = s.kept := by simp [beginWait]

@[simp] theorem endWait_kept (s : State) (q : WaitUnit) : (endWait s q).kept = s.kept := by
  unfold endWait
  dsimp only
  (repeat' split) <;> simp

/-! ### Loads, stores and broadcasts -/

@[simp] theorem putRows_kept (s : State) (b : Fin 48) (sp : Space) : (putRows s b sp rows).kept = s.kept := by simp [putRows]

@[simp] theorem joinBcast_kept (s : State) (b : Fin 48) (l : Launch) (d : BitVec 512) : (joinBcast s b l d).kept = s.kept :=
  kept_eq rfl rfl

@[simp] theorem deliver_kept (s : State) (r : Fin 8) (d : BitVec 512) (j : Fin 6) : (deliver s r d rows j).kept = s.kept := by
  simp [deliver]

@[simp] theorem deliverHosted_kept (s : State) (r : Fin 8) (c : Bcast) : (deliverHosted s r c rows).1.kept = s.kept := by
  simp [deliverHosted]

@[simp] theorem deliverAll_kept (s : State) (r : Fin 8) : (deliverAll s r).kept = s.kept := by
  unfold deliverAll
  dsimp only
  rw [modRgn_kept]
  generalize (s.regions[r]).bcasts = cs
  suffices h : ∀ a : State × List Bcast, (cs.foldl _ a).1.kept = a.1.kept from h (s, [])
  induction cs with
  | nil => exact fun a => rfl
  | cons c cs ih =>
    intro a
    rw [List.foldl_cons, ih]
    split <;> simp

@[simp] theorem bcastSend_kept (r : Fin 8) (u : Upset) (s : State) : (bcastSend r u s).kept = s.kept := by
  unfold bcastSend
  split
  · rfl
  · split
    · rfl
    · dsimp only
      split
      · rfl
      · refine withUpset_kept _ _ _ _ _ fun t => ?_
        split <;> simp

@[simp] theorem recordTfault_kept (s : State) (b : Fin 48) (code off aux idx : Nat) :
    (recordTfault s b code off aux idx).kept = s.kept := kept_eq rfl rfl

@[simp] theorem bcastTimeout_kept (r : Fin 8) (s : State) : (bcastTimeout r s).kept = s.kept := by
  unfold bcastTimeout
  dsimp only
  split <;> simp

@[simp] theorem storeRow_kept (s : State) (b : Fin 48) (lid : BitVec 32) (idx : Nat) (f : Fmt) (a : Nat) (codes : List Nat) :
    (storeRow s b lid idx f a codes).kept = s.kept := by
  unfold storeRow
  split
  · simp
  · split
    · rfl
    · simp [kept_ite]

@[simp] theorem storeTile_kept (s : State) (b : Fin 48) (l : Launch) (idx : Nat) (d : BitVec 512) : (storeTile s b l idx d).kept = s.kept := by
  unfold storeTile
  refine kept_foldl _ _ _ fun s i => ?_
  dsimp only
  split <;> simp [kept_ite]

/-! ### Sequencers -/

@[simp] theorem fetchLog_kept (s : State) (b : Fin 48) (l : Launch) (i : Nat) : (fetchLog s b l i).kept = s.kept := by
  unfold fetchLog
  dsimp only
  split <;> simp

@[simp] theorem tileFault_kept (s : State) (b : Fin 48) (code off aux idx : Nat) :
    (tileFault s b code off aux idx).kept = s.kept := by simp [tileFault]

@[simp] theorem frcFault_kept (s : State) (b : Fin 48) (why win idx : Nat) : (frcFault s b why win idx).kept = s.kept := by
  simp [frcFault]

@[simp] theorem enqueue_kept (s : State) (b : Fin 48) (l : Launch) (e : IqEntry) (u : BUnit) :
    (enqueue s b l e u).kept = s.kept := kept_eq rfl rfl

@[simp] theorem dispatch_kept (b : Fin 48) (s : State) : (dispatch b s).kept = s.kept := by
  unfold dispatch
  dsimp only
  (repeat' split) <;> simp

/-! ### Flags and barriers -/

@[simp] theorem flagAdd_kept (s : State) (q : FlagReq) : (flagAdd s q).kept = s.kept := by
  unfold flagAdd
  dsimp only
  split <;> simp

@[simp] theorem flagIncrement_kept (k : Nat) (s : State) : (flagIncrement k s).kept = s.kept := by
  unfold flagIncrement
  (repeat' split) <;> simp

@[simp] theorem flagTimeout_kept (q : WaitUnit) (s : State) : (flagTimeout q s).kept = s.kept := by
  unfold flagTimeout
  dsimp only
  (repeat' split) <;> simp

@[simp] theorem setBarrier_kept (s : State) (i : Fin 32) (lid : BitVec 32) (x : Option Barrier) :
    (setBarrier s i lid x).kept = s.kept := kept_eq rfl rfl

@[simp] theorem sendControl_kept (s : State) (half : Nat) (crosses : Bool) : (sendControl s half crosses).kept = s.kept := by
  unfold sendControl
  split <;> simp

@[simp] theorem barrierArrive_kept (b : Fin 48) (s : State) : (barrierArrive b s).kept = s.kept := by
  unfold barrierArrive
  dsimp only
  (repeat' split) <;> simp

@[simp] theorem leave_kept (s : State) (i : Fin 32) (b : Fin 48) : (leave s i b).kept = s.kept := by
  unfold leave
  split <;> simp

@[simp] theorem barrierRelease_kept (i : Fin 32) (s : State) : (barrierRelease i s).kept = s.kept := by
  unfold barrierRelease
  split <;> simp

@[simp] theorem barrierTimeout_kept (i : Fin 32) (s : State) : (barrierTimeout i s).kept = s.kept := by
  unfold barrierTimeout
  split <;> simp

/-! ### Ends of launches -/

@[simp] theorem release_kept (s : State) (lid : BitVec 32) : (release s lid).kept = s.kept := kept_eq rfl rfl

@[simp] theorem endLaunch_kept (s : State) (l : Launch) (kind code : Nat) : (endLaunch s l kind code).kept = s.kept := by
  unfold endLaunch
  (repeat' split) <;> simp

@[simp] theorem abortAll_kept (s : State) : (abortAll s).kept = s.kept := by simp [abortAll]

end Sys2Proof.Machine
end

section
/-! SUPPORT. Stacks, memory, images of launches and rings: what leaves bytes and fuses alone, and what only keeps the canonical form. -/

namespace Sys2Proof.Machine

/-! ### Stacks and lanes -/

@[simp] theorem modStk_kept (s : State) (i : Fin 24) (f : Stack → Stack) : (modStk s i f).kept = s.kept := kept_eq rfl rfl

@[simp] theorem stackHot_kept (s : State) (i : Fin 24) : (stackHot s i).kept = s.kept := by simp [stackHot]

@[simp] theorem stackTempSample_kept (i : Fin 24) (t : Int) (s : State) : (stackTempSample i t s).kept = s.kept := by
  unfold stackTempSample
  dsimp only
  split <;> simp

@[simp] theorem stackSensorFail_kept (i : Fin 24) (s : State) : (stackSensorFail i s).kept = s.kept := by
  unfold stackSensorFail
  dsimp only
  split <;> simp

@[simp] theorem showLanes_kept (s : State) (i : Fin 24) : (showLanes s i).kept = s.kept := kept_eq rfl rfl

@[simp] theorem laneEvent_kept (s : State) (i : Fin 24) : (laneEvent s i).kept = s.kept := by simp [laneEvent]

@[simp] theorem modLink_kept (s : State) (i : Fin 24) (d : LinkDir) (f : Link → Link) : (modLink s i d f).kept = s.kept :=
  kept_eq rfl rfl

@[simp] theorem linkNarrow_kept (s : State) (i : Fin 24) (d : LinkDir) : (linkNarrow s i d).kept = s.kept := by simp [linkNarrow]

@[simp] theorem reportUnhalted_kept (s : State) (code : Nat) (t : State) : (reportUnhalted s code t).kept = t.kept := by
  unfold reportUnhalted
  split <;> simp

@[simp] theorem loseLane_kept (s : State) (i : Fin 24) (d : LinkDir) (l : Nat) (spareLost : Bool) : (loseLane s i d l spareLost).kept = s.kept :=
  (loseLane_change s i d l spareLost).kept

@[simp] theorem laneFail_kept (s : State) (i : Fin 24) (d : LinkDir) (p : Nat) : (laneFail s i d p).kept = s.kept :=
  (laneFail_change s i d p).kept

@[simp] theorem writeLaneFail_kept (i : Fin 24) (f : WriteFault) (s : State) : (writeLaneFail i f s).kept = s.kept := by
  unfold writeLaneFail
  dsimp only
  (repeat' split) <;> simp

@[simp] theorem spareSwitchIn_kept (i : Fin 24) (d : LinkDir) (s : State) : (spareSwitchIn i d s).kept = s.kept := by
  unfold spareSwitchIn
  split <;> simp

@[simp] theorem linkRetrainDone_kept (i : Fin 24) (d : LinkDir) (s : State) : (linkRetrainDone i d s).kept = s.kept := by
  unfold linkRetrainDone
  split <;> simp

@[simp] theorem optSpare_kept (i : Fin 24) (v : BitVec 32) (s : State) : (optSpare i v s).kept = s.kept := by
  unfold optSpare
  dsimp only
  (repeat' split) <;> simp

@[simp] theorem setNext_kept (s : State) (i : Fin 24) (n : Nat) : (setNext s i n).kept = s.kept := by simp [setNext]

@[simp] theorem memMapreq_kept (i : Fin 24) (v : BitVec 32) (s : State) : (memMapreq i v s).kept = s.kept := by
  unfold memMapreq
  split <;> simp

@[simp] theorem memUnmap_kept (i : Fin 24) (v : BitVec 32) (s : State) : (memUnmap i v s).kept = s.kept := by
  unfold memUnmap
  (repeat' split) <;> simp

/-! ### Device memory -/

@[simp] theorem countCorr_kept (s : State) (a : Nat) (e : BurstErr) : (countCorr s a e).kept = s.kept :=
  kept_eq (countCorr_bytes s a e) (by rw [show countCorr s a e = _ from countCorr_change s a e])

@[simp] theorem burstFault_kept (s : State) (a code : Nat) (asks : List Asker) : (burstFault s a code asks).kept = s.kept := by
  simp [burstFault]

@[simp] theorem memFault_kept (s : State) (a code : Nat) (q : Asker) : (memFault s a code q).kept = s.kept := by simp [memFault]

@[simp] theorem modMsc_kept (s : State) (a : Nat) (f : List MscLine → List MscLine) : (modMsc s a f).kept = s.kept :=
  kept_eq rfl rfl

@[simp] theorem mscTouch_kept (s : State) (a : Nat) (c : MscLine) : (mscTouch s a c).kept = s.kept := kept_eq rfl rfl

@[simp] theorem mscDrop_kept (s : State) (a : Nat) (c : MscLine) : (mscDrop s a c).kept = s.kept := kept_eq rfl rfl

@[simp] theorem writeBack_kept (s : State) (c : MscLine) : (writeBack s c).kept = s.kept := by
  unfold writeBack
  split <;> simp

@[simp] theorem mscFill_kept (s : State) (a job : Nat) : (mscFill s a job).kept = s.kept := by
  unfold mscFill
  (repeat' split) <;> simp

@[simp] theorem serveBurst_kept (s : State) (a : Nat) (q : Asker) : (serveBurst s a q).kept = s.kept := by
  unfold serveBurst
  split <;> simp

@[simp] theorem deliverBurst_kept (s : State) (a : Nat) (q : Asker) (e : BurstErr) : (deliverBurst s a q e).kept = s.kept := by
  simp [deliverBurst]

@[simp] theorem lineUncorr_kept (s : State) (a : Nat) (c : MscLine) : (lineUncorr s a c).kept = s.kept := by
  unfold lineUncorr
  dsimp only
  split
  · rw [kept_mk_mem]
    simp
  · simp

@[simp] theorem readStack_kept (s : State) (a : Nat) (q : Asker) (e : BurstErr) : (readStack s a q e).kept = s.kept := by
  unfold readStack
  (repeat' split) <;> simp

@[simp] theorem readBurst_kept (s : State) (a : Nat) (q : Asker) (e : BurstErr) : (readBurst s a q e).kept = s.kept := by
  unfold readBurst
  (repeat' split) <;> simp

@[simp] theorem memApply_kept (s : State) : (memApply s).kept = s.kept := by simp [memApply]

@[simp] theorem memoryRead_kept (dpa : Nat) (q : Asker) (e : BurstErr) (s : State) : (memoryRead dpa q e s).kept = s.kept := by
  unfold memoryRead
  dsimp only
  split <;> simp

@[simp] theorem dropRereads_kept (s : State) (a : Nat) : (dropRereads s a).kept = s.kept := kept_eq rfl rfl

@[simp] theorem memoryReread_kept (k : Nat) (e : BurstErr) (s : State) : (memoryReread k e s).kept = s.kept := by
  unfold memoryReread
  dsimp only
  (repeat' split) <;> simp

@[simp] theorem dropStore_kept (s : State) (k : Nat) (p : PendStore) (ok : Bool) : (dropStore s k p ok).kept = s.kept := by
  unfold dropStore
  split <;> simp

theorem acceptStore_grows {x : Store 8 × Fuses} {s : State} (k : Nat) (p : PendStore) (h : Grows x s.kept) :
    Grows x (acceptStore s k p).kept := by
  unfold acceptStore
  dsimp only
  rw [dropStore_kept]
  refine memPut_grows _ _ ?_
  split <;> simpa using h

@[simp] theorem refuseStore_kept (s : State) (k : Nat) (p : PendStore) (code : Nat) : (refuseStore s k p code).kept = s.kept := by
  simp [refuseStore]

theorem writeLine_grows {x : Store 8 × Fuses} {s : State} (k : Nat) (p : PendStore) (c : MscLine) (h : Grows x s.kept) :
    Grows x (writeLine s k p c).kept := by
  simpa [writeLine] using acceptStore_grows k p h

theorem writeQueue_grows {x : Store 8 × Fuses} {s : State} (k : Nat) (p : PendStore) (h : Grows x s.kept) :
    Grows x (writeQueue s k p).kept := by
  simpa [writeQueue] using acceptStore_grows k p h

theorem memoryWrite_grows {x : Store 8 × Fuses} (k : Nat) {s : State} (h : Grows x s.kept) : Grows x (memoryWrite k s).kept := by
  have h' : Grows x (memApply s).kept := by simpa using h
  unfold memoryWrite
  dsimp only
  split
  · exact h'
  · split
    · exact writeLine_grows _ _ _ h'
    · simpa using h
    · split
      · exact writeQueue_grows _ _ h'
      · exact h'

theorem storeUpset_grows {x : Store 8 × Fuses} {s : State} (c : StoreCmd) (go : State → State)
    (runs : ∀ t, Grows x t.kept → Grows x (go t).kept) (h : Grows x s.kept) : Grows x (storeUpset s c go).kept := by
  unfold storeUpset
  dsimp only
  split
  · split <;> simpa using h
  · exact runs _ (by simpa using h)
  · exact runs _ h

theorem readModifyWrite_grows {x : Store 8 × Fuses} (k : Nat) (e : BurstErr) {s : State} (h : Grows x s.kept) :
    Grows x (readModifyWrite k e s).kept := by
  have h' : Grows x (memApply s).kept := by simpa using h
  unfold readModifyWrite
  dsimp only
  split
  · exact h'
  · split
    · exact h'
    · split
      · simpa using h
      · split
        · exact writeQueue_grows _ _ h'
        · split
          · exact h'
          · split
            · simpa using h
            · split
              · simpa using h
              · exact writeQueue_grows _ _ (by simpa using h)

@[simp] theorem serveHeld_kept (s : State) (i : Fin 24) : (serveHeld s i).kept = s.kept := by
  unfold serveHeld
  dsimp only
  split <;> simp

@[simp] theorem goodFrames_kept (s : State) : (goodFrames s).kept = s.kept := by
  unfold goodFrames
  split <;> simp

@[simp] theorem drainQueues_kept (s : State) : (drainQueues s).kept = s.kept := by
  unfold drainQueues
  split <;> simp

@[simp] theorem patrolScrub_kept (dpa : Nat) (e : BurstErr) (s : State) : (patrolScrub dpa e s).kept = s.kept := by
  unfold patrolScrub
  dsimp only
  (repeat' split) <;> simp

@[simp] theorem mscFlush_kept (v : BitVec 32) (s : State) : (mscFlush v s).kept = s.kept := by simp [mscFlush, kept_ite]

@[simp] theorem flushHalf_kept (s : State) (h : Fin 2) : (flushHalf s h).kept = s.kept := by simp [flushHalf]

/-! ### Images of launches -/

@[simp] theorem logBad_kept (s : State) (a n : Nat) : (logBad s a n).kept = s.kept := by
  unfold logBad
  split <;> simp

@[simp] theorem writeBackJob_kept (s : State) (job : Nat) : (writeBackJob s job).kept = s.kept := by simp [writeBackJob]

theorem saveImage_grows {x : Store 8 × Fuses} {s : State} (l : Launch) (part : Bool) (h : Grows x s.kept) :
    Grows x (saveImage s l part).kept := by
  unfold saveImage
  dsimp only
  refine putMem_grows _ _ _ _ _ ?_
  rw [kept_mk]
  refine grows_foldl _ _ (fun t p ht => putMem_grows _ _ _ _ _ ht) ?_
  split <;> simpa using h

@[simp] theorem saveSend_kept (s : State) (hs : List Nat) : (saveSend s hs).kept = s.kept := by simp [saveSend]

@[simp] theorem countOverrun_kept (s : State) (l : Launch) : (countOverrun s l).kept = s.kept := by
  unfold countOverrun
  dsimp only
  split <;> simp

theorem saveComplete_grows {x : Store 8 × Fuses} (lid : BitVec 32) {s : State} (h : Grows x s.kept) :
    Grows x (saveComplete lid s).kept := by
  unfold saveComplete
  split
  · exact h
  · next l _ =>
    split
    · next cause part n _ _ =>
      have image : Grows x (saveImage (saveSend s (saveFrom l)) l part).kept := saveImage_grows _ _ (by simpa using h)
      split
      · exact h
      · dsimp only
        split
        · rw [finishCmd_kept, modLaunch_kept, cfld_kept, release_kept]
          exact image
        · rw [postEvent_kept, countOverrun_kept, modLaunch_kept, cfld_kept, release_kept]
          exact image
        · rw [postEvent_kept, modLaunch_kept, cfld_kept, release_kept]
          exact image
    · exact h

@[simp] theorem takeBlk_kept (s : State) (l : Launch) (b : Fin 48) (c : Ctx) : (takeBlk s l b c).kept = s.kept := by
  unfold takeBlk
  split <;> simp

@[simp] theorem takeRgn_kept (s : State) (l : Launch) (r : Fin 8) (c : Ctx) : (takeRgn s l r c).kept = s.kept := by
  unfold takeRgn
  split <;> simp

@[simp] theorem takeHalf_kept (s : State) (l : Launch) (h : Fin 2) (a b : Ctx) : (takeHalf s l h a b).kept = s.kept := by
  unfold takeHalf
  (repeat' split) <;> simp

@[simp] theorem takePiece_kept (l : Launch) (m : Option (List Byte)) (s : State) (p : Nat × Piece) :
    (takePiece l m s p).kept = s.kept := by
  unfold takePiece
  split <;> simp

@[simp] theorem takeBarriers_kept (s : State) (l : Launch) (firsts : List (Fin 48 × Nat)) : (takeBarriers s l firsts).kept = s.kept := by
  simp [takeBarriers, kept_ite]

@[simp] theorem takeImage_kept (s : State) (l : Launch) (m : Option (List Byte)) (ps : List (Nat × Piece)) :
    (takeImage s l m ps).kept = s.kept := by
  unfold takeImage
  dsimp only
  split <;> simp

@[simp] theorem restoreFail_kept (s : State) (l : Launch) : (restoreFail s l).kept = s.kept := by
  unfold restoreFail
  split <;> simp

@[simp] theorem restoreComplete_kept (lid : BitVec 32) (s : State) : (restoreComplete lid s).kept = s.kept := by
  unfold restoreComplete
  dsimp only
  (repeat' split) <;> simp

/-! ### Command rings -/

theorem devPut_grows {x : Store 8 × Fuses} {s : State} (a : Nat) (bs : List Byte) (h : Grows x s.kept) :
    Grows x (devPut s a bs).kept := by
  unfold devPut
  split
  · simpa using h
  · exact putMem_grows _ _ _ _ _ h

@[simp] theorem readCmd_kept (s : State) (ring : Nat) (cid : Word) (op : Nat) (lid : Word) :
    (readCmd s ring cid op lid).kept = s.kept := kept_eq rfl rfl

@[simp] theorem refuse_kept (s : State) (ring : Nat) (cid : Word) (code : Nat) (lid : Word) (aux2 : Nat) :
    (refuse s ring cid code lid aux2).kept = s.kept := by simp [refuse]

@[simp] theorem succeed_kept (s : State) (ring : Nat) (cid lid : Word) (data : List Byte) :
    (succeed s ring cid lid data).kept = s.kept := by simp [succeed]

theorem onCmd_ind {P : State → Prop} (s : State) (ring op : Nat) (act : State → List Byte → Word → State)
    (stays : ∀ t, t.kept = s.kept → P t) (runs : ∀ e cid, P (act s e cid)) : P (onCmd s ring op act) := by
  unfold onCmd
  split
  · exact stays _ rfl
  · dsimp only
    split
    · exact stays _ rfl
    · split
      · exact stays _ (by simp)
      · split
        · exact stays _ (by simp)
        · exact runs _ _

@[simp] theorem onCmd_kept (s : State) (ring op : Nat) (act : State → List Byte → Word → State) (h : ∀ e cid, (act s e cid).kept = s.kept) :
    (onCmd s ring op act).kept = s.kept :=
  onCmd_ind s ring op act (fun _ stays => stays) h

/-! ### Launch records -/

@[simp] theorem beginStop_kept (s : State) (lid : BitVec 32) (cause : StopCause) (partial_ : Bool) :
    (beginStop s lid cause partial_).kept = s.kept := kept_eq rfl rfl

@[simp] theorem takeStops_kept (s : State) (l : Launch) : (takeStops s l).kept = s.kept := by simp [takeStops]

@[simp] theorem accept_kept (s : State) (l : Launch) : (accept s l).kept = s.kept := by
  unfold accept
  dsimp only
  split <;> simp

@[simp] theorem acceptRecord_kept (s : State) (ring : Nat) (cid : Word) (rec : Nat) : (acceptRecord s ring cid rec).kept = s.kept := by
  unfold acceptRecord
  dsimp only
  (repeat' split) <;> simp

/-! ### The Hinge -/

@[simp] theorem haltAll_kept (s : State) (code reg : Nat) : (haltAll s code reg).kept = s.kept := by simp [haltAll]

@[simp] theorem modHinge_kept (s : State) (f : Hinge → Hinge) : (modHinge s f).kept = s.kept := kept_eq rfl rfl

@[simp] theorem hingeBeatReceive_kept (dir : Fin 2) (c : HingeBeat) (ok : Bool) (s : State) :
    (hingeBeatReceive dir c ok s).kept = s.kept := by
  unfold hingeBeatReceive
  (repeat' split) <;> simp

@[simp] theorem hingeCreditReturn_kept (dir : Fin 2) (c : HingeClass) (s : State) :
    (hingeCreditReturn dir c s).kept = s.kept := by
  unfold hingeCreditReturn
  split <;> simp

@[simp] theorem hingeDown_kept (s : State) : (hingeDown s).kept = s.kept := by simp [hingeDown]

@[simp] theorem hingeRetrainDone_kept (o : HingeTrain) (s : State) : (hingeRetrainDone o s).kept = s.kept := by
  unfold hingeRetrainDone
  dsimp only
  (repeat' split) <;> simp

@[simp] theorem pllLockLoss_kept (s : State) : (pllLockLoss s).kept = s.kept := by
  unfold pllLockLoss
  split <;> simp

/-! ### What is volatile -/

theorem wipe_grows {x : Store 8 × Fuses} {s : State} (h : Grows x s.kept) : Grows x (wipe s).kept :=
  h.trans (.of_fuses (fun _ => wipe_wf s) rfl)

/-! ### Health -/

@[simp] theorem setDuty_kept (s : State) : (setDuty s).kept = s.kept := kept_eq rfl rfl

@[simp] theorem powerCheck_kept (watts mv : Nat) (s : State) : (powerCheck watts mv s).kept = s.kept := by
  unfold powerCheck
  dsimp only
  (repeat' split) <;> simp

@[simp] theorem hltCrc_kept (s : State) : (hltCrc s).kept = s.kept := by
  unfold hltCrc
  split <;> simp

@[simp] theorem setCrc_kept (s : State) (c : BitVec 64) : (setCrc s c).kept = s.kept := kept_eq rfl rfl

@[simp] theorem hltCrcDone_kept (s : State) : (hltCrcDone s).kept = s.kept := by
  unfold hltCrcDone
  dsimp only
  (repeat' split) <;> simp

@[simp] theorem hltLife_kept (s : State) : (hltLife s).kept = s.kept := by
  unfold hltLife
  split <;> simp

theorem hltLifeDone_grows {x : Store 8 × Fuses} {s : State} (h : Grows x s.kept) : Grows x (hltLifeDone s).kept := by
  unfold hltLifeDone
  split
  · dsimp only
    split
    · exact h
    · exact grows_foldl _ _ (fun t p ht => putMem_grows _ _ _ _ _ ht) h
  · exact h

@[simp] theorem lanePut_kept (s : State) (i lane : Nat) (e : LaneEntry) : (lanePut s i lane e).kept = s.kept := by simp [lanePut]

@[simp] theorem laneHour_kept (s : State) (i lane bias : Nat) : (laneHour s i lane bias).kept = s.kept := by
  unfold laneHour
  dsimp only
  (repeat' split) <;> simp

@[simp] theorem laneLock_kept (s : State) (i lane bias : Nat) : (laneLock s i lane bias).kept = s.kept := by
  unfold laneLock
  dsimp only
  split <;> simp

@[simp] theorem showWear_kept (s : State) : (showWear s).kept = s.kept := by
  unfold showWear
  dsimp only
  split <;> simp

@[simp] theorem dailyShift_kept (s : State) (i : Nat) : (dailyShift s i).kept = s.kept := by
  unfold dailyShift
  split <;> simp

@[simp] theorem lifeNow_kept (s : State) : (lifeNow s).kept = s.kept := by simp [lifeNow]

@[simp] theorem lifeRecords_kept (s : State) : (lifeRecords s).kept = s.kept := by simp [lifeRecords]

@[simp] theorem lifeHourlyUpdate_kept (bias : List Nat) (s : State) : (lifeHourlyUpdate bias s).kept = s.kept := by
  simp [lifeHourlyUpdate]

end Sys2Proof.Machine
end

section
/-! SUPPORT. The network, time, windows, launches and turns: what leaves bytes and fuses alone, and what only keeps the canonical form. -/

namespace Sys2Proof.Machine

/-! ### Connections -/

@[simp] theorem modConn_kept (s : State) (qp : BitVec 24) (f : Conn → Conn) : (modConn s qp f).kept = s.kept := kept_eq rfl rfl

@[simp] theorem send_kept (s : State) (t : Tx) : (send s t).kept = s.kept := by
  unfold send
  (repeat' split) <;> simp

@[simp] theorem sendWaiting_kept (s : State) : (sendWaiting s).kept = s.kept := by
  unfold sendWaiting
  split <;> simp

@[simp] theorem sendAck_kept (s : State) (qp : BitVec 24) (t : Tx) : (sendAck s qp t).kept = s.kept := by simp [sendAck]

@[simp] theorem roleEvent_kept (s : State) (x : Nat) : (roleEvent s x).kept = s.kept := by simp [roleEvent]

@[simp] theorem dropConn_kept (s : State) (qp : BitVec 24) : (dropConn s qp).kept = s.kept := by
  unfold dropConn
  (repeat' split) <;> simp

@[simp] theorem dropAll_kept (s : State) : (dropAll s).kept = s.kept := by simp [dropAll]

@[simp] theorem nak_kept (s : State) (qp : BitVec 24) (k : Nak) (count : Bool) : (nak s qp k count).kept = s.kept := by
  unfold nak
  split <;> simp

@[simp] theorem heard_kept (s : State) (qp : BitVec 24) : (heard s qp).kept = s.kept := kept_eq rfl rfl

@[simp] theorem betweenPackets_kept (s : State) : (betweenPackets s).kept = s.kept := by simp [betweenPackets]

@[simp] theorem flowControl_kept (s : State) (depth : Nat) : (flowControl s depth).kept = s.kept := by
  unfold flowControl
  dsimp only
  (repeat' split) <;> simp

@[simp] theorem rocePacket_kept (s : State) (qp : BitVec 24) (icrcOk ce ack : Bool) :
    (rocePacket s qp icrcOk ce ack).kept = s.kept := by
  unfold rocePacket
  dsimp only
  (repeat' split) <;> simp

@[simp] theorem cmReq_kept (qp : BitVec 24) (gid : BitVec 128) (mtu : Nat) (s : State) : (cmReq qp gid mtu s).kept = s.kept := by
  unfold cmReq
  (repeat' split) <;> simp

@[simp] theorem welcomeTimeout_kept (qp : BitVec 24) (s : State) : (welcomeTimeout qp s).kept = s.kept := by
  unfold welcomeTimeout
  (repeat' split) <;> simp

@[simp] theorem ownerTimeout_kept (s : State) : (ownerTimeout s).kept = s.kept := by
  unfold ownerTimeout
  (repeat' split) <;> simp

@[simp] theorem retryTimeout_kept (qp : BitVec 24) (s : State) : (retryTimeout qp s).kept = s.kept := by
  unfold retryTimeout
  (repeat' split) <;> simp

@[simp] theorem cnpReceive_kept (qp : BitVec 24) (s : State) : (cnpReceive qp s).kept = s.kept := by
  unfold cnpReceive
  split <;> simp

@[simp] theorem rateTick_kept (qp : BitVec 24) (s : State) : (rateTick qp s).kept = s.kept := kept_eq rfl rfl

@[simp] theorem readErr_kept (s : State) (win off : Nat) : (readErr s win off).kept = s.kept := by simp [readErr]

@[simp] theorem netSend_kept (s : State) (half a n : Nat) : (netSend s half a n).kept = s.kept := by
  unfold netSend
  split <;> simp

theorem rdmaWrite_grows {x : Store 8 × Fuses} (qp : BitVec 24) (c : Conn) (key : Word) (va : Nat) (bytes : List Byte) (fab : Bool)
    {s : State} (h : Grows x s.kept) : Grows x (rdmaWrite qp c key va bytes fab s).kept := by
  unfold rdmaWrite
  split
  · simpa using h
  · split
    · simpa using h
    · split
      · simpa using h
      · split
        · simpa using h
        · exact devPut_grows _ _ (by simpa using h)

@[simp] theorem rdmaRead_kept (qp : BitVec 24) (c : Conn) (x : Option (Nat × Nat × Nat)) (len : Nat) (fab : Bool) (s : State) :
    (rdmaRead qp c x len fab s).kept = s.kept := by
  unfold rdmaRead
  dsimp only
  (repeat' split) <;> simp

@[simp] theorem doorbellEvent_kept (s : State) (ring cause : Nat) : (doorbellEvent s ring cause).kept = s.kept := by
  simp [doorbellEvent]

@[simp] theorem ringAck_kept (s : State) (ring : Nat) (r : Ring) (cack : Word) : (ringAck s ring r cack).kept = s.kept := by
  unfold ringAck
  (repeat' split) <;> simp

@[simp] theorem ringProd_kept (s : State) (ring : Nat) (r : Ring) (prod : Word) : (ringProd s ring r prod).kept = s.kept := by
  unfold ringProd
  dsimp only
  (repeat' split) <;> simp

@[simp] theorem ringBell_kept (s : State) (ring : Nat) (prod cack : Word) : (ringBell s ring prod cack).kept = s.kept := by
  unfold ringBell
  split <;> simp

@[simp] theorem doorbell_kept (qp : BitVec 24) (c : Conn) (key : Word) (va : Nat) (bytes : List Byte) (s : State) :
    (doorbell qp c key va bytes s).kept = s.kept := by
  unfold doorbell
  (repeat' split) <;> simp

theorem netWrite_grows {x : Store 8 × Fuses} (qp : BitVec 24) (c : Conn) (key : Word) (va : Nat) (bytes : List Byte) (fab : Bool)
    {s : State} (h : Grows x s.kept) : Grows x (netWrite qp c key va bytes fab s).kept := by
  unfold netWrite
  split
  · simpa using h
  · exact rdmaWrite_grows _ _ _ _ _ _ h

@[simp] theorem bindingExpiry_kept (w : Nat) (s : State) : (bindingExpiry w s).kept = s.kept := kept_eq rfl rfl

@[simp] theorem writeEntry_kept (s : State) (r : Ring) (qp : BitVec 24) (k : Word) (bs : List Byte) :
    (writeEntry s r qp k bs).kept = s.kept := by simp [writeEntry]

@[simp] theorem completionWrite_kept (ring : Nat) (s : State) : (completionWrite ring s).kept = s.kept := by
  unfold completionWrite
  (repeat' split) <;> simp

/-! ### Latch messages -/

@[simp] theorem reply_kept (s : State) (qp : BitVec 24) (bs : List Byte) : (reply s qp bs).kept = s.kept := by simp [reply]

@[simp] theorem latRefuse_kept (s : State) (qp : BitVec 24) (m : List Byte) (code : Nat) :
    (latRefuse s qp m code).kept = s.kept := by simp [latRefuse]

@[simp] theorem welcome_kept (s : State) (qp : BitVec 24) (m : List Byte) : (welcome s qp m).kept = s.kept := by
  unfold welcome
  split <;> simp

@[simp] theorem sendMsg_kept (qp : BitVec 24) (c : Conn) (m : List Byte) (s : State) : (sendMsg qp c m s).kept = s.kept := by
  unfold sendMsg
  (repeat' split) <;> simp

@[simp] theorem onMsg_kept (qp : BitVec 24) (typ : Nat) (s : State) (act : State → Conn → List Byte → State)
    (runs : ∀ t c m, (act t c m).kept = t.kept) : (onMsg qp typ s act).kept = s.kept := by
  unfold onMsg
  dsimp only
  (repeat' split) <;> simp [runs]

@[simp] theorem bindConn_kept (s : State) (qp : BitVec 24) (b : Binding) : (bindConn s qp b).kept = s.kept := kept_eq rfl rfl

@[simp] theorem token_kept (qp : BitVec 24) (s : State) : (token qp s).kept = s.kept := by
  refine onMsg_kept _ _ _ _ fun t c m => ?_
  split <;> simp

@[simp] theorem hello_kept (qp : BitVec 24) (fresh : BitVec 256) (s : State) : (hello qp fresh s).kept = s.kept := by
  refine onMsg_kept _ _ _ _ fun t c m => ?_
  (repeat' split) <;> simp

@[simp] theorem makeOwner_kept (s : State) (qp : BitVec 24) : (makeOwner s qp).kept = s.kept := kept_eq rfl rfl

@[simp] theorem prove_kept (qp : BitVec 24) (s : State) : (prove qp s).kept = s.kept := by
  refine onMsg_kept _ _ _ _ fun t c m => ?_
  dsimp only
  (repeat' split) <;> simp

@[simp] theorem promote_kept (qp : BitVec 24) (s : State) : (promote qp s).kept = s.kept := by
  refine onMsg_kept _ _ _ _ fun t c m => ?_
  (repeat' split) <;> simp

@[simp] theorem setRing_kept (s : State) (i : Nat) (r : Option Ring) : (setRing s i r).kept = s.kept := kept_eq rfl rfl

@[simp] theorem ringOpen_kept (qp : BitVec 24) (s : State) : (ringOpen qp s).kept = s.kept := by
  refine onMsg_kept _ _ _ _ fun t c m => ?_
  dsimp only
  (repeat' split) <;> simp

@[simp] theorem ringClose_kept (qp : BitVec 24) (s : State) : (ringClose qp s).kept = s.kept := by
  refine onMsg_kept _ _ _ _ fun t c m => ?_
  dsimp only
  (repeat' split) <;> simp

/-! ### The port -/

theorem runReq_grows {x : Store 8 × Fuses} (qp : BitVec 24) (c : Conn) (r : NetReq) {s : State} (h : Grows x s.kept) :
    Grows x (runReq qp c r s).kept := by
  unfold runReq
  split
  case h_1 => exact netWrite_grows _ _ _ _ _ _ h
  all_goals simpa using h

theorem pumpConn_grows {x : Store 8 × Fuses} (qp : BitVec 24) (n : Nat) {s : State} (h : Grows x s.kept) :
    Grows x (pumpConn qp n s).kept := by
  induction n generalizing s with
  | zero => exact h
  | succ n ih =>
    unfold pumpConn
    split
    · exact h
    · split
      · exact h
      · split
        · exact h
        · exact ih (runReq_grows _ _ _ (by simpa using h))

theorem netIn_grows {x : Store 8 × Fuses} (qp : BitVec 24) (r : NetReq) {s : State} (h : Grows x s.kept) :
    Grows x (netIn qp r s).kept := by
  unfold netIn
  split
  · exact h
  · exact pumpConn_grows _ _ (by simpa using h)

theorem pumpNet_grows {x : Store 8 × Fuses} {s : State} (h : Grows x s.kept) : Grows x (pumpNet s).kept := by
  refine grows_foldl _ _ (fun t c ht => ?_) h
  split
  · exact ht
  · exact pumpConn_grows _ _ ht

@[simp] theorem plainFrame_kept (s : State) (b : FrameBody) : (plainFrame s b).kept = s.kept := by
  unfold plainFrame
  (repeat' split) <;> simp

theorem frameReceive_grows {x : Store 8 × Fuses} (f : Frame) {s : State} (h : Grows x s.kept) : Grows x (frameReceive f s).kept := by
  unfold frameReceive
  dsimp only
  split
  · exact h
  · split
    · simpa using h
    · split
      · exact h
      · split
        · simpa using h
        · split
          · simpa using h
          · split
            · exact netIn_grows _ _ (by simpa using h)
            · simpa using h
          · simpa using h

/-! ### Time -/

@[simp] theorem announce_kept (s : State) : (announce s).kept = s.kept := by
  unfold announce
  split <;> simp

@[simp] theorem linkUp_kept (s : State) : (linkUp s).kept = s.kept := by
  unfold linkUp
  split <;> simp

@[simp] theorem modPtp_kept (s : State) (f : Ptp → Ptp) : (modPtp s f).kept = s.kept := kept_eq rfl rfl

@[simp] theorem refuseTimed_kept (s : State) : (refuseTimed s).kept = s.kept := by simp [refuseTimed]

@[simp] theorem setPtp_kept (s : State) (st : Nat) : (setPtp s st).kept = s.kept := by
  unfold setPtp
  dsimp only
  split <;> simp

@[simp] theorem ptpAnnounce_kept (m : PtpAnn) (s : State) : (ptpAnnounce m s).kept = s.kept := by
  unfold ptpAnnounce
  dsimp only
  (repeat' split) <;> simp

@[simp] theorem discipline_kept (s : State) (off : Int) : (discipline s off).kept = s.kept := by
  unfold discipline
  split <;> simp

@[simp] theorem showRef_kept (s : State) (x : Int) : (showRef s x).kept = s.kept := by
  unfold showRef
  split <;> simp

@[simp] theorem ptpSync_kept (m : PtpMeas) (s : State) : (ptpSync m s).kept = s.kept := by
  unfold ptpSync
  dsimp only
  (repeat' split) <;> simp

@[simp] theorem ptpTimeout_kept (s : State) : (ptpTimeout s).kept = s.kept := by
  unfold ptpTimeout
  dsimp only
  (repeat' split) <;> simp

@[simp] theorem ppsOut_kept (s : State) : (ppsOut s).kept = s.kept := by
  unfold ppsOut
  split <;> simp

@[simp] theorem ppsIn_kept (s : State) : (ppsIn s).kept = s.kept := by
  unfold ppsIn
  dsimp only
  (repeat' split) <;> simp

/-! ### Trust -/

theorem lkpBoot_grows {x : Store 8 × Fuses} {s : State} (h : Grows x s.kept) : Grows x (lkpBoot s).kept :=
  h.trans (.of_mem rfl ⟨le_rfl, le_max_left _ _⟩)

@[simp] theorem writeImg_kept (s : State) (g : List Byte) : (writeImg s g).kept = s.kept := kept_eq rfl rfl

/-! ### Windows of blocks -/

theorem writeCommit_kept {s t : State} {g : Group} {v : Word} (h : writeCommit s g v = .ok t) : t.kept = s.kept := by
  unfold writeCommit at h
  split at h
  · cases h
  · cases h
    (repeat' split) <;> simp

theorem writeField_kept {s t : State} {g : Group} {r : Reg} {i : Nat} {v : Word} (h : writeField s g r i v = .ok t) :
    t.kept = s.kept := by
  unfold writeField at h
  split at h <;> cases h
  exact wshadow_kept _ _ _ _

@[simp] theorem writePlain_kept (s : State) (r : Reg) (i : Nat) (v : Word) : (writePlain s r i v).kept = s.kept := by
  unfold writePlain
  dsimp only
  split <;> simp

theorem blkWrite_kept {s t : State} {r : Reg} {b : Fin 48} {v : Word} (h : blkWrite s r b v = .ok t) : t.kept = s.kept := by
  unfold blkWrite at h
  split at h
  · exact writeCommit_kept h
  · exact writeField_kept h
  · cases h
    split <;> simp
  · cases h
    exact writePlain_kept _ _ _ _

@[simp] theorem putLate_kept (s : State) (r : Reg) (b : Fin 48) (v : Word) : (putLate s r b v).kept = s.kept := kept_eq rfl rfl

@[simp] theorem lateWrites_kept (s : State) (b : Fin 48) : (lateWrites s b).kept = s.kept := by
  unfold lateWrites
  refine (kept_foldl _ _ _ fun s x => ?_).trans (modRgn_kept _ _ _)
  split
  · next h => exact blkWrite_kept h
  · rfl

/-! ### Launches -/

@[simp] theorem takeRegion_kept (l : Launch) (s : State) (r : Fin 8) : (takeRegion l s r).kept = s.kept := kept_eq rfl rfl

@[simp] theorem takeBlock_kept (l : Launch) (s : State) (b : Fin 48) : (takeBlock l s b).kept = s.kept := kept_eq rfl rfl

@[simp] theorem takeUnits_kept (l : Launch) (s : State) (h : Fin 2) : (takeUnits l s h).kept = s.kept := kept_eq rfl rfl

@[simp] theorem betweenLaunches_kept (s : State) (r : Fin 8) : (betweenLaunches s r).kept = s.kept := by simp [betweenLaunches]

@[simp] theorem startLaunch_kept (s : State) (l : Launch) : (startLaunch s l).kept = s.kept := by
  unfold startLaunch
  dsimp only
  rw [modLaunch_kept, kept_foldl _ _ _ (takeUnits_kept l), kept_foldl _ _ _ lateWrites_kept, kept_foldl _ _ _ (takeBlock_kept l),
    kept_foldl _ _ _ (takeRegion_kept l), kept_foldl _ _ _ betweenLaunches_kept]

@[simp] theorem katFault_kept (s : State) (l : Launch) (u : Nat) : (katFault s l u).kept = s.kept := by
  unfold katFault
  dsimp only
  (repeat' split) <;> simp only [haltLaunch_kept, stopBlk_kept, modRgn_kept, modHalf_kept, wreg_kept]

@[simp] theorem launchDispatch_kept (ks : List (BitVec 8)) (s : State) : (launchDispatch ks s).kept = s.kept := by
  unfold launchDispatch
  dsimp only
  (repeat' split) <;> simp

@[simp] theorem timedRelease_kept (lid : BitVec 32) (s : State) : (timedRelease lid s).kept = s.kept := by
  unfold timedRelease
  (repeat' split) <;> simp

@[simp] theorem launchComplete_kept (lid : BitVec 32) (s : State) : (launchComplete lid s).kept = s.kept := by
  unfold launchComplete
  (repeat' split) <;> simp

@[simp] theorem onLaunch_kept (s : State) (ring : Nat) (e : List Byte) (cid : Word) (act : State → Launch → State)
    (h : ∀ t l, (act t l).kept = t.kept) : (onLaunch s ring e cid act).kept = s.kept := by
  unfold onLaunch
  dsimp only
  split <;> simp [h]

@[simp] theorem beginAbort_kept (s : State) (l : Launch) (ring : Nat) (cid : Word) : (beginAbort s l ring cid).kept = s.kept := by
  unfold beginAbort
  dsimp only
  split <;> simp

@[simp] theorem sliceEnd_kept (lid : BitVec 32) (s : State) : (sliceEnd lid s).kept = s.kept := by
  unfold sliceEnd
  dsimp only
  (repeat' split) <;> simp

/-! ### Turns -/

@[simp] theorem modTurn_kept (s : State) (p : Fin 56) (f : Turn → Turn) : (modTurn s p f).kept = s.kept := kept_eq rfl rfl

@[simp] theorem freeAreas_kept (s : State) (l : Launch) (m : Option (List Byte)) (b : Fin 48) :
    (freeAreas s l m b).kept = s.kept := by
  unfold freeAreas
  split <;> simp

@[simp] theorem addCtx_kept (s : State) (c : Ctx) : (addCtx s c).kept = s.kept := kept_eq rfl rfl

theorem putSection_grows {x : Store 8 × Fuses} {s : State} (l : Launch) (m : Option (List Byte)) (b : Fin 48) (a : Nat)
    (h : Grows x s.kept) : Grows x (putSection s l m b a).kept := by
  unfold putSection
  rw [modRgn_kept, freeAreas_kept, addCtx_kept]
  exact grows_foldl _ _ (fun t p ht => putMem_grows _ _ _ _ _ ht) h

theorem writeSection_grows {x : Store 8 × Fuses} {s : State} (l : Launch) (b : Fin 48) (h : Grows x s.kept) :
    Grows x (writeSection s l b).kept := by
  unfold writeSection
  split
  · exact h
  · exact putSection_grows _ _ _ _ h

theorem turnEnd_grows {x : Store 8 × Fuses} (p : Fin 56) {s : State} (h : Grows x s.kept) : Grows x (turnEnd p s).kept := by
  unfold turnEnd
  dsimp only
  split
  · next l _ f _ _ _ =>
    split
    · simpa using writeSection_grows l _ h
    · exact h
  · exact h

@[simp] theorem takeTurn_kept (l : Launch) (m : Option (List Byte)) (s : State) (p : Nat × Piece) :
    (takeTurn l m s p).kept = s.kept := by
  unfold takeTurn
  split <;> simp

@[simp] theorem readSection_kept (s : State) (l : Launch) (b : Fin 48) : (readSection s l b).kept = s.kept := by
  unfold readSection
  dsimp only
  split <;> simp

@[simp] theorem turnSwitch_kept (p : Fin 56) (s : State) : (turnSwitch p s).kept = s.kept := by
  unfold turnSwitch
  dsimp only
  (repeat' split) <;> simp

end Sys2Proof.Machine
end

section
/-! SUPPORT. The Keyring, the Lockplate, start-up and register commands: what leaves bytes and fuses alone, and what only lets them grow (R620). -/

namespace Sys2Proof.Machine

/-! ### The Keyring -/

@[simp] theorem hold_kept (s : State) (a : HeldAct) : (hold s a).kept = s.kept := kept_eq rfl rfl

@[simp] theorem recordWrite_kept (s : State) : (recordWrite s).kept = s.kept := by
  unfold recordWrite
  split <;> simp

@[simp] theorem drainRecs_kept (s : State) : (drainRecs s).kept = s.kept := by simp [drainRecs]

@[simp] theorem savecfg_kept (s : State) : (savecfg s).kept = s.kept := by
  unfold savecfg
  split <;> simp

@[simp] theorem bootlog_kept (s : State) (cfgSeq : Nat) (ready clean : Bool) : (bootlog s cfgSeq ready clean).kept = s.kept := by
  simp [bootlog]

@[simp] theorem blkmapRec_kept (s : State) (r : Nat) : (blkmapRec s r).kept = s.kept := by simp [blkmapRec]

@[simp] theorem remapMap_kept (s : State) (r mask bad : Nat) : (remapMap s r mask bad).kept = s.kept := by
  unfold remapMap
  split <;> simp

@[simp] theorem remap_kept (s : State) (r mask bad : Nat) : (remap s r mask bad).kept = s.kept := by
  unfold remap
  split <;> simp

@[simp] theorem setRetire_kept (s : State) (p : Nat) (on : Bool) : (setRetire s p on).kept = s.kept := by
  unfold setRetire
  split <;> simp

@[simp] theorem retireBlk_kept (v : BitVec 32) (s : State) : (retireBlk v s).kept = s.kept := by
  unfold retireBlk
  split <;> simp

@[simp] theorem unretire_kept (v : BitVec 32) (s : State) : (unretire v s).kept = s.kept := by
  unfold unretire
  split <;> simp

@[simp] theorem remapQuiet_kept (s : State) (r mask : Nat) : (remapQuiet s r mask).kept = s.kept := by
  unfold remapQuiet
  split <;> simp

@[simp] theorem blkrst_kept (v : BitVec 32) (ok : Bool) (s : State) : (blkrst v ok s).kept = s.kept := by
  unfold blkrst
  dsimp only
  (repeat' split) <;> simp

theorem coldReset_grows {x : Store 8 × Fuses} {s : State} (h : Grows x s.kept) : Grows x (coldReset s).kept := by
  unfold coldReset
  extract_lets t
  rw [kept_mk]
  exact wipe_grows h

@[simp] theorem keepGen_kept (t s : State) : (keepGen t s).kept = t.kept := by simp [keepGen]

theorem warmReset_grows {x : Store 8 × Fuses} {s : State} (h : Grows x s.kept) : Grows x (warmReset s).kept := by
  unfold warmReset
  extract_lets t
  rw [kept_mk, keepGen_kept]
  exact wipe_grows h

theorem askCold_grows {x : Store 8 × Fuses} {s : State} (h : Grows x s.kept) : Grows x (askCold s).kept := by
  unfold askCold
  split
  · exact h
  · split
    · simpa using h
    · exact coldReset_grows h

theorem askWarm_grows {x : Store 8 × Fuses} {s : State} (h : Grows x s.kept) : Grows x (askWarm s).kept := by
  unfold askWarm
  split
  · exact h
  · split
    · simpa using h
    · exact warmReset_grows h

@[simp] theorem resetUnits_kept (s : State) (kat : BitVec 10) : (resetUnits s kat).kept = s.kept := kept_eq rfl rfl

@[simp] theorem soft_kept (fails : BitVec 56) (kat : BitVec 10) (s : State) : (soft fails kat s).kept = s.kept := by simp [soft]

@[simp] theorem askSoft_kept (fails : BitVec 56) (kat : BitVec 10) (s : State) : (askSoft fails kat s).kept = s.kept := by
  unfold askSoft
  split <;> simp

@[simp] theorem flushComps_kept (s : State) : (flushComps s).kept = s.kept := by simp [flushComps]

@[simp] theorem shutdownNow_kept (s : State) : (shutdownNow s).kept = s.kept := by simp [shutdownNow]

@[simp] theorem shutdown_kept (s : State) : (shutdown s).kept = s.kept := by
  unfold shutdown
  (repeat' split) <;> simp

@[simp] theorem setResult_kept (s : State) (v : Nat) : (setResult s v).kept = s.kept := kept_eq rfl rfl

@[simp] theorem startProg_kept (s : State) (op : FlashOp) : (startProg s op).kept = s.kept := kept_eq rfl rfl

@[simp] theorem cfgprogNow_kept (s : State) : (cfgprogNow s).kept = s.kept := by
  unfold cfgprogNow
  dsimp only
  (repeat' split) <;> simp

@[simp] theorem askCfgprog_kept (s : State) : (askCfgprog s).kept = s.kept := by
  unfold askCfgprog
  (repeat' split) <;> simp

@[simp] theorem fwinstallNow_kept (s : State) : (fwinstallNow s).kept = s.kept := by
  unfold fwinstallNow
  dsimp only
  (repeat' split) <;> simp

@[simp] theorem askFwinstall_kept (s : State) : (askFwinstall s).kept = s.kept := by
  unfold askFwinstall
  (repeat' split) <;> simp

theorem proceed_grows {x : Store 8 × Fuses} (acts : List HeldAct) {s : State} (h : Grows x s.kept) : Grows x (proceed acts s).kept := by
  induction acts generalizing s with
  | nil => exact h
  | cons a acts ih =>
    unfold proceed
    split
    · exact h
    · split
      · exact coldReset_grows h
      · exact warmReset_grows h
      · rw [shutdownNow_kept]
        exact h
      · exact ih (by simpa using h)
      · exact ih (by simpa using h)

theorem releaseHeld_grows {x : Store 8 × Fuses} {s : State} (h : Grows x s.kept) : Grows x (releaseHeld s).kept :=
  proceed_grows _ h

@[simp] theorem spoil_kept (s : State) (n : Nat) : (spoil s n).2.kept = s.kept := kept_eq rfl rfl

theorem cfgprogDone_grows {x : Store 8 × Fuses} (ok : Bool) {s : State} (h : Grows x s.kept) : Grows x (cfgprogDone ok s).kept := by
  unfold cfgprogDone
  split
  · split
    · exact h
    · cases ok <;> exact releaseHeld_grows (by simpa using h)
  · exact h

theorem fwinstallDone_grows {x : Store 8 × Fuses} (ok : Bool) {s : State} (h : Grows x s.kept) :
    Grows x (fwinstallDone ok s).kept := by
  unfold fwinstallDone
  split
  · split
    · exact h
    · extract_lets d _ drawn flashed _ freed shown counted
      have g : Grows x counted.kept := by
        cases ok <;> simpa [counted, shown, freed, flashed, drawn, d] using h
      split
      · exact coldReset_grows g
      · exact releaseHeld_grows g
  · exact h

/-! ### The Lockplate -/

@[simp] theorem setLkpResult_kept (s : State) (v : Nat) : (setLkpResult s v).kept = s.kept := kept_eq rfl rfl

@[simp] theorem overlap_kept (s : State) : (overlap s).kept = s.kept := kept_eq rfl rfl

@[simp] theorem submit_kept (s : State) : (submit s).kept = s.kept := by
  unfold submit
  (repeat' split) <;> simp

theorem writeGrant_grows {x : Store 8 × Fuses} {s : State} (adv : Bool) (g : List Byte) (h : Grows x s.kept) :
    Grows x (writeGrant s adv g).kept := by
  unfold writeGrant
  dsimp only
  split
  · exact h.trans (.of_mem rfl ⟨le_rfl, Nat.le_succ _⟩)
  · simpa using h

theorem zeroAll_grows {x : Store 8 × Fuses} {s : State} (h : Grows x s.kept) : Grows x (zeroAll s).kept :=
  h.trans (.of_fuses (fun _ => zeroAll_wf s) rfl)

@[simp] theorem scrubGroups_kept (s : State) : (scrubGroups s).kept = s.kept := by simp [scrubGroups]

@[simp] theorem endUse_kept (s : State) : (endUse s).kept = s.kept := by simp [endUse]

@[simp] theorem spoilCopy_kept (s : State) : (spoilCopy s).kept = s.kept := kept_eq rfl rfl

theorem changeOwner_grows {x : Store 8 × Fuses} {s : State} (k : Nat) (body : List Byte) (ok : ReadBack) (h : Grows x s.kept) :
    Grows x (changeOwner s k body ok).kept := by
  have use : Grows x (endUse s).kept := by simpa using h
  unfold changeOwner
  dsimp only
  split
  · simpa using use
  · have zero := zeroAll_grows (writeGrant_grows true (setScrub (grantImg (endUse s) k true body) true) use)
    rw [announce_kept]
    split
    · rw [setLkpResult_kept, writeImg_kept, scrubGroups_kept]
      exact zero
    · rw [spoilCopy_kept, scrubGroups_kept]
      exact zero

theorem openDebug_grows {x : Store 8 × Fuses} {s : State} (h : Grows x s.kept) : Grows x (openDebug s).kept := by
  have zero : Grows x (zeroAll (endUse s)).kept := zeroAll_grows (by simpa using h)
  unfold openDebug
  dsimp only
  rw [announce_kept, setLkpResult_kept, kept_mk, scrubGroups_kept]
  exact zero

@[simp] theorem openLk_kept (s : State) (body : List Byte) : (openLk s body).kept = s.kept := kept_eq rfl rfl

@[simp] theorem dropRoles_kept (s : State) : (dropRoles s).kept = s.kept := by simp [dropRoles]

theorem applyGrant_grows {x : Store 8 × Fuses} {s : State} (k : Nat) (flag : Bool) (body : List Byte) (ok : ReadBack)
    (h : Grows x s.kept) : Grows x (applyGrant s k flag body ok).kept := by
  unfold applyGrant
  dsimp only
  split
  · simpa using h
  · rw [setLkpResult_kept]
    exact h.trans (.of_mem rfl ⟨le_max_left _ _, le_rfl⟩)
  · exact openDebug_grows h
  · exact changeOwner_grows _ _ _ h
  · exact changeOwner_grows _ _ _ h
  · split
    · simpa using h
    · rw [setLkpResult_kept]
      split
      · rw [dropRoles_kept]
        exact writeGrant_grows _ _ h
      · exact writeGrant_grows _ _ h

theorem lkpDone_grows {x : Store 8 × Fuses} {s : State} (h : Grows x s.kept) : Grows x (lkpDone s).kept :=
  releaseHeld_grows h

theorem grantApplied_grows {x : Store 8 × Fuses} (ok : ReadBack) {s : State} (h : Grows x s.kept) :
    Grows x (grantApplied ok s).kept := by
  unfold grantApplied
  split
  · split
    · exact lkpDone_grows (by simpa using h)
    · split
      · exact h
      · exact lkpDone_grows (applyGrant_grows _ _ _ _ h)
  · exact h

@[simp] theorem closeLk_kept (s : State) : (closeLk s).kept = s.kept := by
  unfold closeLk
  (repeat' split) <;> simp

@[simp] theorem grantExpiry_kept (s : State) : (grantExpiry s).kept = s.kept := by
  unfold grantExpiry
  (repeat' split) <;> simp

@[simp] theorem freshNonce_kept (s : State) (n : BitVec 256) : (freshNonce s n).kept = s.kept := kept_eq rfl rfl

@[simp] theorem attest_kept (s : State) : (attest s).kept = s.kept := by
  unfold attest
  dsimp only
  (repeat' split) <;> simp

@[simp] theorem devcert_kept (s : State) : (devcert s).kept = s.kept := by
  unfold devcert
  (repeat' split) <;> simp

theorem putOut_grows {x : Store 8 × Fuses} {s : State} (a : Nat) (bs : List Byte) (h : Grows x s.kept) :
    Grows x (putOut s a bs).kept := by
  unfold putOut
  split
  · exact devPut_grows _ _ h
  · exact h

theorem attestDone_grows {x : Store 8 × Fuses} (ok : Bool) {s : State} (h : Grows x s.kept) : Grows x (attestDone ok s).kept := by
  unfold attestDone
  dsimp only
  split
  · split
    · exact h
    · refine lkpDone_grows ?_
      split
      · exact putOut_grows _ _ h
      · exact h
  · split
    · exact h
    · refine lkpDone_grows ?_
      split
      · exact putOut_grows _ _ h
      · exact h
  · exact h

@[simp] theorem jtagSet_kept (s : State) (ir : JtagIr) (dr : Word) : (jtagSet s ir dr).kept = s.kept := by
  unfold jtagSet
  split <;> simp

@[simp] theorem jtagScan_kept (s : State) (ir : JtagIr) : (jtagScan s ir).kept = s.kept := by
  unfold jtagScan
  split <;> simp

@[simp] theorem dbgRead_kept (s : State) (x : Nat) : (dbgRead s x).kept = s.kept := by
  unfold dbgRead
  (repeat' split) <;> simp

theorem dbgacc_grows {x : Store 8 × Fuses} (a : DbgAccess) {s : State} (h : Grows x s.kept) : Grows x (dbgacc a s).kept := by
  unfold dbgacc
  split
  · exact h
  · split
    · simpa using h
    · split
      · simpa using h
      · split <;> simpa using h
      · split
        · exact devPut_grows _ _ (by simpa using h)
        · simpa using h

@[simp] theorem pumpJtag_kept (s : State) : (pumpJtag s).kept = s.kept := by
  unfold pumpJtag
  (repeat' split) <;> simp

/-! ### Start-up -/

@[simp] theorem bootFld_kept (s : State) (hi lo v : Nat) : (bootFld s hi lo v).kept = s.kept := kept_eq rfl rfl

@[simp] theorem bootClock_kept (s : State) : (bootClock s).kept = s.kept := kept_eq rfl rfl

theorem bootImage_grows {x : Store 8 × Fuses} {s : State} (h : Grows x s.kept) : Grows x (bootImage s).kept := by
  have g := lkpBoot_grows h
  unfold bootImage
  dsimp only
  rw [kept_mk, wfld_kept, wfld_kept]
  exact g

@[simp] theorem bootMac_kept (s : State) : (bootMac s).kept = s.kept := kept_eq rfl rfl

@[simp] theorem bootCfg_kept (s : State) : (bootCfg s).kept = s.kept := kept_eq rfl rfl

@[simp] theorem bootLife_kept (s : State) : (bootLife s).kept = s.kept := by simp [bootLife]

@[simp] theorem bootKeys_kept (s : State) (warm : Bool) : (bootKeys s warm).kept = s.kept := by
  unfold bootKeys
  dsimp only
  (repeat' split) <;> simp

@[simp] theorem bootScan_kept (s : State) (warm : Bool) : (bootScan s warm).kept = s.kept := by
  unfold bootScan
  dsimp only
  (repeat' split) <;> simp

@[simp] theorem loadMap_kept (s : State) : (loadMap s).kept = s.kept := by simp [loadMap]

@[simp] theorem enterLoader_kept (s : State) (step fail seq : Nat) (link : Bool) :
    (enterLoader s step fail seq link).kept = s.kept := by
  unfold enterLoader
  (repeat' split) <;> simp

@[simp] theorem bootBlocks_kept (fails : BitVec 56) (s : State) (r : Nat) : (bootBlocks fails s r).kept = s.kept := by
  unfold bootBlocks
  split <;> simp

@[simp] theorem bootTumblers_kept (kat : BitVec 10) (s : State) : (bootTumblers kat s).kept = s.kept := kept_eq rfl rfl

theorem bootHinge_kept {s t : State} {o : HingeTrain} (h : bootHinge s o = some t) : t.kept = s.kept := by
  unfold bootHinge at h
  split at h
  · cases h
  · cases h
    (repeat' split) <;> simp

@[simp] theorem bootStack_kept (env : BootEnv) (s : State) (i : Fin 24) : (bootStack env s i).kept = s.kept := by
  unfold bootStack
  dsimp only
  (repeat' split) <;> simp

@[simp] theorem bootLane_kept (s : State) (p : Fin 24 × LinkDir × Fin 72) : (bootLane s p).kept = s.kept := by simp [bootLane]

@[simp] theorem bootChmap_kept (s : State) (i : Fin 24) : (bootChmap s i).kept = s.kept := by
  unfold bootChmap
  dsimp only
  (repeat' split) <;> simp

@[simp] theorem bootCap_kept (s : State) : (bootCap s).kept = s.kept := kept_eq rfl rfl

@[simp] theorem restoreGroup_kept (ws : List (Nat × Word)) (s : State) (g : Group) : (restoreGroup ws s g).kept = s.kept := by
  unfold restoreGroup
  dsimp only
  split <;> simp

@[simp] theorem bootRestore_kept (s : State) (lim : Option Nat) : (bootRestore s lim).1.kept = s.kept := by
  unfold bootRestore
  dsimp only
  split <;> simp

@[simp] theorem bootSettle_kept (s : State) (lim : Option Nat) : (bootSettle s lim).1.kept = s.kept := by simp [bootSettle]

theorem zeroHalf_grows {x : Store 8 × Fuses} {s : State} (half : Nat) (h : Grows x s.kept) : Grows x (zeroHalf s half).kept :=
  h.trans (.of_fuses (zeroHalf_wf s half) rfl)

theorem bootZero_grows {x : Store 8 × Fuses} {s : State} (h : Grows x s.kept) : Grows x (bootZero s).kept := by
  refine grows_foldl _ _ (fun t half ht => ?_) h
  split
  · exact zeroHalf_grows _ ht
  · exact ht

theorem bootScrub_grows {x : Store 8 × Fuses} {s : State} (h : Grows x s.kept) : Grows x (bootScrub s).kept := by
  unfold bootScrub
  split
  · rw [writeImg_kept]
    exact zeroHalf_grows _ (zeroHalf_grows _ h)
  · exact h

@[simp] theorem bootLinks_kept (s : State) (env : BootEnv) : (bootLinks s env).kept = s.kept := by simp [bootLinks]

theorem bootMap_grows {x : Store 8 × Fuses} {s : State} (h : Grows x s.kept) : Grows x (bootMap s).kept := by
  rw [bootMap, bootCap_kept]
  exact bootZero_grows (by simpa using h)

@[simp] theorem bootFinish_kept (s : State) (lim : Option Nat) (link : Bool) (late : Nat) :
    (bootFinish s lim link late).kept = s.kept := by
  unfold bootFinish
  (repeat' split) <;> simp

theorem bootLate_grows {x : Store 8 × Fuses} {s : State} (env : BootEnv) (lim : Option Nat) (late : Nat) (h : Grows x s.kept) :
    Grows x (bootLate s env lim late).kept := by
  have map : Grows x (bootMap (bootLinks s env)).kept := bootMap_grows (by simpa using h)
  unfold bootLate
  dsimp only
  split
  · simpa using h
  · split
    · simpa using map
    · rw [bootFinish_kept, lifeNow_kept]
      exact bootScrub_grows map

theorem bootOn_grows {x : Store 8 × Fuses} {s : State} (env : BootEnv) (lim : Option Nat) (late : Nat) (h : Grows x s.kept) :
    Grows x (bootOn s env lim late).kept := by
  unfold bootOn
  dsimp only
  split
  · simpa using h
  · split
    · simpa using h
    · split
      · simpa using h
      · split
        · simpa using h
        · next trained => exact bootLate_grows _ _ _ (by simpa [bootHinge_kept trained] using h)

theorem bootRead_grows {x : Store 8 × Fuses} {s : State} (warm : Bool) (h : Grows x s.kept) : Grows x (bootRead s warm).kept :=
  bootImage_grows (by simpa using h)

theorem bootRun_grows {x : Store 8 × Fuses} {s : State} (env : BootEnv) (warm : Bool) (late : Nat) (h : Grows x s.kept) :
    Grows x (bootRun s env warm late).kept := by
  have read := bootRead_grows warm h
  unfold bootRun
  dsimp only
  split
  · simpa using read
  · split
    · split
      · simpa using read
      · exact bootOn_grows _ _ _ (by simpa using read)
    · simpa using read
    · simpa using read

theorem startUp_grows {x : Store 8 × Fuses} (env : BootEnv) {s : State} (h : Grows x s.kept) : Grows x (startUp env s).kept := by
  unfold startUp
  split
  · split
    · exact h
    · split
      · exact h
      · exact bootRun_grows _ _ _ h
  · exact h

theorem bootTimeout_grows {x : Store 8 × Fuses} {s : State} (h : Grows x s.kept) : Grows x (bootTimeout s).kept := by
  unfold bootTimeout
  split
  · split
    · exact h
    · split
      · exact h
      · exact bootRun_grows _ _ _ h
  · exact h

/-! ### Power that is cut off -/

theorem keepFlash_grows {s t : State} (h : Grows s.kept t.kept) : Grows s.kept (keepFlash s t).kept :=
  .of_mem rfl h.2

theorem cutStart_grows (warm : Bool) (s : State) : Grows s.kept (cutStart warm s).kept := by
  have scan : Grows s.kept (drainRecs (bootScan (bootRead (drawWord s).2 warm) warm)).kept := by
    rw [drainRecs_kept, bootScan_kept]
    exact bootRead_grows _ (.refl _)
  have drawn : (drawWord s).2.kept = s.kept := drawWord_kept s
  unfold cutStart
  dsimp only
  split
  · exact keepFlash_grows scan
  · refine keepFlash_grows ?_
    rw [bootSettle_kept]
    exact bootScrub_grows scan
  · exact drawn.symm ▸ .refl _

@[simp] theorem cutRecord_kept (s : State) : (cutRecord s).kept = s.kept := by
  unfold cutRecord
  dsimp only
  (repeat' split) <;> simp

@[simp] theorem cutProg_kept (s : State) : (cutProg s).kept = s.kept := by
  unfold cutProg
  (repeat' split) <;> simp

theorem cutGrant_grows (s : State) : Grows s.kept (cutGrant s).kept := by
  have drawn : (drawWord s).2.kept = s.kept := drawWord_kept s
  unfold cutGrant
  split
  · dsimp only
    split
    · exact .refl _
    · split
      · exact .of_mem rfl ⟨Nat.le_add_right _ _, le_rfl⟩
      · split
        · split
          · exact drawn.symm ▸ .refl _
          · exact keepFlash_grows (s := (drawWord s).2) (by simpa using Grows.refl _)
          · exact keepFlash_grows (s := (drawWord s).2) (writeGrant_grows _ _ (.refl _))
          · refine keepFlash_grows (s := (drawWord s).2) ?_
            split
            · rw [writeImg_kept]
              exact writeGrant_grows _ _ (.refl _)
            · exact writeGrant_grows _ _ (.refl _)
        · exact .refl _
  · exact .refl _

theorem cut_grows {x : Store 8 × Fuses} {s : State} (h : Grows x s.kept) : Grows x (cut s).kept := by
  refine h.trans ?_
  unfold cut
  split
  · split
    · exact .refl _
    · exact cutStart_grows _ _
  · have g := cutGrant_grows (cutProg (cutRecord s))
    rwa [cutProg_kept, cutRecord_kept] at g

/-! ### Pins -/

@[simp] theorem modPower_kept (s : State) (f : Power → Power) : (modPower s f).kept = s.kept := kept_eq rfl rfl

theorem thermTrip_grows {x : Store 8 × Fuses} {s : State} (h : Grows x s.kept) : Grows x (thermTrip s).kept := by
  unfold thermTrip
  extract_lets wiped
  rw [kept_mk]
  exact wipe_grows (cut_grows h)

theorem dieTempSample_grows {x : Store 8 × Fuses} (half : Fin 2) (die base opt : Int) {s : State} (h : Grows x s.kept) :
    Grows x (dieTempSample half die base opt s).kept := by
  unfold dieTempSample
  dsimp only
  split
  · exact h
  · split
    · exact thermTrip_grows (by simpa using h)
    · split <;> simpa using h

theorem openSwitch_grows {x : Store 8 × Fuses} {s : State} (h : Grows x s.kept) : Grows x (openSwitch s).kept :=
  (modPower_kept _ _).symm ▸ wipe_grows (cut_grows h)

theorem hotSwapClose_grows {x : Store 8 × Fuses} (straps : Fin 4) {s : State} (h : Grows x s.kept) :
    Grows x (hotSwapClose straps s).kept := by
  unfold hotSwapClose
  split
  · exact (modPower_kept _ _).symm ▸ wipe_grows h
  · exact h

theorem pwrEnFall_grows {x : Store 8 × Fuses} {s : State} (h : Grows x s.kept) : Grows x (pwrEnFall s).kept := by
  unfold pwrEnFall
  split
  · rw [modPower_kept]
    split
    · exact openSwitch_grows h
    · exact h
  · exact h

theorem vinFault_grows {x : Store 8 × Fuses} (mv : Nat) {s : State} (h : Grows x s.kept) : Grows x (vinFault mv s).kept := by
  unfold vinFault
  dsimp only
  split
  · rw [modPower_kept]
    exact openSwitch_grows (by simpa using h)
  · simpa using h

theorem rstNLow_grows {x : Store 8 × Fuses} (ns : Nat) {s : State} (h : Grows x s.kept) : Grows x (rstNLow ns s).kept := by
  unfold rstNLow
  dsimp only
  split
  · split
    · rw [modPower_kept]
      exact coldReset_grows (cut_grows h)
    · simpa using h
  · exact h

theorem thermtripTimeout_grows {x : Store 8 × Fuses} {s : State} (h : Grows x s.kept) : Grows x (thermtripTimeout s).kept := by
  unfold thermtripTimeout
  split
  · split
    · rw [modPower_kept]
      exact openSwitch_grows h
    · exact h
  · exact h

/-! ### Register commands -/

@[simp] theorem drawNonce_kept (s : State) : (drawNonce s).kept = s.kept := kept_eq rfl rfl

@[simp] theorem readPrepare_kept (s : State) (r : Reg) (i : Nat) : (readPrepare s r i).kept = s.kept := by
  unfold readPrepare
  (repeat' split) <;> simp

@[simp] theorem readFinish_kept (s : State) (r : Reg) (i : Nat) : (readFinish s r i).kept = s.kept := by
  unfold readFinish
  dsimp only
  (repeat' split) <;> simp

@[simp] theorem readReg_kept (s : State) (r : Reg) (i : Nat) : (readReg s r i).2.kept = s.kept := by simp [readReg]

@[simp] theorem freeTests_kept (s : State) : (freeTests s).2.kept = s.kept := kept_eq rfl rfl

theorem writeKrgCtl_grows {x : Store 8 × Fuses} {s t : State} {v : Word} (h : Grows x s.kept) (w : writeKrgCtl s v = .ok t) :
    Grows x t.kept := by
  unfold writeKrgCtl at w
  split at w
  case h_5 => cases w; exact askWarm_grows h
  case h_6 => cases w; exact askCold_grows h
  case h_4 =>
    dsimp only at w
    split at w <;> cases w
    simpa using h
  case h_2 => split at w <;> cases w; simpa using h
  case h_3 => split at w <;> cases w; simpa using h
  all_goals cases w; simpa using h

@[simp] theorem writeLkpCtl_kept (s : State) (v : Word) : (writeLkpCtl s v).kept = s.kept := by
  unfold writeLkpCtl
  (repeat' split) <;> simp

theorem writePcapb_kept {p : RegPath} {s t : State} {v : Word} (h : writePcapb p s v = .ok t) : t.kept = s.kept := by
  unfold writePcapb at h
  split at h
  · cases h
  · cases h
    simp

theorem writeReg_grows {x : Store 8 × Fuses} {p : RegPath} {s t : State} {r : Reg} {i : Nat} {v : Word} (h : Grows x s.kept)
    (w : writeReg p s r i v = .ok t) : Grows x t.kept := by
  unfold writeReg at w
  split at w
  · split at w
    · cases w
      simpa using h
    · next blk => exact (blkWrite_kept w) ▸ h
  · split at w
    · exact (writeCommit_kept w) ▸ h
    · exact (writeField_kept w) ▸ h
    · split at w
      case h_1 => exact writeKrgCtl_grows h w
      case h_12 => exact (writePcapb_kept w) ▸ h
      all_goals repeat' split at w
      all_goals cases w
      all_goals simpa using h

theorem writeAddr_grows {x : Store 8 × Fuses} {p : RegPath} {s t : State} {a : Nat} {v : Word} (h : Grows x s.kept)
    (w : writeAddr p s a v = .ok t) : Grows x t.kept := by
  unfold writeAddr at w
  split at w
  · cases w
  · exact writeReg_grows h w

@[simp] theorem readAll_kept (xs : List (Reg × Nat)) (s : State) : (readAll s xs).2.kept = s.kept := by
  induction xs generalizing s with
  | nil => rfl
  | cons x xs ih => exact (ih _).trans (readReg_kept _ _ _)

/-- The state in which a write of several words ends. -/
def WordsOut.state : WordsOut → State
  | .ok s => s
  | .refused s _ _ => s
  | .waits s _ => s

theorem writeAll_grows {x : Store 8 × Fuses} (ws : List (Nat × Word)) {s : State} (k : Nat) (h : Grows x s.kept) :
    Grows x (writeAll s k ws).state.kept := by
  induction ws generalizing s k with
  | nil => exact h
  | cons w ws ih =>
    unfold writeAll
    split
    · next written =>
      have g := writeAddr_grows h written
      split
      · exact ih _ g
      · exact g
    · exact h
    · exact h

@[simp] theorem finishReg_kept (s : State) (w : RegWait) (kind code aux2 : Nat) (data : List Byte) :
    (finishReg s w kind code aux2 data).kept = s.kept := by simp [finishReg]

@[simp] theorem doRead_kept (s : State) (w : RegWait) : (doRead s w).kept = s.kept := by
  unfold doRead
  dsimp only
  (repeat' split) <;> simp

theorem doWrite_grows {x : Store 8 × Fuses} {s : State} (w : RegWait) (h : Grows x s.kept) : Grows x (doWrite s w).1.kept := by
  have g := writeAll_grows ((entryWords w.entry).drop w.done) w.done h
  unfold doWrite
  split
  · simpa using h
  · split <;> rename_i written <;> rw [written] at g
    · exact (finishReg_kept _ _ _ _ _ _).symm ▸ g
    · exact (finishReg_kept _ _ _ _ _ _).symm ▸ g
    · exact g

@[simp] theorem setRegs_kept (s : State) (ws : List RegWait) : (setRegs s ws).kept = s.kept := kept_eq rfl rfl

theorem runRegs_grows {x : Store 8 × Fuses} (ws : List RegWait) {s : State} (h : Grows x s.kept) : Grows x (runRegs ws s).kept := by
  induction ws generalizing s with
  | nil => exact h
  | cons w ws ih =>
    have g := doWrite_grows w h
    unfold runRegs
    split
    · exact h
    · split
      · exact ih (by simpa using h)
      · split <;> rename_i written <;> rw [written] at g
        · exact ih g
        · exact g

theorem regCmd_grows {x : Store 8 × Fuses} (ring op : Nat) {s : State} (h : Grows x s.kept) : Grows x (regCmd ring op s).kept := by
  refine onCmd_ind _ _ _ _ (fun _ stays => stays ▸ h) fun e cid => ?_
  dsimp only
  split
  · exact runRegs_grows _ (by simpa using h)
  · simpa using h

theorem keyringRecordWrite_grows {x : Store 8 × Fuses} {s : State} (h : Grows x s.kept) : Grows x (keyringRecordWrite s).kept := by
  have g : Grows x (recordWrite s).kept := by simpa using h
  unfold keyringRecordWrite
  dsimp only
  split
  · split
    · exact g
    · exact runRegs_grows _ g
  · exact h

theorem i3cWrite_grows {x : Store 8 × Fuses} {s : State} (a : Nat) (v : Word) (h : Grows x s.kept) :
    Grows x (i3cWrite s a v).2.kept := by
  unfold i3cWrite
  split
  · exact h
  · split
    · exact h
    · split
      · next written => exact writeReg_grows h written
      · exact h
      · exact h

theorem i3cPrivateWrite_grows {x : Store 8 × Fuses} (bytes : List Byte) {s : State} (h : Grows x s.kept) :
    Grows x (i3cPrivateWrite bytes s).kept := by
  unfold i3cPrivateWrite
  dsimp only
  split
  · exact h
  · split
    · exact h
    · split
      · exact h
      · split
        · split <;> exact h
        · exact i3cWrite_grows _ _ h

@[simp] theorem i3cPrivateRead_kept (s : State) : (i3cPrivateRead s).kept = s.kept := by
  unfold i3cPrivateRead
  (repeat' split) <;> simp

theorem registerWrite_grows {x : Store 8 × Fuses} (p : RegPath) (addr : BitVec 64) (v : BitVec 32) {s : State} (h : Grows x s.kept) :
    Grows x (registerWrite p addr v s).kept := by
  unfold registerWrite
  split
  · exact h
  · split
    · split
      · exact i3cWrite_grows _ _ h
      · exact h
    · split
      · exact h
      · split
        · next written => exact writeAddr_grows h written
        · exact h

end Sys2Proof.Machine
end

section
/-! SUPPORT. The list engines and a management cycle: what leaves bytes and fuses alone, and what only keeps the canonical form. -/

namespace Sys2Proof.Machine

/-! ### Reduction and variate engines -/

@[simp] theorem trnFault_kept (s : State) (r : Fin 8) (lid : BitVec 32) (code off rec idx : Nat) :
    (trnFault s r lid code off rec idx).kept = s.kept := by simp [trnFault]

@[simp] theorem rndFault_kept (s : State) (r : Fin 8) (lid : BitVec 32) (code off idx : Nat) :
    (rndFault s r lid code off idx).kept = s.kept := by simp [rndFault]

@[simp] theorem redFault_kept (s : State) (r : Fin 8) (lid : BitVec 32) (code off idx : Nat) :
    (redFault s r lid code off idx).kept = s.kept := by simp [redFault]

@[simp] theorem tmbKat_kept (s : State) (q : WaitUnit) (lid : BitVec 32) (unit idx : Nat) :
    (tmbKat s q lid unit idx).kept = s.kept := by simp [tmbKat]

theorem rveEntry_ind {P : State → Prop} (s : State) (r : Fin 8) (op : Nat) (k : ListRun → Launch → BitVec 512 → State)
    (stays : ∀ t, t.kept = s.kept → P t) (runs : ∀ u l d, P (k u l d)) : P (rveEntry s r op k) := by
  unfold rveEntry
  split
  · exact stays _ rfl
  · split
    · exact stays _ (redFault_kept _ _ _ _ _ _)
    · split
      · exact stays _ (unitMemHalt_kept _ _ _ _ _)
      · dsimp only
        split
        · exact stays _ (trnFault_kept _ _ _ _ _ _ _)
        · split
          · exact runs _ _ _
          · exact stays _ rfl

@[simp] theorem rveEntry_kept (s : State) (r : Fin 8) (op : Nat) (k : ListRun → Launch → BitVec 512 → State)
    (h : ∀ u l d, (k u l d).kept = s.kept) : (rveEntry s r op k).kept = s.kept :=
  rveEntry_ind s r op k (fun _ stays => stays) h

@[simp] theorem rveGroup_kept (s : State) (r : Fin 8) (u : ListRun) (l : Launch) (sp : Space) (e : Nat) (ws : List (Nat × List Byte))
    (fin : State → State) (h : ∀ t, (fin t).kept = t.kept) : (rveGroup s r u l sp e ws fin).kept = s.kept := by
  unfold rveGroup
  dsimp only
  split <;> simp [h]

theorem readsThen_ind {P : State → Prop} (s : State) (r : Fin 8) (u : ListRun) (l : Launch) (xs : List Range) (k : State)
    (stays : ∀ t, t.kept = s.kept → P t) (runs : P k) : P (readsThen s r u l xs k) := by
  unfold readsThen
  split
  · exact stays _ rfl
  · split
    · exact stays _ (unitMemHalt_kept _ _ _ _ _)
    · exact runs

@[simp] theorem storeMem_kept (s : State) (r : Fin 8) (lid : BitVec 32) (a : Nat) (bs : List Byte) :
    (storeMem s r lid a bs).kept = s.kept := kept_eq rfl rfl

@[simp] theorem trnRun_kept (s : State) (r : Fin 8) (u : ListRun) (l : Launch) (i : Nat) (bad : Option Nat) (rec : Bool) (xs : List Range)
    (k : State) (h : k.kept = s.kept) : (trnRun s r u l i bad rec xs k).kept = s.kept := by
  unfold trnRun
  split
  · simp
  · split
    · simp
    · split
      · simp
      · exact readsThen_ind s r u l xs k (fun _ stays => stays) h

@[simp] theorem uwrStore_kept (r : Fin 8) (l : Launch) (d : BitVec 512) (s0 : State) : (uwrStore r l d s0).kept = s0.kept :=
  kept_eq rfl rfl

@[simp] theorem uwr_kept (r : Fin 8) (s : State) : (uwr r s).kept = s.kept :=
  rveEntry_kept _ _ _ _ fun u l d => trnRun_kept _ _ _ _ _ _ _ _ _ (by simp)

@[simp] theorem lrexpStore_kept (r : Fin 8) (l : Launch) (d : BitVec 512) (s0 : State) :
    (lrexpStore r l d s0).kept = s0.kept := by simp [lrexpStore]

@[simp] theorem lrexp_kept (r : Fin 8) (s : State) : (lrexp r s).kept = s.kept :=
  rveEntry_kept _ _ _ _ fun u l d => trnRun_kept _ _ _ _ _ _ _ _ _ (by simp)

@[simp] theorem amxpStore_kept (r : Fin 8) (l : Launch) (d : BitVec 512) (s : State) : (amxpStore r l d s).kept = s.kept := by
  unfold amxpStore
  split <;> simp

@[simp] theorem amxp_kept (r : Fin 8) (s : State) : (amxp r s).kept = s.kept :=
  rveEntry_kept _ _ _ _ fun u l d => trnRun_kept _ _ _ _ _ _ _ _ _ (by simp)

@[simp] theorem sprepStore_kept (r : Fin 8) (l : Launch) (d : BitVec 512) (s0 : State) :
    (sprepStore r l d s0).kept = s0.kept := by
  unfold sprepStore
  split <;> simp

@[simp] theorem sprep_kept (r : Fin 8) (s : State) : (sprep r s).kept = s.kept := by
  refine rveEntry_kept _ _ _ _ fun u l d => ?_
  split
  · simp
  · exact trnRun_kept _ _ _ _ _ _ _ _ _ (by simp)

@[simp] theorem gcvt_kept (r : Fin 8) (s : State) : (gcvt r s).kept = s.kept := by
  refine rveEntry_kept _ _ _ _ fun u l d => ?_
  split
  · simp
  · exact trnRun_kept _ _ _ _ _ _ _ _ _ (rveGroup_kept _ _ _ _ _ _ _ _ fun _ => rfl)

@[simp] theorem draw_kept (s : State) (r : Fin 8) (u : ListRun) (l : Launch) (d : BitVec 512) (e : Nat) (ws : List (Nat × List Byte)) :
    (draw s r u l d e ws).kept = s.kept := by
  unfold draw
  split
  · simp
  · exact rveGroup_kept _ _ _ _ _ _ _ _ fun _ => rfl

@[simp] theorem bern_kept (r : Fin 8) (s : State) : (bern r s).kept = s.kept := by
  refine rveEntry_kept _ _ _ _ fun u l d => ?_
  (repeat' split) <;> simp

@[simp] theorem variates_kept (r : Fin 8) (s : State) (op : Nat) (f : BitVec 512 → Launch → Nat → Word) : (variates r s op f).kept = s.kept := by
  refine rveEntry_kept _ _ _ _ fun u l d => ?_
  (repeat' split) <;> simp

@[simp] theorem noise_kept (r : Fin 8) (s : State) : (noise r s).kept = s.kept := by
  refine rveEntry_kept _ _ _ _ fun u l d => ?_
  (repeat' split) <;> simp

@[simp] theorem redSig_kept (s : State) (r : Fin 8) (u : ListRun) (l : Launch) (d : BitVec 512) :
    (redSig s r u l d).kept = s.kept := by
  unfold redSig
  split <;> simp

@[simp] theorem taddRun_kept (cycles : List Nat) (s : State) (r : Fin 8) (u : ListRun) (l : Launch) (d : BitVec 512) :
    (taddRun cycles s r u l d).kept = s.kept := by
  unfold taddRun
  dsimp only
  split
  · simp
  · exact rveGroup_kept _ _ _ _ _ _ _ _ fun _ => redSig_kept _ _ _ _ _

@[simp] theorem tadd_kept (r : Fin 8) (cycles : List Nat) (s : State) : (tadd r cycles s).kept = s.kept := by
  refine rveEntry_kept _ _ _ _ fun u l d => ?_
  (repeat' split)
  any_goals simp
  exact readsThen_ind _ _ _ _ _ _ (fun _ stays => stays) (taddRun_kept _ _ _ _ _ _)

theorem saddRow_grows {x : Store 8 × Fuses} {s : State} (r : Fin 8) (l : Launch) (d : BitVec 512) (i : Nat) (h : Grows x s.kept) :
    Grows x (saddRow s r l d i).kept := by
  unfold saddRow
  split
  · exact h
  · dsimp only
    split
    · exact putMem_grows _ _ _ _ _ h
    · simpa using h

theorem saddRun_grows {x : Store 8 × Fuses} {s : State} (r : Fin 8) (u : ListRun) (l : Launch) (d : BitVec 512) (h : Grows x s.kept) :
    Grows x (saddRun s r u l d).kept := by
  have row := saddRow_grows r l d u.part h
  unfold saddRun
  split
  · split
    · exact h
    · dsimp only
      split <;> simpa using row
  · rw [rveGroup_kept _ _ _ _ _ _ _ _ fun _ => redSig_kept _ _ _ _ _]
    exact h

theorem sadd_grows {x : Store 8 × Fuses} (r : Fin 8) {s : State} (h : Grows x s.kept) : Grows x (sadd r s).kept := by
  refine rveEntry_ind _ _ _ _ (fun _ stays => stays ▸ h) fun u l d => ?_
  split
  · simpa using h
  · split
    · simpa using h
    · exact readsThen_ind _ _ _ _ _ _ (fun _ stays => stays ▸ h) (saddRun_grows _ _ _ _ h)

/-! ### The samplers -/

@[simp] theorem smpFault_kept (s : State) (h : Fin 2) (lid : BitVec 32) (code off idx : Nat) :
    (smpFault s h lid code off idx).kept = s.kept := by simp [smpFault]

@[simp] theorem smpEntry_kept (s : State) (h : Fin 2) (k : ListRun → Launch → BitVec 512 → State) (runs : ∀ u l d, (k u l d).kept = s.kept) :
    (smpEntry s h k).kept = s.kept := by
  unfold smpEntry
  (repeat' split) <;> simp [runs]

@[simp] theorem sampleStart_kept (h : Fin 2) (s : State) : (sampleStart h s).kept = s.kept := by
  refine smpEntry_kept _ _ _ fun u l d => ?_
  dsimp only
  (repeat' split) <;> simp

@[simp] theorem smpDone_kept (s : State) (h : Fin 2) (l : Launch) (idx : Nat) (d : BitVec 512) :
    (smpDone s h l idx d).kept = s.kept := by
  unfold smpDone
  split <;> simp

@[simp] theorem samplerRow_kept (h : Fin 2) (s : State) : (samplerRow h s).kept = s.kept := by
  refine smpEntry_kept _ _ _ fun u l d => ?_
  dsimp only
  (repeat' split) <;> simp

/-! ### The convolution engines -/

@[simp] theorem sceRound_kept (s0 : State) (r : Fin 8) (lid : BitVec 32) (c : SceDesc) (i : Nat) :
    (sceRound s0 r lid c i).kept = s0.kept := by simp [sceRound]

@[simp] theorem sceFault_kept (s : State) (r : Fin 8) (lid : BitVec 32) (code off idx : Nat) :
    (sceFault s r lid code off idx).kept = s.kept := by simp [sceFault]

@[simp] theorem sceDone_kept (s : State) (r : Fin 8) (lid : BitVec 32) (idx : Nat) (d : BitVec 512) :
    (sceDone s r lid idx d).kept = s.kept := by
  unfold sceDone
  split <;> simp

@[simp] theorem sceStep_kept (s : State) (r : Fin 8) (lid : BitVec 32) (c : SceDesc) (u : ListRun) (d : BitVec 512) :
    (sceStep s r lid c u d).kept = s.kept := by
  unfold sceStep
  split <;> simp

@[simp] theorem sceConv_kept (r : Fin 8) (s : State) : (sceConv r s).kept = s.kept := by
  unfold sceConv
  dsimp only
  (repeat' split) <;> simp

/-! ### The video engines -/

@[simp] theorem vseFault_kept (s : State) (h : Fin 2) (lid : BitVec 32) (code off idx : Nat) :
    (vseFault s h lid code off idx).kept = s.kept := by simp [vseFault]

@[simp] theorem vseEntry_kept (s : State) (h : Fin 2) (op : Nat) (k : State → Launch → Nat → BitVec 512 → State)
    (runs : ∀ t l i d, (k t l i d).kept = t.kept) : (vseEntry s h op k).kept = s.kept := by
  unfold vseEntry
  dsimp only
  repeat' split
  any_goals simp [runs]

@[simp] theorem keepSess_kept (s : State) (x : Session) : (keepSess s x).kept = s.kept := kept_eq rfl rfl

@[simp] theorem withSession_kept (s : State) (h : Fin 2) (l : Launch) (idx a kind : Nat) (k : List Byte → Session → State)
    (runs : ∀ r x, (k r x).kept = s.kept) : (withSession s h l idx a kind k).kept = s.kept := by
  unfold withSession
  (repeat' split) <;> simp [runs]

@[simp] theorem vseReads_kept (s : State) (h : Fin 2) (l : Launch) (idx : Nat) (xs : List Range) (k : State) (runs : k.kept = s.kept) :
    (vseReads s h l idx xs k).kept = s.kept := by
  unfold vseReads
  (repeat' split) <;> simp [runs]

@[simp] theorem openSession_kept (enc : Bool) (h : Fin 2) (s : State) : (openSession enc h s).kept = s.kept := by
  refine vseEntry_kept _ _ _ _ fun s l i d => ?_
  dsimp only
  split
  · simp
  · split
    · simp
    · split
      · simp
      · refine vseReads_kept _ _ _ _ _ _ ?_
        split <;> simp

@[simp] theorem vseWait_kept (s : State) (h : Fin 2) (l : Launch) (d : BitVec 512) (k : State) (runs : k.kept = s.kept) :
    (vseWait s h l d k).kept = s.kept := by
  unfold vseWait
  dsimp only
  split
  · simp
  · exact runs

@[simp] theorem vseSignal_kept (s : State) (h : Fin 2) (l : Launch) (idx : Nat) (d : BitVec 512) (n : Nat) :
    (vseSignal s h l idx d n).kept = s.kept := by
  unfold vseSignal
  split <;> simp

@[simp] theorem vseRowOut_kept (s : State) (h : Fin 2) (l : Launch) (idx : Nat) (d : BitVec 512) (j : VseJob) (x : VseRow) :
    (vseRowOut s h l idx d j x).kept = s.kept := by
  unfold vseRowOut
  dsimp only
  split <;> simp

@[simp] theorem vseFinish_kept (s : State) (h : Fin 2) (l : Launch) (idx : Nat) (d : BitVec 512) (j : VseJob) (out st : List Byte) (lastres filler damaged : Bool) (concealed : Nat) :
    (vseFinish s h l idx d j out st lastres filler damaged concealed).kept = s.kept := by
  unfold vseFinish
  (repeat' split) <;> simp

@[simp] theorem decodeEnd_kept (s : State) (h : Fin 2) (l : Launch) (d : BitVec 512) (j : VseJob) (flush : Bool) (r : List Byte) (k : DecKey)
    (e : DecState) : (decodeEnd s h l d j flush r k e).kept = s.kept := by
  simp [decodeEnd]

@[simp] theorem vseGoOn_kept (s : State) (h : Fin 2) (l : Launch) (idx : Nat) (d : BitVec 512) (j : VseJob) :
    (vseGoOn s h l idx d j).kept = s.kept := by
  unfold vseGoOn
  split <;> simp

@[simp] theorem vseBegin_kept (s : State) (h : Fin 2) (l : Launch) (j : VseJob) : (vseBegin s h l j).kept = s.kept :=
  kept_eq rfl rfl

@[simp] theorem epicCode_kept (s : State) (h : Fin 2) (l : Launch) (d : BitVec 512) (r : List Byte) (e : EncState) (o : Nat × List Nat × Nat) :
    (epicCode s h l d r e o).kept = s.kept := kept_eq rfl rfl

@[simp] theorem epic_kept (h : Fin 2) (s : State) : (epic h s).kept = s.kept := by
  refine vseEntry_kept _ _ _ _ fun s l i d => ?_
  dsimp only
  split
  · simp
  · split
    · simp
    · simp
    · refine vseWait_kept _ _ _ _ _ (withSession_kept _ _ _ _ _ _ _ fun r x => ?_)
      (repeat' split) <;> simp

@[simp] theorem dauCode_kept (s : State) (h : Fin 2) (l : Launch) (d : BitVec 512) (flush : Bool) (r : List Byte) (e : DecState) :
    (dauCode s h l d flush r e).kept = s.kept := kept_eq rfl rfl

@[simp] theorem dau_kept (flush : Bool) (h : Fin 2) (s : State) : (dau flush h s).kept = s.kept := by
  refine vseEntry_kept _ _ _ _ fun s l i d => ?_
  dsimp only
  split
  · simp
  · split
    · simp
    · simp
    · refine vseWait_kept _ _ _ _ _ (withSession_kept _ _ _ _ _ _ _ fun r x => ?_)
      (repeat' split) <;> simp

/-! ### A management cycle -/

@[simp] theorem tickTime_kept (s : State) : (tickTime s).kept = s.kept := by
  unfold tickTime
  split <;> simp

theorem tickNet_grows {x : Store 8 × Fuses} {s : State} (h : Grows x s.kept) : Grows x (tickNet s).kept := by
  unfold tickNet
  dsimp only
  refine pumpNet_grows ?_
  split <;> simpa using h

@[simp] theorem tickHot_kept (s : State) (i : Nat) : (tickHot s i).kept = s.kept := by
  unfold tickHot
  dsimp only
  (repeat' split) <;> simp

theorem tick_grows {x : Store 8 × Fuses} {s : State} (h : Grows x s.kept) : Grows x (tick s).kept := by
  have units : Grows x (tickNet (tickTime s)).kept := tickNet_grows (by simpa using h)
  simpa [tick] using units

end Sys2Proof.Machine
end

section
/-! SUPPORT. A step keeps memory in its canonical form and returns no fuse: command by command, and with none (R620). -/

namespace Sys2Proof.Machine

theorem grows_of_next {s t u : State} (h : Grows s.kept u.kept) (e : Host.Outcome.next (φ := Fault) (ρ := Refusal) u = .next t) :
    Grows s.kept t.kept := by
  cases e
  exact h

theorem grows_of_kept {s u : State} (h : u.kept = s.kept) : Grows s.kept u.kept := h ▸ .refl _

theorem betweenPackets_grows (s : State) : Grows s.kept (betweenPackets s).kept := grows_of_kept (betweenPackets_kept s)

/-! ### The commands whose outcome asks for an entry at the front of a queue -/

theorem execLdt_grows {b : Fin 48} {u : Upset} {s t : State} (h : execLdt b u s = .next t) : Grows s.kept t.kept := by
  unfold execLdt at h
  split at h
  · exact grows_of_next (.refl _) h
  · refine grows_of_next (grows_of_kept ?_) h
    split
    · rfl
    · refine withUpset_kept _ _ _ _ _ fun t => ?_
      dsimp only
      (repeat' split) <;> simp

theorem execStt_grows {b : Fin 48} {u : Upset} {s t : State} (h : execStt b u s = .next t) : Grows s.kept t.kept := by
  unfold execStt at h
  split at h
  · exact grows_of_next (.refl _) h
  · refine grows_of_next (grows_of_kept (withUpset_kept _ _ _ _ _ fun t => ?_)) h
    dsimp only
    split <;> simp

theorem execDrn_grows {b : Fin 48} {u : Upset} {s t : State} (h : execDrn b u s = .next t) : Grows s.kept t.kept := by
  unfold execDrn at h
  split at h
  · exact grows_of_next (.refl _) h
  · refine grows_of_next (grows_of_kept (withUpset_kept _ _ _ _ _ fun t => ?_)) h
    dsimp only
    split <;> simp

theorem execRsc_grows {b : Fin 48} {u : Upset} {s t : State} (h : execRsc b u s = .next t) : Grows s.kept t.kept := by
  unfold execRsc at h
  split at h
  · exact grows_of_next (.refl _) h
  · exact grows_of_next (grows_of_kept (withUpset_kept _ _ _ _ _ fun t => by simp)) h

/-! ### Every command -/

/-- No command spoils the canonical form or returns a fuse: those that reach memory or the fuses, those of a ring, those that act on
a condition, and all others, which leave both alone. -/
theorem exec_grows (i : Instr) {s t : State} : exec i s = .next t → Grows s.kept t.kept := by
  cases i
  case ldt => exact execLdt_grows
  case stt => exact execStt_grows
  case drn => exact execDrn_grows
  case rsc => exact execRsc_grows
  case sadd =>
    exact grows_of_next (unitUpset_ind (P := fun t => Grows s.kept t.kept) _ _ _ _ _ (fun _ stays => grows_of_kept stays) fun _ same =>
      sadd_grows _ (grows_of_kept same))
  case regrd => exact grows_of_next (regCmd_grows _ _ (.refl _))
  case regwr => exact grows_of_next (regCmd_grows _ _ (.refl _))
  case saveComplete => exact grows_of_next (saveComplete_grows _ (.refl _))
  case turnEnd => exact grows_of_next (turnEnd_grows _ (.refl _))
  case memoryWrite => exact grows_of_next (storeUpset_grows _ _ (fun _ h => memoryWrite_grows _ h) (.refl _))
  case readModifyWrite => exact grows_of_next (storeUpset_grows _ _ (fun _ h => readModifyWrite_grows _ _ h) (.refl _))
  case registerWrite => exact grows_of_next (registerWrite_grows _ _ _ (.refl _))
  case frameReceive => exact grows_of_next (frameReceive_grows _ (betweenPackets_grows s))
  case send => exact grows_of_next (netIn_grows _ _ (betweenPackets_grows s))
  case sendWithImmediate => exact grows_of_next (netIn_grows _ _ (betweenPackets_grows s))
  case rdmaWrite => exact grows_of_next (netIn_grows _ _ (betweenPackets_grows s))
  case rdmaWriteWithImmediate => exact grows_of_next (netIn_grows _ _ (betweenPackets_grows s))
  case rdmaRead => exact grows_of_next (netIn_grows _ _ (betweenPackets_grows s))
  case doorbell => exact grows_of_next (netIn_grows _ _ (betweenPackets_grows s))
  case hotSwapClose => exact grows_of_next (hotSwapClose_grows _ (.refl _))
  case pwrEnFall => exact grows_of_next (pwrEnFall_grows (.refl _))
  case vinFault => exact grows_of_next (vinFault_grows _ (.refl _))
  case rstNLow => exact grows_of_next (rstNLow_grows _ (.refl _))
  case thermtripTimeout => exact grows_of_next (thermtripTimeout_grows (.refl _))
  case dieTempSample => exact grows_of_next (dieTempSample_grows _ _ _ _ (.refl _))
  case startUp => exact grows_of_next (startUp_grows _ (.refl _))
  case bootStepTimeout => exact grows_of_next (bootTimeout_grows (.refl _))
  case keyringRecordWrite => exact grows_of_next (keyringRecordWrite_grows (.refl _))
  case fwinstallDone => exact grows_of_next (fwinstallDone_grows _ (.refl _))
  case cfgprogDone => exact grows_of_next (cfgprogDone_grows _ (.refl _))
  case cold => exact grows_of_next (askCold_grows (.refl _))
  case warm => exact grows_of_next (askWarm_grows (.refl _))
  case dbgacc => exact grows_of_next (dbgacc_grows _ (.refl _))
  case i3cPrivateWrite => exact grows_of_next (i3cPrivateWrite_grows _ (.refl _))
  case grantApplied => exact grows_of_next (grantApplied_grows _ (.refl _))
  case hltLifeDone => exact grows_of_next (hltLifeDone_grows (.refl _))
  case attestDone => exact grows_of_next (attestDone_grows _ (.refl _))
  all_goals refine grows_of_next (grows_of_kept ?_)
  case rveEnd =>
    refine rveEntry_kept _ _ _ _ fun u l d => ?_
    split <;> simp
  case smpEnd =>
    refine smpEntry_kept _ _ _ fun u l d => ?_
    split <;> simp
  case launch =>
    refine onCmd_kept _ _ _ _ fun e cid => ?_
    split <;> simp
  case stop =>
    refine onCmd_kept _ _ _ _ fun e cid => onLaunch_kept _ _ _ _ _ fun t l => ?_
    (repeat' split) <;> simp
  case abort =>
    refine onCmd_kept _ _ _ _ fun e cid => onLaunch_kept _ _ _ _ _ fun t l => ?_
    split <;> simp
  case resume =>
    refine onCmd_kept _ _ _ _ fun e cid => ?_
    split
    · rfl
    · refine onLaunch_kept _ _ _ _ _ fun t l => ?_
      (repeat' split) <;> simp
  case mark =>
    refine onCmd_kept _ _ _ _ fun e cid => ?_
    (repeat' split) <;> simp
  case lineFetch =>
    split
    · rfl
    · split
      · rfl
      · exact withUpset_kept _ _ _ _ _ fun t => by simp
  case wfl =>
    split
    · rfl
    · dsimp only
      split <;> simp
  case syn | sfl | fin | wflComplete | cnpInvEntry | sceEnd | linkRetrainDone | mscFlushDone | nonceRead | pfcFrame | cmRtu |
      cmDreq | announce | refclkRetry | i3cDynamicAddress =>
    (repeat' split) <;> simp
  all_goals simp

/-- No step spoils the canonical form of memory or returns a fuse. -/
theorem step_grows {s t : State} (h : step s = .next t) : Grows s.kept t.kept := by
  unfold step at h
  split at h
  · exact grows_of_next (tick_grows (.refl _)) h
  · have g := exec_grows _ h
    rwa [kept_mk] at g

/-- Settles O59: the canonical form speaks of the bytes of memory, and no step spoils it. -/
theorem memoryStaysCanonical : Obligations.MemoryStaysCanonical := by
  unfold Obligations.MemoryStaysCanonical
  intro s t wf h
  obtain ⟨stays, -⟩ := step_grows h
  exact stays wf

/-- Settles O60: no step returns a fuse. -/
theorem fusesNeverReturn : Obligations.FusesNeverReturn := by
  unfold Obligations.FusesNeverReturn
  intro s t h
  obtain ⟨-, fuses⟩ := step_grows h
  exact fuses

/-- Settles O1: with a command at the front, the step is that command on the rest of the queue. -/
theorem stepRunsFrontCommand : Obligations.StepRunsFrontCommand := by
  unfold Obligations.StepRunsFrontCommand
  intro c rest s
  rfl

end Sys2Proof.Machine
end

section
/-! SUPPORT. What the network layer's operations do to connections, rings and the line (12_latch_transport.md). -/

namespace Sys2Proof.Machine

/-! ### Connections by their queue pair -/

theorem qp_of_findConn {s : State} {qp : BitVec 24} {c : Conn} (found : findConn s qp = some c) : c.qp = qp := by
  simpa using List.find?_some found

/-- A change of connections that keeps their queue pairs is seen at each of them. -/
theorem findConn_of_map {s t : State} {g : Conn → Conn} (conns : t.net.conns = s.net.conns.map g) (named : ∀ c, (g c).qp = c.qp)
    (qp : BitVec 24) : findConn t qp = (findConn s qp).map g := by
  unfold findConn
  rw [conns, List.find?_map]
  congr 2
  funext c
  simp [named]

theorem findConn_modConn_some {s : State} {qp : BitVec 24} {c : Conn} (found : findConn s qp = some c) {f : Conn → Conn}
    (named : ∀ c, (f c).qp = c.qp) : findConn (modConn s qp f) qp = some (f c) := by
  rw [findConn_of_map (s := s) rfl (fun c => by split <;> simp [named]), found, Option.map_some,
    if_pos (qp_of_findConn found)]

theorem findConn_congr {s t : State} (conns : t.net.conns = s.net.conns) (qp : BitVec 24) : findConn t qp = findConn s qp := by
  unfold findConn
  rw [conns]

@[simp] theorem findConn_send (s : State) (x : Tx) (qp : BitVec 24) : findConn (send s x) qp = findConn s qp :=
  findConn_congr (send_conns s x) qp

theorem mem_of_findConn {s : State} {qp : BitVec 24} {c : Conn} (found : findConn s qp = some c) : c ∈ s.net.conns :=
  List.mem_of_find?_eq_some found

theorem findConn_of_upConn {s : State} {qp : BitVec 24} {c : Conn} (up : upConn s qp = some c) :
    findConn s qp = some c ∧ c.up = true ∧ portUp s = true := by
  unfold upConn at up
  split at up
  case isTrue works =>
    obtain ⟨found, set⟩ := Option.filter_eq_some_iff.mp up
    exact ⟨found, set, works⟩
  case isFalse => cases up

theorem upConn_of_findConn {s : State} {qp : BitVec 24} {c : Conn} (works : portUp s = true) (found : findConn s qp = some c)
    (set : c.up = true) : upConn s qp = some c := by
  unfold upConn
  rw [if_pos works, found]
  simp [set]

theorem roleEvent_net (s : State) (x : Nat) : (roleEvent s x).net = s.net := by rw [roleEvent_frame]

theorem roleEvent_rings (s : State) (x : Nat) : (roleEvent s x).rings = s.rings := by rw [roleEvent_frame]

@[simp] theorem findConn_roleEvent (s : State) (x : Nat) (qp : BitVec 24) : findConn (roleEvent s x) qp = findConn s qp :=
  findConn_congr (by rw [roleEvent_net]) qp

theorem findConn_sendAck {s : State} {qp : BitVec 24} {c : Conn} (found : findConn s qp = some c) (x : Tx) :
    findConn (sendAck s qp x) qp = some c.sent :=
  findConn_modConn_some ((findConn_send s x qp).trans found) fun _ => rfl

/-- A change of one connection leaves the role and the failure of each as they are, so the owner is the same up to that change. -/
theorem ownerConn_modConn (s : State) (qp : BitVec 24) {f : Conn → Conn} (role : ∀ c, (f c).role = c.role)
    (failed : ∀ c, (f c).failed = c.failed) :
    ownerConn (modConn s qp f) = (ownerConn s).map fun c => if c.qp = qp then f c else c := by
  unfold ownerConn modConn
  dsimp only
  rw [List.find?_map]
  congr 2
  funext c
  simp only [Function.comp]
  split <;> simp [role, failed]

/-! ### What an action hands to the line -/

/-- An action of the network layer: its network state, rings, completions, status registers and free values alone change, the link,
the pause and the configuration stay, and `xs` is what it hands to the line. -/
structure Said (xs : List Tx) (s t : State) : Prop where
  only : NetOnly s t
  link : rfld t .netStat 0 31 31 = rfld s .netStat 0 31 31
  pause : t.net.pause = s.net.pause
  cfg : t.net.cfg = s.net.cfg
  sends : Sends xs s t

theorem NetOnly.refl (s : State) : NetOnly s s := rfl

theorem NetOnly.trans {s t u : State} (h : NetOnly s t) (k : NetOnly t u) : NetOnly s u := by
  unfold NetOnly at *
  rw [k, h]

/-- Nothing is handed to the line by what leaves the line alone. -/
theorem sends_nil {s t : State} (tx : t.net.tx = s.net.tx) (txq : t.net.txq = s.net.txq) : Sends [] s t := by
  unfold Sends
  split
  · exact ⟨tx, txq⟩
  · split <;> simp [tx, txq]

theorem Sends.append {xs ys : List Tx} {s t u : State} (h : Sends xs s t) (k : Sends ys t u)
    (link : rfld t .netStat 0 31 31 = rfld s .netStat 0 31 31) (pause : t.net.pause = s.net.pause) (cfg : t.net.cfg = s.net.cfg) :
    Sends (xs ++ ys) s u := by
  unfold Sends at *
  rw [link, pause, cfg] at k
  split at h
  case isTrue down =>
    rw [if_pos down] at k ⊢
    exact ⟨k.1.trans h.1, k.2.trans h.2⟩
  case isFalse down =>
    rw [if_neg down] at k ⊢
    split at h
    case isTrue going =>
      rw [if_pos going] at k ⊢
      exact ⟨by rw [k.1, h.1, List.map_append, List.append_assoc], k.2.trans h.2⟩
    case isFalse going =>
      rw [if_neg going] at k ⊢
      exact ⟨by rw [k.1, h.1, List.filter_append, List.map_append, List.append_assoc],
        by rw [k.2, h.2, List.filter_append, List.append_assoc]⟩

/-- A PFC frame of the device's own is sent whatever holds the rest. -/
theorem sends_send_any (s : State) (x : Tx) : Sends [x] s (send s x) := by
  by_cases pauses : x.pauses = true
  · exact sends_send s pauses
  · unfold Sends send
    by_cases down : rfld s .netStat 0 31 31 = 0
    · rw [if_pos down, if_pos down]
      exact ⟨rfl, rfl⟩
    · rw [if_neg down, if_neg down, if_neg (c := s.net.pause ≠ 0 ∧ x.pauses = true) fun held => pauses held.2]
      split <;> simp [pauses]

namespace Said

variable {xs ys : List Tx} {s t u : State}

theorem trans (h : Said xs s t) (k : Said ys t u) : Said (xs ++ ys) s u where
  only := h.only.trans k.only
  link := k.link.trans h.link
  pause := k.pause.trans h.pause
  cfg := k.cfg.trans h.cfg
  sends := h.sends.append k.sends h.link h.pause h.cfg

/-- An action that says nothing, before one that says `xs`. -/
theorem after (k : Said xs t u) (h : Said [] s t) : Said xs s u := h.trans k

/-- An action that says nothing, behind one that says `xs`. -/
theorem before (h : Said xs s t) (k : Said [] t u) : Said xs s u := by simpa using h.trans k

theorem refl (s : State) : Said [] s s := ⟨NetOnly.refl s, rfl, rfl, rfl, sends_nil rfl rfl⟩

/-- What leaves the registers and the line alone says nothing. -/
theorem quiet (only : NetOnly s t) (regs : t.regs = s.regs)
    (line : t.net.pause = s.net.pause ∧ t.net.cfg = s.net.cfg ∧ t.net.tx = s.net.tx ∧ t.net.txq = s.net.txq) : Said [] s t := by
  obtain ⟨pause, cfg, tx, txq⟩ := line
  exact ⟨only, by simp only [Machine.rfld, rreg_congr regs], pause, cfg, sends_nil tx txq⟩

/-- What writes registers other than NET_STAT and leaves the network state alone says nothing. -/
theorem ofRegs {l : List Nat} (only : NetOnly s t) (regs : RegsBut l s t) (apart : regAddr .netStat 0 ∉ l) (net : t.net = s.net) :
    Said [] s t :=
  ⟨only, regs.rfld apart 31 31, by rw [net], by rw [net], sends_nil (by rw [net]) (by rw [net])⟩

end Said

theorem said_modConn (s : State) (qp : BitVec 24) (f : Conn → Conn) : Said [] s (modConn s qp f) :=
  .quiet rfl rfl ⟨rfl, rfl, rfl, rfl⟩

theorem said_send (s : State) (x : Tx) : Said [x] s (send s x) where
  only := by
    unfold NetOnly
    conv_lhs => rw [send_frame]
    simp only [send_rings, send_comps, send_regs, send_freeCtr]
    congr 1
    rw [send_frame]
  link := by simp [rfld, rreg]
  pause := by rw [send_frame]
  cfg := by rw [send_frame]
  sends := sends_send_any s x

theorem said_sendAck (s : State) (qp : BitVec 24) (x : Tx) : Said [x] s (sendAck s qp x) :=
  (said_send s x).before (said_modConn _ qp _)

theorem said_reply (s : State) (qp : BitVec 24) (bs : List Byte) : Said [.reply qp bs] s (reply s qp bs) := said_sendAck s qp _

theorem said_roleEvent (s : State) (x : Nat) : Said [] s (roleEvent s x) := by
  refine .ofRegs ?_ (postEvent_regsBut s 0 0x5004 0 x []) (by decide) (roleEvent_net s x)
  unfold NetOnly
  have free : (roleEvent s x).freeCtr = s.freeCtr := by rw [roleEvent_frame]
  conv_lhs => rw [roleEvent_frame]
  rw [roleEvent_net, roleEvent_rings, free]

theorem said_netErr (s : State) (hi lo n : Nat) : Said [] s (cfld s .netErr 0 hi lo n) :=
  .ofRegs rfl (wreg_regsBut s .netErr 0 _) (by decide) rfl

theorem said_setRing (s : State) (i : Nat) (r : Option Ring) : Said [] s (setRing s i r) := .quiet rfl rfl ⟨rfl, rfl, rfl, rfl⟩

/-! ### The end of a connection (R539, R571, R760) -/

/-- The connection is gone, and its rings are unbound; an owner has then failed. -/
def ended (s : State) (c : Conn) : State := { s with
  net := { s.net with
    conns := s.net.conns.filter (fun x => x.qp ≠ c.qp), ownerFailed := s.net.ownerFailed || decide (c.role = some .owner) },
  rings := s.rings.map (fun r => r.map (fun r => if r.bound = some c.qp then { r with bound := none } else r)) }

theorem dropConn_eq {s : State} {qp : BitVec 24} {c : Conn} (found : findConn s qp = some c) :
    dropConn s qp = if c.role = some .standby then roleEvent (ended s c) 3 else ended s c := by
  obtain rfl := qp_of_findConn found
  unfold dropConn
  rw [found]
  rfl

theorem said_dropConn (s : State) (qp : BitVec 24) : Said [] s (dropConn s qp) := by
  cases found : findConn s qp with
  | none =>
    unfold dropConn
    rw [found]
    exact .refl s
  | some c =>
    have said : Said [] s (ended s c) := .quiet rfl rfl ⟨rfl, rfl, rfl, rfl⟩
    rw [dropConn_eq found]
    split
    · exact said.before (said_roleEvent _ 3)
    · exact said

theorem findConn_dropConn (s : State) (qp : BitVec 24) : findConn (dropConn s qp) qp = none := by
  cases found : findConn s qp with
  | none =>
    unfold dropConn
    rw [found]
    exact found
  | some c =>
    have gone : findConn (ended s c) qp = none := by
      obtain rfl := qp_of_findConn found
      unfold findConn ended
      simp
    rw [dropConn_eq found]
    split
    · rw [findConn_roleEvent, gone]
    · exact gone

/-- A connection that ends leaves every ring but those bound to it as it was, and unbinds these (R539). -/
theorem dropConn_ring {s : State} {qp : BitVec 24} {c : Conn} (found : findConn s qp = some c) {i : Fin 16} {r : Ring}
    (opened : s.rings[i] = some r) :
    (dropConn s qp).rings[i] = some (if r.bound = some qp then { r with bound := none } else r) := by
  have ring : (ended s c).rings[i] = some (if r.bound = some qp then { r with bound := none } else r) := by
    obtain rfl := qp_of_findConn found
    unfold ended
    simp only [Fin.getElem_fin, Vector.getElem_map] at opened ⊢
    rw [opened]
    rfl
  rw [dropConn_eq found]
  split
  · simpa only [roleEvent_rings] using ring
  · exact ring

theorem said_nak (s : State) (qp : BitVec 24) (k : Nak) (count : Bool) : Said [.nak qp k] s (nak s qp k count) := by
  unfold nak
  cases count
  · exact (said_send s _).before (said_dropConn _ qp)
  · exact (said_send s _).before ((said_dropConn _ qp).after (said_netErr _ 15 8 1))

theorem findConn_nak (s : State) (qp : BitVec 24) (k : Nak) (count : Bool) : findConn (nak s qp k count) qp = none := by
  unfold nak
  exact findConn_dropConn _ qp

end Sys2Proof.Machine
end

section
/-! SUPPORT. What Latch messages do, and O52 (12_latch_transport.md). -/

namespace Sys2Proof.Machine

/-! ### Acting on a message, and answering it (R517, R534, R535) -/

/-- The receive slot of a message that is acted on is free again. -/
def freed (s : State) (qp : BitVec 24) (rest : List (List Byte)) : State := modConn s qp fun c => { c with slots := rest }

section Message

variable {s : State} {qp : BitVec 24} {typ : Nat} {c : Conn} {m : List Byte} {rest : List (List Byte)}

theorem AtMessage.onMsg (at_ : AtMessage s qp typ c m rest) (act : State → Conn → List Byte → State) :
    onMsg qp typ s act = act (freed s qp rest) c m := by
  obtain ⟨up, slots, type, may⟩ := at_
  unfold Machine.onMsg
  rw [up]
  dsimp only
  rw [slots]
  dsimp only
  rw [if_neg (not_not.mpr type), if_pos may]
  rfl

theorem AtMessage.found (at_ : AtMessage s qp typ c m rest) : findConn s qp = some c := (findConn_of_upConn at_.1).1

theorem AtMessage.found_freed (at_ : AtMessage s qp typ c m rest) :
    findConn (freed s qp rest) qp = some { c with slots := rest } := findConn_modConn_some at_.found fun _ => rfl

end Message

theorem said_freed (s : State) (qp : BitVec 24) (rest : List (List Byte)) : Said [] s (freed s qp rest) := said_modConn s qp _

theorem findConn_reply {s : State} {qp : BitVec 24} {c : Conn} (found : findConn s qp = some c) (bs : List Byte) :
    findConn (reply s qp bs) qp = some c.sent := findConn_sendAck found _

theorem reply_rings (s : State) (qp : BitVec 24) (bs : List Byte) : (reply s qp bs).rings = s.rings := sendAck_rings s qp _

theorem reply_comps (s : State) (qp : BitVec 24) (bs : List Byte) : (reply s qp bs).comps = s.comps := sendAck_comps s qp _

theorem reply_ownerFailed (s : State) (qp : BitVec 24) (bs : List Byte) :
    (reply s qp bs).net.ownerFailed = s.net.ownerFailed := by
  unfold reply sendAck modConn
  dsimp only
  rw [send_frame]

theorem findConn_reply_other {s : State} {qp q : BitVec 24} {c : Conn} (other : q ≠ qp) (found : findConn s q = some c)
    (bs : List Byte) : findConn (reply s qp bs) q = some c := by
  have apart : c.qp ≠ qp := fun h => other ((qp_of_findConn found).symm.trans h)
  unfold reply sendAck
  rw [findConn_of_map (s := send s (.reply qp bs)) rfl (fun c => by split <;> rfl), findConn_send, found, Option.map_some,
    if_neg apart]

theorem welcome_eq {s : State} {qp : BitVec 24} {c : Conn} (found : findConn s qp = some c) (m : List Byte) :
    welcome s qp m = reply s qp (welcomeBytes s c (msgTag m)) := by
  unfold welcome
  rw [found]

/-- A WELCOME is a message of 64 bytes. -/
theorem welcomeBytes_length (s : State) (c : Conn) (tag : Nat) : (welcomeBytes s c tag).length = 64 := by
  simp [welcomeBytes, msgHeader, codeBytes, toLe_length]

/-! ### Bindings and roles (R538, R540, R542, R570) -/

theorem said_bindConn (s : State) (qp : BitVec 24) (b : Binding) : Said [] s (bindConn s qp b) :=
  .quiet rfl rfl ⟨rfl, rfl, rfl, rfl⟩

theorem findConn_bindConn {s : State} {qp : BitVec 24} {c : Conn} (found : findConn s qp = some c) (b : Binding) :
    findConn (bindConn s qp b) qp = some { c with bind := some b, rkey := some (c.rkey.getD (drawWord s).1) } :=
  findConn_modConn_some (s := (drawWord s).2) found fun _ => rfl

/-- What is left to the owner's connection when another takes the role over (R540, R542). -/
def demoted (c : Conn) : Conn :=
  if c.role = some .owner then
    { c with role := some (if c.failed then .former else .standby), handed := false, mkey := none, dkey := none } else c

/-- A connection that takes the role over, with its fresh keys. -/
def promoted (s : State) (c : Conn) : Conn :=
  { c with role := some .owner, handed := false, mkey := some (drawWord s).1, dkey := some (drawWord (drawWord s).2).1 }

theorem makeOwner_conns (s : State) (qp : BitVec 24) :
    (makeOwner s qp).net.conns = s.net.conns.map fun c => if c.qp = qp then promoted s c else demoted c := rfl

theorem said_makeOwner (s : State) (qp : BitVec 24) : Said [] s (makeOwner s qp) := .quiet rfl rfl ⟨rfl, rfl, rfl, rfl⟩

theorem demoted_qp (c : Conn) : (demoted c).qp = c.qp := by
  unfold demoted
  split <;> rfl

theorem findConn_makeOwner (s : State) (qp q : BitVec 24) :
    findConn (makeOwner s qp) q = (findConn s q).map fun c => if c.qp = qp then promoted s c else demoted c :=
  findConn_of_map (makeOwner_conns s qp) (fun c => by
    split
    · rfl
    · exact demoted_qp c) q

theorem findConn_makeOwner_same {s : State} {qp : BitVec 24} {c : Conn} (found : findConn s qp = some c) :
    findConn (makeOwner s qp) qp = some (promoted s c) := by
  rw [findConn_makeOwner, found, Option.map_some, if_pos (qp_of_findConn found)]

theorem findConn_makeOwner_other {s : State} {qp q : BitVec 24} {c : Conn} (other : q ≠ qp) (found : findConn s q = some c) :
    findConn (makeOwner s qp) q = some (demoted c) := by
  rw [findConn_makeOwner, found, Option.map_some, if_neg fun h => other ((qp_of_findConn found).symm.trans h)]

/-- A new owner unbinds every ring (R542). -/
theorem makeOwner_unbound (s : State) (qp : BitVec 24) {i : Fin 16} {r : Ring} (opened : (makeOwner s qp).rings[i] = some r) :
    r.bound = none := by
  have rings : (makeOwner s qp).rings[i] = s.rings[i].map fun r => { r with bound := none } := by
    simp [makeOwner, drawWord]
  rw [rings, Option.map_eq_some_iff] at opened
  obtain ⟨r', -, rfl⟩ := opened
  rfl

/-- What a connection that becomes the owner is told and leaves (R538, R540). -/
def owned (s : State) (qp : BitVec 24) (m : List Byte) : State := roleEvent (welcome (makeOwner s qp) qp m) 1

section Owned

variable {s : State} {qp : BitVec 24} {c : Conn} (found : findConn s qp = some c) (m : List Byte)
include found

theorem owned_eq : ∃ bs, owned s qp m = roleEvent (reply (makeOwner s qp) qp bs) 1 :=
  ⟨_, congrArg (roleEvent · 1) (welcome_eq (findConn_makeOwner_same found) m)⟩

theorem netOnly_owned : NetOnly s (owned s qp m) := by
  obtain ⟨bs, told⟩ := owned_eq found m
  rw [told]
  exact ((((said_makeOwner s qp).trans (said_reply _ qp bs))).before (said_roleEvent _ 1)).only

theorem findConn_owned : findConn (owned s qp m) qp = some (promoted s c).sent := by
  obtain ⟨bs, told⟩ := owned_eq found m
  rw [told, findConn_roleEvent]
  exact findConn_reply (findConn_makeOwner_same found) bs

theorem findConn_owned_other {q : BitVec 24} {o : Conn} (other : q ≠ qp) (there : findConn s q = some o) :
    findConn (owned s qp m) q = some (demoted o) := by
  obtain ⟨bs, told⟩ := owned_eq found m
  rw [told, findConn_roleEvent]
  exact findConn_reply_other other (findConn_makeOwner_other other there) bs

theorem owned_ownerFailed : (owned s qp m).net.ownerFailed = false := by
  obtain ⟨bs, told⟩ := owned_eq found m
  rw [told, roleEvent_net, reply_ownerFailed]
  rfl

theorem owned_unbound {i : Fin 16} {r : Ring} (opened : (owned s qp m).rings[i] = some r) : r.bound = none := by
  obtain ⟨bs, told⟩ := owned_eq found m
  refine makeOwner_unbound s qp (i := i) ?_
  simpa only [told, roleEvent_rings, reply_rings] using opened

end Owned

/-! ### Each message -/

section Answers

variable {s : State} {qp : BitVec 24} {c : Conn} {m : List Byte} {rest : List (List Byte)}

/-- A refusal is an error message, and no more (R534). -/
theorem AtMessage.refused {typ : Nat} (at_ : AtMessage s qp typ c m rest) (code : Nat) :
    findConn (latRefuse (freed s qp rest) qp m code) qp = some (Conn.sent { c with slots := rest }) ∧
      Said [.reply qp (msgHeader 5 16 code (msgTag m))] s (latRefuse (freed s qp rest) qp m code) :=
  ⟨findConn_reply at_.found_freed _, (said_reply _ qp _).after (said_freed s qp rest)⟩

theorem keepalive_answers (at_ : AtMessage s qp 0x06 c m rest) :
    ∃ t, exec (.keepalive qp) s = .next t ∧ findConn t qp = some (Conn.sent { c with slots := rest }) ∧
      Sends [(.reply qp (msgHeader 6 24 0 (msgTag m) ++ toLe 8 s.dtc.toNat))] s t ∧
      t = { s with net := { s.net with conns := t.net.conns, tx := t.net.tx, txq := t.net.txq } } := by
  refine ⟨_, congrArg Host.Outcome.next (at_.onMsg _), ?_, ?_, ?_⟩
  · exact findConn_reply at_.found_freed _
  · exact ((said_reply _ qp _).after (said_freed s qp rest)).sends
  · unfold reply sendAck modConn freed
    dsimp only
    rw [send_frame]
    rfl

theorem hello_owner (at_ : AtMessage s qp 0x01 c m rest) (fresh : BitVec 256) (role : leAt m 16 1 = 1) :
    ∃ t, exec (.hello qp fresh) s = .next t ∧
      findConn t qp = some (Conn.sent { c with slots := rest, chal := some (fresh, .owner) }) ∧
      Sends [(.reply qp (msgHeader 2 56 0 (msgTag m) ++ toLe 32 fresh.toNat ++ toLe 8 (serialNat s)))] s t ∧ NetOnly s t := by
  have challenged : hello qp fresh s = reply (modConn (freed s qp rest) qp fun c => { c with chal := some (fresh, .owner) }) qp
      (msgHeader 2 56 0 (msgTag m) ++ toLe 32 fresh.toNat ++ toLe 8 (serialNat s)) := by
    unfold hello
    rw [at_.onMsg, role]
    simp only [roleOf]
    rw [if_neg (by simp), if_neg (by decide)]
    rfl
  have said := (said_reply _ qp (msgHeader 2 56 0 (msgTag m) ++ toLe 32 fresh.toNat ++ toLe 8 (serialNat s))).after
    ((said_freed s qp rest).trans (said_modConn _ qp fun c => { c with chal := some (fresh, .owner) }))
  refine ⟨_, congrArg Host.Outcome.next challenged, ?_, said.sends, said.only⟩
  exact findConn_reply (findConn_modConn_some at_.found_freed (f := fun c => { c with chal := some (fresh, .owner) }) fun _ => rfl) _

/-- A message that carries a token binds the connection that `take` leaves, and is answered WELCOME. -/
def bound (s : State) (qp : BitVec 24) (m : List Byte) (b : Binding) (take : Conn → Conn) : State :=
  welcome (modConn (bindConn s qp b) qp take) qp m

theorem bound_facts (found : findConn s qp = some c) (b : Binding) {take : Conn → Conn} (named : ∀ c, (take c).qp = c.qp) :
    NetOnly s (bound s qp m b take) ∧ findConn (bound s qp m b take) qp =
      some (take { c with bind := some b, rkey := some (c.rkey.getD (drawWord s).1) }).sent := by
  have there := findConn_modConn_some (findConn_bindConn found b) named
  unfold bound
  rw [welcome_eq there]
  exact ⟨((said_reply _ qp _).after ((said_bindConn s qp b).trans (said_modConn _ qp take))).only, findConn_reply there _⟩

theorem hello_reader (at_ : AtMessage s qp 0x01 c m rest) (fresh : BitVec 256) (role : leAt m 16 1 = 3) (on : inLoader s = false) :
    ∃ t, exec (.hello qp fresh) s = .next t ∧ NetOnly s t ∧
      (∀ b, tokenBind s ((m.drop 24).take 64) = some b → ∃ c', findConn t qp = some c' ∧ c'.role = some .reader ∧
        c'.bind = some b ∧ c'.rkey.isSome = true) ∧
      (tokenBind s ((m.drop 24).take 64) = none → findConn t qp = some (Conn.sent { c with slots := rest }) ∧
        Sends [(.reply qp (msgHeader 5 16 0x4004 (msgTag m)))] s t) := by
  have read : hello qp fresh s = match tokenBind (freed s qp rest) ((m.drop 24).take 64) with
      | some b => bound (freed s qp rest) qp m b fun c => { c with role := some .reader }
      | none => latRefuse (freed s qp rest) qp m latToken := by
    unfold hello
    rw [at_.onMsg, role]
    simp only [roleOf]
    rw [if_neg (fun h => by simp [show inLoader (freed s qp rest) = false from on] at h)]
    rfl
  have token : tokenBind (freed s qp rest) ((m.drop 24).take 64) = tokenBind s ((m.drop 24).take 64) := rfl
  rw [token] at read
  refine ⟨_, congrArg Host.Outcome.next read, ?_⟩
  cases accepted : tokenBind s ((m.drop 24).take 64) with
  | some b =>
    obtain ⟨only, found⟩ := bound_facts (m := m) at_.found_freed b (take := fun c => { c with role := some .reader }) fun _ => rfl
    refine ⟨(said_freed s qp rest).only.trans only, fun b' same => ⟨_, found, rfl, same, rfl⟩, nofun⟩
  | none =>
    obtain ⟨found, said⟩ := at_.refused latToken
    exact ⟨said.only, nofun, fun _ => ⟨found, said.sends⟩⟩

theorem token_answers (at_ : AtMessage s qp 0x0B c m rest) :
    ∃ t, exec (.token qp) s = .next t ∧ NetOnly s t ∧
      (∀ b, tokenBind s ((m.drop 24).take 64) = some b → ∃ c', findConn t qp = some c' ∧ c'.bind = some b ∧
        c'.role = c.role ∧ c'.rkey.isSome = true ∧ (∀ k, c.rkey = some k → c'.rkey = some k)) ∧
      (tokenBind s ((m.drop 24).take 64) = none → findConn t qp = some (Conn.sent { c with slots := rest }) ∧
        Sends [(.reply qp (msgHeader 5 16 0x4004 (msgTag m)))] s t) := by
  refine ⟨_, congrArg Host.Outcome.next (at_.onMsg _), ?_⟩
  have token : tokenBind (freed s qp rest) ((m.drop 24).take 64) = tokenBind s ((m.drop 24).take 64) := rfl
  rw [token]
  cases accepted : tokenBind s ((m.drop 24).take 64) with
  | some b =>
    have there := findConn_bindConn at_.found_freed b
    dsimp only
    rw [welcome_eq there]
    refine ⟨((said_reply _ qp _).after ((said_freed s qp rest).trans (said_bindConn _ qp b))).only, fun b' same => ?_, nofun⟩
    exact ⟨_, findConn_reply there _, same, rfl, rfl, fun k had => by simp [Conn.sent, had]⟩
  | none =>
    obtain ⟨found, said⟩ := at_.refused latToken
    exact ⟨said.only, nofun, fun _ => ⟨found, said.sends⟩⟩

theorem handover_answers (at_ : AtMessage s qp 0x08 c m rest) :
    ∃ t bs, exec (.handover qp) s = .next t ∧
      findConn t qp = some (Conn.sent { c with slots := rest, handed := true }) ∧
      Sends [(.reply qp bs)] s t ∧ bs.length = 64 ∧ NetOnly s t := by
  have there := findConn_modConn_some at_.found_freed (f := fun c => { c with handed := true }) fun _ => rfl
  have said (bs : List Byte) := (said_reply _ qp bs).after
    ((said_freed s qp rest).trans (said_modConn _ qp fun c => { c with handed := true }))
  refine ⟨_, _, congrArg Host.Outcome.next ((at_.onMsg _).trans (welcome_eq there m)), findConn_reply there _, (said _).sends,
    welcomeBytes_length _ _ _, (said _).only⟩

theorem bye_answers (at_ : AtMessage s qp 0x0C c m rest) :
    ∃ t bs, exec (.bye qp) s = .next t ∧ findConn t qp = none ∧
      Sends [(.reply qp bs), (.drop qp)] s t ∧ bs.length = 64 ∧ NetOnly s t := by
  have left := (at_.onMsg fun s _ m => dropConn (send (welcome s qp m) (.drop qp)) qp).trans
    (congrArg (fun t => dropConn (send t (.drop qp)) qp) (welcome_eq at_.found_freed m))
  have said (bs : List Byte) := ((said_reply (freed s qp rest) qp bs).after (said_freed s qp rest)).trans
    ((said_send _ (.drop qp)).before (said_dropConn _ qp))
  exact ⟨_, _, congrArg Host.Outcome.next left, findConn_dropConn _ qp, (said _).sends, welcomeBytes_length _ _ _, (said _).only⟩

/-! ### PROVE and PROMOTE (R537, R538, R540) -/

/-- The state in which a proof is judged: the message's slot is free and the challenge is used up. -/
def proving (s : State) (qp : BitVec 24) (rest : List (List Byte)) : State :=
  modConn (freed s qp rest) qp fun c => { c with chal := none }

theorem AtMessage.found_proving {typ : Nat} (at_ : AtMessage s qp typ c m rest) :
    findConn (proving s qp rest) qp = some { c with slots := rest, chal := none } :=
  findConn_modConn_some at_.found_freed (f := fun c => { c with chal := none }) fun _ => rfl

theorem said_proving (s : State) (qp : BitVec 24) (rest : List (List Byte)) : Said [] s (proving s qp rest) :=
  (said_freed s qp rest).trans (said_modConn _ qp _)

theorem ownerConn_freed (s : State) (qp : BitVec 24) (rest : List (List Byte)) :
    ownerConn (freed s qp rest) = (ownerConn s).map fun c => if c.qp = qp then { c with slots := rest } else c :=
  ownerConn_modConn s qp (fun _ => rfl) (fun _ => rfl)

theorem ownerConn_proving_none (free : ownerConn s = none) : ownerConn (proving s qp rest) = none := by
  unfold proving
  rw [ownerConn_modConn _ qp (f := fun c => { c with chal := none }) (fun _ => rfl) (fun _ => rfl), ownerConn_freed, free]
  rfl

theorem prove_owner (at_ : AtMessage s qp 0x03 c m rest) {nonce : BitVec 256} (chal : c.chal = some (nonce, .owner))
    (free : ownerConn s = none) : ∃ t, exec (.prove qp) s = .next t ∧ NetOnly s t ∧
      (Config.mlVerify (connKey s) (proveDigest s nonce .owner c.gid) ((m.drop 16).take 4627) = true →
        (∃ c', findConn t qp = some c' ∧ c'.role = some .owner ∧ c'.chal = none ∧ c'.mkey.isSome = true ∧
          c'.dkey.isSome = true) ∧ t.net.ownerFailed = false ∧
        (∀ (i : Fin 16) (r : Ring), t.rings[i] = some r → r.bound = none)) ∧
      (Config.mlVerify (connKey s) (proveDigest s nonce .owner c.gid) ((m.drop 16).take 4627) = false →
        findConn t qp = some (Conn.sent { c with slots := rest, chal := none }) ∧
        Sends [(.reply qp (msgHeader 5 16 0x4003 (msgTag m)))] s t) := by
  have judged : prove qp s =
      if Config.mlVerify (connKey s) (proveDigest s nonce .owner c.gid) ((m.drop 16).take 4627) = true then
        owned (proving s qp rest) qp m else latRefuse (proving s qp rest) qp m latProof := by
    unfold prove
    rw [at_.onMsg, chal]
    dsimp only
    have vacant : (ownerConn (modConn (freed s qp rest) qp fun c => { c with chal := none })).isSome = false :=
      Option.isSome_eq_false_iff.mpr (Option.isNone_iff_eq_none.mpr (ownerConn_proving_none free))
    rw [if_pos rfl, vacant, if_neg Bool.false_ne_true]
    have key : connKey (modConn (freed s qp rest) qp fun c => { c with chal := none }) = connKey s := rfl
    have digest : proveDigest (modConn (freed s qp rest) qp fun c => { c with chal := none }) nonce .owner c.gid =
      proveDigest s nonce .owner c.gid := rfl
    rw [key, digest]
    cases Config.mlVerify (connKey s) (proveDigest s nonce .owner c.gid) ((m.drop 16).take 4627) <;> rfl
  refine ⟨_, congrArg Host.Outcome.next judged, ?_⟩
  cases Config.mlVerify (connKey s) (proveDigest s nonce .owner c.gid) ((m.drop 16).take 4627) with
  | true =>
    rw [if_pos rfl]
    have there := at_.found_proving
    refine ⟨(said_proving s qp rest).only.trans (netOnly_owned there m), fun _ => ⟨?_, owned_ownerFailed there m, ?_⟩, nofun⟩
    · exact ⟨_, findConn_owned there m, rfl, rfl, rfl, rfl⟩
    · exact fun i r opened => owned_unbound there m opened
  | false =>
    rw [if_neg Bool.false_ne_true]
    have said := (said_reply _ qp (msgHeader 5 16 latProof (msgTag m))).after (said_proving s qp rest)
    exact ⟨said.only, nofun, fun _ => ⟨findConn_reply at_.found_proving _, said.sends⟩⟩

theorem prove_unchallenged (at_ : AtMessage s qp 0x03 c m rest) (chal : c.chal = none) :
    ∃ t, exec (.prove qp) s = .next t ∧ findConn t qp = some (Conn.sent { c with slots := rest }) ∧
      Sends [(.reply qp (msgHeader 5 16 0x4003 (msgTag m)))] s t ∧ NetOnly s t := by
  have refused : prove qp s = latRefuse (proving s qp rest) qp m latProof := by
    unfold prove
    rw [at_.onMsg, chal]
    rfl
  have there := at_.found_proving
  rw [← chal] at there
  have said := (said_reply _ qp (msgHeader 5 16 latProof (msgTag m))).after (said_proving s qp rest)
  exact ⟨_, congrArg Host.Outcome.next refused, findConn_reply there _, said.sends, said.only⟩

theorem promote_failed (at_ : AtMessage s qp 0x07 c m rest) (free : ownerConn s = none) (failed : s.net.ownerFailed = true) :
    ∃ t, exec (.promote qp) s = .next t ∧ NetOnly s t ∧
      (∃ c', findConn t qp = some c' ∧ c'.role = some .owner ∧ c'.mkey.isSome = true) ∧ t.net.ownerFailed = false ∧
      (∀ o, findConn s o.qp = some o → o.qp ≠ qp → o.role = some .owner →
        ∃ o', findConn t o.qp = some o' ∧ o'.role = some .former ∧ o'.mkey = none ∧ o'.dkey = none) := by
  have granted : promote qp s = owned (freed s qp rest) qp m := by
    unfold promote
    rw [at_.onMsg, ownerConn_freed, free]
    exact if_pos failed
  have there := at_.found_freed
  refine ⟨_, congrArg Host.Outcome.next granted, (said_freed s qp rest).only.trans (netOnly_owned there m), ?_,
    owned_ownerFailed there m, fun o found other owner => ?_⟩
  · exact ⟨_, findConn_owned there m, rfl, rfl⟩
  · have gone : o.failed = true := by
      simpa [owner] using List.find?_eq_none.mp free o (mem_of_findConn found)
    have still : findConn (freed s qp rest) o.qp = some o := by
      rw [freed, findConn_of_map (s := s) rfl (fun c => by split <;> rfl), found, Option.map_some, if_neg other]
    refine ⟨_, findConn_owned_other there m other still, ?_⟩
    simp [demoted, owner, gone]

/-- The owner of another queue pair is the owner still when a message's slot is free. -/
theorem ownerConn_freed_other {o : Conn} (owner : ownerConn s = some o) (other : o.qp ≠ qp) :
    ownerConn (freed s qp rest) = some o := by
  rw [ownerConn_freed, owner, Option.map_some, if_neg other]

theorem findConn_freed_other {o : Conn} (found : findConn s o.qp = some o) (other : o.qp ≠ qp) :
    findConn (freed s qp rest) o.qp = some o := by
  rw [freed, findConn_of_map (s := s) rfl (fun c => by split <;> rfl), found, Option.map_some, if_neg other]

theorem role_of_ownerConn {o : Conn} (owner : ownerConn s = some o) : o.role = some .owner ∧ o.failed = false := by
  simpa using List.find?_some owner

theorem promote_handed (at_ : AtMessage s qp 0x07 c m rest) {o : Conn} (owner : ownerConn s = some o)
    (found : findConn s o.qp = some o) (other : o.qp ≠ qp) (handed : o.handed = true) :
    ∃ t, exec (.promote qp) s = .next t ∧ NetOnly s t ∧
      (∃ c', findConn t qp = some c' ∧ c'.role = some .owner ∧ c'.mkey.isSome = true) ∧
      (∃ o', findConn t o.qp = some o' ∧ o'.role = some .standby ∧ o'.mkey = none) := by
  have granted : promote qp s = roleEvent (owned (freed s qp rest) qp m) 2 := by
    unfold promote
    rw [at_.onMsg, ownerConn_freed_other owner other]
    exact if_pos handed
  obtain ⟨role, live⟩ := role_of_ownerConn owner
  have there := at_.found_freed
  refine ⟨_, congrArg Host.Outcome.next granted, ?_, ?_, ?_⟩
  · exact ((said_freed s qp rest).only.trans (netOnly_owned there m)).trans (said_roleEvent _ 2).only
  · exact ⟨_, (findConn_roleEvent _ 2 qp).trans (findConn_owned there m), rfl, rfl⟩
  · refine ⟨_, (findConn_roleEvent _ 2 o.qp).trans (findConn_owned_other there m other (findConn_freed_other found other)), ?_⟩
    simp [demoted, role, live]

theorem promote_taken (at_ : AtMessage s qp 0x07 c m rest) {o : Conn} (owner : ownerConn s = some o) (other : o.qp ≠ qp)
    (handed : o.handed = false) : ∃ t, exec (.promote qp) s = .next t ∧
      findConn t qp = some (Conn.sent { c with slots := rest }) ∧
      Sends [(.reply qp (msgHeader 5 16 0x4002 (msgTag m)))] s t ∧ NetOnly s t := by
  have refused : promote qp s = latRefuse (freed s qp rest) qp m latTaken := by
    unfold promote
    rw [at_.onMsg, ownerConn_freed_other owner other]
    exact if_neg (by simp [handed])
  obtain ⟨found, said⟩ := at_.refused latTaken
  exact ⟨_, congrArg Host.Outcome.next refused, found, said.sends, said.only⟩

/-! ### RING_OPEN and RING_CLOSE (R543-R545) -/

theorem setRing_same (s : State) (i : Fin 16) (r : Option Ring) : (setRing s i.val r).rings[i] = r := by
  simp [setRing]

theorem setRing_onlyRing (s : State) (i : Fin 16) (r : Option Ring) : OnlyRing i s (setRing s i.val r) := by
  intro c other
  simp only [setRing, Fin.ofNat_val_eq_self]
  exact Vector.getElem_set_ne _ _ (fun h => other (Fin.ext h.symm))

theorem rings_of_setRing {s t : State} {i : Fin 16} {r : Option Ring} (rings : t.rings = (setRing s i.val r).rings) :
    t.rings[i] = r ∧ OnlyRing i s t := by
  simp only [OnlyRing, rings]
  exact ⟨setRing_same s i r, setRing_onlyRing s i r⟩

theorem getRing_val (s : State) (i : Fin 16) : getRing s i.val = s.rings[i] := by
  simp [getRing]

/-- A message that changes a ring is answered WELCOME once the ring is as the message says. -/
theorem AtMessage.ring_welcomed {typ : Nat} (at_ : AtMessage s qp typ c m rest) (i : Fin 16) (r : Option Ring) :
    (welcome (setRing (freed s qp rest) i.val r) qp m).rings[i] = r ∧
      OnlyRing i s (welcome (setRing (freed s qp rest) i.val r) qp m) ∧
      NetOnly s (welcome (setRing (freed s qp rest) i.val r) qp m) := by
  have there : findConn (setRing (freed s qp rest) i.val r) qp = some { c with slots := rest } := at_.found_freed
  rw [welcome_eq there]
  obtain ⟨ring, others⟩ := rings_of_setRing (s := s) (i := i) (r := r) (reply_rings (setRing (freed s qp rest) i.val r) qp
    (welcomeBytes (setRing (freed s qp rest) i.val r) { c with slots := rest } (msgTag m)))
  exact ⟨ring, others, ((said_reply _ qp _).after ((said_freed s qp rest).trans (said_setRing _ i.val r))).only⟩

section RingOpen

variable {i : Fin 16} (at_ : AtMessage s qp 0x09 c m rest) (named : leAt m 16 1 = i.val)
include at_ named

theorem ringOpen_new (resume : leAt m 17 1 = 0) (vacant : s.rings[i] = none) (ok : ringOk s m = true) :
    ∃ t, exec (.ringOpen qp) s = .next t ∧ t.rings[i] = some (freshRing qp m) ∧ OnlyRing i s t ∧ NetOnly s t := by
  have opened : ringOpen qp s = welcome (setRing (freed s qp rest) i.val (some (freshRing qp m))) qp m := by
    unfold ringOpen
    rw [at_.onMsg, named, resume]
    dsimp only
    rw [if_neg (by decide), if_pos i.isLt, show getRing (freed s qp rest) i.val = none from (getRing_val s i).trans vacant,
      show ringOk (freed s qp rest) m = true from ok]
    exact if_neg (by simp)
  exact ⟨_, congrArg Host.Outcome.next opened, at_.ring_welcomed i _⟩

theorem ringOpen_taken (resume : leAt m 17 1 = 0) (taken : s.rings[i].isSome = true) :
    ∃ t, exec (.ringOpen qp) s = .next t ∧ t.rings = s.rings ∧
      Sends [(.reply qp (msgHeader 5 16 0x4005 (msgTag m)))] s t ∧ NetOnly s t := by
  have refused : ringOpen qp s = latRefuse (freed s qp rest) qp m latRing := by
    unfold ringOpen
    rw [at_.onMsg, named, resume]
    dsimp only
    rw [if_neg (by decide), if_pos i.isLt, show getRing (freed s qp rest) i.val = s.rings[i] from getRing_val s i]
    exact if_pos (.inl taken)
  obtain ⟨-, said⟩ := at_.refused latRing
  exact ⟨_, congrArg Host.Outcome.next refused, reply_rings _ qp _, said.sends, said.only⟩

theorem ringOpen_resumed {r : Ring} (resume : leAt m 17 1 = 1) (opened : s.rings[i] = some r) (size : ringSize (leAt m 44 4) = true)
    (room : (BitVec.ofNat 32 (leAt m 48 4) - r.a).toNat ≤ (r.q - r.a).toNat) : ∃ t, exec (.ringOpen qp) s = .next t ∧
      t.rings[i] = some { r with
        crva := leAt m 32 8, crkey := BitVec.ofNat 32 (leAt m 40 4), centries := leAt m 44 4, bound := some qp,
        sent := BitVec.ofNat 32 (leAt m 48 4) } ∧ OnlyRing i s t ∧ NetOnly s t := by
  have rebound : ringOpen qp s = welcome (setRing (freed s qp rest) i.val (some { r with
      crva := leAt m 32 8, crkey := BitVec.ofNat 32 (leAt m 40 4), centries := leAt m 44 4, bound := some qp,
      sent := BitVec.ofNat 32 (leAt m 48 4) })) qp m := by
    unfold ringOpen
    rw [at_.onMsg, named, resume]
    dsimp only
    rw [if_pos rfl, if_pos i.isLt, show getRing (freed s qp rest) i.val = some r from (getRing_val s i).trans opened, size]
    exact if_neg (by simpa using room)
  exact ⟨_, congrArg Host.Outcome.next rebound, at_.ring_welcomed i _⟩

end RingOpen

/-- A ring that is closed, without the completions that waited for it (R545). -/
def ringGone (s : State) (i : Fin 16) : State :=
  { setRing s i.val none with comps := s.comps.filter (fun c => c.ring ≠ i.val) }

section RingClose

variable {i : Fin 16} {r : Ring} (at_ : AtMessage s qp 0x0A c m rest) (named : leAt m 16 1 = i.val) (opened : s.rings[i] = some r)
include at_ named opened

theorem ringClose_closes (idle : r.outs = []) : ∃ t, exec (.ringClose qp) s = .next t ∧ t.rings[i] = none ∧ OnlyRing i s t ∧
      t.comps = s.comps.filter (fun x => x.ring ≠ i.val) ∧ NetOnly s t := by
  have there : findConn (ringGone (freed s qp rest) i) qp = some { c with slots := rest } := at_.found_freed
  have closed : ringClose qp s = welcome (ringGone (freed s qp rest) i) qp m := by
    unfold ringClose
    rw [at_.onMsg, named]
    dsimp only
    rw [if_pos i.isLt, show getRing (freed s qp rest) i.val = some r from (getRing_val s i).trans opened]
    exact if_neg (not_not.mpr idle)
  rw [welcome_eq there] at closed
  obtain ⟨ring, others⟩ := rings_of_setRing (s := s) (i := i) (r := none) (reply_rings (ringGone (freed s qp rest) i) qp
    (welcomeBytes (ringGone (freed s qp rest) i) { c with slots := rest } (msgTag m)))
  have said : Said [] s (ringGone (freed s qp rest) i) := .quiet rfl rfl ⟨rfl, rfl, rfl, rfl⟩
  exact ⟨_, congrArg Host.Outcome.next closed, ring, others, reply_comps _ qp _, ((said_reply _ qp _).after said).only⟩

theorem ringClose_busy (busy : r.outs ≠ []) : ∃ t, exec (.ringClose qp) s = .next t ∧ t.rings = s.rings ∧ t.comps = s.comps ∧
      Sends [(.reply qp (msgHeader 5 16 0x4005 (msgTag m)))] s t ∧ NetOnly s t := by
  have refused : ringClose qp s = latRefuse (freed s qp rest) qp m latRing := by
    unfold ringClose
    rw [at_.onMsg, named]
    dsimp only
    rw [if_pos i.isLt, show getRing (freed s qp rest) i.val = some r from (getRing_val s i).trans opened]
    exact if_pos busy
  obtain ⟨-, said⟩ := at_.refused latRing
  exact ⟨_, congrArg Host.Outcome.next refused, reply_rings _ qp _, reply_comps _ qp _, said.sends, said.only⟩

end RingClose
end Answers

/-- Settles O52: a message in the oldest receive slot is acted on with its slot free, each type by its own lemma. -/
theorem latchMessagesAreAnswered : Obligations.LatchMessagesAreAnswered := by
  unfold Obligations.LatchMessagesAreAnswered
  refine ⟨?keepalive, ?hello, ?prove, ?promote, ?handover, ?token, ?ringOpen, ?ringClose, ?bye⟩
  case keepalive => exact fun _ _ _ _ _ at_ => keepalive_answers at_
  case hello => exact fun _ fresh _ _ _ _ at_ => ⟨hello_owner at_ fresh, hello_reader at_ fresh⟩
  case prove => exact fun _ _ _ _ _ at_ => ⟨fun _ chal free => prove_owner at_ chal free, prove_unchallenged at_⟩
  case promote =>
    exact fun _ _ _ _ _ at_ => ⟨promote_failed at_, fun _ owner found other =>
      ⟨promote_handed at_ owner found other, promote_taken at_ owner other⟩⟩
  case handover => exact fun _ _ _ _ _ at_ => handover_answers at_
  case token => exact fun _ _ _ _ _ at_ => token_answers at_
  case ringOpen =>
    exact fun _ _ _ _ _ _ at_ named => ⟨ringOpen_new at_ named, ringOpen_taken at_ named, fun _ => ringOpen_resumed at_ named⟩
  case ringClose => exact fun _ _ _ _ _ _ _ at_ named opened => ⟨ringClose_closes at_ named opened, ringClose_busy at_ named opened⟩
  case bye => exact fun _ _ _ _ _ at_ => bye_answers at_

end Sys2Proof.Machine
end

section
/-! SUPPORT. Requests that a connection executes at once, and O51 (12_latch_transport.md, R513-R517, R520, R536, R539). -/

namespace Sys2Proof.Machine

/-! ### A request that arrives on a connection with nothing waiting (R513, R520) -/

/-- A request has arrived on a connection and joined those that wait. -/
def joined (s : State) (qp : BitVec 24) (r : NetReq) : State :=
  modConn (heard s qp) qp fun c => { c with waiting := c.waiting ++ [r] }

/-- A request that arrived is taken out of those that wait, to be executed. -/
def taken (s : State) (qp : BitVec 24) (r : NetReq) : State := modConn (joined s qp r) qp fun c => { c with waiting := [] }

section Arrival

variable {s : State} {qp : BitVec 24} {c : Conn} (up : upConn s qp = some c) (idle : c.waiting = []) (r : NetReq)
include up idle

theorem findConn_joined : findConn (joined s qp r) qp = some { c with heard := s.cyc, waiting := [r] } := by
  obtain ⟨found, -, -⟩ := findConn_of_upConn up
  have there := findConn_modConn_some found (f := fun c => { c with heard := s.cyc }) fun _ => rfl
  have joins := findConn_modConn_some there (f := fun c => { c with waiting := c.waiting ++ [r] }) fun _ => rfl
  rw [idle] at joins
  exact joins

theorem findConn_taken : findConn (taken s qp r) qp = some { c with heard := s.cyc } := by
  have taken := findConn_modConn_some (findConn_joined up idle r) (f := fun c => { c with waiting := [] }) fun _ => rfl
  have same : { c with heard := s.cyc, waiting := [] } = { c with heard := s.cyc } := by rw [← idle]
  exact taken.trans (congrArg some same)

/-- With nothing before it, a request waits where it has to, and else is executed. -/
theorem netIn_idle : netIn qp r s =
    if reqWaits (joined s qp r) { c with heard := s.cyc, waiting := [r] } r then joined s qp r
    else runReq qp { c with heard := s.cyc, waiting := [r] } r (taken s qp r) := by
  have there := upConn_of_findConn (s := joined s qp r) (findConn_of_upConn up).2.2 (findConn_joined up idle r)
    (findConn_of_upConn up).2.1
  unfold netIn
  rw [up]
  dsimp only
  rw [idle, if_neg (by simp)]
  change pumpConn qp 1 (joined s qp r) = _
  unfold pumpConn
  rw [there]
  rfl

end Arrival

theorem said_joined (s : State) (qp : BitVec 24) (r : NetReq) : Said [] s (joined s qp r) :=
  (said_modConn s qp _).trans (said_modConn _ qp _)

theorem said_taken (s : State) (qp : BitVec 24) (r : NetReq) : Said [] s (taken s qp r) :=
  (said_joined s qp r).trans (said_modConn _ qp _)

theorem taken_frame (s : State) (qp : BitVec 24) (r : NetReq) :
    taken s qp r = { s with net := { s.net with conns := (taken s qp r).net.conns } } := rfl

/-! ### Messages that arrive (R513, R517, R534, R536) -/

section Sent

variable {s : State} {qp : BitVec 24} {c : Conn} {m : List Byte} (up : upConn s qp = some c) (idle : c.waiting = [])
include up idle

theorem netIn_msg : netIn qp (.msg m) s = sendMsg qp { c with heard := s.cyc, waiting := [.msg m] } m (taken s qp (.msg m)) := by
  rw [netIn_idle up idle]
  exact if_neg Bool.false_ne_true

variable (short : m.length ≤ 16384)
include short

theorem msg_takes_slot (room : c.slots.length < 8) (good : msgBad m = false) (may : mayMsg c.role (msgType m) = true) :
    ∃ t, netIn qp (.msg m) s = t ∧ findConn t qp = some { c with heard := s.cyc, slots := c.slots ++ [m] } ∧
      t = { s with net := { s.net with conns := t.net.conns } } := by
  have takes : netIn qp (.msg m) s = modConn (taken s qp (.msg m)) qp fun c => { c with slots := c.slots ++ [m] } := by
    rw [netIn_msg up idle, sendMsg, if_neg (by omega), if_neg (show ¬ 8 ≤ c.slots.length by omega), if_neg, if_neg, if_neg]
    · simpa using may
    · simp [good]
    · rintro ⟨new, refused⟩
      rw [show c.role = none from new] at may
      simp [may] at refused
  exact ⟨_, takes, findConn_modConn_some (findConn_taken up idle _) (f := fun c => { c with slots := c.slots ++ [m] }) fun _ => rfl,
    rfl⟩

theorem msg_without_slot (full : 8 ≤ c.slots.length) :
    ∃ t, netIn qp (.msg m) s = t ∧ findConn t qp = some { c with heard := s.cyc } ∧
      Sends [(.nak qp (.rnr 80000))] s t ∧ NetOnly s t ∧ t.regs = s.regs ∧ t.rings = s.rings ∧ t.comps = s.comps := by
  have nakked : netIn qp (.msg m) s = send (taken s qp (.msg m)) (.nak qp (.rnr 80000)) := by
    rw [netIn_msg up idle, sendMsg, if_neg (by omega), if_pos (show 8 ≤ c.slots.length from full)]
  have said := (said_send _ (.nak qp (.rnr 80000))).after (said_taken s qp (.msg m))
  exact ⟨_, nakked, (findConn_send _ _ qp).trans (findConn_taken up idle _), said.sends, said.only, send_regs _ _, send_rings _ _,
    send_comps _ _⟩

theorem msg_before_welcome (room : c.slots.length < 8) (new : c.role = none) (may : mayMsg none (msgType m) = false) :
    ∃ t, netIn qp (.msg m) s = t ∧ findConn t qp = none ∧ Sends [(.nak qp .invalid)] s t ∧ NetOnly s t := by
  have nakked : netIn qp (.msg m) s = nak (taken s qp (.msg m)) qp .invalid false := by
    rw [netIn_msg up idle, sendMsg, if_neg (by omega), if_neg (show ¬ 8 ≤ c.slots.length by omega), if_pos]
    exact ⟨new, by simp [may]⟩
  have said := (said_nak (taken s qp (.msg m)) qp .invalid false).after (said_taken s qp (.msg m))
  exact ⟨_, nakked, findConn_nak _ qp _ _, said.sends, said.only⟩

theorem msg_denied (room : c.slots.length < 8) (role : c.role ≠ none) (good : msgBad m = false)
    (may : mayMsg c.role (msgType m) = false) :
    ∃ t, netIn qp (.msg m) s = t ∧ findConn t qp = some (Conn.sent { c with heard := s.cyc }) ∧
      Sends [(.reply qp (msgHeader 5 16 0x4006 (msgTag m)))] s t ∧ NetOnly s t := by
  have denied : netIn qp (.msg m) s = latRefuse (taken s qp (.msg m)) qp m latDenied := by
    rw [netIn_msg up idle, sendMsg, if_neg (by omega), if_neg (show ¬ 8 ≤ c.slots.length by omega), if_neg, if_neg, if_pos]
    · simpa using may
    · simp [good]
    · exact fun h => role h.1
  have said := (said_reply (taken s qp (.msg m)) qp (msgHeader 5 16 latDenied (msgTag m))).after (said_taken s qp (.msg m))
  exact ⟨_, denied, findConn_reply (findConn_taken up idle _) _, said.sends, said.only⟩

end Sent

/-! ### Connection management (R515, R516, R525, R536, R539) -/

section Management

variable {s : State} {qp : BitVec 24} {c : Conn}

theorem send_line (s : State) (x : Tx) :
    send s x = { s with net := { s.net with tx := (send s x).net.tx, txq := (send s x).net.txq } } := send_frame s x

theorem cmReq_accepted {gid : BitVec 128} {mtu : Nat} (works : portUp s = true) (path : mtu = 1024 ∨ mtu = 2048 ∨ mtu = 4096)
    (new : findConn s qp = none) (room : s.net.conns.length < 1024) :
    ∃ t, exec (.cmReq qp gid mtu) s = .next t ∧ t.net.conns = s.net.conns ++ [newConn s qp gid mtu] ∧
      Sends [.rep qp 16 7 7] s t ∧ t = { s with net := { s.net with conns := t.net.conns, tx := t.net.tx, txq := t.net.txq } } := by
  have made : cmReq qp gid mtu s =
      send { s with net := { s.net with conns := s.net.conns ++ [newConn s qp gid mtu] } } (.rep qp 16 7 7) := by
    rw [cmReq, works, if_neg (by simp), if_neg (not_not.mpr path), new, if_neg (by simp), if_neg (Nat.not_le.mpr room)]
    rfl
  refine ⟨_, congrArg Host.Outcome.next made, send_conns _ _, ?_, ?_⟩
  · exact (sends_send_any { s with net := { s.net with conns := s.net.conns ++ [newConn s qp gid mtu] } } _).congr rfl
      ⟨rfl, rfl, rfl, rfl⟩ ⟨rfl, rfl⟩
  · conv_lhs => rw [send_frame]
    rw [send_conns]

theorem cmReq_refused {gid : BitVec 128} {mtu : Nat} {why : Rej} (works : portUp s = true)
    (reason : ¬ (mtu = 1024 ∨ mtu = 2048 ∨ mtu = 4096) ∧ why = .mtu ∨
      (mtu = 1024 ∨ mtu = 2048 ∨ mtu = 4096) ∧ (findConn s qp).isSome = true ∧ why = .inUse ∨
      (mtu = 1024 ∨ mtu = 2048 ∨ mtu = 4096) ∧ findConn s qp = none ∧ 1024 ≤ s.net.conns.length ∧ why = .resources) :
    ∃ t, exec (.cmReq qp gid mtu) s = .next t ∧ Sends [.rej qp why] s t ∧
      t = { s with net := { s.net with tx := t.net.tx, txq := t.net.txq } } := by
  have refused : cmReq qp gid mtu s = send s (.rej qp why) := by
    rw [cmReq, works, if_neg (by simp)]
    rcases reason with ⟨path, rfl⟩ | ⟨path, used, rfl⟩ | ⟨path, new, full, rfl⟩
    · rw [if_pos path]
    · rw [if_neg (not_not.mpr path), if_pos used]
    · rw [if_neg (not_not.mpr path), new, if_neg (by simp), if_pos full]
  exact ⟨_, congrArg Host.Outcome.next refused, sends_send_any s _, send_line s _⟩

theorem Conn.start_up (c : Conn) (now : Nat) : (c.start now).up = true := by
  unfold Conn.start
  split <;> simp [*]

theorem cmRtu_starts (works : portUp s = true) (found : findConn s qp = some c) :
    ∃ t, exec (.cmRtu qp) s = .next t ∧ findConn t qp = some (c.start s.cyc) ∧ (c.start s.cyc).up = true ∧
      (c.up = false → (c.start s.cyc).rate = 800 ∧ (c.start s.cyc).n = 0 ∧ (c.start s.cyc).lastInc = s.cyc) ∧
      t = { s with net := { s.net with conns := t.net.conns } } := by
  have named (c : Conn) : (c.start s.cyc).qp = c.qp := by
    unfold Conn.start
    split <;> rfl
  refine ⟨_, congrArg Host.Outcome.next (if_pos works), findConn_modConn_some found named, c.start_up s.cyc, fun new => ?_, rfl⟩
  simp [Conn.start, new]

theorem cmDreq_closes (works : portUp s = true) (found : findConn s qp = some c) :
    ∃ t, exec (.cmDreq qp) s = .next t ∧ findConn t qp = none ∧ Sends [(.drep qp)] s t ∧
      (∀ (i : Fin 16) (r : Ring), s.rings[i] = some r →
        t.rings[i] = some (if r.bound = some qp then { r with bound := none } else r)) ∧ NetOnly s t := by
  have said := (said_send s (.drep qp)).before (said_dropConn _ qp)
  have there : (findConn s qp).isSome = true := by rw [found, Option.isSome_some]
  refine ⟨_, congrArg Host.Outcome.next (if_pos ⟨works, there⟩), findConn_dropConn _ qp, said.sends, fun i r opened => ?_, said.only⟩
  exact dropConn_ring ((findConn_send s _ qp).trans found) (by simpa only [send_rings] using opened)

theorem welcomeTimeout_ends (found : findConn s qp = some c) (new : c.role = none) (late : c.since + 500000000 ≤ s.cyc) :
    ∃ t, exec (.welcomeTimeout qp) s = .next t ∧ findConn t qp = none ∧ Sends [(.drop qp)] s t ∧ NetOnly s t := by
  have ends : welcomeTimeout qp s = dropConn (send s (.drop qp)) qp := by
    rw [welcomeTimeout, found]
    exact if_pos ⟨new, late⟩
  have said := (said_send s (.drop qp)).before (said_dropConn _ qp)
  exact ⟨_, congrArg Host.Outcome.next ends, findConn_dropConn _ qp, said.sends, said.only⟩

theorem welcomeTimeout_waits (found : findConn s qp = some c) (early : c.role ≠ none ∨ s.cyc < c.since + 500000000) :
    exec (.welcomeTimeout qp) s = .next s := by
  have waits : welcomeTimeout qp s = s := by
    rw [welcomeTimeout, found]
    refine if_neg fun due => ?_
    obtain ⟨new, late⟩ := due
    rcases early with welcomed | early
    · exact welcomed new
    · omega
  exact congrArg Host.Outcome.next waits

theorem ownerTimeout_fails (owner : ownerConn s = some c) (found : findConn s c.qp = some c)
    (silent : c.heard + 100000 * rfld s .latCfg 0 31 16 ≤ s.cyc) : ∃ t, exec .ownerKeepaliveTimeout s = .next t ∧
      t.net.ownerFailed = true ∧ findConn t c.qp = some { c with failed := true } ∧
      t = { s with net := { s.net with conns := t.net.conns, ownerFailed := true } } := by
  have fails : ownerTimeout s = { modConn s c.qp (fun c => { c with failed := true }) with
      net := { (modConn s c.qp fun c => { c with failed := true }).net with ownerFailed := true } } := by
    rw [ownerTimeout, owner]
    exact if_pos silent
  exact ⟨_, congrArg Host.Outcome.next fails, rfl,
    findConn_modConn_some found (f := fun c => { c with failed := true }) fun _ => rfl, rfl⟩

theorem ownerTimeout_waits (owner : ownerConn s = some c) (early : s.cyc < c.heard + 100000 * rfld s .latCfg 0 31 16) :
    exec .ownerKeepaliveTimeout s = .next s := by
  have waits : ownerTimeout s = s := by
    rw [ownerTimeout, owner]
    exact if_neg (Nat.not_le.mpr early)
  exact congrArg Host.Outcome.next waits

end Management

/-- Settles O51: the commands of the connection manager, the two timeouts, and what a message meets when it arrives. -/
theorem connectionsComeAndGo : Obligations.ConnectionsComeAndGo := by
  unfold Obligations.ConnectionsComeAndGo
  refine ⟨?req, ?established, ?welcome, ?owner, ?message⟩
  case req => exact fun _ _ _ _ works => ⟨cmReq_accepted works, fun _ => cmReq_refused works⟩
  case established => exact fun _ _ _ works found => ⟨cmRtu_starts works found, cmDreq_closes works found⟩
  case welcome => exact fun _ _ _ found => ⟨welcomeTimeout_ends found, welcomeTimeout_waits found⟩
  case owner => exact fun _ _ owner found => ⟨ownerTimeout_fails owner found, ownerTimeout_waits owner⟩
  case message =>
    intro i qp m s0 s c sent between up idle short
    have arrives : exec i s0 = .next (netIn qp (.msg m) s) := by
      rw [between]
      rcases sent with rfl | rfl <;> rfl
    refine ⟨fun room good may => ?_, fun full => ?_, fun room new may => ?_, fun room role good may => ?_⟩
    · obtain ⟨t, rfl, left⟩ := msg_takes_slot up idle short room good may
      exact ⟨_, arrives, left⟩
    · obtain ⟨t, rfl, left⟩ := msg_without_slot up idle short full
      exact ⟨_, arrives, left⟩
    · obtain ⟨t, rfl, left⟩ := msg_before_welcome up idle short room new may
      exact ⟨_, arrives, left⟩
    · obtain ⟨t, rfl, left⟩ := msg_denied up idle short room role good may
      exact ⟨_, arrives, left⟩

end Sys2Proof.Machine
end

section
/-! SUPPORT. Frames, flow control, rates and announcements at the port, and O50 (12_latch_transport.md, R509-R515, R524, R525,
R574, R714). -/

namespace Sys2Proof.Machine

/-! ### The receive buffer and PFC (R512) -/

/-- The receive buffer holds another number of bytes. -/
def filled (s : State) (depth : Nat) : State := { s with net := { s.net with depth := depth } }

theorem said_filled (s : State) (depth : Nat) : Said [] s (filled s depth) := .quiet rfl rfl ⟨rfl, rfl, rfl, rfl⟩

/-- And XOFF stands or is taken back. -/
def filledWith (s : State) (depth : Nat) (xoff : Bool) : State :=
  { s with net := { s.net with depth := depth, xoff := xoff } }

theorem said_filledWith (s : State) (depth : Nat) (xoff : Bool) : Said [] s (filledWith s depth xoff) :=
  .quiet rfl rfl ⟨rfl, rfl, rfl, rfl⟩

theorem flowControl_off {s : State} (off : rfld s .netStat 0 27 27 = 0) (depth : Nat) : flowControl s depth = filled s depth :=
  if_pos off

/-- A PFC frame of the device's own waits for no pause. -/
theorem send_pfc (s : State) (b : Bool) :
    send s (.pfc b) = { s with net := { s.net with tx := (send s (.pfc b)).net.tx } } := by
  have goes : ¬ (s.net.pause ≠ 0 ∧ (Tx.pfc b).pauses = true) := fun held => Bool.false_ne_true held.2
  unfold send
  rw [if_neg goes]
  split <;> rfl

section FlowControl

variable {s : State} {depth : Nat} (on : rfld s .netStat 0 27 27 = 1)
include on

theorem flowControl_on : flowControl s depth =
    if 12 * mib < depth ∧ s.net.xoff = false then send (filledWith s depth true) (.pfc true)
    else if depth < 8 * mib ∧ s.net.xoff = true then send (filledWith s depth false) (.pfc false)
    else filled s depth := by
  have still : rfld (filled s depth) .netStat 0 27 27 ≠ 0 := fun off => absurd (on.symm.trans off) (by decide)
  unfold flowControl
  simp only [Bool.not_eq_true']
  exact if_neg still

theorem flowControl_xoff (high : 12 * mib < depth) (before : s.net.xoff = false) :
    (flowControl s depth).net.xoff = true ∧ Sends [.pfc true] s (flowControl s depth) := by
  rw [flowControl_on on, if_pos ⟨high, before⟩]
  refine ⟨?_, ((said_send _ (.pfc true)).after (said_filledWith s depth true)).sends⟩
  rw [send_pfc]
  rfl

theorem flowControl_xon (low : depth < 8 * mib) (before : s.net.xoff = true) :
    (flowControl s depth).net.xoff = false ∧ Sends [.pfc false] s (flowControl s depth) := by
  rw [flowControl_on on, if_neg (by simp [before]), if_pos ⟨low, before⟩]
  refine ⟨?_, ((said_send _ (.pfc false)).after (said_filledWith s depth false)).sends⟩
  rw [send_pfc]
  rfl

theorem flowControl_between (low : 8 * mib ≤ depth) (high : depth ≤ 12 * mib) : flowControl s depth = filled s depth := by
  rw [flowControl_on on, if_neg (by omega), if_neg (by omega)]

theorem flowControl_change : flowControl s depth = { s with net := { s.net with
    depth := depth, xoff := (flowControl s depth).net.xoff, tx := (flowControl s depth).net.tx } } := by
  rw [flowControl_on on]
  split
  · rw [send_pfc]
    rfl
  · split
    · rw [send_pfc]
      rfl
    · rfl

end FlowControl

/-! ### Frames (R509, R511, R513, R524) -/

section Frames

variable {f : Frame} {s : State} (works : portUp s = true)
include works

theorem frameReceive_bad (bad : f.fcsOk = false ∨ 4352 < f.len ∨ f.dst = .other) :
    frameReceive f s = cfld s .netErr 0 31 24 1 := by
  unfold frameReceive
  rw [works, if_neg (by simp), if_pos (by simpa using bad)]

variable (fcs : f.fcsOk = true) (len : f.len ≤ 4352) (dst : f.dst ≠ .other)
include fcs len dst

/-- A frame that is none of those of Table 12.1 only passes through the receive buffer. -/
theorem frameReceive_other (on : rfld s .netStat 0 27 27 = 1) (body : f.body = .other) :
    frameReceive f s = flowControl s f.depth := by
  unfold frameReceive
  rw [works, if_neg (by simp), if_neg (by simp [fcs, dst]; omega), if_neg (by simp [on]), body]
  dsimp only
  split <;> rfl

/-- Without PFC a frame that the receive buffer holds is acted on if its VLAN tag is the device's. -/
theorem frameReceive_good (off : rfld s .netStat 0 27 27 = 0) (room : f.depth ≤ 16 * 2 ^ 20) :
    frameReceive f s = if vlanOk s f = true then
      match f.body with
      | .roce qp icrcOk ce ack => rocePacket (filled s f.depth) qp icrcOk ce ack
      | .badOp qp icrcOk ce =>
        if icrcOk then netIn qp .bad (rocePacket (filled s f.depth) qp icrcOk ce false)
        else rocePacket (filled s f.depth) qp icrcOk ce false
      | b => plainFrame (filled s f.depth) b
    else filled s f.depth := by
  unfold frameReceive
  rw [works, if_neg (by simp), if_neg (by simp [fcs, dst]; omega), if_neg (by simp only [mib]; omega), flowControl_off off]
  have tag : vlanOk (filled s f.depth) f = vlanOk s f := rfl
  dsimp only
  rw [tag]
  cases vlanOk s f <;> rfl

end Frames

/-- What the port sends at once, and no more. -/
theorem send_after_filled (s : State) (depth : Nat) (x : Tx) :
    Sends [x] s (send (filled s depth) x) ∧ send (filled s depth) x = { s with net := { s.net with
      depth := depth, tx := (send (filled s depth) x).net.tx, txq := (send (filled s depth) x).net.txq } } :=
  ⟨((said_send _ x).after (said_filled s depth)).sends, send_frame (filled s depth) x⟩

/-- A request of the port itself is answered. -/
theorem plainFrame_answers {s : State} {b : FrameBody} {x : Tx}
    (asked : (∃ ip, b = .arp ip ∧ ip4On s = true ∧ ip.toNat = beNat ((s.net.cfg.drop 48).take 4) ∧ x = .arpReply ip) ∨
      (∃ ip, b = .ndp ip ∧ isMine6 s ip.toNat = true ∧ x = .neighbour ip) ∨
      (∃ bs, b = .echo true bs ∧ x = .echoReply true bs) ∨ b = .noPort true ∧ x = .icmpError true) (depth : Nat) :
    plainFrame (filled s depth) b = send (filled s depth) x := by
  rcases asked with ⟨ip, rfl, on, mine, rfl⟩ | ⟨ip, rfl, mine, rfl⟩ | ⟨bs, rfl, rfl⟩ | ⟨rfl, rfl⟩
  · exact if_pos ⟨on, mine⟩
  · exact if_pos mine
  · rw [plainFrame, if_pos (.inl rfl)]
  · rw [plainFrame, if_pos (.inl rfl)]

/-- A packet marked CE, of a connection not notified yet, is answered by a congestion notification packet (R524). -/
theorem rocePacket_marked {s : State} {qp : BitVec 24} {c : Conn} (found : findConn s qp = some c) (new : c.cnpSent = none)
    (ack : Bool) :
    findConn (rocePacket s qp true true ack) qp = some { c with
      heard := s.cyc, cnpSent := some s.cyc, retries := if ack then none else c.retries } ∧
    Sends [.cnp qp] s (rocePacket s qp true true ack) ∧ rocePacket s qp true true ack = { s with net := { s.net with
      conns := (rocePacket s qp true true ack).net.conns, tx := (rocePacket s qp true true ack).net.tx
      txq := (rocePacket s qp true true ack).net.txq } } := by
  have notified (t : State) (said : Said [] s t) (now : t.cyc = s.cyc)
      (frame : t = { s with net := { s.net with conns := t.net.conns } }) {d : Conn} (there : findConn t qp = some d) :
      let u := modConn (send t (.cnp qp)) qp fun c => { c with cnpSent := some t.cyc }
      findConn u qp = some { d with cnpSent := some s.cyc } ∧ Sends [.cnp qp] s u ∧
        u = { s with net := { s.net with conns := u.net.conns, tx := u.net.tx, txq := u.net.txq } } := by
    intro u
    refine ⟨?_, (((said_send t (.cnp qp)).before (said_modConn _ qp _)).after said).sends, ?_⟩
    · rw [← now]
      exact findConn_modConn_some ((findConn_send t _ qp).trans there) (f := fun c => { c with cnpSent := some t.cyc }) fun _ => rfl
    · have sent := send_frame t (.cnp qp)
      have step : u = { t with net := { t.net with conns := u.net.conns, tx := u.net.tx, txq := u.net.txq } } := by
        simp only [u, modConn]
        rw [sent]
      rw [step, frame]
  have heard : findConn (heard s qp) qp = some { c with heard := s.cyc } :=
    findConn_modConn_some found (f := fun c => { c with heard := s.cyc }) fun _ => rfl
  unfold rocePacket
  simp only [Bool.not_true, Bool.false_eq_true, if_false, found, new, true_and, if_true]
  cases ack with
  | false => exact notified _ (said_modConn s qp _) rfl rfl heard
  | true =>
    exact notified _ ((said_modConn s qp _).trans (said_modConn _ qp _)) rfl rfl
      (findConn_modConn_some heard (f := fun c => { c with retries := none }) fun _ => rfl)

/-- A packet of a connection with nothing wrong with it is noted, and no more. -/
theorem rocePacket_plain {s : State} {qp : BitVec 24} {c : Conn} (found : findConn s qp = some c) :
    rocePacket s qp true false false = heard s qp := by
  unfold rocePacket
  simp [found]

theorem badIcrc_counted (s : State) (depth : Nat) (qp : BitVec 24) (ce ack : Bool) :
    let t := rocePacket (filled s depth) qp false ce ack
    rreg t .netErr 0 = satF (rreg s .netErr 0) 23 16 1 ∧ RegsBut [regAddr .netErr 0] s t ∧
      t = { s with regs := t.regs, net := { s.net with depth := depth } } :=
  ⟨rreg_cfld_same (filled s depth) .netErr 0 23 16 1, (wreg_regsBut (filled s depth) .netErr 0 _).congr rfl rfl, rfl⟩

/-- What ends a connection counts nothing itself. -/
theorem dropConn_rreg (s : State) (qp : BitVec 24) {r : Reg} {i : Nat} (apart : regAddr r i ∉ eventAddrs) :
    rreg (dropConn s qp) r i = rreg s r i := by
  cases found : findConn s qp with
  | none =>
    unfold dropConn
    rw [found]
  | some c =>
    rw [dropConn_eq found]
    split
    · exact (postEvent_regsBut (ended s c) 0 0x5004 0 3 []).rreg apart
    · rfl

theorem nak_counted (s : State) (qp : BitVec 24) (k : Nak) :
    rreg (nak s qp k true) .netErr 0 = satF (rreg s .netErr 0) 15 8 1 := by
  have before : rreg (send s (.nak qp k)) .netErr 0 = rreg s .netErr 0 := rreg_congr (send_regs s _) .netErr 0
  unfold nak
  dsimp only
  rw [dropConn_rreg _ qp (by decide), if_pos rfl, rreg_cfld_same, before]

/-- An opcode that the device does not execute ends its connection (R513). -/
theorem badOp_ends {s : State} {qp : BitVec 24} {c : Conn} (works : portUp s = true) (found : findConn s qp = some c)
    (set : c.up = true) (idle : c.waiting = []) :
    let t := netIn qp .bad (rocePacket s qp true false false)
    findConn t qp = none ∧ Said [.nak qp .invalid] s t ∧ rreg t .netErr 0 = satF (rreg s .netErr 0) 15 8 1 := by
  have there : findConn (heard s qp) qp = some { c with heard := s.cyc } :=
    findConn_modConn_some found (f := fun c => { c with heard := s.cyc }) fun _ => rfl
  have up : upConn (heard s qp) qp = some { c with heard := s.cyc } := upConn_of_findConn works there set
  have ends : netIn qp .bad (rocePacket s qp true false false) = nak (taken (heard s qp) qp .bad) qp .invalid true := by
    rw [rocePacket_plain found, netIn_idle up idle]
    exact if_neg Bool.false_ne_true
  rw [ends]
  refine ⟨findConn_nak _ qp _ _, ?_, nak_counted _ qp _⟩
  exact (said_nak _ qp .invalid true).after ((said_modConn s qp _).trans (said_taken _ qp .bad))

/-! ### PFC frames, rates, announcements and retransmission (R512, R515, R525, R574, R714) -/

theorem execPfcFrame_eq {p : PfcIn} {s : State} (works : portUp s = true) (on : rfld s .netStat 0 27 27 = 1)
    (low : 8 * mib ≤ p.depth) (high : p.depth ≤ 12 * mib) :
    exec (.pfcFrame p) s = .next (filled (sendWaiting { s with net := { s.net with pause := p.quanta } }) p.depth) := by
  have still : rfld (sendWaiting { s with net := { s.net with pause := p.quanta } }) .netStat 0 27 27 = 1 := by
    rw [sendWaiting_frame]
    exact on
  refine congrArg Host.Outcome.next ((if_pos ⟨works, on⟩).trans ?_)
  exact flowControl_between still low high

theorem link_of_portUp {s : State} (works : portUp s = true) : rfld s .netStat 0 31 31 = 1 := by
  unfold portUp at works
  simp only [Bool.and_eq_true, decide_eq_true_eq] at works
  exact works.1

theorem pfcFrame_pauses {p : PfcIn} {s : State} (works : portUp s = true) (on : rfld s .netStat 0 27 27 = 1)
    (low : 8 * mib ≤ p.depth) (high : p.depth ≤ 12 * mib) (pauses : p.quanta ≠ 0) :
    exec (.pfcFrame p) s = .next { s with net := { s.net with pause := p.quanta, depth := p.depth } } := by
  rw [execPfcFrame_eq works on low high, sendWaiting, if_pos (.inr (.inl pauses))]
  rfl

theorem pfcFrame_resumes {p : PfcIn} {s : State} (works : portUp s = true) (on : rfld s .netStat 0 27 27 = 1)
    (low : 8 * mib ≤ p.depth) (high : p.depth ≤ 12 * mib) (resumes : p.quanta = 0) :
    exec (.pfcFrame p) s = .next { s with net := { s.net with
      pause := 0, depth := p.depth, txq := [], tx := s.net.tx ++ s.net.txq.map (Tx.sent s.net.cfg) } } := by
  rw [execPfcFrame_eq works on low high, resumes, sendWaiting]
  by_cases none : s.net.txq = []
  · rw [if_pos (.inl none), none, filled]
    simp [none]
  · rw [if_neg]
    · rfl
    · rintro (empty | paused | down)
      · exact none empty
      · exact paused rfl
      · exact absurd (down.symm.trans (link_of_portUp works)) (by decide)

theorem cnpReceive_slows {qp : BitVec 24} {s : State} {c : Conn} (works : portUp s = true) (found : findConn s qp = some c) :
    rreg (cnpReceive qp s) .netErr 0 = satF (rreg s .netErr 0) 7 0 1 ∧
      findConn (cnpReceive qp s) qp = some (if c.lastDec + 5000 ≤ s.cyc then { c with
        rate := max (c.rate - c.rate / ((2 ^ rfld s .netCfg 0 23 21 : Nat) : Rat)) ((rfld s .netCfg 0 4 0 : Nat) : Rat),
        lastDec := s.cyc, lastInc := s.cyc, n := 0, heard := s.cyc } else { c with heard := s.cyc }) ∧
      RegsBut [regAddr .netErr 0] s (cnpReceive qp s) ∧
      cnpReceive qp s = { s with regs := (cnpReceive qp s).regs, net := { s.net with conns := (cnpReceive qp s).net.conns } } := by
  have noted : findConn (heard (cfld s .netErr 0 7 0 1) qp) qp = some { c with heard := s.cyc } :=
    findConn_modConn_some (s := cfld s .netErr 0 7 0 1) found (f := fun c => { c with heard := s.cyc }) fun _ => rfl
  unfold cnpReceive
  rw [works, if_neg (by simp)]
  refine ⟨rreg_cfld_same s .netErr 0 7 0 1, ?_, (wreg_regsBut s .netErr 0 _).congr rfl rfl, rfl⟩
  dsimp only
  rw [findConn_modConn_some noted fun c => by split <;> rfl]

theorem rateTick_raises {qp : BitVec 24} {s : State} {c : Conn} (found : findConn s qp = some c) :
    findConn (rateTick qp s) qp = some (if c.up = true ∧ c.lastInc + 500 * rfld s .netCfg 0 12 5 ≤ s.cyc then { c with
        rate := min (c.rate + ((rfld s .netCfg 0 20 13 * min (c.n + 1) 8 : Nat) : Rat)) 800, n := c.n + 1,
        lastInc := s.cyc } else c) :=
  findConn_modConn_some found fun c => by split <;> rfl

theorem announceBytes_length (s : State) : (announceBytes s).length = 128 := by
  simp [announceBytes, toLe_length]

theorem announce_sends {s : State} (works : portUp s = true) :
    Sends [.announce (announceBytes s)] s (announce s) ∧ announce s = { s with net := { s.net with
      annAt := some s.cyc, tx := (announce s).net.tx, txq := (announce s).net.txq } } := by
  have sent : announce s = send { s with net := { s.net with annAt := some s.cyc } } (.announce (announceBytes s)) := if_pos works
  have noted : Said [] s { s with net := { s.net with annAt := some s.cyc } } := .quiet rfl rfl ⟨rfl, rfl, rfl, rfl⟩
  rw [sent]
  exact ⟨((said_send _ _).after noted).sends, send_frame _ _⟩

theorem linkUp_announces {s : State} (ready : s.power.phase = .ready) (down : rfld s .netStat 0 31 31 = 0)
    (going : s.net.pause = 0) : ∃ t bs, exec .linkUp s = .next t ∧
      rfld t .netStat 0 31 31 = 1 ∧ t.net.tx = s.net.tx ++ [Tx.sent s.net.cfg (.announce bs)] ∧ bs.length = 128 ∧
      t.net.annAt = some s.cyc ∧ RegsBut [regAddr .netStat 0] s t ∧
      t = { s with regs := t.regs, net := { s.net with tx := t.net.tx, annAt := t.net.annAt } } := by
  have link : rfld (wfld s .netStat 0 31 31 1) .netStat 0 31 31 = 1 := rfld_wfld_same s .netStat 0 1 (by decide)
  have works : portUp (wfld s .netStat 0 31 31 1) = true := by
    unfold portUp
    rw [link, show (wfld s .netStat 0 31 31 1).power = s.power from rfl, ready]
    rfl
  have up : linkUp s = announce (wfld s .netStat 0 31 31 1) := if_pos ⟨.inl ready, down⟩
  obtain ⟨sends, frame⟩ := announce_sends works
  unfold Sends at sends
  rw [link, if_neg (by decide), if_pos (show (wfld s .netStat 0 31 31 1).net.pause = 0 from going)] at sends
  obtain ⟨tx, txq⟩ := sends
  refine ⟨_, announceBytes (wfld s .netStat 0 31 31 1), congrArg Host.Outcome.next up, ?_, tx, announceBytes_length _, ?_, ?_, ?_⟩
  · rw [frame]
    exact link
  · rw [frame]
    rfl
  · rw [frame]
    exact (wfld_regsBut s .netStat 0 31 31 1).congr rfl rfl
  · conv_lhs => rw [frame]
    rw [txq, frame]
    rfl

theorem retryTimeout_again {qp : BitVec 24} {s : State} {c : Conn} {n : Nat} (works : portUp s = true)
    (found : findConn s qp = some c) (waits : c.retries = some n) :
    ∃ t, exec (.retryTimeout qp) s = .next t ∧ NetOnly s t ∧
      (n < 7 → findConn t qp = some { c with retries := some (n + 1) } ∧ Sends [.again qp] s t) ∧
      (7 ≤ n → findConn t qp = none) := by
  have again : retryTimeout qp s =
      if n < 7 then modConn (send s (.again qp)) qp (fun c => { c with retries := some (n + 1) }) else dropConn s qp := by
    rw [retryTimeout, if_pos works, found, Option.bind_some, waits]
  refine ⟨_, congrArg Host.Outcome.next again, ?_⟩
  by_cases few : n < 7
  · rw [if_pos few]
    have said := (said_send s (.again qp)).before (said_modConn _ qp fun c => { c with retries := some (n + 1) })
    exact ⟨said.only, fun _ => ⟨findConn_modConn_some ((findConn_send s _ qp).trans found)
      (f := fun c => { c with retries := some (n + 1) }) fun _ => rfl, said.sends⟩, fun many => absurd few (by omega)⟩
  · rw [if_neg few]
    exact ⟨(said_dropConn s qp).only, fun less => absurd less few, fun _ => findConn_dropConn s qp⟩

/-- Settles O50: the frames by what they carry, and then what each command of the port and of the rates does. -/
theorem portFramesAndRates : Obligations.PortFramesAndRates := by
  unfold Obligations.PortFramesAndRates
  refine ⟨?frame, ?pfc, ?cnp, ?tick, ?link, ?retry⟩
  case frame =>
    intro f s0 s between works
    have arrives : exec (.frameReceive f) s0 = .next (frameReceive f s) := by
      rw [between]
      rfl
    refine ⟨fun bad => ?bad, fun fcs len dst => ⟨fun on body => ?flow, fun off room tag => ?tag, fun off room tag => ?good⟩⟩
    case bad =>
      refine ⟨_, arrives.trans (congrArg Host.Outcome.next (frameReceive_bad works bad)), rreg_cfld_same s .netErr 0 31 24 1,
        wreg_regsBut s .netErr 0 _, rfl⟩
    case flow =>
      exact ⟨_, arrives.trans (congrArg Host.Outcome.next (frameReceive_other works fcs len dst on body)), flowControl_xoff on,
        flowControl_xon on, flowControl_change on⟩
    case tag =>
      rw [arrives, frameReceive_good works fcs len dst off room, tag]
      rfl
    case good =>
      have acts := arrives.trans (congrArg Host.Outcome.next (frameReceive_good works fcs len dst off room))
      rw [if_pos tag] at acts
      refine ⟨fun qp ack c body found new => ?marked, fun qp ce ack body => ?icrc, fun qp c body found set idle => ?badOp,
        fun x asked => ?asked, fun body => ?fragment⟩
      case marked =>
        rw [body] at acts
        obtain ⟨there, sends, frame⟩ := rocePacket_marked (s := filled s f.depth) found new ack
        exact ⟨_, acts, there, sends.congr rfl ⟨rfl, rfl, rfl, rfl⟩ ⟨rfl, rfl⟩, frame⟩
      case icrc =>
        rw [body] at acts
        exact ⟨_, acts, badIcrc_counted s f.depth qp ce ack⟩
      case badOp =>
        rw [body] at acts
        obtain ⟨gone, said, counted⟩ := badOp_ends (s := filled s f.depth) works found set idle
        have said := said.after (said_filled s f.depth)
        exact ⟨_, acts, gone, said.sends, counted, said.only⟩
      case asked =>
        have answers := plainFrame_answers asked f.depth
        obtain ⟨sends, frame⟩ := send_after_filled s f.depth x
        refine ⟨_, acts.trans (congrArg Host.Outcome.next (.trans ?_ answers)), sends, frame⟩
        rcases asked with ⟨ip, body, -⟩ | ⟨ip, body, -⟩ | ⟨bs, body, -⟩ | ⟨body, -⟩ <;> rw [body]
      case fragment =>
        rw [body] at acts
        exact acts
  case pfc =>
    refine fun p s => ⟨fun works on low high => ⟨pfcFrame_pauses works on low high, pfcFrame_resumes works on low high⟩, fun off => ?_⟩
    exact congrArg Host.Outcome.next (if_neg fun h => absurd (off.symm.trans h.2) (by decide))
  case cnp =>
    intro qp s0 s c between found works
    have arrives : exec (.cnpReceive qp) s0 = .next (cnpReceive qp s) := by
      rw [between]
      rfl
    exact ⟨_, arrives, cnpReceive_slows works found⟩
  case tick => exact fun qp s c found => ⟨_, rfl, rateTick_raises found, rfl⟩
  case link =>
    refine fun s => ⟨linkUp_announces, ⟨_, rfl, ?_, wfld_regsBut s .netStat 0 31 31 0, rfl⟩, fun works due => ?_, fun quiet => ?_⟩
    · exact rfld_wfld_same s .netStat 0 0 (by decide)
    · exact ⟨_, congrArg Host.Outcome.next (if_pos due), announce_sends works⟩
    · refine congrArg Host.Outcome.next ?_
      rcases quiet with down | early
      · rw [announce, down, if_neg Bool.false_ne_true, ite_self]
      · rw [early, if_neg Bool.false_ne_true]
  case retry =>
    refine fun qp s c n found waits => ⟨fun down => ?_, fun works => retryTimeout_again works found waits⟩
    refine congrArg Host.Outcome.next ?_
    rw [retryTimeout, down, if_neg Bool.false_ne_true]

end Sys2Proof.Machine
end

section
/-! SUPPORT. RDMA, doorbells and completion writes, and O53 (12_latch_transport.md, R514, R518-R521, R546, R547, R551, R552, R571,
R572). -/

namespace Sys2Proof.Machine

/-! ### Whether memory takes a request is no matter of the connections -/

section Joined

variable (s : State) (qp : BitVec 24) (f : Conn → Conn) (r : NetReq) (a n : Nat)

theorem netPutWaits_modConn : netPutWaits (modConn s qp f) a n = netPutWaits s a n := rfl
theorem devThere_modConn : devThere (modConn s qp f) a n = devThere s a n := rfl
theorem netWaits_modConn : netWaits (modConn s qp f) a n = netWaits s a n := rfl
theorem inHalf1_modConn : inHalf1 (modConn s qp f) a n = inHalf1 s a n := rfl
theorem netWriteBad_modConn : netWriteBad (modConn s qp f) a n = netWriteBad s a n := rfl
theorem netBad_modConn : netBad (modConn s qp f) a n = netBad s a n := rfl
theorem devBytes_modConn : devBytes (modConn s qp f) a n = devBytes s a n := rfl
theorem writeReady_modConn (q : WaitUnit) : writeReady (modConn s qp f) q a n = writeReady s q a n := rfl

theorem netPutWaits_joined : netPutWaits (joined s qp r) a n = netPutWaits s a n := by
  rw [joined, heard, netPutWaits_modConn, netPutWaits_modConn]

theorem devThere_joined : devThere (joined s qp r) a n = devThere s a n := by
  rw [joined, heard, devThere_modConn, devThere_modConn]

theorem netWaits_joined : netWaits (joined s qp r) a n = netWaits s a n := by
  rw [joined, heard, netWaits_modConn, netWaits_modConn]

theorem inHalf1_joined : inHalf1 (joined s qp r) a n = inHalf1 s a n := by
  rw [joined, heard, inHalf1_modConn, inHalf1_modConn]

theorem devThere_taken : devThere (taken s qp r) a n = devThere s a n := by
  rw [taken, joined, heard, devThere_modConn, devThere_modConn, devThere_modConn]

theorem netWriteBad_taken : netWriteBad (taken s qp r) a n = netWriteBad s a n := by
  rw [taken, joined, heard, netWriteBad_modConn, netWriteBad_modConn, netWriteBad_modConn]

theorem netBad_taken : netBad (taken s qp r) a n = netBad s a n := by
  rw [taken, joined, heard, netBad_modConn, netBad_modConn, netBad_modConn]

theorem devBytes_taken : devBytes (taken s qp r) a n = devBytes s a n := by
  rw [taken, joined, heard, devBytes_modConn, devBytes_modConn, devBytes_modConn]

theorem writeReady_taken (q : WaitUnit) : writeReady (taken s qp r) q a n = writeReady s q a n := by
  rw [taken, joined, heard, writeReady_modConn, writeReady_modConn, writeReady_modConn]

theorem inHalf1_taken : inHalf1 (taken s qp r) a n = inHalf1 s a n := by
  rw [taken, joined, heard, inHalf1_modConn, inHalf1_modConn, inHalf1_modConn]

theorem writeReady_hingeSend (h cls : Nat) (q : WaitUnit) : writeReady (hingeSend s h cls) q a n = writeReady s q a n := rfl

end Joined

/-! ### Writes under a key (R519, R520) -/

theorem bellKey_of_mkey {c : Conn} {key : Word} (own : c.mkey = some key) : bellKey c key = false := by
  simp [bellKey, own]

section Write

variable {s : State} {qp : BitVec 24} {c : Conn} {key : Word} {va : Nat} {bs : List Byte} (up : upConn s qp = some c)
  (role : c.role ≠ none) (idle : c.waiting = [])

include up role idle in
/-- A write under a key of neither memory nor doorbells ends its connection (R519). -/
theorem write_without_key (fab : Bool) (memory : c.mkey ≠ some key) (bells : c.dkey ≠ some key) :
    let t := netIn qp (.write key va bs fab) s
    findConn t qp = none ∧ Sends [(.nak qp .access)] s t ∧ rreg t .netErr 0 = satF (rreg s .netErr 0) 15 8 1 ∧ NetOnly s t := by
  have ends : netIn qp (.write key va bs fab) s = nak (taken s qp (.write key va bs fab)) qp .access true := by
    rw [netIn_idle up idle, if_neg (by simp [reqWaits, memory]), runReq, netWrite, if_neg (by simp [bellKey, bells]), rdmaWrite,
      if_neg (show ¬ c.role = none from role), if_pos (.inl memory)]
  have said := (said_nak (taken s qp (.write key va bs fab)) qp .access true).after (said_taken s qp _)
  intro t
  rw [show t = _ from ends]
  exact ⟨findConn_nak _ qp _ _, said.sends, nak_counted _ qp _, said.only⟩

/-- A write under MKEY waits where its bursts or the Hinge have it wait (R26, R425, R449). -/
theorem reqWaits_write {d : Conn} (role : d.role ≠ none) (own : d.mkey = some key) (there : devThere s va bs.length = true)
    (fab : Bool) : reqWaits s d (.write key va bs fab) = netPutWaits s va bs.length := by
  simp only [reqWaits, bellKey_of_mkey own, Option.isSome_iff_ne_none.mpr role, own, there, decide_true, Bool.not_false,
    Bool.and_true, Bool.true_and]

/-- A write under MKEY is carried out in memory that exists (R519, R520, R656). -/
theorem netWrite_mkey {d : Conn} (role : d.role ≠ none) (own : d.mkey = some key) (there : devThere s va bs.length = true)
    (fab : Bool) : netWrite qp d key va bs fab s =
      if fab then nak (readErr s none32 va) qp .operational false
      else match netWriteBad s va bs.length with
        | some bad => nak (logMem s bad.1 (if bad.2 then 1 else 2)) qp .operational false
        | none => devPut (netSend s 0 va bs.length) va bs := by
  have allowed : ¬ (d.mkey ≠ some key ∨ (!devThere s va bs.length) = true) := by simp [own, there]
  rw [netWrite, bellKey_of_mkey own, if_neg Bool.false_ne_true, rdmaWrite, if_neg role, if_neg allowed] <;> rfl

variable (own : c.mkey = some key) (there : devThere s va bs.length = true)
include up role idle own there

theorem write_waits (fab : Bool) (waits : netPutWaits s va bs.length = true) :
    let t := netIn qp (.write key va bs fab) s
    findConn t qp = some { c with heard := s.cyc, waiting := [.write key va bs fab] } ∧
      t = { s with net := { s.net with conns := t.net.conns } } := by
  have kept : netIn qp (.write key va bs fab) s = joined s qp (.write key va bs fab) := by
    rw [netIn_idle up idle]
    refine if_pos ?_
    rw [reqWaits_write (d := { c with heard := s.cyc, waiting := [.write key va bs fab] }) role own
      ((devThere_joined s qp _ va bs.length).trans there), netPutWaits_joined, waits]
  intro t
  rw [show t = _ from kept]
  exact ⟨findConn_joined up idle _, rfl⟩

/-- A write under MKEY that need not wait is carried out. -/
theorem write_runs (fab : Bool) (goes : netPutWaits s va bs.length = false) : netIn qp (.write key va bs fab) s =
    if fab then nak (readErr (taken s qp (.write key va bs fab)) none32 va) qp .operational false
    else match netWriteBad s va bs.length with
      | some bad => nak (logMem (taken s qp (.write key va bs fab)) bad.1 (if bad.2 then 1 else 2)) qp .operational false
      | none => devPut (netSend (taken s qp (.write key va bs fab)) 0 va bs.length) va bs := by
  rw [netIn_idle up idle]
  refine (if_neg ?_).trans ?_
  · rw [reqWaits_write (d := { c with heard := s.cyc, waiting := [.write key va bs fab] }) role own
      ((devThere_joined s qp _ va bs.length).trans there), netPutWaits_joined, goes]
    exact Bool.false_ne_true
  · rw [runReq, netWrite_mkey (d := { c with heard := s.cyc, waiting := [.write key va bs fab] }) role own
      ((devThere_taken s qp _ va bs.length).trans there), netWriteBad_taken]

/-- A fabric word that fails its check ends the connection (R656). -/
theorem write_fabric (goes : netPutWaits s va bs.length = false) :
    let t := netIn qp (.write key va bs true) s
    findConn t qp = none ∧ Sends [.nak qp .operational] s t ∧ NetOnly s t := by
  have event (u : State) : Said [] u (readErr u none32 va) := by
    refine .ofRegs ?_ (postEvent_regsBut u 0 0x5005 0 0 _) (by decide) (by rw [readErr, postEvent_frame])
    unfold NetOnly readErr
    rw [postEvent_frame]
  have said := (said_nak _ qp .operational false).after ((said_taken s qp (.write key va bs true)).trans (event _))
  intro t
  rw [show t = _ from write_runs up role idle own there true goes]
  exact ⟨findConn_nak _ qp _ _, said.sends, said.only⟩

end Write

/-! ### Bytes that memory accepts (R134, R420) -/

/-- The cache lines of the bursts that a write reaches are dirty. -/
theorem acceptMem_dirty (s : State) (a : Nat) (bs : List Byte) (job : Nat) (some_ : 0 < bs.length) (h : Fin 2) :
    ∀ x ∈ (acceptMem s a bs job).halves[h].msc, a / 512 ≤ x.burst → x.burst ≤ (a + bs.length - 1) / 512 → x.dirty = true := by
  have queued (l : List Nat) : ∀ u : State, (l.foldl (fun t b => enterQueue t b []) u).halves = u.halves := by
    induction l with
    | nil => exact fun _ => rfl
    | cons b l ih => exact fun u => ih (enterQueue u b [])
  have halves : (acceptMem s a bs job).halves = (dirtyLines (memPut s a bs) a bs.length).halves := queued _ _
  simp only [halves, dirtyLines, if_neg (Nat.ne_of_gt some_), Fin.getElem_fin, Vector.getElem_map, List.mem_map]
  rintro x ⟨y, -, rfl⟩ low high
  split at low
  · rw [if_pos ‹_›]
  · next miss =>
    rw [if_neg miss] at high
    exact absurd (by simp [burstOf, low, high]) miss

theorem acceptMem_change (s : State) (a : Nat) (bs : List Byte) (job : Nat) : acceptMem s a bs job =
    { s with mem := (acceptMem s a bs job).mem, halves := (acceptMem s a bs job).halves } := by
  rw [acceptMem_frame]

theorem acceptMem_net (s : State) (a : Nat) (bs : List Byte) (job : Nat) : (acceptMem s a bs job).net = s.net := by
  rw [acceptMem_change]

theorem acceptMem_hinge (s : State) (a : Nat) (bs : List Byte) (job : Nat) : (acceptMem s a bs job).hinge = s.hinge := by
  rw [acceptMem_change]

/-- A write of the network's payload that every burst of its range takes is accepted at once. -/
theorem write_accepted {s : State} {qp : BitVec 24} {c : Conn} {key : Word} {va : Nat} {bs : List Byte} (up : upConn s qp = some c)
    (role : c.role ≠ none) (idle : c.waiting = []) (own : c.mkey = some key) (there : devThere s va bs.length = true)
    (on : inLoader s = false) (good : netWriteBad s va bs.length = none) (ready : writeReady s .mgmt va bs.length = true)
    (crosses : inHalf1 s va bs.length = true → hingeTakes s 0 3 = true) :
    netIn qp (.write key va bs false) s = acceptMem (netSend (taken s qp (.write key va bs false)) 0 va bs.length) va bs := by
  have goes : netPutWaits s va bs.length = false := by
    have bursts : ∀ b ∈ burstsOf va bs.length, burstReady s va bs.length b = true := by
      unfold writeReady at ready
      simp only [Bool.and_eq_true, List.all_eq_true] at ready
      exact ready.1
    unfold netPutWaits
    rw [on]
    simp only [Bool.not_false, Bool.true_and, Bool.or_eq_false_iff, List.any_eq_false, Bool.and_eq_true, not_and, Bool.not_eq_true,
      Bool.and_eq_false_iff, Bool.not_eq_false']
    refine ⟨fun b mem => ?_, ?_⟩
    · simp [bursts b mem]
    · cases crossing : inHalf1 s va bs.length
      · exact .inl rfl
      · exact .inr (crosses crossing)
  have accepts : writeReady (netSend (taken s qp (.write key va bs false)) 0 va bs.length) .mgmt va bs.length = true := by
    unfold netSend
    split
    · rw [writeReady_hingeSend, writeReady_taken, ready]
    · rw [writeReady_taken, ready]
  have on' : inLoader (netSend (taken s qp (.write key va bs false)) 0 va bs.length) = false := by
    unfold netSend
    split <;> exact on
  rw [write_runs up role idle own there false goes, if_neg Bool.false_ne_true, good]
  simp only [devPut, on', Bool.false_eq_true, if_false, putMem, accepts, if_true]

theorem netSend_frame (s : State) (half a n : Nat) : netSend s half a n =
    { s with hinge := if inHalf1 s a n then (hingeSend s half 3).hinge else s.hinge } := by
  unfold netSend
  split <;> rfl

/-! ### Reads under a key (R518, R519, R521, R572) -/

section Read

variable {s : State} {qp : BitVec 24} {c : Conn} (up : upConn s qp = some c) (role : c.role ≠ none) (idle : c.waiting = [])
include up role idle

/-- A read that reaches good memory at once is answered with its bytes. -/
theorem read_answers {a win off n : Nat} (there : devThere s a n = true) (waits : netWaits s a n = false)
    (good : netBad s a n = none) (crosses : inHalf1 s a n = true → hingeTakes s 1 3 = true) :
    let t := netIn qp (.read (some (a, win, off)) n false) s
    Sends [(.data qp (devBytes s a n))] s t ∧
      t = { s with net := { s.net with conns := t.net.conns, tx := t.net.tx, txq := t.net.txq }, hinge := t.hinge } := by
  have goes : reqWaits (joined s qp (.read (some (a, win, off)) n false))
      { c with heard := s.cyc, waiting := [.read (some (a, win, off)) n false] } (.read (some (a, win, off)) n false) = false := by
    simp only [reqWaits, netWaits_joined, waits, inHalf1_joined, Bool.false_or]
    cases crossing : inHalf1 s a n
    · simp
    · simp [show hingeTakes (joined s qp (.read (some (a, win, off)) n false)) 1 3 = true from crosses crossing]
  have there' : (some (a, win, off)).filter (fun x => devThere (taken s qp (.read (some (a, win, off)) n false)) x.1 n) =
      some (a, win, off) := by
    simp [devThere_taken, there]
  have answers : netIn qp (.read (some (a, win, off)) n false) s =
      send (netSend (taken s qp (.read (some (a, win, off)) n false)) 1 a n) (.data qp (devBytes s a n)) := by
    rw [netIn_idle up idle]
    refine (if_neg (Bool.eq_false_iff.mp goes)).trans ?_
    rw [runReq, rdmaRead, if_neg (show ¬ c.role = none from role), there']
    dsimp only
    rw [if_neg Bool.false_ne_true, netBad_taken, good, devBytes_taken]
  intro t
  rw [show t = _ from answers]
  refine ⟨?_, ?_⟩
  · refine (sends_send_any (netSend (taken s qp (.read (some (a, win, off)) n false)) 1 a n) _).congr ?_ ?_ ⟨rfl, rfl⟩
    · rw [netSend_frame]
      rfl
    · rw [netSend_frame]
      exact ⟨rfl, rfl, rfl, rfl⟩
  · rw [send_frame, netSend_frame, taken_frame]

/-- A read that its key does not reach ends the connection (R519). -/
theorem read_denied (n : Nat) :
    let t := netIn qp (.read none n false) s
    findConn t qp = none ∧ Sends [(.nak qp .access)] s t ∧ NetOnly s t := by
  have denied : netIn qp (.read none n false) s = nak (taken s qp (.read none n false)) qp .access true := by
    rw [netIn_idle up idle]
    refine (if_neg Bool.false_ne_true).trans ?_
    rw [runReq, rdmaRead, if_neg (show ¬ c.role = none from role)]
    rfl
  have said := (said_nak (taken s qp (.read none n false)) qp .access true).after (said_taken s qp _)
  intro t
  rw [show t = _ from denied]
  exact ⟨findConn_nak _ qp _ _, said.sends, said.only⟩

end Read

/-! ### Doorbells (R546, R547) -/

/-- The ring of a doorbell, once both of its indices have moved. -/
def belled (r : Ring) (prod cack : Word) : Ring :=
  { r with a := cack, kept := r.kept.filter (fun x => notBehind x.1 cack), sent := if notBehind r.sent cack then r.sent else cack,
           p := prod }

theorem ringBell_moves {s : State} {i : Fin 16} {r : Ring} {prod cack : Word} (opened : s.rings[i] = some r)
    (ahead : notBehind prod r.p = true) (within : (prod - r.c).toNat ≤ r.entries) (acks : notBehind cack r.a = true)
    (sent : cack = r.q ∨ notBehind cack r.q = false) :
    (ringBell s i.val prod cack).rings[i] = some (belled r prod cack) ∧ OnlyRing i s (ringBell s i.val prod cack) ∧
      ringBell s i.val prod cack = { s with rings := (ringBell s i.val prod cack).rings } := by
  have there : getRing s i.val = some r := (getRing_val s i).trans opened
  have acked : ringAck s i.val r cack = modRing s i.val fun r => { r with
      a := cack, kept := r.kept.filter (fun x => notBehind x.1 cack), sent := if notBehind r.sent cack then r.sent else cack } := by
    rw [ringAck, if_neg, if_pos acks]
    rintro ⟨other, ahead⟩
    rcases sent with same | behind
    · exact other same
    · exact Bool.false_ne_true (behind.symm.trans ahead)
  have bell : ringBell s i.val prod cack = modRing (modRing s i.val fun r => { r with
      a := cack, kept := r.kept.filter (fun x => notBehind x.1 cack), sent := if notBehind r.sent cack then r.sent else cack })
      i.val fun r => { r with p := prod } := by
    unfold ringBell
    rw [there]
    dsimp only
    rw [acked, ringProd, if_neg (by omega), if_pos ahead]
  rw [bell]
  refine ⟨?_, (modRing_onlyRing s i _).trans (modRing_onlyRing _ i _), rfl⟩
  rw [← getRing_val, getRing_modRing_same, getRing_modRing_same, there]
  rfl

theorem bell_runs {s : State} {qp : BitVec 24} {c : Conn} {key : Word} {i : Fin 16} {bs : List Byte} (up : upConn s qp = some c)
    (role : c.role ≠ none) (idle : c.waiting = []) (own : c.dkey = some key) (eight : bs.length = 8) :
    netIn qp (.bell key (64 * i.val) bs) s = ringBell (taken s qp (.bell key (64 * i.val) bs)) i.val (BitVec.ofNat 32 (leAt bs 0 4))
      (BitVec.ofNat 32 (leAt bs 4 4)) := by
  have small := i.isLt
  rw [netIn_idle up idle]
  refine (if_neg Bool.false_ne_true).trans ?_
  rw [runReq, doorbell, if_neg (show ¬ c.role = none from role), if_neg, if_pos ⟨eight, Nat.mul_mod_right 64 i.val⟩,
    Nat.mul_div_cancel_left i.val (by decide)]
  rintro (other | far)
  · exact other own
  · omega

/-! ### Completions (R544, R551, R552) -/

theorem entryBytes_length (s : State) (r : Ring) (x : Completion) : (entryBytes s r x).length = 64 := by
  simp [entryBytes, toLe_length]
  omega

/-- The state in which a completion has its index, before its entry is written. -/
def entryCounted (s : State) (ring : Nat) (r : Ring) (x : Completion) : State :=
  modRing { s with comps := s.comps.erase x } ring fun y =>
    { y with q := y.q + 1, sent := y.q + 1, kept := y.kept ++ [(y.q, entryBytes s r x)] }

section Completions

variable {s : State} {ring : Fin 16} {r : Ring} {qp : BitVec 24} {x : Completion} (opened : s.rings[ring] = some r)
  (bound : r.bound = some qp) (up : (upConn s qp).isSome = true) (going : s.net.pause = 0) (done : r.sent = r.q)
  (waits : s.comps.find? (fun c => c.ring = ring.val) = some x)
include opened bound up going done waits

theorem completionWrite_eq : completionWrite ring.val s = if r.centries ≤ (r.q - r.a).toNat then s else
    writeEntry (entryCounted s ring.val r x) r qp r.q (entryBytes s r x) := by
  have there : getRing s ring.val = some r := (getRing_val s ring).trans opened
  have line : r.bound.filter (fun qp => (upConn s qp).isSome && s.net.pause = 0) = some qp := by
    rw [bound]
    simp [up, going]
  unfold completionWrite
  rw [there]
  dsimp only
  rw [line]
  dsimp only
  rw [if_neg (not_not.mpr done), waits]
  rfl

theorem completionWrite_writes (room : (r.q - r.a).toNat < r.centries) :
    let t := completionWrite ring.val s
    t.comps = s.comps.erase x ∧
      t.rings[ring] = some { r with q := r.q + 1, sent := r.q + 1, kept := r.kept ++ [(r.q, entryBytes s r x)] } ∧
      Sends [(.write qp r.crkey (r.crva + 64 * (r.q.toNat % r.centries)) (entryBytes s r x) (r.q + 1))] s t ∧ OnlyRing ring s t ∧
      t = { s with rings := t.rings, comps := t.comps, net := { s.net with
        conns := t.net.conns, tx := t.net.tx, txq := t.net.txq } } := by
  have writes := (completionWrite_eq opened bound up going done waits).trans (if_neg (Nat.not_le.mpr room))
  intro t
  rw [show t = _ from writes, writeEntry]
  have rings := sendAck_rings (entryCounted s ring.val r x) qp
    (.write qp r.crkey (r.crva + 64 * (r.q.toNat % r.centries)) (entryBytes s r x) (r.q + 1))
  have quiet : Said [] s (entryCounted s ring.val r x) := .quiet rfl rfl ⟨rfl, rfl, rfl, rfl⟩
  refine ⟨sendAck_comps _ qp _, ?_, ((said_sendAck _ qp _).after quiet).sends, ?_, ?_⟩
  · simp only [rings]
    rw [← getRing_val, entryCounted, getRing_modRing_same, getRing_val, opened]
    rfl
  · intro j other
    simp only [rings]
    exact modRing_onlyRing { s with comps := s.comps.erase x } ring _ j other
  · rw [rings, sendAck_comps, sendAck, modConn, send_frame]
    rfl

end Completions

/-- Settles O53: a request with nothing before it is carried out at once or waits, by what its key gives and what memory takes. -/
theorem remoteAccessUnderKeys : Obligations.RemoteAccessUnderKeys := by
  unfold Obligations.RemoteAccessUnderKeys
  refine ⟨?write, ?read, ?bell, ?completion, ?expiry⟩
  case write =>
    intro i qp key va p bs s0 s c kind payload between up role idle
    have arrives : exec i s0 = .next (netIn qp (.write key va.toNat bs p.fab) s) := by
      rw [between, payload]
      rcases kind with rfl | rfl <;> rfl
    refine ⟨fun own there on => ⟨fun waits => ?waits, fun goes fabric => ?fabric, fun clean good ready crosses => ?accepted⟩,
      fun memory bells => ?denied⟩
    case waits => exact ⟨_, arrives, write_waits up role idle own there p.fab waits⟩
    case fabric =>
      rw [fabric] at arrives
      exact ⟨_, arrives, write_fabric up role idle own there goes⟩
    case denied => exact ⟨_, arrives, write_without_key up role idle p.fab memory bells⟩
    case accepted =>
      rw [clean, write_accepted up role idle own there on good ready crosses] at arrives
      refine ⟨_, arrives, memBytes_acceptMem _ _ _ _, fun a out => ?_, ?_, ?_, fun h x mem low high some_ => ?_, ?_, ?_⟩
      · rw [memByte_acceptMem_other _ _ _ _ _ out, netSend_frame]
        rfl
      · rw [findConn_congr (s := taken s qp (.write key va.toNat bs false))]
        · exact findConn_taken up idle _
        · rw [acceptMem_frame, netSend_frame]
      · rw [acceptMem_frame, netSend_frame]
        rfl
      · exact acceptMem_dirty _ va.toNat bs 0 some_ h x mem low high
      · rw [acceptMem_hinge, netSend_frame]
        dsimp only
        rw [inHalf1_taken]
        rfl
      · conv_lhs => rw [acceptMem_change]
        rw [acceptMem_net, acceptMem_hinge, netSend_frame]
        rfl
  case read =>
    intro qp key va n s0 s c between up role idle
    have arrives : exec (.rdmaRead qp key va n false) s0 = .next (netIn qp (.read (readAt s c key va.toNat n) n false) s) := by
      have request : exec (.rdmaRead qp key va n false) s0 =
          .next (netIn qp (.read ((upConn s qp).bind (fun c => readAt s c key va.toNat n)) n false) s) := by
        rw [between]
        rfl
      rw [request, up, Option.bind_some]
    refine ⟨fun own there waits good crosses => ?_, fun b memory own bind stands within => ⟨fun live there waits good crosses => ?_, fun late => ?_⟩⟩
    · rw [readAt, if_pos own] at arrives
      exact ⟨_, arrives, read_answers up role idle there waits good crosses⟩
    · rw [readAt, if_neg (by simp [memory]), if_pos own, bind] at arrives
      dsimp only at arrives
      rw [if_pos ⟨stands, live, within⟩] at arrives
      exact ⟨_, arrives, read_answers up role idle there waits good crosses⟩
    · rw [readAt, if_neg (by simp [memory]), if_pos own, bind] at arrives
      dsimp only at arrives
      rw [if_neg fun h => absurd h.2.1 (Nat.not_lt.mpr late)] at arrives
      exact ⟨_, arrives, read_denied up role idle n⟩
  case bell =>
    intro qp key va bs s0 s c i r between up role idle own eight at_ opened prod cack ahead within acks sent
    have arrives : exec (.doorbell qp key va bs) s0 = .next (netIn qp (.bell key va.toNat bs) s) := by
      rw [between]
      rfl
    rw [at_, bell_runs up role idle own eight] at arrives
    obtain ⟨ring, others, frame⟩ := ringBell_moves (s := taken s qp (.bell key (64 * i.val) bs)) opened ahead within acks sent
    exact ⟨_, arrives, ⟨_, ring, rfl, rfl, rfl, rfl, rfl, rfl⟩, others, by rw [frame, taken_frame]⟩
  case completion =>
    intro ring s r qp x opened bound up going done waits
    refine ⟨fun room => ?_, fun full => ?_⟩
    · obtain ⟨comps, rings, sends, others, frame⟩ := completionWrite_writes opened bound up going done waits room
      exact ⟨_, rfl, comps, rings, sends, entryBytes_length s r x, others, frame⟩
    · exact congrArg Host.Outcome.next ((completionWrite_eq opened bound up going done waits).trans (if_pos full))
  case expiry =>
    intro w s
    refine ⟨_, rfl, fun qp c found => ?_, rfl⟩
    have kept := findConn_of_map (s := s) (t := bindingExpiry w s) (g := fun c => { c with
      bind := c.bind.filter fun b => b.win ≠ w || decide (s.dtc.toNat < b.expiry) }) rfl (fun _ => rfl) qp
    exact kept.trans (by rw [found, Option.map_some])

end Sys2Proof.Machine
end

section
/-! SUPPORT. NOP, MARK and entries of a reserved OP, and O34 (12_latch_transport.md, R548, R553). -/

namespace Sys2Proof.Machine

/-- What a completion leaves of its ring: the MARKs that it lets go are no longer outstanding (R553). -/
theorem finishBy_ring (drop : List OutCmd → List OutCmd) {s : State} {c : Completion} {ring : Fin 16} {r : Ring}
    (own : c.ring = ring.val) (opened : getRing s c.ring = some r) : (finishBy drop s c).rings[ring] =
      some { r with outs := (drop r.outs).drop ((drop r.outs).takeWhile (·.mark)).length } := by
  unfold finishBy
  rw [opened]
  simp only [marks_frame]
  change (modRing s c.ring _).rings[ring] = _
  rw [← getRing_val, ← own, getRing_modRing_same, opened]
  rfl

theorem getRing_readCmd {s : State} {ring : Fin 16} {r : Ring} (opened : s.rings[ring] = some r) (cid : Word) (op : Nat) :
    getRing (readCmd s ring.val cid op) ring.val = some { r with c := r.c + 1, outs := r.outs ++ [OutCmd.mk cid op 0] } := by
  rw [readCmd, getRing_modRing_same, getRing_val, opened]
  rfl

theorem succeed_ring {s : State} {ring : Fin 16} {r : Ring} (opened : s.rings[ring] = some r) (cid : Word) (op : Nat) :
    (succeed (readCmd s ring.val cid op) ring.val cid 0 []).rings[ring] =
      some { r with c := r.c + 1, outs := r.outs.drop (r.outs.takeWhile (·.mark)).length } := by
  have left := finishBy_ring List.dropLast (c := cmdDone ring.val 1 0 cid 0 0 []) rfl (getRing_readCmd opened cid op)
  rw [List.dropLast_concat] at left
  exact left

theorem AtCommand.succeed_answers {s : State} {ring : Fin 16} {op : Nat} {e : List Byte} {cid : Word} (h : AtCommand s ring op e cid)
    (op' : Nat) : Answered ring (cmdDone ring.val 1 0 cid 0 0 []) s (succeed (readCmd s ring.val cid op') ring.val cid 0 []) := by
  have frame := finishBy_frame List.dropLast (readCmd s ring.val cid op') (cmdDone ring.val 1 0 cid 0 0 [])
  refine ⟨finishBy_posted List.dropLast (readCmd s ring.val cid op') _ (readCmd_ring_isSome h cid op' 0),
    (modRing_onlyRing s ring _).trans (finishBy_onlyRing _ _ rfl), ?_⟩
  unfold succeed finishNow
  rw [frame]
  rfl

/-- No command has an OP of 8 or more (Table 12.6). -/
theorem cmdBad_of_reserved {e : List Byte} (reserved : 8 ≤ leAt e 0 1) : cmdBad e = true := by
  obtain ⟨k, op⟩ := Nat.exists_eq_add_of_le' reserved
  unfold cmdBad
  rw [op]
  exact Bool.or_true _

theorem nop_reserved {s : State} {ring : Fin 16} {r : Ring} {a : Nat} (next : nextCmd s ring.val = some (r, a))
    (good : netBad s a 64 = none) (ready : netWaits s a 64 = false) (reserved : 8 ≤ leAt (devBytes s a 64) 0 1) :
    ∃ t, exec (.nop ring) s = .next t ∧
      Posted (cmdDone ring.val 2 0x2001 (BitVec.ofNat 32 (leAt (devBytes s a 64) 4 4)) 0 0 []) s t := by
  have own : isOp 0 (leAt (devBytes s a 64) 0 1) = true := by simp [isOp, reserved]
  have refused : onCmd s ring.val 0 (fun s _ cid => succeed (readCmd s ring.val cid 0) ring.val cid 0 []) =
      refuse (readCmd s ring.val (BitVec.ofNat 32 (leAt (devBytes s a 64) 4 4)) 0) ring.val
        (BitVec.ofNat 32 (leAt (devBytes s a 64) 4 4)) cmdFormat 0 0 := by
    unfold onCmd
    rw [next]
    dsimp only
    rw [if_neg (by simp [own, ready]), good]
    exact if_pos (.inl (cmdBad_of_reserved reserved))
  refine ⟨_, congrArg Host.Outcome.next refused, finishBy_posted List.dropLast _ _ ?_⟩
  change (getRing (modRing s ring.val _) ring.val).isSome = true
  rw [getRing_modRing_same, (nextCmd_eq_some next).1]
  rfl

/-- Settles O34: NOP and MARK are acted on at once, a MARK behind others stays among those outstanding. -/
theorem nopAndMarkComplete : Obligations.NopAndMarkComplete := by
  unfold Obligations.NopAndMarkComplete
  refine ⟨fun ring s e cid h => ?nop, fun ring s e cid r h opened => ⟨fun none => ?mark, fun some_ => ?joins⟩,
    fun ring s r a next good ready reserved => nop_reserved next good ready reserved⟩
  case nop =>
    obtain ⟨posted, others, frame⟩ := h.succeed_answers 0
    refine ⟨_, congrArg Host.Outcome.next (onCmd_of_atCommand h _), posted, fun r opened => ?_, others, frame⟩
    exact ⟨_, succeed_ring opened cid 0, rfl, rfl, rfl, rfl⟩
  case mark =>
    have acts : onCmd s ring.val 7 (fun s _ cid =>
        match getRing s ring.val with
        | some r => if r.outs = [] then succeed (readCmd s ring.val cid 7) ring.val cid 0 [] else readCmd s ring.val cid 7
        | .none => s) = succeed (readCmd s ring.val cid 7) ring.val cid 0 [] := by
      rw [onCmd_of_atCommand h, getRing_val, opened]
      exact if_pos none
    obtain ⟨-, others, frame⟩ := h.succeed_answers 7
    refine ⟨_, congrArg Host.Outcome.next acts, ?_, ?_, others, frame⟩
    · have posts := finishBy_comps List.dropLast _ (cmdDone ring.val 1 0 cid 0 0 []) _ (getRing_readCmd opened cid 7)
      rw [List.dropLast_concat, none] at posts
      exact posts
    · rw [succeed_ring opened, none]
      rfl
  case joins =>
    have acts : onCmd s ring.val 7 (fun s _ cid =>
        match getRing s ring.val with
        | some r => if r.outs = [] then succeed (readCmd s ring.val cid 7) ring.val cid 0 [] else readCmd s ring.val cid 7
        | .none => s) = readCmd s ring.val cid 7 := by
      rw [onCmd_of_atCommand h, getRing_val, opened]
      exact if_neg some_
    refine ⟨_, congrArg Host.Outcome.next acts, ?_, modRing_onlyRing s ring _, rfl⟩
    rw [← getRing_val, getRing_readCmd opened]

end Sys2Proof.Machine
end

section
/-! SUPPORT. The stream engine at an entry: sessions, pictures and their ends, and O32 and O33 (11_video_codec.md, R452-R503). -/

namespace Sys2Proof.Machine

/-! ### At an entry -/

section Entry

variable {h : Fin 2} {s : State} {u : ListRun} {l : Launch} {d : BitVec 512} {op : Nat}

/-- At an entry of its own, with no store of the engine waiting and no commit of its group pending, a command has the entry's
launch and descriptor (R45, R452). -/
theorem vseEntry_at (there : AtEntry s (.vse h) op u l d) (known : op ∈ vseOps) (stores : storesWait s (.vse h) = false)
    (settled : pendingG s (.vse h) = false) (k : State → Launch → Nat → BitVec 512 → State) :
    vseEntry s h op k = k s l u.idx d := by
  obtain ⟨runs, entry, clean, rfl, rfl⟩ := there
  unfold vseEntry
  dsimp only
  rw [configApply_idle _ _ settled, runs]
  dsimp only
  rw [if_neg (Bool.eq_false_iff.mp stores), if_neg (by simp [entry]), clean]
  dsimp only
  rw [if_neg (by simpa using known), if_pos rfl]

/-- A command of the engine whose accesses meet no error. -/
theorem vseUpset_at (there : AtEntry s (.vse h) op u l d) (mine : Nat → Bool) (k : State → State) :
    unitUpset (endWait s (.vse h)) (.vse h) mine .none k = k s := by
  rw [endWait_idle (waiting_of_active there.1), unitUpset_none]

/-- A fault of the engine halts its launch, and no memory byte changes (R506). -/
theorem vseFault_halts (there : AtEntry s (.vse h) op u l d) (cuts : op ≠ 0x4D) (code off idx : Nat) :
    (∃ m, findLaunch (vseFault s h l.lid code off idx) l.lid = some m ∧ m.st = .halted ∧ m.fault = 0x3900 + code) ∧
      (vseFault s h l.lid code off idx).mem = s.mem := by
  obtain ⟨found, running⟩ := there.running cuts
  obtain ⟨halted, -⟩ := unitHalt_halts (q := .vse h) rfl nofun (s := wreg s .vseFault h.val
    (setF (setF (setF (setF (rreg s .vseFault h.val) 31 31 1) 30 28 code) 27 22 off) 11 0 idx)) found running (0x3900 + code) idx
    (setF (setF (setF (setF (rreg s .vseFault h.val) 31 31 1) 30 28 code) 27 22 off) 11 0 idx).toNat
  exact ⟨⟨_, halted, rfl, rfl⟩, unitHalt_mem _ _ _ _ _ _⟩

theorem getRun_vse (there : AtEntry s (.vse h) op u l d) : s.halves[h].vse = u := run_of_active there.1

/-- The half after an entry of the engine: the next one is current. -/
theorem nextEntry_vse (there : AtEntry s (.vse h) op u l d) {t : State} (halves : t.halves = s.halves) :
    (nextEntry t (.vse h)).halves[h] = { s.halves[h] with vse := { s.halves[h].vse with
      idx := u.idx + 1, waiting := none, ready := [], part := 0 } } ∧ OnlyHalf h s (nextEntry t (.vse h)) := by
  have run := getRun_vse there
  subst run
  refine ⟨?_, fun c other => ?_⟩
  · unfold nextEntry modRun
    rw [modHalf_same]
    simp only [halves]
  · refine (modHalf_onlyHalf t h _ c other).trans ?_
    simp only [halves]

end Entry

/-! ### Sessions (R452, R456) -/

/-- The session that a record opens, and the bytes of its area behind the record (R456). -/
def opened (enc : Bool) (r : List Byte) : Session :=
  if enc then .enc { pics := [], group := [], base := none, ended := false, full := rRate r * rD0 r * rFrn r }
  else .dec { units := [], outs := 0, kept := [], count := 0, last := [], latest := [] }

section Open

variable {h : Fin 2} {s : State} {u : ListRun} {l : Launch} {d : BitVec 512} {enc : Bool}
  (there : AtEntry s (.vse h) (if enc then 0x60 else 0x62) u l d) (stores : storesWait s (.vse h) = false)
  (settled : pendingG s (.vse h) = false)
include there stores settled

theorem openSession_unaligned (known : (if enc then 0x60 else 0x62) ∈ vseOps) (odd : (Config.openSes d).toNat % 2 ^ 21 ≠ 0) :
    openSession enc h s = vseFault s h l.lid 1 8 u.idx := by
  unfold openSession
  rw [vseEntry_at there known stores settled]
  exact if_pos odd

theorem openSession_opens (known : (if enc then 0x60 else 0x62) ∈ vseOps) {a : Nat} (area : a = (Config.openSes d).toNat)
    {src : OpRef} (source : src = opRef (Config.openSrc d).toNat) {rd : Range} (read : rd = Range.mk src.sp false src.addr 256)
    {r : List Byte} (record : r = readSp s (Config.halfRegion d (Config.openSrc d) h) src.sp src.addr 256)
    (aligned : a % 2 ^ 21 = 0) (space : 2 ≤ src.space) (bound : vseBound s l [(memR true a 4096, 8), (rd, 16)] = none)
    (ready : rangeWaits s (.vse h) l [rd] = false) (clean : rangeBad s l [rd] = none)
    (good : (if enc then encRecBad r else decRecBad r) = none) :
    openSession enc h s = nextEntry (issue (keepSess s (opened enc r)) (.vse h) l.lid a (fullMask (r ++
      sessBytes s (if enc then 1 else 2) 0 (if enc then encMaxPic r else 0) (opened enc r)))) (.vse h) := by
  subst area source read record
  unfold openSession
  rw [vseEntry_at there known stores settled]
  dsimp only
  rw [if_neg (not_not.mpr aligned), if_neg (Nat.not_lt.mpr space), bound]
  dsimp only
  unfold vseReads
  rw [if_neg (Bool.eq_false_iff.mp ready), clean]
  dsimp only
  rw [good]
  rfl

end Open

theorem vseEnd_finishes {h : Fin 2} {s : State} {u : ListRun} {l : Launch} {d : BitVec 512}
    (there : AtEntry s (.vse h) 0x3F u l d) (stores : storesWait s (.vse h) = false) (settled : pendingG s (.vse h) = false) :
    exec (.vseEnd h) s = .next (modRun s (.vse h) fun u => { u with finished := true }) :=
  congrArg Host.Outcome.next (vseEntry_at there (by decide) stores settled _)

/-- Settles O32: the session area of a good record is issued and the next entry is current; END finishes the run. -/
theorem sessionsOpenAndEnd : Obligations.SessionsOpenAndEnd := by
  unfold Obligations.SessionsOpenAndEnd
  refine ⟨fun p named h s u l d there stores settled => ?opens, fun h s u l d there stores settled => ?ends⟩
  case ends =>
    exact ⟨_, vseEnd_finishes there stores settled, modHalf_same s h _, modHalf_onlyHalf s h _, rfl⟩
  case opens =>
    have kind : ∃ enc : Bool, p = (if enc then 0x60 else 0x62, enc, if enc then Instr.eses else Instr.dses) := by
      simp only [List.mem_cons, List.not_mem_nil, or_false] at named
      rcases named with rfl | rfl
      · exact ⟨true, rfl⟩
      · exact ⟨false, rfl⟩
    obtain ⟨enc, rfl⟩ := kind
    have known : (if enc then 0x60 else 0x62) ∈ vseOps := by cases enc <;> decide
    have cuts : (if enc then 0x60 else 0x62) ≠ 0x4D := by cases enc <;> decide
    have runs : exec ((if enc then Instr.eses else Instr.dses) ⟨h, .none⟩) s = .next (openSession enc h s) := by
      cases enc
      all_goals exact congrArg Host.Outcome.next (unitUpset_none s _ _ _)
    refine ⟨fun aligned space bound ready clean good => ?_, fun odd => ?_⟩
    · rw [openSession_opens there stores settled known rfl rfl rfl rfl aligned space bound ready clean good] at runs
      obtain ⟨half, others⟩ := nextEntry_vse there (t := issue (keepSess s (opened enc _)) (.vse h) l.lid _ _) rfl
      exact ⟨_, runs, ⟨_, rfl, rfl⟩, half, others, rfl⟩
    · rw [openSession_unaligned there stores settled known odd] at runs
      exact ⟨_, runs, vseFault_halts there cuts 1 8 u.idx⟩

end Sys2Proof.Machine
end

section
/-! SUPPORT. Pictures in progress, begun and ended by the stream engine, and O33 (11_video_codec.md, R454-R503). -/

namespace Sys2Proof.Machine

/-! ### Stores of the engine -/

/-- The stores of a list of places and bytes, in their order. -/
def issueAll (s : State) (h : Fin 2) (lid : BitVec 32) (ws : List (Nat × List Byte)) : State :=
  ws.foldl (fun z w => issue z (.vse h) lid w.1 (fullMask w.2)) s

theorem issueAll_frame (s : State) (h : Fin 2) (lid : BitVec 32) (ws : List (Nat × List Byte)) :
    issueAll s h lid ws = { s with mem := { s.mem with stores := (issueAll s h lid ws).mem.stores } } := by
  induction ws generalizing s with
  | nil => rfl
  | cons w ws ih =>
    change issueAll (issue s (.vse h) lid w.1 (fullMask w.2)) h lid ws = _
    rw [ih]
    rfl

/-- What a session keeps is no matter of the stores. -/
theorem issueAll_keepSess (s : State) (x : Session) (h : Fin 2) (lid : BitVec 32) (ws : List (Nat × List Byte)) :
    issueAll (keepSess s x) h lid ws = keepSess (issueAll s h lid ws) x := by
  induction ws generalizing s with
  | nil => rfl
  | cons w ws ih => exact ih (issue s (.vse h) lid w.1 (fullMask w.2))

/-! ### A descriptor in progress (R482, R486, R492, R503) -/

section GoOn

variable {h : Fin 2} {s : State} {u : ListRun} {l : Launch} {d : BitVec 512} {j : VseJob}

theorem vseSignal_frame (s : State) (h : Fin 2) (l : Launch) (idx : Nat) (d : BitVec 512) (n : Nat) :
    vseSignal s h l idx d n = { s with flagReqs := (vseSignal s h l idx d n).flagReqs } := by
  unfold vseSignal
  split <;> rfl

theorem vseRowOut_frame (s : State) (h : Fin 2) (l : Launch) (idx : Nat) (d : BitVec 512) (j : VseJob) (x : VseRow) :
    vseRowOut s h l idx d j x = { s with
      mem := { s.mem with stores := (vseRowOut s h l idx d j x).mem.stores }
      flagReqs := (vseRowOut s h l idx d j x).flagReqs } := by
  have frame := issueAll_frame s h l.lid x.outs
  unfold vseRowOut
  dsimp only
  rw [← issueAll]
  split
  · rw [vseSignal_frame, frame]
    rfl
  · rw [frame]

/-- A row in progress: its stores are issued, and the next row waits. -/
theorem vseGoOn_row {x : VseRow} {rest : List VseRow} (row : j.todo = x :: rest) (idx : Nat) : ∃ j', vseGoOn s h l idx d j =
    modHalf (vseRowOut s h l idx d j x) h (fun g => { g with vseJob := some j' }) ∧ j'.todo = rest ∧ j'.res = j.res ∧ j'.ses = j.ses := by
  unfold vseGoOn
  rw [row]
  exact ⟨_, rfl, rfl, rfl, rfl⟩

theorem vseGoOn_decode {flush : Bool} {r : List Byte} {k : DecKey} {e : DecState} (rows : j.todo = [])
    (tail : j.tail = .decode flush r k e) (idx : Nat) : vseGoOn s h l idx d j = decodeEnd s h l d j flush r k e := by
  unfold vseGoOn
  rw [rows, tail]

theorem vseGoOn_ready {out st : List Byte} {a b c : Bool} {n : Nat} (rows : j.todo = [])
    (tail : j.tail = .ready out st a b c n) (idx : Nat) : vseGoOn s h l idx d j = vseFinish s h l idx d j out st a b c n := by
  unfold vseGoOn
  rw [rows, tail]

/-- A change of the half after a change that leaves the halves as they were. -/
theorem modHalf_after {t : State} (halves : t.halves = s.halves) (h : Fin 2) (f : Half → Half) :
    (modHalf t h f).halves[h] = f s.halves[h] ∧ OnlyHalf h s (modHalf t h f) := by
  refine ⟨?_, fun c other => ?_⟩
  · rw [modHalf_same]
    simp only [halves]
  · refine (modHalf_onlyHalf t h f c other).trans ?_
    simp only [halves]

theorem row_goes (x : VseRow) (rest : List VseRow) (row : j.todo = x :: rest) (idx : Nat) :
    let t := vseGoOn s h l idx d j
    (x.sig = none → t.mem = (x.outs.foldl (fun z w => issue z (.vse h) l.lid w.1 (fullMask w.2)) s).mem ∧
        t.flagReqs = s.flagReqs) ∧
      (∃ j', t.halves[h] = { s.halves[h] with vseJob := some j' } ∧ j'.todo = rest ∧ j'.res = j.res ∧ j'.ses = j.ses) ∧
      OnlyHalf h s t ∧ t = { s with halves := t.halves, mem := { s.mem with stores := t.mem.stores },
                                    flagReqs := t.flagReqs } := by
  obtain ⟨j', goes, todo, res, ses⟩ := vseGoOn_row (s := s) (h := h) (l := l) (d := d) row idx
  have frame := vseRowOut_frame s h l idx d j x
  obtain ⟨half, others⟩ := modHalf_after (s := s) (t := vseRowOut s h l idx d j x) (by rw [frame]) h
    (fun g => { g with vseJob := some j' })
  intro t
  rw [show t = _ from goes]
  refine ⟨fun plain => ?_, ⟨j', half, todo, res, ses⟩, others, ?_⟩
  · have stores : vseRowOut s h l idx d j x = issueAll s h l.lid x.outs := by
      unfold vseRowOut
      rw [plain]
      rfl
    rw [stores]
    refine ⟨rfl, ?_⟩
    rw [modHalf_flagReqs, issueAll_frame]
  · rw [modHalf, frame]

theorem decode_goes (flush : Bool) (r : List Byte) (k : DecKey) (e : DecState) (rows : j.todo = [])
    (tail : j.tail = .decode flush r k e) (idx : Nat) :
    let t := vseGoOn s h l idx d j
    t.sessions = .dec (decodeUnit r k flush e).1 :: s.sessions ∧
      t.mem = ((ringOuts r d e.outs (decodeUnit r k flush e).2.pics).foldl
        (fun z w => issue z (.vse h) l.lid w.1 (fullMask w.2)) s).mem ∧
      (∃ out st a b c n, t.halves[h] = { s.halves[h] with vseJob := some { j with tail := .ready out st a b c n } }) ∧
      OnlyHalf h s t ∧ t = { s with halves := t.halves, mem := t.mem, sessions := t.sessions } := by
  have goes := vseGoOn_decode (s := s) (h := h) (l := l) (d := d) rows tail idx
  have frame := issueAll_frame s h l.lid (ringOuts r d e.outs (decodeUnit r k flush e).2.pics)
  have stores := issueAll_keepSess s (.dec (decodeUnit r k flush e).1) h l.lid (ringOuts r d e.outs (decodeUnit r k flush e).2.pics)
  unfold decodeEnd at goes
  dsimp only at goes
  rw [← issueAll, stores] at goes
  have after (f : Half → Half) := modHalf_after (s := s)
    (t := keepSess (issueAll s h l.lid (ringOuts r d e.outs (decodeUnit r k flush e).2.pics)) (.dec (decodeUnit r k flush e).1))
    (by rw [frame]; rfl) h f
  intro t
  rw [show t = _ from goes]
  refine ⟨?_, rfl, ⟨_, _, _, _, _, _, (after _).1⟩, (after _).2, ?_⟩
  · rw [modHalf_sessions, frame]
    rfl
  · rw [modHalf, keepSess, frame]

/-- The events that the end of a descriptor counts. -/
def eventsCounted (s : State) (h : Fin 2) (lastres filler damaged : Bool) (concealed : Nat) : State :=
  let s := if lastres then cfld s .vseRcev h.val 31 16 1 else s
  let s := if filler then cfld s .vseRcev h.val 15 0 1 else s
  let s := if damaged then cfld s .vseDerr h.val 31 16 1 else s
  if 0 < concealed then cfld s .vseDerr h.val 15 0 concealed else s

theorem counted_if {l : List Nat} (s : State) (p : Prop) [Decidable p] (r : Reg) (i hi lo n : Nat) (mem : regAddr r i ∈ l) :
    RegsBut l s (if p then cfld s r i hi lo n else s) ∧
      (if p then cfld s r i hi lo n else s) = { s with regs := (if p then cfld s r i hi lo n else s).regs } := by
  split
  · exact ⟨(wreg_regsBut s r i _).mono (by simpa using mem), rfl⟩
  · exact ⟨RegsBut.refl _ s, rfl⟩

theorem eventsCounted_change (s : State) (h : Fin 2) (a b c : Bool) (n : Nat) :
    RegsBut [regAddr .vseRcev h.val, regAddr .vseDerr h.val] s (eventsCounted s h a b c n) ∧
      eventsCounted s h a b c n = { s with regs := (eventsCounted s h a b c n).regs } := by
  unfold eventsCounted
  dsimp only
  obtain ⟨regs1, frame1⟩ := counted_if (l := [regAddr .vseRcev h.val, regAddr .vseDerr h.val]) s (a = true) .vseRcev h.val 31 16 1
    (by simp)
  generalize (if a = true then cfld s .vseRcev h.val 31 16 1 else s) = s1 at *
  obtain ⟨regs2, frame2⟩ := counted_if (l := [regAddr .vseRcev h.val, regAddr .vseDerr h.val]) s1 (b = true) .vseRcev h.val 15 0 1
    (by simp)
  generalize (if b = true then cfld s1 .vseRcev h.val 15 0 1 else s1) = s2 at *
  obtain ⟨regs3, frame3⟩ := counted_if (l := [regAddr .vseRcev h.val, regAddr .vseDerr h.val]) s2 (c = true) .vseDerr h.val 31 16 1
    (by simp)
  generalize (if c = true then cfld s2 .vseDerr h.val 31 16 1 else s2) = s3 at *
  obtain ⟨regs4, frame4⟩ := counted_if (l := [regAddr .vseRcev h.val, regAddr .vseDerr h.val]) s3 (0 < n) .vseDerr h.val 15 0 n
    (by simp)
  generalize (if 0 < n then cfld s3 .vseDerr h.val 15 0 n else s3) = s4 at *
  exact ⟨((regs1.trans regs2).trans regs3).trans regs4, by rw [frame4, frame3, frame2, frame1]⟩

theorem vseFinish_eq (s : State) (h : Fin 2) (l : Launch) (idx : Nat) (d : BitVec 512) (j : VseJob) (out st : List Byte)
    (a b c : Bool) (n : Nat) : vseFinish s h l idx d j out st a b c n =
      nextEntry (modHalf (vseSignal (eventsCounted (issue (issue s (.vse h) l.lid (j.ses + 256) (fullMask st)) (.vse h) l.lid j.res
        (fullMask out)) h a b c n) h l idx d 1) h (fun g => { g with vseJob := none })) (.vse h) := rfl

theorem ready_goes {op : Nat} (there : AtEntry s (.vse h) op u l d) {out st : List Byte} {a b c : Bool} {n : Nat}
    (rows : j.todo = []) (tail : j.tail = .ready out st a b c n) :
    let t := vseGoOn s h l u.idx d j
    t.mem = (issue (issue s (.vse h) l.lid (j.ses + 256) (fullMask st)) (.vse h) l.lid j.res (fullMask out)).mem ∧
      t.halves[h] = { s.halves[h] with
        vseJob := none, vse := { s.halves[h].vse with idx := u.idx + 1, waiting := none, ready := [], part := 0 } } ∧
      (fld d 48 1 / 128 = 1 → ∃ q, t.flagReqs = s.flagReqs ++ [q] ∧ q.src = .vse h ∧ q.inc = 1 ∧
        q.rgn = Fin.ofNat 8 (fld d 48 1) ∧ q.flag = Fin.ofNat 64 (fld d 49 1)) ∧
      (fld d 48 1 / 128 = 0 → t.flagReqs = s.flagReqs) ∧
      RegsBut [regAddr .vseRcev h.val, regAddr .vseDerr h.val] s t ∧
      OnlyHalf h s t ∧ t = { s with regs := t.regs, halves := t.halves, mem := t.mem, flagReqs := t.flagReqs } := by
  obtain ⟨regs, counts⟩ := eventsCounted_change (issue (issue s (.vse h) l.lid (j.ses + 256) (fullMask st)) (.vse h) l.lid j.res
    (fullMask out)) h a b c n
  have goes := (vseGoOn_ready (s := s) (h := h) (l := l) (d := d) rows tail u.idx).trans (vseFinish_eq s h l u.idx d j out st a b c n)
  generalize written : issue (issue s (.vse h) l.lid (j.ses + 256) (fullMask st)) (.vse h) l.lid j.res (fullMask out) = w at *
  have stores : w = { s with mem := w.mem } := by rw [← written]; rfl
  generalize eventsCounted w h a b c n = e at *
  have signal := vseSignal_frame e h l u.idx d 1
  have halves : (vseSignal e h l u.idx d 1).halves = s.halves := by rw [signal, counts, stores]
  have run := getRun_vse there
  obtain ⟨half, others⟩ := modHalf_after halves h (fun g => { g with
    vseJob := none, vse := { g.vse with idx := g.vse.idx + 1, waiting := none, ready := [], part := 0 } })
  have merged : vseGoOn s h l u.idx d j = modHalf (vseSignal e h l u.idx d 1) h (fun g => { g with
      vseJob := none, vse := { g.vse with idx := g.vse.idx + 1, waiting := none, ready := [], part := 0 } }) :=
    goes.trans (modHalf_modHalf _ h (fun g => { g with vseJob := none })
      fun g => { g with vse := { g.vse with idx := g.vse.idx + 1, waiting := none, ready := [], part := 0 } })
  intro t
  rw [show t = _ from merged]
  refine ⟨?mem, ?half, fun sig => ?asks, fun plain => ?quiet, ?regs, others, ?frame⟩
  case mem => rw [modHalf_mem, signal, counts]
  case half => rw [half, run]
  case asks =>
    have asked : vseSignal e h l u.idx d 1 = askFlag e (.vse h) l.lid u.idx (Fin.ofNat 8 (fld d 48 1)) (Fin.ofNat 64 (fld d 49 1)) 1 :=
      if_pos ⟨sig, by decide⟩
    rw [modHalf_flagReqs, asked]
    exact ⟨_, by rw [askFlag, counts, stores], rfl, rfl, rfl, rfl⟩
  case quiet =>
    have silent : vseSignal e h l u.idx d 1 = e := if_neg fun asks => absurd (plain.symm.trans asks.1) (by decide)
    rw [modHalf_flagReqs, silent, counts, stores]
  case regs => exact regs.congr (by rw [stores]) (by rw [modHalf_regs, signal])
  case frame =>
    unfold modHalf
    rw [signal, counts, stores]

end GoOn
/-! ### A descriptor that begins (R454, R457, R468, R469, R485, R489) -/

section Begin

variable {h : Fin 2} {s : State} {u : ListRun} {l : Launch} {d : BitVec 512} {idx a kind : Nat}

theorem vseWait_passes (reached : fld d 2 1 / 128 = 1 →
    fld d 50 4 ≤ flagVal s (Fin.ofNat 8 (fld d 2 1)) (Fin.ofNat 64 (fld d 3 1))) (k : State) : vseWait s h l d k = k :=
  if_neg fun waits => absurd (reached waits.1) (Nat.not_le.mpr waits.2)

theorem withSession_uses (ready : rangeWaits s (.vse h) l [memR false a 4096] = false)
    (clean : rangeBad s l [memR false a 4096] = none) (usable : sesReady s a kind = true) (k : List Byte → Session → State) :
    withSession s h l idx a kind k = k (viewBytes s a 256) (sessAt s a) := by
  unfold withSession
  rw [if_neg (Bool.eq_false_iff.mp ready), clean]
  dsimp only
  rw [usable]
  rfl

theorem vseReads_goes {xs : List Range} (ready : rangeWaits s (.vse h) l xs = false) (clean : rangeBad s l xs = none) (k : State) :
    vseReads s h l idx xs k = k := by
  unfold vseReads
  rw [if_neg (Bool.eq_false_iff.mp ready), clean]

/-- A descriptor that begins sets BUSY in the area by one store, and its job waits. -/
theorem vseBegin_begins (s : State) (h : Fin 2) (l : Launch) (j : VseJob) :
    let t := vseBegin s h l j
    t.halves[h] = { s.halves[h] with vseJob := some j } ∧ t.mem = (issue s (.vse h) l.lid (j.ses + 259) [(1, 1)]).mem ∧
      OnlyHalf h s t ∧ t = { s with halves := t.halves, mem := t.mem } := by
  obtain ⟨half, others⟩ := modHalf_after (s := s) (t := issue s (.vse h) l.lid (j.ses + 259) [(1, 1)]) rfl h
    (fun g => { g with vseJob := some j })
  exact ⟨half, rfl, others, rfl⟩

section Epic

variable (there : AtEntry s (.vse h) 0x61 u l d) (stores : storesWait s (.vse h) = false) (settled : pendingG s (.vse h) = false)
  (idle : s.halves[h].vseJob = none) (desc : epicBad l d = none) (bound : vseBound s l (sesRanges (fld d 8 8) 4096) = none)
  (reached : fld d 2 1 / 128 = 1 → fld d 50 4 ≤ flagVal s (Fin.ofNat 8 (fld d 2 1)) (Fin.ofNat 64 (fld d 3 1)))
  (waits : rangeWaits s (.vse h) l [memR false (fld d 8 8) 4096] = false) (clean : rangeBad s l [memR false (fld d 8 8) 4096] = none)
  (usable : sesReady s (fld d 8 8) 1 = true) (fits : memLe s (fld d 8 8 + 264) 8 ≤ fld d 36 4)
include there stores settled idle desc bound reached waits clean usable fits

/-- The record of the session that a descriptor names (Table 11.2). -/
abbrev sessRecord (s : State) (d : BitVec 512) : List Byte := viewBytes s (fld d 8 8) 256

/-- The ranges that an EPIC accesses beside its input (R485). -/
abbrev epicRanges (s : State) (d : BitVec 512) (ins : List Range) : List (Range × Nat) :=
  ins.map (fun x => (x, 16)) ++ [(memR true (fld d 28 8) (fld d 36 4), 28), (memR true (fld d 40 8) 64, 40)] ++
    sesRanges (fld d 8 8) (sessArea true (sessRecord s d))

/-- With its operands in reach, an EPIC turns on its session: of the other kind, of a picture out of order, or to be coded. -/
theorem epic_turns {ins : List Range} (input : ins = picRanges (sessRecord s d) (refAt d 16) (fld d 24 4))
    (inside : vseBound s l (epicRanges s d ins) = none) (reads : rangeWaits s (.vse h) l ins = false)
    (good : rangeBad s l ins = none) :
    (∀ e, sessAt s (fld d 8 8) = .dec e → epic h s = vseFault s h l.lid 4 8 u.idx) ∧
    ∀ e, sessAt s (fld d 8 8) = .enc e →
      (orderOf (sessRecord s d) e (fld d 1 1) (fld d 4 4) = none → epic h s = vseFault s h l.lid 3 4 u.idx) ∧
      ∀ o, orderOf (sessRecord s d) e (fld d 1 1) (fld d 4 4) = some o → epic h s = epicCode s h l d (sessRecord s d) e o := by
  subst input
  unfold epic
  rw [vseEntry_at there (by decide) stores settled, idle]
  dsimp only
  rw [desc, bound]
  dsimp only
  rw [vseWait_passes reached, withSession_uses waits clean usable, if_neg (Nat.not_lt.mpr fits), inside]
  refine ⟨fun e other => ?_, fun e own => ⟨fun none => ?_, fun o next => ?_⟩⟩
  · rw [other]
  · rw [own]
    dsimp only
    rw [none]
  · rw [own]
    dsimp only
    rw [next]
    exact vseReads_goes reads good _

end Epic
/-- A picture in its order is coded: its session's new state, with the picture, is kept, and BUSY is set (R457, R469). -/
theorem epicCode_codes (s : State) (h : Fin 2) (l : Launch) (d : BitVec 512) (r : List Byte) (e : EncState)
    (o : Nat × List Nat × Nat) :
    let t := epicCode s h l d r e o
    (∃ j e', t.halves[h] = { s.halves[h] with vseJob := some j } ∧ j.res = fld d 40 8 ∧ j.ses = fld d 8 8 ∧
        t.sessions = .enc e' :: s.sessions ∧ e'.group = o.2.1 ∧ e'.base = some o.2.2 ∧ e'.pics.length = e.pics.length + 1) ∧
      t.mem = (issue s (.vse h) l.lid (fld d 8 8 + 259) [(1, 1)]).mem ∧ OnlyHalf h s t ∧
      t = { s with halves := t.halves, mem := t.mem, sessions := t.sessions } := by
  have begins : ∃ (x : Session) (j : VseJob) (e' : EncState), epicCode s h l d r e o = vseBegin (keepSess s x) h l j ∧ x = .enc e' ∧
      j.res = fld d 40 8 ∧ j.ses = fld d 8 8 ∧ e'.group = o.2.1 ∧ e'.base = some o.2.2 ∧ e'.pics.length = e.pics.length + 1 :=
    ⟨_, _, _, rfl, rfl, rfl, rfl, rfl, rfl, List.length_append⟩
  obtain ⟨_, j, e', codes, rfl, res, ses, group, base, pics⟩ := begins
  obtain ⟨half, stored, others, frame⟩ := vseBegin_begins (keepSess s (.enc e')) h l j
  intro t
  rw [show t = _ from codes]
  rw [ses] at stored
  refine ⟨⟨j, e', half, res, ses, ?_, group, base, pics⟩, stored, others, ?_⟩
  · rw [frame]
    rfl
  · rw [frame]
    rfl

/-- A unit to be decoded, or a flush: BUSY is set, and the rows, the pictures and the record follow (R457, R492). -/
theorem dauCode_begins (s : State) (h : Fin 2) (l : Launch) (d : BitVec 512) (flush : Bool) (r : List Byte) (e : DecState) :
    let t := dauCode s h l d flush r e
    (∃ j k, t.halves[h] = { s.halves[h] with vseJob := some j } ∧ j.res = fld d 41 6 ∧ j.ses = fld d 8 8 ∧
        j.tail = .decode flush r k e ∧ k.record = r ∧ k.before = e.units ∧
        k.now.bytes = (if flush then none else some (viewBytes s (fld d 16 8) (fld d 24 4)))) ∧
      t.mem = (issue s (.vse h) l.lid (fld d 8 8 + 259) [(1, 1)]).mem ∧ OnlyHalf h s t ∧
      t = { s with halves := t.halves, mem := t.mem } := by
  have begins : ∃ (j : VseJob) (k : DecKey), dauCode s h l d flush r e = vseBegin s h l j ∧ j.res = fld d 41 6 ∧ j.ses = fld d 8 8 ∧
      j.tail = .decode flush r k e ∧ k.record = r ∧ k.before = e.units ∧
      k.now.bytes = (if flush then none else some (viewBytes s (fld d 16 8) (fld d 24 4))) :=
    ⟨_, _, rfl, rfl, rfl, rfl, rfl, rfl, rfl⟩
  obtain ⟨j, k, codes, res, ses, tail, record, before, bytes⟩ := begins
  obtain ⟨half, stored, others, frame⟩ := vseBegin_begins s h l j
  intro t
  rw [show t = _ from codes]
  rw [ses] at stored
  exact ⟨⟨j, k, half, res, ses, tail, record, before, bytes⟩, stored, others, frame⟩

section Dau

variable {flush : Bool} (there : AtEntry s (.vse h) (if flush then 0x64 else 0x63) u l d) (stores : storesWait s (.vse h) = false)
  (settled : pendingG s (.vse h) = false) (idle : s.halves[h].vseJob = none) (desc : dauBad l d flush = none)
  (bound : vseBound s l (sesRanges (fld d 8 8) 4096) = none)
  (reached : fld d 2 1 / 128 = 1 → fld d 50 4 ≤ flagVal s (Fin.ofNat 8 (fld d 2 1)) (Fin.ofNat 64 (fld d 3 1)))
  (waits : rangeWaits s (.vse h) l [memR false (fld d 8 8) 4096] = false) (clean : rangeBad s l [memR false (fld d 8 8) 4096] = none)
  (usable : sesReady s (fld d 8 8) 2 = true) (fits : slotSmall (sessRecord s d) (fld d 36 4) = false)
include there stores settled idle desc bound reached waits clean usable fits

/-- With its operands in reach, a DAU or DFLUSH turns on its session: of the other kind, or to be decoded. -/
theorem dau_turns (known : (if flush then 0x64 else 0x63) ∈ vseOps)
    (inside : vseBound s l ([(memR false (fld d 16 8) (fld d 24 4), 16),
      (memR true (fld d 28 8) (fld d 40 1 * fld d 36 4 * 64), 28), (memR true (fld d 41 6) 192, 41)] ++
      sesRanges (fld d 8 8) (sessArea false (sessRecord s d))) = none)
    (reads : rangeWaits s (.vse h) l [memR false (fld d 16 8) (fld d 24 4)] = false)
    (good : rangeBad s l [memR false (fld d 16 8) (fld d 24 4)] = none) :
    (∀ e, sessAt s (fld d 8 8) = .enc e → dau flush h s = vseFault s h l.lid 4 8 u.idx) ∧
    ∀ e, sessAt s (fld d 8 8) = .dec e → dau flush h s = dauCode s h l d flush (sessRecord s d) e := by
  unfold dau
  rw [vseEntry_at there known stores settled, idle]
  dsimp only
  rw [desc, bound]
  dsimp only
  rw [vseWait_passes reached, withSession_uses waits clean usable, fits, if_neg Bool.false_ne_true, inside]
  refine ⟨fun e other => ?_, fun e own => ?_⟩
  · rw [other]
  · rw [own]
    exact vseReads_goes reads good _

end Dau
end Begin
/-- A picture in progress goes on (R486, R503). -/
theorem job_goes {p : Nat × (HalfCmd → Instr)} (named : p ∈ [(0x61, Instr.epic), (0x63, Instr.dau), (0x64, Instr.dflush)]) {h : Fin 2}
    {s : State} {u : ListRun} {l : Launch} {d : BitVec 512} {j : VseJob} (there : AtEntry s (.vse h) p.1 u l d)
    (stores : storesWait s (.vse h) = false) (settled : pendingG s (.vse h) = false) (job : s.halves[h].vseJob = some j) :
    exec (p.2 ⟨h, .none⟩) s = .next (vseGoOn s h l u.idx d j) := by
  have epics (there : AtEntry s (.vse h) 0x61 u l d) : epic h s = vseGoOn s h l u.idx d j := by
    unfold epic
    rw [vseEntry_at there (by decide) stores settled, job]
  have daus (flush : Bool) (there : AtEntry s (.vse h) (if flush then 0x64 else 0x63) u l d)
      (known : (if flush then 0x64 else 0x63) ∈ vseOps) : dau flush h s = vseGoOn s h l u.idx d j := by
    unfold dau
    rw [vseEntry_at there known stores settled, job]
  simp only [List.mem_cons, List.not_mem_nil, or_false] at named
  rcases named with rfl | rfl | rfl
  · exact congrArg Host.Outcome.next ((vseUpset_at there _ _).trans (epics there))
  · exact congrArg Host.Outcome.next ((vseUpset_at there _ _).trans (daus false there (by decide)))
  · exact congrArg Host.Outcome.next ((vseUpset_at there _ _).trans (daus true there (by decide)))

/-- Settles O33: a job goes on by its next row, its decode or its end; without one a descriptor turns on its session. -/
theorem picturesAreCodedAndRecorded : Obligations.PicturesAreCodedAndRecorded := by
  unfold Obligations.PicturesAreCodedAndRecorded
  refine ⟨fun p named h s u l d j there stores settled job => ?goes, ?epic, ?dau⟩
  case goes =>
    have runs := job_goes named there stores settled job
    exact ⟨fun x rest row => ⟨_, runs, row_goes x rest row u.idx⟩,
      fun flush r k e rows tail => ⟨_, runs, decode_goes flush r k e rows tail u.idx⟩,
      fun out st a b c n rows tail => ⟨_, runs, ready_goes there rows tail⟩⟩
  case epic =>
    intro h s u l d there stores settled idle desc bound reached waits clean usable fits r ins inside reads good
    have runs : exec (.epic ⟨h, .none⟩) s = .next (epic h s) := congrArg Host.Outcome.next (vseUpset_at there _ _)
    obtain ⟨others, own⟩ := epic_turns there stores settled idle desc bound reached waits clean usable fits rfl inside reads good
    cases session : sessAt s (fld d 8 8) with
    | dec e =>
      rw [others e session] at runs
      obtain ⟨halted, mem⟩ := vseFault_halts there (by decide) 4 8 u.idx
      exact ⟨_, runs, congrArg Mem.bytes mem, nofun, fun _ _ => halted⟩
    | enc e =>
      obtain ⟨disorder, codes⟩ := own e session
      cases order : orderOf r e (fld d 1 1) (fld d 4 4) with
      | none =>
        rw [disorder order] at runs
        obtain ⟨halted, mem⟩ := vseFault_halts there (by decide) 3 4 u.idx
        refine ⟨_, runs, congrArg Mem.bytes mem, fun e' same => ?_, nofun⟩
        cases same
        exact ⟨fun o next => by simp [order] at next, fun _ => halted⟩
      | some o =>
        rw [codes o order] at runs
        have coded := epicCode_codes s h l d r e o
        refine ⟨_, runs, (congrArg Mem.bytes coded.2.1).trans rfl, fun e' same => ?_, nofun⟩
        cases same
        refine ⟨fun o' next => ?_, fun none => by simp [order] at none⟩
        obtain rfl : o = o' := Option.some.inj (order.symm.trans next)
        exact coded
  case dau =>
    intro p named h s u l d there stores settled idle desc bound reached waits clean usable r fits inside reads good
    have kind : ∃ flush : Bool, p = (if flush then 0x64 else 0x63, flush, if flush then Instr.dflush else Instr.dau) := by
      simp only [List.mem_cons, List.not_mem_nil, or_false] at named
      rcases named with rfl | rfl
      · exact ⟨false, rfl⟩
      · exact ⟨true, rfl⟩
    obtain ⟨flush, rfl⟩ := kind
    have known : (if flush then 0x64 else 0x63) ∈ vseOps := by cases flush <;> decide
    have runs : exec ((if flush then Instr.dflush else Instr.dau) ⟨h, .none⟩) s = .next (dau flush h s) := by
      cases flush
      all_goals exact congrArg Host.Outcome.next (vseUpset_at there _ _)
    obtain ⟨others, own⟩ := dau_turns there stores settled idle desc bound reached waits clean usable fits known inside reads good
    cases session : sessAt s (fld d 8 8) with
    | enc e =>
      rw [others e session] at runs
      obtain ⟨halted, mem⟩ := vseFault_halts there (by cases flush <;> decide) 4 8 u.idx
      exact ⟨_, runs, congrArg Mem.bytes mem, nofun, fun _ _ => halted⟩
    | dec e =>
      rw [own e session] at runs
      have begun := dauCode_begins s h l d flush r e
      refine ⟨_, runs, (congrArg Mem.bytes begun.2.1).trans rfl, fun e' same => ?_, nofun⟩
      cases same
      exact begun

end Sys2Proof.Machine
end

section
/-! SUPPORT. The loss of what is volatile: what is being written and what a wipe leaves (13_boot_keyring.md, R600, R606;
16_module_physical.md, R702). -/

namespace Sys2Proof.Machine

/-! ### Writing that is cut off -/

theorem cutRecord_frame (s : State) :
    cutRecord s = { s with flash := (cutRecord s).flash, freeCtr := (cutRecord s).freeCtr } := by
  unfold cutRecord
  split
  · rfl
  · dsimp only
    split <;> rfl

theorem cutProg_frame (s : State) : cutProg s = { s with flash := (cutProg s).flash, freeCtr := (cutProg s).freeCtr } := by
  unfold cutProg
  split
  · rfl
  · split <;> rfl

/-- Whatever a cut leaves, it touches the flash, the fuses and the free values alone. -/
theorem cutGrant_frame (s : State) : cutGrant s = { s with
    flash := (cutGrant s).flash, fuses := (cutGrant s).fuses, freeCtr := (cutGrant s).freeCtr } := by
  unfold cutGrant
  split
  · split
    · rfl
    · split
      · rfl
      · split
        · dsimp only
          split <;> rfl
        · rfl
  · rfl

theorem cutStart_keeps (warm : Bool) (s : State) :
    ∃ flash fuses, cutStart warm s = { s with flash := flash, fuses := fuses, freeCtr := s.freeCtr + 1 } := by
  unfold cutStart
  extract_lets d s' t u
  split
  · exact ⟨u.flash, u.fuses, rfl⟩
  · exact ⟨_, _, rfl⟩
  · exact ⟨s.flash, s.fuses, rfl⟩

theorem cut_frame (s : State) : cut s = { s with flash := (cut s).flash, fuses := (cut s).fuses, freeCtr := (cut s).freeCtr } := by
  unfold cut
  split
  · split
    · rfl
    · obtain ⟨flash, fuses, keeps⟩ := cutStart_keeps ‹Bool› s
      rw [keeps]
  · rw [cutGrant_frame, cutProg_frame, cutRecord_frame]

theorem cut_settled {s : State} (settled : Settled s) : cut s = s := by
  obtain ⟨op, queue, grant, start⟩ := settled
  have record : cutRecord s = s := by
    unfold cutRecord
    rw [queue]
  have prog : cutProg s = s := by
    unfold cutProg
    rw [op, ite_self]
  have granted : cutGrant s = s := by
    unfold cutGrant
    rw [grant]
  unfold cut
  split
  · exact if_pos (start _ ‹_›)
  · rw [record, prog, granted]

/-- A wipe behind a cut, with the power as some pins leave it: everything volatile is gone. -/
theorem wiped_of_cut (s : State) (p : Power) : Wiped s { wipe (cut s) with power := p } := by
  refine ⟨rfl, rfl, rfl, rfl, fun settled => ?_, ?_, ?_⟩
  · rw [cut_settled settled]
    exact ⟨rfl, rfl, rfl⟩
  · rw [cut_frame]
    rfl
  · rw [cut_frame]
    rfl

end Sys2Proof.Machine
end

section
/-! SUPPORT. Temperature, power, the CRC service and the LIFE copy (15_health_lifetime.md, R661-R672, R681). -/

namespace Sys2Proof.Machine

/-! ### Duty (R663-R672) -/

theorem thermalDuty_range (level : Nat) : 2 ≤ thermalDuty level ∧ thermalDuty level ≤ 16 := by
  unfold thermalDuty
  split <;> decide

/-- HLT_DUTY shows, for each half, the lower of its thermal duty and the power duty (R672). -/
theorem setDuty_shows (s : State) (h : Fin 2) :
    rfld (setDuty s) .hltDuty 0 (if h = 0 then 4 else 20) (if h = 0 then 0 else 16) =
      min (thermalDuty (rfld s .hltTemp h.val 7 6)) (powerDuty s) := by
  have small (level : Nat) : min (thermalDuty level) (powerDuty s) < 2 ^ 5 :=
    Nat.lt_of_le_of_lt (Nat.min_le_left _ _) (Nat.lt_of_le_of_lt (thermalDuty_range level).2 (by decide))
  unfold rfld setDuty
  rw [rreg_wreg_same]
  fin_cases h
  · exact (getF_setF_same _ _ (by decide)).trans (Nat.mod_eq_of_lt (small _))
  · refine (getF_setF_other _ _ (by decide) (by decide)).trans ((getF_setF_other _ _ (by decide) (by decide)).trans ?_)
    exact (getF_setF_same _ _ (by decide)).trans (Nat.mod_eq_of_lt (small _))

theorem setDuty_regsBut (s : State) : RegsBut [regAddr .hltDuty 0] s (setDuty s) := wreg_regsBut s .hltDuty 0 _

/-! ### Die temperature (R665, R666) -/

theorem tempByte_mod (t : Int) : tempByte t % 2 ^ 8 = tempByte t := Nat.mod_eq_of_lt (by unfold tempByte; omega)

theorem dieLevelKept_le (t : Int) (cur : Nat) : dieLevelKept t cur ≤ cur := by
  induction cur with
  | zero => exact Nat.le_refl 0
  | succ l ih =>
    unfold dieLevelKept
    split
    · omega
    · exact Nat.le_refl _

theorem dieLevelNext_lt (t : Int) {cur : Nat} (small : cur < 4) : dieLevelNext t cur < 4 := by
  have kept := dieLevelKept_le t cur
  have entered : dieLevelOf t < 4 := by
    unfold dieLevelOf
    split <;> [skip; (split <;> [skip; split])] <;> decide
  unfold dieLevelNext
  omega

/-- The readings of a half and its level, with the count of thermal cycles, before the duty is set. -/
def dieNoted (h : Fin 2) (die base opt : Int) (s : State) : State :=
  let c := thermCycle (s.hlt.low.getD h.val none) (max die base)
  let v := setF (setF (setF (setF (rreg s .hltTemp h.val) 31 24 (tempByte (max die base))) 23 16 (tempByte base)) 15 8
    (tempByte opt)) 7 6 (dieLevelNext (max die base) (rfld s .hltTemp h.val 7 6))
  let s := wreg s .hltTemp h.val v
  lifeAdd { s with hlt := { s.hlt with low := modAt s.hlt.low h.val (fun _ => c.1) } } 24 (12 + 4 * h.val) 4 c.2

section Die

variable {h : Fin 2} {die base opt : Int} {s : State}

theorem dieNoted_shows : rfld (dieNoted h die base opt s) .hltTemp h.val 31 24 = tempByte (max die base) ∧
    rfld (dieNoted h die base opt s) .hltTemp h.val 23 16 = tempByte base ∧
    rfld (dieNoted h die base opt s) .hltTemp h.val 15 8 = tempByte opt ∧
    rfld (dieNoted h die base opt s) .hltTemp h.val 7 6 = dieLevelNext (max die base) (rfld s .hltTemp h.val 7 6) := by
  have shown (hi lo : Nat) : rfld (dieNoted h die base opt s) .hltTemp h.val hi lo = getF (setF (setF (setF (setF
      (rreg s .hltTemp h.val) 31 24 (tempByte (max die base))) 23 16 (tempByte base)) 15 8 (tempByte opt)) 7 6
      (dieLevelNext (max die base) (rfld s .hltTemp h.val 7 6))) hi lo :=
    congrArg (getF · hi lo) (rreg_wreg_same s .hltTemp h.val _)
  have level : dieLevelNext (max die base) (rfld s .hltTemp h.val 7 6) < 2 ^ 2 := dieLevelNext_lt _ (rfld_lt s .hltTemp h.val 7 6)
  refine ⟨?_, ?_, ?_, ?_⟩
  · rw [shown, getF_setF_other _ _ (by decide) (by decide), getF_setF_other _ _ (by decide) (by decide),
      getF_setF_other _ _ (by decide) (by decide), getF_setF_same _ _ (by decide)]
    exact tempByte_mod _
  · rw [shown, getF_setF_other _ _ (by decide) (by decide), getF_setF_other _ _ (by decide) (by decide),
      getF_setF_same _ _ (by decide)]
    exact tempByte_mod _
  · rw [shown, getF_setF_other _ _ (by decide) (by decide), getF_setF_same _ _ (by decide)]
    exact tempByte_mod _
  · rw [shown, getF_setF_same _ _ (by decide)]
    exact Nat.mod_eq_of_lt level

theorem dieNoted_change : RegsBut [regAddr .hltTemp h.val] s (dieNoted h die base opt s) ∧ dieNoted h die base opt s =
    { s with regs := (dieNoted h die base opt s).regs, hlt := (dieNoted h die base opt s).hlt } ∧
    powerDuty (dieNoted h die base opt s) = powerDuty s :=
  ⟨(wreg_regsBut s .hltTemp h.val _).congr rfl rfl, rfl, rfl⟩

theorem dieTempSample_asleep (asleep : awake s = false) : dieTempSample h die base opt s = s := by
  unfold dieTempSample
  rw [asleep]
  exact if_pos rfl

theorem dieTempSample_awake (on : awake s = true) : dieTempSample h die base opt s =
    if 110 ≤ max die base ∨ 95 ≤ opt then thermTrip (setDuty (dieNoted h die base opt s))
    else if rfld s .hltTemp h.val 7 6 < dieLevelNext (max die base) (rfld s .hltTemp h.val 7 6) ∧
        2 ≤ dieLevelNext (max die base) (rfld s .hltTemp h.val 7 6) then
      setEvt (degraded (setDuty (dieNoted h die base opt s)) 0x3E04 h.val) 0
    else setDuty (dieNoted h die base opt s) := by
  unfold dieTempSample
  rw [on]
  exact if_neg Bool.false_ne_true

/-- The event of a health limit, with its bit of HLT_EVT (Table 15.12). -/
theorem eventTold (s : State) (code aux2 bit : Nat) : RegsBut eventAddrs s (setEvt (degraded s code aux2) bit) ∧
    setEvt (degraded s code aux2) bit = { s with
      regs := (setEvt (degraded s code aux2) bit).regs, comps := (setEvt (degraded s code aux2) bit).comps } := by
  refine ⟨(degraded_regsBut s code aux2).trans (setEvt_regsBut _ bit), ?_⟩
  unfold setEvt
  rw [degraded_frame]
  rfl

end Die
/-- A sample that trips nothing: the readings, the level and the duty are shown, and a rise to level 2 or 3 is told. -/
theorem dieTempSample_shows {h : Fin 2} {die base opt : Int} {s : State} (on : awake s = true) (cool : max die base < 110)
    (optics : opt < 95) :
    let t := dieTempSample h die base opt s
    rfld t .hltTemp h.val 31 24 = tempByte (max die base) ∧ rfld t .hltTemp h.val 23 16 = tempByte base ∧
      rfld t .hltTemp h.val 15 8 = tempByte opt ∧
      rfld t .hltTemp h.val 7 6 = dieLevelNext (max die base) (rfld s .hltTemp h.val 7 6) ∧
      rfld t .hltDuty 0 (if h = 0 then 4 else 20) (if h = 0 then 0 else 16) =
        min (thermalDuty (dieLevelNext (max die base) (rfld s .hltTemp h.val 7 6))) (powerDuty s) ∧
      RegsBut [regAddr .hltTemp h.val, regAddr .hltDuty 0, regAddr .hltEvt 0, regAddr .latStat 0] s t ∧
      t = { s with regs := t.regs, hlt := t.hlt, comps := t.comps } := by
  obtain ⟨die8, base8, opt8, level⟩ := dieNoted_shows (h := h) (die := die) (base := base) (opt := opt) (s := s)
  obtain ⟨regs, frame, power⟩ := dieNoted_change (h := h) (die := die) (base := base) (opt := opt) (s := s)
  have duty := setDuty_shows (dieNoted h die base opt s) h
  rw [level, power] at duty
  have dutyRegs := setDuty_regsBut (dieNoted h die base opt s)
  have temp (hi lo : Nat) : rfld (setDuty (dieNoted h die base opt s)) .hltTemp h.val hi lo =
      rfld (dieNoted h die base opt s) .hltTemp h.val hi lo := dutyRegs.rfld (by fin_cases h <;> decide) hi lo
  have told : ∃ u : State, dieTempSample h die base opt s = u ∧ RegsBut eventAddrs (setDuty (dieNoted h die base opt s)) u ∧
      u = { setDuty (dieNoted h die base opt s) with regs := u.regs, comps := u.comps } := by
    rw [dieTempSample_awake on, if_neg (by omega)]
    split
    · exact ⟨_, rfl, eventTold _ _ _ _⟩
    · exact ⟨_, rfl, RegsBut.refl _ _, rfl⟩
  obtain ⟨u, same, events, rest⟩ := told
  intro t
  rw [show t = u from same]
  have shown (hi lo : Nat) : rfld u .hltTemp h.val hi lo = rfld (dieNoted h die base opt s) .hltTemp h.val hi lo :=
    (events.rfld (by fin_cases h <;> decide) hi lo).trans (temp hi lo)
  refine ⟨(shown 31 24).trans die8, (shown 23 16).trans base8, (shown 15 8).trans opt8, (shown 7 6).trans level, ?_, ?_, ?_⟩
  · exact (events.rfld (by decide) _ _).trans duty
  · exact ((regs.mono (by simp)).trans (dutyRegs.mono (by simp))).trans (events.mono (by simp [eventAddrs]))
  · rw [rest]
    rfl

theorem dieTempSample_trips {h : Fin 2} {die base opt : Int} {s : State} (on : awake s = true)
    (hot : 110 ≤ max die base ∨ 95 ≤ opt) :
    let t := dieTempSample h die base opt s
    t.power.phase = .tripped ∧ t.power.trip = some (s.power.trip.getD s.cyc) ∧ t.power.tripDue = true ∧
      t.power.lasers = false ∧ Wiped s t := by
  have trips : dieTempSample h die base opt s = thermTrip (setDuty (dieNoted h die base opt s)) := by
    rw [dieTempSample_awake on, if_pos hot]
  intro t
  rw [show t = _ from trips]
  refine ⟨rfl, ?_, rfl, rfl, wiped_of_cut (setDuty (dieNoted h die base opt s)) _⟩
  unfold thermTrip wipe
  rw [cut_frame]
  rfl

/-! ### Power (R667-R671) -/

theorem bitsAt_clamp (w : Nat) : clampCap w % 2 ^ 12 = clampCap w := Nat.mod_eq_of_lt (by unfold clampCap; omega)

/-- FAST shows 2/16 in both halves (R671). -/
theorem setDuty_fast {s : State} (fast : powerDuty s = 2) :
    rfld (setDuty s) .hltDuty 0 4 0 = 2 ∧ rfld (setDuty s) .hltDuty 0 20 16 = 2 := by
  have low := setDuty_shows s 0
  have high := setDuty_shows s 1
  rw [fast, Nat.min_eq_right (thermalDuty_range _).1] at low high
  exact ⟨low, high⟩

/-- FAST is on or off as bit 15 says, and on it forces the power duty to 2/16 (R671). -/
def fastSet (v : BitVec 32) (s : State) : State :=
  { s with hlt := { s.hlt with fast := decide (bitsAt v 15 1 = 1), duty := if bitsAt v 15 1 = 1 then 2 else s.hlt.duty } }

theorem exec_pcapbFast (v : BitVec 32) (s : State) : exec (.pcapbFast v) s = .next (setDuty (fastSet v s)) := by
  have runs : exec (.pcapbFast v) s = execPcapbFast v s := rfl
  rw [runs, execPcapbFast]
  simp only [decide_eq_true_eq]
  rfl

theorem setDuty_frame (s : State) : setDuty s = { s with regs := (setDuty s).regs } := rfl

theorem pcapbFast_sets (v : BitVec 32) (s : State) :
    let t := setDuty (fastSet v s)
    t.hlt = { s.hlt with fast := decide (bitsAt v 15 1 = 1), duty := if bitsAt v 15 1 = 1 then 2 else s.hlt.duty } ∧
      (bitsAt v 15 1 = 1 → rfld t .hltDuty 0 4 0 = 2 ∧ rfld t .hltDuty 0 20 16 = 2) ∧
      RegsBut [regAddr .hltDuty 0] s t ∧ t = { s with regs := t.regs, hlt := t.hlt } := by
  intro t
  rw [show t = _ from setDuty_frame (fastSet v s)]
  refine ⟨rfl, fun on => setDuty_fast (s := fastSet v s) ?_, (setDuty_regsBut (fastSet v s)).congr rfl rfl, rfl⟩
  simp [powerDuty, fastSet, on]

/-- The readings of a power check. -/
def powerShown (watts mv : Nat) (s : State) : State :=
  wreg s .hltPwr 0 (setF (setF 0 31 16 (min watts 0xFFFF)) 15 0 (min (mv / 10) 0xFFFF))

theorem powerShown_shows (watts mv : Nat) (s : State) :
    rfld (powerShown watts mv s) .hltPwr 0 31 16 = min watts 0xFFFF ∧
      rfld (powerShown watts mv s) .hltPwr 0 15 0 = min (mv / 10) 0xFFFF := by
  have shown (hi lo : Nat) : rfld (powerShown watts mv s) .hltPwr 0 hi lo =
      getF (setF (setF 0 31 16 (min watts 0xFFFF)) 15 0 (min (mv / 10) 0xFFFF)) hi lo :=
    congrArg (getF · hi lo) (rreg_wreg_same s .hltPwr 0 _)
  refine ⟨?_, ?_⟩
  · rw [shown, getF_setF_other _ _ (by decide) (by decide), getF_setF_same _ _ (by decide)]
    exact Nat.mod_eq_of_lt (by omega)
  · rw [shown, getF_setF_same _ _ (by decide)]
    exact Nat.mod_eq_of_lt (by omega)

theorem effectiveCap_powerShown (watts mv : Nat) (s : State) : effectiveCap (powerShown watts mv s) = effectiveCap s := by
  have regs : RegsBut [regAddr .hltPwr 0] s (powerShown watts mv s) := wreg_regsBut s .hltPwr 0 _
  unfold effectiveCap
  rw [regs.rfld (by decide), regs.rfld (by decide)]

/-- A power check moves the power duty, shows the duty of each half, and tells the power limit (R669, R670). -/
theorem powerCheck_moves (watts mv : Nat) (s : State) : ∃ k : Health,
    (effectiveCap s < watts → s.hlt.fast = false → k.duty = max 2 (s.hlt.duty - 1)) ∧
    (watts + 50 < effectiveCap s → s.hlt.fast = false →
      k.duty = (if 9 ≤ s.hlt.below then min 16 (s.hlt.duty + 1) else s.hlt.duty)) ∧
    RegsBut eventAddrs (setDuty { powerShown watts mv s with hlt := k }) (powerCheck watts mv s) ∧
    powerCheck watts mv s = { setDuty { powerShown watts mv s with hlt := k } with
      regs := (powerCheck watts mv s).regs, comps := (powerCheck watts mv s).comps } := by
  have cap : effectiveCap (powerShown watts mv s) = effectiveCap s := effectiveCap_powerShown watts mv s
  by_cases exceeds : effectiveCap s < watts
  · have told : ∃ k : Health, k.duty = (if s.hlt.fast then s.hlt.duty else max 2 (s.hlt.duty - 1)) ∧
        (powerCheck watts mv s = setEvt (degraded (setDuty { powerShown watts mv s with hlt := k }) 0x3E05 0) 1 ∨
          powerCheck watts mv s = setDuty { powerShown watts mv s with hlt := k }) := by
      have checks : powerCheck watts mv s = _ := if_pos (cap.trans_lt exceeds)
      rw [checks]
      exact ⟨_, rfl, ite_eq_or_eq _ _ _⟩
    obtain ⟨k, duty, moves⟩ := told
    refine ⟨k, fun _ slow => ?_, fun under => absurd exceeds (by omega), ?_⟩
    · rw [duty, slow]
      rfl
    · rcases moves with moves | moves
      · rw [moves]
        exact eventTold _ _ _ _
      · rw [moves]
        exact ⟨RegsBut.refl _ _, rfl⟩
  · have quiet : ∃ k : Health, powerCheck watts mv s = setDuty { powerShown watts mv s with hlt := k } ∧
        k.duty = (if s.hlt.fast = true ∨ (if watts + 50 < effectiveCap s then s.hlt.below + 1 else 0) < 10 then s.hlt.duty
          else min 16 (s.hlt.duty + 1)) := by
      have checks : powerCheck watts mv s = _ := if_neg (cap ▸ exceeds)
      rw [← cap, checks]
      exact ⟨_, rfl, rfl⟩
    obtain ⟨k, moves, duty⟩ := quiet
    refine ⟨k, fun above => absurd above exceeds, fun under slow => ?_, ?_⟩
    · rw [duty, slow, if_pos under]
      by_cases nine : 9 ≤ s.hlt.below
      · rw [if_pos nine, if_neg (by simp; omega)]
      · rw [if_neg nine, if_pos (by right; omega)]
    · rw [moves]
      exact ⟨RegsBut.refl _ _, rfl⟩

theorem powerCheck_shows (watts mv : Nat) (s : State) :
    let t := powerCheck watts mv s
    rfld t .hltPwr 0 31 16 = min watts 0xFFFF ∧ rfld t .hltPwr 0 15 0 = min (mv / 10) 0xFFFF ∧
    (effectiveCap s < watts → s.hlt.fast = false → t.hlt.duty = max 2 (s.hlt.duty - 1)) ∧
    (watts + 50 < effectiveCap s → s.hlt.fast = false →
      t.hlt.duty = (if 9 ≤ s.hlt.below then min 16 (s.hlt.duty + 1) else s.hlt.duty)) ∧
    RegsBut [regAddr .hltPwr 0, regAddr .hltDuty 0, regAddr .hltEvt 0, regAddr .latStat 0] s t ∧
    t = { s with regs := t.regs, hlt := t.hlt, comps := t.comps } := by
  obtain ⟨k, exceeds, under, events, frame⟩ := powerCheck_moves watts mv s
  obtain ⟨power, volts⟩ := powerShown_shows watts mv s
  have duty := setDuty_regsBut { powerShown watts mv s with hlt := k }
  have hlt : (powerCheck watts mv s).hlt = k := by
    rw [frame]
    rfl
  have shown (hi lo : Nat) : rfld (powerCheck watts mv s) .hltPwr 0 hi lo = rfld (powerShown watts mv s) .hltPwr 0 hi lo :=
    (events.rfld (by decide) hi lo).trans (duty.rfld (by decide) hi lo)
  have regs : RegsBut [regAddr .hltPwr 0] s { powerShown watts mv s with hlt := k } :=
    (wreg_regsBut s .hltPwr 0 _).congr rfl rfl
  intro t
  refine ⟨(shown 31 16).trans power, (shown 15 0).trans volts, ?_, ?_, ?_, ?_⟩
  · rw [show t.hlt = k from hlt]
    exact exceeds
  · rw [show t.hlt = k from hlt]
    exact under
  · exact ((regs.mono (by simp)).trans (duty.mono (by simp))).trans (events.mono (by simp [eventAddrs]))
  · rw [show t = _ from frame]
    rfl

/-! ### The CRC service (R661, R662) -/

theorem setCrc_shows (s : State) (c : BitVec 64) :
    rreg (setCrc s c) .hltCrc 0 = BitVec.ofNat 32 c.toNat ∧ rreg (setCrc s c) .hltCrc 1 = BitVec.ofNat 32 (c.toNat / 2 ^ 32) ∧
      RegsBut [regAddr .hltCrc 0, regAddr .hltCrc 1] s (setCrc s c) := by
  have low := wreg_regsBut s .hltCrc 0 (BitVec.ofNat 32 c.toNat)
  have high := wreg_regsBut (wreg s .hltCrc 0 (BitVec.ofNat 32 c.toNat)) .hltCrc 1 (BitVec.ofNat 32 (c.toNat / 2 ^ 32))
  refine ⟨?_, rreg_wreg_same _ .hltCrc 1 _, (low.mono (by simp)).trans (high.mono (by simp))⟩
  exact (high.rreg (by decide)).trans (rreg_wreg_same s .hltCrc 0 _)

theorem words_append (c : BitVec 64) : BitVec.ofNat 32 (c.toNat / 2 ^ 32) ++ BitVec.ofNat 32 c.toNat = c := by
  have high : BitVec.ofNat 32 (c.toNat / 2 ^ 32) = BitVec.extractLsb' 32 32 c := by
    simp [BitVec.extractLsb', Nat.shiftRight_eq_div_pow]
  have low : BitVec.ofNat 32 c.toNat = BitVec.extractLsb' 0 32 c := by
    simp [BitVec.extractLsb']
  rw [high, low]
  exact BitVec.extractLsb'_append_extractLsb'_eq_extractLsb' (by decide) |>.trans (by simp)

/-- A service that begins has the range of its registers, and CRCFAIL is clear (R661). -/
theorem hltCrc_begins {s : State} (idle : s.hlt.op = none) : hltCrc s =
    wfld { s with hlt := { s.hlt with op := some (.crc (hltAddr s) ((rreg s .hltLen 0).toNat * 4096)) } } .hltCtl 0 30 30 0 := by
  rw [hltCrc, if_neg (by simp [idle])]

theorem hltLife_begins {s : State} (idle : s.hlt.op = none) :
    hltLife s = { s with hlt := { s.hlt with op := some (.life (hltAddr s)) } } := by
  rw [hltLife, if_neg (by simp [idle])]

theorem logMem_op (s : State) (a code : Nat) : (logMem s a code).hlt.op = s.hlt.op := by
  unfold logMem
  dsimp only
  split <;> rfl

section Crc

variable {s : State} {a n : Nat} (op : s.hlt.op = some (.crc a n))
include op

theorem hltCrcDone_waits (fits : a + n ≤ viewBase) (there : installed s a n = true) (waits : readWaits s a n 0 = true) :
    hltCrcDone s = s := by
  unfold hltCrcDone
  rw [op]
  exact if_pos (by simp [fits, there, waits])

/-- The state in which a service has ended, before its result is shown. -/
def crcEnds (s : State) : State := { s with hlt := { s.hlt with op := none } }

theorem hltCrcDone_good (fits : a + n ≤ viewBase) (there : installed s a n = true) (ready : readWaits s a n 0 = false)
    (good : firstBad s a n = none) : hltCrcDone s = setCrc (crcEnds s) (crc64 (memBytes s a n)) := by
  have reached : (decide (n = 0) || decide (a + n ≤ viewBase) && installed (crcEnds s) a n) = true := by
    rw [show installed (crcEnds s) a n = true from there, decide_eq_true fits, Bool.and_true, Bool.or_true]
  unfold hltCrcDone
  rw [op]
  dsimp only
  rw [if_neg (by simp [ready])]
  split
  · rfl
  · next bad _ found => exact absurd (found.symm.trans (show firstBad (crcEnds s) a n = none from good)) nofun
  · next missing => exact absurd (missing.symm.trans reached) Bool.false_ne_true

/-- A range that does not exist or holds a bad burst gives CRCFAIL and 0 (R662). -/
theorem hltCrcDone_bad (ready : readWaits s a n 0 = false) (bad : (firstBad s a n).isSome = true) :
    ∃ u : State, hltCrcDone s = setCrc (wfld u .hltCtl 0 30 30 1) 0 ∧ u.hlt.op = none ∧
      u = { s with regs := u.regs, hlt := u.hlt } := by
  unfold hltCrcDone
  rw [op]
  dsimp only
  rw [if_neg (by simp [ready])]
  split
  · next _ none => exact absurd ((congrArg Option.isSome none).symm.trans (show (firstBad (crcEnds s) a n).isSome = true from bad)) nofun
  · next x _ _ =>
    obtain ⟨regs, hlt, logged⟩ := logMem_frame (crcEnds s) x.1 (if x.2 then 1 else 2)
    refine ⟨logMem (crcEnds s) x.1 (if x.2 then 1 else 2), rfl, logMem_op (crcEnds s) _ _, ?_⟩
    rw [logged]
    rfl
  · exact ⟨crcEnds s, rfl, rfl, rfl⟩

end Crc
/-! ### The LIFE copy (R681) -/

/-- Memory that takes a write of the device takes the next one. -/
theorem MemTakes.acceptMem {s : State} (takes : MemTakes s) (a : Nat) (bs : List Byte) (job : Nat) :
    MemTakes (Machine.acceptMem s a bs job) := by
  obtain ⟨lanes, damaged, poison, stores⟩ := takes
  have queued (l : List Nat) : ∀ u : State, (l.foldl (fun t b => enterQueue t b []) u).mem.damaged = u.mem.damaged ∧
      (l.foldl (fun t b => enterQueue t b []) u).mem.poison = u.mem.poison := by
    induction l with
    | nil => exact fun _ => ⟨rfl, rfl⟩
    | cons b l ih => exact fun u => ih (enterQueue u b [])
  obtain ⟨damaged', poison'⟩ := queued ((burstsOf a bs.length).filter (fun b => (mscLine s b job).isNone))
    (dirtyLines (memPut s a bs) a bs.length)
  rw [dirtyLines_mem] at damaged' poison'
  refine ⟨?_, damaged'.trans ?_, poison'.trans ?_, ?_⟩
  · have stk : (Machine.acceptMem s a bs job).stk = s.stk := by rw [acceptMem_frame]
    simp only [stk]
    exact lanes
  · simp [memPut, damaged]
  · simp [memPut, poison]
  · rw [acceptMem_frame]
    exact stores

/-- Bytes that no write reaches are as they were. -/
theorem memBytes_congr {s t : State} {a n : Nat} (same : ∀ x, a ≤ x → x < a + n → memByte t x = memByte s x) :
    memBytes t a n = memBytes s a n := by
  unfold memBytes
  rw [srange_eq_map, srange_eq_map]
  exact List.map_congr_left fun i inside => same (a + i) (by omega) (by simp at inside; omega)

/-- Writes of the device itself to places apart from each other, in memory that takes them: each is there, and no other byte has
changed. -/
theorem putMem_list {ps : List (Nat × List Byte)} (apart : ps.Pairwise fun x y => y.1 + y.2.length ≤ x.1 ∨ x.1 + x.2.length ≤ y.1) :
    ∀ {s : State}, MemTakes s →
    let t := ps.foldl (fun s x => putMem s x.1 x.2) s
    (∀ p ∈ ps, memBytes t p.1 p.2.length = p.2) ∧
      (∀ x, (∀ p ∈ ps, x < p.1 ∨ p.1 + p.2.length ≤ x) → memByte t x = memByte s x) ∧
      t = { s with mem := t.mem, halves := t.halves } := by
  induction ps with
  | nil => exact fun _ => ⟨nofun, fun _ _ => rfl, rfl⟩
  | cons p ps ih =>
    intro s takes t
    obtain ⟨first, rest⟩ := List.pairwise_cons.mp apart
    obtain ⟨there, others, frame⟩ := ih rest (takes.acceptMem p.1 p.2 0)
    have step : t = ps.foldl (fun s x => putMem s x.1 x.2) (acceptMem s p.1 p.2) := by
      simp only [t, List.foldl_cons, putMem_of_takes takes]
    rw [step]
    refine ⟨fun q mem => ?_, fun x out => ?_, ?_⟩
    · rcases List.mem_cons.mp mem with rfl | mem
      · refine (memBytes_congr fun x low high => others x fun y later => ?_).trans (memBytes_acceptMem s q.1 q.2 0)
        rcases first y later with before | behind
        · exact .inr (by omega)
        · exact .inl (by omega)
      · exact there q mem
    · rw [others x fun y later => out y (List.mem_cons_of_mem _ later)]
      exact memByte_acceptMem_other s p.1 p.2 0 x (out p (List.mem_cons_self ..))
    · rw [frame, acceptMem_change]

/-- The places of the LIFE bodies, where memory is installed (R681). -/
def lifePuts (s : State) (a : Nat) : List (Nat × List Byte) :=
  ((lifeCur s).map (fun b => (a + 4096 * b.1, b.2))).filter (fun x =>
    decide (x.1 + x.2.length ≤ viewBase) && installed s x.1 x.2.length)

/-- The current LIFE records have rising indices. -/
theorem lifeCur_rising (s : State) : (lifeCur s).Pairwise fun x y => x.1 < y.1 := by
  unfold lifeCur
  rw [List.pairwise_filterMap]
  refine List.pairwise_lt_range.imp fun less x hx y hy => ?_
  split at hx <;> simp only [Option.some.injEq, reduceCtorEq] at hx
  split at hy <;> simp only [Option.some.injEq, reduceCtorEq] at hy
  rw [← hx, ← hy]
  exact less

theorem lifePuts_apart {s : State} (a : Nat) (small : ∀ p ∈ lifeCur s, p.2.length ≤ 4096) :
    (lifePuts s a).Pairwise fun x y => y.1 + y.2.length ≤ x.1 ∨ x.1 + x.2.length ≤ y.1 := by
  refine List.Pairwise.filter _ (List.pairwise_map.mpr ?_)
  refine (lifeCur_rising s).imp_of_mem fun {x y} mem _ rising => .inr ?_
  have size := small x mem
  dsimp only
  omega

theorem mem_lifePuts {s : State} {a : Nat} {p : Nat × List Byte} (mem : p ∈ lifeCur s) (fits : a + 4096 * p.1 + p.2.length ≤ viewBase)
    (there : installed s (a + 4096 * p.1) p.2.length = true) : (a + 4096 * p.1, p.2) ∈ lifePuts s a :=
  List.mem_filter.mpr ⟨List.mem_map.mpr ⟨p, mem, rfl⟩, by simp [fits, there]⟩

section Life

variable {s : State} {a : Nat} (op : s.hlt.op = some (.life a))
include op

theorem hltLifeDone_eq : hltLifeDone s = if (lifePuts s a).any (fun x => !writeEnds s x.1 x.2.length) then s
    else (lifePuts s a).foldl (fun s x => putMem s x.1 x.2) (crcEnds s) := by
  unfold hltLifeDone
  rw [op]
  rfl

theorem hltLifeDone_held {p : Nat × List Byte} (mem : p ∈ lifeCur s) (fits : a + 4096 * p.1 + p.2.length ≤ viewBase)
    (there : installed s (a + 4096 * p.1) p.2.length = true) (held : writeEnds s (a + 4096 * p.1) p.2.length = false) :
    hltLifeDone s = s := by
  rw [hltLifeDone_eq op]
  exact if_pos (List.any_eq_true.mpr ⟨_, mem_lifePuts mem fits there, by simp [held]⟩)

theorem hltLifeDone_copies (small : ∀ p ∈ lifeCur s, p.2.length ≤ 4096) (takes : MemTakes s) :
    let t := hltLifeDone s
    t.hlt = { s.hlt with op := none } ∧
      (∀ p ∈ lifeCur s, a + 4096 * p.1 + p.2.length ≤ viewBase → installed s (a + 4096 * p.1) p.2.length = true →
        memBytes t (a + 4096 * p.1) p.2.length = p.2) ∧
      (∀ x, (∀ p ∈ lifeCur s, x < a + 4096 * p.1 ∨ a + 4096 * p.1 + p.2.length ≤ x) → memByte t x = memByte s x) ∧
      t = { s with mem := t.mem, halves := t.halves, hlt := t.hlt } := by
  have copies : hltLifeDone s = (lifePuts s a).foldl (fun s x => putMem s x.1 x.2) (crcEnds s) := by
    rw [hltLifeDone_eq op, if_neg]
    simp [writeEnds_of_takes takes]
  obtain ⟨there, others, frame⟩ := putMem_list (lifePuts_apart a small) (s := crcEnds s) takes
  intro t
  rw [show t = _ from copies]
  refine ⟨congrArg State.hlt frame, fun p mem fits inst => there _ (mem_lifePuts mem fits inst), fun x out => ?_, ?_⟩
  · refine others x fun q mem => ?_
    obtain ⟨p, listed, rfl⟩ := List.mem_map.mp (List.mem_filter.mp mem).1
    exact out p listed
  · rw [frame]
    rfl

end Life
/-! ### The hourly update (R676-R678) -/

/-- The device's own LIFE body. -/
def deviceLife (s : State) : List Byte := s.hlt.life.getD 24 []

/-- The registers that the hourly update writes: HLT_WEAR, and those of events. -/
def hourAddrs : List Nat := regAddr .hltWear 0 :: eventAddrs

/-- A part of the hourly update: the LIFE bodies, the Keyring's queue, status registers and completions alone change, and the powered
hours of the device are as they were. -/
structure HourPart (s t : State) : Prop where
  only : t = { s with regs := t.regs, hlt := t.hlt, krg := t.krg, comps := t.comps }
  regs : RegsBut hourAddrs s t
  bodies : t.hlt.life.length = s.hlt.life.length
  hours : 4 ≤ (deviceLife s).length → 4 ≤ (deviceLife t).length ∧ (deviceLife t).take 4 = (deviceLife s).take 4

namespace HourPart

variable {s t u : State}

theorem refl (s : State) : HourPart s s := ⟨rfl, RegsBut.refl _ s, rfl, fun long => ⟨long, rfl⟩⟩

theorem trans (h : HourPart s t) (k : HourPart t u) : HourPart s u where
  only := by rw [k.only, h.only]
  regs := h.regs.trans k.regs
  bodies := k.bodies.trans h.bodies
  hours := fun long =>
    have first := h.hours long
    have second := k.hours first.1
    ⟨second.1, second.2.trans first.2⟩

theorem foldl {α : Type} {f : State → α → State} {l : List α} (part : ∀ s, ∀ x ∈ l, HourPart s (f s x)) (s : State) :
    HourPart s (l.foldl f s) :=
  List.foldlRecOn (motive := HourPart s) l f (refl s) fun _ so x mem => so.trans (part _ x mem)

end HourPart

theorem modAt_length {α : Type} (l : List α) (i : Nat) (f : α → α) : (modAt l i f).length = l.length := by
  rw [modAt_eq_modify, List.length_modify]

/-- A change of a body that leaves its first four bytes, or of another body than the device's. -/
theorem hourPart_life (s : State) {i : Nat} {f : List Byte → List Byte}
    (kept : i = 24 → ∀ x : List Byte, 4 ≤ x.length → 4 ≤ (f x).length ∧ (f x).take 4 = x.take 4) :
    HourPart s { s with hlt := { s.hlt with life := modAt s.hlt.life i f } } where
  only := rfl
  regs := RegsBut.refl _ s
  bodies := modAt_length _ _ _
  hours := fun long => by
    have inside : 24 < s.hlt.life.length := by
      by_contra short
      rw [deviceLife, List.getD_eq_default _ _ (by omega)] at long
      simp at long
    by_cases own : i = 24
    · subst own
      simp only [deviceLife, getD_modAt_same inside]
      exact kept rfl _ long
    · simp only [deviceLife, getD_modAt_other (Ne.symm own)]
      exact ⟨long, trivial⟩

theorem hourPart_lifeSet (s : State) {i b : Nat} (n v : Nat) (apart : i ≠ 24 ∨ 4 ≤ b) : HourPart s (lifeSet s i b n v) := by
  refine hourPart_life s fun own x long => ?_
  have far : 4 ≤ b := apart.resolve_left (not_not.mpr own)
  have head : 4 ≤ (x.take b).length := by
    rw [List.length_take]
    omega
  unfold putLe
  rw [List.append_assoc, List.length_append, List.take_append_of_le_length head, List.take_take, Nat.min_eq_left far]
  exact ⟨by omega, rfl⟩

theorem hourPart_regs {s t : State} (only : t = { s with regs := t.regs, comps := t.comps }) (regs : RegsBut hourAddrs s t) :
    HourPart s t :=
  ⟨by rw [only], regs, by rw [only], fun long => by rw [only]; exact ⟨long, rfl⟩⟩

theorem hourPart_krgReq (s : State) (i : Nat) (b : KBody) : HourPart s (krgReq s i b) := by
  rw [krgReq_frame]
  exact ⟨rfl, RegsBut.refl _ s, rfl, fun long => ⟨long, rfl⟩⟩

theorem hourPart_lanePut (s : State) (i lane : Nat) (e : LaneEntry) : HourPart s (lanePut s i lane e) := by
  have far : 96 ≤ laneByte i lane := by
    unfold laneByte
    split <;> omega
  unfold lanePut
  exact ((((((hourPart_lifeSet s 4 e.onh (.inr (by omega))).trans (hourPart_lifeSet _ 2 e.first (.inr (by omega)))).trans
    (hourPart_lifeSet _ 2 e.now (.inr (by omega)))).trans (hourPart_lifeSet _ 2 e.anc (.inr (by omega)))).trans
    (hourPart_lifeSet _ 2 e.mid (.inr (by omega)))).trans (hourPart_lifeSet _ 2 e.age (.inr (by omega)))).trans
    (hourPart_lifeSet _ 1 e.st (.inr (by omega)))

theorem hourPart_laneHour (s : State) (i lane bias : Nat) : HourPart s (laneHour s i lane bias) := by
  unfold laneHour
  dsimp only
  split
  · exact .refl s
  · split
    · obtain ⟨regs, frame⟩ := eventTold (lanePut s i lane { (laneAt s i lane).hour bias with st := 3 }) 0x3E06 (wearPlace i lane) 2
      exact (hourPart_lanePut s i lane _).trans (hourPart_regs frame (regs.mono fun _ => List.mem_cons_of_mem _))
    · exact hourPart_lanePut s i lane _

theorem hourPart_dailyShift (s : State) {i : Nat} (other : i ≠ 24) : HourPart s (dailyShift s i) := by
  unfold dailyShift
  split
  · exact hourPart_life s fun own => absurd own other
  · exact .refl s

theorem hourPart_showWear (s : State) : HourPart s (showWear s) := by
  unfold showWear
  dsimp only
  split
  · exact .refl s
  · exact hourPart_regs rfl ((wreg_regsBut s .hltWear 0 _).mono (by simp [hourAddrs]))

theorem hourPart_lifeNow (s : State) : HourPart s (lifeNow s) := by
  unfold lifeNow
  exact ((HourPart.foldl (fun s i _ => hourPart_lifeSet s 2 _ (.inr (by decide))) s).trans
    (hourPart_lifeSet _ 4 _ (.inr (by decide)))).trans (HourPart.foldl (fun s p _ => hourPart_lifeSet s 1 _ (.inr (by omega))) _)

/-- The lanes and stacks have had their hour. -/
def lanesAged (bias : List Nat) (s : State) : State :=
  let s := (allLanes.zipIdx).foldl (fun s p => laneHour s p.1.1 p.1.2 (bias.getD p.2 (laneAt s p.1.1 p.1.2).now)) s
  (List.range 24).foldl (fun s i => dailyShift (lifeAdd s i 0 4 1) i) s

theorem hourPart_lanesAged (bias : List Nat) (s : State) : HourPart s (lanesAged bias s) := by
  unfold lanesAged
  refine (HourPart.foldl (fun s p _ => hourPart_laneHour s _ _ _) s).trans (HourPart.foldl (fun s i mem => ?_) _)
  have other : i ≠ 24 := Nat.ne_of_lt (List.mem_range.mp mem)
  exact (hourPart_lifeSet s 4 _ (.inl other)).trans (hourPart_dailyShift _ other)

theorem lifeHourlyUpdate_eq (bias : List Nat) (s : State) :
    lifeHourlyUpdate bias s = lifeRecords (showWear (lifeAdd (lanesAged bias s) 24 0 4 1)) := rfl

theorem lifeGet_hours (s : State) : lifeGet s 24 0 4 = leNat ((deviceLife s).take 4) := rfl

/-- The device's hours after a count: at most 2^32 - 1. -/
theorem lifeAdd_hours {s : State} (there : 24 < s.hlt.life.length) (k : Nat) :
    lifeGet (lifeAdd s 24 0 4 k) 24 0 4 = min (lifeGet s 24 0 4 + k) (2 ^ 32 - 1) := by
  have body : deviceLife (lifeAdd s 24 0 4 k) = putLe (deviceLife s) 0 4 (min (lifeGet s 24 0 4 + k) (2 ^ 32 - 1)) :=
    getD_modAt_same there _ _
  rw [lifeGet_hours (lifeAdd s 24 0 4 k), body, putLe, List.take_zero, List.nil_append,
    List.take_append_of_le_length (by rw [toLe_length]), List.take_of_length_le (by rw [toLe_length]), leNat_toLe]
  exact Nat.mod_eq_of_lt (by omega)

/-- The LIFE records are requested, and the TIME record is the next. -/
def lifeListed (s : State) : State := ((lifeNow s).hlt.life.zipIdx).foldl (fun s b => krgReq s b.2 (.life b.1)) (lifeNow s)

theorem lifeRecords_eq (s : State) :
    lifeRecords s = krgReq (lifeListed s) 0 (.time (lifeListed s).dtc (rfld (lifeListed s) .netStat 0 30 28)) := rfl

theorem hourPart_lifeListed (s : State) : HourPart s (lifeListed s) :=
  (hourPart_lifeNow s).trans (HourPart.foldl (fun s _ _ => hourPart_krgReq s _ _) _)

/-- The hour of the device itself is counted between that of the lanes and the records, the last of which is the TIME record. -/
theorem lifeHourlyUpdate_ends (bias : List Nat) (s : State) : ∃ a u, HourPart s a ∧ HourPart (lifeAdd a 24 0 4 1) u ∧
    lifeHourlyUpdate bias s = krgReq u 0 (.time u.dtc (rfld u .netStat 0 30 28)) := by
  exact ⟨lanesAged bias s, _, hourPart_lanesAged bias s, (hourPart_showWear _).trans (hourPart_lifeListed _),
    (lifeHourlyUpdate_eq bias s).trans (lifeRecords_eq _)⟩

/-- The hours of a body that has been counted are shown as the sum, whatever follows. -/
theorem hours_counted {s a u : State} (bodies : s.hlt.life.length = 25) (long : 4 ≤ (deviceLife s).length) (aged : HourPart s a)
    (part : HourPart (lifeAdd a 24 0 4 1) u) : lifeGet u 24 0 4 = min (lifeGet s 24 0 4 + 1) (2 ^ 32 - 1) := by
  have there : 24 < a.hlt.life.length := by
    rw [aged.bodies, bodies]
    decide
  have put : deviceLife (lifeAdd a 24 0 4 1) = putLe (deviceLife a) 0 4 (min (lifeGet a 24 0 4 + 1) (2 ^ 32 - 1)) :=
    getD_modAt_same there _ _
  have four : 4 ≤ (deviceLife (lifeAdd a 24 0 4 1)).length := by
    rw [put, putLe, List.length_append, List.length_append, toLe_length]
    omega
  have start : lifeGet a 24 0 4 = lifeGet s 24 0 4 := by
    rw [lifeGet_hours, (aged.hours long).2, lifeGet_hours]
  rw [lifeGet_hours, (part.hours four).2, ← lifeGet_hours, lifeAdd_hours there, start]

theorem lifeHourlyUpdate_counts {bias : List Nat} {s : State} {b : List Byte} (bodies : s.hlt.life.length = 25)
    (body : s.hlt.life[24]? = some b) (size : b.length = 640) : ∃ t, exec (.lifeHourlyUpdate bias) s = .next t ∧
    lifeGet t 24 0 4 = min (lifeGet s 24 0 4 + 1) (2 ^ 32 - 1) ∧
      (∃ r ∈ t.krg.queue, r.index = 0 ∧ r.body = .time s.dtc (rfld s .netStat 0 30 28)) ∧
      t = { s with regs := t.regs, hlt := t.hlt, krg := t.krg, comps := t.comps } := by
  have long : 4 ≤ (deviceLife s).length := by
    rw [deviceLife, List.getD_eq_getElem?_getD, body, Option.getD_some, size]
    decide
  obtain ⟨a, u, aged, part, ends⟩ := lifeHourlyUpdate_ends bias s
  have count : lifeAdd a 24 0 4 1 = { a with hlt := (lifeAdd a 24 0 4 1).hlt } := rfl
  have dtc : u.dtc = s.dtc := by rw [part.only, count, aged.only]
  have state : rfld u .netStat 0 30 28 = rfld s .netStat 0 30 28 :=
    (part.regs.rfld (by decide) 30 28).trans (aged.regs.rfld (by decide) 30 28)
  rw [dtc, state] at ends
  refine ⟨_, congrArg Host.Outcome.next ends, ?_, mem_krgReq u 0 _, ?_⟩
  · rw [← hours_counted bodies long aged part, krgReq_frame]
    rfl
  · rw [krgReq_frame, part.only, count, aged.only]

/-- Settles O58: each command by its own lemma, the copy of the LIFE records by their places, the hour by what its parts keep. -/
theorem healthIsControlledAndRecorded : Obligations.HealthIsControlledAndRecorded := by
  unfold Obligations.HealthIsControlledAndRecorded
  refine ⟨?sample, ?power, ?caps, ?begins, ?crc, ?life, ?hourly⟩
  case sample =>
    exact fun h die base opt s => ⟨fun asleep => congrArg Host.Outcome.next (dieTempSample_asleep asleep),
      fun on cool optics => ⟨_, rfl, dieTempSample_shows on cool optics⟩, fun on hot => ⟨_, rfl, dieTempSample_trips on hot⟩⟩
  case power => exact fun watts mv s => ⟨_, rfl, powerCheck_shows watts mv s⟩
  case caps =>
    refine fun v s => ⟨⟨_, rfl, ?_, wfld_regsBut s _ _ _ _ _, rfl⟩, ⟨_, rfl, ?_, wfld_regsBut s _ _ _ _ _, rfl⟩,
      ⟨_, exec_pcapbFast v s, pcapbFast_sets v s⟩⟩
    · exact (rfld_wfld_same s .hltPcapb 0 _ (by decide)).trans (bitsAt_clamp _)
    · exact (rfld_wfld_same s .hltPcapd 0 _ (by decide)).trans (bitsAt_clamp _)
  case begins =>
    refine fun s => ⟨fun busy => ⟨congrArg Host.Outcome.next (if_pos busy), congrArg Host.Outcome.next (if_pos busy)⟩,
      fun idle => ⟨⟨_, congrArg Host.Outcome.next (hltCrc_begins idle), rfl, ?_, ?_, rfl⟩,
        congrArg Host.Outcome.next (hltLife_begins idle)⟩⟩
    · exact rfld_wfld_same _ .hltCtl 0 (hi := 30) (lo := 30) 0 (by decide)
    · exact (wfld_regsBut _ .hltCtl 0 30 30 0).congr rfl rfl
  case crc =>
    intro s a n op
    refine ⟨fun fits there waits => congrArg Host.Outcome.next (hltCrcDone_waits op fits there waits),
      fun fits there ready good => ?_, fun _ ready bad => ?_⟩
    · have done := hltCrcDone_good op fits there ready good
      obtain ⟨low, high, regs⟩ := setCrc_shows (crcEnds s) (crc64 (memBytes s a n))
      refine ⟨_, congrArg Host.Outcome.next done, ?_, rfl, regs.congr rfl rfl, rfl⟩
      rw [low, high]
      exact words_append _
    · obtain ⟨u, fails, ended, frame⟩ := hltCrcDone_bad op ready bad
      obtain ⟨low, high, regs⟩ := setCrc_shows (wfld u .hltCtl 0 30 30 1) 0
      refine ⟨_, congrArg Host.Outcome.next fails, low, high, ?_, ended, ?_⟩
      · exact (regs.rfld (by decide) 30 30).trans (rfld_wfld_same u .hltCtl 0 1 (by decide))
      · rw [frame]
        rfl
  case life =>
    exact fun s a op => ⟨fun p mem fits there held => congrArg Host.Outcome.next (hltLifeDone_held op mem fits there held),
      fun small takes => ⟨_, rfl, hltLifeDone_copies op small takes⟩⟩
  case hourly => exact fun bias s b bodies body size => lifeHourlyUpdate_counts bodies body size

end Sys2Proof.Machine
end

section
/-! SUPPORT. The switch, RST_N, the test port and I3C (16_module_physical.md, R698-R711; 14_lockplate_security.md, R649, R650). -/

namespace Sys2Proof.Machine

/-! ### The switch and RST_N (R698-R706) -/

theorem openSwitch_wiped (s : State) : Wiped s (openSwitch s) := wiped_of_cut s _

/-- An open switch: no power, no PG, and what the pins said stays. -/
theorem openSwitch_power (s : State) : (openSwitch s).power = { s.power with
    phase := .off, switch := false, pg := false, trip := none, lasers := false, noRef := false } := by
  unfold openSwitch modPower wipe
  rw [cut_frame]

theorem hotSwapClose_wipes {s : State} (may : mayClose s = true) (x : Fin 4) :
    hotSwapClose x s = { wipe s with power := { s.power with
      phase := .starting false, switch := true, pg := true, straps := x, trip := none, time0 := max s.cyc s.power.rstHigh,
      base := max s.cyc s.power.rstHigh, cold0 := max s.cyc s.power.rstHigh, lasers := false, noRef := false } } :=
  if_pos may

theorem wipe_wiped (s : State) (p : Power) : Wiped s { wipe s with power := p } :=
  ⟨rfl, rfl, rfl, rfl, fun _ => ⟨rfl, rfl, rfl⟩, rfl, rfl⟩

/-- A grant that is cut off leaves the configuration block as it was. -/
theorem cutGrant_cfg (s : State) : (cutGrant s).flash.cfg = s.flash.cfg := by
  have img (u : State) (g : List Byte) : (writeImg u g).flash.cfg = u.flash.cfg := by
    unfold writeImg
    dsimp only
    split <;> split <;> rfl
  have granted (u : State) (adv : Bool) (g : List Byte) : (writeGrant u adv g).flash.cfg = u.flash.cfg := by
    unfold writeGrant
    split <;> exact img u g
  unfold cutGrant
  split
  · split
    · rfl
    · split
      · rfl
      · split
        · dsimp only
          split
          · rfl
          · exact img _ _
          · exact granted _ _ _
          · dsimp only [keepFlash]
            split
            · exact (img _ _).trans (granted _ _ _)
            · exact granted _ _ _
        · rfl
  · rfl

/-- Power lost while the configuration block is programmed leaves a block that is not in order. -/
theorem cut_spoils {s : State} {c : List Byte} (op : s.krg.op = some (.cfg c)) (writes : s.krg.waits = false)
    (runs : ∀ w, s.power.phase ≠ .starting w) : cfgOk (cut s).flash.cfg = false := by
  have spoiled : ∀ u : State, u.krg = s.krg → cfgOk (cutProg u).flash.cfg = false := by
    intro u krg
    unfold cutProg
    rw [krg, writes, op]
    dsimp only
    split
    · contradiction
    · change cfgOk (if cfgOk (spoil u c.length).1 then [] else (spoil u c.length).1) = false
      split
      · decide
      · exact Bool.eq_false_of_not_eq_true ‹_›
  unfold cut
  split
  · exact absurd ‹_› (runs _)
  · rw [cutGrant_cfg]
    exact spoiled _ (by rw [cutRecord_frame])

theorem pwrEnFall_eq {s : State} (asked : s.power.pwrEn = true) (closed : s.power.switch = true) : pwrEnFall s =
    { openSwitch s with power := { (openSwitch s).power with pwrEn := false, fell := some s.cyc, armed := false } } := by
  unfold pwrEnFall
  rw [if_pos asked, if_pos closed]
  rfl

theorem vinFault_out {s : State} {mv : Nat} (closed : s.power.switch = true) (out : mv < 38000 ∨ 62000 < mv) : vinFault mv s =
    modPower (openSwitch (modPower s fun p => { p with vin := mv })) (fun p => { p with armed := p.pwrEn }) :=
  if_pos ⟨closed, out⟩

theorem rstNLow_on {s : State} {ns : Nat} (on : s.power.pg = true) (long : 2000 ≤ ns) : rstNLow ns s =
    modPower (coldReset (cut s)) (fun p => { p with
      rstHigh := max s.power.rstHigh (s.cyc + (ns + 9) / 10), time0 := max s.power.rstHigh (s.cyc + (ns + 9) / 10),
      base := max s.power.rstHigh (s.cyc + (ns + 9) / 10), cold0 := max s.power.rstHigh (s.cyc + (ns + 9) / 10) }) := by
  unfold rstNLow
  rw [if_pos (.inl long)]
  exact if_pos on

theorem rstNLow_off {s : State} {ns : Nat} (off : s.power.pg = false) (long : 2000 ≤ ns) : rstNLow ns s =
    { s with power := { s.power with rstHigh := max s.power.rstHigh (s.cyc + (ns + 9) / 10) } } := by
  unfold rstNLow
  rw [if_pos (.inl long), off]
  exact if_neg Bool.false_ne_true

theorem rstNLow_short {s : State} {ns : Nat} (short : ns < 1000) : rstNLow ns s = s := if_neg (by omega)

theorem thermtripTimeout_due {s : State} {x : Nat} (trip : s.power.trip = some x) (asked : s.power.pwrEn = true)
    (closed : s.power.switch = true) (due : x + 50000000 ≤ s.cyc) :
    thermtripTimeout s = modPower (openSwitch s) (fun p => { p with armed := true }) := by
  unfold thermtripTimeout
  rw [trip]
  exact if_pos ⟨asked, closed, due⟩

theorem thermtripTimeout_early {s : State} {x : Nat} (trip : s.power.trip = some x) (early : s.cyc < x + 50000000) :
    thermtripTimeout s = s := by
  unfold thermtripTimeout
  rw [trip]
  refine if_neg fun due => ?_
  have half : second / 2 = 50000000 := rfl
  omega

/-- One byte of memory. -/
theorem memBytes_one (s : State) (x : Nat) : memBytes s x 1 = [memByte s x] := srange_eq_map zeroFill s.mem.bytes x 1

/-! ### The test port (R709-R711, R649, R650) -/

section Jtag

variable {s : State} (on : s.power.pg = true)

include on

theorem jtagSet_on (ir : JtagIr) (dr : Word) : jtagSet s ir dr = { s with jtag := { ir := ir, dr := dr, wait := none } } :=
  if_pos on

theorem jtagScan_on (ir : JtagIr) : (jtagScan s ir).jtag.ir = ir ∧
    jtagScan s ir = { s with jtag := (jtagScan s ir).jtag, freeCtr := (jtagScan s ir).freeCtr } := by
  have scans : jtagScan s ir = { s with jtag := { ir := ir, dr := (drawWord s).1, wait := none }, freeCtr := s.freeCtr + 1 } :=
    (if_pos on).trans (if_pos on)
  rw [scans]
  exact ⟨rfl, rfl⟩

theorem dbgacc_denied (closed : s.lkp.debug = false) (a : DbgAccess) :
    dbgacc a s = { s with jtag := { ir := .bypass, dr := 0, wait := none } } := by
  unfold dbgacc powered
  rw [on, closed]
  exact jtagSet_on on .bypass 0

theorem dbgacc_port (granted : s.lkp.debug = true) : dbgacc .port s = jtagScan s .debug := by
  unfold dbgacc powered
  rw [on, granted]
  rfl

theorem dbgacc_read (granted : s.lkp.debug = true) (x : Nat) : dbgacc (.read x) s =
    if netWaits s x 1 then { s with jtag := { ir := .debug, dr := 0, wait := some x } } else dbgRead s x := by
  unfold dbgacc powered
  rw [on, granted]
  rfl

/-- A byte that is there and good is read (R649). -/
theorem dbgRead_shows {x : Nat} (there : devThere s x 1 = true) (good : netBad s x 1 = none) (run : inLoader s = false) :
    dbgRead s x = { s with jtag := { ir := .debug, dr := (memByte s x).setWidth 32, wait := none } } := by
  have word (b : Byte) : BitVec.ofNat 32 (leNat [b]) = b.setWidth 32 := by
    apply BitVec.eq_of_toNat_eq
    simp [leNat]
  have bytes : devBytes s x 1 = [memByte s x] := by
    unfold devBytes
    rw [run, if_neg Bool.false_ne_true, memBytes_one]
  unfold dbgRead
  rw [there, good, bytes, word]
  exact jtagSet_on on .debug _

/-- A byte that can be accepted at once is stored (R649). -/
theorem dbgacc_write (granted : s.lkp.debug = true) (run : inLoader s = false) {x : Nat} (there : devThere s x 1 = true)
    (ready : writeReady s .mgmt x 1 = true) (b : Byte) : dbgacc (.write x b) s = acceptMem (jtagSet s .debug 0) x [b] := by
  have stores : devPut (jtagSet s .debug 0) x [b] = acceptMem (jtagSet s .debug 0) x [b] := by
    have accepted : writeReady (jtagSet s .debug 0) .mgmt x [b].length = true := by
      rw [jtagSet_on on]
      exact ready
    have running : inLoader (jtagSet s .debug 0) = false := by
      rw [jtagSet_on on]
      exact run
    unfold devPut
    rw [running, if_neg Bool.false_ne_true]
    exact if_pos accepted
  unfold dbgacc powered
  rw [on, granted, ← stores]
  exact if_pos there

end Jtag

/-! ### I3C (R706, R708) -/

section I3c

variable {s : State} (on : i3cOn s = true) {bs : List Byte}

include on

theorem i3cPrivateWrite_on : i3cPrivateWrite bs s =
    if bs.length ≠ 8 ∧ bs.length ≠ 12 then { s with i3c := { s.i3c with status := 2, addr := none } }
    else if regsWait s then { s with i3c := { s.i3c with status := 3, addr := none } }
    else if bs.length = 8 then
      if (regAt (leAt bs 0 8)).any (fun x => i3cReads x.1) then
        { s with i3c := { s.i3c with status := 0, addr := some (leAt bs 0 8) } }
      else { s with i3c := { s.i3c with status := 1, addr := none } }
    else
      let x := i3cWrite s (leAt bs 0 8) (BitVec.ofNat 32 (leAt bs 8 4))
      { x.2 with i3c := { x.2.i3c with status := x.1, addr := none } } := by
  unfold i3cPrivateWrite
  rw [on]
  rfl

theorem i3cWrite_length (odd : bs.length ≠ 8) (odd' : bs.length ≠ 12) :
    i3cPrivateWrite bs s = { s with i3c := { s.i3c with status := 2, addr := none } } := by
  rw [i3cPrivateWrite_on on, if_pos ⟨odd, odd'⟩]

theorem i3cWrite_busy (formed : bs.length = 8 ∨ bs.length = 12) (waits : s.krg.regs ≠ []) :
    i3cPrivateWrite bs s = { s with i3c := { s.i3c with status := 3, addr := none } } := by
  have busy : regsWait s = true := by
    unfold regsWait
    simp [waits]
  rw [i3cPrivateWrite_on on, if_neg (by omega), if_pos busy]

theorem i3cWrite_address (formed : bs.length = 8) (idle : s.krg.regs = []) : i3cPrivateWrite bs s =
    if (regAt (leAt bs 0 8)).any (fun x => i3cReads x.1) then
      { s with i3c := { s.i3c with status := 0, addr := some (leAt bs 0 8) } }
    else { s with i3c := { s.i3c with status := 1, addr := none } } := by
  have free : regsWait s ≠ true := by
    unfold regsWait
    simp [idle]
  rw [i3cPrivateWrite_on on, if_neg (by omega), if_neg free, if_pos formed]

/-- A read returns the status and the value at the address that was set. -/
theorem i3cRead_reply {a i : Nat} {r : Reg} (set : s.i3c.addr = some a) (there : regAt a = some (r, i)) :
    (i3cPrivateRead s).i3c.reply = s.i3c.status :: toLe 4 (readReg s r i).1.toNat := by
  unfold i3cPrivateRead
  rw [on, set, Option.bind_some, there]
  rfl

end I3c

end Sys2Proof.Machine
end

section
/-! The pins, the test port and I3C (16_module_physical.md). -/

namespace Sys2Proof.Machine

/-- Settles O55: a switch that opens and a low RST_N cut off writing and wipe what is volatile; the ports set their own state. -/
theorem powerPinsAndSidePorts : Obligations.PowerPinsAndSidePorts := by
  unfold Obligations.PowerPinsAndSidePorts
  refine ⟨fun _ => rfl, ?close, ?fall, ?vin, ?rst, ?trip, ?jtag, ?debug, ?i3c⟩
  case close =>
    refine fun x s => ⟨fun may => ?_, fun no => ?_⟩
    · refine ⟨_, congrArg Host.Outcome.next (hotSwapClose_wipes may x), rfl, rfl, rfl, rfl, rfl, wipe_wiped s _⟩
    · exact congrArg Host.Outcome.next (if_neg (by rw [no]; exact Bool.false_ne_true))
  case fall =>
    refine fun s => ⟨fun asked closed => ?_, fun c asked closed op writes runs => ?_, fun low => ?_⟩
    · refine ⟨_, congrArg Host.Outcome.next (pwrEnFall_eq asked closed), ?_⟩
      rw [openSwitch_power]
      exact ⟨rfl, rfl, rfl, rfl, rfl, openSwitch_wiped s⟩
    · exact ⟨_, congrArg Host.Outcome.next (pwrEnFall_eq asked closed), cut_spoils op writes runs⟩
    · exact congrArg Host.Outcome.next (if_neg (by rw [low]; exact Bool.false_ne_true))
  case vin =>
    refine fun mv s => ⟨fun closed out => ?_, fun low high => ?_⟩
    · refine ⟨_, congrArg Host.Outcome.next (vinFault_out closed out), ?_⟩
      unfold modPower
      rw [openSwitch_power]
      obtain ⟨mem, regs, launches, blocks, kept, cyc, pending⟩ :=
        openSwitch_wiped { s with power := { s.power with vin := mv } }
      exact ⟨rfl, rfl, rfl, rfl, rfl, mem, regs, launches, blocks, fun settled => kept settled, cyc, pending⟩
    · exact congrArg Host.Outcome.next (if_neg (by omega))
  case rst =>
    refine fun ns s => ⟨fun on long => ?_, fun off long => congrArg Host.Outcome.next (rstNLow_off off long),
      fun short => congrArg Host.Outcome.next (rstNLow_short short)⟩
    exact ⟨_, congrArg Host.Outcome.next (rstNLow_on on long), rfl, rfl, wiped_of_cut s _⟩
  case trip =>
    refine fun s x trip => ⟨fun asked closed due => ?_, fun early => congrArg Host.Outcome.next (thermtripTimeout_early trip early)⟩
    refine ⟨_, congrArg Host.Outcome.next (thermtripTimeout_due trip asked closed due), ?_⟩
    unfold modPower
    rw [openSwitch_power]
    exact ⟨rfl, rfl, rfl, rfl, openSwitch_wiped s⟩
  case jtag =>
    exact fun s on => ⟨congrArg Host.Outcome.next (jtagSet_on on _ _), congrArg Host.Outcome.next (jtagSet_on on _ _),
      ⟨_, rfl, jtagScan_on on .sample⟩, ⟨_, rfl, jtagScan_on on .extest⟩⟩
  case debug =>
    refine fun s on => ⟨fun closed a => congrArg Host.Outcome.next (dbgacc_denied on closed a), fun granted => ⟨?_, ?_⟩⟩
    · exact ⟨_, congrArg Host.Outcome.next (dbgacc_port on granted), jtagScan_on on .debug⟩
    · refine fun x there run => ⟨fun ready good => ?_, fun held => ?_, fun ready b => ?_⟩
      · refine congrArg Host.Outcome.next ((dbgacc_read on granted x).trans ?_)
        rw [ready]
        exact dbgRead_shows on there good run
      · refine congrArg Host.Outcome.next ((dbgacc_read on granted x).trans ?_)
        rw [held]
        rfl
      · refine ⟨_, congrArg Host.Outcome.next (dbgacc_write on granted run there ready b), ?_, fun y other => ?_, ?_, ?_⟩
        · exact List.cons.inj ((memBytes_one _ x).symm.trans (memBytes_acceptMem (jtagSet s .debug 0) x [b] 0)) |>.1
        · refine (memByte_acceptMem_other (jtagSet s .debug 0) x [b] 0 y ?_).trans (by rw [jtagSet_on on]; rfl)
          simp only [List.length_singleton]
          omega
        · rw [acceptMem_frame, jtagSet_on on]
        · rw [acceptMem_frame, jtagSet_on on]
  case i3c =>
    refine fun s on => ⟨fun bs formed waits => congrArg Host.Outcome.next (i3cWrite_busy on formed waits),
      fun bs formed idle => ⟨fun reads => ?_, fun unread => ?_⟩,
      fun bs odd odd' => congrArg Host.Outcome.next (i3cWrite_length on odd odd'), fun a r i set there => ?_, ?_⟩
    · refine congrArg Host.Outcome.next ((i3cWrite_address on formed idle).trans ?_)
      rw [reads]
      rfl
    · refine congrArg Host.Outcome.next ((i3cWrite_address on formed idle).trans ?_)
      rw [unread]
      rfl
    · refine ⟨_, rfl, i3cRead_reply on set there, ?_⟩
      rw [i3cRead_reply on set there, List.length_cons, toLe_length]
    · exact congrArg Host.Outcome.next (if_pos on)

end Sys2Proof.Machine
end

section
/-! SUPPORT. Programming the flash (13_boot_keyring.md, R580-R583, R606, R610, R611). -/

namespace Sys2Proof.Machine

/-! ### RESULT and PROGRESS -/

theorem setResult_shows (s : State) {v : Nat} (small : v < 16) : rfld (setResult s v) .krgStat 0 27 24 = v :=
  (rfld_wfld_same s .krgStat 0 v (by decide)).trans (Nat.mod_eq_of_lt small)

theorem setResult_progress (s : State) {v : Nat} (p : Nat) (small : v < 16) :
    rfld (wfld (setResult s v) .krgStat 0 13 0 p) .krgStat 0 27 24 = v :=
  (rfld_wfld_field (setResult s v) .krgStat 0 p (by decide) (.inl (by decide))).trans (setResult_shows s small)

theorem setResult_regsBut (s : State) (v : Nat) : RegsBut [regAddr .krgStat 0] s (setResult s v) := wfld_regsBut s .krgStat 0 27 24 v

theorem startProg_krg (s : State) (op : FlashOp) :
    (startProg s op).krg = { s.krg with op := some op, waits := grantWrites s } := rfl

theorem startProg_frame (s : State) (op : FlashOp) :
    startProg s op = { s with regs := (startProg s op).regs, krg := (startProg s op).krg } := rfl

theorem startProg_result (s : State) (op : FlashOp) : rfld (startProg s op) .krgStat 0 27 24 = 1 :=
  setResult_progress s 0 (by decide)

theorem startProg_progress (s : State) (op : FlashOp) : rfld (startProg s op) .krgStat 0 13 0 = 0 :=
  rfld_wfld_same (setResult s 1) .krgStat 0 0 (by decide)

theorem startProg_regsBut (s : State) (op : FlashOp) : RegsBut [regAddr .krgStat 0] s (startProg s op) :=
  (setResult_regsBut s 1).trans (wfld_regsBut _ .krgStat 0 13 0 0)

/-! ### CFGPROG and FWINSTALL -/

theorem askCfgprog_held {s : State} (on : mgmtOn s = true) (busy : s.krg.op.isSome = true) :
    askCfgprog s = hold s .cfgprog := by
  unfold askCfgprog
  rw [on, busy]
  rfl

theorem askFwinstall_held {s : State} (on : mgmtOn s = true) (busy : s.krg.op.isSome = true) :
    askFwinstall s = hold s .fwinstall := by
  unfold askFwinstall
  rw [on, busy]
  rfl

theorem askFwinstall_free {s : State} (on : mgmtOn s = true) (free : s.krg.op = none) : askFwinstall s = fwinstallNow s := by
  unfold askFwinstall
  rw [on, free]
  rfl

/-- A source that is there and good is checked, and programmed if it is in order (R583). -/
theorem askCfgprog_checks {s : State} (on : mgmtOn s = true) (free : s.krg.op = none)
    (there : devThere s (krgSource s) 64 = true) (good : netBad s (krgSource s) 64 = none) : askCfgprog s =
      if cfgOk (devBytes s (krgSource s) 64) then startProg s (.cfg (devBytes s (krgSource s) 64)) else setResult s 6 := by
  have now : askCfgprog s = cfgprogNow s := by
    unfold askCfgprog
    rw [on, free]
    rfl
  rw [now]
  unfold cfgprogNow
  dsimp only
  rw [there, good]
  rfl

/-- Whatever the source holds, FWINSTALL begins programming, or refuses with RESULT 2, 3 or 4; it writes no flash (R610). -/
theorem fwinstallNow_outcome (s : State) :
    (∃ h img, fwCheck s h img = .good ∧ fwinstallNow s = startProg s (.fw h img)) ∨
      ∃ v regs hlt, v ∈ [2, 3, 4] ∧ fwinstallNow s = setResult { s with regs := regs, hlt := hlt } v := by
  have same (v : Nat) : setResult s v = setResult { s with regs := s.regs, hlt := s.hlt } v := rfl
  unfold fwinstallNow
  dsimp only
  split
  · exact .inr ⟨4, s.regs, s.hlt, by decide, same 4⟩
  · split
    · obtain ⟨regs, hlt, logged⟩ := logBad_frame s (krgSource s) (rfld s .krgSrclen 0 14 0 * 4096)
      exact .inr ⟨2, regs, hlt, by decide, by rw [logged]⟩
    · split
      · exact .inr ⟨4, s.regs, s.hlt, by decide, same 4⟩
      · split
        · exact .inl ⟨_, _, ‹_›, rfl⟩
        · exact .inr ⟨3, s.regs, s.hlt, by decide, same 3⟩
        · exact .inr ⟨2, s.regs, s.hlt, by decide, same 2⟩

/-- A source of a header and an image of the stated length is judged by the firmware check (R610, R611, R647). -/
theorem fwinstallNow_checks {s : State} {h img : List Byte}
    (there : devThere s (krgSource s) (rfld s .krgSrclen 0 14 0 * 4096) = true)
    (good : netBad s (krgSource s) (rfld s .krgSrclen 0 14 0 * 4096) = none)
    (holds : devBytes s (krgSource s) (rfld s .krgSrclen 0 14 0 * 4096) = h ++ img) (header : h.length = 65536)
    (fits : ilenOk (fwIlen h) = true) (whole : fwIlen h = img.length) : fwinstallNow s =
      if fwCheck s h img = .good then startProg s (.fw h img)
      else if fwCheck s h img = .rollback then setResult s 3 else setResult s 2 := by
  have length : (devBytes s (krgSource s) (rfld s .krgSrclen 0 14 0 * 4096)).length = rfld s .krgSrclen 0 14 0 * 4096 := by
    unfold devBytes memBytes
    split
    · rw [List.length_map, List.length_range]
    · exact srange_length _ _ _ _
  rw [holds, List.length_append] at length
  have long : ¬ rfld s .krgSrclen 0 14 0 * 4096 < fwHeaderLen := by
    unfold fwHeaderLen
    omega
  have first : (h ++ img).take fwHeaderLen = h := List.take_left' header
  have rest : (h ++ img).drop fwHeaderLen = img := List.drop_left' header
  unfold fwinstallNow
  dsimp only
  rw [there, good, if_neg (by simpa using long)]
  dsimp only
  rw [holds, first, rest, fits, if_neg (by simpa using whole)]
  cases fwCheck s h img <;> rfl

/-! ### The end of programming -/

/-- With nothing held, what is released is the device as it stands. -/
theorem releaseHeld_none {s : State} (free : s.krg.held = []) : releaseHeld s = s := by
  unfold releaseHeld
  rw [free]
  unfold proceed
  rw [← free]

section Done

variable {s : State} (runs : s.krg.waits = false) (free : s.krg.held = [])

include runs free

/-- The configuration block is in the flash, or free bytes are (R583). -/
theorem cfgprogDone_ends {c : List Byte} (op : s.krg.op = some (.cfg c)) (ok : Bool) :
    ∃ cfg freeCtr, (ok = true → cfg = c) ∧ cfgprogDone ok s = wfld (setResult { s with
      flash := { s.flash with cfg := cfg }, krg := { s.krg with op := none }, freeCtr := freeCtr }
      (if ok then 0 else 5)) .krgStat 0 13 0 1 := by
  unfold cfgprogDone
  rw [op, runs]
  cases ok
  · exact ⟨(spoil s 64).1, s.freeCtr + 64, by simp, releaseHeld_none free⟩
  · exact ⟨c, s.freeCtr, fun _ => rfl, releaseHeld_none free⟩

end Done

/-- The header and the image stand in the flash, or free bytes do, with RESULT and PROGRESS (R611, Table 13.8). -/
def fwProgrammed (ok : Bool) (h img : List Byte) (s : State) : State :=
  let d := spoil s (h.length + img.length)
  let t := if ok then { s with flash := { s.flash with hdr := h, image := img } }
    else { d.2 with flash := { s.flash with hdr := d.1.take h.length, image := d.1.drop h.length } }
  let t := { t with krg := { t.krg with op := none } }
  wfld (setResult t (if ok then 0 else 5)) .krgStat 0 13 0 (1 + (img.length + 65535) / 65536)

theorem fwinstallDone_eq {s : State} {h img : List Byte} (op : s.krg.op = some (.fw h img)) (runs : s.krg.waits = false)
    (ok : Bool) : fwinstallDone ok s =
      let t := if ok then lifeAdd (fwProgrammed ok h img s) 24 32 4 1 else fwProgrammed ok h img s
      if ok ∧ inLoader t then coldReset t else releaseHeld t := by
  unfold fwinstallDone
  rw [op, runs]
  rfl

theorem fwProgrammed_frame (ok : Bool) (h img : List Byte) (s : State) : ∃ regs flash freeCtr,
    (ok = true → flash = { s.flash with hdr := h, image := img }) ∧ fwProgrammed ok h img s =
      { s with regs := regs, flash := flash, krg := { s.krg with op := none }, freeCtr := freeCtr } := by
  cases ok
  · exact ⟨_, _, _, by simp, rfl⟩
  · exact ⟨_, _, _, fun _ => rfl, rfl⟩

theorem fwProgrammed_result (ok : Bool) (h img : List Byte) (s : State) :
    rfld (fwProgrammed ok h img s) .krgStat 0 27 24 = if ok then 0 else 5 := by
  cases ok
  · exact setResult_progress (v := 5) _ _ (by decide)
  · exact setResult_progress (v := 0) _ _ (by decide)

/-- The end of an installation outside the recovery loader, with nothing held (R611). -/
theorem fwinstallDone_ends {s : State} {h img : List Byte} (runs : s.krg.waits = false) (free : s.krg.held = [])
    (op : s.krg.op = some (.fw h img)) (on : inLoader s = false) (ok : Bool) : let t := fwinstallDone ok s
    (ok = true → t.flash = { s.flash with hdr := h, image := img }) ∧ t.krg.op = none ∧
      rfld t .krgStat 0 27 24 = (if ok then 0 else 5) ∧ t.mem = s.mem := by
  have result := fwProgrammed_result ok h img s
  obtain ⟨regs, flash, freeCtr, programmed, frame⟩ := fwProgrammed_frame ok h img s
  rw [frame] at result
  have stays : fwinstallDone ok s = if ok then lifeAdd (fwProgrammed ok h img s) 24 32 4 1 else fwProgrammed ok h img s := by
    have out : inLoader (if ok then lifeAdd (fwProgrammed ok h img s) 24 32 4 1 else fwProgrammed ok h img s) = false := by
      rw [frame]
      cases ok <;> exact on
    rw [fwinstallDone_eq op runs]
    dsimp only
    rw [out, if_neg (by simp), releaseHeld_none]
    rw [frame]
    cases ok <;> exact free
  intro t
  rw [show t = _ from stays, frame]
  cases ok
  · exact ⟨by simp, rfl, result, rfl⟩
  · exact ⟨fun _ => programmed rfl, rfl, result, rfl⟩


end Sys2Proof.Machine
end

section
/-! SUPPORT. Submissions and grants (14_lockplate_security.md, R633-R641). -/

namespace Sys2Proof.Machine

theorem setLkpResult_shows (s : State) {v : Nat} (small : v < 16) : rfld (setLkpResult s v) .lkpStat 0 30 27 = v :=
  (rfld_wfld_same s .lkpStat 0 v (by decide)).trans (Nat.mod_eq_of_lt small)

/-! ### SUBMIT, CLOSE, DEVCERT and ATTEST -/

section Ready

variable {s : State} (ready : s.power.phase = .ready)

include ready

theorem submit_busy (busy : s.lkp.op.isSome = true) : submit s = overlap s := by
  unfold submit
  rw [if_neg (by rw [ready]; simp), if_pos busy]

theorem closeLk_busy (busy : s.lkp.op.isSome = true) : closeLk s = overlap s := by
  unfold closeLk
  rw [if_neg (by rw [ready]; simp), if_pos busy]

theorem devcert_busy (busy : s.lkp.op.isSome = true) : devcert s = overlap s := by
  unfold devcert
  rw [if_neg (by rw [ready]; simp), if_pos busy]

theorem attest_busy (busy : s.lkp.op.isSome = true) : attest s = overlap s := by
  unfold attest
  rw [if_neg (by rw [ready]; simp), if_pos busy]

variable (free : s.lkp.op = none)

include free

/-- A submission begins; one that passes the check of its form uses the nonce up (R633, R634). -/
theorem submit_begins : ∃ op : LkpOp, submit s = setLkpResult { s with
    lkp := { s.lkp with nonce := if (readRequest s).isSome then none else s.lkp.nonce, op := some op } } 1 := by
  unfold submit
  rw [if_neg (by rw [ready]; simp), if_neg (by rw [free]; simp)]
  exact ⟨_, rfl⟩

theorem closeLk_closes : closeLk s = { s with lkp := { s.lkp with grant := none } } := by
  unfold closeLk
  rw [if_neg (by rw [ready]; simp), if_neg (by rw [free]; simp)]

theorem devcert_begins : devcert s = { s with lkp := { s.lkp with op := some (.devcert (lkpOut s)) } } := by
  unfold devcert
  rw [if_neg (by rw [ready]; simp), if_neg (by rw [free]; simp)]

theorem attest_held (held : netWaits s (lkpOut s) 32 = true) :
    attest s = { s with lkp := { s.lkp with op := some (.attest (lkpOut s) none) } } := by
  unfold attest
  rw [if_neg (by rw [ready]; simp), if_neg (by rw [free]; simp)]
  dsimp only
  rw [held]
  rfl

/-- A nonce that can be read is read at once; a bad one is logged (R648). -/
theorem attest_reads (open_ : netWaits s (lkpOut s) 32 = false) : attest s =
    { (if devThere s (lkpOut s) 32 ∧ (netBad s (lkpOut s) 32).isSome then logBad s (lkpOut s) 32 else s) with
      lkp := { s.lkp with op := some (.attest (lkpOut s) (some (nonceAt s (lkpOut s)))) } } := by
  obtain ⟨regs, hlt, logged⟩ := logBad_frame s (lkpOut s) 32
  unfold attest
  rw [if_neg (by rw [ready]; simp), if_neg (by rw [free]; simp)]
  dsimp only
  rw [open_, logged]
  simp only [Bool.false_eq_true, if_false, Option.isSome_some, true_and]
  split <;> rfl

end Ready

theorem overlap_shows (s : State) : rfld (overlap s) .lkpStat 0 20 20 = 1 ∧ RegsBut [regAddr .lkpStat 0] s (overlap s) ∧
    overlap s = { s with regs := (overlap s).regs } :=
  ⟨rfld_wfld_same s .lkpStat 0 1 (by decide), wfld_regsBut s .lkpStat 0 20 20 1, rfl⟩

theorem nonceAt_good {s : State} {a : Nat} (there : devThere s a 32 = true) (good : netBad s a 32 = none) :
    nonceAt s a = devBytes s a 32 := by
  unfold nonceAt
  rw [there, good]
  rfl

theorem nonceAt_bad {s : State} {a : Nat} (bad : devThere s a 32 = false ∨ (netBad s a 32).isSome = true) :
    nonceAt s a = [] := by
  unfold nonceAt
  rcases bad with out | bad
  · rw [out]
    rfl
  · refine if_neg fun fine => ?_
    rw [Option.isNone_iff_eq_none] at fine
    rw [fine.2] at bad
    exact Bool.false_ne_true bad

/-! ### GRANT_APPLIED (R636) -/

theorem lkpDone_free {s : State} (free : s.krg.held = []) :
    lkpDone s = { s with lkp := { s.lkp with op := none }, krg := { s.krg with waits := false } } :=
  releaseHeld_none free

theorem imgValid_congr {s t : State} (fuses : t.fuses = s.fuses) (g : List Byte) : imgValid t g = imgValid s g := by
  unfold imgValid
  rw [fuses]

theorem imgValid_nil (s : State) : imgValid s [] = false := rfl

/-- A failed read-back leaves no valid image in the copy that is not current (R636, log 121). -/
theorem spoilCopy_spoils (s : State) : ∃ x : List Byte, imgValid s x = false ∧ spoilCopy s = setLkpResult { s with
    flash := if s.lkp.which = 0 then { s.flash with copyB := x } else { s.flash with copyA := x },
    freeCtr := s.freeCtr + lkpLen } 0xA := by
  refine ⟨if imgValid s (drawBytes s lkpLen).1 then [] else (drawBytes s lkpLen).1, ?_, rfl⟩
  split
  · exact imgValid_nil s
  · exact Bool.eq_false_of_not_eq_true ‹_›

section Applied

variable {s : State} {r : Nat} {flag : Bool} {body : List Byte} (free : s.krg.held = []) (ok : ReadBack)

include free

theorem grantApplied_refused {k : Nat} (op : s.lkp.op = some (.grant k r flag body)) (refused : r ≠ 0) : grantApplied ok s =
    { setLkpResult s r with lkp := { s.lkp with op := none }, krg := { s.krg with waits := false } } := by
  unfold grantApplied
  rw [op]
  dsimp only
  rw [if_pos refused]
  exact lkpDone_free free

omit free in
/-- A grant whose checks have passed is applied, unless its images wait for the flash. -/
theorem grantApplied_applies {k : Nat} (op : s.lkp.op = some (.grant k 0 flag body))
    (may : grantWrites s = false ∨ krgBusy s = false) : grantApplied ok s = lkpDone (applyGrant s k flag body ok) := by
  have goes : ¬ (grantWrites s = true ∧ krgBusy s = true) := by
    rintro ⟨writes, busy⟩
    rcases may with no | no
    · exact Bool.false_ne_true (no.symm.trans writes)
    · exact Bool.false_ne_true (no.symm.trans busy)
  unfold grantApplied
  rw [op]
  exact (if_neg (by simp)).trans (if_neg goes)

omit free in
theorem grantWrites_grant {k : Nat} (op : s.lkp.op = some (.grant k 0 flag body)) :
    grantWrites s = (decide (k ≠ 6) && decide (k ≠ 7) && decide (k ≠ 9)) := by
  unfold grantWrites
  rw [op]
  rfl

theorem grantApplied_floor (op : s.lkp.op = some (.grant 7 0 flag body)) : grantApplied ok s =
    { setLkpResult { s with fuses := { s.fuses with svn := max s.fuses.svn (leAt body 0 1) } } 0 with
      lkp := { s.lkp with op := none }, krg := { s.krg with waits := false } } :=
  (grantApplied_applies ok op (.inl ((grantWrites_grant op).trans rfl))).trans (lkpDone_free free)

theorem grantApplied_opens (op : s.lkp.op = some (.grant 6 0 flag body)) : grantApplied ok s =
    { setLkpResult s 0 with
      lkp := { s.lkp with op := none, grant := some ⟨(List.range (leAt body 0 2)).map (fun i => leAt body (64 + 8 * i) 8),
        s.cyc + leAt body 2 2 * 100000000⟩ }, krg := { s.krg with waits := false } } :=
  (grantApplied_applies ok op (.inl ((grantWrites_grant op).trans rfl))).trans (lkpDone_free free)

variable (op : s.lkp.op = some (.grant 2 0 flag body)) (idle : krgBusy s = false)

include op idle

theorem grantApplied_writes (reads : ok.first = true) : grantApplied ok s =
    { setLkpResult (writeGrant s flag (grantImg s 2 flag body)) 0 with
      lkp := { (writeGrant s flag (grantImg s 2 flag body)).lkp with op := none }, krg := { s.krg with waits := false } } := by
  have applied : applyGrant s 2 flag body ok = setLkpResult (writeGrant s flag (grantImg s 2 flag body)) 0 := by
    unfold applyGrant
    rw [reads]
    rfl
  have krg : (writeGrant s flag (grantImg s 2 flag body)).krg = s.krg := by
    unfold writeGrant
    split <;> rfl
  rw [grantApplied_applies ok op (.inr idle), applied,
    lkpDone_free (s := setLkpResult (writeGrant s flag (grantImg s 2 flag body)) 0)
      ((congrArg Krg.held krg).trans free), ← krg]
  rfl

theorem grantApplied_spoils (fails : ok.first = false) : grantApplied ok s =
    { spoilCopy s with lkp := { s.lkp with op := none }, krg := { s.krg with waits := false } } := by
  have applied : applyGrant s 2 flag body ok = spoilCopy s := by
    unfold applyGrant
    rw [fails]
    rfl
  rw [grantApplied_applies ok op (.inr idle), applied]
  exact lkpDone_free free

end Applied

theorem grantExpiry_due {s : State} {g : LkGrant} (granted : s.lkp.grant = some g) (due : g.closes ≤ s.cyc) :
    grantExpiry s = { s with lkp := { s.lkp with grant := none } } := by
  unfold grantExpiry
  rw [granted]
  exact if_pos due

theorem grantExpiry_early {s : State} {g : LkGrant} (granted : s.lkp.grant = some g) (early : s.cyc < g.closes) :
    grantExpiry s = s := by
  unfold grantExpiry
  rw [granted]
  exact if_neg (by omega)

/-- The new image is current, in the other copy; where EPOCH rose a fuse is blown (R636). -/
theorem writeGrant_current (s : State) (adv : Bool) (g : List Byte) : let t := writeGrant s adv g
    t.lkp = { s.lkp with img := sealImg g, which := if s.lkp.which = 0 then 1 else 0, scrubDue := imgScrubDue (sealImg g) } ∧
      (if s.lkp.which = 0 then t.flash.copyB else t.flash.copyA) = sealImg g ∧
      t.fuses = { s.fuses with epoch := s.fuses.epoch + (if adv then 1 else 0) } ∧ t.mem = s.mem := by
  have copy : (if s.lkp.which = 0 then (writeImg s g).flash.copyB else (writeImg s g).flash.copyA) = sealImg g := by
    unfold writeImg
    by_cases first : s.lkp.which = 0
    · simp [first]
    · simp [first]
  cases adv
  · exact ⟨rfl, copy, rfl, rfl⟩
  · exact ⟨rfl, copy, rfl, rfl⟩

end Sys2Proof.Machine
end

section
/-! SUPPORT. Reports and certificates (14_lockplate_security.md, R648, Table 14.10). -/

namespace Sys2Proof.Machine

theorem fit_length (f : Byte) (n : Nat) (l : List Byte) : (fit f n l).length = n := by
  unfold fit
  rw [List.length_take, List.length_append, List.length_replicate]
  omega

theorem reportHead_length (s : State) (nonce : List Byte) : (reportHead s nonce).length = 512 := by
  unfold reportHead
  simp only [List.length_append, toLe_length, fit_length, sha3_length]

/-- A report has 12,416 bytes (Table 14.10). -/
theorem report_length (s : State) (nonce : List Byte) : (report s nonce).length = 12416 := by
  unfold report
  simp only [List.length_append, reportHead_length, toLe_length, fit_length]

/-- What stands where LKP_OUT pointed is written there, and no other byte changes. -/
theorem putOut_writes {s : State} {a n : Nat} {bs : List Byte} (run : inLoader s = false) (length : bs.length = n)
    (there : devThere s a n = true) (takes : MemTakes s) : putOut s a bs = acceptMem s a bs 0 := by
  unfold putOut devPut
  rw [length, if_pos there, run, if_neg Bool.false_ne_true]
  exact putMem_of_takes takes a bs 0 0

theorem outWaits_of_takes {s : State} (takes : MemTakes s) (a n : Nat) : outWaits s a n = false := by
  unfold outWaits
  rw [writeEnds_of_takes takes]
  exact Bool.and_false _

section Attest

variable {s : State} {a : Nat}

theorem attestDone_devcert (op : s.lkp.op = some (.devcert a)) (goes : outWaits s a 16384 = false) :
    attestDone true s = lkpDone (putOut s a (fit 0xFF 16384 s.flash.cert)) := by
  unfold attestDone
  rw [op]
  dsimp only
  rw [goes]
  rfl

theorem attestDone_report {n : List Byte} (op : s.lkp.op = some (.attest a (some n))) (goes : outWaits s a 12416 = false)
    (ok : Bool) : attestDone ok s = lkpDone (if ok = true ∧ n ≠ [] then putOut s a (report s n) else s) := by
  unfold attestDone
  rw [op]
  dsimp only
  rw [goes]
  exact if_neg (by simp)

theorem attestDone_waits {n : Option (List Byte)} (op : s.lkp.op = some (.attest a n))
    (waits : outWaits s a 12416 = true ∨ (n = none ∧ netWaits s a 32 = true)) (ok : Bool) : attestDone ok s = s := by
  unfold attestDone
  rw [op]
  dsimp only
  refine if_pos ?_
  rcases waits with out | ⟨rfl, held⟩
  · exact .inr out
  · exact .inl ⟨rfl, held⟩

end Attest

/-- A write of the device itself, then the engine is free again. -/
theorem lkpDone_acceptMem {s : State} (free : s.krg.held = []) (a : Nat) (bs : List Byte) :
    lkpDone (acceptMem s a bs 0) = { acceptMem s a bs 0 with lkp := { s.lkp with op := none }, krg := { s.krg with waits := false } } ∧
      ∀ p k, memBytes { acceptMem s a bs 0 with lkp := p, krg := k } a bs.length = bs ∧
        ∀ x, x < a ∨ a + bs.length ≤ x → memByte { acceptMem s a bs 0 with lkp := p, krg := k } x = memByte s x := by
  refine ⟨?_, fun p k => ⟨memBytes_acceptMem s a bs 0, fun x out => memByte_acceptMem_other s a bs 0 x out⟩⟩
  rw [lkpDone_free (by rw [acceptMem_frame]; exact free), acceptMem_frame]

end Sys2Proof.Machine
end

section
/-! Flash programming, grants and reports (13_boot_keyring.md, 14_lockplate_security.md). -/

namespace Sys2Proof.Machine

/-- Settles O57: programming, submissions and reports end as their parts give, with nothing held to go on. -/
theorem flashAndGrants : Obligations.FlashAndGrants := by
  unfold Obligations.FlashAndGrants
  refine ⟨?program, ?done, ?submit, ?grant, ?expiry, ?report⟩
  case program =>
    refine fun s on => ⟨fun busy => ?_, fun free => ⟨fun there good => ?_, ?_, fun h img there good holds header fits whole => ?_⟩⟩
    · exact ⟨congrArg Host.Outcome.next (askCfgprog_held on busy), congrArg Host.Outcome.next (askFwinstall_held on busy)⟩
    · have checks := askCfgprog_checks on free there good
      cases ordered : cfgOk (devBytes s (krgSource s) 64)
      · rw [ordered, if_neg Bool.false_ne_true] at checks
        exact ⟨_, congrArg Host.Outcome.next checks, setResult_regsBut s 6, rfl, fun yes => absurd yes Bool.false_ne_true,
          fun _ => ⟨rfl, setResult_shows s (by decide)⟩⟩
      · rw [ordered, if_pos rfl] at checks
        exact ⟨_, congrArg Host.Outcome.next checks, startProg_regsBut s _, startProg_frame s _,
          fun _ => ⟨rfl, startProg_result s _⟩, fun no => absurd no.symm Bool.false_ne_true⟩
    · refine ⟨_, congrArg Host.Outcome.next (askFwinstall_free on free), ?_⟩
      rcases fwinstallNow_outcome s with ⟨h, img, good, begins⟩ | ⟨v, regs, hlt, code, refuses⟩
      · rw [begins]
        exact ⟨rfl, rfl, rfl, .inl ⟨h, img, rfl, good, startProg_result s _⟩⟩
      · rw [refuses]
        refine ⟨rfl, rfl, rfl, .inr ⟨rfl, ?_⟩⟩
        rw [setResult_shows]
        · exact code
        · simp at code
          omega
    · have checks := (askFwinstall_free on free).trans (fwinstallNow_checks there good holds header fits whole)
      refine ⟨fun pass => ?_, fun bad => ?_, fun old => ?_⟩
      · rw [pass] at checks
        exact ⟨_, congrArg Host.Outcome.next checks, startProg_krg s _, startProg_result s _, startProg_progress s _,
          startProg_regsBut s _, startProg_frame s _⟩
      · rw [bad] at checks
        exact congrArg Host.Outcome.next checks
      · rw [old] at checks
        exact congrArg Host.Outcome.next checks
  case done =>
    refine fun s runs free => ⟨fun c op => ⟨?_, ?_⟩, fun h img op on => ⟨?_, ?_⟩⟩
    · obtain ⟨cfg, freeCtr, programmed, ends⟩ := cfgprogDone_ends runs free op true
      rw [programmed rfl] at ends
      exact ⟨_, congrArg Host.Outcome.next ends, rfl, rfl, setResult_progress _ 1 (by decide), rfl⟩
    · obtain ⟨cfg, freeCtr, -, ends⟩ := cfgprogDone_ends runs free op false
      exact ⟨_, congrArg Host.Outcome.next ends, rfl, rfl, setResult_progress _ 1 (by decide), rfl⟩
    · obtain ⟨programmed, idle, result, mem⟩ := fwinstallDone_ends runs free op on true
      exact ⟨_, rfl, programmed rfl, idle, result, mem⟩
    · exact ⟨_, rfl, (fwinstallDone_ends runs free op on false).2⟩
  case submit =>
    refine fun s ready => ⟨fun free => ⟨?_, ?_, ?_, fun held => ?_, fun open_ there good => ?_, fun open_ bad => ?_⟩,
      fun busy i asks => ?_⟩
    · obtain ⟨op, begins⟩ := submit_begins ready free
      refine ⟨_, congrArg Host.Outcome.next begins, rfl, setLkpResult_shows _ (by decide), rfl, fun formed => if_pos formed,
        fun broken => if_neg (by rw [broken]; exact Bool.false_ne_true), (wfld_regsBut s .lkpStat 0 30 27 1).congr rfl rfl, rfl⟩
    · exact congrArg Host.Outcome.next (closeLk_closes ready free)
    · exact congrArg Host.Outcome.next (devcert_begins ready free)
    · exact congrArg Host.Outcome.next (attest_held ready free held)
    · refine congrArg Host.Outcome.next ((attest_reads ready free open_).trans ?_)
      rw [nonceAt_good there good, good, if_neg (by simp)]
    · refine ⟨_, congrArg Host.Outcome.next (attest_reads ready free open_), ?_, ?_⟩
      · rw [nonceAt_bad bad]
      · obtain ⟨regs, hlt, logged⟩ := logBad_frame s (lkpOut s) 32
        rw [logged]
        split <;> rfl
    · have tells : exec i s = .next (overlap s) := by
        simp only [List.mem_cons, List.not_mem_nil, or_false] at asks
        rcases asks with rfl | rfl | rfl | rfl
        · exact congrArg Host.Outcome.next (submit_busy ready busy)
        · exact congrArg Host.Outcome.next (closeLk_busy ready busy)
        · exact congrArg Host.Outcome.next (devcert_busy ready busy)
        · exact congrArg Host.Outcome.next (attest_busy ready busy)
      exact ⟨_, tells, overlap_shows s⟩
  case grant =>
    refine fun ok s k r flag body op free => ⟨fun refused small => ?_, fun zero kind => ?_, fun zero kind => ?_,
      fun zero kind idle reads => ?_, fun zero kind idle fails => ?_⟩
    · exact ⟨_, congrArg Host.Outcome.next (grantApplied_refused free ok op refused), setLkpResult_shows s small, rfl, rfl, rfl, rfl⟩
    · subst zero kind
      exact ⟨_, congrArg Host.Outcome.next (grantApplied_floor free ok op), setLkpResult_shows _ (by decide), rfl, rfl, rfl⟩
    · subst zero kind
      exact ⟨_, _, congrArg Host.Outcome.next (grantApplied_opens free ok op), rfl, rfl, by simp, rfl, rfl⟩
    · subst zero kind
      obtain ⟨lkp, copy, fuses, mem⟩ := writeGrant_current s flag (grantImg s 2 flag body)
      refine ⟨_, congrArg Host.Outcome.next (grantApplied_writes free ok op idle reads), setLkpResult_shows _ (by decide), rfl,
        congrArg Lkp.img lkp, congrArg Lkp.which lkp, copy.trans (congrArg Lkp.img lkp).symm, fuses, mem⟩
    · subst zero kind
      obtain ⟨x, invalid, spoils⟩ := spoilCopy_spoils s
      refine ⟨_, congrArg Host.Outcome.next (grantApplied_spoils free ok op idle fails), ?_⟩
      rw [spoils]
      refine ⟨setLkpResult_shows _ (by decide), rfl, rfl, ?_, ?_⟩
      · by_cases first : s.lkp.which = 0
        · simp [first]
        · simp [first]
      · refine (imgValid_congr (s := s) (by rfl) _).trans ?_
        by_cases first : s.lkp.which = 0
        · simpa [first] using invalid
        · simpa [first] using invalid
  case expiry =>
    exact fun s g granted => ⟨fun due => congrArg Host.Outcome.next (grantExpiry_due granted due),
      fun early => congrArg Host.Outcome.next (grantExpiry_early granted early)⟩
  case report =>
    refine fun s a free run => ⟨fun op there takes => ?_, fun n op asked there takes => ?_, fun op goes ok => ?_,
      fun n op waits ok => congrArg Host.Outcome.next (attestDone_waits op waits ok)⟩
    · obtain ⟨done, written⟩ := lkpDone_acceptMem free a (fit 0xFF 16384 s.flash.cert)
      rw [fit_length] at written
      refine ⟨_, congrArg Host.Outcome.next (((attestDone_devcert op (outWaits_of_takes takes a 16384)).trans
        (congrArg lkpDone (putOut_writes run (fit_length _ _ _) there takes))).trans done), ?_, ?_, rfl⟩
      · exact (written _ _).1
      · exact (written _ _).2
    · obtain ⟨done, written⟩ := lkpDone_acceptMem free a (report s n)
      rw [report_length] at written
      refine ⟨_, congrArg Host.Outcome.next (((attestDone_report op (outWaits_of_takes takes a 12416) true).trans ?_).trans done),
        rfl, ?_, ?_⟩
      · rw [if_pos ⟨rfl, asked⟩, putOut_writes run (report_length s n) there takes]
      · exact (written _ _).1
      · exact (written _ _).2
    · have ends := attestDone_report op goes ok
      rw [if_neg (by simp), lkpDone_free free] at ends
      exact ⟨_, congrArg Host.Outcome.next ends, rfl, rfl⟩

end Sys2Proof.Machine
end

section
/-! Resets and start-up (13_boot_keyring.md, R600, R606; Table 13.5). -/

namespace Sys2Proof.Machine

/-- A ready device that has applied one commit of the device group. -/
def onceCommitted : State :=
  wfld { State.reset with power := { State.reset.power with phase := .ready } } .devCommit 0 31 16 1

theorem onceCommitted_count : commitFld onceCommitted .dev 31 16 = 1 :=
  rfld_wfld_same _ .devCommit 0 1 (by decide)

/-- A register that the device has once stands at one address, whatever index it is asked for with (R725). -/
theorem regAddr_devCommit (i : Nat) : regAddr .devCommit i = regAddr .devCommit 0 := by
  unfold regAddr
  simp [regPlace]

theorem rreg_devCommit (s : State) (i : Nat) : rreg s .devCommit i = rreg s .devCommit 0 := by
  unfold rreg
  rw [regAddr_devCommit]

theorem groupCommit_ne_devCommit (g : Group) : groupCommit g ≠ (.devCommit, 1) := by
  cases g <;> simp [groupCommit]

/-- Refutes O56: its clause of WARM says that every pair of a register and an index other than a group's commit reads its reset value,
and the pair of DEV_COMMIT and index 1 names DEV_COMMIT itself, whose count of applied commits WARM keeps, as the clause before it
says: after one commit, that pair reads a count of 1 where its reset value has 0. -/
theorem not_resetsAndStartUp : ¬ Obligations.ResetsAndStartUp := by
  unfold Obligations.ResetsAndStartUp
  rintro ⟨resets, -⟩
  obtain ⟨-, t, -, -, -, -, counts, others, -⟩ := (resets onceCommitted rfl).1 rfl
  have reset : rreg t .devCommit 0 = regReset .devCommit :=
    (rreg_devCommit t 1).symm.trans (others .devCommit 1 groupCommit_ne_devCommit)
  have kept : commitFld t .dev 31 16 = 1 := (counts .dev).trans onceCommitted_count
  have shown : commitFld t .dev 31 16 = getF (regReset .devCommit) 31 16 := congrArg (getF · 31 16) reset
  exact absurd (kept.symm.trans shown) (by decide)

end Sys2Proof.Machine
end
